-- ==== Sys2Proof/Word.lean ====
section
/-! DEFINITION. The word types of the Glaenarath G2 and the sparse tables in which the state keeps
registers, memory and queues by number. -/

namespace Sys2Proof

/-- One byte. -/
abbrev Byte := BitVec 8
/-- A 64-bit scalar register, CSR or memory word. -/
abbrev W64 := BitVec 64
/-- A 32-bit lane or instruction word. -/
abbrev W32 := BitVec 32

/-- A vector register: sixteen 32-bit lanes (lane `i` in bits `32i+31:32i`, R181) and one empty bit per
lane (R187). -/
structure VReg where
  val : BitVec 512
  emp : BitVec 16
  deriving DecidableEq, Repr

/-- The vector register that a cluster holds before anything has written it. Log entry 2, DESIGN CHOICE. -/
def VReg.zero : VReg := ⟨0#512, 0#16⟩

/-- A sparse table: numbered entries with strictly rising numbers, none of which holds the value that an
unlisted number reads as. -/
abbrev Tab (α : Type) := List (Nat × α)

namespace Tab
variable {α : Type}

/-- The entry numbered `k`, or `d` where none is listed. -/
def get (d : α) : Tab α → Nat → α
  | [], _ => d
  | (j, a) :: t, k => if j = k then a else if k < j then d else get d t k

/-- Removes the entry numbered `k`. -/
def del : Tab α → Nat → Tab α
  | [], _ => []
  | (j, a) :: t, k => if j = k then t else if k < j then (j, a) :: t else (j, a) :: del t k

/-- Lists `a` under `k`, in place of what stood there. -/
def ins : Tab α → Nat → α → Tab α
  | [], k, a => [(k, a)]
  | (j, b) :: t, k, a =>
    if j = k then (k, a) :: t else if k < j then (k, a) :: (j, b) :: t else (j, b) :: ins t k a

/-- Writes `a` at `k`, keeping the canonical form: the value an unlisted number reads as is not listed. -/
def set [DecidableEq α] (d : α) (t : Tab α) (k : Nat) (a : α) : Tab α :=
  if a = d then del t k else ins t k a

/-- Whether every listed number is above `k`. -/
def above (k : Nat) : Tab α → Bool
  | [] => true
  | (j, _) :: _ => decide (k < j)

/-- The canonical form: numbers strictly rising, no entry equal to `d`. -/
def wf [DecidableEq α] (d : α) : Tab α → Bool
  | [] => true
  | (k, a) :: t => above k t && decide (a ≠ d) && wf d t

/-- The listed numbers, rising. -/
def keys (t : Tab α) : List Nat := t.map Prod.fst

end Tab
end Sys2Proof
end

