-- ==== Sys2Proof/Syntax.lean ====
section
/-! DEFINITION. The one inductive of everything a Glaenarath G2 package does: one constructor per row of the
opcode table. A slot instruction carries the operand fields of its encoding (R110-R116); its guard stands beside it in
the slot word (`guardOf`), because a slot runs only if its guard is true (R109). The eight rows COPYH, FILL, SEQCOND,
SEQSTOP, GRPABORT, HPENNANT, HSTAT and TRFLUSH are further spellings of an `XCMD` word, whose command code stands in a
register; they and the events, which have no encoding, read what takes part in them from `Args` (State.args).
Instructions with operand fields stand first. -/

namespace Sys2Proof

inductive Instr where
  /-- ADD (R139): Adds two scalar registers at the width m selects. -/
  | add (d a b : BitVec 6) (m : BitVec 2)
  /-- SUB (R139): Subtracts two scalar registers. -/
  | sub (d a b : BitVec 6) (m : BitVec 2)
  /-- MUL (R139): Writes the low w bits of the product. -/
  | mul (d a b : BitVec 6) (m : BitVec 2)
  /-- MULHS (R139): Writes the high w bits of the signed product. -/
  | mulhs (d a b : BitVec 6) (m : BitVec 2)
  /-- MULHU (R139): Writes the high w bits of the unsigned product. -/
  | mulhu (d a b : BitVec 6) (m : BitVec 2)
  /-- AND (R139): Bitwise AND. -/
  | and (d a b : BitVec 6) (m : BitVec 2)
  /-- OR (R139): Bitwise OR. -/
  | or (d a b : BitVec 6) (m : BitVec 2)
  /-- XOR (R139): Bitwise XOR. -/
  | xor (d a b : BitVec 6) (m : BitVec 2)
  /-- ANDN (R139): Bitwise x AND NOT y. -/
  | andn (d a b : BitVec 6) (m : BitVec 2)
  /-- ORN (R139): Bitwise x OR NOT y. -/
  | orn (d a b : BitVec 6) (m : BitVec 2)
  /-- SHL (R139): Shifts left by the low bits of sb. -/
  | shl (d a b : BitVec 6) (m : BitVec 2)
  /-- SHRL (R139): Logical shift right. -/
  | shrl (d a b : BitVec 6) (m : BitVec 2)
  /-- SHRA (R139): Arithmetic shift right. -/
  | shra (d a b : BitVec 6) (m : BitVec 2)
  /-- ROTL (R139): Rotates left within w bits. -/
  | rotl (d a b : BitVec 6) (m : BitVec 2)
  /-- MIN (R139): Signed minimum. -/
  | min (d a b : BitVec 6) (m : BitVec 2)
  /-- MAX (R139): Signed maximum. -/
  | max (d a b : BitVec 6) (m : BitVec 2)
  /-- MINU (R139): Unsigned minimum. -/
  | minu (d a b : BitVec 6) (m : BitVec 2)
  /-- MAXU (R139): Unsigned maximum. -/
  | maxu (d a b : BitVec 6) (m : BitVec 2)
  /-- CLZ (R140): Counts leading zero bits. -/
  | clz (d a : BitVec 6) (m : BitVec 2)
  /-- CTZ (R140): Counts trailing zero bits. -/
  | ctz (d a : BitVec 6) (m : BitVec 2)
  /-- POPC (R140): Counts one bits. -/
  | popc (d a : BitVec 6) (m : BitVec 2)
  /-- BSWAP (R140): Reverses byte order. -/
  | bswap (d a : BitVec 6) (m : BitVec 2)
  /-- EXTZ (R141): Extracts a bit field, zero-extended. -/
  | extz (d a b : BitVec 6)
  /-- EXTS (R141): Extracts a bit field, sign-extended. -/
  | exts (d a b : BitVec 6)
  /-- INS (R141): Inserts a bit field into sd. -/
  | ins (d a b : BitVec 6)
  /-- ADDI (R142): Adds a sign-extended 8-bit immediate. -/
  | addi (d a : BitVec 6) (i : BitVec 8)
  /-- ANDI (R142): ANDs with a sign-extended immediate. -/
  | andi (d a : BitVec 6) (i : BitVec 8)
  /-- ORI (R142): ORs with a sign-extended immediate. -/
  | ori (d a : BitVec 6) (i : BitVec 8)
  /-- XORI (R142): XORs with a sign-extended immediate. -/
  | xori (d a : BitVec 6) (i : BitVec 8)
  /-- SHLI (R142): Shifts left by an immediate. -/
  | shli (d a i : BitVec 6)
  /-- SHRLI (R142): Logical shift right by an immediate. -/
  | shrli (d a i : BitVec 6)
  /-- SHRAI (R142): Arithmetic shift right by an immediate. -/
  | shrai (d a i : BitVec 6)
  /-- LDI (R143): Loads a sign-extended 14-bit immediate. -/
  | ldi (d : BitVec 6) (i : BitVec 14)
  /-- LDIS (R143): Shifts sd left by 14 and ORs in a 14-bit immediate. -/
  | ldis (d : BitVec 6) (i : BitVec 14)
  /-- CMP_EQ (R144): Writes a predicate pair from x == y. -/
  | cmpEq (k : BitVec 4) (a b : BitVec 6)
  /-- CMP_NE (R144): Writes a predicate pair from x != y. -/
  | cmpNe (k : BitVec 4) (a b : BitVec 6)
  /-- CMP_LT (R144): Signed less-than compare into a pair. -/
  | cmpLt (k : BitVec 4) (a b : BitVec 6)
  /-- CMP_LE (R144): Signed less-or-equal compare into a pair. -/
  | cmpLe (k : BitVec 4) (a b : BitVec 6)
  /-- CMP_GT (R144): Signed greater-than compare into a pair. -/
  | cmpGt (k : BitVec 4) (a b : BitVec 6)
  /-- CMP_GE (R144): Signed greater-or-equal compare into a pair. -/
  | cmpGe (k : BitVec 4) (a b : BitVec 6)
  /-- CMP_LTU (R144): Unsigned less-than compare into a pair. -/
  | cmpLtu (k : BitVec 4) (a b : BitVec 6)
  /-- CMP_LEU (R144): Unsigned less-or-equal compare into a pair. -/
  | cmpLeu (k : BitVec 4) (a b : BitVec 6)
  /-- CMP_GTU (R144): Unsigned greater-than compare into a pair. -/
  | cmpGtu (k : BitVec 4) (a b : BitVec 6)
  /-- CMP_GEU (R144): Unsigned greater-or-equal compare into a pair. -/
  | cmpGeu (k : BitVec 4) (a b : BitVec 6)
  /-- PAND (R145): Writes a pair from pa AND pb. -/
  | pand (k : BitVec 4) (a b : BitVec 5)
  /-- POR (R145): Writes a pair from pa OR pb. -/
  | por (k : BitVec 4) (a b : BitVec 5)
  /-- PXOR (R145): Writes a pair from pa XOR pb. -/
  | pxor (k : BitVec 4) (a b : BitVec 5)
  /-- PANDN (R145): Writes a pair from pa AND NOT pb. -/
  | pandn (k : BitVec 4) (a b : BitVec 5)
  /-- CMPI_EQ (R144): Compares with an immediate for equality into a pair. -/
  | cmpiEq (k : BitVec 4) (a : BitVec 6) (i : BitVec 8)
  /-- CMPI_NE (R144): Compares with an immediate for inequality. -/
  | cmpiNe (k : BitVec 4) (a : BitVec 6) (i : BitVec 8)
  /-- CMPI_LT (R144): Signed less-than against an immediate. -/
  | cmpiLt (k : BitVec 4) (a : BitVec 6) (i : BitVec 8)
  /-- CMPI_LE (R144): Signed less-or-equal against an immediate. -/
  | cmpiLe (k : BitVec 4) (a : BitVec 6) (i : BitVec 8)
  /-- CMPI_GT (R144): Signed greater-than against an immediate. -/
  | cmpiGt (k : BitVec 4) (a : BitVec 6) (i : BitVec 8)
  /-- CMPI_GE (R144): Signed greater-or-equal against an immediate. -/
  | cmpiGe (k : BitVec 4) (a : BitVec 6) (i : BitVec 8)
  /-- CMPI_LTU (R144): Unsigned less-than against an immediate. -/
  | cmpiLtu (k : BitVec 4) (a : BitVec 6) (i : BitVec 8)
  /-- CMPI_LEU (R144): Unsigned less-or-equal against an immediate. -/
  | cmpiLeu (k : BitVec 4) (a : BitVec 6) (i : BitVec 8)
  /-- CMPI_GTU (R144): Unsigned greater-than against an immediate. -/
  | cmpiGtu (k : BitVec 4) (a : BitVec 6) (i : BitVec 8)
  /-- CMPI_GEU (R144): Unsigned greater-or-equal against an immediate. -/
  | cmpiGeu (k : BitVec 4) (a : BitVec 6) (i : BitVec 8)
  /-- BR (R147): Branches to a displacement from the bundle address. -/
  | br (i : BitVec 20)
  /-- CALL (R147): Writes the link register and branches. -/
  | call (i : BitVec 20)
  /-- BRX (R147): Branches to a checked register target. -/
  | brx (a : BitVec 6)
  /-- CALLX (R147): Writes the link and branches to a checked register target. -/
  | callx (a : BitVec 6)
  /-- LOOP (R154): Starts a software-pipelined loop of T iterations and n stages and sets the stage predicates. -/
  | loop (a : BitVec 6) (n : BitVec 5)
  /-- BRLOOP (R154): Advances the loop, recomputes the stage predicates and branches back or exits. -/
  | brloop (i : BitVec 20)
  /-- TRAP (R166): Raises TRAP_INSN with INFO = imm14. -/
  | trap (i : BitVec 14)
  /-- WAITT (R156): Makes the context WAITING until TIME reaches rs(a). -/
  | waitt (a : BitVec 6)
  /-- WAITEV (R158): Makes the context WAITING until an EV_PEND bit of the mask is set. -/
  | waitev (a : BitVec 6)
  /-- BKPT (R166): Raises BKPT to the DCP with INFO = imm14. -/
  | bkpt (i : BitVec 14)
  /-- XLT (R170): Translates a tensor coordinate into a global address with status in pair 7. -/
  | xlt (d a b : BitVec 6)
  /-- XWAIT (R173): Holds until the masked engines have no unfinished command of the context. -/
  | xwait (m : BitVec 6)
  /-- XPOLL (R173): Writes a pair from the context's busy flag for an engine. -/
  | xpoll (k : BitVec 4) (e : BitVec 8)
  /-- CSRR (R174): Reads a CSR into a scalar register. -/
  | csrr (d : BitVec 6) (c : BitVec 12)
  /-- CSRW (R174): Writes a CSR from a scalar register. -/
  | csrw (d : BitVec 6) (c : BitVec 12)
  /-- CSRS (R174): Sets CSR bits given in a scalar register. -/
  | csrs (d : BitVec 6) (c : BitVec 12)
  /-- CSRC (R174): Clears CSR bits given in a scalar register. -/
  | csrc (d : BitVec 6) (c : BitVec 12)
  /-- RDTIME (R175): Reads the TAI TIME counter. -/
  | rdtime (d : BitVec 6)
  /-- RDCYC (R175): Reads the cell's cycle count since die reset. -/
  | rdcyc (d : BitVec 6)
  /-- CTRSTART (R177): Zeroes and starts capture set n. -/
  | ctrstart (n : BitVec 4)
  /-- CTRSTOP (R177): Stops capture set n, leaves its count and emits a stop record. -/
  | ctrstop (n : BitVec 4)
  /-- TMARK (R176): Hands the trace engine a MARK record. -/
  | tmark (a : BitVec 6) (i : BitVec 8)
  /-- POWREQ (R178): Requests units of leave from the die power manager and holds until granted. -/
  | powreq (u : BitVec 14)
  /-- POWREL (R178): Returns units of leave. -/
  | powrel (u : BitVec 14)
  /-- MVPQ (R180): Writes a lane predicate of a cluster from a scalar. -/
  | mvpq (c q : BitVec 3) (a : BitVec 6)
  /-- MVQP (R180): Reads a lane predicate of a cluster into a scalar. -/
  | mvqp (d : BitVec 6) (c q : BitVec 3)
  /-- LD (R230): Local sign-extending scalar load. -/
  | ld (d a : BitVec 6) (o : BitVec 3) (z : BitVec 2) (f : BitVec 3)
  /-- LDZ (R230): Local zero-extending scalar load. -/
  | ldz (d a : BitVec 6) (o : BitVec 3) (z : BitVec 2) (f : BitVec 3)
  /-- ST (R230): Local scalar store leaving the full bit unchanged. -/
  | st (d a : BitVec 6) (o : BitVec 3) (z : BitVec 2) (f : BitVec 3)
  /-- VLD (R232): Loads 512 B into vd of every cluster, marking lanes of empty words empty. -/
  | vld (v : BitVec 5) (a : BitVec 6) (o : BitVec 3) (x : BitVec 5)
  /-- VLD_SEQUENCED (R233): Takes the next 512-byte unit of a sequencer stream into vd. -/
  | vldSequenced (v : BitVec 5) (s : BitVec 4) (o : BitVec 3)
  /-- VST (R232): Stores vd of every cluster to 512 B. -/
  | vst (v : BitVec 5) (a : BitVec 6) (o : BitVec 3) (x : BitVec 5)
  /-- VLDC (R232): Loads 64 B into vd of one cluster. -/
  | vldc (v : BitVec 5) (a : BitVec 6) (o c : BitVec 3) (f : BitVec 2)
  /-- VSTC (R232): Stores vd of one cluster to 64 B. -/
  | vstc (v : BitVec 5) (a : BitVec 6) (o c : BitVec 3) (f : BitVec 2)
  /-- VLDQ (R232): Vector load masked per lane by a lane predicate. -/
  | vldq (v : BitVec 5) (a : BitVec 6) (o q : BitVec 3) (f : BitVec 2)
  /-- VSTQ (R232): Vector store of full, selected lanes only. -/
  | vstq (v : BitVec 5) (a : BitVec 6) (o q : BitVec 3) (f : BitVec 2)
  /-- LDS (R231): Holds until the scratch word is full, then loads it as an acquire. -/
  | lds (d a : BitVec 6) (o : BitVec 3) (z : BitVec 2) (f : BitVec 3)
  /-- LDSE (R231): Holds until full, loads and sets the word empty atomically. -/
  | ldse (d a : BitVec 6) (o : BitVec 3) (z : BitVec 2) (f : BitVec 3)
  /-- STF (R231): Stores and sets the word full as a release. -/
  | stf (d a : BitVec 6) (o : BitVec 3) (z : BitVec 2) (f : BitVec 3)
  /-- SETE (R231): Sets a scratch word's full/empty bit empty. -/
  | sete (a : BitVec 6) (o f : BitVec 3)
  /-- AMOADD (R234): Local atomic add returning the old value. -/
  | amoadd (d a : BitVec 6) (o : BitVec 3) (z : BitVec 1) (f : BitVec 3)
  /-- AMOMIN (R234): Local atomic signed minimum. -/
  | amomin (d a : BitVec 6) (o : BitVec 3) (z : BitVec 1) (f : BitVec 3)
  /-- AMOMAX (R234): Local atomic signed maximum. -/
  | amomax (d a : BitVec 6) (o : BitVec 3) (z : BitVec 1) (f : BitVec 3)
  /-- AMOAND (R234): Local atomic AND. -/
  | amoand (d a : BitVec 6) (o : BitVec 3) (z : BitVec 1) (f : BitVec 3)
  /-- AMOOR (R234): Local atomic OR. -/
  | amoor (d a : BitVec 6) (o : BitVec 3) (z : BitVec 1) (f : BitVec 3)
  /-- AMOXOR (R234): Local atomic XOR. -/
  | amoxor (d a : BitVec 6) (o : BitVec 3) (z : BitVec 1) (f : BitVec 3)
  /-- AMOSWAP (R234): Local atomic swap. -/
  | amoswap (d a : BitVec 6) (o : BitVec 3) (z : BitVec 1) (f : BitVec 3)
  /-- AMOCAS (R234): Local atomic compare-and-swap. -/
  | amocas (d : BitVec 5) (a : BitVec 6) (o : BitVec 3) (z : BitVec 1) (f : BitVec 3)
  /-- LD_F (R235): Far scalar load carried to the target cell with a check code. -/
  | ldF (d a : BitVec 6) (o : BitVec 3) (z : BitVec 2) (f : BitVec 3)
  /-- ST_F (R235): Far scalar store. -/
  | stF (d a : BitVec 6) (o : BitVec 3) (z : BitVec 2) (f : BitVec 3)
  /-- VLD_F (R235): Far vector load. -/
  | vldF (v : BitVec 5) (a : BitVec 6) (o : BitVec 3) (x : BitVec 5)
  /-- VST_F (R235): Far vector store. -/
  | vstF (v : BitVec 5) (a : BitVec 6) (o : BitVec 3) (x : BitVec 5)
  /-- AMOADD_F (R235): Far atomic add. -/
  | amoaddF (d a : BitVec 6) (o : BitVec 3) (z : BitVec 1) (f : BitVec 3)
  /-- AMOMIN_F (R235): Far atomic signed minimum. -/
  | amominF (d a : BitVec 6) (o : BitVec 3) (z : BitVec 1) (f : BitVec 3)
  /-- AMOMAX_F (R235): Far atomic signed maximum. -/
  | amomaxF (d a : BitVec 6) (o : BitVec 3) (z : BitVec 1) (f : BitVec 3)
  /-- AMOAND_F (R235): Far atomic AND. -/
  | amoandF (d a : BitVec 6) (o : BitVec 3) (z : BitVec 1) (f : BitVec 3)
  /-- AMOOR_F (R235): Far atomic OR. -/
  | amoorF (d a : BitVec 6) (o : BitVec 3) (z : BitVec 1) (f : BitVec 3)
  /-- AMOXOR_F (R235): Far atomic XOR. -/
  | amoxorF (d a : BitVec 6) (o : BitVec 3) (z : BitVec 1) (f : BitVec 3)
  /-- AMOSWAP_F (R235): Far atomic swap. -/
  | amoswapF (d a : BitVec 6) (o : BitVec 3) (z : BitVec 1) (f : BitVec 3)
  /-- AMOCAS_F (R235): Far atomic compare-and-swap. -/
  | amocasF (d : BitVec 5) (a : BitVec 6) (o : BitVec 3) (z : BitVec 1) (f : BitVec 3)
  /-- LD_FS (R236): Status-twin far load reporting failure in pair 7. -/
  | ldFs (d a : BitVec 6) (o : BitVec 3) (z : BitVec 2) (f : BitVec 3)
  /-- ST_FS (R236): Status-twin far store. -/
  | stFs (d a : BitVec 6) (o : BitVec 3) (z : BitVec 2) (f : BitVec 3)
  /-- VLD_FS (R236): Status-twin far vector load. -/
  | vldFs (v : BitVec 5) (a : BitVec 6) (o : BitVec 3) (x : BitVec 5)
  /-- VST_FS (R236): Status-twin far vector store. -/
  | vstFs (v : BitVec 5) (a : BitVec 6) (o : BitVec 3) (x : BitVec 5)
  /-- AMOADD_FS (R236): Status-twin far atomic add. -/
  | amoaddFs (d a : BitVec 6) (o : BitVec 3) (z : BitVec 1) (f : BitVec 3)
  /-- AMOMIN_FS (R236): Status-twin far atomic minimum. -/
  | amominFs (d a : BitVec 6) (o : BitVec 3) (z : BitVec 1) (f : BitVec 3)
  /-- AMOMAX_FS (R236): Status-twin far atomic maximum. -/
  | amomaxFs (d a : BitVec 6) (o : BitVec 3) (z : BitVec 1) (f : BitVec 3)
  /-- AMOAND_FS (R236): Status-twin far atomic AND. -/
  | amoandFs (d a : BitVec 6) (o : BitVec 3) (z : BitVec 1) (f : BitVec 3)
  /-- AMOOR_FS (R236): Status-twin far atomic OR. -/
  | amoorFs (d a : BitVec 6) (o : BitVec 3) (z : BitVec 1) (f : BitVec 3)
  /-- AMOXOR_FS (R236): Status-twin far atomic XOR. -/
  | amoxorFs (d a : BitVec 6) (o : BitVec 3) (z : BitVec 1) (f : BitVec 3)
  /-- AMOSWAP_FS (R236): Status-twin far atomic swap. -/
  | amoswapFs (d a : BitVec 6) (o : BitVec 3) (z : BitVec 1) (f : BitVec 3)
  /-- AMOCAS_FS (R236): Status-twin far atomic compare-and-swap. -/
  | amocasFs (d : BitVec 5) (a : BitVec 6) (o : BitVec 3) (z : BitVec 1) (f : BitVec 3)
  /-- FENCE (R237): Holds until earlier accesses of the masked classes are performed at the scope. -/
  | fence (m : BitVec 8) (s : BitVec 3)
  /-- SEMIT (R238): Emits one chunk on an output port under its free count and pennant. -/
  | semit (p : BitVec 4) (a b : BitVec 6)
  /-- SFREE (R239): Frees a bound ring slot, advancing ACK_C and sending a return where due. -/
  | sfree (t : BitVec 4) (a : BitVec 6)
  /-- SSTAT (R240): Writes a snapshot of a consumer tag or producer port. -/
  | sstat (d : BitVec 6) (n : BitVec 4) (x : BitVec 1)
  /-- ROT (R241): Takes part in a ring rotation of the region. -/
  | rot (d a b : BitVec 6)
  /-- LDRED (R248): Contributes a vector to an in-fabric collective sum. -/
  | ldred (a b : BitVec 6)
  /-- STMC (R242): Multicasts an 8-byte STF to a run of cells of the region. -/
  | stmc (d a b : BitVec 6)
  /-- ARRIVE (R244): Decrements a barrier COUNT as a release. -/
  | arrive (a : BitVec 6)
  /-- ARRIVEX (R244): Adds pending bytes and decrements a barrier COUNT. -/
  | arrivex (a b : BitVec 6)
  /-- BWAIT (R245): Holds until a barrier phase flips, then writes pair 7 from ERR. -/
  | bwait (a : BitVec 6)
  /-- SIGNAL (R247): Adds to a signal word with release and sets it full. -/
  | signal (a b : BitVec 6)
  /-- SWAIT (R247): Holds while a signal word is below a value, then acquires. -/
  | swait (a b : BitVec 6)
  /-- BINIT (R244): Initialises a barrier object's EXPECTED, COUNT, PENDING and ERR. -/
  | binit (a b : BitVec 6)
  /-- FADD (R190): Lane-wise floating add. -/
  | fadd (d a b : BitVec 5) (q : BitVec 3) (t : BitVec 2)
  /-- FSUB (R190): Lane-wise floating subtract. -/
  | fsub (d a b : BitVec 5) (q : BitVec 3) (t : BitVec 2)
  /-- FMUL (R190): Lane-wise floating multiply. -/
  | fmul (d a b : BitVec 5) (q : BitVec 3) (t : BitVec 2)
  /-- FMA (R191): Fused multiply-add into vd. -/
  | fma (d a b : BitVec 5) (q : BitVec 3) (t : BitVec 2)
  /-- FMS (R191): Fused multiply-subtract. -/
  | fms (d a b : BitVec 5) (q : BitVec 3) (t : BitVec 2)
  /-- FNMA (R191): Negated fused multiply-add. -/
  | fnma (d a b : BitVec 5) (q : BitVec 3) (t : BitVec 2)
  /-- FNMS (R191): Negated fused multiply-subtract. -/
  | fnms (d a b : BitVec 5) (q : BitVec 3) (t : BitVec 2)
  /-- FMIN (R190): Lane-wise floating minimum. -/
  | fmin (d a b : BitVec 5) (q : BitVec 3) (t : BitVec 2)
  /-- FMAX (R190): Lane-wise floating maximum. -/
  | fmax (d a b : BitVec 5) (q : BitVec 3) (t : BitVec 2)
  /-- FABS (R192): Clears the sign bit of each value. -/
  | fabs (d a : BitVec 5) (q : BitVec 3) (t : BitVec 2)
  /-- FNEG (R192): Inverts the sign bit of each value. -/
  | fneg (d a : BitVec 5) (q : BitVec 3) (t : BitVec 2)
  /-- FRND (R193): Rounds each value to an integral value under RM. -/
  | frnd (d a : BitVec 5) (q : BitVec 3) (t : BitVec 2)
  /-- FCLASS (R194): Writes a one-hot class of each value. -/
  | fclass (d a : BitVec 5) (q : BitVec 3) (t : BitVec 2)
  /-- FCMPEQ (R195): Floating equal compare into a lane predicate. -/
  | fcmpeq (d a : BitVec 5) (n q : BitVec 3) (t : BitVec 2)
  /-- FCMPNE (R195): Floating not-equal compare into a lane predicate. -/
  | fcmpne (d a : BitVec 5) (n q : BitVec 3) (t : BitVec 2)
  /-- FCMPLT (R195): Floating less-than compare into a lane predicate. -/
  | fcmplt (d a : BitVec 5) (n q : BitVec 3) (t : BitVec 2)
  /-- FCMPLE (R195): Floating less-or-equal compare into a lane predicate. -/
  | fcmple (d a : BitVec 5) (n q : BitVec 3) (t : BitVec 2)
  /-- FCMPUN (R195): Unordered compare into a lane predicate. -/
  | fcmpun (d a : BitVec 5) (n q : BitVec 3) (t : BitVec 2)
  /-- IADD (R196): Wrapping integer add. -/
  | iadd (d a b : BitVec 5) (q : BitVec 3) (t : BitVec 2)
  /-- ISUB (R196): Wrapping integer subtract. -/
  | isub (d a b : BitVec 5) (q : BitVec 3) (t : BitVec 2)
  /-- IMUL (R196): Low bits of the integer product. -/
  | imul (d a b : BitVec 5) (q : BitVec 3) (t : BitVec 2)
  /-- IMULH (R196): High bits of the signed integer product. -/
  | imulh (d a b : BitVec 5) (q : BitVec 3) (t : BitVec 2)
  /-- IMAD (R196): Integer multiply-add into vd. -/
  | imad (d a b : BitVec 5) (q : BitVec 3) (t : BitVec 2)
  /-- IMIN (R196): Signed integer minimum. -/
  | imin (d a b : BitVec 5) (q : BitVec 3) (t : BitVec 2)
  /-- IMAX (R196): Signed integer maximum. -/
  | imax (d a b : BitVec 5) (q : BitVec 3) (t : BitVec 2)
  /-- IMINU (R196): Unsigned integer minimum. -/
  | iminu (d a b : BitVec 5) (q : BitVec 3) (t : BitVec 2)
  /-- IMAXU (R196): Unsigned integer maximum. -/
  | imaxu (d a b : BitVec 5) (q : BitVec 3) (t : BitVec 2)
  /-- IAND (R196): Bitwise AND of lanes. -/
  | iand (d a b : BitVec 5) (q : BitVec 3) (t : BitVec 2)
  /-- IOR (R196): Bitwise OR of lanes. -/
  | ior (d a b : BitVec 5) (q : BitVec 3) (t : BitVec 2)
  /-- IXOR (R196): Bitwise XOR of lanes. -/
  | ixor (d a b : BitVec 5) (q : BitVec 3) (t : BitVec 2)
  /-- ISHL (R196): Integer shift left. -/
  | ishl (d a b : BitVec 5) (q : BitVec 3) (t : BitVec 2)
  /-- ISHRL (R196): Integer logical shift right. -/
  | ishrl (d a b : BitVec 5) (q : BitVec 3) (t : BitVec 2)
  /-- ISHRA (R196): Integer arithmetic shift right. -/
  | ishra (d a b : BitVec 5) (q : BitVec 3) (t : BitVec 2)
  /-- IABS (R197): Integer absolute value. -/
  | iabs (d a : BitVec 5) (q : BitVec 3) (t : BitVec 2)
  /-- IPOPC (R197): Integer population count. -/
  | ipopc (d a : BitVec 5) (q : BitVec 3) (t : BitVec 2)
  /-- ICLZ (R197): Integer count of leading zeros. -/
  | iclz (d a : BitVec 5) (q : BitVec 3) (t : BitVec 2)
  /-- ICMPEQ (R198): Integer equal compare into a lane predicate. -/
  | icmpeq (d a : BitVec 5) (n q : BitVec 3) (t : BitVec 2)
  /-- ICMPLT (R198): Signed integer less-than compare into a lane predicate. -/
  | icmplt (d a : BitVec 5) (n q : BitVec 3) (t : BitVec 2)
  /-- ICMPLTU (R198): Unsigned integer less-than compare into a lane predicate. -/
  | icmpltu (d a : BitVec 5) (n q : BitVec 3) (t : BitVec 2)
  /-- IADDS (R196): Saturating signed integer add. -/
  | iadds (d a b : BitVec 5) (q : BitVec 3) (t : BitVec 2)
  /-- ISUBS (R196): Saturating signed integer subtract. -/
  | isubs (d a b : BitVec 5) (q : BitVec 3) (t : BitVec 2)
  /-- CLMUL (R196): Low bits of the carry-less product. -/
  | clmul (d a b : BitVec 5) (q : BitVec 3) (t : BitVec 2)
  /-- CVT (R199): Converts each lane by the conversion code. -/
  | cvt (d a c : BitVec 5) (q : BitVec 3)
  /-- PACKB (R201): Converts 16 FP32 lanes into two scaled blocks of a narrow format. -/
  | packb (d a f : BitVec 5) (q : BitVec 3)
  /-- UNPKB (R202): Expands packed block-scaled elements to FP32. -/
  | unpkb (d a f : BitVec 5) (q : BitVec 3)
  /-- CVTAX (R203): Converts FP32 lanes into AX64 elements. -/
  | cvtax (d a b : BitVec 5) (q : BitVec 3)
  /-- CVTXA (R204): Converts AX64 elements into FP32 lanes. -/
  | cvtxa (d a b : BitVec 5) (q : BitVec 3)
  /-- MOV (R205): Copies lanes with their empty bits. -/
  | mov (d a : BitVec 5) (q : BitVec 3)
  /-- MOVI (R205): Fills every lane with a sign-extended immediate. -/
  | movi (d : BitVec 5) (i : BitVec 10)
  /-- MOVS (R205): Fills every lane from a scalar register. -/
  | movs (d : BitVec 5) (s : BitVec 6)
  /-- MVLS (R206): Moves one lane into a scalar register as an exposed result. -/
  | mvls (a : BitVec 5) (s : BitVec 6) (l : BitVec 4)
  /-- SEL (R207): Selects lanes of va or vb by a lane predicate. -/
  | sel (d a b : BitVec 5) (q : BitVec 3) (t : BitVec 2)
  /-- XCL (R208): Replaces empty lanes with CONST and marks them full. -/
  | xcl (d a : BitVec 5) (q : BitVec 3) (t : BitVec 2)
  /-- PERM (R209): Permutes lanes by an index vector. -/
  | perm (d a b : BitVec 5) (q : BitVec 3) (t : BitVec 2)
  /-- COMPRESS (R210): Packs selected lanes to the bottom and writes a count mask. -/
  | compress (d a : BitVec 5) (n q : BitVec 3) (t : BitVec 2)
  /-- EXPAND (R211): Spreads lanes to the selected positions. -/
  | expand (d a : BitVec 5) (q : BitVec 3) (t : BitVec 2)
  /-- RSUM (R212): Sums the lanes by a fixed pairwise tree. -/
  | rsum (d a : BitVec 5) (q : BitVec 3) (t : BitVec 2)
  /-- RMAX (R212): Maximum over the lanes. -/
  | rmax (d a : BitVec 5) (q : BitVec 3) (t : BitVec 2)
  /-- RMIN (R212): Minimum over the lanes. -/
  | rmin (d a : BitVec 5) (q : BitVec 3) (t : BitVec 2)
  /-- SCAN (R213): Inclusive prefix sums in Hillis-Steele order. -/
  | scan (d a : BitVec 5) (q : BitVec 3) (t : BitVec 2)
  /-- XCOPY (R214): Copies a register from another cluster. -/
  | xcopy (d a : BitVec 5) (c : BitVec 3)
  /-- XBCAST (R215): Broadcasts lane k of a cluster's register to cluster k. -/
  | xbcast (d a : BitVec 5) (c : BitVec 3)
  /-- LBCAST (R216): Broadcasts one lane to every lane. -/
  | lbcast (d a : BitVec 5) (l : BitVec 4)
  /-- QAND (R217): ANDs two lane predicates. -/
  | qand (d a b : BitVec 3)
  /-- QOR (R217): ORs two lane predicates. -/
  | qor (d a b : BitVec 3)
  /-- QXOR (R217): XORs two lane predicates. -/
  | qxor (d a b : BitVec 3)
  /-- QANDN (R217): ANDs a lane predicate with the inverse of another. -/
  | qandn (d a b : BitVec 3)
  /-- QSET (R218): Sets lane predicate bits for nonzero lanes. -/
  | qset (d : BitVec 3) (a : BitVec 5) (t : BitVec 2)
  /-- QPOP (R219): Writes the population count of a lane predicate to every lane. -/
  | qpop (d : BitVec 5) (a : BitVec 3)
  /-- VCFGW (R220): Writes the cluster's VCFG from a vector register. -/
  | vcfgw (a : BitVec 5)
  /-- RCP (R222): Special function reciprocal in all clusters. -/
  | rcp (d a : BitVec 5) (q : BitVec 3) (t : BitVec 2)
  /-- RSQ (R222): Reciprocal square root. -/
  | rsq (d a : BitVec 5) (q : BitVec 3) (t : BitVec 2)
  /-- SQRT (R222): Correctly rounded square root. -/
  | sqrt (d a : BitVec 5) (q : BitVec 3) (t : BitVec 2)
  /-- EXP2 (R222): Power of two. -/
  | exp2 (d a : BitVec 5) (q : BitVec 3) (t : BitVec 2)
  /-- LOG2 (R222): Base-2 logarithm. -/
  | log2 (d a : BitVec 5) (q : BitVec 3) (t : BitVec 2)
  /-- TANH (R222): Hyperbolic tangent. -/
  | tanh (d a : BitVec 5) (q : BitVec 3) (t : BitVec 2)
  /-- SIGM (R222): Logistic sigmoid. -/
  | sigm (d a : BitVec 5) (q : BitVec 3) (t : BitVec 2)
  /-- ERF (R222): Error function. -/
  | erf (d a : BitVec 5) (q : BitVec 3) (t : BitVec 2)
  /-- SIN (R222): Sine. -/
  | sin (d a : BitVec 5) (q : BitVec 3) (t : BitVec 2)
  /-- COS (R222): Cosine. -/
  | cos (d a : BitVec 5) (q : BitVec 3) (t : BitVec 2)
  /-- EXPE (R222): Natural exponential. -/
  | expe (d a : BitVec 5) (q : BitVec 3) (t : BitVec 2)
  /-- GELU (R222): GELU activation. -/
  | gelu (d a : BitVec 5) (q : BitVec 3) (t : BitVec 2)
  /-- MCFG (R253): Holds until the engine is idle, then sets its format pair. -/
  | mcfg (w a : BitVec 4)
  /-- MWLOAD (R254): Queues a load of one weight image and checksum into the shadow buffer. -/
  | mwload (s : BitVec 6) (m : BitVec 1)
  /-- MMUL (R255): Queues a multiply of activation rows by the active weights into a tile. -/
  | mmul (t : BitVec 3) (s : BitVec 6) (q : BitVec 1) (n : BitVec 7)
  /-- MMAC (R255): Queues a multiply-accumulate into an owned tile. -/
  | mmac (t : BitVec 3) (s : BitVec 6) (q : BitVec 1) (n : BitVec 7)
  /-- MDRAIN (R256): Queues writing a tile's rows to memory, scaled and converted. -/
  | mdrain (t : BitVec 3) (s : BitVec 6) (z r : BitVec 1) (f : BitVec 4)
  /-- MZERO (R257): Queues zeroing a tile. -/
  | mzero (t : BitVec 3)
  /-- MTRN (R257): Queues an in-place transpose of one half of a tile. -/
  | mtrn (t : BitVec 3) (h : BitVec 1)
  /-- MSCALE (R257): Queues scaling of elements, band scales or row scales. -/
  | mscale (t : BitVec 3) (s : BitVec 6) (tgt : BitVec 2)
  /-- MCHK (R258): Holds until a tile is idle, then checks it against its checksums. -/
  | mchk (t : BitVec 3) (x : BitVec 1)
  /-- MSAVE (R260): Queues writing a tile's accumulator image. -/
  | msave (t : BitVec 3) (s : BitVec 6) (r : BitVec 1)
  /-- MREST (R260): Queues restoring a tile from an accumulator image. -/
  | mrest (t : BitVec 3) (s : BitVec 6)
  /-- MWAIT (R261): Holds until masked tiles and optionally weight loads have completed. -/
  | mwait (w : BitVec 1) (k : BitVec 8)
  /-- COPY (R264): Copy-engine command copying LEN bytes between device addresses. -/
  | copy (a b : BitVec 6)
  /-- SEQDEF (R266): Sequencer command defining a stream of coordinates and its target. -/
  | seqdef (a b : BitVec 6)
  /-- GRPDEF (R268): Collective command defining a reduction group after checking its descriptor. -/
  | grpdef (a b : BitVec 6)
  /-- HPAIR (R270): Halyard command configuring one cell's side of a pair. -/
  | hpair (a b : BitVec 6)
  /-- TRCFG (R275): Configures the cell's trace engine and its ring. -/
  | trcfg (a b : BitVec 6)
  /-- ENQ (R276): Hands the dispatcher a command graph or single node. -/
  | enq (a b : BitVec 6)
  /-- BUNDLE_ISSUE (R104): A context issues one bundle: its header and extent are checked, its present slots execute, and its WAIT cycles follow. Args: c. -/
  | bundleIssue
  /-- RESULT_LAND (R304): An exposed result, or a replayed latch entry, lands in its destination with its empty bit and flags in its landing cycle. Args: c x. -/
  | resultLand
  /-- INTERLOCK_RETURN (R149): A far, remote, status-twin, XLT or deep-store vector result is written and the awaiting context becomes READY the next cycle. Args: c x id. -/
  | interlockReturn
  /-- WAITT_WAKE (R156): TIME reaches the wait time of a WAITING context, which becomes READY within 10 ns. Args: c x. -/
  | waittWake
  /-- NOP (R112): Scalar no-operation. -/
  | nop
  /-- RET (R147): Branches to the checked value of s62. -/
  | ret
  /-- ERET (R165): Restores the mode and returns to the stopped bundle or past it. -/
  | eret
  /-- ENDT (R31): Retires the task: waits for results, releases tiles, frees or carries slots and reports completion. -/
  | endt
  /-- YIELD (R155): Gives up the issue slot while staying READY. -/
  | yield
  /-- RWFLUSH (R179): Closes the context's Tarragon windows on both engines. -/
  | rwflush
  /-- SNOP (R113): S-slot no-operation. -/
  | snop
  /-- VNOP (R114): Vector no-operation. -/
  | vnop
  /-- MWSWAP (R254): Queues making the shadow weight buffer active. -/
  | mwswap
  /-- TARRAGON_IDLE_CLOSE (R325): 64 counted cycles pass with no M entry from the context, closing its window on that engine. Args: c x e. -/
  | tarragonIdleClose
  /-- MATRIX_OP_START (R249): An engine starts the next queued operation, checking its entry code. Args: c e. -/
  | matrixOpStart
  /-- MATRIX_OP_COMPLETE (R250): A matrix operation completes its writes, releasing a tile if marked. Args: c e. -/
  | matrixOpComplete
  /-- COPYH (R264): Copy-engine command moving data through the host port. Args: a, b. -/
  | copyh
  /-- FILL (R264): Copy-engine command filling a range with a 64-bit pattern. Args: a, b. -/
  | fill
  /-- COPY_COMPLETE (R264): A copy command ends and subtracts LEN from its barrier's PENDING, with ERR on failure. Args: c. -/
  | copyComplete
  /-- SEQCOND (R267): Delivers a condition token to a COND stream. Args: a, b. -/
  | seqcond
  /-- SEQSTOP (R267): Ends a sequencer stream at once. Args: a, b. -/
  | seqstop
  /-- SEQ_UNIT_FETCH (R266): The sequencer translates and fetches its next unit, stopping on a bad outcome. Args: c n. -/
  | seqUnitFetch
  /-- GRPABORT (R269): Advances a group's attempt number and ends its in-flight LDREDs with ERR 0x06. Args: a, b. -/
  | grpabort
  /-- COLL_EXP_RECORD (R337): The root receives an exponent record and, when all are held, returns E. Args: die coll. -/
  | collExpRecord
  /-- COLL_EXPONENT_RETURN (R337): A member receives E, converts its section and sends an AX64 chunk. Args: c coll. -/
  | collExponentReturn
  /-- COLL_ROOT_CHUNK (R426): The root receives a member chunk and, when all are held, sums and checks them and sends the result. Args: die coll. -/
  | collRootChunk
  /-- COLL_RESULT (R337): A member receives the summed section, converts and writes it, subtracting PENDING after the last. Args: c coll. -/
  | collResult
  /-- COLL_ROOT_TIMEOUT (R339): The root's 100 µs timer expires and failure notices go to the members. Args: die group attempt sect. -/
  | collRootTimeout
  /-- COLL_FAILURE_NOTICE (R339): A member receives a failure notice and ends its LDRED with ERR 0x05. Args: c coll. -/
  | collFailureNotice
  /-- COLL_MEMBER_TIMEOUT (R339): A member's 200 µs timer expires and it ends with ERR 0x05. Args: c group. -/
  | collMemberTimeout
  /-- HPAIR_COMPLETE (R270): HPAIR completes 16 cycles after it starts and pre-issues pennants. Args: c. -/
  | hpairComplete
  /-- HPENNANT (R274): Resends the pennant of every slot in PENNANT_SENT. Args: a, b. -/
  | hpennant
  /-- HSTAT (R274): Writes a 32-byte halyard status record to scratch. Args: a, b. -/
  | hstat
  /-- PENNANT_ARRIVAL (R273): The sender's halyard unit receives a pennant, keeping new ones and ignoring duplicates. Args: c n (the micro-batch). -/
  | pennantArrival
  /-- TRFLUSH (R275): Writes out every held trace record and optionally signals. Args: a, b. -/
  | trflush
  /-- TRACE_RECORD_WRITE (R459): The trace engine writes a buffered record to its ring, or a LOST record after drops. Args: c. -/
  | traceRecordWrite
  /-- TASK_START_ARRIVAL (R26): The scheduler starts an eligible ARRIVAL handler on a FREE context, binding carried and resident slots. Args: c. -/
  | taskStartArrival
  /-- CHUNK_ARRIVAL (R86): A chunk arrives at a cell input, is checked and accepted, refused or dropped, and becomes resident in order. Args: c ck. -/
  | chunkArrival
  /-- CHUNK_HOP_CHECK (R424): A chunk is verified at a link ingress, boundary or bridge and HOP is overwritten. Args: k (the kind of crossing) die n (the point) c ck. -/
  | chunkHopCheck
  /-- RETURN_ARRIVAL (R88): A producer receives a return and releases retain slots up to the new ACK. Args: c stream ack. -/
  | returnArrival
  /-- CENSUS_SEND (R90): After 64 residencies or 10 µs the consumer sends a census chunk. Args: c tag. -/
  | censusSend
  /-- CENSUS_ARRIVAL (R91): A producer compares a census with its state and repairs or reports a channel error. Args: c ck. -/
  | censusArrival
  /-- REFUSAL_ARRIVAL (R93): A producer receives a refusal, treats the chunks as unsent and applies ACK_C. Args: c stream n ack. -/
  | refusalArrival
  /-- REFUSED_CHUNK_RESEND (R93): A refused chunk is resent once the free count and the return, census or 10 µs condition allow. Args: c p. -/
  | refusedChunkResend
  /-- REPLAY_REQUEST_ARRIVAL (R89): A producer resends a retained chunk with ATTEMPT + 1 and REPLAY set. Args: c stream seq attempt. -/
  | replayRequestArrival
  /-- ROT_COMPLETE (R101): At t_end every destination of the rotation is filled and set full. Args: die origin. -/
  | rotComplete
  /-- PREEMPT_EVICT (R39): The dispatcher evicts a victim context, capturing latches and writing its save area. Args: c x. -/
  | preemptEvict
  /-- TASK_RESUME (R368): An evicted task is restored in order and resumes with latch replay. Args: c x. -/
  | taskResume
  /-- POWER_GRANT (R407): The die power manager grants a held request whole once the pool has room. Args: die. -/
  | powerGrant
  /-- LAUNCH (R345): A host write queues a command graph launch, or is discarded and counted. Args: v. -/
  | launch
  /-- GRAPH_ACCEPT (R350): The dispatcher takes a launch, checks the graph and fills dependence entries when room exists. -/
  | graphAccept
  /-- RUN_NODE_BIND (R357): A READY RUN node binds to a region, loading or pre-empting as needed. Args: k (graph) n (node). -/
  | runNodeBind
  /-- CONFIG_LOAD (R358): After the region drains, a configuration is written and its handler table made valid. Args: die origin. -/
  | configLoad
  /-- CONFIG_DROP (R482): A region with a CELL_OOS cell and no tasks has its configuration dropped. Args: die origin. -/
  | configDrop
  /-- COPY_NODE_START (R352): A COPY node enqueues its copy command on the target cell's copy engine. Args: k n. -/
  | copyNodeStart
  /-- WAIT_NODE (R352): A WAIT node waits for a barrier flip or signal value, failing on ERR. Args: k n. -/
  | waitNode
  /-- WAIT_NODE_TIMEOUT (R352): A WAIT node's TIMEOUT expires and the node fails. Args: k n. -/
  | waitNodeTimeout
  /-- COND_NODE (R353): A COND node reads and increments a word, compares, re-arms a range and chooses successors. Args: k n. -/
  | condNode
  /-- HRING_NODE (R412): An HRING node posts its record to a host ring once there is room. Args: k n. -/
  | hringNode
  /-- HRING_IRQ_TIMER (R412): The ring's interrupt delay expires and an MSI-X interrupt is raised. Args: n (the ring). -/
  | hringIrqTimer
  /-- END_NODE (R354): An END node cancels LOADED and READY nodes once every other node has left RUNNING. Args: k n. -/
  | endNode
  /-- DCP_SELECT (R371): Directs the DCP's context-CSR window accesses to one context. Args: die c x. -/
  | dcpSelect
  /-- DCP_RESUME (R371): Resumes a STOPPED context as an ERET would. Args: die c x. -/
  | dcpResume
  /-- DCP_STEP (R461): Lets a stopped context issue exactly one bundle, then stops it with STEP. Args: die c x. -/
  | dcpStep
  /-- DCP_KILL (R371): Kills a DISPATCH task, discarding queued work and reporting failure. Args: die c x. -/
  | dcpKill
  /-- DCP_POST (R371): Sets EV_PEND.POST of a context. Args: die c x. -/
  | dcpPost
  /-- TRAP_RECORD_POST (R369): A held trap record is posted to the trap queue when space frees. Args: die. -/
  | trapRecordPost
  /-- FB_POP (R370): Removes the oldest fault-buffer entry. Args: die. -/
  | fbPop
  /-- TQ_POP (R370): Removes the oldest trap-queue entry. Args: die. -/
  | tqPop
  /-- ELOG_POP (R422): Removes the oldest die error-log entry. Args: die. -/
  | elogPop
  /-- FAULT_RECORD_POST (R380): A record held at its source is posted to the fault buffer as entries free. Args: die. -/
  | faultRecordPost
  /-- FB_RESP (R379): Answers a held fault: translate again or end the command with ERR 0x04. Args: die n (the fault number) flag. -/
  | fbResp
  /-- XLT_INV (R377): Invalidates port-context and edge entries of a tensor or all tensors. Args: die. -/
  | xltInv
  /-- WALKER_TRANSLATE (R376): A walker takes a waiting request and reads the descriptor and tile-table entry. Args: die. -/
  | walkerTranslate
  /-- QUAR_FREE (R382): Places a freed frame in the quarantine queue, holding while full. Args: die v. -/
  | quarFree
  /-- QUARANTINE_RELEASE (R382): The in-flight count reaches zero and the oldest frame is released to the free list. Args: die. -/
  | quarantineRelease
  /-- HOST_STAGING_ACCESS (R344): A host read or write through BAR2 reaches MD0 staging scratch. Args: off size flag (a write) bytes. -/
  | hostStagingAccess
  /-- REGISTER_WRITE (R126): A write to a register with no behaviour of its own updates its writable fields. Args: sp off size v. -/
  | registerWrite
  /-- FLIT_RECEIVE (R386): A port receives a flit, accepting it in LSEQ order or discarding it and sending a NACK. Args: p flit. -/
  | flitReceive
  /-- NACK_RECEIVE (R386): A sender receives a negative acknowledgement and resends held flits from that number. Args: p lseq. -/
  | nackReceive
  /-- LANE_LOCK_LOSS (R387): A lane loses lock and the port enters retrain. Args: p. -/
  | laneLockLoss
  /-- LINK_SILENCE_TIMEOUT (R387): No flit arrives for 1 µs and the port enters retrain. Args: p. -/
  | linkSilenceTimeout
  /-- RETRAIN_ATTEMPT_END (R387): A retrain attempt ends; success resends held flits, a third failure makes the port FAILED. Args: p flag lseq src (the peer package) dst (the peer port). -/
  | retrainAttemptEnd
  /-- LINK_ENABLE (R388): EN changes from 0 to 1 and the port starts training, or 0 holds it DOWN. Args: p flag. -/
  | linkEnable
  /-- PACKET_INJECT (R393): A packet is stamped with the injection generation and routed minimally or via an intermediate. Args: pk. -/
  | packetInject
  /-- PACKET_FORWARD (R393): A router forwards, delivers or drops a packet by its generation's table. Args: pk. -/
  | packetForward
  /-- E2E_DELIVER (R397): The destination delivers packets in ESEQ order, drops duplicates and acknowledges. Args: pk. -/
  | e2eDeliver
  /-- E2E_ACK_RECEIVE (R397): An acknowledgement frees packets from the end-to-end store. Args: src flag (the channel) ack. -/
  | e2eAckReceive
  /-- E2E_RESEND_TIMEOUT (R397): A packet unacknowledged for 16 µs is resent, or abandoned after the fourth sending. Args: dst flag seq. -/
  | e2eResendTimeout
  /-- REMOTE_REQUEST (R398): A target memory controller checks the CRC of a remote request and performs or rejects it. Args: c req. -/
  | remoteRequest
  /-- REMOTE_RESPONSE (R235): A remote response arrives and its check code is tested at the issuing cell. Args: resp. -/
  | remoteResponse
  /-- FAR_ACCESS_TIMEOUT (R235): A far access gets no response within 64 µs and ends UNREACHABLE. Args: c x id. -/
  | farAccessTimeout
  /-- RT_DATA_WRITE (R394): Writes the selected routing entry of an invalid slot. Args: v. -/
  | rtDataWrite
  /-- GENERATION_SWAP (R394): At the first TIME at or after SWAP_AT, INJ toggles and ARM clears. -/
  | generationSwap
  /-- BOOT_INJ (R474): The host queues a boot packet body for the root, or it is discarded. Args: v. -/
  | bootInj
  /-- BOOT_ANNOUNCE (R477): A package receives a manifest segment and verifies the signature once whole. Args: flag bytes. -/
  | bootAnnounce
  /-- BOOT_DATA (R402): A package writes a DATA payload at each entry naming it, decrypting at LAST. Args: bytes. -/
  | bootData
  /-- BOOT_VERIFY (R402): A package hashes its shares and sends STATUS. Args: bytes. -/
  | bootVerify
  /-- BOOT_COMMIT (R402): A package writes its tile-table entries and fences at fabric scope. Args: bytes. -/
  | bootCommit
  /-- BOOT_REPLY (R476): The root receives a STATUS or NACK, re-sends shares or posts the reply to the host ring. Args: src bytes. -/
  | bootReply
  /-- TIME_EXCHANGE (R404): A port time-stamp exchange measures offset and the servo steps or slews TIME. Args: p int n (the stratum). -/
  | timeExchange
  /-- PTP_SYNC (R403): A PTP message on the management port disciplines TIME. Args: int. -/
  | ptpSync
  /-- PPS_EDGE (R405): A 1PPS input edge assigns TIME_SEC seconds. -/
  | ppsEdge
  /-- TIME_HOLDOVER (R404): Three missed exchanges or sync intervals put the package into holdover. -/
  | timeHoldover
  /-- POWER_OVER_STEP (R407): While OVER is set, firmware lowers every BASE by 256 once per millisecond. -/
  | powerOverStep
  /-- KEY_LOAD (R408): Unwraps a key into a slot with a usage. Args: slot usage src. -/
  | keyLoad
  /-- KEY_ERASE (R408): Erases a key slot. Args: slot. -/
  | keyErase
  /-- KEY_BINDTX (R408): Binds a LINK key to a port's transmit direction. Args: slot p. -/
  | keyBindtx
  /-- KEY_BINDRX (R408): Binds a LINK key to a port's receive direction. Args: slot p. -/
  | keyBindrx
  /-- KEY_REKEY (R409): Switches a port's transmit key at the next packet boundary and announces it. Args: p. -/
  | keyRekey
  /-- ATTESTATION (R410): The PCP answers a nonce with a signed attestation report. Args: src dst. -/
  | attestation
  /-- HOST_RING_ENABLE (R411): Writing EN = 1 enables a host ring and sets HEAD and TAIL to 0. Args: n. -/
  | hostRingEnable
  /-- HOST_RING_TAIL (R411): The host advances TAIL, freeing room for waiting postings. Args: n v. -/
  | hostRingTail
  /-- MSIX_UNMASK (R412): An unmasked vector sends its pending message. Args: n. -/
  | msixUnmask
  /-- ECC_CORRECTABLE (R420): A correctable error is corrected, written back and counted. Args: die store v. -/
  | eccCorrectable
  /-- ECC_UNCORRECTABLE (R421): An uncorrectable error poisons the word or, when consumed, stops the context with UE_CONSUMED. Args: c x slot store v flag (consumed); for store 4 consumed: c e k (1: a tile or weight buffer) v. -/
  | eccUncorrectable
  /-- SCRUB (R420): The patrol scrubber reads and corrects words of scratch and deep store. Args: v. -/
  | scrub
  /-- SHADOW_COMPARE (R431): The comparator pairs primary and shadow chunks by SEQ and forwards or reports a mismatch. Args: die flag (from the shadow) c ck. -/
  | shadowCompare
  /-- SHADOW_TIMEOUT (R431): One copy waits 100 µs for its twin and both regions are killed. Args: die stream seq. -/
  | shadowTimeout
  /-- REGION_KILL (R433): The DCP stops a region, flushes and rewinds its streams, reloads and restarts its tasks. Args: die origin n (the trigger). -/
  | regionKill
  /-- DIE_FENCE (R441): A die is fenced: traffic stopped, ports disabled, regions killed and stages migrated. Args: die n (the trigger). -/
  | dieFence
  /-- DCP_WATCHDOG_MISS (R440): A DCP misses its 1 ms watchdog and its die is fenced. Args: die. -/
  | dcpWatchdogMiss
  /-- LINK_RETIRE (R428): Eight mismatches blaming a port within 1 s retire it and prepare a new generation. Args: p. -/
  | linkRetire
  /-- STREAM_RESET (R445): Re-establishes a stream at every end on the die, renumbering retained chunks. Args: die stream. -/
  | streamReset
  /-- PKG_ADOPT (R480): A spare adopts a failed package's number and opens the adoption window. Args: n. -/
  | pkgAdopt
  /-- CMAP_ROW_WRITE (R484): A write of a row's cell map is refused or starts a remap. Args: die row v. -/
  | cmapRowWrite
  /-- CMAP_PAIR_MOVE (R484): One shifted cell pair's data is moved, and after the last BUSY clears. Args: die (the tower) row. -/
  | cmapPairMove
  /-- REC_ARM (R467): Empties every cell's recorder log. Args: die. -/
  | recArm
  /-- RW_TABLE_LOAD (R323): Starts loading the Tarragon rule table from the instruction store. Args: c v. -/
  | rwTableLoad
  /-- RW_TABLE_LOAD_DONE (R323): The rule load ends after COUNT + 4 cycles, recording rejected entries. Args: c. -/
  | rwTableLoadDone
  /-- SCAN_GO (R470): Starts or resumes a scan test on a cell, or is refused. Args: die v. -/
  | scanGo
  /-- SCAN_DRAIN_DONE (R470): The tested cell's region drains, its configuration is dropped and the pattern starts. Args: die. -/
  | scanDrainDone
  /-- SCAN_SEGMENT_END (R470): A 25 µs segment ends, updating the MISR and SEG, and after segment 7 the result is decided. Args: die. -/
  | scanSegmentEnd
  /-- SCAN_ABORT (R471): A priority-0 RUN node for the die aborts the test within 1 µs. Args: die. -/
  | scanAbort
  /-- DIE_RESET (R76): A die reset sets every scratch word full and clears engine and context state. Args: die. -/
  | dieReset
  /-- TILE_TABLE_READ_TIMEOUT (R80): A tile-table entry read that gets no answer within 64 µs ends the translation as BAD_ENTRY and logs it to the die fault buffer. Args: c x id. -/
  | tileTableReadTimeout
  /-- NEWER_ATTEMPT_DROP (R439): A collective chunk held because it carries a newer group attempt is dropped 100 µs after arrival if no local GRPABORT has reached its attempt. Args: die group coll. -/
  | newerAttemptDrop
  /-- ENGINE_COMMAND_COMPLETE (R173): A sequencer, collective, halyard (other than HPAIR), trace or dispatcher command finishes after issue, such as a GRPDEF that has read and checked its descriptor, so its group becomes defined and the context's busy flag for the engine clears. Args: c e. -/
  | engineCommandComplete
  /-- PACKAGE_RESET (R442): A package reset, or power return, clears DIE_FENCE, the boot state, the routing slots, the link ports, the launch queue and the other package CSRs to their reset values. -/
  | packageReset
  /-- POWER_MEASUREMENT_UPDATE (R406): Every millisecond, PKG_PLIMIT.MEASURED takes the package power averaged over the last 1 ms, and OVER is set or cleared against LIMIT. Args: n (watts). -/
  | powerMeasurementUpdate
  /-- COOLANT_ALARM (R406): The coolant inlet temperature crosses 45 °C, which sets or clears PKG_PLIMIT.COOLALM. Args: flag (hot). -/
  | coolantAlarm
  /-- BOUNDARY_RETRAIN_FAILED (R440): A lateral or vertical boundary of a die is declared failed after three retrains, which triggers a die fence. Args: die. -/
  | boundaryRetrainFailed
  deriving DecidableEq, Repr

end Sys2Proof
end

