-- ==== Sys2Proof/WellFormed.lean ====
section
/-! DEFINITION. The field limits of R112-R116, R227 and the entries of the M class: which operand values an
encoded instruction may carry (R117). Fields that the maps mark zero are no operands of `Instr` and are checked by the
decoder. -/

namespace Sys2Proof

/-- Whether every operand field of the instruction lies within its limits (R117). An event has no encoding and so
no field limit. -/
def Instr.wf : Instr → Bool
  | .add _ _ _ m => m != 3#2
  | .sub _ _ _ m => m != 3#2
  | .mul _ _ _ m => m != 3#2
  | .mulhs _ _ _ m => m != 3#2
  | .mulhu _ _ _ m => m != 3#2
  | .and _ _ _ m => m != 3#2
  | .or _ _ _ m => m != 3#2
  | .xor _ _ _ m => m != 3#2
  | .andn _ _ _ m => m != 3#2
  | .orn _ _ _ m => m != 3#2
  | .shl _ _ _ m => m != 3#2
  | .shrl _ _ _ m => m != 3#2
  | .shra _ _ _ m => m != 3#2
  | .rotl _ _ _ m => m != 3#2
  | .min _ _ _ m => m != 3#2
  | .max _ _ _ m => m != 3#2
  | .minu _ _ _ m => m != 3#2
  | .maxu _ _ _ m => m != 3#2
  | .clz _ _ m => m != 3#2
  | .ctz _ _ m => m != 3#2
  | .popc _ _ m => m != 3#2
  | .bswap _ _ m => m != 3#2
  | .extz _ _ _ => true
  | .exts _ _ _ => true
  | .ins _ _ _ => true
  | .addi _ _ _ => true
  | .andi _ _ _ => true
  | .ori _ _ _ => true
  | .xori _ _ _ => true
  | .shli _ _ _ => true
  | .shrli _ _ _ => true
  | .shrai _ _ _ => true
  | .ldi _ _ => true
  | .ldis _ _ => true
  | .cmpEq k _ _ => k != 0#4
  | .cmpNe k _ _ => k != 0#4
  | .cmpLt k _ _ => k != 0#4
  | .cmpLe k _ _ => k != 0#4
  | .cmpGt k _ _ => k != 0#4
  | .cmpGe k _ _ => k != 0#4
  | .cmpLtu k _ _ => k != 0#4
  | .cmpLeu k _ _ => k != 0#4
  | .cmpGtu k _ _ => k != 0#4
  | .cmpGeu k _ _ => k != 0#4
  | .pand k _ _ => k != 0#4
  | .por k _ _ => k != 0#4
  | .pxor k _ _ => k != 0#4
  | .pandn k _ _ => k != 0#4
  | .cmpiEq k _ _ => k != 0#4
  | .cmpiNe k _ _ => k != 0#4
  | .cmpiLt k _ _ => k != 0#4
  | .cmpiLe k _ _ => k != 0#4
  | .cmpiGt k _ _ => k != 0#4
  | .cmpiGe k _ _ => k != 0#4
  | .cmpiLtu k _ _ => k != 0#4
  | .cmpiLeu k _ _ => k != 0#4
  | .cmpiGtu k _ _ => k != 0#4
  | .cmpiGeu k _ _ => k != 0#4
  | .br _ => true
  | .call _ => true
  | .brx _ => true
  | .callx _ => true
  | .loop _ n => decide (1 ≤ n.toNat) && decide (n.toNat ≤ 16)
  | .brloop _ => true
  | .trap _ => true
  | .waitt _ => true
  | .waitev _ => true
  | .bkpt _ => true
  | .xlt _ _ _ => true
  | .xwait _ => true
  | .xpoll k e => k != 0#4 && decide (e.toNat ≤ 5)
  | .csrr _ c => decide (c.toNat ≤ 0x3FF)
  | .csrw _ c => decide (c.toNat ≤ 0x3FF)
  | .csrs _ c => decide (c.toNat ≤ 0x3FF)
  | .csrc _ c => decide (c.toNat ≤ 0x3FF)
  | .rdtime _ => true
  | .rdcyc _ => true
  | .ctrstart _ => true
  | .ctrstop _ => true
  | .tmark _ _ => true
  | .powreq u => u != 0#14
  | .powrel u => u != 0#14
  | .mvpq _ q _ => q != 0#3
  | .mvqp _ _ _ => true
  | .ld _ _ _ _ _ => true
  | .ldz _ _ _ _ _ => true
  | .st _ _ _ _ _ => true
  | .vld _ _ _ _ => true
  | .vldSequenced _ _ _ => true
  | .vst _ _ _ _ => true
  | .vldc _ _ _ _ _ => true
  | .vstc _ _ _ _ _ => true
  | .vldq _ _ _ _ _ => true
  | .vstq _ _ _ _ _ => true
  | .lds _ _ _ _ _ => true
  | .ldse _ _ _ _ _ => true
  | .stf _ _ _ _ _ => true
  | .sete _ _ _ => true
  | .amoadd _ _ _ _ _ => true
  | .amomin _ _ _ _ _ => true
  | .amomax _ _ _ _ _ => true
  | .amoand _ _ _ _ _ => true
  | .amoor _ _ _ _ _ => true
  | .amoxor _ _ _ _ _ => true
  | .amoswap _ _ _ _ _ => true
  | .amocas d _ _ _ _ => decide (d.toNat ≤ 30)
  | .ldF _ _ _ _ _ => true
  | .stF _ _ _ _ _ => true
  | .vldF _ _ _ _ => true
  | .vstF _ _ _ _ => true
  | .amoaddF _ _ _ _ _ => true
  | .amominF _ _ _ _ _ => true
  | .amomaxF _ _ _ _ _ => true
  | .amoandF _ _ _ _ _ => true
  | .amoorF _ _ _ _ _ => true
  | .amoxorF _ _ _ _ _ => true
  | .amoswapF _ _ _ _ _ => true
  | .amocasF d _ _ _ _ => decide (d.toNat ≤ 30)
  | .ldFs _ _ _ _ _ => true
  | .stFs _ _ _ _ _ => true
  | .vldFs _ _ _ _ => true
  | .vstFs _ _ _ _ => true
  | .amoaddFs _ _ _ _ _ => true
  | .amominFs _ _ _ _ _ => true
  | .amomaxFs _ _ _ _ _ => true
  | .amoandFs _ _ _ _ _ => true
  | .amoorFs _ _ _ _ _ => true
  | .amoxorFs _ _ _ _ _ => true
  | .amoswapFs _ _ _ _ _ => true
  | .amocasFs d _ _ _ _ => decide (d.toNat ≤ 30)
  | .fence _ s => decide (s.toNat ≤ 4)
  | .semit _ _ _ => true
  | .sfree _ _ => true
  | .sstat _ _ _ => true
  | .rot _ _ _ => true
  | .ldred _ _ => true
  | .stmc _ _ _ => true
  | .arrive _ => true
  | .arrivex _ _ => true
  | .bwait _ => true
  | .signal _ _ => true
  | .swait _ _ => true
  | .binit _ _ => true
  | .fadd _ _ _ _ t => t != 3#2
  | .fsub _ _ _ _ t => t != 3#2
  | .fmul _ _ _ _ t => t != 3#2
  | .fma _ _ _ _ t => t != 3#2
  | .fms _ _ _ _ t => t != 3#2
  | .fnma _ _ _ _ t => t != 3#2
  | .fnms _ _ _ _ t => t != 3#2
  | .fmin _ _ _ _ t => t != 3#2
  | .fmax _ _ _ _ t => t != 3#2
  | .fabs _ _ _ t => t != 3#2
  | .fneg _ _ _ t => t != 3#2
  | .frnd _ _ _ t => t != 3#2
  | .fclass _ _ _ t => t != 3#2
  | .fcmpeq _ _ n _ t => t != 3#2 && n != 0#3
  | .fcmpne _ _ n _ t => t != 3#2 && n != 0#3
  | .fcmplt _ _ n _ t => t != 3#2 && n != 0#3
  | .fcmple _ _ n _ t => t != 3#2 && n != 0#3
  | .fcmpun _ _ n _ t => t != 3#2 && n != 0#3
  | .iadd _ _ _ _ t => t != 3#2
  | .isub _ _ _ _ t => t != 3#2
  | .imul _ _ _ _ t => t != 3#2
  | .imulh _ _ _ _ t => t != 3#2
  | .imad _ _ _ _ t => t != 3#2
  | .imin _ _ _ _ t => t != 3#2
  | .imax _ _ _ _ t => t != 3#2
  | .iminu _ _ _ _ t => t != 3#2
  | .imaxu _ _ _ _ t => t != 3#2
  | .iand _ _ _ _ t => t != 3#2
  | .ior _ _ _ _ t => t != 3#2
  | .ixor _ _ _ _ t => t != 3#2
  | .ishl _ _ _ _ t => t != 3#2
  | .ishrl _ _ _ _ t => t != 3#2
  | .ishra _ _ _ _ t => t != 3#2
  | .iabs _ _ _ t => t != 3#2
  | .ipopc _ _ _ t => t != 3#2
  | .iclz _ _ _ t => t != 3#2
  | .icmpeq _ _ n _ t => t != 3#2 && n != 0#3
  | .icmplt _ _ n _ t => t != 3#2 && n != 0#3
  | .icmpltu _ _ n _ t => t != 3#2 && n != 0#3
  | .iadds _ _ _ _ t => t != 3#2
  | .isubs _ _ _ _ t => t != 3#2
  | .clmul _ _ _ _ t => t != 3#2
  | .cvt _ _ _ _ => true
  | .packb _ _ f _ => (f == 6#5 || f == 7#5 || f == 8#5)
  | .unpkb _ _ f _ => (f == 6#5 || f == 7#5 || f == 8#5)
  | .cvtax _ _ _ _ => true
  | .cvtxa _ _ _ _ => true
  | .mov _ _ _ => true
  | .movi _ _ => true
  | .movs _ _ => true
  | .mvls _ _ _ => true
  | .sel _ _ _ _ t => t != 3#2
  | .xcl _ _ _ t => t != 3#2
  | .perm _ _ _ _ t => t != 3#2
  | .compress _ _ n _ t => t != 3#2 && n != 0#3
  | .expand _ _ _ t => t != 3#2
  | .rsum _ _ _ t => t != 3#2
  | .rmax _ _ _ t => t != 3#2
  | .rmin _ _ _ t => t != 3#2
  | .scan _ _ _ t => t != 3#2
  | .xcopy _ _ _ => true
  | .xbcast _ _ _ => true
  | .lbcast _ _ _ => true
  | .qand d _ _ => d != 0#3
  | .qor d _ _ => d != 0#3
  | .qxor d _ _ => d != 0#3
  | .qandn d _ _ => d != 0#3
  | .qset d _ t => t != 3#2 && d != 0#3
  | .qpop _ _ => true
  | .vcfgw _ => true
  | .rcp _ _ _ t => t != 3#2
  | .rsq _ _ _ t => t != 3#2
  | .sqrt _ _ _ t => t != 3#2
  | .exp2 _ _ _ t => t != 3#2
  | .log2 _ _ _ t => t != 3#2
  | .tanh _ _ _ t => t != 3#2
  | .sigm _ _ _ t => t != 3#2
  | .erf _ _ _ t => t != 3#2
  | .sin _ _ _ t => t != 3#2
  | .cos _ _ _ t => t != 3#2
  | .expe _ _ _ t => t != 3#2
  | .gelu _ _ _ t => t != 3#2
  | .mcfg _ _ => true
  | .mwload s m => (m == 0#1 || decide (s.toNat < 16))
  | .mmul _ s q _ => (q == 0#1 || decide (s.toNat < 16))
  | .mmac _ s q _ => (q == 0#1 || decide (s.toNat < 16))
  | .mdrain _ _ _ _ f => decide (1 ≤ f.toNat) && decide (f.toNat ≤ 5)
  | .mzero _ => true
  | .mtrn _ _ => true
  | .mscale t _ tgt => tgt != 3#2 && (tgt != 1#2 || t == 0#3)
  | .mchk _ _ => true
  | .msave _ _ _ => true
  | .mrest _ _ => true
  | .mwait _ _ => true
  | .copy _ _ => true
  | .seqdef _ _ => true
  | .grpdef _ _ => true
  | .hpair _ _ => true
  | .trcfg _ _ => true
  | .enq _ _ => true
  | .bundleIssue => true
  | .resultLand => true
  | .interlockReturn => true
  | .waittWake => true
  | .nop => true
  | .ret => true
  | .eret => true
  | .endt => true
  | .yield => true
  | .rwflush => true
  | .snop => true
  | .vnop => true
  | .mwswap => true
  | .tarragonIdleClose => true
  | .matrixOpStart => true
  | .matrixOpComplete => true
  | .copyh => true
  | .fill => true
  | .copyComplete => true
  | .seqcond => true
  | .seqstop => true
  | .seqUnitFetch => true
  | .grpabort => true
  | .collExpRecord => true
  | .collExponentReturn => true
  | .collRootChunk => true
  | .collResult => true
  | .collRootTimeout => true
  | .collFailureNotice => true
  | .collMemberTimeout => true
  | .hpairComplete => true
  | .hpennant => true
  | .hstat => true
  | .pennantArrival => true
  | .trflush => true
  | .traceRecordWrite => true
  | .taskStartArrival => true
  | .chunkArrival => true
  | .chunkHopCheck => true
  | .returnArrival => true
  | .censusSend => true
  | .censusArrival => true
  | .refusalArrival => true
  | .refusedChunkResend => true
  | .replayRequestArrival => true
  | .rotComplete => true
  | .preemptEvict => true
  | .taskResume => true
  | .powerGrant => true
  | .launch => true
  | .graphAccept => true
  | .runNodeBind => true
  | .configLoad => true
  | .configDrop => true
  | .copyNodeStart => true
  | .waitNode => true
  | .waitNodeTimeout => true
  | .condNode => true
  | .hringNode => true
  | .hringIrqTimer => true
  | .endNode => true
  | .dcpSelect => true
  | .dcpResume => true
  | .dcpStep => true
  | .dcpKill => true
  | .dcpPost => true
  | .trapRecordPost => true
  | .fbPop => true
  | .tqPop => true
  | .elogPop => true
  | .faultRecordPost => true
  | .fbResp => true
  | .xltInv => true
  | .walkerTranslate => true
  | .quarFree => true
  | .quarantineRelease => true
  | .hostStagingAccess => true
  | .registerWrite => true
  | .flitReceive => true
  | .nackReceive => true
  | .laneLockLoss => true
  | .linkSilenceTimeout => true
  | .retrainAttemptEnd => true
  | .linkEnable => true
  | .packetInject => true
  | .packetForward => true
  | .e2eDeliver => true
  | .e2eAckReceive => true
  | .e2eResendTimeout => true
  | .remoteRequest => true
  | .remoteResponse => true
  | .farAccessTimeout => true
  | .rtDataWrite => true
  | .generationSwap => true
  | .bootInj => true
  | .bootAnnounce => true
  | .bootData => true
  | .bootVerify => true
  | .bootCommit => true
  | .bootReply => true
  | .timeExchange => true
  | .ptpSync => true
  | .ppsEdge => true
  | .timeHoldover => true
  | .powerOverStep => true
  | .keyLoad => true
  | .keyErase => true
  | .keyBindtx => true
  | .keyBindrx => true
  | .keyRekey => true
  | .attestation => true
  | .hostRingEnable => true
  | .hostRingTail => true
  | .msixUnmask => true
  | .eccCorrectable => true
  | .eccUncorrectable => true
  | .scrub => true
  | .shadowCompare => true
  | .shadowTimeout => true
  | .regionKill => true
  | .dieFence => true
  | .dcpWatchdogMiss => true
  | .linkRetire => true
  | .streamReset => true
  | .pkgAdopt => true
  | .cmapRowWrite => true
  | .cmapPairMove => true
  | .recArm => true
  | .rwTableLoad => true
  | .rwTableLoadDone => true
  | .scanGo => true
  | .scanDrainDone => true
  | .scanSegmentEnd => true
  | .scanAbort => true
  | .dieReset => true
  | .tileTableReadTimeout => true
  | .newerAttemptDrop => true
  | .engineCommandComplete => true
  | .packageReset => true
  | .powerMeasurementUpdate => true
  | .coolantAlarm => true
  | .boundaryRetrainFailed => true

/-- A well-formed instruction. -/
abbrev Instr.WellFormed (i : Instr) : Prop := i.wf = true

end Sys2Proof
end

