-- ==== Sys2Proof/Decode.lean ====
section
/-! DEFINITION. The decoder of slot words and bundles (R104-R117), total on any words and rejecting by name, and the
encoder of slot instructions, both from the encoding tables of R104-R116 and of the opcode table. A slot word has a
meaning only in the class of its slot: the same word names different instructions in slots A, S, V0, F and M0. -/

namespace Sys2Proof

/-- Why a word is no instruction of its slot (R117). -/
inductive DecodeErr where
  /-- an opcode that the map of the class does not list -/
  | unassigned
  /-- a field marked zero in R110-R116 is nonzero, or a fixed bit differs -/
  | zeroField
  /-- a field outside its limits, a write to q0 among them -/
  | fieldLimit
  /-- an assigned opcode in a slot that may not hold it -/
  | wrongSlot
  deriving DecidableEq, Repr

/-- Accepts a decoded instruction when its fixed bits are right and its fields lie within their limits. -/
def finish (fixed : Bool) (i : Instr) : Except DecodeErr Instr :=
  if fixed then (if i.wf then .ok i else .error .fieldLimit) else .error .zeroField


/-- the scalar class (R112), slots A and B: the instruction a word encodes, or why it is none (R117). Field places are
those of R110 and R111. -/
def decodeScalar (w : W32) : Except DecodeErr Instr :=
  match (w.extractLsb' 20 7).toNat with
  | 0x00 => finish (w &&& 0x000FFFFF#32 == 0x00000000#32) (.nop)
  | 0x01 => finish (w &&& 0x00000000#32 == 0x00000000#32) (.add (w.extractLsb' 14 6) (w.extractLsb' 8 6) (w.extractLsb' 2 6) (w.extractLsb' 0 2))
  | 0x02 => finish (w &&& 0x00000000#32 == 0x00000000#32) (.sub (w.extractLsb' 14 6) (w.extractLsb' 8 6) (w.extractLsb' 2 6) (w.extractLsb' 0 2))
  | 0x03 => finish (w &&& 0x00000000#32 == 0x00000000#32) (.mul (w.extractLsb' 14 6) (w.extractLsb' 8 6) (w.extractLsb' 2 6) (w.extractLsb' 0 2))
  | 0x04 => finish (w &&& 0x00000000#32 == 0x00000000#32) (.mulhs (w.extractLsb' 14 6) (w.extractLsb' 8 6) (w.extractLsb' 2 6) (w.extractLsb' 0 2))
  | 0x05 => finish (w &&& 0x00000000#32 == 0x00000000#32) (.mulhu (w.extractLsb' 14 6) (w.extractLsb' 8 6) (w.extractLsb' 2 6) (w.extractLsb' 0 2))
  | 0x06 => finish (w &&& 0x00000000#32 == 0x00000000#32) (.and (w.extractLsb' 14 6) (w.extractLsb' 8 6) (w.extractLsb' 2 6) (w.extractLsb' 0 2))
  | 0x07 => finish (w &&& 0x00000000#32 == 0x00000000#32) (.or (w.extractLsb' 14 6) (w.extractLsb' 8 6) (w.extractLsb' 2 6) (w.extractLsb' 0 2))
  | 0x08 => finish (w &&& 0x00000000#32 == 0x00000000#32) (.xor (w.extractLsb' 14 6) (w.extractLsb' 8 6) (w.extractLsb' 2 6) (w.extractLsb' 0 2))
  | 0x09 => finish (w &&& 0x00000000#32 == 0x00000000#32) (.andn (w.extractLsb' 14 6) (w.extractLsb' 8 6) (w.extractLsb' 2 6) (w.extractLsb' 0 2))
  | 0x0A => finish (w &&& 0x00000000#32 == 0x00000000#32) (.orn (w.extractLsb' 14 6) (w.extractLsb' 8 6) (w.extractLsb' 2 6) (w.extractLsb' 0 2))
  | 0x0B => finish (w &&& 0x00000000#32 == 0x00000000#32) (.shl (w.extractLsb' 14 6) (w.extractLsb' 8 6) (w.extractLsb' 2 6) (w.extractLsb' 0 2))
  | 0x0C => finish (w &&& 0x00000000#32 == 0x00000000#32) (.shrl (w.extractLsb' 14 6) (w.extractLsb' 8 6) (w.extractLsb' 2 6) (w.extractLsb' 0 2))
  | 0x0D => finish (w &&& 0x00000000#32 == 0x00000000#32) (.shra (w.extractLsb' 14 6) (w.extractLsb' 8 6) (w.extractLsb' 2 6) (w.extractLsb' 0 2))
  | 0x0E => finish (w &&& 0x00000000#32 == 0x00000000#32) (.rotl (w.extractLsb' 14 6) (w.extractLsb' 8 6) (w.extractLsb' 2 6) (w.extractLsb' 0 2))
  | 0x0F => finish (w &&& 0x00000000#32 == 0x00000000#32) (.min (w.extractLsb' 14 6) (w.extractLsb' 8 6) (w.extractLsb' 2 6) (w.extractLsb' 0 2))
  | 0x10 => finish (w &&& 0x00000000#32 == 0x00000000#32) (.max (w.extractLsb' 14 6) (w.extractLsb' 8 6) (w.extractLsb' 2 6) (w.extractLsb' 0 2))
  | 0x11 => finish (w &&& 0x00000000#32 == 0x00000000#32) (.minu (w.extractLsb' 14 6) (w.extractLsb' 8 6) (w.extractLsb' 2 6) (w.extractLsb' 0 2))
  | 0x12 => finish (w &&& 0x00000000#32 == 0x00000000#32) (.maxu (w.extractLsb' 14 6) (w.extractLsb' 8 6) (w.extractLsb' 2 6) (w.extractLsb' 0 2))
  | 0x13 => finish (w &&& 0x000000FC#32 == 0x00000000#32) (.clz (w.extractLsb' 14 6) (w.extractLsb' 8 6) (w.extractLsb' 0 2))
  | 0x14 => finish (w &&& 0x000000FC#32 == 0x00000000#32) (.ctz (w.extractLsb' 14 6) (w.extractLsb' 8 6) (w.extractLsb' 0 2))
  | 0x15 => finish (w &&& 0x000000FC#32 == 0x00000000#32) (.popc (w.extractLsb' 14 6) (w.extractLsb' 8 6) (w.extractLsb' 0 2))
  | 0x16 => finish (w &&& 0x000000FC#32 == 0x00000000#32) (.bswap (w.extractLsb' 14 6) (w.extractLsb' 8 6) (w.extractLsb' 0 2))
  | 0x17 => finish (w &&& 0x00000003#32 == 0x00000000#32) (.extz (w.extractLsb' 14 6) (w.extractLsb' 8 6) (w.extractLsb' 2 6))
  | 0x18 => finish (w &&& 0x00000003#32 == 0x00000000#32) (.exts (w.extractLsb' 14 6) (w.extractLsb' 8 6) (w.extractLsb' 2 6))
  | 0x19 => finish (w &&& 0x00000003#32 == 0x00000000#32) (.ins (w.extractLsb' 14 6) (w.extractLsb' 8 6) (w.extractLsb' 2 6))
  | 0x20 => finish (w &&& 0x00000000#32 == 0x00000000#32) (.addi (w.extractLsb' 14 6) (w.extractLsb' 8 6) (w.extractLsb' 0 8))
  | 0x21 => finish (w &&& 0x00000000#32 == 0x00000000#32) (.andi (w.extractLsb' 14 6) (w.extractLsb' 8 6) (w.extractLsb' 0 8))
  | 0x22 => finish (w &&& 0x00000000#32 == 0x00000000#32) (.ori (w.extractLsb' 14 6) (w.extractLsb' 8 6) (w.extractLsb' 0 8))
  | 0x23 => finish (w &&& 0x00000000#32 == 0x00000000#32) (.xori (w.extractLsb' 14 6) (w.extractLsb' 8 6) (w.extractLsb' 0 8))
  | 0x24 => finish (w &&& 0x000000C0#32 == 0x00000000#32) (.shli (w.extractLsb' 14 6) (w.extractLsb' 8 6) (w.extractLsb' 0 6))
  | 0x25 => finish (w &&& 0x000000C0#32 == 0x00000000#32) (.shrli (w.extractLsb' 14 6) (w.extractLsb' 8 6) (w.extractLsb' 0 6))
  | 0x26 => finish (w &&& 0x000000C0#32 == 0x00000000#32) (.shrai (w.extractLsb' 14 6) (w.extractLsb' 8 6) (w.extractLsb' 0 6))
  | 0x27 => finish (w &&& 0x00000000#32 == 0x00000000#32) (.ldi (w.extractLsb' 14 6) (w.extractLsb' 0 14))
  | 0x28 => finish (w &&& 0x00000000#32 == 0x00000000#32) (.ldis (w.extractLsb' 14 6) (w.extractLsb' 0 14))
  | 0x30 => finish (w &&& 0x0000C003#32 == 0x00000000#32) (.cmpEq (w.extractLsb' 16 4) (w.extractLsb' 8 6) (w.extractLsb' 2 6))
  | 0x31 => finish (w &&& 0x0000C003#32 == 0x00000000#32) (.cmpNe (w.extractLsb' 16 4) (w.extractLsb' 8 6) (w.extractLsb' 2 6))
  | 0x32 => finish (w &&& 0x0000C003#32 == 0x00000000#32) (.cmpLt (w.extractLsb' 16 4) (w.extractLsb' 8 6) (w.extractLsb' 2 6))
  | 0x33 => finish (w &&& 0x0000C003#32 == 0x00000000#32) (.cmpLe (w.extractLsb' 16 4) (w.extractLsb' 8 6) (w.extractLsb' 2 6))
  | 0x34 => finish (w &&& 0x0000C003#32 == 0x00000000#32) (.cmpGt (w.extractLsb' 16 4) (w.extractLsb' 8 6) (w.extractLsb' 2 6))
  | 0x35 => finish (w &&& 0x0000C003#32 == 0x00000000#32) (.cmpGe (w.extractLsb' 16 4) (w.extractLsb' 8 6) (w.extractLsb' 2 6))
  | 0x36 => finish (w &&& 0x0000C003#32 == 0x00000000#32) (.cmpLtu (w.extractLsb' 16 4) (w.extractLsb' 8 6) (w.extractLsb' 2 6))
  | 0x37 => finish (w &&& 0x0000C003#32 == 0x00000000#32) (.cmpLeu (w.extractLsb' 16 4) (w.extractLsb' 8 6) (w.extractLsb' 2 6))
  | 0x38 => finish (w &&& 0x0000C003#32 == 0x00000000#32) (.cmpGtu (w.extractLsb' 16 4) (w.extractLsb' 8 6) (w.extractLsb' 2 6))
  | 0x39 => finish (w &&& 0x0000C003#32 == 0x00000000#32) (.cmpGeu (w.extractLsb' 16 4) (w.extractLsb' 8 6) (w.extractLsb' 2 6))
  | 0x3C => finish (w &&& 0x0000E083#32 == 0x00000000#32) (.pand (w.extractLsb' 16 4) (w.extractLsb' 8 5) (w.extractLsb' 2 5))
  | 0x3D => finish (w &&& 0x0000E083#32 == 0x00000000#32) (.por (w.extractLsb' 16 4) (w.extractLsb' 8 5) (w.extractLsb' 2 5))
  | 0x3E => finish (w &&& 0x0000E083#32 == 0x00000000#32) (.pxor (w.extractLsb' 16 4) (w.extractLsb' 8 5) (w.extractLsb' 2 5))
  | 0x3F => finish (w &&& 0x0000E083#32 == 0x00000000#32) (.pandn (w.extractLsb' 16 4) (w.extractLsb' 8 5) (w.extractLsb' 2 5))
  | 0x40 => finish (w &&& 0x0000C000#32 == 0x00000000#32) (.cmpiEq (w.extractLsb' 16 4) (w.extractLsb' 8 6) (w.extractLsb' 0 8))
  | 0x41 => finish (w &&& 0x0000C000#32 == 0x00000000#32) (.cmpiNe (w.extractLsb' 16 4) (w.extractLsb' 8 6) (w.extractLsb' 0 8))
  | 0x42 => finish (w &&& 0x0000C000#32 == 0x00000000#32) (.cmpiLt (w.extractLsb' 16 4) (w.extractLsb' 8 6) (w.extractLsb' 0 8))
  | 0x43 => finish (w &&& 0x0000C000#32 == 0x00000000#32) (.cmpiLe (w.extractLsb' 16 4) (w.extractLsb' 8 6) (w.extractLsb' 0 8))
  | 0x44 => finish (w &&& 0x0000C000#32 == 0x00000000#32) (.cmpiGt (w.extractLsb' 16 4) (w.extractLsb' 8 6) (w.extractLsb' 0 8))
  | 0x45 => finish (w &&& 0x0000C000#32 == 0x00000000#32) (.cmpiGe (w.extractLsb' 16 4) (w.extractLsb' 8 6) (w.extractLsb' 0 8))
  | 0x46 => finish (w &&& 0x0000C000#32 == 0x00000000#32) (.cmpiLtu (w.extractLsb' 16 4) (w.extractLsb' 8 6) (w.extractLsb' 0 8))
  | 0x47 => finish (w &&& 0x0000C000#32 == 0x00000000#32) (.cmpiLeu (w.extractLsb' 16 4) (w.extractLsb' 8 6) (w.extractLsb' 0 8))
  | 0x48 => finish (w &&& 0x0000C000#32 == 0x00000000#32) (.cmpiGtu (w.extractLsb' 16 4) (w.extractLsb' 8 6) (w.extractLsb' 0 8))
  | 0x49 => finish (w &&& 0x0000C000#32 == 0x00000000#32) (.cmpiGeu (w.extractLsb' 16 4) (w.extractLsb' 8 6) (w.extractLsb' 0 8))
  | 0x50 => finish (w &&& 0x00000000#32 == 0x00000000#32) (.br (w.extractLsb' 0 20))
  | 0x51 => finish (w &&& 0x00000000#32 == 0x00000000#32) (.call (w.extractLsb' 0 20))
  | 0x52 => finish (w &&& 0x000FC0FF#32 == 0x00000000#32) (.brx (w.extractLsb' 8 6))
  | 0x53 => finish (w &&& 0x000FC0FF#32 == 0x00000000#32) (.callx (w.extractLsb' 8 6))
  | 0x54 => finish (w &&& 0x000FFFFF#32 == 0x00000000#32) (.ret)
  | 0x55 => finish (w &&& 0x000FC0E0#32 == 0x00000000#32) (.loop (w.extractLsb' 8 6) (w.extractLsb' 0 5))
  | 0x56 => finish (w &&& 0x00000000#32 == 0x00000000#32) (.brloop (w.extractLsb' 0 20))
  | 0x57 => finish (w &&& 0x000FC000#32 == 0x00000000#32) (.trap (w.extractLsb' 0 14))
  | 0x58 => finish (w &&& 0x000FFFFF#32 == 0x00000000#32) (.eret)
  | 0x59 => finish (w &&& 0x000FFFFF#32 == 0x00000000#32) (.endt)
  | 0x5A => finish (w &&& 0x000FFFFF#32 == 0x00000000#32) (.yield)
  | 0x5B => finish (w &&& 0x000FC0FF#32 == 0x00000000#32) (.waitt (w.extractLsb' 8 6))
  | 0x5C => finish (w &&& 0x000FC0FF#32 == 0x00000000#32) (.waitev (w.extractLsb' 8 6))
  | 0x5D => finish (w &&& 0x000FC000#32 == 0x00000000#32) (.bkpt (w.extractLsb' 0 14))
  | 0x60 => finish (w &&& 0x00000003#32 == 0x00000000#32) (.xlt (w.extractLsb' 14 6) (w.extractLsb' 8 6) (w.extractLsb' 2 6))
  | 0x61 =>
    match (w.extractLsb' 16 4).toNat with
    | 0 => finish (w &&& 0x0000C003#32 == 0x00000000#32) (.copy (w.extractLsb' 8 6) (w.extractLsb' 2 6))
    | 1 => finish (w &&& 0x0000C003#32 == 0x00000000#32) (.seqdef (w.extractLsb' 8 6) (w.extractLsb' 2 6))
    | 2 => finish (w &&& 0x0000C003#32 == 0x00000000#32) (.grpdef (w.extractLsb' 8 6) (w.extractLsb' 2 6))
    | 3 => finish (w &&& 0x0000C003#32 == 0x00000000#32) (.hpair (w.extractLsb' 8 6) (w.extractLsb' 2 6))
    | 4 => finish (w &&& 0x0000C003#32 == 0x00000000#32) (.trcfg (w.extractLsb' 8 6) (w.extractLsb' 2 6))
    | 5 => finish (w &&& 0x0000C003#32 == 0x00000000#32) (.enq (w.extractLsb' 8 6) (w.extractLsb' 2 6))
    | _ => .error .fieldLimit
  | 0x62 => finish (w &&& 0x000FFFC0#32 == 0x00000000#32) (.xwait (w.extractLsb' 0 6))
  | 0x63 => finish (w &&& 0x0000FF00#32 == 0x00000000#32) (.xpoll (w.extractLsb' 16 4) (w.extractLsb' 0 8))
  | 0x70 => finish (w &&& 0x00003000#32 == 0x00000000#32) (.csrr (w.extractLsb' 14 6) (w.extractLsb' 0 12))
  | 0x71 => finish (w &&& 0x00003000#32 == 0x00000000#32) (.csrw (w.extractLsb' 14 6) (w.extractLsb' 0 12))
  | 0x72 => finish (w &&& 0x00003000#32 == 0x00000000#32) (.csrs (w.extractLsb' 14 6) (w.extractLsb' 0 12))
  | 0x73 => finish (w &&& 0x00003000#32 == 0x00000000#32) (.csrc (w.extractLsb' 14 6) (w.extractLsb' 0 12))
  | 0x74 => finish (w &&& 0x00003FFF#32 == 0x00000000#32) (.rdtime (w.extractLsb' 14 6))
  | 0x75 => finish (w &&& 0x00003FFF#32 == 0x00000000#32) (.rdcyc (w.extractLsb' 14 6))
  | 0x76 => finish (w &&& 0x000FFFF0#32 == 0x00000000#32) (.ctrstart (w.extractLsb' 0 4))
  | 0x77 => finish (w &&& 0x000FFFF0#32 == 0x00000000#32) (.ctrstop (w.extractLsb' 0 4))
  | 0x78 => finish (w &&& 0x000FC000#32 == 0x00000000#32) (.tmark (w.extractLsb' 8 6) (w.extractLsb' 0 8))
  | 0x79 => finish (w &&& 0x000FC000#32 == 0x00000000#32) (.powreq (w.extractLsb' 0 14))
  | 0x7A => finish (w &&& 0x000FC000#32 == 0x00000000#32) (.powrel (w.extractLsb' 0 14))
  | 0x7B => finish (w &&& 0x000FFFFF#32 == 0x00000000#32) (.rwflush)
  | 0x7C => finish (w &&& 0x000000FF#32 == 0x00000000#32) (.mvpq (w.extractLsb' 17 3) (w.extractLsb' 14 3) (w.extractLsb' 8 6))
  | 0x7D => finish (w &&& 0x000000FF#32 == 0x00000000#32) (.mvqp (w.extractLsb' 14 6) (w.extractLsb' 11 3) (w.extractLsb' 8 3))
  | _ => .error .unassigned

/-- the S class (R113), slot S: the instruction a word encodes, or why it is none (R117). Field places are those of R110
and R111. -/
def decodeMem (w : W32) : Except DecodeErr Instr :=
  match (w.extractLsb' 20 7).toNat with
  | 0x00 => finish (w &&& 0x000FFFFF#32 == 0x00000000#32) (.snop)
  | 0x01 => finish (w &&& 0x00000000#32 == 0x00000000#32) (.ld (w.extractLsb' 14 6) (w.extractLsb' 8 6) (w.extractLsb' 5 3) (w.extractLsb' 3 2) (w.extractLsb' 0 3))
  | 0x02 => finish (w &&& 0x00000000#32 == 0x00000000#32) (.ldz (w.extractLsb' 14 6) (w.extractLsb' 8 6) (w.extractLsb' 5 3) (w.extractLsb' 3 2) (w.extractLsb' 0 3))
  | 0x03 => finish (w &&& 0x00000000#32 == 0x00000000#32) (.st (w.extractLsb' 14 6) (w.extractLsb' 8 6) (w.extractLsb' 5 3) (w.extractLsb' 3 2) (w.extractLsb' 0 3))
  | 0x04 =>
    if w.extractLsb' 19 1 = 0#1 then finish (w &&& 0x00080000#32 == 0x00000000#32) (.vld (w.extractLsb' 14 5) (w.extractLsb' 8 6) (w.extractLsb' 5 3) (w.extractLsb' 0 5))
    else finish (w &&& 0x0008301F#32 == 0x00080000#32) (.vldSequenced (w.extractLsb' 14 5) (w.extractLsb' 8 4) (w.extractLsb' 5 3))
  | 0x05 => finish (w &&& 0x00080000#32 == 0x00000000#32) (.vst (w.extractLsb' 14 5) (w.extractLsb' 8 6) (w.extractLsb' 5 3) (w.extractLsb' 0 5))
  | 0x06 => finish (w &&& 0x00080000#32 == 0x00000000#32) (.vldc (w.extractLsb' 14 5) (w.extractLsb' 8 6) (w.extractLsb' 5 3) (w.extractLsb' 2 3) (w.extractLsb' 0 2))
  | 0x07 => finish (w &&& 0x00080000#32 == 0x00000000#32) (.vstc (w.extractLsb' 14 5) (w.extractLsb' 8 6) (w.extractLsb' 5 3) (w.extractLsb' 2 3) (w.extractLsb' 0 2))
  | 0x08 => finish (w &&& 0x00080000#32 == 0x00000000#32) (.vldq (w.extractLsb' 14 5) (w.extractLsb' 8 6) (w.extractLsb' 5 3) (w.extractLsb' 2 3) (w.extractLsb' 0 2))
  | 0x09 => finish (w &&& 0x00080000#32 == 0x00000000#32) (.vstq (w.extractLsb' 14 5) (w.extractLsb' 8 6) (w.extractLsb' 5 3) (w.extractLsb' 2 3) (w.extractLsb' 0 2))
  | 0x10 => finish (w &&& 0x00000000#32 == 0x00000000#32) (.lds (w.extractLsb' 14 6) (w.extractLsb' 8 6) (w.extractLsb' 5 3) (w.extractLsb' 3 2) (w.extractLsb' 0 3))
  | 0x11 => finish (w &&& 0x00000000#32 == 0x00000000#32) (.ldse (w.extractLsb' 14 6) (w.extractLsb' 8 6) (w.extractLsb' 5 3) (w.extractLsb' 3 2) (w.extractLsb' 0 3))
  | 0x12 => finish (w &&& 0x00000000#32 == 0x00000000#32) (.stf (w.extractLsb' 14 6) (w.extractLsb' 8 6) (w.extractLsb' 5 3) (w.extractLsb' 3 2) (w.extractLsb' 0 3))
  | 0x13 => finish (w &&& 0x000FC018#32 == 0x00000018#32) (.sete (w.extractLsb' 8 6) (w.extractLsb' 5 3) (w.extractLsb' 0 3))
  | 0x18 => finish (w &&& 0x00000010#32 == 0x00000010#32) (.amoadd (w.extractLsb' 14 6) (w.extractLsb' 8 6) (w.extractLsb' 5 3) (w.extractLsb' 3 1) (w.extractLsb' 0 3))
  | 0x19 => finish (w &&& 0x00000010#32 == 0x00000010#32) (.amomin (w.extractLsb' 14 6) (w.extractLsb' 8 6) (w.extractLsb' 5 3) (w.extractLsb' 3 1) (w.extractLsb' 0 3))
  | 0x1A => finish (w &&& 0x00000010#32 == 0x00000010#32) (.amomax (w.extractLsb' 14 6) (w.extractLsb' 8 6) (w.extractLsb' 5 3) (w.extractLsb' 3 1) (w.extractLsb' 0 3))
  | 0x1B => finish (w &&& 0x00000010#32 == 0x00000010#32) (.amoand (w.extractLsb' 14 6) (w.extractLsb' 8 6) (w.extractLsb' 5 3) (w.extractLsb' 3 1) (w.extractLsb' 0 3))
  | 0x1C => finish (w &&& 0x00000010#32 == 0x00000010#32) (.amoor (w.extractLsb' 14 6) (w.extractLsb' 8 6) (w.extractLsb' 5 3) (w.extractLsb' 3 1) (w.extractLsb' 0 3))
  | 0x1D => finish (w &&& 0x00000010#32 == 0x00000010#32) (.amoxor (w.extractLsb' 14 6) (w.extractLsb' 8 6) (w.extractLsb' 5 3) (w.extractLsb' 3 1) (w.extractLsb' 0 3))
  | 0x1E => finish (w &&& 0x00000010#32 == 0x00000010#32) (.amoswap (w.extractLsb' 14 6) (w.extractLsb' 8 6) (w.extractLsb' 5 3) (w.extractLsb' 3 1) (w.extractLsb' 0 3))
  | 0x1F => finish (w &&& 0x00004010#32 == 0x00000010#32) (.amocas (w.extractLsb' 15 5) (w.extractLsb' 8 6) (w.extractLsb' 5 3) (w.extractLsb' 3 1) (w.extractLsb' 0 3))
  | 0x20 => finish (w &&& 0x00000000#32 == 0x00000000#32) (.ldF (w.extractLsb' 14 6) (w.extractLsb' 8 6) (w.extractLsb' 5 3) (w.extractLsb' 3 2) (w.extractLsb' 0 3))
  | 0x21 => finish (w &&& 0x00000000#32 == 0x00000000#32) (.stF (w.extractLsb' 14 6) (w.extractLsb' 8 6) (w.extractLsb' 5 3) (w.extractLsb' 3 2) (w.extractLsb' 0 3))
  | 0x22 => finish (w &&& 0x00080000#32 == 0x00000000#32) (.vldF (w.extractLsb' 14 5) (w.extractLsb' 8 6) (w.extractLsb' 5 3) (w.extractLsb' 0 5))
  | 0x23 => finish (w &&& 0x00080000#32 == 0x00000000#32) (.vstF (w.extractLsb' 14 5) (w.extractLsb' 8 6) (w.extractLsb' 5 3) (w.extractLsb' 0 5))
  | 0x28 => finish (w &&& 0x00000010#32 == 0x00000010#32) (.amoaddF (w.extractLsb' 14 6) (w.extractLsb' 8 6) (w.extractLsb' 5 3) (w.extractLsb' 3 1) (w.extractLsb' 0 3))
  | 0x29 => finish (w &&& 0x00000010#32 == 0x00000010#32) (.amominF (w.extractLsb' 14 6) (w.extractLsb' 8 6) (w.extractLsb' 5 3) (w.extractLsb' 3 1) (w.extractLsb' 0 3))
  | 0x2A => finish (w &&& 0x00000010#32 == 0x00000010#32) (.amomaxF (w.extractLsb' 14 6) (w.extractLsb' 8 6) (w.extractLsb' 5 3) (w.extractLsb' 3 1) (w.extractLsb' 0 3))
  | 0x2B => finish (w &&& 0x00000010#32 == 0x00000010#32) (.amoandF (w.extractLsb' 14 6) (w.extractLsb' 8 6) (w.extractLsb' 5 3) (w.extractLsb' 3 1) (w.extractLsb' 0 3))
  | 0x2C => finish (w &&& 0x00000010#32 == 0x00000010#32) (.amoorF (w.extractLsb' 14 6) (w.extractLsb' 8 6) (w.extractLsb' 5 3) (w.extractLsb' 3 1) (w.extractLsb' 0 3))
  | 0x2D => finish (w &&& 0x00000010#32 == 0x00000010#32) (.amoxorF (w.extractLsb' 14 6) (w.extractLsb' 8 6) (w.extractLsb' 5 3) (w.extractLsb' 3 1) (w.extractLsb' 0 3))
  | 0x2E => finish (w &&& 0x00000010#32 == 0x00000010#32) (.amoswapF (w.extractLsb' 14 6) (w.extractLsb' 8 6) (w.extractLsb' 5 3) (w.extractLsb' 3 1) (w.extractLsb' 0 3))
  | 0x2F => finish (w &&& 0x00004010#32 == 0x00000010#32) (.amocasF (w.extractLsb' 15 5) (w.extractLsb' 8 6) (w.extractLsb' 5 3) (w.extractLsb' 3 1) (w.extractLsb' 0 3))
  | 0x30 => finish (w &&& 0x00000FF8#32 == 0x00000000#32) (.fence (w.extractLsb' 12 8) (w.extractLsb' 0 3))
  | 0x31 => finish (w &&& 0x000C0003#32 == 0x00000000#32) (.semit (w.extractLsb' 14 4) (w.extractLsb' 8 6) (w.extractLsb' 2 6))
  | 0x32 => finish (w &&& 0x000C00FF#32 == 0x00000000#32) (.sfree (w.extractLsb' 14 4) (w.extractLsb' 8 6))
  | 0x33 => finish (w &&& 0x000030FE#32 == 0x00000000#32) (.sstat (w.extractLsb' 14 6) (w.extractLsb' 8 4) (w.extractLsb' 0 1))
  | 0x34 => finish (w &&& 0x00000003#32 == 0x00000000#32) (.rot (w.extractLsb' 14 6) (w.extractLsb' 8 6) (w.extractLsb' 2 6))
  | 0x35 => finish (w &&& 0x000FC003#32 == 0x00000000#32) (.ldred (w.extractLsb' 8 6) (w.extractLsb' 2 6))
  | 0x36 => finish (w &&& 0x00000003#32 == 0x00000000#32) (.stmc (w.extractLsb' 14 6) (w.extractLsb' 8 6) (w.extractLsb' 2 6))
  | 0x37 => finish (w &&& 0x000FC0FF#32 == 0x00000000#32) (.arrive (w.extractLsb' 8 6))
  | 0x38 => finish (w &&& 0x000FC003#32 == 0x00000000#32) (.arrivex (w.extractLsb' 8 6) (w.extractLsb' 2 6))
  | 0x39 => finish (w &&& 0x000FC0FF#32 == 0x00000000#32) (.bwait (w.extractLsb' 8 6))
  | 0x3A => finish (w &&& 0x000FC003#32 == 0x00000000#32) (.signal (w.extractLsb' 8 6) (w.extractLsb' 2 6))
  | 0x3B => finish (w &&& 0x000FC003#32 == 0x00000000#32) (.swait (w.extractLsb' 8 6) (w.extractLsb' 2 6))
  | 0x3C => finish (w &&& 0x000FC003#32 == 0x00000000#32) (.binit (w.extractLsb' 8 6) (w.extractLsb' 2 6))
  | 0x40 => finish (w &&& 0x00000000#32 == 0x00000000#32) (.ldFs (w.extractLsb' 14 6) (w.extractLsb' 8 6) (w.extractLsb' 5 3) (w.extractLsb' 3 2) (w.extractLsb' 0 3))
  | 0x41 => finish (w &&& 0x00000000#32 == 0x00000000#32) (.stFs (w.extractLsb' 14 6) (w.extractLsb' 8 6) (w.extractLsb' 5 3) (w.extractLsb' 3 2) (w.extractLsb' 0 3))
  | 0x42 => finish (w &&& 0x00080000#32 == 0x00000000#32) (.vldFs (w.extractLsb' 14 5) (w.extractLsb' 8 6) (w.extractLsb' 5 3) (w.extractLsb' 0 5))
  | 0x43 => finish (w &&& 0x00080000#32 == 0x00000000#32) (.vstFs (w.extractLsb' 14 5) (w.extractLsb' 8 6) (w.extractLsb' 5 3) (w.extractLsb' 0 5))
  | 0x48 => finish (w &&& 0x00000010#32 == 0x00000010#32) (.amoaddFs (w.extractLsb' 14 6) (w.extractLsb' 8 6) (w.extractLsb' 5 3) (w.extractLsb' 3 1) (w.extractLsb' 0 3))
  | 0x49 => finish (w &&& 0x00000010#32 == 0x00000010#32) (.amominFs (w.extractLsb' 14 6) (w.extractLsb' 8 6) (w.extractLsb' 5 3) (w.extractLsb' 3 1) (w.extractLsb' 0 3))
  | 0x4A => finish (w &&& 0x00000010#32 == 0x00000010#32) (.amomaxFs (w.extractLsb' 14 6) (w.extractLsb' 8 6) (w.extractLsb' 5 3) (w.extractLsb' 3 1) (w.extractLsb' 0 3))
  | 0x4B => finish (w &&& 0x00000010#32 == 0x00000010#32) (.amoandFs (w.extractLsb' 14 6) (w.extractLsb' 8 6) (w.extractLsb' 5 3) (w.extractLsb' 3 1) (w.extractLsb' 0 3))
  | 0x4C => finish (w &&& 0x00000010#32 == 0x00000010#32) (.amoorFs (w.extractLsb' 14 6) (w.extractLsb' 8 6) (w.extractLsb' 5 3) (w.extractLsb' 3 1) (w.extractLsb' 0 3))
  | 0x4D => finish (w &&& 0x00000010#32 == 0x00000010#32) (.amoxorFs (w.extractLsb' 14 6) (w.extractLsb' 8 6) (w.extractLsb' 5 3) (w.extractLsb' 3 1) (w.extractLsb' 0 3))
  | 0x4E => finish (w &&& 0x00000010#32 == 0x00000010#32) (.amoswapFs (w.extractLsb' 14 6) (w.extractLsb' 8 6) (w.extractLsb' 5 3) (w.extractLsb' 3 1) (w.extractLsb' 0 3))
  | 0x4F => finish (w &&& 0x00004010#32 == 0x00000010#32) (.amocasFs (w.extractLsb' 15 5) (w.extractLsb' 8 6) (w.extractLsb' 5 3) (w.extractLsb' 3 1) (w.extractLsb' 0 3))
  | _ => .error .unassigned

/-- the V class (R114), slots V0-V7: the instruction a word encodes, or why it is none (R117). Field places are those of
R110 and R111. -/
def decodeVec (w : W32) : Except DecodeErr Instr :=
  match (w.extractLsb' 20 7).toNat with
  | 0x00 => finish (w &&& 0x000FFFFF#32 == 0x00000000#32) (.vnop)
  | 0x01 => finish (w &&& 0x00000000#32 == 0x00000000#32) (.fadd (w.extractLsb' 15 5) (w.extractLsb' 10 5) (w.extractLsb' 5 5) (w.extractLsb' 2 3) (w.extractLsb' 0 2))
  | 0x02 => finish (w &&& 0x00000000#32 == 0x00000000#32) (.fsub (w.extractLsb' 15 5) (w.extractLsb' 10 5) (w.extractLsb' 5 5) (w.extractLsb' 2 3) (w.extractLsb' 0 2))
  | 0x03 => finish (w &&& 0x00000000#32 == 0x00000000#32) (.fmul (w.extractLsb' 15 5) (w.extractLsb' 10 5) (w.extractLsb' 5 5) (w.extractLsb' 2 3) (w.extractLsb' 0 2))
  | 0x04 => finish (w &&& 0x00000000#32 == 0x00000000#32) (.fma (w.extractLsb' 15 5) (w.extractLsb' 10 5) (w.extractLsb' 5 5) (w.extractLsb' 2 3) (w.extractLsb' 0 2))
  | 0x05 => finish (w &&& 0x00000000#32 == 0x00000000#32) (.fms (w.extractLsb' 15 5) (w.extractLsb' 10 5) (w.extractLsb' 5 5) (w.extractLsb' 2 3) (w.extractLsb' 0 2))
  | 0x06 => finish (w &&& 0x00000000#32 == 0x00000000#32) (.fnma (w.extractLsb' 15 5) (w.extractLsb' 10 5) (w.extractLsb' 5 5) (w.extractLsb' 2 3) (w.extractLsb' 0 2))
  | 0x07 => finish (w &&& 0x00000000#32 == 0x00000000#32) (.fnms (w.extractLsb' 15 5) (w.extractLsb' 10 5) (w.extractLsb' 5 5) (w.extractLsb' 2 3) (w.extractLsb' 0 2))
  | 0x08 => finish (w &&& 0x00000000#32 == 0x00000000#32) (.fmin (w.extractLsb' 15 5) (w.extractLsb' 10 5) (w.extractLsb' 5 5) (w.extractLsb' 2 3) (w.extractLsb' 0 2))
  | 0x09 => finish (w &&& 0x00000000#32 == 0x00000000#32) (.fmax (w.extractLsb' 15 5) (w.extractLsb' 10 5) (w.extractLsb' 5 5) (w.extractLsb' 2 3) (w.extractLsb' 0 2))
  | 0x0A => finish (w &&& 0x000003E0#32 == 0x00000000#32) (.fabs (w.extractLsb' 15 5) (w.extractLsb' 10 5) (w.extractLsb' 2 3) (w.extractLsb' 0 2))
  | 0x0B => finish (w &&& 0x000003E0#32 == 0x00000000#32) (.fneg (w.extractLsb' 15 5) (w.extractLsb' 10 5) (w.extractLsb' 2 3) (w.extractLsb' 0 2))
  | 0x0C => finish (w &&& 0x000003E0#32 == 0x00000000#32) (.frnd (w.extractLsb' 15 5) (w.extractLsb' 10 5) (w.extractLsb' 2 3) (w.extractLsb' 0 2))
  | 0x0D => finish (w &&& 0x000003E0#32 == 0x00000000#32) (.fclass (w.extractLsb' 15 5) (w.extractLsb' 10 5) (w.extractLsb' 2 3) (w.extractLsb' 0 2))
  | 0x10 => finish (w &&& 0x00000300#32 == 0x00000000#32) (.fcmpeq (w.extractLsb' 15 5) (w.extractLsb' 10 5) (w.extractLsb' 5 3) (w.extractLsb' 2 3) (w.extractLsb' 0 2))
  | 0x11 => finish (w &&& 0x00000300#32 == 0x00000000#32) (.fcmpne (w.extractLsb' 15 5) (w.extractLsb' 10 5) (w.extractLsb' 5 3) (w.extractLsb' 2 3) (w.extractLsb' 0 2))
  | 0x12 => finish (w &&& 0x00000300#32 == 0x00000000#32) (.fcmplt (w.extractLsb' 15 5) (w.extractLsb' 10 5) (w.extractLsb' 5 3) (w.extractLsb' 2 3) (w.extractLsb' 0 2))
  | 0x13 => finish (w &&& 0x00000300#32 == 0x00000000#32) (.fcmple (w.extractLsb' 15 5) (w.extractLsb' 10 5) (w.extractLsb' 5 3) (w.extractLsb' 2 3) (w.extractLsb' 0 2))
  | 0x14 => finish (w &&& 0x00000300#32 == 0x00000000#32) (.fcmpun (w.extractLsb' 15 5) (w.extractLsb' 10 5) (w.extractLsb' 5 3) (w.extractLsb' 2 3) (w.extractLsb' 0 2))
  | 0x20 => finish (w &&& 0x00000000#32 == 0x00000000#32) (.iadd (w.extractLsb' 15 5) (w.extractLsb' 10 5) (w.extractLsb' 5 5) (w.extractLsb' 2 3) (w.extractLsb' 0 2))
  | 0x21 => finish (w &&& 0x00000000#32 == 0x00000000#32) (.isub (w.extractLsb' 15 5) (w.extractLsb' 10 5) (w.extractLsb' 5 5) (w.extractLsb' 2 3) (w.extractLsb' 0 2))
  | 0x22 => finish (w &&& 0x00000000#32 == 0x00000000#32) (.imul (w.extractLsb' 15 5) (w.extractLsb' 10 5) (w.extractLsb' 5 5) (w.extractLsb' 2 3) (w.extractLsb' 0 2))
  | 0x23 => finish (w &&& 0x00000000#32 == 0x00000000#32) (.imulh (w.extractLsb' 15 5) (w.extractLsb' 10 5) (w.extractLsb' 5 5) (w.extractLsb' 2 3) (w.extractLsb' 0 2))
  | 0x24 => finish (w &&& 0x00000000#32 == 0x00000000#32) (.imad (w.extractLsb' 15 5) (w.extractLsb' 10 5) (w.extractLsb' 5 5) (w.extractLsb' 2 3) (w.extractLsb' 0 2))
  | 0x25 => finish (w &&& 0x00000000#32 == 0x00000000#32) (.imin (w.extractLsb' 15 5) (w.extractLsb' 10 5) (w.extractLsb' 5 5) (w.extractLsb' 2 3) (w.extractLsb' 0 2))
  | 0x26 => finish (w &&& 0x00000000#32 == 0x00000000#32) (.imax (w.extractLsb' 15 5) (w.extractLsb' 10 5) (w.extractLsb' 5 5) (w.extractLsb' 2 3) (w.extractLsb' 0 2))
  | 0x27 => finish (w &&& 0x00000000#32 == 0x00000000#32) (.iminu (w.extractLsb' 15 5) (w.extractLsb' 10 5) (w.extractLsb' 5 5) (w.extractLsb' 2 3) (w.extractLsb' 0 2))
  | 0x28 => finish (w &&& 0x00000000#32 == 0x00000000#32) (.imaxu (w.extractLsb' 15 5) (w.extractLsb' 10 5) (w.extractLsb' 5 5) (w.extractLsb' 2 3) (w.extractLsb' 0 2))
  | 0x29 => finish (w &&& 0x00000000#32 == 0x00000000#32) (.iand (w.extractLsb' 15 5) (w.extractLsb' 10 5) (w.extractLsb' 5 5) (w.extractLsb' 2 3) (w.extractLsb' 0 2))
  | 0x2A => finish (w &&& 0x00000000#32 == 0x00000000#32) (.ior (w.extractLsb' 15 5) (w.extractLsb' 10 5) (w.extractLsb' 5 5) (w.extractLsb' 2 3) (w.extractLsb' 0 2))
  | 0x2B => finish (w &&& 0x00000000#32 == 0x00000000#32) (.ixor (w.extractLsb' 15 5) (w.extractLsb' 10 5) (w.extractLsb' 5 5) (w.extractLsb' 2 3) (w.extractLsb' 0 2))
  | 0x2C => finish (w &&& 0x00000000#32 == 0x00000000#32) (.ishl (w.extractLsb' 15 5) (w.extractLsb' 10 5) (w.extractLsb' 5 5) (w.extractLsb' 2 3) (w.extractLsb' 0 2))
  | 0x2D => finish (w &&& 0x00000000#32 == 0x00000000#32) (.ishrl (w.extractLsb' 15 5) (w.extractLsb' 10 5) (w.extractLsb' 5 5) (w.extractLsb' 2 3) (w.extractLsb' 0 2))
  | 0x2E => finish (w &&& 0x00000000#32 == 0x00000000#32) (.ishra (w.extractLsb' 15 5) (w.extractLsb' 10 5) (w.extractLsb' 5 5) (w.extractLsb' 2 3) (w.extractLsb' 0 2))
  | 0x2F => finish (w &&& 0x000003E0#32 == 0x00000000#32) (.iabs (w.extractLsb' 15 5) (w.extractLsb' 10 5) (w.extractLsb' 2 3) (w.extractLsb' 0 2))
  | 0x30 => finish (w &&& 0x000003E0#32 == 0x00000000#32) (.ipopc (w.extractLsb' 15 5) (w.extractLsb' 10 5) (w.extractLsb' 2 3) (w.extractLsb' 0 2))
  | 0x31 => finish (w &&& 0x000003E0#32 == 0x00000000#32) (.iclz (w.extractLsb' 15 5) (w.extractLsb' 10 5) (w.extractLsb' 2 3) (w.extractLsb' 0 2))
  | 0x32 => finish (w &&& 0x00000300#32 == 0x00000000#32) (.icmpeq (w.extractLsb' 15 5) (w.extractLsb' 10 5) (w.extractLsb' 5 3) (w.extractLsb' 2 3) (w.extractLsb' 0 2))
  | 0x33 => finish (w &&& 0x00000300#32 == 0x00000000#32) (.icmplt (w.extractLsb' 15 5) (w.extractLsb' 10 5) (w.extractLsb' 5 3) (w.extractLsb' 2 3) (w.extractLsb' 0 2))
  | 0x34 => finish (w &&& 0x00000300#32 == 0x00000000#32) (.icmpltu (w.extractLsb' 15 5) (w.extractLsb' 10 5) (w.extractLsb' 5 3) (w.extractLsb' 2 3) (w.extractLsb' 0 2))
  | 0x35 => finish (w &&& 0x00000000#32 == 0x00000000#32) (.iadds (w.extractLsb' 15 5) (w.extractLsb' 10 5) (w.extractLsb' 5 5) (w.extractLsb' 2 3) (w.extractLsb' 0 2))
  | 0x36 => finish (w &&& 0x00000000#32 == 0x00000000#32) (.isubs (w.extractLsb' 15 5) (w.extractLsb' 10 5) (w.extractLsb' 5 5) (w.extractLsb' 2 3) (w.extractLsb' 0 2))
  | 0x37 => finish (w &&& 0x00000000#32 == 0x00000000#32) (.clmul (w.extractLsb' 15 5) (w.extractLsb' 10 5) (w.extractLsb' 5 5) (w.extractLsb' 2 3) (w.extractLsb' 0 2))
  | 0x40 => finish (w &&& 0x00000003#32 == 0x00000000#32) (.cvt (w.extractLsb' 15 5) (w.extractLsb' 10 5) (w.extractLsb' 5 5) (w.extractLsb' 2 3))
  | 0x41 => finish (w &&& 0x00000003#32 == 0x00000000#32) (.packb (w.extractLsb' 15 5) (w.extractLsb' 10 5) (w.extractLsb' 5 5) (w.extractLsb' 2 3))
  | 0x42 => finish (w &&& 0x00000003#32 == 0x00000000#32) (.unpkb (w.extractLsb' 15 5) (w.extractLsb' 10 5) (w.extractLsb' 5 5) (w.extractLsb' 2 3))
  | 0x43 => finish (w &&& 0x00000003#32 == 0x00000000#32) (.cvtax (w.extractLsb' 15 5) (w.extractLsb' 10 5) (w.extractLsb' 5 5) (w.extractLsb' 2 3))
  | 0x44 => finish (w &&& 0x00000003#32 == 0x00000000#32) (.cvtxa (w.extractLsb' 15 5) (w.extractLsb' 10 5) (w.extractLsb' 5 5) (w.extractLsb' 2 3))
  | 0x50 => finish (w &&& 0x000003E3#32 == 0x00000000#32) (.mov (w.extractLsb' 15 5) (w.extractLsb' 10 5) (w.extractLsb' 2 3))
  | 0x51 => finish (w &&& 0x00007C00#32 == 0x00000000#32) (.movi (w.extractLsb' 15 5) (w.extractLsb' 0 10))
  | 0x52 => finish (w &&& 0x00007FC0#32 == 0x00000000#32) (.movs (w.extractLsb' 15 5) (w.extractLsb' 0 6))
  | 0x53 => finish (w &&& 0x000F8000#32 == 0x00000000#32) (.mvls (w.extractLsb' 10 5) (w.extractLsb' 4 6) (w.extractLsb' 0 4))
  | 0x54 => finish (w &&& 0x00000000#32 == 0x00000000#32) (.sel (w.extractLsb' 15 5) (w.extractLsb' 10 5) (w.extractLsb' 5 5) (w.extractLsb' 2 3) (w.extractLsb' 0 2))
  | 0x55 => finish (w &&& 0x000003E0#32 == 0x00000000#32) (.xcl (w.extractLsb' 15 5) (w.extractLsb' 10 5) (w.extractLsb' 2 3) (w.extractLsb' 0 2))
  | 0x56 => finish (w &&& 0x00000000#32 == 0x00000000#32) (.perm (w.extractLsb' 15 5) (w.extractLsb' 10 5) (w.extractLsb' 5 5) (w.extractLsb' 2 3) (w.extractLsb' 0 2))
  | 0x57 => finish (w &&& 0x00000300#32 == 0x00000000#32) (.compress (w.extractLsb' 15 5) (w.extractLsb' 10 5) (w.extractLsb' 5 3) (w.extractLsb' 2 3) (w.extractLsb' 0 2))
  | 0x58 => finish (w &&& 0x000003E0#32 == 0x00000000#32) (.expand (w.extractLsb' 15 5) (w.extractLsb' 10 5) (w.extractLsb' 2 3) (w.extractLsb' 0 2))
  | 0x59 => finish (w &&& 0x000003E0#32 == 0x00000000#32) (.rsum (w.extractLsb' 15 5) (w.extractLsb' 10 5) (w.extractLsb' 2 3) (w.extractLsb' 0 2))
  | 0x5A => finish (w &&& 0x000003E0#32 == 0x00000000#32) (.rmax (w.extractLsb' 15 5) (w.extractLsb' 10 5) (w.extractLsb' 2 3) (w.extractLsb' 0 2))
  | 0x5B => finish (w &&& 0x000003E0#32 == 0x00000000#32) (.rmin (w.extractLsb' 15 5) (w.extractLsb' 10 5) (w.extractLsb' 2 3) (w.extractLsb' 0 2))
  | 0x5C => finish (w &&& 0x000003E0#32 == 0x00000000#32) (.scan (w.extractLsb' 15 5) (w.extractLsb' 10 5) (w.extractLsb' 2 3) (w.extractLsb' 0 2))
  | 0x5D => finish (w &&& 0x000003F8#32 == 0x00000000#32) (.xcopy (w.extractLsb' 15 5) (w.extractLsb' 10 5) (w.extractLsb' 0 3))
  | 0x5E => finish (w &&& 0x000003F8#32 == 0x00000000#32) (.xbcast (w.extractLsb' 15 5) (w.extractLsb' 10 5) (w.extractLsb' 0 3))
  | 0x5F => finish (w &&& 0x000003F0#32 == 0x00000000#32) (.lbcast (w.extractLsb' 15 5) (w.extractLsb' 10 5) (w.extractLsb' 0 4))
  | 0x60 => finish (w &&& 0x000C631F#32 == 0x00000000#32) (.qand (w.extractLsb' 15 3) (w.extractLsb' 10 3) (w.extractLsb' 5 3))
  | 0x61 => finish (w &&& 0x000C631F#32 == 0x00000000#32) (.qor (w.extractLsb' 15 3) (w.extractLsb' 10 3) (w.extractLsb' 5 3))
  | 0x62 => finish (w &&& 0x000C631F#32 == 0x00000000#32) (.qxor (w.extractLsb' 15 3) (w.extractLsb' 10 3) (w.extractLsb' 5 3))
  | 0x63 => finish (w &&& 0x000C631F#32 == 0x00000000#32) (.qandn (w.extractLsb' 15 3) (w.extractLsb' 10 3) (w.extractLsb' 5 3))
  | 0x64 => finish (w &&& 0x000C03FC#32 == 0x00000000#32) (.qset (w.extractLsb' 15 3) (w.extractLsb' 10 5) (w.extractLsb' 0 2))
  | 0x65 => finish (w &&& 0x000063FF#32 == 0x00000000#32) (.qpop (w.extractLsb' 15 5) (w.extractLsb' 10 3))
  | 0x66 => finish (w &&& 0x000F83FF#32 == 0x00000000#32) (.vcfgw (w.extractLsb' 10 5))
  | _ => .error .unassigned

/-- the F class (R115), slot F: the instruction a word encodes, or why it is none (R117). Field places are those of R110
and R111. -/
def decodeFx (w : W32) : Except DecodeErr Instr :=
  match (w.extractLsb' 20 7).toNat with
  | 0x01 => finish (w &&& 0x000003E0#32 == 0x00000000#32) (.rcp (w.extractLsb' 15 5) (w.extractLsb' 10 5) (w.extractLsb' 2 3) (w.extractLsb' 0 2))
  | 0x02 => finish (w &&& 0x000003E0#32 == 0x00000000#32) (.rsq (w.extractLsb' 15 5) (w.extractLsb' 10 5) (w.extractLsb' 2 3) (w.extractLsb' 0 2))
  | 0x03 => finish (w &&& 0x000003E0#32 == 0x00000000#32) (.sqrt (w.extractLsb' 15 5) (w.extractLsb' 10 5) (w.extractLsb' 2 3) (w.extractLsb' 0 2))
  | 0x04 => finish (w &&& 0x000003E0#32 == 0x00000000#32) (.exp2 (w.extractLsb' 15 5) (w.extractLsb' 10 5) (w.extractLsb' 2 3) (w.extractLsb' 0 2))
  | 0x05 => finish (w &&& 0x000003E0#32 == 0x00000000#32) (.log2 (w.extractLsb' 15 5) (w.extractLsb' 10 5) (w.extractLsb' 2 3) (w.extractLsb' 0 2))
  | 0x06 => finish (w &&& 0x000003E0#32 == 0x00000000#32) (.tanh (w.extractLsb' 15 5) (w.extractLsb' 10 5) (w.extractLsb' 2 3) (w.extractLsb' 0 2))
  | 0x07 => finish (w &&& 0x000003E0#32 == 0x00000000#32) (.sigm (w.extractLsb' 15 5) (w.extractLsb' 10 5) (w.extractLsb' 2 3) (w.extractLsb' 0 2))
  | 0x08 => finish (w &&& 0x000003E0#32 == 0x00000000#32) (.erf (w.extractLsb' 15 5) (w.extractLsb' 10 5) (w.extractLsb' 2 3) (w.extractLsb' 0 2))
  | 0x09 => finish (w &&& 0x000003E0#32 == 0x00000000#32) (.sin (w.extractLsb' 15 5) (w.extractLsb' 10 5) (w.extractLsb' 2 3) (w.extractLsb' 0 2))
  | 0x0A => finish (w &&& 0x000003E0#32 == 0x00000000#32) (.cos (w.extractLsb' 15 5) (w.extractLsb' 10 5) (w.extractLsb' 2 3) (w.extractLsb' 0 2))
  | 0x0B => finish (w &&& 0x000003E0#32 == 0x00000000#32) (.expe (w.extractLsb' 15 5) (w.extractLsb' 10 5) (w.extractLsb' 2 3) (w.extractLsb' 0 2))
  | 0x0C => finish (w &&& 0x000003E0#32 == 0x00000000#32) (.gelu (w.extractLsb' 15 5) (w.extractLsb' 10 5) (w.extractLsb' 2 3) (w.extractLsb' 0 2))
  | _ => .error .unassigned

/-- the M class (R116), slots M0 and M1: the instruction a word encodes, or why it is none (R117). Field places are those
of R110 and R111. -/
def decodeMat (w : W32) : Except DecodeErr Instr :=
  match (w.extractLsb' 20 7).toNat with
  | 0x01 => finish (w &&& 0x000FFF00#32 == 0x00000000#32) (.mcfg (w.extractLsb' 4 4) (w.extractLsb' 0 4))
  | 0x02 => finish (w &&& 0x000E07FE#32 == 0x00000000#32) (.mwload (w.extractLsb' 11 6) (w.extractLsb' 0 1))
  | 0x03 => finish (w &&& 0x000FFFFF#32 == 0x00000000#32) (.mwswap)
  | 0x04 => finish (w &&& 0x00000700#32 == 0x00000000#32) (.mmul (w.extractLsb' 17 3) (w.extractLsb' 11 6) (w.extractLsb' 7 1) (w.extractLsb' 0 7))
  | 0x05 => finish (w &&& 0x00000700#32 == 0x00000000#32) (.mmac (w.extractLsb' 17 3) (w.extractLsb' 11 6) (w.extractLsb' 7 1) (w.extractLsb' 0 7))
  | 0x06 => finish (w &&& 0x000007C0#32 == 0x00000000#32) (.mdrain (w.extractLsb' 17 3) (w.extractLsb' 11 6) (w.extractLsb' 5 1) (w.extractLsb' 4 1) (w.extractLsb' 0 4))
  | 0x07 => finish (w &&& 0x0001FFFF#32 == 0x00000000#32) (.mzero (w.extractLsb' 17 3))
  | 0x08 => finish (w &&& 0x0001FFFE#32 == 0x00000000#32) (.mtrn (w.extractLsb' 17 3) (w.extractLsb' 0 1))
  | 0x09 => finish (w &&& 0x000007FC#32 == 0x00000000#32) (.mscale (w.extractLsb' 17 3) (w.extractLsb' 11 6) (w.extractLsb' 0 2))
  | 0x0A => finish (w &&& 0x0001FFFE#32 == 0x00000000#32) (.mchk (w.extractLsb' 17 3) (w.extractLsb' 0 1))
  | 0x0B => finish (w &&& 0x000007FE#32 == 0x00000000#32) (.msave (w.extractLsb' 17 3) (w.extractLsb' 11 6) (w.extractLsb' 0 1))
  | 0x0C => finish (w &&& 0x000007FF#32 == 0x00000000#32) (.mrest (w.extractLsb' 17 3) (w.extractLsb' 11 6))
  | 0x0D => finish (w &&& 0x000FFE00#32 == 0x00000000#32) (.mwait (w.extractLsb' 8 1) (w.extractLsb' 0 8))
  | _ => .error .unassigned

/-- The word of an encoded instruction, field by field from R110-R116; none for an event, which has no encoding.
Log entry 94, DEDUCED. -/
def encode (g : BitVec 5) : Instr → Option W32
  | .add d a b m => some (g ++ 0x1#7 ++ d ++ a ++ b ++ m : W32)
  | .sub d a b m => some (g ++ 0x2#7 ++ d ++ a ++ b ++ m : W32)
  | .mul d a b m => some (g ++ 0x3#7 ++ d ++ a ++ b ++ m : W32)
  | .mulhs d a b m => some (g ++ 0x4#7 ++ d ++ a ++ b ++ m : W32)
  | .mulhu d a b m => some (g ++ 0x5#7 ++ d ++ a ++ b ++ m : W32)
  | .and d a b m => some (g ++ 0x6#7 ++ d ++ a ++ b ++ m : W32)
  | .or d a b m => some (g ++ 0x7#7 ++ d ++ a ++ b ++ m : W32)
  | .xor d a b m => some (g ++ 0x8#7 ++ d ++ a ++ b ++ m : W32)
  | .andn d a b m => some (g ++ 0x9#7 ++ d ++ a ++ b ++ m : W32)
  | .orn d a b m => some (g ++ 0xA#7 ++ d ++ a ++ b ++ m : W32)
  | .shl d a b m => some (g ++ 0xB#7 ++ d ++ a ++ b ++ m : W32)
  | .shrl d a b m => some (g ++ 0xC#7 ++ d ++ a ++ b ++ m : W32)
  | .shra d a b m => some (g ++ 0xD#7 ++ d ++ a ++ b ++ m : W32)
  | .rotl d a b m => some (g ++ 0xE#7 ++ d ++ a ++ b ++ m : W32)
  | .min d a b m => some (g ++ 0xF#7 ++ d ++ a ++ b ++ m : W32)
  | .max d a b m => some (g ++ 0x10#7 ++ d ++ a ++ b ++ m : W32)
  | .minu d a b m => some (g ++ 0x11#7 ++ d ++ a ++ b ++ m : W32)
  | .maxu d a b m => some (g ++ 0x12#7 ++ d ++ a ++ b ++ m : W32)
  | .clz d a m => some (g ++ 0x13#7 ++ d ++ a ++ 0x0#6 ++ m : W32)
  | .ctz d a m => some (g ++ 0x14#7 ++ d ++ a ++ 0x0#6 ++ m : W32)
  | .popc d a m => some (g ++ 0x15#7 ++ d ++ a ++ 0x0#6 ++ m : W32)
  | .bswap d a m => some (g ++ 0x16#7 ++ d ++ a ++ 0x0#6 ++ m : W32)
  | .extz d a b => some (g ++ 0x17#7 ++ d ++ a ++ b ++ 0x0#2 : W32)
  | .exts d a b => some (g ++ 0x18#7 ++ d ++ a ++ b ++ 0x0#2 : W32)
  | .ins d a b => some (g ++ 0x19#7 ++ d ++ a ++ b ++ 0x0#2 : W32)
  | .addi d a i => some (g ++ 0x20#7 ++ d ++ a ++ i : W32)
  | .andi d a i => some (g ++ 0x21#7 ++ d ++ a ++ i : W32)
  | .ori d a i => some (g ++ 0x22#7 ++ d ++ a ++ i : W32)
  | .xori d a i => some (g ++ 0x23#7 ++ d ++ a ++ i : W32)
  | .shli d a i => some (g ++ 0x24#7 ++ d ++ a ++ 0x0#2 ++ i : W32)
  | .shrli d a i => some (g ++ 0x25#7 ++ d ++ a ++ 0x0#2 ++ i : W32)
  | .shrai d a i => some (g ++ 0x26#7 ++ d ++ a ++ 0x0#2 ++ i : W32)
  | .ldi d i => some (g ++ 0x27#7 ++ d ++ i : W32)
  | .ldis d i => some (g ++ 0x28#7 ++ d ++ i : W32)
  | .cmpEq k a b => some (g ++ 0x30#7 ++ k ++ 0x0#2 ++ a ++ b ++ 0x0#2 : W32)
  | .cmpNe k a b => some (g ++ 0x31#7 ++ k ++ 0x0#2 ++ a ++ b ++ 0x0#2 : W32)
  | .cmpLt k a b => some (g ++ 0x32#7 ++ k ++ 0x0#2 ++ a ++ b ++ 0x0#2 : W32)
  | .cmpLe k a b => some (g ++ 0x33#7 ++ k ++ 0x0#2 ++ a ++ b ++ 0x0#2 : W32)
  | .cmpGt k a b => some (g ++ 0x34#7 ++ k ++ 0x0#2 ++ a ++ b ++ 0x0#2 : W32)
  | .cmpGe k a b => some (g ++ 0x35#7 ++ k ++ 0x0#2 ++ a ++ b ++ 0x0#2 : W32)
  | .cmpLtu k a b => some (g ++ 0x36#7 ++ k ++ 0x0#2 ++ a ++ b ++ 0x0#2 : W32)
  | .cmpLeu k a b => some (g ++ 0x37#7 ++ k ++ 0x0#2 ++ a ++ b ++ 0x0#2 : W32)
  | .cmpGtu k a b => some (g ++ 0x38#7 ++ k ++ 0x0#2 ++ a ++ b ++ 0x0#2 : W32)
  | .cmpGeu k a b => some (g ++ 0x39#7 ++ k ++ 0x0#2 ++ a ++ b ++ 0x0#2 : W32)
  | .pand k a b => some (g ++ 0x3C#7 ++ k ++ 0x0#3 ++ a ++ 0x0#1 ++ b ++ 0x0#2 : W32)
  | .por k a b => some (g ++ 0x3D#7 ++ k ++ 0x0#3 ++ a ++ 0x0#1 ++ b ++ 0x0#2 : W32)
  | .pxor k a b => some (g ++ 0x3E#7 ++ k ++ 0x0#3 ++ a ++ 0x0#1 ++ b ++ 0x0#2 : W32)
  | .pandn k a b => some (g ++ 0x3F#7 ++ k ++ 0x0#3 ++ a ++ 0x0#1 ++ b ++ 0x0#2 : W32)
  | .cmpiEq k a i => some (g ++ 0x40#7 ++ k ++ 0x0#2 ++ a ++ i : W32)
  | .cmpiNe k a i => some (g ++ 0x41#7 ++ k ++ 0x0#2 ++ a ++ i : W32)
  | .cmpiLt k a i => some (g ++ 0x42#7 ++ k ++ 0x0#2 ++ a ++ i : W32)
  | .cmpiLe k a i => some (g ++ 0x43#7 ++ k ++ 0x0#2 ++ a ++ i : W32)
  | .cmpiGt k a i => some (g ++ 0x44#7 ++ k ++ 0x0#2 ++ a ++ i : W32)
  | .cmpiGe k a i => some (g ++ 0x45#7 ++ k ++ 0x0#2 ++ a ++ i : W32)
  | .cmpiLtu k a i => some (g ++ 0x46#7 ++ k ++ 0x0#2 ++ a ++ i : W32)
  | .cmpiLeu k a i => some (g ++ 0x47#7 ++ k ++ 0x0#2 ++ a ++ i : W32)
  | .cmpiGtu k a i => some (g ++ 0x48#7 ++ k ++ 0x0#2 ++ a ++ i : W32)
  | .cmpiGeu k a i => some (g ++ 0x49#7 ++ k ++ 0x0#2 ++ a ++ i : W32)
  | .br i => some (g ++ 0x50#7 ++ i : W32)
  | .call i => some (g ++ 0x51#7 ++ i : W32)
  | .brx a => some (g ++ 0x52#7 ++ 0x0#6 ++ a ++ 0x0#8 : W32)
  | .callx a => some (g ++ 0x53#7 ++ 0x0#6 ++ a ++ 0x0#8 : W32)
  | .loop a n => some (g ++ 0x55#7 ++ 0x0#6 ++ a ++ 0x0#3 ++ n : W32)
  | .brloop i => some (g ++ 0x56#7 ++ i : W32)
  | .trap i => some (g ++ 0x57#7 ++ 0x0#6 ++ i : W32)
  | .waitt a => some (g ++ 0x5B#7 ++ 0x0#6 ++ a ++ 0x0#8 : W32)
  | .waitev a => some (g ++ 0x5C#7 ++ 0x0#6 ++ a ++ 0x0#8 : W32)
  | .bkpt i => some (g ++ 0x5D#7 ++ 0x0#6 ++ i : W32)
  | .xlt d a b => some (g ++ 0x60#7 ++ d ++ a ++ b ++ 0x0#2 : W32)
  | .xwait m => some (g ++ 0x62#7 ++ 0x0#14 ++ m : W32)
  | .xpoll k e => some (g ++ 0x63#7 ++ k ++ 0x0#8 ++ e : W32)
  | .csrr d c => some (g ++ 0x70#7 ++ d ++ 0x0#2 ++ c : W32)
  | .csrw d c => some (g ++ 0x71#7 ++ d ++ 0x0#2 ++ c : W32)
  | .csrs d c => some (g ++ 0x72#7 ++ d ++ 0x0#2 ++ c : W32)
  | .csrc d c => some (g ++ 0x73#7 ++ d ++ 0x0#2 ++ c : W32)
  | .rdtime d => some (g ++ 0x74#7 ++ d ++ 0x0#14 : W32)
  | .rdcyc d => some (g ++ 0x75#7 ++ d ++ 0x0#14 : W32)
  | .ctrstart n => some (g ++ 0x76#7 ++ 0x0#16 ++ n : W32)
  | .ctrstop n => some (g ++ 0x77#7 ++ 0x0#16 ++ n : W32)
  | .tmark a i => some (g ++ 0x78#7 ++ 0x0#6 ++ a ++ i : W32)
  | .powreq u => some (g ++ 0x79#7 ++ 0x0#6 ++ u : W32)
  | .powrel u => some (g ++ 0x7A#7 ++ 0x0#6 ++ u : W32)
  | .mvpq c q a => some (g ++ 0x7C#7 ++ c ++ q ++ a ++ 0x0#8 : W32)
  | .mvqp d c q => some (g ++ 0x7D#7 ++ d ++ c ++ q ++ 0x0#8 : W32)
  | .ld d a o z f => some (g ++ 0x1#7 ++ d ++ a ++ o ++ z ++ f : W32)
  | .ldz d a o z f => some (g ++ 0x2#7 ++ d ++ a ++ o ++ z ++ f : W32)
  | .st d a o z f => some (g ++ 0x3#7 ++ d ++ a ++ o ++ z ++ f : W32)
  | .vld v a o x => some (g ++ 0x4#7 ++ 0x0#1 ++ v ++ a ++ o ++ x : W32)
  | .vldSequenced v s o => some (g ++ 0x4#7 ++ 0x1#1 ++ v ++ 0x0#2 ++ s ++ o ++ 0x0#5 : W32)
  | .vst v a o x => some (g ++ 0x5#7 ++ 0x0#1 ++ v ++ a ++ o ++ x : W32)
  | .vldc v a o c f => some (g ++ 0x6#7 ++ 0x0#1 ++ v ++ a ++ o ++ c ++ f : W32)
  | .vstc v a o c f => some (g ++ 0x7#7 ++ 0x0#1 ++ v ++ a ++ o ++ c ++ f : W32)
  | .vldq v a o q f => some (g ++ 0x8#7 ++ 0x0#1 ++ v ++ a ++ o ++ q ++ f : W32)
  | .vstq v a o q f => some (g ++ 0x9#7 ++ 0x0#1 ++ v ++ a ++ o ++ q ++ f : W32)
  | .lds d a o z f => some (g ++ 0x10#7 ++ d ++ a ++ o ++ z ++ f : W32)
  | .ldse d a o z f => some (g ++ 0x11#7 ++ d ++ a ++ o ++ z ++ f : W32)
  | .stf d a o z f => some (g ++ 0x12#7 ++ d ++ a ++ o ++ z ++ f : W32)
  | .sete a o f => some (g ++ 0x13#7 ++ 0x0#6 ++ a ++ o ++ 0x3#2 ++ f : W32)
  | .amoadd d a o z f => some (g ++ 0x18#7 ++ d ++ a ++ o ++ 0x1#1 ++ z ++ f : W32)
  | .amomin d a o z f => some (g ++ 0x19#7 ++ d ++ a ++ o ++ 0x1#1 ++ z ++ f : W32)
  | .amomax d a o z f => some (g ++ 0x1A#7 ++ d ++ a ++ o ++ 0x1#1 ++ z ++ f : W32)
  | .amoand d a o z f => some (g ++ 0x1B#7 ++ d ++ a ++ o ++ 0x1#1 ++ z ++ f : W32)
  | .amoor d a o z f => some (g ++ 0x1C#7 ++ d ++ a ++ o ++ 0x1#1 ++ z ++ f : W32)
  | .amoxor d a o z f => some (g ++ 0x1D#7 ++ d ++ a ++ o ++ 0x1#1 ++ z ++ f : W32)
  | .amoswap d a o z f => some (g ++ 0x1E#7 ++ d ++ a ++ o ++ 0x1#1 ++ z ++ f : W32)
  | .amocas d a o z f => some (g ++ 0x1F#7 ++ d ++ 0x0#1 ++ a ++ o ++ 0x1#1 ++ z ++ f : W32)
  | .ldF d a o z f => some (g ++ 0x20#7 ++ d ++ a ++ o ++ z ++ f : W32)
  | .stF d a o z f => some (g ++ 0x21#7 ++ d ++ a ++ o ++ z ++ f : W32)
  | .vldF v a o x => some (g ++ 0x22#7 ++ 0x0#1 ++ v ++ a ++ o ++ x : W32)
  | .vstF v a o x => some (g ++ 0x23#7 ++ 0x0#1 ++ v ++ a ++ o ++ x : W32)
  | .amoaddF d a o z f => some (g ++ 0x28#7 ++ d ++ a ++ o ++ 0x1#1 ++ z ++ f : W32)
  | .amominF d a o z f => some (g ++ 0x29#7 ++ d ++ a ++ o ++ 0x1#1 ++ z ++ f : W32)
  | .amomaxF d a o z f => some (g ++ 0x2A#7 ++ d ++ a ++ o ++ 0x1#1 ++ z ++ f : W32)
  | .amoandF d a o z f => some (g ++ 0x2B#7 ++ d ++ a ++ o ++ 0x1#1 ++ z ++ f : W32)
  | .amoorF d a o z f => some (g ++ 0x2C#7 ++ d ++ a ++ o ++ 0x1#1 ++ z ++ f : W32)
  | .amoxorF d a o z f => some (g ++ 0x2D#7 ++ d ++ a ++ o ++ 0x1#1 ++ z ++ f : W32)
  | .amoswapF d a o z f => some (g ++ 0x2E#7 ++ d ++ a ++ o ++ 0x1#1 ++ z ++ f : W32)
  | .amocasF d a o z f => some (g ++ 0x2F#7 ++ d ++ 0x0#1 ++ a ++ o ++ 0x1#1 ++ z ++ f : W32)
  | .ldFs d a o z f => some (g ++ 0x40#7 ++ d ++ a ++ o ++ z ++ f : W32)
  | .stFs d a o z f => some (g ++ 0x41#7 ++ d ++ a ++ o ++ z ++ f : W32)
  | .vldFs v a o x => some (g ++ 0x42#7 ++ 0x0#1 ++ v ++ a ++ o ++ x : W32)
  | .vstFs v a o x => some (g ++ 0x43#7 ++ 0x0#1 ++ v ++ a ++ o ++ x : W32)
  | .amoaddFs d a o z f => some (g ++ 0x48#7 ++ d ++ a ++ o ++ 0x1#1 ++ z ++ f : W32)
  | .amominFs d a o z f => some (g ++ 0x49#7 ++ d ++ a ++ o ++ 0x1#1 ++ z ++ f : W32)
  | .amomaxFs d a o z f => some (g ++ 0x4A#7 ++ d ++ a ++ o ++ 0x1#1 ++ z ++ f : W32)
  | .amoandFs d a o z f => some (g ++ 0x4B#7 ++ d ++ a ++ o ++ 0x1#1 ++ z ++ f : W32)
  | .amoorFs d a o z f => some (g ++ 0x4C#7 ++ d ++ a ++ o ++ 0x1#1 ++ z ++ f : W32)
  | .amoxorFs d a o z f => some (g ++ 0x4D#7 ++ d ++ a ++ o ++ 0x1#1 ++ z ++ f : W32)
  | .amoswapFs d a o z f => some (g ++ 0x4E#7 ++ d ++ a ++ o ++ 0x1#1 ++ z ++ f : W32)
  | .amocasFs d a o z f => some (g ++ 0x4F#7 ++ d ++ 0x0#1 ++ a ++ o ++ 0x1#1 ++ z ++ f : W32)
  | .fence m s => some (g ++ 0x30#7 ++ m ++ 0x0#9 ++ s : W32)
  | .semit p a b => some (g ++ 0x31#7 ++ 0x0#2 ++ p ++ a ++ b ++ 0x0#2 : W32)
  | .sfree t a => some (g ++ 0x32#7 ++ 0x0#2 ++ t ++ a ++ 0x0#8 : W32)
  | .sstat d n x => some (g ++ 0x33#7 ++ d ++ 0x0#2 ++ n ++ 0x0#7 ++ x : W32)
  | .rot d a b => some (g ++ 0x34#7 ++ d ++ a ++ b ++ 0x0#2 : W32)
  | .ldred a b => some (g ++ 0x35#7 ++ 0x0#6 ++ a ++ b ++ 0x0#2 : W32)
  | .stmc d a b => some (g ++ 0x36#7 ++ d ++ a ++ b ++ 0x0#2 : W32)
  | .arrive a => some (g ++ 0x37#7 ++ 0x0#6 ++ a ++ 0x0#8 : W32)
  | .arrivex a b => some (g ++ 0x38#7 ++ 0x0#6 ++ a ++ b ++ 0x0#2 : W32)
  | .bwait a => some (g ++ 0x39#7 ++ 0x0#6 ++ a ++ 0x0#8 : W32)
  | .signal a b => some (g ++ 0x3A#7 ++ 0x0#6 ++ a ++ b ++ 0x0#2 : W32)
  | .swait a b => some (g ++ 0x3B#7 ++ 0x0#6 ++ a ++ b ++ 0x0#2 : W32)
  | .binit a b => some (g ++ 0x3C#7 ++ 0x0#6 ++ a ++ b ++ 0x0#2 : W32)
  | .fadd d a b q t => some (g ++ 0x1#7 ++ d ++ a ++ b ++ q ++ t : W32)
  | .fsub d a b q t => some (g ++ 0x2#7 ++ d ++ a ++ b ++ q ++ t : W32)
  | .fmul d a b q t => some (g ++ 0x3#7 ++ d ++ a ++ b ++ q ++ t : W32)
  | .fma d a b q t => some (g ++ 0x4#7 ++ d ++ a ++ b ++ q ++ t : W32)
  | .fms d a b q t => some (g ++ 0x5#7 ++ d ++ a ++ b ++ q ++ t : W32)
  | .fnma d a b q t => some (g ++ 0x6#7 ++ d ++ a ++ b ++ q ++ t : W32)
  | .fnms d a b q t => some (g ++ 0x7#7 ++ d ++ a ++ b ++ q ++ t : W32)
  | .fmin d a b q t => some (g ++ 0x8#7 ++ d ++ a ++ b ++ q ++ t : W32)
  | .fmax d a b q t => some (g ++ 0x9#7 ++ d ++ a ++ b ++ q ++ t : W32)
  | .fabs d a q t => some (g ++ 0xA#7 ++ d ++ a ++ 0x0#5 ++ q ++ t : W32)
  | .fneg d a q t => some (g ++ 0xB#7 ++ d ++ a ++ 0x0#5 ++ q ++ t : W32)
  | .frnd d a q t => some (g ++ 0xC#7 ++ d ++ a ++ 0x0#5 ++ q ++ t : W32)
  | .fclass d a q t => some (g ++ 0xD#7 ++ d ++ a ++ 0x0#5 ++ q ++ t : W32)
  | .fcmpeq d a n q t => some (g ++ 0x10#7 ++ d ++ a ++ 0x0#2 ++ n ++ q ++ t : W32)
  | .fcmpne d a n q t => some (g ++ 0x11#7 ++ d ++ a ++ 0x0#2 ++ n ++ q ++ t : W32)
  | .fcmplt d a n q t => some (g ++ 0x12#7 ++ d ++ a ++ 0x0#2 ++ n ++ q ++ t : W32)
  | .fcmple d a n q t => some (g ++ 0x13#7 ++ d ++ a ++ 0x0#2 ++ n ++ q ++ t : W32)
  | .fcmpun d a n q t => some (g ++ 0x14#7 ++ d ++ a ++ 0x0#2 ++ n ++ q ++ t : W32)
  | .iadd d a b q t => some (g ++ 0x20#7 ++ d ++ a ++ b ++ q ++ t : W32)
  | .isub d a b q t => some (g ++ 0x21#7 ++ d ++ a ++ b ++ q ++ t : W32)
  | .imul d a b q t => some (g ++ 0x22#7 ++ d ++ a ++ b ++ q ++ t : W32)
  | .imulh d a b q t => some (g ++ 0x23#7 ++ d ++ a ++ b ++ q ++ t : W32)
  | .imad d a b q t => some (g ++ 0x24#7 ++ d ++ a ++ b ++ q ++ t : W32)
  | .imin d a b q t => some (g ++ 0x25#7 ++ d ++ a ++ b ++ q ++ t : W32)
  | .imax d a b q t => some (g ++ 0x26#7 ++ d ++ a ++ b ++ q ++ t : W32)
  | .iminu d a b q t => some (g ++ 0x27#7 ++ d ++ a ++ b ++ q ++ t : W32)
  | .imaxu d a b q t => some (g ++ 0x28#7 ++ d ++ a ++ b ++ q ++ t : W32)
  | .iand d a b q t => some (g ++ 0x29#7 ++ d ++ a ++ b ++ q ++ t : W32)
  | .ior d a b q t => some (g ++ 0x2A#7 ++ d ++ a ++ b ++ q ++ t : W32)
  | .ixor d a b q t => some (g ++ 0x2B#7 ++ d ++ a ++ b ++ q ++ t : W32)
  | .ishl d a b q t => some (g ++ 0x2C#7 ++ d ++ a ++ b ++ q ++ t : W32)
  | .ishrl d a b q t => some (g ++ 0x2D#7 ++ d ++ a ++ b ++ q ++ t : W32)
  | .ishra d a b q t => some (g ++ 0x2E#7 ++ d ++ a ++ b ++ q ++ t : W32)
  | .iabs d a q t => some (g ++ 0x2F#7 ++ d ++ a ++ 0x0#5 ++ q ++ t : W32)
  | .ipopc d a q t => some (g ++ 0x30#7 ++ d ++ a ++ 0x0#5 ++ q ++ t : W32)
  | .iclz d a q t => some (g ++ 0x31#7 ++ d ++ a ++ 0x0#5 ++ q ++ t : W32)
  | .icmpeq d a n q t => some (g ++ 0x32#7 ++ d ++ a ++ 0x0#2 ++ n ++ q ++ t : W32)
  | .icmplt d a n q t => some (g ++ 0x33#7 ++ d ++ a ++ 0x0#2 ++ n ++ q ++ t : W32)
  | .icmpltu d a n q t => some (g ++ 0x34#7 ++ d ++ a ++ 0x0#2 ++ n ++ q ++ t : W32)
  | .iadds d a b q t => some (g ++ 0x35#7 ++ d ++ a ++ b ++ q ++ t : W32)
  | .isubs d a b q t => some (g ++ 0x36#7 ++ d ++ a ++ b ++ q ++ t : W32)
  | .clmul d a b q t => some (g ++ 0x37#7 ++ d ++ a ++ b ++ q ++ t : W32)
  | .cvt d a c q => some (g ++ 0x40#7 ++ d ++ a ++ c ++ q ++ 0x0#2 : W32)
  | .packb d a f q => some (g ++ 0x41#7 ++ d ++ a ++ f ++ q ++ 0x0#2 : W32)
  | .unpkb d a f q => some (g ++ 0x42#7 ++ d ++ a ++ f ++ q ++ 0x0#2 : W32)
  | .cvtax d a b q => some (g ++ 0x43#7 ++ d ++ a ++ b ++ q ++ 0x0#2 : W32)
  | .cvtxa d a b q => some (g ++ 0x44#7 ++ d ++ a ++ b ++ q ++ 0x0#2 : W32)
  | .mov d a q => some (g ++ 0x50#7 ++ d ++ a ++ 0x0#5 ++ q ++ 0x0#2 : W32)
  | .movi d i => some (g ++ 0x51#7 ++ d ++ 0x0#5 ++ i : W32)
  | .movs d s => some (g ++ 0x52#7 ++ d ++ 0x0#9 ++ s : W32)
  | .mvls a s l => some (g ++ 0x53#7 ++ 0x0#5 ++ a ++ s ++ l : W32)
  | .sel d a b q t => some (g ++ 0x54#7 ++ d ++ a ++ b ++ q ++ t : W32)
  | .xcl d a q t => some (g ++ 0x55#7 ++ d ++ a ++ 0x0#5 ++ q ++ t : W32)
  | .perm d a b q t => some (g ++ 0x56#7 ++ d ++ a ++ b ++ q ++ t : W32)
  | .compress d a n q t => some (g ++ 0x57#7 ++ d ++ a ++ 0x0#2 ++ n ++ q ++ t : W32)
  | .expand d a q t => some (g ++ 0x58#7 ++ d ++ a ++ 0x0#5 ++ q ++ t : W32)
  | .rsum d a q t => some (g ++ 0x59#7 ++ d ++ a ++ 0x0#5 ++ q ++ t : W32)
  | .rmax d a q t => some (g ++ 0x5A#7 ++ d ++ a ++ 0x0#5 ++ q ++ t : W32)
  | .rmin d a q t => some (g ++ 0x5B#7 ++ d ++ a ++ 0x0#5 ++ q ++ t : W32)
  | .scan d a q t => some (g ++ 0x5C#7 ++ d ++ a ++ 0x0#5 ++ q ++ t : W32)
  | .xcopy d a c => some (g ++ 0x5D#7 ++ d ++ a ++ 0x0#7 ++ c : W32)
  | .xbcast d a c => some (g ++ 0x5E#7 ++ d ++ a ++ 0x0#7 ++ c : W32)
  | .lbcast d a l => some (g ++ 0x5F#7 ++ d ++ a ++ 0x0#6 ++ l : W32)
  | .qand d a b => some (g ++ 0x60#7 ++ 0x0#2 ++ d ++ 0x0#2 ++ a ++ 0x0#2 ++ b ++ 0x0#5 : W32)
  | .qor d a b => some (g ++ 0x61#7 ++ 0x0#2 ++ d ++ 0x0#2 ++ a ++ 0x0#2 ++ b ++ 0x0#5 : W32)
  | .qxor d a b => some (g ++ 0x62#7 ++ 0x0#2 ++ d ++ 0x0#2 ++ a ++ 0x0#2 ++ b ++ 0x0#5 : W32)
  | .qandn d a b => some (g ++ 0x63#7 ++ 0x0#2 ++ d ++ 0x0#2 ++ a ++ 0x0#2 ++ b ++ 0x0#5 : W32)
  | .qset d a t => some (g ++ 0x64#7 ++ 0x0#2 ++ d ++ a ++ 0x0#8 ++ t : W32)
  | .qpop d a => some (g ++ 0x65#7 ++ d ++ 0x0#2 ++ a ++ 0x0#10 : W32)
  | .vcfgw a => some (g ++ 0x66#7 ++ 0x0#5 ++ a ++ 0x0#10 : W32)
  | .rcp d a q t => some (g ++ 0x1#7 ++ d ++ a ++ 0x0#5 ++ q ++ t : W32)
  | .rsq d a q t => some (g ++ 0x2#7 ++ d ++ a ++ 0x0#5 ++ q ++ t : W32)
  | .sqrt d a q t => some (g ++ 0x3#7 ++ d ++ a ++ 0x0#5 ++ q ++ t : W32)
  | .exp2 d a q t => some (g ++ 0x4#7 ++ d ++ a ++ 0x0#5 ++ q ++ t : W32)
  | .log2 d a q t => some (g ++ 0x5#7 ++ d ++ a ++ 0x0#5 ++ q ++ t : W32)
  | .tanh d a q t => some (g ++ 0x6#7 ++ d ++ a ++ 0x0#5 ++ q ++ t : W32)
  | .sigm d a q t => some (g ++ 0x7#7 ++ d ++ a ++ 0x0#5 ++ q ++ t : W32)
  | .erf d a q t => some (g ++ 0x8#7 ++ d ++ a ++ 0x0#5 ++ q ++ t : W32)
  | .sin d a q t => some (g ++ 0x9#7 ++ d ++ a ++ 0x0#5 ++ q ++ t : W32)
  | .cos d a q t => some (g ++ 0xA#7 ++ d ++ a ++ 0x0#5 ++ q ++ t : W32)
  | .expe d a q t => some (g ++ 0xB#7 ++ d ++ a ++ 0x0#5 ++ q ++ t : W32)
  | .gelu d a q t => some (g ++ 0xC#7 ++ d ++ a ++ 0x0#5 ++ q ++ t : W32)
  | .mcfg w a => some (g ++ 0x1#7 ++ 0x0#12 ++ w ++ a : W32)
  | .mwload s m => some (g ++ 0x2#7 ++ 0x0#3 ++ s ++ 0x0#10 ++ m : W32)
  | .mmul t s q n => some (g ++ 0x4#7 ++ t ++ s ++ 0x0#3 ++ q ++ n : W32)
  | .mmac t s q n => some (g ++ 0x5#7 ++ t ++ s ++ 0x0#3 ++ q ++ n : W32)
  | .mdrain t s z r f => some (g ++ 0x6#7 ++ t ++ s ++ 0x0#5 ++ z ++ r ++ f : W32)
  | .mzero t => some (g ++ 0x7#7 ++ t ++ 0x0#17 : W32)
  | .mtrn t h => some (g ++ 0x8#7 ++ t ++ 0x0#16 ++ h : W32)
  | .mscale t s tgt => some (g ++ 0x9#7 ++ t ++ s ++ 0x0#9 ++ tgt : W32)
  | .mchk t x => some (g ++ 0xA#7 ++ t ++ 0x0#16 ++ x : W32)
  | .msave t s r => some (g ++ 0xB#7 ++ t ++ s ++ 0x0#10 ++ r : W32)
  | .mrest t s => some (g ++ 0xC#7 ++ t ++ s ++ 0x0#11 : W32)
  | .mwait w k => some (g ++ 0xD#7 ++ 0x0#11 ++ w ++ k : W32)
  | .copy a b => some (g ++ 0x61#7 ++ 0x0#6 ++ a ++ b ++ 0x0#2 : W32)
  | .seqdef a b => some (g ++ 0x61#7 ++ 0x4#6 ++ a ++ b ++ 0x0#2 : W32)
  | .grpdef a b => some (g ++ 0x61#7 ++ 0x8#6 ++ a ++ b ++ 0x0#2 : W32)
  | .hpair a b => some (g ++ 0x61#7 ++ 0xC#6 ++ a ++ b ++ 0x0#2 : W32)
  | .trcfg a b => some (g ++ 0x61#7 ++ 0x10#6 ++ a ++ b ++ 0x0#2 : W32)
  | .enq a b => some (g ++ 0x61#7 ++ 0x14#6 ++ a ++ b ++ 0x0#2 : W32)
  | .bundleIssue => none
  | .resultLand => none
  | .interlockReturn => none
  | .waittWake => none
  | .nop => some (g ++ 0x0#7 ++ 0x0#20 : W32)
  | .ret => some (g ++ 0x54#7 ++ 0x0#20 : W32)
  | .eret => some (g ++ 0x58#7 ++ 0x0#20 : W32)
  | .endt => some (g ++ 0x59#7 ++ 0x0#20 : W32)
  | .yield => some (g ++ 0x5A#7 ++ 0x0#20 : W32)
  | .rwflush => some (g ++ 0x7B#7 ++ 0x0#20 : W32)
  | .snop => some (g ++ 0x0#7 ++ 0x0#20 : W32)
  | .vnop => some (g ++ 0x0#7 ++ 0x0#20 : W32)
  | .mwswap => some (g ++ 0x3#7 ++ 0x0#20 : W32)
  | .tarragonIdleClose => none
  | .matrixOpStart => none
  | .matrixOpComplete => none
  | .copyh => none
  | .fill => none
  | .copyComplete => none
  | .seqcond => none
  | .seqstop => none
  | .seqUnitFetch => none
  | .grpabort => none
  | .collExpRecord => none
  | .collExponentReturn => none
  | .collRootChunk => none
  | .collResult => none
  | .collRootTimeout => none
  | .collFailureNotice => none
  | .collMemberTimeout => none
  | .hpairComplete => none
  | .hpennant => none
  | .hstat => none
  | .pennantArrival => none
  | .trflush => none
  | .traceRecordWrite => none
  | .taskStartArrival => none
  | .chunkArrival => none
  | .chunkHopCheck => none
  | .returnArrival => none
  | .censusSend => none
  | .censusArrival => none
  | .refusalArrival => none
  | .refusedChunkResend => none
  | .replayRequestArrival => none
  | .rotComplete => none
  | .preemptEvict => none
  | .taskResume => none
  | .powerGrant => none
  | .launch => none
  | .graphAccept => none
  | .runNodeBind => none
  | .configLoad => none
  | .configDrop => none
  | .copyNodeStart => none
  | .waitNode => none
  | .waitNodeTimeout => none
  | .condNode => none
  | .hringNode => none
  | .hringIrqTimer => none
  | .endNode => none
  | .dcpSelect => none
  | .dcpResume => none
  | .dcpStep => none
  | .dcpKill => none
  | .dcpPost => none
  | .trapRecordPost => none
  | .fbPop => none
  | .tqPop => none
  | .elogPop => none
  | .faultRecordPost => none
  | .fbResp => none
  | .xltInv => none
  | .walkerTranslate => none
  | .quarFree => none
  | .quarantineRelease => none
  | .hostStagingAccess => none
  | .registerWrite => none
  | .flitReceive => none
  | .nackReceive => none
  | .laneLockLoss => none
  | .linkSilenceTimeout => none
  | .retrainAttemptEnd => none
  | .linkEnable => none
  | .packetInject => none
  | .packetForward => none
  | .e2eDeliver => none
  | .e2eAckReceive => none
  | .e2eResendTimeout => none
  | .remoteRequest => none
  | .remoteResponse => none
  | .farAccessTimeout => none
  | .rtDataWrite => none
  | .generationSwap => none
  | .bootInj => none
  | .bootAnnounce => none
  | .bootData => none
  | .bootVerify => none
  | .bootCommit => none
  | .bootReply => none
  | .timeExchange => none
  | .ptpSync => none
  | .ppsEdge => none
  | .timeHoldover => none
  | .powerOverStep => none
  | .keyLoad => none
  | .keyErase => none
  | .keyBindtx => none
  | .keyBindrx => none
  | .keyRekey => none
  | .attestation => none
  | .hostRingEnable => none
  | .hostRingTail => none
  | .msixUnmask => none
  | .eccCorrectable => none
  | .eccUncorrectable => none
  | .scrub => none
  | .shadowCompare => none
  | .shadowTimeout => none
  | .regionKill => none
  | .dieFence => none
  | .dcpWatchdogMiss => none
  | .linkRetire => none
  | .streamReset => none
  | .pkgAdopt => none
  | .cmapRowWrite => none
  | .cmapPairMove => none
  | .recArm => none
  | .rwTableLoad => none
  | .rwTableLoadDone => none
  | .scanGo => none
  | .scanDrainDone => none
  | .scanSegmentEnd => none
  | .scanAbort => none
  | .dieReset => none
  | .tileTableReadTimeout => none
  | .newerAttemptDrop => none
  | .engineCommandComplete => none
  | .packageReset => none
  | .powerMeasurementUpdate => none
  | .coolantAlarm => none
  | .boundaryRetrainFailed => none

/-- Slot numbers of R106. -/
def slotA : Nat := 13
def slotB : Nat := 12
def slotS : Nat := 11
def slotF : Nat := 10
def slotM0 : Nat := 9
def slotM1 : Nat := 8
def slotV0 : Nat := 7

/-- The opcode field OP of a slot word (R109). -/
def opcodeOf (w : W32) : Nat := (w.extractLsb' 20 7).toNat

/-- Whether a scalar opcode may stand in slot A or slot B (the Slots column of R112). -/
def scalarSlotOk (slot op : Nat) : Bool :=
  if 0x60 ≤ op && op ≤ 0x63 then slot == slotB
  else if 0x70 ≤ op && op ≤ 0x7D then slot == slotA
  else true

/-- The instruction that a word encodes in the slot of the given number (R106, R112-R116). Log entry 99, DEDUCED. -/
def decodeSlot (slot : Nat) (w : W32) : Except DecodeErr Instr :=
  if slot = slotA ∨ slot = slotB then
    match decodeScalar w with
    | .ok i => if scalarSlotOk slot (opcodeOf w) then .ok i else .error .wrongSlot
    | .error e => .error e
  else if slot = slotS then decodeMem w
  else if slot = slotF then decodeFx w
  else if slot = slotM0 ∨ slot = slotM1 then decodeMat w
  else decodeVec w

/-- The bundle header of R104. -/
structure Header where
  /-- bit `n` is the presence of slot `n` (R106) -/
  presence : BitVec 14
  wait : BitVec 3
  vb : Bool
  rsvd : BitVec 14
  deriving DecidableEq, Repr

/-- The header word, field by field (R104). -/
def decodeHeader (w : W32) : Header :=
  ⟨w.extractLsb' 18 14, w.extractLsb' 15 3, w.getLsbD 14, w.extractLsb' 0 14⟩

/-- The word of a header (R104). -/
def encodeHeader (h : Header) : W32 :=
  (h.presence ++ h.wait ++ BitVec.ofBool h.vb ++ h.rsvd : W32)

/-- The present slots of a bundle in word order, from slot 13 (A) down to slot 0 (V7) (R104, R106). -/
def Header.slots (h : Header) : List Nat :=
  [13, 12, 11, 10, 9, 8, 7, 6, 5, 4, 3, 2, 1, 0].filter (fun n => h.presence.getLsbD n)

/-- The header's own faults (R117): reserved bits set, or VB with V0 absent or another V slot present. -/
def Header.bad (h : Header) : Bool :=
  h.rsvd != 0#14 || (h.vb && h.presence.extractLsb' 0 8 != 0x80#8)

/-- The header of a bundle that holds one slot. -/
def Header.single (slot : Nat) : Header := ⟨1#14 <<< slot, 0#3, false, 0#14⟩

/-- The guard field G of a slot word (R109). Log entry 94, DEDUCED. -/
def guardOf (w : W32) : Nat := (w.extractLsb' 27 5).toNat

/-- A slot that may hold the word: the first class, in the order scalar, memory, vector, special function, matrix,
whose map assigns it. The table's rows share words between classes; this is the choice `decodeTableWord` makes. -/
def tableSlot (w : W32) : Nat :=
  let scalar := match decodeScalar w with | .ok _ => true | .error _ => false
  let mem := match decodeMem w with | .ok _ => true | .error _ => false
  let vec := match decodeVec w with | .ok _ => true | .error _ => false
  let fx := match decodeFx w with | .ok _ => true | .error _ => false
  if scalar then (if scalarSlotOk slotA (opcodeOf w) then slotA else slotB)
  else if mem then slotS
  else if vec then slotV0
  else if fx then slotF
  else slotM0

/-- The instruction that the decoder reads from a table word of `nbits` bits: every encoded row of the table is one
32-bit slot word, so no further word follows it. -/
def decodeTableWord (_nbits w : Nat) : Option Instr :=
  (decodeSlot (tableSlot (BitVec.ofNat 32 w)) (BitVec.ofNat 32 w)).toOption

end Sys2Proof
end

