-- ==== Sys2Proof/Machine/Uses.lean ====
section
/-! DEFINITION. What each slot instruction reads and which destinations it names (R110-R116, R120), its current weight
(R122, R123) and its kind among the control instructions (R150). -/

namespace Sys2Proof

/-- Registers by number. Entries without a place belong to the clusters of the slot. -/
structure Uses where
  /-- scalar registers, bundle predicates, vector registers and lane predicates read -/
  rs : List Nat := []
  ps : List Nat := []
  vs : List Nat := []
  qs : List Nat := []
  /-- vector registers and lane predicates of a named cluster: cluster, register -/
  vAt : List (Nat × Nat) := []
  qAt : List (Nat × Nat) := []
  /-- destinations: scalar registers, a scalar register named once per cluster, pairs, the window p16-p31 -/
  wr : List Nat := []
  wrEach : List Nat := []
  wp : List Nat := []
  win : Bool := false
  wv : List Nat := []
  wq : List Nat := []
  wvAt : List (Nat × Nat) := []
  wqAt : List (Nat × Nat) := []
  deriving DecidableEq, Repr

/-- Codes of `CVT` that write half of each lane and keep the other, so that they read the destination (R199). -/
def keepsOld (code : Nat) : Bool :=
  (decide (4 ≤ code) && decide (code ≤ 7)) || (decide (0x0C ≤ code) && decide (code ≤ 0x13)) || decide (0x1C ≤ code)

/-- The registers that an instruction reads and the destinations it names. A CSR write of `PRED_SAVE` names every pair
(R153). The target of `BRX`, `CALLX` and `RET` is not
forwarded and waits for nothing (R149). Events name none. -/
def Instr.uses : Instr → Uses
  | .add d a b _ | .sub d a b _ | .mul d a b _ | .mulhs d a b _ | .mulhu d a b _ | .and d a b _ | .or d a b _
  | .xor d a b _ | .andn d a b _ | .orn d a b _ | .shl d a b _ | .shrl d a b _ | .shra d a b _
  | .rotl d a b _ | .min d a b _ | .max d a b _ | .minu d a b _ | .maxu d a b _ | .extz d a b | .exts d a b =>
    { rs := [a.toNat, b.toNat], wr := [d.toNat] }
  | .clz d a _ | .ctz d a _ | .popc d a _ | .bswap d a _ | .addi d a _ | .andi d a _ | .ori d a _
  | .xori d a _ | .shli d a _ | .shrli d a _ | .shrai d a _ | .ld d a _ _ _ | .ldz d a _ _ _ | .lds d a _ _ _
  | .ldse d a _ _ _ | .ldF d a _ _ _ => { rs := [a.toNat], wr := [d.toNat] }
  | .ins d a b => { rs := [d.toNat, a.toNat, b.toNat], wr := [d.toNat] }
  | .ldi d _ | .csrr d _ | .rdtime d | .rdcyc d | .sstat d _ _ => { wr := [d.toNat] }
  | .ldis d _ => { rs := [d.toNat], wr := [d.toNat] }
  | .cmpEq k a b | .cmpNe k a b | .cmpLt k a b | .cmpLe k a b | .cmpGt k a b | .cmpGe k a b | .cmpLtu k a b
  | .cmpLeu k a b | .cmpGtu k a b | .cmpGeu k a b => { rs := [a.toNat, b.toNat], wp := [k.toNat] }
  | .pand k a b | .por k a b | .pxor k a b | .pandn k a b => { ps := [a.toNat, b.toNat], wp := [k.toNat] }
  | .cmpiEq k a _ | .cmpiNe k a _ | .cmpiLt k a _ | .cmpiLe k a _ | .cmpiGt k a _ | .cmpiGe k a _
  | .cmpiLtu k a _ | .cmpiLeu k a _ | .cmpiGtu k a _ | .cmpiGeu k a _ => { rs := [a.toNat], wp := [k.toNat] }
  | .br _ | .brx _ | .trap _ | .bkpt _ | .xwait _ | .ctrstart _ | .ctrstop _ | .powreq _ | .powrel _
  | .fence _ _ | .mcfg _ _ | .mzero _ | .mtrn _ _ | .mwait _ _ | .nop | .ret | .eret | .endt | .yield
  | .rwflush | .snop | .vnop | .mwswap => {}
  | .call _ | .callx _ => { wr := [62] }
  | .loop a _ => { rs := [a.toNat], win := true }
  | .brloop _ => { win := true }
  | .waitt a | .waitev a | .tmark a _ | .sete a _ _ | .sfree _ a | .arrive a => { rs := [a.toNat] }
  | .xlt d a b => { rs := [a.toNat, b.toNat], wr := [d.toNat], wp := [7] }
  | .xpoll k _ => { wp := [k.toNat] }
  | .csrw d c | .csrs d c | .csrc d c => { rs := [d.toNat], wp := if c.toNat = 0x018 then List.range 16 else [] }
  | .mvpq c q a => { rs := [a.toNat], wqAt := [(c.toNat, q.toNat)] }
  | .mvqp d c q => { qAt := [(c.toNat, q.toNat)], wr := [d.toNat] }
  | .st d a _ _ _ | .stf d a _ _ _ | .stF d a _ _ _ => { rs := [d.toNat, a.toNat] }
  | .vld v a _ _ | .vldF v a _ _ => { rs := [a.toNat], wv := [v.toNat] }
  | .vldSequenced v _ _ => { wv := [v.toNat] }
  | .vst v a _ _ | .vstF v a _ _ => { rs := [a.toNat], vs := [v.toNat] }
  | .vldc v a _ c _ => { rs := [a.toNat], wvAt := [(c.toNat, v.toNat)] }
  | .vstc v a _ c _ => { rs := [a.toNat], vAt := [(c.toNat, v.toNat)] }
  | .vldq v a _ q _ => { rs := [a.toNat], qs := [q.toNat], wv := [v.toNat] }
  | .vstq v a _ q _ => { rs := [a.toNat], vs := [v.toNat], qs := [q.toNat] }
  | .amoadd d a _ _ _ | .amomin d a _ _ _ | .amomax d a _ _ _ | .amoand d a _ _ _ | .amoor d a _ _ _
  | .amoxor d a _ _ _ | .amoswap d a _ _ _ | .amoaddF d a _ _ _ | .amominF d a _ _ _ | .amomaxF d a _ _ _
  | .amoandF d a _ _ _ | .amoorF d a _ _ _ | .amoxorF d a _ _ _ | .amoswapF d a _ _ _ =>
    { rs := [d.toNat, a.toNat], wr := [d.toNat] }
  | .amocas d a _ _ _ | .amocasF d a _ _ _ => { rs := [2 * d.toNat, 2 * d.toNat + 1, a.toNat], wr := [2 * d.toNat] }
  | .ldFs d a _ _ _ => { rs := [a.toNat], wr := [d.toNat], wp := [7] }
  | .stFs d a _ _ _ => { rs := [d.toNat, a.toNat], wp := [7] }
  | .vldFs v a _ _ => { rs := [a.toNat], wv := [v.toNat], wp := [7] }
  | .vstFs v a _ _ => { rs := [a.toNat], vs := [v.toNat], wp := [7] }
  | .amoaddFs d a _ _ _ | .amominFs d a _ _ _ | .amomaxFs d a _ _ _ | .amoandFs d a _ _ _
  | .amoorFs d a _ _ _ | .amoxorFs d a _ _ _ | .amoswapFs d a _ _ _ =>
    { rs := [d.toNat, a.toNat], wr := [d.toNat], wp := [7] }
  | .amocasFs d a _ _ _ => { rs := [2 * d.toNat, 2 * d.toNat + 1, a.toNat], wr := [2 * d.toNat], wp := [7] }
  | .semit _ a b | .ldred a b | .arrivex a b | .signal a b | .swait a b | .binit a b | .copy a b
  | .seqdef a b | .grpdef a b | .hpair a b | .trcfg a b | .enq a b => { rs := [a.toNat, b.toNat] }
  | .rot d a b | .stmc d a b => { rs := [d.toNat, a.toNat, b.toNat] }
  | .bwait a => { rs := [a.toNat], wp := [7] }
  | .fadd d a b q _ | .fsub d a b q _ | .fmul d a b q _ | .fmin d a b q _ | .fmax d a b q _ | .iadd d a b q _
  | .isub d a b q _ | .imul d a b q _ | .imulh d a b q _ | .imin d a b q _ | .imax d a b q _
  | .iminu d a b q _ | .imaxu d a b q _ | .iand d a b q _ | .ior d a b q _ | .ixor d a b q _
  | .ishl d a b q _ | .ishrl d a b q _ | .ishra d a b q _ | .iadds d a b q _ | .isubs d a b q _
  | .clmul d a b q _ | .cvtax d a b q | .cvtxa d a b q | .sel d a b q _ | .perm d a b q _ =>
    { vs := [a.toNat, b.toNat], qs := [q.toNat], wv := [d.toNat] }
  | .fma d a b q _ | .fms d a b q _ | .fnma d a b q _ | .fnms d a b q _ | .imad d a b q _ =>
    { vs := [a.toNat, b.toNat, d.toNat], qs := [q.toNat], wv := [d.toNat] }
  | .fabs d a q _ | .fneg d a q _ | .frnd d a q _ | .fclass d a q _ | .iabs d a q _ | .ipopc d a q _
  | .iclz d a q _ | .packb d a _ q | .unpkb d a _ q | .mov d a q | .xcl d a q _
  | .expand d a q _ | .rsum d a q _ | .rmax d a q _ | .rmin d a q _ | .scan d a q _ | .rcp d a q _
  | .rsq d a q _ | .sqrt d a q _ | .exp2 d a q _ | .log2 d a q _ | .tanh d a q _ | .sigm d a q _
  | .erf d a q _ | .sin d a q _ | .cos d a q _ | .expe d a q _ | .gelu d a q _ =>
    { vs := [a.toNat], qs := [q.toNat], wv := [d.toNat] }
  | .cvt d a c q =>
    { vs := if keepsOld c.toNat then [a.toNat, d.toNat] else [a.toNat], qs := [q.toNat], wv := [d.toNat] }
  | .fcmpeq d a n q _ | .fcmpne d a n q _ | .fcmplt d a n q _ | .fcmple d a n q _ | .fcmpun d a n q _
  | .icmpeq d a n q _ | .icmplt d a n q _ | .icmpltu d a n q _ =>
    { vs := [d.toNat, a.toNat], qs := [q.toNat], wq := [n.toNat] }
  | .movi d _ => { wv := [d.toNat] }
  | .movs d s => { rs := [s.toNat], wv := [d.toNat] }
  | .mvls a s _ => { vs := [a.toNat], wrEach := [s.toNat] }
  | .compress d a n q _ => { vs := [a.toNat], qs := [q.toNat], wv := [d.toNat], wq := [n.toNat] }
  | .xcopy d a c | .xbcast d a c => { vAt := [(c.toNat, a.toNat)], wv := [d.toNat] }
  | .lbcast d a _ => { vs := [a.toNat], wv := [d.toNat] }
  | .qand d a b | .qor d a b | .qxor d a b | .qandn d a b => { qs := [a.toNat, b.toNat], wq := [d.toNat] }
  | .qset d a _ => { vs := [a.toNat], wq := [d.toNat] }
  | .qpop d a => { qs := [a.toNat], wv := [d.toNat] }
  | .vcfgw a => { vs := [a.toNat] }
  | .mwload s m => { rs := [if m.toNat = 0 then s.toNat else 0] }
  | .mmul _ s q _ | .mmac _ s q _ => { rs := [if q.toNat = 0 then s.toNat else 0] }
  | .mdrain _ s _ _ _ | .msave _ s _ | .mrest _ s => { rs := [s.toNat] }
  | .mscale _ s tgt => { rs := [if tgt.toNat = 1 then 0 else s.toNat] }
  | .mchk _ x => { wp := if x.toNat = 1 then [7] else [] }
  | _ => {}

/-- The weight of a slot (R122); `c` says whether the cell is a C-cell. -/
def Instr.weight (c : Bool) : Instr → Nat
  | .add _ _ _ _ | .sub _ _ _ _ | .and _ _ _ _ | .or _ _ _ _ | .xor _ _ _ _ | .andn _ _ _ _ | .orn _ _ _ _
  | .shl _ _ _ _ | .shrl _ _ _ _ | .shra _ _ _ _ | .rotl _ _ _ _ | .min _ _ _ _ | .max _ _ _ _
  | .minu _ _ _ _ | .maxu _ _ _ _ | .clz _ _ _ | .ctz _ _ _ | .popc _ _ _ | .bswap _ _ _ | .extz _ _ _
  | .exts _ _ _ | .ins _ _ _ | .addi _ _ _ | .andi _ _ _ | .ori _ _ _ | .xori _ _ _ | .shli _ _ _
  | .shrli _ _ _ | .shrai _ _ _ | .ldi _ _ | .ldis _ _ | .cmpEq _ _ _ | .cmpNe _ _ _ | .cmpLt _ _ _
  | .cmpLe _ _ _ | .cmpGt _ _ _ | .cmpGe _ _ _ | .cmpLtu _ _ _ | .cmpLeu _ _ _ | .cmpGtu _ _ _
  | .cmpGeu _ _ _ | .pand _ _ _ | .por _ _ _ | .pxor _ _ _ | .pandn _ _ _ | .cmpiEq _ _ _ | .cmpiNe _ _ _
  | .cmpiLt _ _ _ | .cmpiLe _ _ _ | .cmpiGt _ _ _ | .cmpiGe _ _ _ | .cmpiLtu _ _ _ | .cmpiLeu _ _ _
  | .cmpiGtu _ _ _ | .cmpiGeu _ _ _ | .br _ | .call _ | .brx _ | .callx _ | .loop _ _ | .brloop _
  | .xpoll _ _ | .csrr _ _ | .rdtime _ | .rdcyc _ | .mvpq _ _ _ | .mvqp _ _ _ | .qand _ _ _ | .qor _ _ _
  | .qxor _ _ _ | .qandn _ _ _ | .qset _ _ _ | .qpop _ _ | .vcfgw _ | .ret => 1
  | .mul _ _ _ _ | .mulhs _ _ _ _ | .mulhu _ _ _ _ | .st _ _ _ _ _ | .stf _ _ _ _ _ | .sete _ _ _
  | .fence _ _ | .semit _ _ _ | .sfree _ _ | .rot _ _ _ | .ldred _ _ | .stmc _ _ _ | .arrive _ | .arrivex _ _
  | .bwait _ | .signal _ _ | .swait _ _ | .binit _ _ | .mvls _ _ _ | .xcl _ _ _ _ | .perm _ _ _ _ _
  | .lbcast _ _ _ => 3
  | .trap _ | .waitt _ | .waitev _ | .bkpt _ | .xlt _ _ _ | .xwait _ | .csrw _ _ | .csrs _ _ | .csrc _ _
  | .ctrstart _ | .ctrstop _ | .tmark _ _ | .powreq _ | .powrel _ | .copy _ _ | .seqdef _ _ | .grpdef _ _
  | .hpair _ _ | .trcfg _ _ | .enq _ _ | .eret | .endt | .yield | .rwflush => 2
  | .ld _ _ _ _ _ | .ldz _ _ _ _ _ | .lds _ _ _ _ _ | .ldse _ _ _ _ _ | .amoadd _ _ _ _ _ | .amomin _ _ _ _ _
  | .amomax _ _ _ _ _ | .amoand _ _ _ _ _ | .amoor _ _ _ _ _ | .amoxor _ _ _ _ _ | .amoswap _ _ _ _ _
  | .amocas _ _ _ _ _ | .ldF _ _ _ _ _ | .stF _ _ _ _ _ | .amoaddF _ _ _ _ _ | .amominF _ _ _ _ _
  | .amomaxF _ _ _ _ _ | .amoandF _ _ _ _ _ | .amoorF _ _ _ _ _ | .amoxorF _ _ _ _ _ | .amoswapF _ _ _ _ _
  | .amocasF _ _ _ _ _ | .ldFs _ _ _ _ _ | .stFs _ _ _ _ _ | .amoaddFs _ _ _ _ _ | .amominFs _ _ _ _ _
  | .amomaxFs _ _ _ _ _ | .amoandFs _ _ _ _ _ | .amoorFs _ _ _ _ _ | .amoxorFs _ _ _ _ _
  | .amoswapFs _ _ _ _ _ | .amocasFs _ _ _ _ _ | .sstat _ _ _ | .fadd _ _ _ _ _ | .fsub _ _ _ _ _
  | .fmul _ _ _ _ _ | .fmin _ _ _ _ _ | .fmax _ _ _ _ _ | .fabs _ _ _ _ | .fneg _ _ _ _ | .frnd _ _ _ _
  | .fclass _ _ _ _ | .fcmpeq _ _ _ _ _ | .fcmpne _ _ _ _ _ | .fcmplt _ _ _ _ _ | .fcmple _ _ _ _ _
  | .fcmpun _ _ _ _ _ | .iadd _ _ _ _ _ | .isub _ _ _ _ _ | .imin _ _ _ _ _ | .imax _ _ _ _ _
  | .iminu _ _ _ _ _ | .imaxu _ _ _ _ _ | .iand _ _ _ _ _ | .ior _ _ _ _ _ | .ixor _ _ _ _ _
  | .ishl _ _ _ _ _ | .ishrl _ _ _ _ _ | .ishra _ _ _ _ _ | .iabs _ _ _ _ | .ipopc _ _ _ _ | .iclz _ _ _ _
  | .icmpeq _ _ _ _ _ | .icmplt _ _ _ _ _ | .icmpltu _ _ _ _ _ | .iadds _ _ _ _ _ | .isubs _ _ _ _ _
  | .cvt _ _ _ _ | .cvtax _ _ _ _ | .cvtxa _ _ _ _ | .mov _ _ _ | .movi _ _ | .movs _ _ | .sel _ _ _ _ _
  | .compress _ _ _ _ _ | .expand _ _ _ _ | .mcfg _ _ | .mzero _ | .mtrn _ _ | .mscale _ _ _ | .mchk _ _
  | .mwait _ _ => 4
  | .vld _ _ _ _ | .vldSequenced _ _ _ | .vst _ _ _ _ | .vldc _ _ _ _ _ | .vstc _ _ _ _ _ | .vldq _ _ _ _ _
  | .vstq _ _ _ _ _ | .vldF _ _ _ _ | .vstF _ _ _ _ | .vldFs _ _ _ _ | .vstFs _ _ _ _ => 16
  | .fma _ _ _ _ _ | .fms _ _ _ _ _ | .fnma _ _ _ _ _ | .fnms _ _ _ _ _ | .imul _ _ _ _ _ | .imulh _ _ _ _ _
  | .imad _ _ _ _ _ | .clmul _ _ _ _ _ | .scan _ _ _ _ | .xbcast _ _ _ => 6
  | .packb _ _ _ _ | .unpkb _ _ _ _ | .rsum _ _ _ _ | .rmax _ _ _ _ | .rmin _ _ _ _ | .xcopy _ _ _ => 5
  | .rcp _ _ _ _ | .rsq _ _ _ _ | .sqrt _ _ _ _ | .exp2 _ _ _ _ | .log2 _ _ _ _ | .tanh _ _ _ _
  | .sigm _ _ _ _ | .erf _ _ _ _ | .sin _ _ _ _ | .cos _ _ _ _ | .expe _ _ _ _ | .gelu _ _ _ _ => 12
  | .mwload _ _ | .mdrain _ _ _ _ _ | .msave _ _ _ | .mrest _ _ | .mwswap => 24
  | .mmul _ _ _ _ | .mmac _ _ _ _ => (if c then 96 else 48)
  | .nop | .snop | .vnop => 0
  | _ => 0

/-- Kinds of control instruction (R150). -/
inductive CtlKind where
  | transfer | loop | wait | ending | stop
  deriving DecidableEq, Repr

/-- The control kind of an instruction; a `BRLOOP` is a transfer only when it is taken. -/
def Instr.ctl : Instr → Option CtlKind
  | .br _ | .call _ | .brx _ | .callx _ | .ret | .eret => some .transfer
  | .brloop _ => some .loop
  | .yield | .waitt _ | .waitev _ => some .wait
  | .endt => some .ending
  | .trap _ | .bkpt _ => some .stop
  | _ => none

/-- Whether an instruction writes the link register: the conflict of R150 settles two of them (R120). -/
def Instr.links : Instr → Bool
  | .call _ | .callx _ => true
  | _ => false

/-- Privileged instructions and accesses (R126). -/
def Instr.privileged : Instr → Bool
  | .eret => true
  | .csrr _ c | .csrw _ c | .csrs _ c | .csrc _ c => decide (0x200 ≤ c.toNat)
  | _ => false

/-- Whether an instruction is an F operation (R122). -/
def Instr.special : Instr → Bool
  | .rcp _ _ _ _ | .rsq _ _ _ _ | .sqrt _ _ _ _ | .exp2 _ _ _ _ | .log2 _ _ _ _ | .tanh _ _ _ _
  | .sigm _ _ _ _ | .erf _ _ _ _ | .sin _ _ _ _ | .cos _ _ _ _ | .expe _ _ _ _ | .gelu _ _ _ _ => true
  | _ => false

end Sys2Proof
end

