-- ==== Sys2Proof/Syntax/Messages.lean ====
section
/-! DEFINITION. The messages that travel between the agents of a package and between packages: chunks
(R95), packets (R384), remote operations (R398), collective records (R337), boot packets (R399) and flits
(R383). They are plain data: the events of the opcode table carry them. -/

namespace Sys2Proof

/-- The chunk header of R95 and its payload bytes. -/
structure Chunk where
  stream : BitVec 16
  tag : BitVec 4
  endMb : Bool
  last : Bool
  replay : Bool
  census : Bool
  attempt : BitVec 8
  seq : BitVec 32
  fmt : BitVec 8
  rsvd : BitVec 8
  length : BitVec 16
  axexp : BitVec 16
  mb : BitVec 16
  burgee : W64
  hop : BitVec 32
  origin : BitVec 32
  payload : List Byte
  deriving DecidableEq, Repr

/-- A remote operation on its way to the target cell (R235, R398): its opcode byte, address, operand data
and check code, and the issuing context's number for it. -/
structure RemoteReq where
  /-- package of the issuing cell -/
  pkg : BitVec 10
  /-- issuing cell, as die × 256 + cell -/
  cell : Nat
  ctx : Nat
  /-- number by which the response finds its waiting operation -/
  id : Nat
  /-- number of the first operation of its instruction: earlier ones are below it -/
  base : Nat
  /-- ordering class -/
  oc : Nat
  op : BitVec 8
  sz : BitVec 2
  addr : W64
  data : List Byte
  /-- vector store: which of the 128 lanes are written (all of them for `VST.F`) -/
  supervisor : Bool
  check : BitVec 16
  deriving DecidableEq, Repr

/-- A response to a remote operation: status 0 is success, otherwise the code of R236. -/
structure RemoteResp where
  cell : Nat
  ctx : Nat
  id : Nat
  op : BitVec 8
  addr : W64
  status : Nat
  /-- the error kind of R168 behind a PERM status (SYNC is reported as PERM by a status twin) -/
  sync : Bool
  data : List Byte
  /-- words of a vector load whose full bit is 0, as 64 bits -/
  empties : W64
  check : BitVec 16
  deriving DecidableEq, Repr

/-- The records and notices of a collective (R337, R339), each with group and attempt (R439). Members and the root are
named as in ORIGIN; `root` is the cell of member 0, on whose die the root's router lies. -/
inductive CollMsg where
  /-- step 1 of R337: a member's exponent record of a section; `count` is COUNT of its `LDRED`, which gives the section's
  element count and that of the other sections (R340) -/
  | expRecord (root src : BitVec 32) (group attempt member nmem sect count : Nat) (x : Int) (notFinite : Bool)
  /-- step 2: E and the OR of the F flags, to one member -/
  | exponent (root : BitVec 32) (group attempt sect : Nat) (e : Int) (notFinite : Bool)
  /-- step 3: a member's AX64 chunk of a section -/
  | input (root src : BitVec 32) (group attempt member nmem sect : Nat) (ck : Chunk)
  /-- step 4: the summed section -/
  | result (group attempt sect : Nat) (ck : Chunk)
  /-- R339: the failure notice, with the ERR value it leaves -/
  | failure (group attempt err : Nat)
  /-- R89, R426: the root asks a member for its chunk once more, with this ATTEMPT -/
  | inputAgain (root : BitVec 32) (group attempt sect n : Nat)
  /-- R426: a result for member `src` failed a check on its way: the root sends it again, with this ATTEMPT -/
  | resultAgain (root src : BitVec 32) (group attempt sect n : Nat)
  /-- R269, R340: a chunk of member `src` has failed its check on its third sending -/
  | chunkLost (root src : BitVec 32) (group attempt : Nat)
  /-- R397: a packet of the collective to member `src` was abandoned -/
  | packetLost (root src : BitVec 32) (group attempt : Nat)
  deriving DecidableEq, Repr

/-- What a packet carries, by its KIND (R384). Log entry 17, DESIGN CHOICE. -/
inductive Body where
  | chunk (ck : Chunk)
  | request (r : RemoteReq)
  | response (r : RemoteResp)
  /-- a return, and the last hop that passed it -/
  | ret (stream : BitVec 16) (ack hop : BitVec 32)
  | refusal (stream : BitVec 16) (n ack : BitVec 32)
  | pennant (m : BitVec 16)
  | ack
  /-- a boot packet, and whether the root sent it DIRECT (R478) -/
  | boot (bytes : List Byte) (direct : Bool)
  | coll (m : CollMsg)
  | replayReq (stream : BitVec 16) (seq : BitVec 32) (attempt : BitVec 8)
  deriving DecidableEq, Repr

/-- A packet with the header of R384. -/
structure Packet where
  src : BitVec 10
  dst : BitVec 10
  die : BitVec 3
  nonmin : Bool
  gen : BitVec 4
  hop : Nat
  ch : Bool
  kind : BitVec 5
  inter : BitVec 10
  eseq : BitVec 32
  eack : BitVec 32
  cell : BitVec 8
  body : Body
  deriving DecidableEq, Repr

/-- A control message of a control flit (R383): it takes no LSEQ and is not retried. Log entry 64, DESIGN CHOICE. -/
inductive LinkCtrl where
  | ack (lseq : BitVec 12)
  /-- a negative acknowledgement names the next expected LSEQ -/
  | nak (lseq : BitVec 12)
  /-- flits of a virtual channel that the receiver's buffers have given free since the training -/
  | credit (vc : BitVec 3) (n : Nat)
  /-- the two halves of an exchange (R404): the time it was sent and the stratum; with the reply, the times at which the first
  half came and the reply was sent -/
  | stamp (t1 : W64) (stratum : Nat)
  | stampReply (t1 t2 t3 : W64) (stratum : Nat)
  | keySwitch (epoch : BitVec 32)
  deriving DecidableEq, Repr

/-- A flit (R383): the fields of FHDR, BODY, CRC and FEC, with the packet that the bytes up to its last flit lay out. -/
structure Flit where
  lseq : BitVec 12
  vc : BitVec 3
  sop : Bool
  eop : Bool
  /-- the message of a control flit: CTRL is 1 -/
  ctrl : Option LinkCtrl
  body : List Byte
  crc : BitVec 32
  fec : List Byte
  packet : Option Packet
  deriving DecidableEq, Repr

/-- The register windows that a host or a device controller writes through (R343, R381). -/
inductive RegSpace where
  | cellCsr (cell : Nat)
  | dieCsr (die : Nat)
  | pkgCsr
  | bar0
  /-- memory at a global address, as the firmware of a device controller reaches it (R283) -/
  | memory (addr : W64)
  deriving DecidableEq, Repr

/-- The chunk that stands in `Args` where an event carries none. -/
def Chunk.empty : Chunk :=
  ⟨0, 0, false, false, false, false, 0, 0, 0, 0, 0, 0, 0, 0, 0, 0, []⟩

/-- The empty acknowledgement packet. -/
def Packet.empty : Packet := ⟨0, 0, 0, false, 0, 0, false, 0, 0, 0, 0, 0, .ack⟩

/-- What takes part in an event: the agents, by number, and the message it carries. Which fields an event reads
stands in the docstring of its constructor. Cells are numbered die × 256 + logical cell. Log entry 92, DESIGN CHOICE. -/
structure Args where
  /-- cell, context, engine, and a number of the event's own -/
  c : Nat
  x : Nat
  e : Nat
  n : Nat
  k : Nat
  id : Nat
  die : Nat
  /-- link or output port -/
  p : Nat
  /-- scalar register numbers of an `XCMD` word -/
  a : BitVec 6
  b : BitVec 6
  group : Nat
  attempt : Nat
  sect : Nat
  tag : Nat
  origin : Nat
  row : Nat
  slot : Nat
  usage : Nat
  src : Nat
  dst : Nat
  store : Nat
  off : Nat
  size : Nat
  v : W64
  flag : Bool
  lseq : BitVec 12
  int : Int
  seq : BitVec 32
  ack : BitVec 32
  stream : BitVec 16
  bytes : List Byte
  ck : Chunk
  coll : CollMsg
  pk : Packet
  req : RemoteReq
  resp : RemoteResp
  flit : Flit
  sp : RegSpace
  deriving DecidableEq, Repr

/-- Nothing takes part. -/
def Args.empty : Args where
  c := 0
  x := 0
  e := 0
  n := 0
  k := 0
  id := 0
  die := 0
  p := 0
  a := 0
  b := 0
  group := 0
  attempt := 0
  sect := 0
  tag := 0
  origin := 0
  row := 0
  slot := 0
  usage := 0
  src := 0
  dst := 0
  store := 0
  off := 0
  size := 0
  v := 0
  flag := false
  lseq := 0
  int := 0
  seq := 0
  ack := 0
  stream := 0
  bytes := []
  ck := Chunk.empty
  coll := .failure 0 0 0
  pk := Packet.empty
  req := ⟨0, 0, 0, 0, 0, 0, 0, 0, 0, [], false, 0⟩
  resp := ⟨0, 0, 0, 0, 0, 0, false, [], 0, 0⟩
  flit := ⟨0, 0, false, false, none, [], 0, [], none⟩
  sp := .pkgCsr

end Sys2Proof
end

