-- ==== Sys2Proof/Config.lean ====
section
/-! DEFINITION. The free values: what the spec leaves open although the machine goes on. Each is an opaque constant
without a body, so no proof can learn a value of it; a step applies it to the draw counter of the state
(`State.draws`) or to the operands it depends on. -/

namespace Sys2Proof.Config
open Sys2Proof

/-- The choice between the old and the new value of an element read inside an exposed window (R305), and every other
two-way choice that the spec leaves open. Log entry 4, DESIGN CHOICE. -/
opaque freeBit : Nat → Bool

/-- A 64-bit value that the spec does not give. Log entry 4, DESIGN CHOICE. -/
opaque freeWord : Nat → BitVec 64

/-- A vector register's worth of bits that the spec does not give. Log entry 4, DESIGN CHOICE. -/
opaque freeVec : Nat → BitVec 512

/-! What the spec names without giving its computation: signatures, the parity of a flit, firmware and the scan pattern. Log entry 16. -/

/-- The Reed–Solomon parity of bytes 0–239 of a flit (R383). Log entry 16, DESIGN CHOICE. -/
opaque rsParity : List Byte → List Byte

/-- Flits of one virtual channel that a router buffers beyond those of one packet (R385). Log entry 63, DESIGN CHOICE. -/
opaque vcBuffer : Nat

/-- Whether a signature of ML-DSA-87 over a digest is the operator's (R400). Log entry 16, DESIGN CHOICE. -/
opaque operatorSigned : List Byte → List Byte → Bool

/-- The device's own signature over a digest (R410). Log entry 16, DESIGN CHOICE. -/
opaque deviceSign : List Byte → List Byte

/-- The WRAP key installed at provisioning (R408). Log entry 6, DESIGN CHOICE. Log entry 16, DESIGN CHOICE. -/
opaque provisionedKey : BitVec 256

/-- The firmware images of the PCP and the DCP (R410). Log entry 16, DESIGN CHOICE. -/
opaque pcpFirmware : List Byte
/-- Log entry 16, DESIGN CHOICE. -/
opaque dcpFirmware : List Byte

/-- The MISR after a segment of the scan pattern on a cell: cell, segment, MISR before it (R470).
Log entry 16, DESIGN CHOICE. -/
opaque scanMisr : Nat → Nat → BitVec 64 → Nat → BitVec 64

end Sys2Proof.Config
end

