-- ==== Sys2Proof/Machine/CellState.lean ====
section
/-! DEFINITION. The state of one cell: its four contexts with their register banks, and the parts of R11 that the
contexts share. Plain data throughout. Reset values stand in the `reset` value of each record; where the spec gives
none the log entry is named. -/

namespace Sys2Proof.Machine
open Sys2Proof

/-- The states of a context (R21). `ISSUING` is the cell's `cur`. -/
inductive CtxState where
  | free | ready | blocked | waiting | stopped | evicted
  deriving DecidableEq, Repr

/-- Why a context is held (R17): the condition that makes it READY again. -/
inductive Hold where
  | none
  /-- interlocked results with switch, by their numbers -/
  | awaits (ids : List Nat)
  /-- the queue of an `XCMD` engine is full -/
  | engine (e : Nat)
  /-- the condition-token queue of a sequencer stream is full (R267) -/
  | tokens (stream : Nat)
  /-- the queue of a matrix engine is full -/
  | matrix (e : Nat)
  /-- `SEMIT` on a port: no free slot, no pennant for the micro-batch, or a stopped stream -/
  | emit (port : Nat) (mb : BitVec 16)
  /-- a rotation of the region is in flight (R102) -/
  | rotate
  /-- an earlier `LDRED` of the group is incomplete (R248) -/
  | group (g : Nat)
  /-- `XWAIT`: engines whose busy flags are awaited -/
  | engines (mask : BitVec 6)
  /-- `LDS`, `LDSE`: an empty scratch word, by flat address -/
  | word (a : Nat)
  /-- `BWAIT`: an object whose phase has not flipped -/
  | phase (a : Nat) (seen : Bool)
  /-- `SWAIT`: a signal below its threshold -/
  | signal (a : Nat) (v : W64)
  /-- `FENCE`: accesses of the masked classes not yet performed, by their numbers -/
  | fence (ids : List Nat)
  /-- `POWREQ`: a grant not yet given (R178) -/
  | power
  /-- `WAITT`: TIME in nanoseconds -/
  | time (t : W64)
  /-- `WAITEV`: events of `EV_PEND` -/
  | event (mask : BitVec 11)
  /-- `XLT`, `ENDT`: a record of this context is held for the full fault buffer (R380) -/
  | record
  /-- `ENDT`: results, returns or matrix operations still outstanding (R31) -/
  | ending
  deriving DecidableEq, Repr

/-- Where an in-flight result lands. -/
inductive LandKind where
  | vec | lanePred | scalar
  deriving DecidableEq, Repr

/-- A result in flight (R304): it lands in the counted cycle `due` of its cell. `held` marks an interlocked result,
which holds a bundle that reads it; any other is exposed (R305). Log entry 89, DESIGN CHOICE. -/
structure Landing where
  kind : LandKind
  cl : Nat
  reg : Nat
  val : BitVec 512
  emp : BitVec 16
  /-- the elements the result writes: lanes of a vector, bits of a lane predicate, bit 0 of a scalar -/
  mask : BitVec 16
  /-- elements that a read has already seen new (R305) -/
  seen : BitVec 16
  /-- sticky flags that land with it (R54) -/
  flags : W64
  due : Nat
  held : Bool
  /-- cell clock of issue, by which R121 decides -/
  born : Nat
  /-- number of the local read that has still to supply it, 0 for none -/
  src : Nat
  deriving DecidableEq, Repr

/-- What an outstanding operation will write when its answer comes. -/
inductive AwaitKind where
  | load | amo | store | vload | vstore | xlt
  deriving DecidableEq, Repr

/-- An outstanding operation with a result or an acknowledgement to come (R149, R171, R235): far and remote
operations, status twins, `XLT` and deep-store vector loads. -/
structure Await where
  id : Nat
  kind : AwaitKind
  /-- destination register -/
  reg : Nat
  /-- clusters written by a vector load -/
  clusters : BitVec 8
  /-- lanes of each cluster that are not read (`VLDQ`), cluster 0 in bits 15:0 -/
  dead : BitVec 128
  sz : BitVec 2
  signed : Bool
  /-- a status twin -/
  twin : Bool
  addr : W64
  oc : Nat
  /-- `VIOL_INFO` of the access, KIND apart (R169) -/
  info : W64
  /-- the answer, once it has come: status, error kind, data and empty marks -/
  answer : Option (Nat × Nat × List Byte × W64)
  /-- cell clock at which the answer is written, where it is known (R170, R232) -/
  due : Option Nat
  /-- an interlock of up to 6 cycles: it holds a bundle in place (R17) -/
  quick : Bool
  /-- cell clock of issue, by which R121 decides -/
  born : Nat
  deriving DecidableEq, Repr

/-- A result that has reached its destination: the elements written and the clock of its issue (R121). -/
structure Reach where
  kind : LandKind
  cl : Nat
  reg : Nat
  mask : BitVec 16
  born : Nat
  deriving DecidableEq, Repr

/-- Where a local read that has issued puts what it finds. -/
inductive ReadTo where
  /-- a scalar result in flight, extended with its sign or with zeros -/
  | scalar (signed : Bool)
  /-- vector results in flight of the clusters, 64 bytes each -/
  | vec (clusters : List Nat)
  /-- the answer of an outstanding vector load -/
  | await
  deriving DecidableEq, Repr

/-- What a local access that has issued still has to do. -/
inductive PendOp where
  | write
  /-- `SETE`: the word becomes empty -/
  | empty
  | read (dst : ReadTo)
  /-- an atomic: the low bits of its opcode, its bytes and operands, and bundle, slot and address where the recorder logs it -/
  | amo (op n : Nat) (x y : W64) (log : Option (Nat × Nat × W64))
  deriving DecidableEq, Repr

/-- A part of a local access within one 64-bit word (R284): its place, the bytes written or read, and the place of its
first byte in the whole access. -/
structure Piece where
  key : Nat
  bytes : List Byte
  off : Nat
  deriving DecidableEq, Repr

/-- A local access that has issued and is not yet performed (R285, R286), with its number and ordering class.
Log entry 8, DESIGN CHOICE. -/
structure Pend where
  seq : Nat
  oc : Nat
  op : PendOp
  pieces : List Piece
  deriving DecidableEq, Repr

/-- A counter capture set of a context (R177, R456). -/
structure CapSet where
  running : Bool
  evicted : Bool
  count : Nat
  deriving DecidableEq, Repr

def CapSet.reset : CapSet := ⟨false, false, 0⟩

/-- A slot bound to a task: input, route tag and ring slot, and whether it has been freed. -/
structure Bound where
  input : Nat
  tag : Nat
  slot : Nat
  freed : Bool
  deriving DecidableEq, Repr

/-- An entry of a matrix engine's queue (R249, R319). -/
structure MEntry where
  ctx : Nat
  op : Nat
  t : Nat
  aux : BitVec 11
  /-- the register named by s as read at issue, 0 for operations with s zero (R318) -/
  sval : W64
  /-- sequencer stream, for the stream forms -/
  stream : Option Nat
  factor : Option W32
  /-- bundle address and slot of each original operation -/
  origins : List (Nat × Nat)
  /-- number of the context's window it belongs to (R317) -/
  window : Nat
  /-- no rule applies to it (R328) -/
  inhibited : Bool
  /-- a later operation has taken the tile, which cancels its release (R251) -/
  kept : Bool
  /-- MODE of the context at issue, for R74 -/
  supervisor : Bool
  /-- source bytes, read when the operation starts -/
  data : List Byte
  /-- cell clock of issue -/
  at_ : Nat
  /-- ring slots that the task has freed since its issue, by flat address, with their bytes before (R297) -/
  past : List (Nat × List Byte)
  /-- cell clocks of issue of the original operations, which tell them apart (R328) -/
  born : List Nat
  /-- places of the source bytes, in their order: flat addresses and lengths -/
  spans : List (Nat × Nat)
  deriving DecidableEq, Repr

/-- A fault found after its bundle has issued (R260, R328): the bundle, slot, cause, information, the slots not done and,
for a replacement, its original operations. -/
structure LateFault where
  pc : Nat
  slot : Nat
  cause : Nat
  info : Nat
  undone : BitVec 14
  origins : List (Nat × Nat)
  deriving DecidableEq, Repr

/-- A `ROT` that a cell has issued: the bytes of its source where it exists, their place and the poisoned words among
them, its destination and length, and the context, task and slot that issued it. -/
structure Rotation where
  src : Nat
  bad : Tab Bool
  data : Option (List Byte)
  dst : Nat
  len : Nat
  ctx : Nat
  task : Nat
  slot : Nat
  /-- number among the operations of its cell (R301) -/
  id : Nat
  deriving DecidableEq, Repr

/-- The bank of one context (R15), the CSRs 0x000-0x0FF and what the cell keeps for it. -/
structure Ctx where
  st : CtxState
  /-- the condition of a BLOCKED or WAITING context; it stays with a held bundle until that bundle issues -/
  hold : Hold
  /-- cycle in which the held bundle was first presented (R231) -/
  heldAt : Nat
  /-- address of the next bundle -/
  pc : Nat
  /-- a bundle re-issued by `ERET`: only the slots outside `DONE_MASK` run (R165) -/
  redo : Bool
  s : Tab W64
  p : BitVec 32
  /-- v0-v31 of cluster n at 32n + register -/
  v : Tab VReg
  /-- q0-q7 of cluster n at 8n + register -/
  q : Tab (BitVec 16)
  /-- `CTX_STATUS` (R22) -/
  supervisor : Bool
  handler : BitVec 4
  prio : BitVec 2
  disp : Bool
  preempted : Bool
  carried : Bool
  doneMask : W64
  trapCause : W64
  trapPc : W64
  trapSlot : W64
  trapVec : W64
  /-- the hidden bit of R165 -/
  hidden : Bool
  fpctl : W64
  rwPerm : W64
  /-- the value of `RW_PERM` at the context's last close, by engine (R318) -/
  rwPermClosed : Tab W64
  brConflict : W64
  errSticky : W64
  violAddr : W64
  violInfo : W64
  loopState : W64
  loopExec : W64
  /-- `EV_PEND` bits 10:6; ENGIDLE is the inverse of the busy counts -/
  evPend : W64
  rwFault : W64
  rwOrigin : W64
  whit : W64
  taskArg : Tab W64
  taskSlots : W64
  caps : Tab CapSet
  capEvent : Tab W64
  /-- unfinished commands of the task per engine (R173) -/
  busy : Tab Nat
  land : List Landing
  awaits : List Await
  /-- scalar registers written by a landing or return in this cycle, with their values before (R149) -/
  stale : List (Nat × W64)
  /-- results that have reached their destinations in this cycle, and those that do so in the next (R121) -/
  reached : List Reach
  reachNext : List Reach
  /-- sticky flags of `FPCTL` that landed in this cycle, those of them that were clear before, and the bits of `EV_PEND`
  set in this cycle (R54, R157) -/
  hwSet : W64
  hwNew : W64
  evHw : W64
  bound : List Bound
  /-- units of leave granted (R313) -/
  grant : Nat
  /-- requests at the die power manager: bundle and slot of the `POWREQ` as one number, and units -/
  asked : List (Nat × Nat)
  /-- requests of which the grant has arrived and the `POWREQ` has not yet issued -/
  granted : List Nat
  /-- bundle address and slot of an `ENDT` that has issued (R31) -/
  ended : Option (Nat × Nat)
  /-- single-step requested by the DCP, and its bundle has issued (R461) -/
  stepping : Bool
  stepDone : Bool
  /-- a RESUME, or a STEP where true, recorded while the context is evicted (R372) -/
  order : Option Bool
  /-- fetch is frozen for an eviction (R39), or the region is being killed (R433) -/
  frozen : Bool
  /-- cell clock of the freeze for an eviction: the results in flight are captured as they stood then -/
  frozeAt : Option Nat
  /-- state and hold that a resumed task enters when its power grant comes again (R178) -/
  back : Option (CtxState × Hold)
  /-- number of the task since die reset, by which the most recent start is known (R38) -/
  task : Nat
  /-- graph and node of the `RUN` node that started the task -/
  node : Option (Nat × Nat)
  /-- number of the current Tarragon window (R317), by engine, and cell clock of the last M entry, from which the idle close is
  counted: none where it has been made -/
  window : Tab Nat
  lastM : Tab Nat
  /-- faults found after issue, each taken at a bundle boundary, oldest first -/
  late : List LateFault
  /-- matrix entries taken out of the queues at eviction, by engine (R262) -/
  parked : List (Nat × MEntry)
  /-- NEXT_P of each output port at the task's first `SEMIT` on it (R434) -/
  marks : Tab (BitVec 32)
  /-- local accesses that are not yet performed, oldest first -/
  pend : List Pend
  deriving DecidableEq, Repr

/-- A context to which no task is bound. The registers read 0 and p0 reads true; the spec gives most of them no
value before a task start, which sets them (R28): log entry 2. -/
def Ctx.reset : Ctx where
  st := .free
  hold := .none
  heldAt := 0
  pc := 0
  redo := false
  s := []
  p := 1#32
  v := []
  q := []
  supervisor := false
  handler := 0
  prio := 0
  disp := false
  preempted := false
  carried := false
  doneMask := 0
  trapCause := 0
  trapPc := 0
  trapSlot := 0
  trapVec := 0
  hidden := false
  fpctl := 0
  rwPerm := 0
  rwPermClosed := []
  brConflict := 0
  errSticky := 0
  violAddr := 0
  violInfo := 0
  loopState := 0
  loopExec := 0
  evPend := 0
  rwFault := 0
  rwOrigin := 0
  whit := 0
  taskArg := []
  taskSlots := 0
  caps := []
  capEvent := []
  busy := []
  land := []
  awaits := []
  stale := []
  reached := []
  reachNext := []
  hwSet := 0
  hwNew := 0
  evHw := 0
  bound := []
  grant := 0
  asked := []
  granted := []
  ended := none
  stepping := false
  stepDone := false
  order := none
  frozen := false
  frozeAt := none
  back := none
  task := 0
  node := none
  window := []
  lastM := []
  late := []
  parked := []
  marks := []
  pend := []

/-- A handler table entry (R23). -/
structure Handler where
  entry : Nat
  arrival : Bool
  /-- declared inputs: tag, count and AUTOFREE -/
  inputs : List (Nat × Nat × Bool)
  maxctx : Nat
  supervisor : Bool
  fpctl0 : W64
  rwperm0 : W64
  stackBase : W64
  stackSize : W64
  arg2 : W64
  arg3 : W64
  deriving DecidableEq, Repr

/-- What a ring slot of a consumer tag holds (R24, R85). -/
inductive SlotUse where
  /-- free, or freed and its number passed by ACK_C -/
  | empty
  /-- a chunk whose bytes are written but which waits for lower numbers (R86) -/
  | arrived
  | resident
  | bound (ctx : Nat)
  /-- kept for the next task of a handler's input (R31) -/
  | carried (handler input : Nat)
  /-- freed, but not yet passed by ACK_C -/
  | freed
  deriving DecidableEq, Repr

/-- A ring slot: its use, and the number, micro-batch, flags and attempt of its chunk. -/
structure RingSlot where
  use : SlotUse
  seq : BitVec 32
  mb : BitVec 16
  flags : BitVec 4
  attempt : BitVec 8
  deriving DecidableEq, Repr

def RingSlot.reset : RingSlot := ⟨.empty, 0, 0, 0, 0⟩

/-- A consumer route tag (R81) with its stream state (R85, R90). -/
structure TagSt where
  slots : Nat
  pay : Nat
  fmt : BitVec 8
  stream : BitVec 16
  base : Nat
  halyard : Bool
  ackC : BitVec 32
  expC : BitVec 32
  ring : Tab RingSlot
  /-- chunks made resident since the last census, the time of it in units of 1/45000 ns, and its serial -/
  since : Nat
  censusAt : Nat
  serial : BitVec 32
  /-- producing cell, as in ORIGIN, to which returns go; none before the first chunk -/
  origin : Option (BitVec 32)
  /-- a consumer end in PEER_LOST (R479) -/
  peerLost : Bool
  /-- micro-batch and END_MB of the newest chunk bound, and the D of the drop rule while it lasts (R445) -/
  newest : Option (BitVec 16 × Bool)
  dropTo : Option (BitVec 16)
  deriving DecidableEq, Repr

def TagSt.reset : TagSt := ⟨0, 0, 0, 0, 0, false, 0, 0, [], 0, 0, 0, none, false, none, none⟩

/-- An output port with its stream state (R82, R87, R362). -/
structure PortSt where
  stream : BitVec 16
  /-- consumer, as in ORIGIN -/
  dest : BitVec 32
  tag : BitVec 4
  slots : Nat
  pay : Nat
  fmt : BitVec 8
  halyard : Bool
  base : Nat
  nextP : BitVec 32
  ackP : BitVec 32
  /-- next chunk to be resent, below NEXT_P, after a refusal (R93) -/
  unsent : Option (BitVec 32)
  /-- whether the wait of R93 has been met since the refusal, and its time -/
  resendOk : Bool
  refusedAt : Nat
  /-- attempt number of each retained chunk, by retain slot -/
  attempts : Tab Nat
  stopped : Bool
  /-- a needed retain slot was unreadable (R436): no replay clears the stop -/
  lost : Bool
  peerLost : Bool
  /-- high-water mark of a port rewound by a region kill (R434) -/
  high : Option (BitVec 32)
  mbBase : BitVec 16
  /-- whether a re-establishment renumbers from the next chunk's micro-batch (R445) -/
  renumber : Bool
  deriving DecidableEq, Repr

def PortSt.reset : PortSt :=
  ⟨0, 0, 0, 0, 0, 0, false, 0, 0, 0, none, false, 0, [], false, false, false, none, 0, false⟩

/-- A command of an engine's queue: the context and task that issued it, and its two words (R172). A copy command of a
COPY node (R352) has context 4, its graph and node, and its descriptor with it. -/
structure Cmd where
  /-- number among the operations of its cell (R301) -/
  id : Nat
  ctx : Nat
  task : Nat
  prio : Nat
  supervisor : Bool
  w0 : W64
  w1 : W64
  desc : Option (List Byte)
  node : Option (Nat × Nat)
  deriving DecidableEq, Repr

/-- A far store of a task that has retired: its number and address, the task, and the `RUN` node that started it. -/
structure Orphan where
  id : Nat
  addr : W64
  task : Nat
  node : Option (Nat × Nat)
  deriving DecidableEq, Repr

/-- A copy command that waits, with the descriptor that it read at its start: for the answer to its fault, by fault number
(R265, R379), or for writes to another package, by numbers from 2^16 on. -/
structure CopyRun where
  cmd : Cmd
  desc : List Byte
  fid : Nat
  deriving DecidableEq, Repr

/-- One loop of a sequencer stream (R266). -/
structure SeqLoop where
  count : Nat
  dim : Nat
  step : Int
  deriving DecidableEq, Repr

/-- A fetched unit of a stream: its address, or none beyond an outcome other than OK, and its live bytes. -/
structure SeqUnit where
  addr : Option W64
  bytes : Nat
  data : List Byte
  outer : Nat
  deriving DecidableEq, Repr

/-- A sequencer stream (R266, R267). -/
structure SeqStream where
  target : Nat
  cond : Bool
  tensor : BitVec 16
  base : List Nat
  loops : List SeqLoop
  unit : Nat
  /-- units emitted so far, and units taken -/
  emitted : Nat
  taken : Nat
  queue : List SeqUnit
  tokens : List Bool
  /-- outer iterations released by tokens -/
  released : Nat
  ended : Bool
  /-- the outcome other than OK that stopped it, as the code of R170 -/
  stopped : Option Nat
  /-- contexts waiting for a unit, with the await each holds -/
  waiting : List (Nat × Nat)
  /-- the port-context entry: tile number and table entry (R375) -/
  entry : Option (Nat × W64)
  /-- the walk of a change of tile that it waits for (R374) -/
  walk : Option Nat
  /-- elements of the next unit that are gathered, and their bytes -/
  got : Nat
  part : List Byte
  /-- elements of the iterations released before the token that ended it (R267) -/
  cut : Option Nat
  deriving DecidableEq, Repr

/-- A section of an `LDRED` (R337): 0 its record is sent, 1 its chunk is sent, 2 its result is written; the time at which
its last message went, E, and how often its chunk or its result has been sent. -/
structure LSect where
  stage : Nat
  sentAt : Nat
  e : Int
  deriving DecidableEq, Repr

/-- A collective in flight on this member (R248). -/
structure Ldred where
  /-- number among the operations of its cell -/
  id : Nat
  ctx : Nat
  task : Nat
  count : Nat
  dst : Nat
  /-- the contribution as FP32 words, read at issue -/
  src : List W32
  sects : Tab LSect
  deriving DecidableEq, Repr

/-- A group definition of a cell (R268). -/
structure Group where
  nmem : Nat
  infmt : BitVec 8
  myidx : Nat
  barrier : W64
  members : List (BitVec 32)
  attempt : BitVec 8
  run : Option Ldred
  deriving DecidableEq, Repr

/-- The halyard unit of a cell (R270-R274). -/
structure Halyard where
  paired : Bool
  /-- an `HPAIR` that has started but not completed -/
  pairing : Option Cmd
  n : Nat
  itag : Nat
  oport : Nat
  cpm : Nat
  /-- receiver slot states, coded as in R274, and the micro-batch of each -/
  slots : Tab Nat
  slotMb : Tab (BitVec 16)
  /-- next micro-batch to be pennanted and the number of its first chunk; next micro-batch to be bound -/
  nextPennant : BitVec 16
  nextSeq : BitVec 32
  expected : BitVec 16
  /-- the micro-batch of chunk 0 of the incoming stream; none after a re-establishment until its first chunk comes -/
  base : Option (BitVec 16)
  /-- sender side: pennants held -/
  held : List (BitVec 16)
  dups : Nat
  early : List (BitVec 16)
  deriving DecidableEq, Repr

def Halyard.reset : Halyard := ⟨false, none, 0, 0, 0, 0, [], [], 0, 0, 0, some 0, [], 0, []⟩

/-- The trace engine of a cell (R275, R457). -/
structure Trace where
  mask : BitVec 8
  size : Nat
  base : W64
  /-- records not yet written out, oldest first -/
  pend : List (List Byte)
  /-- write position in the ring -/
  pos : Nat
  wraps : Nat
  lost : Nat
  deriving DecidableEq, Repr

def Trace.reset : Trace := ⟨0, 0, 0, [], 0, 0, 0⟩

/-- An accumulator tile (R251). Elements, row scales and checksums are listed by row × 64 + column and by row. -/
structure Tile where
  /-- context that owns the tile; 4 + task number for the tile of an evicted task, which incoming work may claim -/
  owner : Option Nat
  ru : Nat
  acc : Tab W32
  /-- elements, row scales and checksums that are not listed are undefined (R251, R255): they read as the free values
  drawn from this number on; none: they read 0, 1.0 and 0 -/
  undef : Option Nat
  scale : Tab (BitVec 16)
  /-- checksums: exact sums m × 2^e; none stands for a sum that is not finite -/
  check : Tab (Option (Int × Int))
  flip0 : Bool
  flip1 : Bool
  deriving DecidableEq, Repr

def Tile.reset : Tile := ⟨none, 0, [], none, [], [], false, false⟩

/-- A weight buffer: the format and the tile image with its checksum vector (R50). -/
structure Weights where
  fmt : BitVec 8
  img : List Byte
  deriving DecidableEq, Repr

/-- A matrix engine (R249). -/
structure MatEngine where
  queue : List MEntry
  /-- original entries kept behind replacements, for their re-execution on a fault (R327, R328) -/
  originals : List MEntry
  /-- started operations with the cell clocks at which each feeds its last row and completes -/
  running : List (MEntry × Nat × Nat)
  tiles : Tab Tile
  active : Option Weights
  shadow : Option Weights
  /-- an `MWLOAD` has been issued since the last `MWSWAP`; an active buffer will exist once queued swaps have run -/
  loaded : Bool
  swapped : Bool
  /-- activation and weight format (R253) -/
  pair : Option (BitVec 4 × BitVec 4)
  /-- buffers and pair of an evicted configuration are in place, which the next `MCFG` or `MWLOAD` claims (R252) -/
  aside : Bool
  deriving DecidableEq, Repr

def MatEngine.reset : MatEngine := ⟨[], [], [], [], none, none, false, false, none, false⟩

/-- An evicted task (R39): its context number, its saved bank with landing cycles as remaining offsets (R41), the place
of its save area in the fabric's memory, and its accumulator tiles by engine and number (R367). Log entry 49, DEDUCED.
A tile that incoming work has claimed stands in three spill frames. -/
structure Saved where
  num : Nat
  bank : Ctx
  area : Nat
  tiles : List (Nat × Nat × Tile)
  /-- claimed tiles: engine, number and frames -/
  claims : List (Nat × Nat × List Nat)
  deriving DecidableEq, Repr

/-- One cell. -/
structure Cell where
  ctxs : Tab Ctx
  regionId : W64
  regionSize : W64
  ringPos : W64
  stageId : W64
  ringLink : W64
  /-- the context that holds the issue slot, the one that last issued, and the one whose bundle was last presented, for which
  a switch has been paid (R18) -/
  cur : Option Nat
  last : Option Nat
  home : Option Nat
  /-- the switch cycle before the next issue has been spent -/
  switched : Bool
  /-- cell clock before which no context issues: WAIT counts and trap entry (R107, R163) -/
  busyTil : Nat
  /-- those cycles are a trap entry -/
  entering : Bool
  /-- this cycle is a freeze cycle -/
  froze : Bool
  /-- freeze cycles since die reset; the cell clock is the cycle count less this -/
  frozen : Nat
  /-- weights charged, by cycle, of the last 31 cycles (R309) -/
  weights : List (Nat × Nat)
  lastF : Option Nat
  curBase : BitVec 14
  freezeCnt : W64
  rwTable : W64
  /-- cell clock at which a table load ends, and `RW_TABLE` at its start, while one is in progress -/
  rwLoad : Option (Nat × W64)
  rwRules : Tab (BitVec 128)
  rwHits : Tab W64
  vcfg : Tab W64
  /-- values of `VCFGn` written by `VCFGW` and not yet in force: cell clock, cluster, value (R220) -/
  vland : List (Nat × Nat × W64)
  handlers : Tab Handler
  tags : Tab TagSt
  ports : Tab PortSt
  engines : Tab (List Cmd)
  copies : List CopyRun
  seqs : Tab SeqStream
  groups : Tab Group
  hal : Halyard
  trace : Trace
  mats : Tab MatEngine
  saved : List Saved
  /-- scratch that the configuration and save areas take: offset and length -/
  alloc : List (Nat × Nat)
  profSel : W64
  prof : Tab Nat
  /-- cycle at which the configuration interval began (R453) -/
  profStart : Nat
  /-- elements 14 and 16-31 that are FIRED in this cycle; the cycle loads a configuration (R450) -/
  fired : List Nat
  loading : Bool
  recStat : W64
  bps : Tab W64
  /-- value watchpoints: WV_BASE0-3, WV_CFG0-3, WV_VAL0-3, WV_MASK0-3 at 0-15; sync watchpoints at 0-3 -/
  wv : Tab W64
  ws : Tab W64
  /-- a configuration is loaded; the cell is under kill (R433) -/
  loaded : Bool
  killed : Bool
  /-- a `ROT` issued by this cell and not complete -/
  rot : Option Rotation
  /-- priority of the `RUN` node that last configured the region (R25) -/
  startPrio : BitVec 2
  nextId : Nat
  nextTask : Nat
  /-- the cycle after the last one in which a task has started (R25) -/
  started : Nat
  /-- far stores of retired tasks that are not yet acknowledged: number and address (R302) -/
  orphans : List Orphan
  /-- `RUN` tasks waiting for a FREE context: graph, node, handler, priority and arguments -/
  runs : List (Nat × Nat × Nat × Nat × List W64)
  deriving DecidableEq, Repr

/-- A cell after die reset: no configuration, every context FREE, `CUR_LIMIT`.BASE 2,560 (R310).
Log entry 3, DESIGN CHOICE. -/
def Cell.reset : Cell where
  ctxs := []
  regionId := 0
  regionSize := 0
  ringPos := 0
  stageId := 0
  ringLink := 0
  cur := none
  last := none
  home := none
  switched := false
  busyTil := 0
  entering := false
  froze := false
  frozen := 0
  weights := []
  lastF := none
  curBase := 2560
  freezeCnt := 0
  rwTable := 0
  rwLoad := none
  rwRules := []
  rwHits := []
  vcfg := []
  vland := []
  handlers := []
  tags := []
  ports := []
  engines := []
  copies := []
  seqs := []
  groups := []
  hal := Halyard.reset
  trace := Trace.reset
  mats := []
  saved := []
  alloc := []
  profSel := 0
  prof := []
  profStart := 0
  fired := []
  loading := false
  recStat := 0
  bps := []
  wv := []
  ws := []
  loaded := false
  killed := false
  rot := none
  startPrio := 0
  nextId := 0
  nextTask := 0
  started := 0
  orphans := []
  runs := []

/-- The context numbered `x`. -/
def Cell.ctx (c : Cell) (x : Nat) : Ctx := c.ctxs.get Ctx.reset x

/-- Puts a context back under its number. -/
def Cell.putCtx (c : Cell) (x : Nat) (t : Ctx) : Cell := { c with ctxs := c.ctxs.ins x t }

end Sys2Proof.Machine
end

