-- ==== Sys2Proof/Machine/PackageState.lean ====
section
/-! DEFINITION. The state of a die, of the package's ports and controllers, and of what is in flight. -/

namespace Sys2Proof.Machine
open Sys2Proof

/-- An event of the opcode table with what takes part in it. Log entry 92, DESIGN CHOICE. -/
structure Event where
  instr : Instr
  args : Args
  deriving DecidableEq, Repr

/-- A record queue read through a control register and four entry registers (R370): the trap queue, the fault buffer and
the error log of a die. Records are lists of words; `held` are records kept at their sources while the queue is full. -/
structure LogQueue where
  items : List (List W64)
  held : List (List W64)
  ovf : Bool
  ie : Bool
  ovfcnt : Nat
  deriving DecidableEq, Repr

def LogQueue.reset : LogQueue := ⟨[], [], false, true, 0⟩

/-- A tensor descriptor (R77, R363): format, kind (0 ELEM, 1 WIMG, 2 AROW), dimensions, log2 of the tile shape, tile
table. -/
structure Tensor where
  fmt : Nat
  kind : Nat
  gather : Bool
  dims : List Nat
  shape : List Nat
  table : W64
  /-- the 32 bytes, by which a load compares descriptors (R364) -/
  raw : List Byte
  deriving DecidableEq, Repr

/-- A request to the walkers (R376): who asked, the operands of its `XLT`, the cycle at which the walk ends once a walker
has taken it, and for a stream of the sequencer its number and the tile. -/
structure Walk where
  cell : Nat
  ctx : Nat
  id : Nat
  a : W64
  b : W64
  ends : Option Nat
  stream : Option (Nat × Nat)
  deriving DecidableEq, Repr

/-- A section of a collective at its root (R337): the members' records (member, name, count, X, F), E and F once
returned, the members' chunks, the time at which the timer of R339 expires, and the result of the last run. -/
structure CollSect where
  recs : List (Nat × BitVec 32 × Nat × Int × Bool)
  e : Option (Int × Bool)
  chunks : List (Nat × Chunk)
  due : Nat
  result : Option Chunk
  deriving DecidableEq, Repr

def CollSect.reset : CollSect := ⟨[], none, [], 0, none⟩

/-- An attempt of a collective at its root, with the ERR of its failure. Log entry 41, DEDUCED. -/
structure Coll where
  attempt : Nat
  sects : Tab CollSect
  failed : Option Nat
  deriving DecidableEq, Repr

/-- A region: origin, width, height, the image it holds (R358), and the tensors of that configuration. -/
structure Region where
  origin : Nat
  w : Nat
  h : Nat
  image : W64
  tensors : List Nat
  deriving DecidableEq, Repr

/-- A configuration load that waits for its cells to drain (R302, R358): where, which image, for which node and at what
priority; without a node it brings an evicted configuration back (R368). -/
structure Load where
  origin : Nat
  w : Nat
  h : Nat
  image : W64
  node : Option (Nat × Nat)
  prio : Nat
  deriving DecidableEq, Repr

/-- A cell of an evicted configuration (R38, R40): the cell as it stood, the full bits of its scratch, the pages that
incoming work has claimed with their frames, the engines of which the weight buffers are still in place, and the frames of
those claimed (R252, R367). Log entry 53, DESIGN CHOICE. -/
structure Shelf where
  cell : Nat
  origin : Nat
  image : W64
  was : Cell
  full : Tab Bool
  pages : List (Nat × Nat)
  kept : List Nat
  frames : List Nat
  deriving DecidableEq, Repr

/-- A frame in quarantine (R382), with the epoch in which it was freed and the accesses, by cell and number, that were in
flight then. Log entry 60, DEDUCED. -/
structure Quar where
  frame : W64
  epoch : Nat
  open_ : List (Nat × Nat)
  deriving DecidableEq, Repr

structure Die where
  csr : Tab W64
  /-- `CMAP_ROWr` (R447): the rows whose map has a removed column -/
  cmap : Tab W64
  /-- the manufacturing map: what `CMAP_ROWr` holds after a reset (R447) -/
  fuse : Tab W64
  /-- map of the spare rows and the spare column of an engine, by 2 × cell + engine, as its last scan test set it (R429) -/
  spares : Tab W64
  /-- cycle of the last die reset -/
  resetAt : Nat
  /-- error log of 128 (R422), fault buffer of 256 and trap queue of 64 records (R369, R370) -/
  elog : LogQueue
  faults : LogQueue
  traps : LogQueue
  /-- `ECC_COUNT` (R422): corrected errors, uncorrectable errors -/
  eccCe : Nat
  eccUe : Nat
  /-- per store kind, the TIME of the last CE record and the corrected errors since (R420) -/
  ce : Tab (Nat × Nat)
  /-- comparators of shadowed streams (R430): stream, queues of the primary and the shadow with their target cells -/
  shadow : List (BitVec 16 × List (Nat × Chunk) × List (Nat × Chunk))
  /-- edge translation buffer: tensor × 2^32 + tile, and the table entry (R374) -/
  tb : List (Nat × W64)
  /-- units of leave granted, and held requests in order of arrival: cell, context, units (R313) -/
  powUsed : Nat
  powQueue : List (Nat × Nat × Nat)
  /-- tensor directory, by identifier (R373) -/
  tensors : Tab Tensor
  walks : List Walk
  /-- collectives rooted on the die, by 256 × cell of member 0 + group; messages of a newer attempt (R439) -/
  colls : Tab Coll
  collHeld : List Event
  regions : List Region
  loads : List Load
  shelf : List Shelf
  /-- spill frames in use, by number in the pool (R367) -/
  spill : List Nat
  /-- the next fault identifier (R378) -/
  nextFid : Nat
  /-- the quarantine queue, frees held while it is full, and the epoch of `QUIESCE` (R382) -/
  quar : List Quar
  quarHeld : List W64
  epoch : Nat
  /-- the context that the DCP's accesses to a cell's context CSRs reach (R371) -/
  selected : Tab Nat
  /-- serial of the last configuration load (R12) -/
  serial : Nat
  /-- cells whose last scan test ended ABORTED (R470) -/
  aborted : List Nat
  /-- kills of the last 100 ms: origin and TIME (R423, R437) -/
  kills : List (Nat × Nat)
  /-- TIME of the last ABFT_MISMATCH of each cell (R429) -/
  abft : Tab Nat
  /-- numbers of shadowed streams that have mismatched once (R431) -/
  mismatched : List (BitVec 16 × BitVec 32)
  /-- cells that R437 took out of service; whether one of them has passed its scan test since -/
  suspects : List Nat
  cleared : Bool
  deriving DecidableEq, Repr

/-- Log entry 3, DESIGN CHOICE. -/
def Die.reset : Die where
  csr := []
  cmap := []
  fuse := []
  spares := []
  resetAt := 0
  elog := LogQueue.reset
  faults := LogQueue.reset
  traps := LogQueue.reset
  eccCe := 0
  eccUe := 0
  ce := []
  shadow := []
  tb := []
  powUsed := 0
  powQueue := []
  tensors := []
  walks := []
  colls := []
  collHeld := []
  regions := []
  loads := []
  shelf := []
  spill := []
  nextFid := 0
  quar := []
  quarHeld := []
  epoch := 0
  selected := []
  serial := 0
  aborted := []
  kills := []
  abft := []
  mismatched := []
  suspects := []
  cleared := false

/-- States of a dependence-table entry (R351). -/
inductive NodeSt where
  | loaded | ready | running | done | failed | cancelled
  deriving DecidableEq, Repr

/-- A node of an accepted graph: its 64 bytes as read at acceptance, its state and count, the TIMEs at which it became
READY and started, and for a RUN node the die and origin of its region, the cells whose tasks have not retired, whether
one failed, and whether a kill has restarted it (R433). -/
structure GNode where
  bytes : List Byte
  st : NodeSt
  count : Nat
  readyAt : Nat
  startAt : Nat
  region : Option (Nat × Nat)
  left : List Nat
  bad : Bool
  rerun : Bool
  /-- effective priority at the start -/
  prio : Nat
  deriving DecidableEq, Repr

/-- A graph in the dependence table (R347). -/
structure Graph where
  tag : Nat
  prio : Nat
  compl : W64
  complDev : Bool
  nodes : List GNode
  firstFail : Option Nat
  deriving DecidableEq, Repr

/-- A record that waits for space in a host ring, with the HRING node that posted it. -/
structure RingRec where
  bytes : List Byte
  node : Option (Nat × Nat)
  deriving DecidableEq, Repr

/-- A host ring (R411, R412). -/
structure Ring where
  base : W64
  log2 : Nat
  vector : Nat
  en : Bool
  head : BitVec 32
  tail : BitVec 32
  n : Nat
  t : Nat
  headwb : W64
  irqs : Nat
  /-- records not yet counted for an interrupt, and the time of the first -/
  c : Nat
  t0 : Nat
  waiting : List RingRec
  deriving DecidableEq, Repr

def Ring.reset : Ring := ⟨0, 4, 0, false, 0, 0, 1, 0, 0, 0, 0, 0, []⟩

/-- States of a link port (R388). -/
inductive LinkState where
  | down | training | up | failed
  deriving DecidableEq, Repr

/-- A link port (R383-R388), with its keys (R409). -/
structure LinkPort where
  state : LinkState
  attempts : Nat
  en : Bool
  miswired : Bool
  retrains : Nat
  replays : Nat
  peer : BitVec 10
  peerPort : Nat
  /-- next LSEQ to send and to accept, and flits not yet acknowledged -/
  next : BitVec 12
  expect : BitVec 12
  retry : List Flit
  /-- packets that wait to be sent, with their virtual channel -/
  queue : List (Nat × Packet)
  /-- flits of each virtual channel sent since the training and of them given free by the peer; flits given free here (R385) -/
  spent : Tab Nat
  returned : Tab Nat
  freed : Tab Nat
  /-- bytes of the packet that is coming in, and the LSEQ of its first flit -/
  rx : List Byte
  rxStart : BitVec 12
  /-- a key switch that waits for the end of a retrain (R413) -/
  owed : Option LinkCtrl
  /-- flits that the port has put on the wire in this cycle, oldest first (R386); the clock's advance takes them away -/
  wire : List Flit
  /-- TIMEs of the negative acknowledgements of the last microsecond, and of the last flit -/
  naks : List Nat
  heard : Nat
  /-- slots of the keys in use, and slots bound for the next switch -/
  txKey : Option Nat
  rxKey : Option Nat
  txNext : Option Nat
  rxNext : Option Nat
  /-- key epoch and packet counter of each direction -/
  txEpoch : BitVec 32
  txCounter : Nat
  rxEpoch : BitVec 32
  rxCounter : Nat
  /-- stratum that the peer reports; lane asymmetry measured at training and path delay of the last exchange, in nanoseconds
  (R404) -/
  stratum : Nat
  asym : Int
  delay : Int
  deriving DecidableEq, Repr

/-- Log entry 3, DESIGN CHOICE. -/
def LinkPort.reset : LinkPort where
  state := .down
  attempts := 0
  en := true
  miswired := false
  retrains := 0
  replays := 0
  peer := 0
  peerPort := 0
  next := 0
  expect := 0
  retry := []
  queue := []
  spent := []
  returned := []
  freed := []
  rx := []
  rxStart := 0
  owed := none
  wire := []
  naks := []
  heard := 0
  txKey := none
  rxKey := none
  txNext := none
  rxNext := none
  txEpoch := 0
  txCounter := 0
  rxEpoch := 0
  rxCounter := 0
  stratum := 3
  asym := 0
  delay := 0

/-- A packet in the end-to-end store (R397). -/
structure Sent where
  pk : Packet
  first : Nat
  tries : Nat
  deriving DecidableEq, Repr

/-- End-to-end state toward one package and channel: next ESEQ, and, for the reverse direction, the next expected one, the
early arrivals, and when a packet last came. -/
structure E2e where
  next : BitVec 32
  expect : BitVec 32
  early : List Packet
  heard : Nat
  deriving DecidableEq, Repr

def E2e.reset : E2e := ⟨0, 0, [], 0⟩

/-- A key of the key store (R408): usage 0 LINK, 1 IMAGE, 2 WRAP, and its 32 bytes. -/
structure Key where
  usage : Nat
  bytes : List Byte
  deriving DecidableEq, Repr

/-- Boot states (R402). -/
inductive BootSt where
  | idle | announced | loading | verifying | committed | failed
  deriving DecidableEq, Repr

/-- The boot of a package (R399-R402, R476-R478). -/
structure Boot where
  st : BootSt
  sigOk : Bool
  serial : BitVec 32
  /-- segments of the manifest being collected: serial, bytes, its length once the last one has come, and whether they
  came DIRECT -/
  segSerial : BitVec 32
  segs : Tab Byte
  length : Option Nat
  segDirect : Bool
  /-- the announced manifest -/
  man : List Byte
  /-- frames of this package by tensor × 2^32 + tile -/
  frames : Tab W64
  /-- shares that verified, shares that failed their last check, and how often each has failed -/
  good : List Nat
  bad : List Nat
  fails : Tab Nat
  /-- at the root: whether the boot that is running is DIRECT, the packages whose every share is good, the DATA packets
  that the boot server sent, and how often each share was asked again, by package × 2^32 + share -/
  direct : Bool
  /-- serial of the last DIRECT manifest that the root has sent -/
  directSerial : BitVec 32
  ready : List (BitVec 10)
  held : List (List Byte)
  resends : Tab Nat
  /-- while it commits: numbers of the tile-table stores to other packages that have no answer yet (R402) -/
  stores : List Nat
  /-- injection queue (R474) and its DROP -/
  queue : List W64
  drop : Bool
  deriving DecidableEq, Repr

def Boot.reset : Boot where
  st := .idle
  sigOk := false
  serial := 0
  segSerial := 0
  segs := []
  length := none
  segDirect := false
  man := []
  frames := []
  good := []
  bad := []
  fails := []
  direct := false
  directSerial := 0
  ready := []
  held := []
  resends := []
  stores := []
  queue := []
  drop := false

/-- The fabric description that firmware loads (R391): order of the polarity graph or size of the complete graph,
neighbours in port order with B ports to each, all packages of the fabric, the boot root, each other package with its
parent in the boot tree (R401), and the numbers that the last update of the description moved (R480). Log entry 6, DESIGN
CHOICE. -/
structure Fabric where
  order : Nat
  complete : Bool
  neigh : List (BitVec 10)
  perEdge : Nat
  packages : List (BitVec 10)
  root : BitVec 10
  tree : List (BitVec 10 × BitVec 10)
  moved : List (BitVec 10)
  deriving DecidableEq, Repr

/-- The time discipline (R403-R405): source, lock, port, stratum, offset in nanoseconds, the correction still to be slewed
in units of 1/45000 ns, when it was last measured, whether it has ever locked, the second at whose start the 1PPS output
last rose (R404), and the forward step of the first lock, by which TIME departs from the clock of the hardware's timers.
-/
structure TimeSt where
  source : Nat
  locked : Bool
  holdover : Bool
  srcPort : Nat
  stratum : Nat
  ppsIn : Bool
  offset : Int
  slew : Int
  heard : Nat
  once : Bool
  sec : W64
  secLive : Bool
  ppsOut : Nat
  stepped : Nat
  deriving DecidableEq, Repr

def TimeSt.reset : TimeSt := ⟨0, false, false, 0, 3, false, 0, 0, 0, false, 0, false, 0, 0⟩

structure Pkg where
  csr : Tab W64
  number : BitVec 10
  /-- launch queue, and its loss (R345, R346) -/
  launches : List W64
  lost : Bool
  lostCnt : Nat
  /-- accepted graphs, by order of acceptance -/
  graphs : Tab Graph
  nextGraph : Nat
  /-- a READY RUN node waits for spill frames: `DISP_STATUS`.SPILLWAIT -/
  spillWait : Bool
  /-- host rings, and the MSI-X table and pending bits (R342, R411) -/
  rings : Tab Ring
  msix : Tab W32
  pending : BitVec 32
  /-- link ports, the fabric description, routing entries by slot × 1024 + destination, and the drop counters (R392-R395) -/
  links : Tab LinkPort
  fabric : Fabric
  routes : Tab W64
  /-- the slot that injection selected at the start of this cycle (R413) -/
  stamp : Nat
  dropGen : Nat
  dropFail : Nat
  /-- packets of reserved kinds dropped at ingress -/
  errors : Nat
  /-- ports that the PCP firmware has retired; the port and TIME of each transport mismatch, and the stream and TIME of each
  CENSUS_FIX record, of the last second (R428, R438) -/
  retired : BitVec 32
  blames : List (Nat × Nat)
  fixes : List (BitVec 16 × Nat)
  /-- the end-to-end store, packets that wait for room in it, and the state toward each package and channel -/
  store : List Sent
  outbox : List Packet
  /-- numbers of the writes of the dispatcher and the PCP to other packages that have no answer yet -/
  writes : List Nat
  e2e : Tab E2e
  boot : Boot
  /-- `BOOT_REPLY` (R476) -/
  bootReply : W64
  time : TimeSt
  /-- `PKG_PLIMIT` (R406): LIMIT, MEASURED, OVER, COOLALM -/
  plimit : Nat
  measured : Nat
  overLimit : Bool
  coolAlm : Bool
  keys : Tab Key
  /-- `DIE_FENCE` (R442): fenced dies and the last cause -/
  fenced : BitVec 8
  fenceCause : Nat
  /-- `PKG_ADOPT` (R480): FORMER and WINDOW -/
  former : BitVec 10
  window : Bool
  deriving DecidableEq, Repr

/-- Log entry 3, DESIGN CHOICE. -/
def Pkg.reset : Pkg where
  csr := []
  number := 0
  launches := []
  lost := false
  lostCnt := 0
  graphs := []
  nextGraph := 0
  spillWait := false
  rings := []
  msix := []
  pending := 0
  links := []
  fabric := ⟨0, false, [], 1, [], 0, [], []⟩
  routes := []
  stamp := 0
  dropGen := 0
  dropFail := 0
  errors := 0
  retired := 0
  blames := []
  fixes := []
  store := []
  outbox := []
  writes := []
  e2e := []
  boot := Boot.reset
  bootReply := 0
  time := TimeSt.reset
  plimit := 3600
  measured := 0
  overLimit := false
  coolAlm := false
  keys := []
  fenced := 0
  fenceCause := 0
  former := 0
  window := false

end Sys2Proof.Machine
end

