-- ==== Sys2Proof/Machine/State.lean ====
section
/-! DEFINITION. The state of the modelled machine: one Glaenarath G2 package with its eight dies, its ports, and the
plain data that says which of its concurrent agents moves next. -/

namespace Sys2Proof.Machine
open Sys2Proof

/-- Whose turn the step takes. `Sched` entries stand before the default order; see `pick` in Machine/Sched.lean.
Log entry 92, DESIGN CHOICE. -/
inductive Act where
  /-- an event from outside, or one whose time has come -/
  | event (e : Event)
  /-- the k-th message in flight -/
  | deliver (k : Nat)
  /-- a cell issues -/
  | issue (c : Nat)
  /-- the clock advances -/
  | tick
  /-- a part of a local access is performed: cell, context, number of the access, and the part -/
  | perform (c x seq part : Nat)
  /-- whether local accesses wait to be performed: `State.lag` -/
  | lag (b : Bool)
  /-- the PCP loads a fabric description (R391, R444) -/
  | describe (f : Fabric)
  /-- the last step of a migration, once its streams are re-established (R443) -/
  | migrated
  deriving DecidableEq, Repr

/-- The issuing context and bundle. -/
structure Focus where
  cell : Nat
  ctx : Nat
  /-- slot number (R106) -/
  slot : Nat
  /-- bundle address and the address of the next bundle in sequence -/
  pc : Nat
  next : Nat
  /-- the V0 slot word is broadcast to all clusters (R108) -/
  vb : Bool
  /-- within a bundle, stops are collected: slot, cause and information -/
  inBundle : Bool
  stops : List (Nat × Nat × Nat)
  deriving DecidableEq, Repr

def Focus.reset : Focus := ⟨0, 0, 13, 0, 0, false, false, []⟩

/-- Why the machine stops. -/
inductive Fault where
  /-- Raised by no meaning that the spec gives an effect; it stands for an access to an address outside the package's
  memory map that the model's own code would make. Safe. -/
  | noSuchAddress (a : Nat)
  deriving DecidableEq, Repr

/-- Why an instruction has no next state. -/
inductive Refusal where
  /-- Raised by the dispatch arm of an instruction that has no meaning yet. Safe. -/
  | notModelled (mnemonic : String)
  deriving DecidableEq, Repr

/-- The package. -/
structure State where
  /-- cycles of the cell clock since package reset -/
  cycle : Nat
  /-- TIME, in units of 1/45000 ns (R175) -/
  time : Nat
  cells : Tab Cell
  /-- memory by flat address: bits 53:0 of the global address (R72), deep store under its even die -/
  mem : List Host.Cell
  /-- full bits of scratch words that are not full, by flat address of the word -/
  full : Tab Bool
  /-- words that hold an uncorrectable error (R419) -/
  poison : Tab Bool
  dies : Tab Die
  pkg : Pkg
  hostMem : Tab Byte
  focus : Focus
  /-- the issuing cell as the slots of the bundle read it (R119); where they may see results in flight, the issuing context's
  bank without them stands at 4 + its number -/
  snap : Option Cell
  args : Args
  sched : List Act
  /-- messages in flight, oldest first -/
  agenda : List Event
  /-- events with a time, in units of 1/45000 ns -/
  timers : List (Nat × Event)
  /-- events with a cycle at which they come (R101) -/
  alarms : List (Nat × Event)
  /-- cells that have not yet issued in this cycle -/
  turn : List Nat
  /-- whether a local access waits, after its issue, for the schedule to perform it (R285); otherwise it is performed as
  it issues, unless an earlier access of its class waits -/
  lag : Bool
  /-- bytes of tile tables as translation still sees them: place, byte before the store, and the storing cell, context
  and ordering class, which a `FENCE` of that context makes visible (R300); oldest first -/
  unseen : List (Nat × Byte × Nat × Nat × Nat)
  /-- free values drawn so far: the model's own counter -/
  draws : Nat
  deriving DecidableEq, Repr

/-- The package after reset. Log entry 1, DESIGN CHOICE. -/
def State.reset : State where
  cycle := 0
  time := 0
  cells := []
  mem := []
  full := []
  poison := []
  dies := []
  pkg := Pkg.reset
  hostMem := []
  focus := Focus.reset
  snap := none
  args := Args.empty
  sched := []
  agenda := []
  timers := []
  alarms := []
  turn := []
  lag := false
  unseen := []
  draws := 0

end Sys2Proof.Machine
end

