-- ==== Sys2Proof/Machine/Ops.lean ====
section
/-! DEFINITION. The named operations through which every meaning reads and writes the state: cells, contexts,
registers, memory with its full bits, error responses, stops, trap entry and return. -/

namespace Sys2Proof.Machine
open Sys2Proof

/-! ## Cells, contexts, clocks -/

def State.cell (s : State) (c : Nat) : Cell := s.cells.get Cell.reset c
def State.putCell (s : State) (c : Nat) (k : Cell) : State := { s with cells := s.cells.ins c k }
def State.modCell (s : State) (c : Nat) (f : Cell → Cell) : State := s.putCell c (f (s.cell c))
def State.ctxOf (s : State) (c x : Nat) : Ctx := (s.cell c).ctx x
def State.modCtxOf (s : State) (c x : Nat) (f : Ctx → Ctx) : State :=
  s.modCell c fun k => k.putCtx x (f (k.ctx x))

/-- The issuing cell and context as they stand. -/
def State.here (s : State) : Cell := s.cell s.focus.cell
def State.ctx (s : State) : Ctx := s.here.ctx s.focus.ctx
def State.modHere (s : State) (f : Cell → Cell) : State := s.modCell s.focus.cell f
def State.modCtx (s : State) (f : Ctx → Ctx) : State := s.modCtxOf s.focus.cell s.focus.ctx f

/-- The issuing cell and context as the slots of a bundle read them: as they stood before the bundle (R119). -/
def State.seen (s : State) : Cell := s.snap.getD s.here
def State.was (s : State) : Ctx := s.seen.ctx s.focus.ctx

/-- The counted cycles of a cell since die reset: its cycles less its freeze cycles (R304). -/
def State.clock (s : State) (c : Nat) : Nat := s.cycle - (s.cell c).frozen
def State.now (s : State) : Nat := s.clock s.focus.cell

/-- TIME as software reads it (R175): nanoseconds. -/
def State.tai (s : State) : W64 := BitVec.ofNat 64 (s.time / 45000)

/-- The clock of the hardware's timers, in units of 1/45000 ns: TIME without the step of the first lock (R404), which
shortens no timer. Log entry 70, DEDUCED. -/
def State.elapsed (s : State) : Nat := s.time - s.pkg.time.stepped

/-- Draws the next free value. Log entry 4, DESIGN CHOICE. -/
def State.drawn (s : State) : State := { s with draws := s.draws + 1 }

/-- Puts a message in flight. -/
def State.post (s : State) (i : Instr) (a : Args) : State := { s with agenda := s.agenda ++ [⟨i, a⟩] }

/-- Puts an event under a time, `dt` nanoseconds from now. -/
def State.after (s : State) (dt : Nat) (i : Instr) (a : Args) : State :=
  { s with timers := s.timers ++ [(s.elapsed + dt * 45000, ⟨i, a⟩)] }

/-- Puts an event `n` cycles ahead. -/
def State.afterCycles (s : State) (n : Nat) (i : Instr) (a : Args) : State :=
  { s with alarms := s.alarms ++ [(s.cycle + n, ⟨i, a⟩)] }

/-! ## Dies -/

def State.die (s : State) (d : Nat) : Die := s.dies.get Die.reset d
def State.modDie (s : State) (d : Nat) (f : Die → Die) : State := { s with dies := s.dies.ins d (f (s.die d)) }
def State.modPkg (s : State) (f : Pkg → Pkg) : State := { s with pkg := f s.pkg }

/-! ## Cell numbers -/

def dieOf (c : Nat) : Nat := c / 256
/-- 1 for a C-cell: DIE[0] (R12). -/
def isC (c : Nat) : Bool := dieOf c % 2 == 1

/-- `CELL_ID`[20:0] of a cell: package, die and cell (R12). -/
def State.cellPrefix (s : State) (c : Nat) : BitVec 21 := s.pkg.number ++ BitVec.ofNat 11 c

/-- ORIGIN and member words name a cell by package, die and cell (R95, R268). -/
def State.cellName (s : State) (c : Nat) : BitVec 32 :=
  BitVec.ofNat 32 (s.pkg.number.toNat + (dieOf c) * 1024 + (c % 256) * 8192)
def namePkg (w : BitVec 32) : BitVec 10 := w.extractLsb' 0 10
def nameCell (w : BitVec 32) : Nat := (w.extractLsb' 10 3).toNat * 256 + (w.extractLsb' 13 8).toNat

/-! ## Scalar registers and bundle predicates (R136) -/

/-- `rs(n)` on a bank: s0 reads 0. -/
def Ctx.rs (x : Ctx) (n : Nat) : W64 := if n = 0 then 0 else x.s.get 0 n
/-- `rs(n)` of the issuing context, as a slot reads it. -/
def State.rs (s : State) (n : BitVec 6) : W64 := s.was.rs n.toNat
/-- `pr(n)`: p0 is true and p1 is false always. -/
def Ctx.pr (x : Ctx) (n : Nat) : Bool :=
  if n = 0 then true else if n = 1 then false else x.p.getLsbD n
def State.pr (s : State) (n : Nat) : Bool := s.was.pr n

/-- Whether two results go to the same destination. -/
def Landing.sameDest (e o : Landing) : Bool := e.kind == o.kind && e.cl == o.cl && e.reg == o.reg

/-- Another result has reached elements of a destination: what reads have seen new of the results in flight there counts no
longer (R305). -/
def unseeOn (kind : LandKind) (cl reg : Nat) (mask : BitVec 16) (l : List Landing) : List Landing :=
  l.map fun e => if e.kind == kind && e.cl == cl && e.reg == reg then { e with seen := e.seen &&& ~~~mask } else e

/-- Drops a result in flight that lands no later than the result now written (R121, R306). -/
def dropOlder (kind : LandKind) (cl reg due : Nat) (l : List Landing) : List Landing :=
  l.filter fun e => !(e.kind == kind && e.cl == cl && e.reg == reg && decide (e.due ≤ due))

/-- `ws(n, v)` with bound 1: the next bundle reads the value; a write of s0 is discarded. An older result that reaches the
register in the next cycle is not written (R121). -/
def Ctx.ws (x : Ctx) (now n : Nat) (v : W64) : Ctx :=
  if n = 0 then x else { x with
    s := x.s.ins n v
    land := unseeOn .scalar 0 n 1 (dropOlder .scalar 0 n (now + 1) x.land)
    reachNext := x.reachNext ++ [⟨.scalar, 0, n, 1, now⟩] }
def State.ws (s : State) (n : BitVec 6) (v : W64) : State := s.modCtx fun x => x.ws s.now n.toNat v

/-- An interlocked scalar result with a bound above 1 (R122). -/
def State.wsLate (s : State) (n : BitVec 6) (v : W64) (bound : Nat) : State :=
  if n = 0 then s else
  s.modCtx fun x => { x with
    land := x.land ++ [⟨.scalar, 0, n.toNat, v.setWidth 512, 0, 1, 0, 0, s.now + bound, true, s.now, 0⟩] }

/-- Writes one bundle predicate; p0 and p1 keep their values. -/
def Ctx.setP (x : Ctx) (n : Nat) (b : Bool) : Ctx :=
  if n < 2 then x else
  { x with p := if b then x.p ||| BitVec.ofNat 32 (2 ^ n) else x.p &&& ~~~(BitVec.ofNat 32 (2 ^ n)) }
/-- `wpair(k, c)`: p2k := c, p2k+1 := not c. -/
def Ctx.wpair (x : Ctx) (k : Nat) (c : Bool) : Ctx := (x.setP (2 * k) c).setP (2 * k + 1) (!c)
/-- The number under which a pair stands among the results that have reached their destinations (R121). -/
def pairReg (k : Nat) : Nat := 64 + k
/-- A pair written with bound 1 at a clock of issue: an older result that reaches it in the next cycle is not written
(R121). -/
def Ctx.wpairNow (x : Ctx) (now k : Nat) (c : Bool) : Ctx :=
  { x.wpair k c with reachNext := x.reachNext ++ [⟨.scalar, 0, pairReg k, 1, now⟩] }
def State.wpair (s : State) (k : Nat) (c : Bool) : State := s.modCtx fun x => x.wpairNow s.now k c

/-- `jump(t)` (R136). -/
def State.jump (s : State) (t : Nat) : State := s.modCtx fun x => { x with pc := t }

/-! ## Vector registers -/

def vkey (cl r : Nat) : Nat := cl * 32 + r
def qkey (cl r : Nat) : Nat := cl * 8 + r
def Ctx.vr (x : Ctx) (cl r : Nat) : VReg := x.v.get VReg.zero (vkey cl r)
/-- q0 reads as all lanes (R110). -/
def Ctx.qr (x : Ctx) (cl r : Nat) : BitVec 16 := if r = 0 then 0xFFFF#16 else x.q.get 0 (qkey cl r)
def lane (v : BitVec 512) (i : Nat) : W32 := v.extractLsb' (32 * i) 32
/-- Sixteen lanes made by a function of the lane number. -/
def lanes (f : Nat → W32) : BitVec 512 :=
  (List.range 16).foldl (fun acc i => acc ||| ((f i).setWidth 512 <<< (32 * i))) 0
def bits16 (f : Nat → Bool) : BitVec 16 :=
  (List.range 16).foldl (fun acc i => if f i then acc ||| (1#16 <<< i) else acc) 0

/-- Queues an exposed result (R304). -/
def State.land (s : State) (kind : LandKind) (cl reg : Nat) (val : BitVec 512) (emp mask : BitVec 16)
    (flags : W64) (bound : Nat) (held : Bool) : State :=
  s.modCtx fun x => { x with land := x.land ++ [⟨kind, cl, reg, val, emp, mask, 0, flags, s.now + bound, held, s.now, 0⟩] }

/-- The elements of a destination that a result issued at `born` may still write in this cycle: a later-issued result that
has reached them in the same cycle stays (R121). -/
def Ctx.beaten (x : Ctx) (kind : LandKind) (cl reg : Nat) (mask : BitVec 16) (born : Nat) : BitVec 16 :=
  x.reached.foldl (fun m r =>
    if r.kind == kind && r.cl == cl && r.reg == reg && decide (born < r.born) then m &&& ~~~r.mask else m) mask

/-- Sticky flags that a result sets as it lands (R54). -/
def Ctx.setFlags (x : Ctx) (w : W64) : Ctx :=
  if w = 0 then x else { x with
    fpctl := x.fpctl ||| w
    hwSet := x.hwSet ||| w
    hwNew := x.hwNew ||| (w &&& ~~~x.fpctl) }

/-- One result reaches its destination: the elements of its mask. -/
def Ctx.landOne (x : Ctx) (e : Landing) : Ctx :=
  match e.kind with
  | .vec =>
    let o := x.vr e.cl e.reg
    let nv := lanes fun i => if e.mask.getLsbD i then lane e.val i else lane o.val i
    { x with v := x.v.ins (vkey e.cl e.reg) ⟨nv, (o.emp &&& ~~~e.mask) ||| (e.emp &&& e.mask)⟩ }
  | .lanePred =>
    let o := x.qr e.cl e.reg
    { x with q := x.q.ins (qkey e.cl e.reg) ((o &&& ~~~e.mask) ||| (e.val.setWidth 16 &&& e.mask)) }
  | .scalar =>
    if e.reg = 0 ∨ e.mask = 0 then x else
    { x with s := x.s.ins e.reg (e.val.setWidth 64), stale := x.stale ++ [(e.reg, x.rs e.reg)] }

/-- A result lands: the elements that no later-issued result has reached in this cycle, with its flags (R54, R121). -/
def Ctx.landNow (x : Ctx) (e : Landing) : Ctx :=
  let m := x.beaten e.kind e.cl e.reg e.mask e.born
  let y := (x.setFlags e.flags).landOne { e with mask := m }
  { y with reached := y.reached ++ [⟨e.kind, e.cl, e.reg, e.mask, e.born⟩] }

/-- What a context keeps for one cycle only goes: the values before this cycle's writes (R149), what has reached its
destination (R121), and this cycle's hardware sets (R54, R157). -/
def Ctx.freshCycle (x : Ctx) : Ctx :=
  { x with stale := [], reached := x.reachNext, reachNext := [], hwSet := 0, hwNew := 0, evHw := 0 }

/-! ## Memory (R71-R76) -/

/-- Fields of a global address (R72). -/
def aPkg (a : W64) : BitVec 10 := a.extractLsb' 54 10
def aCell (a : W64) : Nat := (a.extractLsb' 43 11).toNat
def aSpace (a : W64) : Nat := (a.extractLsb' 41 2).toNat
def aRsvd (a : W64) : BitVec 15 := a.extractLsb' 26 15
def aOff (a : W64) : Nat := (a.extractLsb' 0 26).toNat

/-- A global address of this package's cell `c`. -/
def State.addrOf (s : State) (c space off : Nat) : W64 :=
  (s.cellPrefix c ++ BitVec.ofNat 2 space ++ 0#15 ++ BitVec.ofNat 26 off : W64)

/-- The key under which the package holds the byte at a place of a cell: both names of a pair's deep store are one
(R72), so its die is made even. -/
def flat (c space off : Nat) : Nat :=
  let c' := if space = 1 then (c / 512) * 512 + c % 256 else c
  c' * 2 ^ 43 + space * 2 ^ 41 + off
def flatOf (a : W64) : Nat := flat (aCell a) (aSpace a) (aOff a)

/-- Size of a space of a cell in bytes (R71). -/
def spaceSize (c space : Nat) : Nat :=
  match space with
  | 0 => if isC c then 0x100000 else 0x200000
  | 1 => 0x3000000
  | 2 => 0x20000
  | _ => 0x8000

/-- What an unlisted byte reads as (log entry 1). -/
def memDefault : Byte := 0
/-- Log entry 1, DESIGN CHOICE. -/
def State.byte (s : State) (k : Nat) : Byte := Tab.get memDefault s.mem k
def State.setByte (s : State) (k : Nat) (b : Byte) : State := { s with mem := Tab.set memDefault s.mem k b }

/-- `n` bytes from `k`, little-endian (R5). -/
def State.readN (s : State) (k : Nat) : Nat → Nat
  | 0 => 0
  | n + 1 => (s.byte k).toNat + 256 * s.readN (k + 1) n
def State.writeN (s : State) (k : Nat) : Nat → Nat → State
  | 0, _ => s
  | n + 1, v => (s.setByte k (BitVec.ofNat 8 v)).writeN (k + 1) n (v / 256)
def State.readBytes (s : State) (k n : Nat) : List Byte := (List.range n).map fun i => s.byte (k + i)
def State.writeBytes (s : State) (k : Nat) : List Byte → State
  | [] => s
  | b :: t => (s.setByte k b).writeBytes (k + 1) t
def State.read64 (s : State) (k : Nat) : W64 := BitVec.ofNat 64 (s.readN k 8)
def State.read32 (s : State) (k : Nat) : W32 := BitVec.ofNat 32 (s.readN k 4)

/-- Little-endian bytes of a number, and back. -/
def toBytes : Nat → Nat → List Byte
  | 0, _ => []
  | n + 1, v => BitVec.ofNat 8 v :: toBytes n (v / 256)
def ofBytes : List Byte → Nat
  | [] => 0
  | b :: t => b.toNat + 256 * ofBytes t
def zeros (n : Nat) : List Byte := List.replicate n 0
/-- The `n`-byte field at offset `i` of a record. -/
def field (l : List Byte) (i n : Nat) : Nat := ofBytes ((l.drop i).take n)

/-- The full bit of the scratch word that contains the byte at `k` (R76). -/
def wordOf (k : Nat) : Nat := k / 8 * 8
def State.isFull (s : State) (k : Nat) : Bool := Tab.get true s.full (wordOf k)
def State.setFull (s : State) (k : Nat) (b : Bool) : State := { s with full := Tab.set true s.full (wordOf k) b }
/-- Sets the full bits of every word that `n` bytes from `k` touch. -/
def State.setFullRange (s : State) (k n : Nat) (b : Bool) : State :=
  if n = 0 then s else
  (List.range (wordOf (k + n - 1) / 8 - wordOf k / 8 + 1)).foldl (fun t i => t.setFull (wordOf k + 8 * i) b) s

/-- The space code of a flat key. -/
def flatSpace (k : Nat) : Nat := k / 2 ^ 41 % 4

/-- Poisoned words (R421): a read that consumes one stops its context; a write of the whole word clears it. -/
def State.poisoned (s : State) (key n : Nat) : Bool :=
  s.poison.any fun e => decide (e.1 + 8 > key) && decide (e.1 < key + n)
def State.clearPoison (s : State) (key n : Nat) : State :=
  { s with poison := s.poison.filter fun e => !(decide (key ≤ e.1) && decide (e.1 + 8 ≤ key + n)) }

/-- Writes bytes that leave full bits as they are; a whole word overwritten is poisoned no more (R421, R422). -/
def State.overwrite (s : State) (k : Nat) (l : List Byte) : State := (s.writeBytes k l).clearPoison k l.length

/-- Words of a destination that receive bytes of poisoned source words are written poisoned (R421); `poison` is what was
poisoned when the bytes were read. -/
def State.carryPoison (s : State) (src dst n : Nat) (poison : Tab Bool) : State :=
  poison.foldl (fun t e =>
    if e.1 + 8 ≤ src ∨ src + n ≤ e.1 then t
    else
      let lo := max e.1 src
      let hi := min (e.1 + 8) (src + n) - 1
      { t with poison := (t.poison.ins (wordOf (dst + (lo - src))) true).ins (wordOf (dst + (hi - src))) true }) s

/-- A write by an engine: scratch words are set full as each is written (R76). -/
def State.engineWrite (s : State) (k : Nat) (l : List Byte) : State :=
  let t := (s.writeBytes k l).clearPoison k l.length
  if flatSpace k = 0 then t.setFullRange k l.length true else t

/-- CRC-16 with polynomial 0x1021, one byte and a list of bytes (R398). -/
def crcBit (c : BitVec 16) : BitVec 16 := if c.getLsbD 15 then (c <<< 1) ^^^ 0x1021#16 else c <<< 1
def crcByte (c : BitVec 16) (b : Byte) : BitVec 16 :=
  (List.range 8).foldl (fun x _ => crcBit x) (c ^^^ (b.setWidth 16 <<< 8))
def crc16 (l : List Byte) : BitVec 16 := l.foldl crcByte 0xFFFF#16

/-- The check code over opcode, address and data (R398). -/
def checkCode (op : Nat) (addr : W64) (data : List Byte) : BitVec 16 :=
  crc16 (BitVec.ofNat 8 op :: toBytes 8 addr.toNat ++ data)

/-- Whether a place lies on a fenced die, which accepts no traffic from the others (R441). -/
def State.fencedAt (s : State) (a : W64) : Bool := aPkg a == s.pkg.number && s.pkg.fenced.getLsbD (dieOf (aCell a))

/-- A request on its way to another package, as a packet. -/
def State.injectReq (s : State) (r : RemoteReq) : State :=
  s.post .packetInject { Args.empty with pk := { Packet.empty with
    dst := aPkg r.addr
    die := BitVec.ofNat 3 (aCell r.addr / 256)
    cell := BitVec.ofNat 8 (aCell r.addr)
    kind := 2
    body := .request r } }

/-- An engine's request to another package, numbered `id` among the operations of cell `c`: opcode 0xF1 is a write of bytes,
0x3A an addition to a signal object. Log entry 10, DESIGN CHOICE. -/
def State.engineReq (s : State) (c id op : Nat) (a : W64) (l : List Byte) : State :=
  s.injectReq ⟨s.pkg.number, c, 4, id, id, 0, BitVec.ofNat 8 op, 3, a, l, true, checkCode op a l⟩

/-- A request of the dispatcher or the PCP for whose answer it waits: its number, which leaves `Pkg.writes` with the
answer or after 64 µs. Log entry 10, DESIGN CHOICE. -/
def State.awaitedWrite (s : State) (a : W64) (op : Nat) (l : List Byte) : Nat × State :=
  let id := (s.cell 0).nextId + 2 ^ 62
  let s := (s.modCell 0 fun k => { k with nextId := k.nextId + 1 }).modPkg fun p => { p with writes := p.writes ++ [id] }
  (id, (s.engineReq 0 id op a l).after 64000 .farAccessTimeout { Args.empty with c := 0, x := 4, id := id })

/-- The number of an engine's request of which no one awaits the answer. -/
def unawaited : Nat := 2 ^ 63

/-- An engine's write at a global address: within the package at once, elsewhere by packet.
Log entry 10, DESIGN CHOICE. -/
def State.globalWrite (s : State) (a : W64) (l : List Byte) : State :=
  if aPkg a ≠ s.pkg.number then s.engineReq 0 unawaited 0xF1 a l
  else if s.fencedAt a then s
  else s.engineWrite (flatOf a) l

/-- Host memory as the host port reaches it: a byte that the package has not written is free.
Log entry 10, DESIGN CHOICE. -/
def State.hostRead (s : State) (a n : Nat) : List Byte :=
  (List.range n).map fun i => Tab.get ((Config.freeWord (2 ^ 210 + a + i)).setWidth 8) s.hostMem (a + i)
/-- Log entry 10, DESIGN CHOICE. -/
def State.hostWrite (s : State) (a : Nat) (l : List Byte) : State :=
  { s with hostMem := (List.range l.length).foldl (fun m i => m.ins (a + i) (l.getD i 0)) s.hostMem }

/-! ## Which accesses R74 forbids -/

/-- Error kinds of R168, by their bit numbers. -/
def kAddr : Nat := 0
def kAlign : Nat := 1
def kPerm : Nat := 2
def kSync : Nat := 3
def kRemote : Nat := 4
def kRot : Nat := 5
def kPowrel : Nat := 6

/-- What kind of access is made. -/
structure Access where
  /-- full global address -/
  addr : W64
  size : Nat
  align : Nat
  store : Bool
  sync : Bool
  amo : Bool
  far : Bool
  supervisor : Bool
  deriving DecidableEq, Repr

/-- R74 at the cell that holds the address, and R234 for atomics: ADDR, then ALIGN, then SYNC, then PERM. The whole range
counts: one that starts inside its space and ends beyond it is an ADDR error, and a range that touches a die or package CSR
is an access to one. Log entry 24, DEDUCED. Log entry 91, DEDUCED. -/
def accessError (a : Access) : Option Nat :=
  let sp := aSpace a.addr
  let off := aOff a.addr
  let c := aCell a.addr
  if aRsvd a.addr != 0 || decide (992 < (aPkg a.addr).toNat) || decide (spaceSize c sp < off + a.size)
      || (sp == 3 && decide (0x400 * 8 < off + a.size)) then some kAddr
  else if off % a.align != 0 then some kAlign
  else if a.sync && sp != 0 then some kSync
  else if (a.store && sp == 2)
      || (sp == 3 && !a.supervisor && decide (0x200 * 8 < off + a.size))
      || (sp == 1 && !a.supervisor && decide (0x2F80000 < off + a.size))
      || (a.far && sp == 3 && decide (off < 0x100 * 8))
      || (a.amo && decide (2 ≤ sp)) then some kPerm
  else none

/-- Bits of the map of a cell's row (R447), and, from bit 32 on, the columns skipped before a remap that is BUSY. Log
entry 15, DESIGN CHOICE. -/
def Die.cmapRow (d : Die) (row : Nat) : W64 := d.cmap.get 0x3FF row
/-- A logical cell that no physical cell stands for. -/
def Die.absent (d : Die) (cell : Nat) : Bool := cell % 16 == 15 && (d.cmapRow (cell / 16)).getLsbD 10

/-- Whether an address names a logical cell of this package that a degraded row lacks (R447). -/
def State.noCell (s : State) (a : W64) : Bool :=
  aPkg a == s.pkg.number && (s.die (aCell a / 256)).absent (aCell a % 256)

/-- What R74 and R234 say of an access in this package. -/
def State.accessFault (s : State) (a : Access) : Option Nat := if s.noCell a.addr then some kAddr else accessError a
/-- The same for an access of the dispatcher or an engine, to which a fenced die is out of reach (R441). Log entry 74,
DEDUCED. -/
def State.engineFault (s : State) (a : Access) : Option Nat := if s.fencedAt a.addr then some kAddr else s.accessFault a

/-! ## Error responses (R167-R169) -/

/-- `VIOL_INFO` of an access, KIND apart (R169). -/
def violInfo (pc slot sz : Nat) (vec store far : Bool) (oc : Nat) : W64 :=
  BitVec.ofNat 64 (pc % 2 ^ 17 + slot * 2 ^ 17 + sz * 2 ^ 24 + vec.toNat * 2 ^ 26 + store.toNat * 2 ^ 27
    + far.toNat * 2 ^ 28 + oc * 2 ^ 29)

/-- Sets the bit of the kind; the first violation is recorded, a later one sets MORE. -/
def Ctx.violate (x : Ctx) (kind : Nat) (addr info : W64) : Ctx :=
  if x.errSticky = 0 then
    { x with errSticky := BitVec.ofNat 64 (2 ^ kind), violAddr := addr,
             violInfo := info ||| BitVec.ofNat 64 (kind * 2 ^ 21) }
  else { x with errSticky := x.errSticky ||| BitVec.ofNat 64 (2 ^ kind + 0x80) }
def State.violate (s : State) (kind : Nat) (addr info : W64) : State := s.modCtx fun x => x.violate kind addr info

/-- A violation found by an engine that works for a context (R102, R254, R256). -/
def State.violateOf (s : State) (c x kind : Nat) (addr info : W64) : State :=
  s.modCtxOf c x fun t => t.violate kind addr info

/-! ## Holding a bundle (R17, R18) -/

/-- The bundle is not issued: its context is BLOCKED on the condition and gives up the issue slot. -/
def State.block (s : State) (h : Hold) : State :=
  (s.modCtx fun x =>
    { x with
      st := .blocked
      hold := h
      heldAt := if x.hold = h then x.heldAt else s.cycle
      pc := s.focus.pc }).modHere fun k => { k with cur := none }

/-- A bundle that has issued gives up the issue slot (R18). -/
def State.giveUp (s : State) : State := s.modHere fun k => { k with cur := none, switched := false }

/-- An issued bundle after which its context waits (R155-R158). -/
def State.waitFor (s : State) (h : Hold) : State :=
  (s.modCtx fun x => { x with st := .waiting, hold := h }).giveUp

/-! ## Tarragon windows -/

/-- A close (R325): the next entries belong to a new window, under the permission now in force (R179). -/
def Ctx.closeOn (x : Ctx) (e : Nat) (perm : W64) : Ctx :=
  { x with window := x.window.ins e (x.window.get 0 e + 1), rwPermClosed := x.rwPermClosed.ins e perm }
/-- A close on both engines under a permission. -/
def Ctx.closeWith (x : Ctx) (perm : W64) : Ctx := (x.closeOn 0 perm).closeOn 1 perm
def Ctx.closeWindow (x : Ctx) : Ctx := x.closeWith x.rwPerm
/-- A close by a bundle: a `CSRW` of `RW_PERM` in the same bundle takes effect after it (R174). -/
def State.closeWindow (s : State) : State := s.modCtx fun x => x.closeWith s.was.rwPerm

/-! ## Trace records (R457-R459) -/

/-- A trace record (R457): source, place and two data words. -/
def State.traceBytes (s : State) (c kind : Nat) (x : Option Nat) (pc slot : Nat) (d0 d1 : W64) : List Byte :=
  toBytes 8 s.tai.toNat
    ++ toBytes 4 (c % 256 + dieOf c * 256 + (x.getD 0) * 2048 + (if x.isNone then 8192 else 0)
        + s.pkg.number.toNat * 16384 + kind * 2 ^ 24)
    ++ toBytes 4 (pc % 2 ^ 17 + slot * 2 ^ 17) ++ toBytes 8 d0.toNat ++ toBytes 8 d1.toNat

/-- Hands a record to the trace engine of a cell. A kind whose mask bit is clear is not recorded; a record that finds
the buffer of 64 full is dropped and counted. Log entry 85, DEDUCED. -/
def State.trace (s : State) (c kind : Nat) (x : Option Nat) (pc slot : Nat) (d0 d1 : W64) : State :=
  let t := (s.cell c).trace
  if t.size = 0 ∨ !t.mask.getLsbD (kind - 1) then s
  else if 64 ≤ t.pend.length then
    s.modCell c fun k => { k with trace := { k.trace with lost := k.trace.lost + 1, wraps := k.trace.wraps + 1 } }
  else
    (s.modCell c fun k => { k with trace :=
      { k.trace with pend := k.trace.pend ++ [s.traceBytes c kind x pc slot d0 d1] } }).post .traceRecordWrite
        { Args.empty with c := c }

/-! ## Stops and traps (R160-R165) -/

/-- Causes delivered to `TRAP_VEC` when it is valid; every other goes to the DCP always (R161). -/
def vectored (cause : Nat) : Bool :=
  [0x01, 0x02, 0x03, 0x04, 0x09, 0x0A, 0x0C].contains cause

/-- The trap CSRs of a stop (R163). Every stop overwrites `WHIT` (R462): a watchpoint or comparator passes what fired
above the 14 bits of INFO. Log entry 24, DEDUCED. -/
def Ctx.recordStop (x : Ctx) (pc slot cause info : Nat) (done : BitVec 14) : Ctx :=
  { x with
    trapPc := BitVec.ofNat 64 (pc % 2 ^ 17)
    trapSlot := BitVec.ofNat 64 slot
    doneMask := done.setWidth 64
    whit := BitVec.ofNat 64 (info / 2 ^ 14 % 2 ^ 14)
    trapCause := BitVec.ofNat 64 (cause + x.supervisor.toNat * 2 ^ 8 + info % 2 ^ 14 * 2 ^ 16) }

/-- Trap entry at `TRAP_VEC` (R163), with the hidden bit of R165; `vec` is the value in force for the stopped bundle
(R174). -/
def Ctx.enterVec (x : Ctx) (vec : W64) (pc slot cause info : Nat) (done : BitVec 14) : Ctx :=
  let y := x.recordStop pc slot cause info done
  { y with
    st := .ready
    hold := .none
    supervisor := true
    hidden := true
    trapVec := x.trapVec &&& ~~~1#64
    redo := false
    pc := (vec.extractLsb' 2 15).toNat * 4 }

/-- A stop delivered to the DCP (R164): the same CSR values, MODE and `TRAP_VEC` kept. -/
def Ctx.enterDcp (x : Ctx) (pc slot cause info : Nat) (done : BitVec 14) : Ctx :=
  { x.recordStop pc slot cause info done with st := .stopped, hold := .none, pc := pc, redo := false }

/-- Taking an exception: the one operation behind every stop of every context. A vectored trap holds the cell for the
two trap-entry cycles; a delivered one gives up the issue slot and sends a trap record. `w` is the bank whose `TRAP_VEC` and
`RW_PERM` are in force (R174). Log entry 85, DEDUCED. -/
def State.takeStopBy (s : State) (w : Ctx) (c x pc slot cause info : Nat) (done : BitVec 14) : State :=
  let vec := w.trapVec
  let s := (s.modCtxOf c x fun t => t.closeWith w.rwPerm).trace c 4 (some x) pc slot (BitVec.ofNat 64 (cause + info % 2 ^ 14 * 2 ^ 8))
    (done.setWidth 64)
  if vectored cause && vec.getLsbD 0 then
    (s.modCtxOf c x fun t => t.enterVec vec pc slot cause info done).modCell c fun k =>
      { k with cur := some x, entering := true, busyTil := s.clock c + 3 }
  else
    ((s.modCtxOf c x fun t => t.enterDcp pc slot cause info done).modCell c fun k =>
      { k with cur := if k.cur == some x then none else k.cur }).post .trapRecordPost
        { Args.empty with die := dieOf c, c := c, x := x }

/-- The same with the context's CSRs as they stand. Log entry 85, DEDUCED. -/
def State.takeStop (s : State) (c x pc slot cause info : Nat) (done : BitVec 14) : State :=
  s.takeStopBy (s.ctxOf c x) c x pc slot cause info done

/-- `stop(cause, info)` at the current slot. Within a bundle the stop is collected and taken when every slot has been
looked at (R160); a slot instruction run by itself takes it at once. TRAP_INSN and BKPT count as done. -/
def State.stop (s : State) (cause info : Nat) : State :=
  if s.focus.inBundle then
    { s with focus := { s.focus with stops := s.focus.stops ++ [(s.focus.slot, cause, info)] } }
  else
    s.takeStop s.focus.cell s.focus.ctx s.focus.pc s.focus.slot cause info
      (if cause = 4 ∨ cause = 5 then 1#14 <<< s.focus.slot else 0)

/-- ILLEGAL_SLOT with a case number (R118). -/
def State.illegal (s : State) (info : Nat) : State := s.stop 0x02 info

/-! ## Fetch -/

/-- The instruction word at an offset of a cell's instruction store. -/
def State.fetch (s : State) (c off : Nat) : W32 := s.read32 (flat c 2 off)

/-- Bytes of a bundle with the given header: 4 × (1 + n) (R104). -/
def Header.bytes (h : Header) : Nat := 4 * (1 + h.slots.length)

/-- The address after the bundle at `pc` (R105). -/
def State.nextPc (s : State) (c pc : Nat) : Nat := pc + Header.bytes (decodeHeader (s.fetch c pc))

/-- Return from a stop (R165); the flag says whether a trap entry is undone (`ERET`) or a stop that went to the DCP is
resumed (R164), which leaves V and the hidden bit. `w` is the bank as the returning bundle sees it: what a `CSRW` of that
bundle writes takes effect after it (R174). -/
def State.returnFrom (s : State) (c x : Nat) (w : Ctx) (eret : Bool) : State :=
  let t := w.trapPc.toNat
  let h := decodeHeader (s.fetch c t)
  let skip := h.presence != 0 && (h.presence &&& ~~~(w.doneMask.setWidth 14)) == 0
  s.modCtxOf c x fun y =>
    let mine := eret && y.trapVec == w.trapVec && y.hidden == w.hidden
    { y with
      supervisor := w.trapCause.getLsbD 8
      trapVec := if mine then (w.trapVec &&& ~~~1#64) ||| (if w.hidden then 1 else 0) else y.trapVec
      hidden := if mine then false else y.hidden
      pc := if skip then t + Header.bytes h else t
      doneMask := if skip && y.doneMask == w.doneMask then 0 else y.doneMask
      redo := !skip }

end Sys2Proof.Machine
end

