-- ==== Sys2Proof/Machine/Operands.lean ====
section
/-! DEFINITION. The operand forms: widths of scalar operations (R138), immediates and displacements (R110), scalar and
vector effective addresses (R228, R111), stream and port numbers. -/

namespace Sys2Proof.Machine
open Sys2Proof

/-! ## Widths -/

/-- The width that m selects (R138). -/
def widthOf (m : BitVec 2) : Nat := if m = 0 then 64 else 32

/-- `sext(x, w)` and `zext(x, w)` (R136). -/
def sextN (v : Nat) (w : Nat) : W64 := (BitVec.ofNat w v).signExtend 64
def zextN (v : Nat) (w : Nat) : W64 := (BitVec.ofNat w v).setWidth 64

/-- A binary operation at the width m selects, its result extended as m says (R138). -/
def atWidth (m : BitVec 2) (op : {w : Nat} → BitVec w → BitVec w → BitVec w) (x y : W64) : W64 :=
  if m = 0 then op x y
  else
    let r : BitVec 32 := op (x.setWidth 32) (y.setWidth 32)
    if m = 1 then r.signExtend 64 else r.setWidth 64

/-! ## Immediates -/

def imm8s (i : BitVec 8) : W64 := i.signExtend 64
def imm14s (i : BitVec 14) : W64 := i.signExtend 64

/-- Target of a direct transfer: pc + 4 × disp20 (R147), as an integer; outside 0 to 0x1_FFFC it is a field outside its
limits (R117). -/
def target (pc : Nat) (disp : BitVec 20) : Int := (pc : Int) + 4 * disp.toInt
def targetOk (pc : Nat) (disp : BitVec 20) : Bool :=
  decide (0 ≤ target pc disp) && decide (target pc disp ≤ 0x1FFFC)

/-- The check on an indirect target (R147). -/
def indirectOk (t : W64) : Bool := t.toNat % 4 == 0 && decide (t.toNat < 0x20000)

/-! ## Effective addresses -/

/-- Bytes of a scalar access (R110). -/
def szBytes (sz : BitVec 2) : Nat := 2 ^ sz.toNat

/-- ea := rs(a) + off3 × z (R228). -/
def State.eaScalar (s : State) (a : BitVec 6) (sz : BitVec 2) (off : BitVec 3) : W64 :=
  s.rs a + BitVec.ofNat 64 (off.toNat * szBytes sz)

/-- ea := rs(a) + x5 × 512 (R228). -/
def State.eaVec (s : State) (a : BitVec 6) (x : BitVec 5) : W64 := s.rs a + BitVec.ofNat 64 (x.toNat * 512)

/-- `VLDC`, `VSTC`: the offset x5[1:0] is in units of 64 B (R111). -/
def State.eaCluster (s : State) (a : BitVec 6) (f : BitVec 2) : W64 := s.rs a + BitVec.ofNat 64 (f.toNat * 64)

/-- `VLDQ`, `VSTQ`: the offset x5[1:0] is in units of 512 B (R111). -/
def State.eaMasked (s : State) (a : BitVec 6) (f : BitVec 2) : W64 := s.rs a + BitVec.ofNat 64 (f.toNat * 512)

/-- The global address a local form names, and whether its prefix names the issuing cell (R73). -/
def State.localAddr (s : State) (c : Nat) (ea : W64) : W64 :=
  (s.cellPrefix c ++ ea.extractLsb' 0 43 : W64)
def State.localOk (s : State) (c : Nat) (ea : W64) : Bool :=
  ea.extractLsb' 43 21 == 0 || ea.extractLsb' 43 21 == s.cellPrefix c

/-- What R74 says of a local access of the issuing context: another cell's prefix is an ADDR error. -/
def State.localError (s : State) (ea : W64) (size align : Nat) (store sync amo : Bool) : Option Nat :=
  if s.localOk s.focus.cell ea then
    accessError ⟨s.localAddr s.focus.cell ea, size, align, store, sync, amo, false, s.was.supervisor⟩
  else some kAddr

/-- What R74 says of a far access, as far as the issuing cell can tell; the target tells the rest (R235). -/
def State.farError (s : State) (ea : W64) (size align : Nat) (store amo : Bool) : Option Nat :=
  s.accessFault ⟨ea, size, align, store, false, amo, true, s.was.supervisor⟩

end Sys2Proof.Machine
end

