-- ==== Sys2Proof/Machine/Scalar.lean ====
section
/-! DEFINITION. The integer, compare and predicate instructions of the scalar class (R136-R146). -/

namespace Sys2Proof.Machine
open Sys2Proof

abbrev Out := Host.Outcome State Fault Refusal

/-! ## Register-register operations (R139) -/

/-- Shift amount: the low six or five bits of y by the width. -/
def shiftOf {w : Nat} (y : BitVec w) : Nat := y.toNat % w

def opMulhs {w : Nat} (x y : BitVec w) : BitVec w := BitVec.ofInt w (x.toInt * y.toInt / 2 ^ w)
def opMulhu {w : Nat} (x y : BitVec w) : BitVec w := BitVec.ofNat w (x.toNat * y.toNat / 2 ^ w)
def opMin {w : Nat} (x y : BitVec w) : BitVec w := if x.slt y then x else y
def opMax {w : Nat} (x y : BitVec w) : BitVec w := if x.slt y then y else x
def opMinu {w : Nat} (x y : BitVec w) : BitVec w := if x.ult y then x else y
def opMaxu {w : Nat} (x y : BitVec w) : BitVec w := if x.ult y then y else x

/-- Result of a register-register operation in the issuing context. -/
def State.alu (s : State) (op : {w : Nat} → BitVec w → BitVec w → BitVec w) (a b : BitVec 6) (m : BitVec 2) : W64 :=
  atWidth m op (s.rs a) (s.rs b)

def execAdd (d a b : BitVec 6) (m : BitVec 2) (s : State) : Out := .next (s.ws d (s.alu (· + ·) a b m))
def execSub (d a b : BitVec 6) (m : BitVec 2) (s : State) : Out := .next (s.ws d (s.alu (· - ·) a b m))
/-- Bound 3, interlocked (R122). -/
def execMul (d a b : BitVec 6) (m : BitVec 2) (s : State) : Out := .next (s.wsLate d (s.alu (· * ·) a b m) 3)
def execMulhs (d a b : BitVec 6) (m : BitVec 2) (s : State) : Out := .next (s.wsLate d (s.alu opMulhs a b m) 3)
def execMulhu (d a b : BitVec 6) (m : BitVec 2) (s : State) : Out := .next (s.wsLate d (s.alu opMulhu a b m) 3)
def execAnd (d a b : BitVec 6) (m : BitVec 2) (s : State) : Out := .next (s.ws d (s.alu (· &&& ·) a b m))
def execOr (d a b : BitVec 6) (m : BitVec 2) (s : State) : Out := .next (s.ws d (s.alu (· ||| ·) a b m))
def execXor (d a b : BitVec 6) (m : BitVec 2) (s : State) : Out := .next (s.ws d (s.alu (· ^^^ ·) a b m))
def execAndn (d a b : BitVec 6) (m : BitVec 2) (s : State) : Out :=
  .next (s.ws d (s.alu (fun x y => x &&& ~~~y) a b m))
def execOrn (d a b : BitVec 6) (m : BitVec 2) (s : State) : Out :=
  .next (s.ws d (s.alu (fun x y => x ||| ~~~y) a b m))
def execShl (d a b : BitVec 6) (m : BitVec 2) (s : State) : Out :=
  .next (s.ws d (s.alu (fun x y => x <<< shiftOf y) a b m))
def execShrl (d a b : BitVec 6) (m : BitVec 2) (s : State) : Out :=
  .next (s.ws d (s.alu (fun x y => x >>> shiftOf y) a b m))
def execShra (d a b : BitVec 6) (m : BitVec 2) (s : State) : Out :=
  .next (s.ws d (s.alu (fun x y => x.sshiftRight (shiftOf y)) a b m))
def execRotl (d a b : BitVec 6) (m : BitVec 2) (s : State) : Out :=
  .next (s.ws d (s.alu (fun x y => x.rotateLeft (shiftOf y)) a b m))
def execMin (d a b : BitVec 6) (m : BitVec 2) (s : State) : Out := .next (s.ws d (s.alu opMin a b m))
def execMax (d a b : BitVec 6) (m : BitVec 2) (s : State) : Out := .next (s.ws d (s.alu opMax a b m))
def execMinu (d a b : BitVec 6) (m : BitVec 2) (s : State) : Out := .next (s.ws d (s.alu opMinu a b m))
def execMaxu (d a b : BitVec 6) (m : BitVec 2) (s : State) : Out := .next (s.ws d (s.alu opMaxu a b m))

/-! ## Unary operations (R140) -/

/-- Leading zeros of an n-bit number: n where it is 0. -/
def clzN (n v : Nat) : Nat := if v = 0 then n else n - 1 - Nat.log2 v
/-- Trailing zeros of v below n. -/
def ctzN : Nat → Nat → Nat
  | 0, _ => 0
  | n + 1, v => if v % 2 = 1 then 0 else 1 + ctzN n (v / 2)
def popN : Nat → Nat → Nat
  | 0, _ => 0
  | n + 1, v => v % 2 + popN n (v / 2)
/-- The n low bytes of v in reverse order. -/
def swapN : Nat → Nat → Nat
  | 0, _ => 0
  | n + 1, v => (v % 256) * 256 ^ n + swapN n (v / 256)

def opClz {w : Nat} (x _y : BitVec w) : BitVec w := BitVec.ofNat w (clzN w x.toNat)
def opCtz {w : Nat} (x _y : BitVec w) : BitVec w := BitVec.ofNat w (ctzN w x.toNat)
def opPopc {w : Nat} (x _y : BitVec w) : BitVec w := BitVec.ofNat w (popN w x.toNat)
def opBswap {w : Nat} (x _y : BitVec w) : BitVec w := BitVec.ofNat w (swapN (w / 8) x.toNat)

def execClz (d a : BitVec 6) (m : BitVec 2) (s : State) : Out := .next (s.ws d (s.alu opClz a 0 m))
def execCtz (d a : BitVec 6) (m : BitVec 2) (s : State) : Out := .next (s.ws d (s.alu opCtz a 0 m))
def execPopc (d a : BitVec 6) (m : BitVec 2) (s : State) : Out := .next (s.ws d (s.alu opPopc a 0 m))
def execBswap (d a : BitVec 6) (m : BitVec 2) (s : State) : Out := .next (s.ws d (s.alu opBswap a 0 m))

/-! ## Field operations (R141) -/

/-- Position and length carried by rs(b), and whether they name a field of 64 bits. -/
def fieldPos (y : W64) : Nat := (y.extractLsb' 0 6).toNat
def fieldLen (y : W64) : Nat := (y.extractLsb' 8 7).toNat
def fieldBad (y : W64) : Bool := fieldLen y == 0 || decide (64 < fieldLen y) || decide (64 < fieldPos y + fieldLen y)

def fieldOf (x y : W64) : Nat := x.toNat / 2 ^ fieldPos y % 2 ^ fieldLen y
def opExtz (x y : W64) : W64 := BitVec.ofNat 64 (fieldOf x y)
def opExts (x y : W64) : W64 :=
  let f := fieldOf x y
  BitVec.ofInt 64 (if f < 2 ^ (fieldLen y - 1) then (f : Int) else (f : Int) - 2 ^ fieldLen y)
def opIns (t x y : W64) : W64 :=
  let m : W64 := BitVec.ofNat 64 (2 ^ fieldLen y - 1) <<< fieldPos y
  (t &&& ~~~m) ||| ((x <<< fieldPos y) &&& m)

def execExtz (d a b : BitVec 6) (s : State) : Out :=
  .next (if fieldBad (s.rs b) then s.illegal 1 else s.ws d (opExtz (s.rs a) (s.rs b)))
def execExts (d a b : BitVec 6) (s : State) : Out :=
  .next (if fieldBad (s.rs b) then s.illegal 1 else s.ws d (opExts (s.rs a) (s.rs b)))
def execIns (d a b : BitVec 6) (s : State) : Out :=
  .next (if fieldBad (s.rs b) then s.illegal 1 else s.ws d (opIns (s.rs d) (s.rs a) (s.rs b)))

/-! ## Immediate operations (R142, R143) -/

def execAddi (d a : BitVec 6) (i : BitVec 8) (s : State) : Out := .next (s.ws d (s.rs a + imm8s i))
def execAndi (d a : BitVec 6) (i : BitVec 8) (s : State) : Out := .next (s.ws d (s.rs a &&& imm8s i))
def execOri (d a : BitVec 6) (i : BitVec 8) (s : State) : Out := .next (s.ws d (s.rs a ||| imm8s i))
def execXori (d a : BitVec 6) (i : BitVec 8) (s : State) : Out := .next (s.ws d (s.rs a ^^^ imm8s i))
def execShli (d a : BitVec 6) (i : BitVec 6) (s : State) : Out := .next (s.ws d (s.rs a <<< i.toNat))
def execShrli (d a : BitVec 6) (i : BitVec 6) (s : State) : Out := .next (s.ws d (s.rs a >>> i.toNat))
def execShrai (d a : BitVec 6) (i : BitVec 6) (s : State) : Out := .next (s.ws d ((s.rs a).sshiftRight i.toNat))
def execLdi (d : BitVec 6) (i : BitVec 14) (s : State) : Out := .next (s.ws d (imm14s i))
def execLdis (d : BitVec 6) (i : BitVec 14) (s : State) : Out :=
  .next (s.ws d ((s.rs d <<< 14) ||| i.setWidth 64))

/-! ## Compares and predicate operations (R144, R145) -/

def cEq (x y : W64) : Bool := x == y
def cNe (x y : W64) : Bool := x != y
def cLt (x y : W64) : Bool := x.slt y
def cLe (x y : W64) : Bool := x.sle y
def cGt (x y : W64) : Bool := y.slt x
def cGe (x y : W64) : Bool := y.sle x
def cLtu (x y : W64) : Bool := x.ult y
def cLeu (x y : W64) : Bool := x.ule y
def cGtu (x y : W64) : Bool := y.ult x
def cGeu (x y : W64) : Bool := y.ule x

/-- The two forms of a compare. -/
def State.cmp (s : State) (c : W64 → W64 → Bool) (k : BitVec 4) (a b : BitVec 6) : State :=
  s.wpair k.toNat (c (s.rs a) (s.rs b))
def State.cmpi (s : State) (c : W64 → W64 → Bool) (k : BitVec 4) (a : BitVec 6) (i : BitVec 8) : State :=
  s.wpair k.toNat (c (s.rs a) (imm8s i))

def execCmpEq (k : BitVec 4) (a b : BitVec 6) (s : State) : Out := .next (s.cmp cEq k a b)
def execCmpNe (k : BitVec 4) (a b : BitVec 6) (s : State) : Out := .next (s.cmp cNe k a b)
def execCmpLt (k : BitVec 4) (a b : BitVec 6) (s : State) : Out := .next (s.cmp cLt k a b)
def execCmpLe (k : BitVec 4) (a b : BitVec 6) (s : State) : Out := .next (s.cmp cLe k a b)
def execCmpGt (k : BitVec 4) (a b : BitVec 6) (s : State) : Out := .next (s.cmp cGt k a b)
def execCmpGe (k : BitVec 4) (a b : BitVec 6) (s : State) : Out := .next (s.cmp cGe k a b)
def execCmpLtu (k : BitVec 4) (a b : BitVec 6) (s : State) : Out := .next (s.cmp cLtu k a b)
def execCmpLeu (k : BitVec 4) (a b : BitVec 6) (s : State) : Out := .next (s.cmp cLeu k a b)
def execCmpGtu (k : BitVec 4) (a b : BitVec 6) (s : State) : Out := .next (s.cmp cGtu k a b)
def execCmpGeu (k : BitVec 4) (a b : BitVec 6) (s : State) : Out := .next (s.cmp cGeu k a b)

def execCmpiEq (k : BitVec 4) (a : BitVec 6) (i : BitVec 8) (s : State) : Out := .next (s.cmpi cEq k a i)
def execCmpiNe (k : BitVec 4) (a : BitVec 6) (i : BitVec 8) (s : State) : Out := .next (s.cmpi cNe k a i)
def execCmpiLt (k : BitVec 4) (a : BitVec 6) (i : BitVec 8) (s : State) : Out := .next (s.cmpi cLt k a i)
def execCmpiLe (k : BitVec 4) (a : BitVec 6) (i : BitVec 8) (s : State) : Out := .next (s.cmpi cLe k a i)
def execCmpiGt (k : BitVec 4) (a : BitVec 6) (i : BitVec 8) (s : State) : Out := .next (s.cmpi cGt k a i)
def execCmpiGe (k : BitVec 4) (a : BitVec 6) (i : BitVec 8) (s : State) : Out := .next (s.cmpi cGe k a i)
def execCmpiLtu (k : BitVec 4) (a : BitVec 6) (i : BitVec 8) (s : State) : Out := .next (s.cmpi cLtu k a i)
def execCmpiLeu (k : BitVec 4) (a : BitVec 6) (i : BitVec 8) (s : State) : Out := .next (s.cmpi cLeu k a i)
def execCmpiGtu (k : BitVec 4) (a : BitVec 6) (i : BitVec 8) (s : State) : Out := .next (s.cmpi cGtu k a i)
def execCmpiGeu (k : BitVec 4) (a : BitVec 6) (i : BitVec 8) (s : State) : Out := .next (s.cmpi cGeu k a i)

def State.pop (s : State) (f : Bool → Bool → Bool) (k : BitVec 4) (a b : BitVec 5) : State :=
  s.wpair k.toNat (f (s.pr a.toNat) (s.pr b.toNat))
def execPand (k : BitVec 4) (a b : BitVec 5) (s : State) : Out := .next (s.pop (· && ·) k a b)
def execPor (k : BitVec 4) (a b : BitVec 5) (s : State) : Out := .next (s.pop (· || ·) k a b)
def execPxor (k : BitVec 4) (a b : BitVec 5) (s : State) : Out := .next (s.pop xor k a b)
def execPandn (k : BitVec 4) (a b : BitVec 5) (s : State) : Out := .next (s.pop (fun x y => x && !y) k a b)

/-- NOP (R112). -/
def execNop (s : State) : Out := .next s

end Sys2Proof.Machine
end

