-- ==== Sys2Proof/Machine/Control.lean ====
section
/-! DEFINITION. Control flow, loops, waits, stops, busy flags, time, power and lane-predicate moves of the scalar class
(R147-R180). -/

namespace Sys2Proof.Machine
open Sys2Proof

/-! ## Transfers (R147) -/

/-- Whether the direct target of an instruction lies inside the instruction store: a limit of its field (R117, R147). -/
def directOk (pc : Nat) : Instr → Bool
  | .br i => targetOk pc i
  | .call i => targetOk pc i
  | .brloop i => targetOk pc i
  | _ => true

/-- A taken transfer other than `BRLOOP` is a flush point (R325). -/
def State.transfer (s : State) (t : Nat) : State := (s.closeWindow).jump t

/-- The address after the issuing bundle: `next_pc` (R136). -/
def State.link (s : State) : W64 := BitVec.ofNat 64 s.focus.next

def execBr (i : BitVec 20) (s : State) : Out :=
  .next (if targetOk s.focus.pc i then s.transfer (target s.focus.pc i).toNat else s.stop 0x01 0)
def execCall (i : BitVec 20) (s : State) : Out :=
  .next (if targetOk s.focus.pc i then (s.ws 62 s.link).transfer (target s.focus.pc i).toNat else s.stop 0x01 0)

/-- The target operand of `BRX`, `CALLX` and `RET` is not forwarded: the register as it stood at the end of the previous
cycle (R149). Log entry 80, DEDUCED. -/
def State.unforwarded (s : State) (n : BitVec 6) : W64 :=
  match s.was.stale.find? (fun e => e.1 == n.toNat) with
  | some e => e.2
  | none => s.rs n

/-- An indirect transfer to `t`, with or without a link. -/
def State.indirect (s : State) (t : W64) (link : Bool) : State :=
  if indirectOk t then (if link then s.ws 62 s.link else s).transfer t.toNat else s.illegal 2

def execBrx (a : BitVec 6) (s : State) : Out := .next (s.indirect (s.unforwarded a) false)
def execCallx (a : BitVec 6) (s : State) : Out := .next (s.indirect (s.unforwarded a) true)
def execRet (s : State) : Out := .next (s.indirect (s.unforwarded 62) false)

/-- `ERET` (R165); PRIV in user mode (R126). -/
def execEret (s : State) : Out :=
  .next (if s.was.supervisor then (s.returnFrom s.focus.cell s.focus.ctx s.was true).closeWindow else s.stop 0x03 0)

/-! ## Loops (R152-R154) -/

def stageLive (T e j : Nat) : Bool := decide (j ≤ e) && decide (e - j < T)

/-- p16 to p(15 + n) by a function of the stage; the rest of the window is left. -/
def Ctx.stages (x : Ctx) (n : Nat) (f : Nat → Bool) : Ctx := (List.range n).foldl (fun y j => y.setP (16 + j) (f j)) x

def loopT (x : Ctx) : Nat := (x.loopState.extractLsb' 0 32).toNat
def loopN (x : Ctx) : Nat := (x.loopState.extractLsb' 32 5).toNat
def loopE (x : Ctx) : Nat := (x.loopExec.extractLsb' 0 33).toNat
def loopWord (T n : Nat) : W64 := BitVec.ofNat 64 (T + n * 2 ^ 32)

/-- `LOOP`. Where a `CSRW` of the bundle writes the same CSR, the loop's value stands. Log entry 113, DESIGN CHOICE. -/
def execLoop (a : BitVec 6) (n : BitVec 5) (s : State) : Out :=
  .next (
    if (s.rs a).extractLsb' 32 32 != 0 then s.illegal 3 else
    let T := ((s.rs a).extractLsb' 0 32).toNat
    s.modCtx fun x =>
      { x.stages n.toNat (stageLive T 0) with loopState := loopWord T n.toNat, loopExec := 0 })

/-- Whether a `BRLOOP` with this loop state branches back. -/
def loopTaken (x : Ctx) : Bool :=
  loopN x != 0 && loopT x != 0 && decide (loopE x + 1 < loopT x + loopN x - 1)

/-- `BRLOOP`. Where a `CSRW` of the bundle writes the same CSR, the loop's value stands. Log entry 113, DESIGN CHOICE. -/
def execBrloop (i : BitVec 20) (s : State) : Out :=
  .next (
    let x := s.was
    if loopN x = 0 then s.illegal 4
    else if !targetOk s.focus.pc i then s.stop 0x01 0
    else if loopTaken x then
      (s.modCtx fun y =>
        { y.stages (loopN x) (stageLive (loopT x) (loopE x + 1)) with
          loopExec := BitVec.ofNat 64 (loopE x + 1) }).jump (target s.focus.pc i).toNat
    else
      s.modCtx fun y => { y.stages (loopN x) (fun _ => false) with loopState := 0, loopExec := 0 })

/-! ## Stops and waits (R155-R158, R166) -/

def execTrap (i : BitVec 14) (s : State) : Out := .next (s.stop 0x04 i.toNat)
def execBkpt (i : BitVec 14) (s : State) : Out := .next (s.stop 0x05 i.toNat)

/-- `YIELD`: the context stays READY and gives up the issue slot. -/
def execYield (s : State) : Out := .next s.giveUp

def execWaitt (a : BitVec 6) (s : State) : Out :=
  .next (if s.tai.ult (s.rs a) then s.waitFor (.time (s.rs a)) else s)

/-- `EV_PEND`: bit i of ENGIDLE is 1 while no command of the context on engine i is unfinished (R157). -/
def Ctx.busyOn (x : Ctx) (e : Nat) : Bool := x.busy.get 0 e != 0
def Ctx.evWord (x : Ctx) : W64 :=
  (List.range 6).foldl (fun w e => if x.busyOn e then w else w ||| BitVec.ofNat 64 (2 ^ e))
    (x.evPend &&& 0x7C0#64)

def execWaitev (a : BitVec 6) (s : State) : Out :=
  .next (
    let m := (s.rs a).extractLsb' 0 11
    if (s.rs a).extractLsb' 11 53 != 0 then s.illegal 5
    else if m == 0 || (s.was.evWord.setWidth 11 &&& m) != 0 then s
    else s.waitFor (.event m))

/-! ## Busy flags (R173) -/

def execXpoll (k : BitVec 4) (e : BitVec 8) (s : State) : Out := .next (s.wpair k.toNat (s.was.busyOn e.toNat))

def xwaitHeld (x : Ctx) (m : BitVec 6) : Bool := (List.range 6).any fun e => m.getLsbD e && x.busyOn e
def execXwait (m : BitVec 6) (s : State) : Out := .next (if xwaitHeld s.was m then s.block (.engines m) else s)

/-! ## Time (R175) -/

def execRdcyc (d : BitVec 6) (s : State) : Out :=
  .next (s.wsLate d (BitVec.ofNat 64 (s.cycle - (s.die (dieOf s.focus.cell)).resetAt)) 2)

/-! ## Power, rewrite and lane predicates (R178-R180, R313) -/

/-- The most units a context can hold. -/
def leaveMax : Nat := 200

/-- The number under which the request of a `POWREQ` goes: its bundle and slot. A request of a bundle that a trap has ended
stays its own, and no other `POWREQ` takes its grant. Log entry 110, DEDUCED. -/
def State.powKey (s : State) : Nat := s.focus.pc * 16 + s.focus.slot
/-- The number of the request that a resume makes (R178). Log entry 110, DEDUCED. -/
def resumeKey : Nat := 2 ^ 64
def Ctx.hasAsked (x : Ctx) (key : Nat) : Bool := x.asked.any fun q => q.1 == key
/-- Units that a context holds or has asked for. Log entry 110, DEDUCED. -/
def Ctx.wanted (x : Ctx) : Nat := x.asked.foldl (fun n q => n + q.2) x.grant

/-- `POWREQ`: held until the grant arrives. The request is sent when the bundle is first held. Log entry 110, DEDUCED. -/
def State.askPower (s : State) (u : Nat) : State :=
  if s.ctx.hasAsked s.powKey then s else
  ((s.modCtx fun x => { x with asked := x.asked ++ [(s.powKey, u)] }).modDie (dieOf s.focus.cell) fun d =>
    { d with powQueue := d.powQueue ++ [(s.focus.cell, s.focus.ctx, u)] }).post .powerGrant
      { Args.empty with die := dieOf s.focus.cell }

/-- A request that has not been made and would raise what the context can come to hold above the most (R313).
Log entry 110, DEDUCED. -/
def powreqBad (x : Ctx) (key : Nat) (u : BitVec 14) : Bool :=
  !x.granted.contains key && !x.hasAsked key && decide (leaveMax < x.wanted + u.toNat)
def execPowreq (u : BitVec 14) (s : State) : Out :=
  .next (
    if powreqBad s.was s.powKey u then s.illegal 8
    else if s.was.granted.contains s.powKey then s.modCtx fun x => { x with granted := x.granted.erase s.powKey }
    else (s.askPower u.toNat).block .power)

/-- Units go back to the die pool, and the requests it holds are looked at again. -/
def State.releaseUnits (s : State) (c x n : Nat) : State :=
  if n = 0 then s else
  let s := (s.modCtxOf c x fun t => { t with grant := t.grant - n }).modDie (dieOf c) fun d =>
    { d with powUsed := d.powUsed - n }
  if (s.die (dieOf c)).powQueue.isEmpty then s
  else s.post .powerGrant { Args.empty with die := dieOf c }

def execPowrel (u : BitVec 14) (s : State) : Out :=
  .next (
    let t := s.releaseUnits s.focus.cell s.focus.ctx (min u.toNat s.was.grant)
    if s.was.grant < u.toNat then t.violate kPowrel 0 (violInfo s.focus.pc s.focus.slot 0 false false false 0) else t)

/-- `RWFLUSH` closes the windows of the context on both engines. -/
def execRwflush (s : State) : Out := .next s.closeWindow

/-- `MVPQ`: the lane predicate reads the new value from the next bundle on. An older result that reaches it in the next
cycle still sets its flags, but not the predicate (R54, R121). -/
def execMvpq (c q : BitVec 3) (a : BitVec 6) (s : State) : Out :=
  .next (s.modCtx fun x =>
    { x with q := x.q.ins (qkey c.toNat q.toNat) ((s.rs a).setWidth 16)
             land := unseeOn .lanePred c.toNat q.toNat 0xFFFF x.land
             reachNext := x.reachNext ++ [⟨.lanePred, c.toNat, q.toNat, 0xFFFF, s.now⟩] })
/-- `MVQP`: no write still in flight is seen, though another slot of the bundle may see it (R180, R305). -/
def execMvqp (d : BitVec 6) (c q : BitVec 3) (s : State) : Out :=
  .next (s.wsLate d (((s.seen.ctxs.get s.was (4 + s.focus.ctx)).qr c.toNat q.toNat).setWidth 64) 2)

end Sys2Proof.Machine
end

