-- ==== Sys2Proof/Machine/Csr.lean ====
section
/-! DEFINITION. The context and cell CSRs (R125, R126): what each reads as, which bits each keeps, and what writing it
does. Die and package CSRs are in Machine/DieCsr.lean. -/

namespace Sys2Proof.Machine
open Sys2Proof

/-- The three writing forms (R174). -/
inductive CsrOp where
  | write | set | clear
  deriving DecidableEq, Repr

/-- The new value of RW bits. -/
def CsrOp.rw (o : CsrOp) (old v : W64) : W64 :=
  match o with
  | .write => v
  | .set => old ||| v
  | .clear => old &&& ~~~v

/-- W1C bits after a write: `CSRC` clears the bits of its source, `CSRS` changes nothing (R126). -/
def CsrOp.w1c (o : CsrOp) (old v : W64) : W64 :=
  match o with
  | .set => old
  | _ => old &&& ~~~v

/-- RS bits that a write sets (R126). -/
def CsrOp.rsBits (o : CsrOp) (v : W64) : W64 :=
  match o with
  | .clear => 0
  | _ => v

/-- A field of a 64-bit word, and a word with a field replaced. -/
def bitsAt (w : W64) (lo n : Nat) : Nat := w.toNat / 2 ^ lo % 2 ^ n
def withBits (w : W64) (lo n v : Nat) : W64 :=
  (w &&& ~~~(BitVec.ofNat 64 ((2 ^ n - 1) * 2 ^ lo))) ||| BitVec.ofNat 64 (v % 2 ^ n * 2 ^ lo)

/-! ## Identifiers -/

/-- PHYS of a cell (R447): its physical row is its logical row; within it, columns are taken in order past the skipped
ones of `CMAP_ROWr`; while a remap of the row is BUSY they are those that were skipped before (R448). Log entry 15,
DESIGN CHOICE. Log entry 75, DEDUCED. -/
def State.physOf (s : State) (c : Nat) : Nat :=
  let row := (s.die (dieOf c)).cmapRow (c % 256 / 16)
  let w := if row.getLsbD 11 then row >>> 32 else row
  let cols := (List.range 17).filter fun p => p != bitsAt w 0 5 && p != bitsAt w 5 5
  c % 256 / 16 * 17 + cols.getD (c % 16) 16

/-- `CELL_ID` (R12). -/
def State.cellId (s : State) (c : Nat) : W64 :=
  (s.cellPrefix c).setWidth 64 ||| (if isC c then 0x200000 else 0) ||| BitVec.ofNat 64 (s.physOf c * 2 ^ 32)

/-! ## Current and power -/

/-- TOTAL of `POW_GRANT` (R312). -/
def Cell.granted (k : Cell) : Nat := (List.range 4).foldl (fun n x => n + (k.ctx x).grant) 0
/-- `CUR_LIMIT`.LIMIT (R310). -/
def Cell.limit (k : Cell) : Nat := min (k.curBase.toNat + 32 * k.granted) 8960
/-- Weights charged in the 31 cycles before this one. Log entry 82, DEDUCED. -/
def Cell.windowSum (k : Cell) (cycle : Nat) : Nat :=
  (k.weights.filter fun e => decide (cycle ≤ e.1 + 31)).foldl (fun n e => n + e.2) 0

/-- Whether the cycle is a freeze cycle when a bundle of weight `w` would issue. Log entry 82, DEDUCED. -/
def Cell.freezes (k : Cell) (cycle w : Nat) : Bool :=
  decide (k.limit < k.windowSum cycle + w) && !(decide (k.limit < w) && k.windowSum cycle == 0)

def Cell.curLimit (k : Cell) : W64 := BitVec.ofNat 64 (k.limit + k.curBase.toNat * 2 ^ 16)
def Cell.powGrant (k : Cell) : W64 :=
  let held := (List.range 4).any fun x => !(k.ctx x).asked.isEmpty
  BitVec.ofNat 64 ((List.range 4).foldl (fun n x => n + (k.ctx x).grant * 2 ^ (8 * x)) 0
    + k.granted * 2 ^ 32 + held.toNat * 2 ^ 42)

/-! ## Context CSRs, 0x000-0x0FF -/

/-- `CTX_STATUS` (R22). -/
def Ctx.status (x : Ctx) (n : Nat) : W64 :=
  BitVec.ofNat 64 (n % 4 + x.supervisor.toNat * 4 + x.handler.toNat * 8 + x.prio.toNat * 128 + x.disp.toNat * 512
    + x.preempted.toNat * 1024 + x.carried.toNat * 2048)

/-- A capture register (R456). -/
def CapSet.word (k : CapSet) : W64 :=
  BitVec.ofNat 64 (min k.count (2 ^ 48 - 1) + k.evicted.toNat * 2 ^ 62 + k.running.toNat * 2 ^ 63)

/-- A context CSR as software reads it. `FPCTL` leaves out flags that land in this cycle (R54). -/
def Ctx.csr (x : Ctx) (n a : Nat) : W64 :=
  match a with
  | 0x000 => x.status n
  | 0x001 => x.doneMask
  | 0x002 => x.trapCause
  | 0x003 => x.trapPc
  | 0x004 => x.trapSlot
  | 0x005 => x.trapVec
  | 0x010 => x.fpctl &&& ~~~x.hwNew
  | 0x011 => x.rwPerm
  | 0x012 => x.brConflict
  | 0x013 => x.errSticky
  | 0x014 => x.violAddr
  | 0x015 => x.violInfo
  | 0x016 => x.loopState
  | 0x017 => x.evWord
  | 0x018 => x.p.setWidth 64
  | 0x019 => x.rwFault
  | 0x01A => x.rwOrigin
  | 0x01B => x.whit
  | 0x01C => x.loopExec
  | 0x024 => x.taskSlots
  | _ =>
    if 0x020 ≤ a ∧ a ≤ 0x023 then x.taskArg.get 0 (a - 0x020)
    else if 0x030 ≤ a ∧ a ≤ 0x03F then (x.caps.get CapSet.reset (a - 0x030)).word
    else if 0x040 ≤ a ∧ a ≤ 0x04F then x.capEvent.get 0 (a - 0x040)
    else 0

/-- `LOOP_STATE`.N above 16 is stored as 16 (R152). -/
def clipLoop (w : W64) : W64 := if 16 < bitsAt w 32 5 then withBits w 32 5 16 else w

/-- A write of a context CSR. A flag or event that hardware sets in the same cycle ends set (R54, R157). In user mode a
CSR whose User column is RO is left as it is (R126). -/
def Ctx.csrWrite (x : Ctx) (o : CsrOp) (a : Nat) (v : W64) (sup : Bool) : Ctx :=
  let rw (old mask : W64) : W64 := (o.rw old v) &&& mask
  match a with
  | 0x010 => { x with fpctl := rw x.fpctl 0x1F0F ||| x.hwSet }
  | 0x012 => { x with brConflict := rw x.brConflict 0xFFFFFFFF }
  | 0x016 => { x with loopState := clipLoop (rw x.loopState 0x1FFFFFFFFF) }
  | 0x017 => { x with evPend := o.w1c x.evPend (v &&& 0x7C0) ||| x.evHw }
  | 0x018 => { x with p := (x.p &&& 3#32) ||| ((o.rw (x.p.setWidth 64) v).setWidth 32 &&& ~~~3#32) }
  | 0x01C => { x with loopExec := rw x.loopExec 0x1FFFFFFFF }
  | _ =>
    if 0x040 ≤ a ∧ a ≤ 0x04F then
      { x with capEvent := x.capEvent.ins (a - 0x040) (rw (x.capEvent.get 0 (a - 0x040)) 0x3FFF) }
    else if !sup then x
    else match a with
      | 0x001 => { x with doneMask := rw x.doneMask 0x3FFF }
      | 0x002 => { x with trapCause := rw x.trapCause 0x3FFF01FF }
      | 0x003 => { x with trapPc := rw x.trapPc 0x1FFFC }
      | 0x004 => { x with trapSlot := rw x.trapSlot 0xF }
      | 0x005 => { x with trapVec := rw x.trapVec 0x1FFFD, hidden := true }
      | 0x011 => { x with rwPerm := rw x.rwPerm 7 }
      | 0x013 => { x with errSticky := o.w1c x.errSticky (v &&& 0xFF) }
      | 0x014 => { x with violAddr := rw x.violAddr (~~~0) }
      | 0x015 => { x with violInfo := rw x.violInfo 0xFFFFFFFF }
      | 0x019 => { x with rwFault := rw x.rwFault 0x1FFFC }
      | 0x01A => { x with rwOrigin := rw x.rwOrigin 0x7FFFFFFFFFFFFFFF }
      | 0x01B => { x with whit := rw x.whit 0x3FFF }
      | _ => x

/-! ## Cell CSRs, 0x100-0x1FF -/

/-- `RW_TABLE` with BUSY (R323). -/
def Cell.rwTableWord (k : Cell) : W64 := if k.rwLoad.isSome then k.rwTable ||| 0x1000001#64 else k.rwTable

/-- `TRACE_STAT` (R459). -/
def Cell.traceStat (k : Cell) : W64 := BitVec.ofNat 64 (k.trace.pos % 2 ^ 32 + min k.trace.lost 0xFFFF * 2 ^ 32)

/-- Places of the profile (R452): an element's class counters at items 0-3 and its blocker table, name and count of four
entries, at 8-15; bank 0 is the live one. Of the last bank, item 4 is kept too, and the interval's cycles and serial stand
under element 32. -/
def profKey (bank e i : Nat) : Nat := (bank * 33 + e) * 16 + i
def Cell.profItem (k : Cell) (bank e i : Nat) : Nat := k.prof.get 0 (profKey bank e i)

/-- IDLE cycles of an element: those of `n` cycles that no other class took. -/
def Cell.profIdle (k : Cell) (n e : Nat) : Nat :=
  n - (k.profItem 0 e 0 + k.profItem 0 e 1 + k.profItem 0 e 2 + k.profItem 0 e 3)

/-- The top blocker of an element, with its count: the first of the largest. -/
def Cell.topBlocker (k : Cell) (bank e : Nat) : Nat × Nat :=
  (List.range 4).foldl (fun (b : Nat × Nat) i =>
    if b.2 < k.profItem bank e (9 + 2 * i) then (k.profItem bank e (8 + 2 * i), k.profItem bank e (9 + 2 * i)) else b) (0, 0)

/-- `PROF_DATA` (R454): an item of an element in the live bank, after `n` cycles of the interval, or in the last bank. -/
def Cell.profData (k : Cell) (n : Nat) : W64 :=
  let e := bitsAt k.profSel 0 5
  let bank := bitsAt k.profSel 8 1
  let cap (n : Nat) : W64 := BitVec.ofNat 64 (min n (2 ^ 48 - 1))
  match bitsAt k.profSel 5 3 with
  | 4 => cap (if bank = 0 then k.profIdle n e else k.profItem 1 e 4)
  | 5 => BitVec.ofNat 64 ((k.topBlocker bank e).1 + (k.topBlocker bank e).2 * 2 ^ 32)
  | 6 => cap (if bank = 0 then n else k.profItem 1 32 6)
  | 7 => BitVec.ofNat 64 (k.profItem bank 32 7)
  | i => cap (k.profItem bank e i)

/-- Cycles of the interval that have ended: it began with a load, or with the last reset of the die (R453). -/
def State.profCycles (s : State) (c : Nat) : Nat := s.cycle - max (s.cell c).profStart (s.die (dieOf c)).resetAt

/-- The sequencer or an output port is FIRED in this cycle (R450). Log entry 83, DEDUCED. -/
def Cell.profFired (k : Cell) (e : Nat) : Cell := { k with fired := if k.fired.contains e then k.fired else k.fired ++ [e] }

/-- Counts a name in the blocker table of an element (R452). -/
def Cell.profName (k : Cell) (e name : Nat) : Cell :=
  let n (i : Nat) : Nat := k.profItem 0 e (8 + 2 * i)
  let c (i : Nat) : Nat := k.profItem 0 e (9 + 2 * i)
  let put (i : Nat) (v : Nat) : Cell :=
    { k with prof := (k.prof.ins (profKey 0 e (8 + 2 * i)) name).ins (profKey 0 e (9 + 2 * i)) (min v 0xFFFFFFFF) }
  match (List.range 4).find? fun i => c i != 0 && n i == name with
  | some i => put i (c i + 1)
  | none =>
    match (List.range 4).find? fun i => c i == 0 with
    | some i => put i 1
    | none =>
      let i := (List.range 4).foldl (fun b j => if c j < c b then j else b) 0
      put i (c i + 1)

/-- One cycle of an element in class 0 FIRED, 1 MISSING_OPERAND, 2 BLOCKED_PORT or 3 LOADING_CONFIG, with the name of a
blocked one. -/
def Cell.profCount (k : Cell) (e cls : Nat) (name : Option Nat) : Cell :=
  let k := { k with prof := k.prof.ins (profKey 0 e cls) (k.profItem 0 e cls + 1) }
  match name with
  | some n => k.profName e n
  | none => k

def State.cellCsr (s : State) (c a : Nat) : W64 :=
  let k := s.cell c
  match a with
  | 0x100 => s.cellId c
  | 0x101 => k.regionId
  | 0x102 => k.regionSize
  | 0x103 => k.ringPos
  | 0x104 => k.stageId
  | 0x105 => k.ringLink
  | 0x110 => k.curLimit
  | 0x111 => k.freezeCnt
  | 0x112 => k.powGrant
  | 0x120 => k.rwTableWord
  | 0x180 => k.profSel
  | 0x181 => k.profData (s.profCycles c)
  | 0x190 => k.traceStat
  | 0x191 => k.recStat
  | _ =>
    if 0x130 ≤ a ∧ a ≤ 0x137 then k.vcfg.get 0 (a - 0x130)
    else if 0x140 ≤ a ∧ a ≤ 0x17F then k.rwHits.get 0 (a - 0x140)
    else if 0x1A0 ≤ a ∧ a ≤ 0x1A7 then k.bps.get 0 (a - 0x1A0)
    else if 0x1B0 ≤ a ∧ a ≤ 0x1BF then k.wv.get 0 (a - 0x1B0)
    else if 0x1C0 ≤ a ∧ a ≤ 0x1C3 then k.ws.get 0 (a - 0x1C0)
    else 0

/-- Starts a load of the rewrite table (R323): every context's window closes at the write (R325), and no rule applies
until the load ends. -/
def State.startTableLoad (s : State) (c : Nat) : State :=
  let n := bitsAt (s.cell c).rwTable 17 7
  (s.modCell c fun k =>
    [0, 1, 2, 3].foldl (fun k x => k.putCtx x (k.ctx x).closeWindow)
      { k with rwLoad := some (s.clock c + n + 4, k.rwTable) }).afterCycles (n + 4) .rwTableLoadDone { Args.empty with c := c }

/-- A written table position: ADDR in bits 16:4, COUNT in 23:17, at most 64; a write that sets LOAD while a load is in
progress is ignored as a whole. -/
def State.writeRwTable (s : State) (c : Nat) (o : CsrOp) (v : W64) : State :=
  let k := s.cell c
  let load := (o.rsBits v).getLsbD 0
  if load && k.rwLoad.isSome then s else
  let w := (o.rw k.rwTable v &&& 0xFFFFF0#64) ||| (k.rwTable &&& 0xFE000000#64)
  let w := if 64 < bitsAt w 17 7 then withBits w 17 7 64 else w
  let s := s.modCell c fun k => { k with rwTable := w }
  if load then s.startTableLoad c else s

/-- A value of `VCFGn` as it is stored: a written POLICY of 0b11 becomes 0b00 (R188). -/
def vcfgStored (w : W64) : W64 :=
  let w := w &&& 0xFFFFFFFF00000003
  if bitsAt w 0 2 = 3 then w &&& ~~~3#64 else w

def State.cellCsrWrite (s : State) (c : Nat) (o : CsrOp) (a : Nat) (v : W64) (sup : Bool) : State :=
  let k := s.cell c
  let rw (old mask : W64) : W64 := (o.rw old v) &&& mask
  if 0x130 ≤ a ∧ a ≤ 0x137 then
    s.modCell c fun k => { k with vcfg := k.vcfg.ins (a - 0x130) (vcfgStored (o.rw (k.vcfg.get 0 (a - 0x130)) v)) }
  else if a = 0x180 then s.modCell c fun k => { k with profSel := rw k.profSel 0x1FF }
  else if !sup then s
  else if a = 0x110 then
    let b := bitsAt (o.rw k.curLimit v) 16 14
    s.modCell c fun k => { k with curBase := BitVec.ofNat 14 (min b 2560) }
  else if a = 0x111 then s.modCell c fun k => { k with freezeCnt := rw k.freezeCnt 0xFFFFFFFF }
  else if a = 0x120 then s.writeRwTable c o v
  else if 0x140 ≤ a ∧ a ≤ 0x17F then
    s.modCell c fun k => { k with rwHits := k.rwHits.ins (a - 0x140) (rw (k.rwHits.get 0 (a - 0x140)) 0xFFFFFFFF) }
  else if 0x1A0 ≤ a ∧ a ≤ 0x1A7 then
    s.modCell c fun k => { k with bps := k.bps.ins (a - 0x1A0) (rw (k.bps.get 0 (a - 0x1A0)) 0x1FFFC07FF) }
  else if 0x1B0 ≤ a ∧ a ≤ 0x1BF then
    let m : W64 := match a % 4 with
      | 0 => 0xFFFFFF8
      | 1 => 0x3FFFF
      | _ => ~~~0
    s.modCell c fun k => { k with wv := k.wv.ins (a - 0x1B0) (rw (k.wv.get 0 (a - 0x1B0)) m) }
  else if 0x1C0 ≤ a ∧ a ≤ 0x1C3 then
    let old := k.ws.get 0 (a - 0x1C0)
    let w := if a % 2 = 0 then rw old 0x1FFFF8
      else
        let r := rw old 0x7F
        let r := if bitsAt r 1 2 = 3 then withBits r 1 2 2 else r
        r ||| o.w1c (old &&& 0x100) (v &&& 0x100)
    s.modCell c fun k => { k with ws := k.ws.ins (a - 0x1C0) w }
  else s

/-- Bits of a CSR that are W1C or RS: a partial store leaves them out of the bytes it does not write (R230). -/
def stickyBits (a : Nat) : W64 :=
  match a with
  | 0x013 => 0xFF
  | 0x017 => 0x7C0
  | 0x120 => 1
  | 0x1C1 => 0x100
  | 0x1C3 => 0x100
  | 0x200 => 0x600
  | 0x205 => ~~~0
  | 0x208 => 0x600
  | 0x20D => 0x2000
  | 0x210 => 0x20000
  | 0x218 => ~~~0
  | 0x230 => 0x600
  | 0x236 => 0x10000
  | 0x250 => 0x10
  | 0x251 => 0x100
  | 0x301 => 0xFF
  | 0x303 => 0x100000
  | 0x310 => 0x4000
  | 0x360 => 0x800000
  | _ => 0

end Sys2Proof.Machine
end

