-- ==== Sys2Proof/Machine/DieCsr.lean ====
section
/-! DEFINITION. The die and package CSRs (R125): what each reads as and what writing it does. A write that starts an
operation posts its event, which runs before any later bundle issues. -/

namespace Sys2Proof.Machine
open Sys2Proof

/-! ## Record queues (R370) -/

/-- The control register (R370). -/
def LogQueue.ctl (q : LogQueue) : W64 :=
  BitVec.ofNat 64 (q.items.length + q.ovf.toNat * 2 ^ 10 + q.ie.toNat * 2 ^ 11 + q.ovfcnt * 2 ^ 16)
/-- ENTRY0-ENTRY3. -/
def LogQueue.entry (q : LogQueue) (i : Nat) : W64 := (q.items.headD []).getD i 0
/-- A write of the control register: OVF is W1C, IE is RW; POP is taken by the caller. -/
def LogQueue.ctlWrite (q : LogQueue) (o : CsrOp) (v : W64) : LogQueue :=
  { q with
    ovf := (o.w1c q.ctl (v &&& 0x400)).getLsbD 10
    ie := (o.rw q.ctl v).getLsbD 11 }

/-- POISONED and the counts of `ECC_COUNT` (R422): poisoned words of the die's memory. -/
def State.eccCount (s : State) (d : Nat) : W64 :=
  let n := (s.poison.filter fun e => e.1 / 2 ^ 51 == d ).length
  BitVec.ofNat 64 (min (s.die d).eccCe 0xFFFFFFFF + (s.die d).eccUe * 2 ^ 32 + min n 0xFFFF * 2 ^ 48)

/-! ## Accesses in flight -/

/-- A number for an operation of a matrix engine that no other operation of the cell has: an engine takes at most one in a
cycle. -/
def MEntry.openId (n : Nat) (e : MEntry) : Nat := 2 ^ 64 * (1 + 2 * e.at_ + n)

/-- What a bank still has in flight: unanswered operations, local accesses that are not yet performed, and matrix operations
that wait for its resume. Log entry 60, DEDUCED. -/
def Ctx.openIds (x : Ctx) : List Nat :=
  (x.awaits.filter fun w => w.answer.isNone).map Await.id ++ x.pend.map Pend.seq ++ x.parked.map fun p => p.2.openId (p.1 % 2)

/-- What a cell still has in flight: the operations of its tasks, retired ones included, engine commands that have not
completed, reductions and a rotation under way, and matrix operations. Log entry 60, DEDUCED. -/
def Cell.openIds (k : Cell) : List Nat :=
  (k.ctxs.flatMap fun x => x.2.openIds) ++ (k.saved.flatMap fun v => v.bank.openIds) ++ k.orphans.map Orphan.id
    ++ (k.engines.flatMap fun q => q.2.map Cmd.id) ++ k.copies.map (fun r => r.cmd.id)
    ++ (k.groups.filterMap fun g => g.2.run.map Ldred.id) ++ (k.hal.pairing.map Cmd.id).toList ++ (k.rot.map Rotation.id).toList
    ++ k.mats.flatMap fun m => (m.2.queue ++ m.2.running.map Prod.fst).map (MEntry.openId m.1)

/-- Messages in flight. -/
def State.flying (s : State) : List Event := s.agenda ++ s.alarms.map Prod.snd

/-- The far access that an event carries, or has received in a packet. -/
def Event.farRequest (e : Event) : Option RemoteReq :=
  if e.instr == .remoteRequest then some e.args.req
  else match e.args.pk.body with
    | .request r => some r
    | _ => none

/-- Requests in flight that a die's cells have made, those included that their tasks await no longer, or that go to its
memory: by cell, those of another package above 2^32, and number. Log entry 60, DEDUCED. -/
def State.requests (s : State) (d : Nat) : List (Nat × Nat) :=
  (s.flying.filterMap Event.farRequest).filterMap fun r =>
    let own := r.pkg == s.pkg.number
    if (own && dieOf r.cell == d) || (aPkg r.addr == s.pkg.number && dieOf (aCell r.addr) == d) then
      some (if own then r.cell else 2 ^ 32 * (1 + r.pkg.toNat) + r.cell, r.id)
    else none

/-- Copies of the package's other dies that write to a die. Log entry 60, DEDUCED. -/
def State.copiesTo (s : State) (d : Nat) : List (Nat × Nat) :=
  (s.cells.filter fun e => dieOf e.1 != d).flatMap fun e => (e.2.copies.filter fun r =>
    let dst := BitVec.ofNat 64 (field r.desc 8 8)
    aPkg dst == s.pkg.number && dieOf (aCell dst) == d).map fun r => (e.1, r.cmd.id)

/-- The accesses of a die that are still in flight, by cell and number (R301). Log entry 60, DEDUCED. -/
def State.openAccesses (s : State) (d : Nat) : List (Nat × Nat) :=
  (((s.cells.filter fun e => dieOf e.1 == d).flatMap fun e => e.2.openIds.map fun i => (e.1, i))
    ++ ((s.die d).shelf.flatMap fun h => (h.was.saved.flatMap fun v => v.bank.openIds).map fun i => (h.cell, i))
    ++ s.requests d ++ s.copiesTo d).eraseDups

/-- Accesses still open that the oldest frame waits for. -/
def State.quiesceCount (s : State) (d : Nat) : Nat :=
  match (s.die d).quar with
  | [] => 0
  | q :: _ => (q.open_.filter fun a => (s.openAccesses d).contains a).length

/-- `QUAR_STATUS` and `QUIESCE`. -/
def Die.quarStatus (d : Die) : W64 :=
  BitVec.ofNat 64 (d.quar.length + (if 256 ≤ d.quar.length then 2 ^ 9 else 0))
def State.quiesce (s : State) (d : Nat) : W64 :=
  BitVec.ofNat 64 ((s.die d).epoch + s.quiesceCount d % 2 ^ 32 * 2 ^ 16)

/-! ## Walkers, dispatcher and power -/

/-- Walks in progress on a die. -/
def Die.walking (d : Die) (cycle : Nat) : Nat :=
  (d.walks.filter fun w => match w.ends with
    | some n => decide (cycle < n)
    | none => false).length
/-- `WALK_STATUS`. -/
def Die.walkStatus (d : Die) (cycle : Nat) : W64 :=
  BitVec.ofNat 64 (d.walking cycle + (d.walks.filter fun w => w.ends.isNone).length * 2 ^ 16)

/-- Free dependence-table entries: 512 less one per node of every accepted graph. -/
def Pkg.depFree (p : Pkg) : Nat := 512 - p.graphs.foldl (fun n g => n + g.2.nodes.length) 0

/-- `DIE_POOL`.POOL. -/
def Die.pool (d : Die) : Nat := bitsAt (d.csr.get 8192 0x228) 0 16

/-- `DISP_STATUS` (R381). -/
def Pkg.dispStatus (p : Pkg) : W64 :=
  let ready := p.graphs.foldl (fun n g => n + (g.2.nodes.filter fun x => x.st == .ready).length) 0
  let runs := p.graphs.any fun g => g.2.nodes.any fun x => x.st == .ready && x.bytes.headD 0 == 1
  BitVec.ofNat 64 (p.depFree + p.launches.length * 2 ^ 10 + (p.spillWait && runs).toNat * 2 ^ 15 + ready * 2 ^ 16)

/-- `DIE_POOL` (R407). -/
def Die.poolWord (d : Die) : W64 :=
  BitVec.ofNat 64 (d.pool + d.powUsed % 2 ^ 16 * 2 ^ 16 + min d.powQueue.length 0xFFFF * 2 ^ 32)

/-! ## Links, routing, time, power, boot -/

def Pkg.link (p : Pkg) (n : Nat) : LinkPort := p.links.get LinkPort.reset n

/-- The bunting port (R390): port 31 of a package that the description gives no edge there, an absolute point of its
polarity graph or a package of a complete graph. Log entry 69, DEDUCED. -/
def Pkg.bunting (p : Pkg) (n : Nat) : Bool :=
  let f := p.fabric
  n == 31 && decide (0 < f.order) && (f.complete || f.neigh.length == f.order) && decide (f.neigh.length * f.perEdge ≤ 31)

/-- A placement is accepted while every described port is UP or retired by a routing generation (R391). -/
def Pkg.placeable (p : Pkg) : Bool :=
  (List.range (p.fabric.neigh.length * p.fabric.perEdge)).all fun n => (p.link n).state == .up || p.retired.getLsbD n

/-- `LINK_STATUSn` (R388). -/
def Pkg.linkWord (p : Pkg) (n : Nat) : W64 :=
  let l := p.link n
  let st := match l.state with
    | .down => 0
    | .training => 1
    | .up => 2
    | .failed => 3
  BitVec.ofNat 64 (st + l.attempts * 4 + l.en.toNat * 16 + (p.bunting n).toNat * 32 + l.miswired.toNat * 64
    + min l.retrains 0xFFFF * 2 ^ 16 + min l.replays 0xFFFF * 2 ^ 32 + l.peer.toNat * 2 ^ 48 + l.peerPort % 32 * 2 ^ 58)

/-- `RT_CTL` (R394), with NMTHRESH 64 at reset. -/
def Pkg.rtCtl (p : Pkg) : W64 := p.csr.get 0x400000 0x310
/-- Generation of a routing slot, whether it is valid, and the slot stamped at injection. -/
def Pkg.gen (p : Pkg) (slot : Nat) : Nat := bitsAt p.rtCtl (8 * slot) 4
def Pkg.genValid (p : Pkg) (slot : Nat) : Bool := p.rtCtl.getLsbD (8 * slot + 4)
def Pkg.inj (p : Pkg) : Nat := bitsAt p.rtCtl 13 1
/-- An entry of a routing slot (R392). -/
def Pkg.route (p : Pkg) (slot dest : Nat) : W64 := p.routes.get 0 (slot * 1024 + dest)
/-- The port of an entry for a source, destination and channel (R392). -/
def routePort (e : W64) (src dst : BitVec 10) (ch : Bool) : Nat :=
  (bitsAt e 0 5 + (src.toNat + dst.toNat + ch.toNat) % (bitsAt e 5 3 + 1)) % 32
def routeValid (e : W64) : Bool := e.getLsbD 12

/-- `RT_STATUS` (R395): OLDCNT counts packets on their way through this router and unacknowledged ones of its own. -/
def State.rtStatus (s : State) : W64 :=
  let g := s.pkg.gen (1 - s.pkg.inj)
  let here := (s.agenda.filter fun e => e.instr == .packetForward && e.args.pk.gen.toNat == g).length
  let queued := s.pkg.links.foldl (fun n e => n + (e.2.queue.filter fun q => q.2.gen.toNat == g).length) 0
  let mine := (s.pkg.store.filter fun x => x.pk.gen.toNat == g).length
  BitVec.ofNat 64 ((here + queued + mine) % 2 ^ 32 + min s.pkg.dropGen 0xFFFF * 2 ^ 32 + min s.pkg.dropFail 0xFFFF * 2 ^ 48)

/-- `TIME_STATUS` (R405). Log entry 70, DEDUCED. -/
def TimeSt.word (t : TimeSt) : W64 :=
  let off := max (-(2 ^ 31)) (min (2 ^ 31 - 1) t.offset)
  BitVec.ofNat 64 (t.source + t.locked.toNat * 4 + t.holdover.toNat * 8 + t.srcPort % 32 * 16
    + (if t.locked then min t.stratum 3 else 3) * 2 ^ 9 + t.ppsIn.toNat * 2 ^ 11 + (off % 2 ^ 32).toNat * 2 ^ 16)

/-- `PKG_PLIMIT` (R406). -/
def Pkg.plimitWord (p : Pkg) : W64 :=
  BitVec.ofNat 64 (p.plimit + min p.measured 8191 * 2 ^ 16 + p.overLimit.toNat * 2 ^ 29 + p.coolAlm.toNat * 2 ^ 30)

def BootSt.code : BootSt → Nat
  | .idle => 0
  | .announced => 1
  | .loading => 2
  | .verifying => 3
  | .committed => 4
  | .failed => 5

/-- `BOOT_STATUS` (R402). -/
def Boot.word (b : Boot) : W64 :=
  BitVec.ofNat 64 (b.st.code + b.sigOk.toNat * 8 + min b.bad.length 255 * 2 ^ 8 + min b.good.length 0xFFFF * 2 ^ 16
    + b.serial.toNat * 2 ^ 32)

/-- `PKG_ADOPT` (R480). -/
def Pkg.adoptWord (p : Pkg) : W64 :=
  BitVec.ofNat 64 (bitsAt (p.csr.get (p.number.setWidth 64) 0x303) 0 10 + p.former.toNat * 2 ^ 10 + p.window.toNat * 2 ^ 21)

/-! ## Reads -/

def State.dieCsr (s : State) (d a : Nat) : W64 :=
  let k := s.die d
  match a with
  | 0x200 => k.faults.ctl
  | 0x208 => k.traps.ctl
  | 0x211 => k.walkStatus s.cycle
  | 0x219 => k.quarStatus
  | 0x21A => s.quiesce d
  | 0x228 => k.poolWord
  | 0x230 => k.elog.ctl
  | 0x235 => s.eccCount d
  | 0x205 => 0
  | 0x218 => 0
  | 0x251 => k.csr.get 0x40000 0x251
  | _ =>
    if 0x201 ≤ a ∧ a ≤ 0x204 then k.faults.entry (a - 0x201)
    else if 0x209 ≤ a ∧ a ≤ 0x20C then k.traps.entry (a - 0x209)
    else if 0x231 ≤ a ∧ a ≤ 0x234 then k.elog.entry (a - 0x231)
    else if 0x240 ≤ a ∧ a ≤ 0x24F then k.cmapRow (a - 0x240) &&& 0x1FFF
    else k.csr.get 0 a

def State.pkgCsr (s : State) (a : Nat) : W64 :=
  let p := s.pkg
  match a with
  | 0x300 => p.dispStatus
  | 0x301 => BitVec.ofNat 64 (p.fenced.toNat + p.fenceCause * 2 ^ 8)
  | 0x303 => p.adoptWord
  | 0x310 => p.rtCtl
  | 0x312 => p.route (bitsAt (p.csr.get 0 0x311) 10 1) (bitsAt (p.csr.get 0 0x311) 0 10)
  | 0x313 => s.rtStatus
  | 0x340 => p.time.word
  | 0x341 => p.time.sec
  | 0x350 => p.plimitWord
  | 0x368 => p.boot.word
  | _ => if 0x320 ≤ a ∧ a ≤ 0x33F then p.linkWord (a - 0x320) else p.csr.get 0 a

/-! ## Writes -/

/-- Writes the RW bits of a plain die register. -/
def State.dieRw (s : State) (d : Nat) (o : CsrOp) (a : Nat) (v mask : W64) : State :=
  s.modDie d fun k => { k with csr := k.csr.ins a ((o.rw (k.csr.get 0 a) v &&& mask) ||| (k.csr.get 0 a &&& ~~~mask)) }
def State.pkgRw (s : State) (o : CsrOp) (a : Nat) (v mask : W64) : State :=
  s.modPkg fun p => { p with csr := p.csr.ins a ((o.rw (p.csr.get 0 a) v &&& mask) ||| (p.csr.get 0 a &&& ~~~mask)) }

/-- The event of a DCP operation (R371). -/
def dcpEvent (op : Nat) : Option Instr :=
  match op with
  | 0 => some .dcpSelect
  | 1 => some .dcpResume
  | 2 => some .dcpStep
  | 3 => some .dcpKill
  | 4 => some .dcpPost
  | _ => none

/-- A write of `DCP_CMD`; GO with a reserved OP is refused with ERR. -/
def State.writeDcpCmd (s : State) (d : Nat) (o : CsrOp) (v : W64) : State :=
  let s := s.dieRw d o 0x20D v 0x1FFF
  if !(o.rsBits v).getLsbD 13 then s
  else
    let w := (s.die d).csr.get 0 0x20D
    match dcpEvent (bitsAt w 10 3) with
    | some i =>
      (s.modDie d fun k => { k with csr := k.csr.ins 0x20D (withBits w 13 1 1) }).post i
        { Args.empty with die := d, c := d * 256 + bitsAt w 0 8, x := bitsAt w 8 2 }
    | none => s.modDie d fun k => { k with csr := k.csr.ins 0x20D (withBits (withBits w 13 1 0) 14 1 1) }

/-- A write of `SCAN_CTL` (R483): while a test is in progress it changes only IE, and a GO is refused; with GO at any other
time it is decided whole by `SCAN_GO`. Log entry 11, DESIGN CHOICE. -/
def State.writeScanCtl (s : State) (d : Nat) (o : CsrOp) (v : W64) : State :=
  let w := s.dieCsr d 0x251
  let rw := o.rw w v
  let go := (o.rsBits v).getLsbD 8
  let busy := w.getLsbD 15 || w.getLsbD 16
  let put (t : State) (x : W64) : State := t.modDie d fun k => { k with csr := k.csr.ins 0x251 x }
  let s := if busy then put s (withBits w 18 1 (bitsAt rw 18 1))
    else if go then s
    else put s ((w &&& ~~~0x402FF#64) ||| (rw &&& 0x402FF#64))
  if go then s.post .scanGo { Args.empty with die := d, v := (rw &&& 0x402FF#64) ||| 0x100#64 } else s

def State.dieCsrWrite (s : State) (d : Nat) (o : CsrOp) (a : Nat) (v : W64) : State :=
  let go (b : Nat) : Bool := (o.rsBits v).getLsbD b
  let at_ : Args := { Args.empty with die := d }
  match a with
  | 0x200 =>
    let t := s.modDie d fun k => { k with faults := k.faults.ctlWrite o v }
    if go 9 then t.post .fbPop at_ else t
  | 0x208 =>
    let t := s.modDie d fun k => { k with traps := k.traps.ctlWrite o v }
    if go 9 then t.post .tqPop at_ else t
  | 0x230 =>
    let t := s.modDie d fun k => { k with elog := k.elog.ctlWrite o v }
    if go 9 then t.post .elogPop at_ else t
  | 0x205 =>
    let w := o.rw 0 v
    s.post .fbResp { at_ with n := bitsAt w 0 16, flag := w.getLsbD 16 }
  | 0x20D => s.writeDcpCmd d o v
  | 0x210 =>
    let t := s.dieRw d o 0x210 v 0x1FFFF
    if go 17 then
      (t.modDie d fun k => { k with csr := k.csr.ins 0x210 (withBits (k.csr.get 0 0x210) 17 1 1) }).post .xltInv at_
    else t
  | 0x218 => s.post .quarFree { at_ with v := o.rw 0 v }
  | 0x220 => s.dieRw d o a v (~~~0x3FFF)
  | 0x221 => s.dieRw d o a v 0xFFFF
  | 0x228 =>
    (s.modDie d fun k => { k with csr := k.csr.ins 0x228 (BitVec.ofNat 64 (bitsAt (o.rw (BitVec.ofNat 64 k.pool) v) 0 16)) }).post
      .powerGrant at_
  | 0x236 =>
    let t := s.dieRw d o a v 0xFFFF
    if go 16 then
      (t.modDie d fun k => { k with csr := k.csr.ins 0x236 (withBits (k.csr.get 0 0x236) 16 1 1) }).post .streamReset
        { at_ with stream := BitVec.ofNat 16 (bitsAt ((t.die d).csr.get 0 0x236) 0 16) }
    else t
  | 0x250 =>
    let w := o.rw ((s.die d).csr.get 0 0x250) v &&& 0xF
    let w := if bitsAt w 0 2 = 3 then w &&& ~~~3#64 else w
    let t := s.modDie d fun k => { k with csr := k.csr.ins 0x250 w }
    if go 4 then t.post .recArm at_ else t
  | 0x251 => s.writeScanCtl d o v
  | 0x252 => s.dieRw d o a v (~~~0)
  | _ =>
    if 0x240 ≤ a ∧ a ≤ 0x24F then
      s.post .cmapRowWrite { at_ with row := a - 0x240, v := o.rw ((s.die d).cmap.get 0x3FF (a - 0x240)) v &&& 0x3FF }
    else if 0x258 ≤ a ∧ a ≤ 0x25B then
      let t := s.dieRw d o a v (~~~0)
      (t.die d).regions.foldl (fun t r => t.post .configDrop { at_ with origin := r.origin })
        (t.post .configDrop { at_ with origin := 256 })
    else s

/-- An entry of a routing table that names port `p` no longer: its bundle keeps the longer run of ports beside `p`, and a
bundle of `p` alone leaves the destination unreachable. Log entry 109, DESIGN CHOICE. -/
def routeWithout (e : W64) (p : Nat) : W64 :=
  let i := (p + 32 - bitsAt e 0 5) % 32
  let n := bitsAt e 5 3
  if n < i then e
  else if n = 0 then withBits e 12 1 0
  else if n - i ≤ i then withBits e 5 3 (i - 1)
  else withBits (withBits e 0 5 ((p + 1) % 32)) 5 3 (n - i - 1)

/-- The PCP firmware prepares a routing generation that does not use the retired ports, in the slot that injection does not
use (R396, R428, R441). While that slot is still valid it waits: a generation is prepared when the slot is made invalid.
Log entry 109, DESIGN CHOICE. -/
def Pkg.prepared (p : Pkg) : Pkg :=
  let k := p.inj
  if p.genValid (1 - k) || !p.genValid k then p
  else
    let ports := (List.range 32).filter p.retired.getLsbD
    let without (e : W64) : W64 := ports.foldl routeWithout e
    let mine := p.routes.filter fun e => e.1 / 1024 == k
    let w := withBits p.rtCtl (8 * (1 - k)) 5 ((p.gen k + 1) % 16 + 16)
    { p with
      routes := mine.foldl (fun t e => t.ins ((1 - k) * 1024 + e.1 % 1024) (without e.2)) mine
      csr := p.csr.ins 0x310 w }

/-- Whether the current generation still uses a retired port. Log entry 109, DESIGN CHOICE. -/
def Pkg.owes (p : Pkg) : Bool :=
  p.routes.any fun e => e.1 / 1024 == p.inj && (List.range 32).any fun n => p.retired.getLsbD n && routeWithout e.2 n != e.2

/-- A write of `RT_CTL` (R394): a generation changes only while its slot is invalid. A generation that the
PCP owes follows the clearing of its slot (R449). Log entry 109, DESIGN CHOICE. -/
def State.writeRtCtl (s : State) (o : CsrOp) (v : W64) : State :=
  let old := s.pkg.rtCtl
  let w := o.rw old v &&& 0xFF3F1F#64
  let w := if old.getLsbD 4 then withBits w 0 4 (bitsAt old 0 4) else w
  let w := if old.getLsbD 12 then withBits w 8 4 (bitsAt old 8 4) else w
  let arm := (o.rsBits v).getLsbD 14 || old.getLsbD 14
  let s := s.modPkg fun p =>
    let p := { p with csr := p.csr.ins 0x310 (withBits w 14 1 arm.toNat) }
    if p.owes then p.prepared else p
  if arm then { s with timers := s.timers ++ [((s.pkg.csr.get 0 0x314).toNat * 45000 - s.pkg.time.stepped, ⟨.generationSwap, Args.empty⟩)] }
  else s

/-- The event of a key operation (R408). -/
def keyEvent (op : Nat) : Option Instr :=
  match op with
  | 1 => some .keyLoad
  | 2 => some .keyErase
  | 3 => some .keyBindtx
  | 4 => some .keyBindrx
  | 5 => some .keyRekey
  | _ => none

def State.writeKeyCmd (s : State) (o : CsrOp) (v : W64) : State :=
  let s := s.pkgRw o 0x360 v 0xFFFFFFFF007FFFFF
  if !(o.rsBits v).getLsbD 23 then s
  else
    let w := s.pkg.csr.get 0 0x360
    match keyEvent (bitsAt w 13 3) with
    | some i =>
      (s.modPkg fun p => { p with csr := p.csr.ins 0x360 (withBits w 23 1 1) }).post i { Args.empty with
        slot := bitsAt w 0 13
        usage := bitsAt w 16 2
        p := bitsAt w 18 5
        src := bitsAt w 32 32 }
    | none => s.modPkg fun p => { p with csr := p.csr.ins 0x360 (withBits (withBits w 23 1 0) 24 1 1) }

/-- The PCP firmware sets the pool of every die by the package limit (R407): none is left below 2,000 W. -/
def State.setPools (s : State) : State :=
  (List.range 8).foldl (fun t d =>
    (t.modDie d fun k => { k with csr := k.csr.ins 0x228 (withBits (k.csr.get 8192 0x228) 0 16 ((t.pkg.plimit - 2000) * 8192 / 1600)) }).post
      .powerGrant { Args.empty with die := d }) s

/-- Log entry 61, DESIGN CHOICE. -/
def State.pkgCsrWrite (s : State) (o : CsrOp) (a : Nat) (v : W64) : State :=
  match a with
  | 0x301 =>
    (List.range 8).foldl (fun t d =>
      if (o.rsBits v).getLsbD d && !s.pkg.fenced.getLsbD d then t.post .dieFence { Args.empty with die := d, n := 5 }
      else t) s
  | 0x303 =>
    let w := o.rw s.pkg.adoptWord v
    let t := s.modPkg fun p => { p with csr := p.csr.ins 0x303 (w &&& 0x3FF) }
    if (o.rsBits v).getLsbD 20 then t.post .pkgAdopt { Args.empty with n := bitsAt w 0 10 } else t
  | 0x310 => s.writeRtCtl o v
  | 0x311 => s.pkgRw o a v 0x7FF
  | 0x312 => s.post .rtDataWrite { Args.empty with v := o.rw (s.pkgCsr 0x312) v }
  | 0x314 =>
    let t := s.pkgRw o a v (~~~0)
    if t.pkg.rtCtl.getLsbD 14 then
      { t with timers := t.timers ++ [((t.pkg.csr.get 0 0x314).toNat * 45000 - t.pkg.time.stepped, ⟨.generationSwap, Args.empty⟩)] }
    else t
  | 0x340 => s.modPkg fun p => { p with time := { p.time with ppsIn := (o.rw p.time.word v).getLsbD 11 } }
  | 0x341 => s.modPkg fun p => { p with time := { p.time with sec := o.rw p.time.sec v, secLive := true } }
  | 0x350 => (s.modPkg fun p => { p with plimit := max 1000 (min 4200 (bitsAt (o.rw p.plimitWord v) 0 13)) }).setPools
  | 0x360 => s.writeKeyCmd o v
  | _ =>
    if 0x320 ≤ a ∧ a ≤ 0x33F then
      let l := s.pkg.link (a - 0x320)
      let en := (o.rw (s.pkg.linkWord (a - 0x320)) v).getLsbD 4
      if en = l.en then s else s.post .linkEnable { Args.empty with p := a - 0x320, flag := en }
    else s

/-! ## Any CSR -/

/-- Any CSR as context `x` of cell `c` reads it. -/
def State.csrOf (s : State) (c x a : Nat) : W64 :=
  if a < 0x100 then (s.ctxOf c x).csr x a
  else if a < 0x200 then s.cellCsr c a
  else if a < 0x300 then s.dieCsr (dieOf c) a
  else s.pkgCsr a

/-- A write of any CSR by context `x` of cell `c`. -/
def State.csrPut (s : State) (c x : Nat) (o : CsrOp) (a : Nat) (v : W64) (sup : Bool) : State :=
  if a < 0x100 then s.modCtxOf c x fun t =>
    let y := t.csrWrite o a v sup
    if a = 0x018 then { y with reachNext := y.reachNext ++ [⟨.scalar, 0, pairReg 7, 1, s.clock c⟩] } else y
  else if a < 0x200 then s.cellCsrWrite c o a v sup
  else if !sup then s
  else if a < 0x300 then s.dieCsrWrite (dieOf c) o a v
  else s.pkgCsrWrite o a v

/-! ## The CSR instructions (R174) -/

/-- In user mode a die or package CSR raises PRIV (R126). -/
def State.csrPriv (s : State) (a : BitVec 12) : Bool := !s.was.supervisor && decide (0x200 ≤ a.toNat)

/-- `CSRR`: the value in the issue cycle, before any write of the bundle; bound 2. -/
def execCsrr (d : BitVec 6) (c : BitVec 12) (s : State) : Out :=
  .next (
    if s.csrPriv c then s.stop 0x03 0
    else
      let t := s.putCell s.focus.cell s.seen
      s.wsLate d (t.csrOf s.focus.cell s.focus.ctx c.toNat) 2)

def State.csrExec (s : State) (o : CsrOp) (d : BitVec 6) (c : BitVec 12) : State :=
  if s.csrPriv c then s.stop 0x03 0
  else s.csrPut s.focus.cell s.focus.ctx o c.toNat (s.rs d) s.was.supervisor

def execCsrw (d : BitVec 6) (c : BitVec 12) (s : State) : Out := .next (s.csrExec .write d c)
def execCsrs (d : BitVec 6) (c : BitVec 12) (s : State) : Out := .next (s.csrExec .set d c)
def execCsrc (d : BitVec 6) (c : BitVec 12) (s : State) : Out := .next (s.csrExec .clear d c)

/-! ## The CSR window as memory (R71, R230) -/

/-- The bytes of the window from an offset, in the CSRs that hold them. Log entry 72, DEDUCED. -/
def State.windowBytes (s : State) (c x off n : Nat) : List Byte :=
  (List.range n).map fun i =>
    BitVec.ofNat 8 ((s.csrOf c x ((off + i) / 8)).toNat / 256 ^ ((off + i) % 8))

/-- A store to one CSR of the window: a `CSRW` of the stored bytes, with the CSR's own RW bits and zeros for its W1C and
RS bits in every other byte (R230). Log entry 72, DEDUCED. -/
def State.windowStore (s : State) (c x off : Nat) (l : List Byte) (sup : Bool) : State :=
  let a := off / 8
  let sh := 8 * (off % 8)
  let m : W64 := BitVec.ofNat 64 ((2 ^ (8 * l.length) - 1) * 2 ^ sh)
  let v : W64 := BitVec.ofNat 64 (ofBytes l * 2 ^ sh)
  s.csrPut c x .write a ((s.csrOf c x a &&& ~~~stickyBits a &&& ~~~m) ||| v) sup

end Sys2Proof.Machine
end

