-- ==== Sys2Proof/Machine/Recorder.lean ====
section
/-! DEFINITION. The Psilys recorder of a cell (R465-R468): its log in the pair's deep store, HORIZON and HSEQ, and the
replay of logged AMO results, time reads and task starts. -/

namespace Sys2Proof.Machine
open Sys2Proof

/-- `REC_CTL` of the cell's die. -/
def State.recCtl (s : State) (c : Nat) : W64 := (s.die (dieOf c)).csr.get 0 0x250
def State.recording (s : State) (c : Nat) : Bool := bitsAt (s.recCtl c) 0 2 == 1
def State.replaying (s : State) (c : Nat) : Bool := bitsAt (s.recCtl c) 0 2 == 2

/-- Flat address of record `k` of a cell's log. -/
def recKey (c k : Nat) : Nat := flat c 1 (0x2FC0000 + (isC c).toNat * 0x10000 + 32 * k)

def State.recNext (s : State) (c : Nat) : Nat := bitsAt (s.cell c).recStat 0 11
def State.recFull (s : State) (c : Nat) : Bool := (s.cell c).recStat.getLsbD 11

/-- The 32 bytes of a record (R465). -/
def recBytes (time : W64) (kind b9 : Nat) (fail : Bool) (pc slot : Nat) (d0 d1 : W64) : List Byte :=
  toBytes 8 time.toNat ++ toBytes 4 (kind + b9 * 256 + fail.toNat * 65536) ++ toBytes 4 (pc % 2 ^ 17 + slot * 2 ^ 17)
    ++ toBytes 8 d0.toNat ++ toBytes 8 d1.toNat

/-- The number of the oldest chunk of a tag that is not bound to a task (R466). -/
def TagSt.oldestUnbound (t : TagSt) : BitVec 32 :=
  ((List.range (t.expC - t.ackC).toNat).map (fun i => t.ackC + BitVec.ofNat 32 i)).find? (fun n =>
      let r := t.ring.get RingSlot.reset (n.toNat % max t.slots 1)
      r.use == .resident) |>.getD t.expC

/-- Writes HORIZON at record 2,031 and one HSEQ record per configured tag. -/
def State.recHorizon (s : State) (c : Nat) : State :=
  let k := s.cell c
  let s := s.overwrite (recKey c 2031)
    (recBytes s.tai 4 0 false 0 0 s.tai (BitVec.ofNat 64 k.tags.length))
  let s := (List.range k.tags.length).foldl (fun s i =>
    match k.tags[i]? with
    | some (t, g) => s.overwrite (recKey c (2032 + i)) (recBytes s.tai 5 (t * 4) false 0 0
        (BitVec.ofNat 64 (g.stream.toNat + g.oldestUnbound.toNat * 2 ^ 32)) 0)
    | none => s) s
  s.modCell c fun k => { k with recStat := BitVec.ofNat 64 (2031 + 2 ^ 11) }

/-- Logs an event; the event that would need record 2,031 becomes HORIZON, after which nothing is logged.
Log entry 50, DEDUCED. -/
def State.recLog (s : State) (c kind b9 : Nat) (fail : Bool) (pc slot : Nat) (d0 d1 : W64) : State :=
  if s.recFull c then s
  else if s.recNext c < 2031 then
    (s.overwrite (recKey c (s.recNext c)) (recBytes s.tai kind b9 fail pc slot d0 d1)).modCell c fun k =>
      { k with recStat := k.recStat + 1 }
  else s.recHorizon c

/-- The next record of a replay. -/
def State.recNextBytes (s : State) (c : Nat) : List Byte := s.readBytes (recKey c (s.recNext c)) 32
def State.recKindNext (s : State) (c : Nat) : Nat := field (s.recNextBytes c) 8 1
/-- Replay has reached HORIZON (R468). Log entry 96, DEDUCED. -/
def State.replayEnded (s : State) (c : Nat) : Bool := s.replaying c && s.recKindNext c == 4
/-- Log entry 96, DEDUCED. -/
def State.recAdvance (s : State) (c : Nat) : State := s.modCell c fun k => { k with recStat := k.recStat + 1 }

/-- The record that an instruction of the issuing context replays: none where the next record differs from it.
Log entry 96, DEDUCED. -/
def State.replayRecord (s : State) (kind : Nat) : Option (List Byte) :=
  let r := s.recNextBytes s.focus.cell
  if field r 8 1 = kind ∧ field r 12 4 = s.focus.pc % 2 ^ 17 + s.focus.slot * 2 ^ 17
  then some r else none

/-- `RDTIME` (R175): TIME of the issue cycle, bound 2; logged, or taken from the log, where TIMEREAD is set (R468). -/
def execRdtime (d : BitVec 6) (s : State) : Out :=
  .next (
    let c := s.focus.cell
    if !(s.recCtl c).getLsbD 2 then s.wsLate d s.tai 2
    else if s.replaying c then
      match s.replayRecord 3 with
      | some r => (s.recAdvance c).wsLate d (BitVec.ofNat 64 (field r 16 8)) 2
      | none => s.stop 0x10 0
    else if s.recording c then
      (s.recLog c 3 s.focus.ctx false s.focus.pc s.focus.slot s.tai 0).wsLate d s.tai 2
    else s.wsLate d s.tai 2)

end Sys2Proof.Machine
end

