-- ==== Sys2Proof/Machine/Trace.lean ====
section
/-! DEFINITION. The trace engine (R275, R457-R459): forming records, buffering them, writing them to the ring, `TMARK`
and the counter capture sets (R177, R455, R456). -/

namespace Sys2Proof.Machine
open Sys2Proof

/-- Writes the oldest buffered record to the ring, and a LOST record behind it where records were dropped. `wraps` counts
those dropped since the last LOST record. -/
def State.traceWriteOne (s : State) (c : Nat) : State :=
  let t := (s.cell c).trace
  match t.pend with
  | [] => s
  | r :: rest =>
    let cap := t.size * 128
    let s := (s.globalWrite (t.base + BitVec.ofNat 64 (32 * (t.pos % max cap 1))) r).modCell c fun k =>
      { k with trace := { k.trace with pend := rest, pos := k.trace.pos + 1 } }
    if t.wraps = 0 then s
    else
      (s.modCell c fun k => { k with trace := { k.trace with
          wraps := 0
          pend := k.trace.pend ++ [s.traceBytes c 15 none 0 0 (BitVec.ofNat 64 t.wraps) 0] } }).post
        .traceRecordWrite { Args.empty with c := c }

def execTraceRecordWrite (s : State) : Out := .next (s.traceWriteOne s.args.c)

/-- `TMARK` (R176): a MARK record with payload rs(a) and code imm8. -/
def execTmark (a : BitVec 6) (i : BitVec 8) (s : State) : Out :=
  .next (s.trace s.focus.cell 1 (some s.focus.ctx) s.focus.pc s.focus.slot (s.rs a) (i.setWidth 64))

/-! ## Capture sets -/

def Ctx.cap (x : Ctx) (n : Nat) : CapSet := x.caps.get CapSet.reset n
def Ctx.putCap (x : Ctx) (n : Nat) (k : CapSet) : Ctx := { x with caps := x.caps.ins n k }
def Ctx.capCode (x : Ctx) (n : Nat) : Nat := bitsAt (x.capEvent.get 0 n) 0 6

/-- Adds to every running set of a bank that counts the event by the selection `sel`. -/
def Ctx.countBy (x : Ctx) (sel : Tab W64) (code n : Nat) : Ctx :=
  if n = 0 then x else
  { x with caps := x.caps.map fun e =>
      if e.2.running && bitsAt (sel.get 0 e.1) 0 6 == code then
        (e.1, { e.2 with count := min (e.2.count + n) (2 ^ 48 - 1) }) else e }
/-- The same by the context's own `CAP_EVENTn`. -/
def Ctx.count (x : Ctx) (code n : Nat) : Ctx := x.countBy x.capEvent code n

/-- `CTRSTART`: zeroes the set and starts it. -/
def execCtrstart (n : BitVec 4) (s : State) : Out :=
  .next (s.modCtx fun x => x.putCap n.toNat ⟨true, false, 0⟩)

/-- Stops a running set and emits its record (R456). -/
def State.stopCap (s : State) (c x n pc slot : Nat) : State :=
  let k := (s.ctxOf c x).cap n
  if !k.running then s
  else
    (s.modCtxOf c x fun t => t.putCap n { k with running := false }).trace c 3 (some x) pc slot
      (BitVec.ofNat 64 k.count)
      (BitVec.ofNat 64 (n + k.evicted.toNat * 16 + (s.ctxOf c x).capCode n * 32))

def execCtrstop (n : BitVec 4) (s : State) : Out :=
  .next (s.stopCap s.focus.cell s.focus.ctx n.toNat s.focus.pc s.focus.slot)

end Sys2Proof.Machine
end

