-- ==== Sys2Proof/Machine/ErrorLog.lean ====
section
/-! DEFINITION. Record queues of a die (R370), the die error log (R422, R423), poisoned words and the consumption of
uncorrectable errors (R421). -/

namespace Sys2Proof.Machine
open Sys2Proof

/-! ## Record queues -/

/-- Posts a record, or holds it at its source while the queue is full. Log entry 11, DESIGN CHOICE. -/
def LogQueue.push (q : LogQueue) (cap : Nat) (r : List W64) : LogQueue :=
  if q.items.length < cap then { q with items := q.items ++ [r] }
  else { q with held := q.held ++ [r], ovf := true, ovfcnt := min (q.ovfcnt + 1) 0xFFFF }

/-- POP: removes the oldest entry; a held record is posted as space frees. -/
def LogQueue.pop (q : LogQueue) : LogQueue :=
  match q.items, q.held with
  | [], _ => q
  | _ :: t, [] => { q with items := t }
  | _ :: t, h :: hs => { q with items := t ++ [h], held := hs }

/-! ## The die error log -/

/-- Word 1 of an error record: kind, reporting cell or point, link port, HOP KIND, SUB, one event. -/
def elogWord1 (kind cell port hopKind sub : Nat) : W64 :=
  BitVec.ofNat 64 (kind + cell % 256 * 2 ^ 8 + port % 32 * 2 ^ 16 + hopKind % 8 * 2 ^ 21 + sub % 256 * 2 ^ 24 + 2 ^ 32)

/-- Logs an error record on a die, and traces it on the cell that made it (R458). A CE record that finds the log full is
dropped. -/
def State.logError (s : State) (d : Nat) (src : Option Nat) (w1 w2 w3 : W64) : State :=
  let s := s.modDie d fun k =>
    if w1.toNat % 256 = 1 ∧ 128 ≤ k.elog.items.length then k
    else { k with elog := k.elog.push 128 [s.tai, w1, w2, w3] }
  match src with
  | some c => s.trace c 8 none 0 0 w1 w2
  | none => s

/-- A record made by a cell, of the given kind and SUB. -/
def State.logCell (s : State) (c kind sub : Nat) (w2 w3 : W64) : State :=
  s.logError (dieOf c) (some c) (elogWord1 kind (c % 256) 0 0 sub) w2 w3

/-! ## Consumption of uncorrectable errors (R421) -/

/-- Asks the DCP to kill the configuration that has a `REGION_ID` on a cell: the loaded one, or an evicted one, by its
serial (R432). -/
def State.askKillOf (s : State) (c : Nat) (id : W64) (trigger : Nat) : State :=
  s.post .regionKill { Args.empty with die := dieOf c, origin := bitsAt id 0 8, k := bitsAt id 16 32, n := trigger }

/-- Asks the DCP to kill the region of a cell (R432); a cell without a configuration lies in none. -/
def State.askKill (s : State) (c trigger : Nat) : State :=
  if (s.cell c).loaded then s.askKillOf c (s.cell c).regionId trigger else s

/-- Store kind of a place in memory (R423). -/
def storeKind (key : Nat) : Nat := flatSpace key

/-- Word 3 of the record of a consumed error: context, bundle address and slot (R423). -/
def consumedBy (x pc slot : Nat) : W64 := BitVec.ofNat 64 (x + pc / 4 % 2 ^ 15 * 4 + slot * 2 ^ 17)

/-- Counts and logs a poisoned word that a context consumes. -/
def State.logConsumed (s : State) (c x pc slot key : Nat) : State :=
  (s.modDie (dieOf c) fun k => { k with eccUe := min (k.eccUe + 1) 0xFFFF }).logCell c 2 (storeKind key + 0x80)
    (BitVec.ofNat 64 (key % 2 ^ 43)) (consumedBy x pc slot)

/-- Consumption by a slot of the issuing context: UE_CONSUMED at the slot, a UE record, and the region's kill. -/
def State.consume (s : State) (key : Nat) : State :=
  ((s.logConsumed s.focus.cell s.focus.ctx s.focus.pc s.focus.slot key).stop 0x0B 0).askKill s.focus.cell 0

end Sys2Proof.Machine
end

