-- ==== Sys2Proof/Machine/SaveArea.lean ====
section
/-! DEFINITION. The save area of an evicted context (R365), and the banks of tasks that are not resident: evicted ones, and
those of an evicted configuration (R39, R40). -/

namespace Sys2Proof.Machine
open Sys2Proof

/-! ## The save area (R365) -/

/-- Codes of the context states in the header of a save area, in the order of R21: log entry 20. -/
def stateCode (x : Ctx) : Nat :=
  match x.st with
  | .free => 0
  | .ready => 1
  | .blocked => 3
  | .waiting => 4
  | .stopped => 5
  | .evicted => 6

/-- A latch entry of 72 bytes. Log entry 20, DESIGN CHOICE. -/
def latchBytes (e : Landing) : List Byte :=
  let kind := match e.kind with
    | .vec => 0
    | .lanePred => 2
    | _ => 1
  toBytes 64 e.val.toNat ++ [BitVec.ofNat 8 kind, BitVec.ofNat 8 e.reg, BitVec.ofNat 8 e.cl, BitVec.ofNat 8 e.due]
    ++ toBytes 2 e.mask.toNat ++ [BitVec.ofNat 8 (e.flags.toNat / 256 % 32), 0]

/-- Registers whose interlocked results are outstanding. -/
def Ctx.scalarLocks (x : Ctx) : Nat :=
  x.awaits.foldl (fun m w => if w.kind == .load || w.kind == .amo || w.kind == .xlt then m ||| 2 ^ w.reg else m) 0
def Ctx.vectorLocks (x : Ctx) : Nat :=
  x.awaits.foldl (fun m w =>
    if w.kind == .vload then (List.range 8).foldl (fun m k => if w.clusters.getLsbD k then m ||| 2 ^ (32 * k + w.reg) else m) m
    else m) 0

/-- An order of the DCP in the header of a save area (R372): 0 none, 1 RESUME, 2 STEP. Log entry 20, DESIGN CHOICE. -/
def orderCode (x : Ctx) : Nat :=
  match x.order with
  | none => 0
  | some step => if step then 2 else 1

/-- The 32 KiB of a save area; landing cycles of the bank are already remaining offsets. Log entry 20, DESIGN CHOICE.
Log entry 49, DEDUCED. -/
def saveBytes (x : Ctx) (num : Nat) : List Byte :=
  let wait := match x.hold with
    | .time t => t.toNat
    | _ => 0
  toBytes 4 0x56455843 ++ [BitVec.ofNat 8 num, BitVec.ofNat 8 (stateCode x),
      BitVec.ofNat 8 (x.supervisor.toNat + 2 * x.hidden.toNat), 0]
    ++ toBytes 8 x.pc ++ toBytes 8 x.scalarLocks ++ toBytes 8 wait ++ toBytes 2 x.land.length ++ toBytes 2 x.grant
    ++ [BitVec.ofNat 8 (orderCode x)] ++ zeros 27
    ++ (List.range 64).flatMap (fun n => toBytes 8 (x.rs n).toNat)
    ++ (List.range 64).flatMap (fun n => toBytes 2 (x.qr (n / 8) (n % 8)).toNat)
    ++ (List.range 256).flatMap (fun n => toBytes 2 (x.vr (n / 32) (n % 32)).emp.toNat)
    ++ toBytes 32 x.vectorLocks ++ zeros 32
    ++ (List.range 256).flatMap (fun a => toBytes 8 (x.csr num a).toNat)
    ++ zeros 768
    ++ (List.range 256).flatMap (fun n => toBytes 64 (x.vr (n / 32) (n % 32)).val.toNat)
    ++ (x.land.take 160).flatMap latchBytes ++ zeros (72 * (160 - x.land.length)) ++ zeros 768

/-! ## Banks of tasks that are not resident -/

/-- Rewrites the bytes in which two images of a save area differ. -/
def State.saveDelta (s : State) (area : Nat) (old new : List Byte) : State :=
  ((List.range old.length).filter fun i => old.getD i 0 != new.getD i 0).foldl (fun t i => t.setByte (area + i) (new.getD i 0)) s

/-- Global address of the i-th spill frame. -/
def State.spillFrame (s : State) (d i : Nat) : W64 :=
  ((s.die d).csr.get 0 0x220 &&& ~~~0x3FFF#64) + BitVec.ofNat 64 (i * 0x4000)

/-- Exchanges claimed pages of a cell's scratch with the frames that hold them, errors included. -/
def State.swapPages (s : State) (c : Nat) (pages : List (Nat × Nat)) : State :=
  pages.foldl (fun t p =>
    let a := flat c 0 (p.1 * 0x4000)
    let b := flatOf (t.spillFrame (dieOf c) p.2)
    let la := t.readBytes a 0x4000
    let lb := t.readBytes b 0x4000
    let to_ (k : Nat) : Nat :=
      if a ≤ k ∧ k < a + 0x4000 then b + (k - a) else if b ≤ k ∧ k < b + 0x4000 then a + (k - b) else k
    let t := (t.writeBytes a lb).writeBytes b la
    { t with poison := t.poison.foldl (fun (l : Tab Bool) e => l.ins (to_ e.1) e.2) [] }) s

/-- A configuration's part of a cell, with what belongs to the physical cell as it is now. -/
def Cell.onPhysical (was now : Cell) : Cell :=
  { was with
    cur := none
    last := now.last
    home := now.home
    entering := now.entering
    froze := now.froze
    started := now.started
    orphans := now.orphans
    switched := now.switched
    busyTil := now.busyTil
    frozen := now.frozen
    weights := now.weights
    lastF := now.lastF
    freezeCnt := now.freezeCnt
    rwHits := now.rwHits
    trace := now.trace
    profSel := now.profSel
    prof := now.prof
    profStart := now.profStart
    fired := now.fired
    loading := now.loading
    recStat := now.recStat
    bps := now.bps
    wv := now.wv
    ws := now.ws
    nextId := max was.nextId now.nextId
    nextTask := max was.nextTask now.nextTask }

/-- The full bits of a cell's scratch, and the table with them in its place. -/
def State.fullOf (s : State) (c : Nat) : Tab Bool :=
  s.full.filter fun e => decide (flat c 0 0 ≤ e.1) && decide (e.1 < flat c 0 0 + spaceSize c 0)
def State.putFull (s : State) (c : Nat) (l : Tab Bool) : State :=
  let rest := s.full.filter fun e => !(decide (flat c 0 0 ≤ e.1) && decide (e.1 < flat c 0 0 + spaceSize c 0))
  { s with full := l.foldl (fun (t : Tab Bool) (e : Nat × Bool) => t.ins e.1 e.2) rest }

/-- Carries out an operation on an evicted configuration of a cell (R40): its cell record, pages and full bits stand in the
cell's place meanwhile. The streams, save areas and engines' counters of an evicted configuration are served so.
Log entry 53, DESIGN CHOICE. -/
def State.onShelf (s : State) (h : Shelf) (f : State → State) : State :=
  let c := h.cell
  let d := dieOf c
  let live := s.cell c
  let liveFull := s.fullOf c
  let i := (s.die d).shelf.findIdx fun q => q == h
  let s := s.modDie d fun k => { k with shelf := k.shelf.eraseIdx i }
  let t := f (((s.putCell c (h.was.onPhysical live)).putFull c h.full).swapPages c h.pages)
  let w := t.cell c
  let h' := { h with was := w, full := t.fullOf c }
  let live := { live with
    nextId := w.nextId
    nextTask := w.nextTask
    orphans := w.orphans
    trace := w.trace
    prof := w.prof
    fired := w.fired }
  (((t.swapPages c h.pages).putFull c liveFull).putCell c live).modDie d fun k =>
    { k with shelf := k.shelf.take i ++ [h'] ++ k.shelf.drop i }

/-- Changes the banks that satisfy a condition among the evicted tasks of a cell's configuration, with their save areas
(R171). -/
def State.modSavedOf (s : State) (c : Nat) (sel : Ctx → Bool) (f : Ctx → Ctx) : State :=
  let g (v : Saved) : Saved := if sel v.bank then { v with bank := f v.bank } else v
  let s := (s.cell c).saved.foldl (fun t v =>
    if sel v.bank then t.saveDelta v.area (saveBytes v.bank v.num) (saveBytes (f v.bank) v.num) else t) s
  if (s.cell c).saved.any (fun v => sel v.bank) then s.modCell c fun k => { k with saved := k.saved.map g } else s

/-- The same, and among those of its evicted configurations. -/
def State.modAway (s : State) (c : Nat) (sel : Ctx → Bool) (f : Ctx → Ctx) : State :=
  ((s.die (dieOf c)).shelf.filter fun h => h.cell == c && h.was.saved.any fun v => sel v.bank).foldl
    (fun t h => t.onShelf h fun u => u.modSavedOf c sel f) (s.modSavedOf c sel f)

/-- The banks of the tasks of a cell that are not resident. -/
def State.away (s : State) (c : Nat) : List Ctx :=
  (s.cell c).saved.map Saved.bank ++
    ((s.die (dieOf c)).shelf.filter fun h => h.cell == c).flatMap fun h => h.was.saved.map Saved.bank

/-- Changes the bank that holds the operation numbered `id` of a cell: its context's, or that of a task which is not
resident. -/
def State.modBank (s : State) (c x id : Nat) (f : Ctx → Ctx) : State :=
  if (s.ctxOf c x).awaits.any fun w => w.id == id then s.modCtxOf c x f
  else s.modAway c (fun b => b.awaits.any fun w => w.id == id) f

/-- Changes the bank of a task, resident in context `x` or not. -/
def State.modTask (s : State) (c x task : Nat) (f : Ctx → Ctx) : State :=
  if (s.ctxOf c x).task = task then s.modCtxOf c x f else s.modAway c (fun b => b.task == task) f

/-- The waiting operation numbered `id` of a cell. -/
def State.awaited (s : State) (c x id : Nat) : Option Await :=
  ((s.ctxOf c x).awaits ++ (s.away c).flatMap fun b => b.awaits).find? fun w => w.id == id

end Sys2Proof.Machine
end

