-- ==== Sys2Proof/Machine/Tables.lean ====
section
/-! DEFINITION. Tile tables as memory: which stores change one (R79), and what translation sees of a store until its context
has executed a `FENCE` that covers it (R300). -/

namespace Sys2Proof.Machine
open Sys2Proof

def Tensor.dim (t : Tensor) (i : Nat) : Nat := t.dims.getD i 1
def Tensor.size (t : Tensor) (i : Nat) : Nat := 2 ^ t.shape.getD i 0
/-- Tiles of a tensor. -/
def Tensor.tiles (t : Tensor) : Nat :=
  (List.range 4).foldl (fun n i => n * ((t.dim i + t.size i - 1) / t.size i)) 1

/-- Whether the table of a tensor, 8 bytes for each tile, holds a byte of the range. -/
def Tensor.tableMeets (t : Tensor) (key n : Nat) : Bool :=
  decide (flatOf t.table < key + n) && decide (key < flatOf t.table + 8 * t.tiles)

/-- Dies whose agents translate through a table that holds a byte of the range. -/
def State.tableDies (s : State) (key n : Nat) : List Nat :=
  (s.dies.filter fun d => d.2.tensors.any fun t => aPkg t.2.table == s.pkg.number && t.2.tableMeets key n).map Prod.fst

/-- A context's store to a tile table: translation goes on seeing the bytes before it. -/
def State.noteTable (s : State) (c x oc key n : Nat) : State :=
  if (s.tableDies key n).isEmpty then s
  else { s with unseen := s.unseen ++ (List.range n).map fun i => (key + i, s.byte (key + i), c, x, oc) }

/-- A byte of a tile table as translation sees it. -/
def State.tableByte (s : State) (k : Nat) : Byte :=
  match s.unseen.find? fun e => e.1 == k with
  | some e => e.2.1
  | none => s.byte k

/-- `n` bytes of a tile table as translation sees them. -/
def State.tableBytes (s : State) (k n : Nat) : List Byte := (List.range n).map fun i => s.tableByte (k + i)

end Sys2Proof.Machine
end

