-- ==== Sys2Proof/Machine/Flags.lean ====
section
/-! DEFINITION. The sticky floating-point flags and the controls of `FPCTL` (R53-R55). A set of flags is a number with
one bit each, placed at `FPCTL`[12:8] when it lands. -/

namespace Sys2Proof.Machine
open Sys2Proof

/-- A set of flags: NV 1, DZ 2, OF 4, UF 8, NX 16. -/
abbrev Flags := BitVec 5
def fNV : Flags := 1
def fDZ : Flags := 2
def fOF : Flags := 4
def fUF : Flags := 8
def fNX : Flags := 16

/-- The place of a flag set in `FPCTL`. -/
def Flags.word (f : Flags) : W64 := f.setWidth 64 <<< 8

/-- The rounding modes of R53. -/
inductive RMode where
  | rne | rtz | rup | rdn
  deriving DecidableEq, Repr

def rmodeOf (w : W64) : RMode :=
  match w.extractLsb' 0 2 with
  | 0 => .rne
  | 1 => .rtz
  | 2 => .rup
  | _ => .rdn

/-- The floating-point controls in force when a bundle issues (R54). -/
structure FpCtl where
  rm : RMode
  ftz : Bool
  e5inf : Bool
  deriving DecidableEq, Repr

def fpCtlOf (w : W64) : FpCtl := ⟨rmodeOf w, w.getLsbD 2, w.getLsbD 3⟩
def State.fpc (s : State) : FpCtl := fpCtlOf s.was.fpctl
/-- Nearest-even with subnormals kept: the arithmetic of the matrix path, AX64 and rewrite factors. -/
def FpCtl.exact : FpCtl := ⟨.rne, false, false⟩

end Sys2Proof.Machine
end

