-- ==== Sys2Proof/Machine/Float.lean ====
section
/-! DEFINITION. Floating-point formats and arithmetic (R43-R48, R53-R57): every operation computes the exact value as a
scaled integer and rounds it once. -/

namespace Sys2Proof.Machine
open Sys2Proof

/-! ## Formats -/

/-- A sign-magnitude format: mantissa bits, exponent of the smallest normal, largest finite magnitude code, code of
infinity where there is one, canonical NaN, and width. -/
structure Fmt where
  M : Nat
  emin : Int
  maxc : Nat
  inf : Option Nat
  nan : Nat
  width : Nat
  deriving DecidableEq, Repr

def fp32 : Fmt := ⟨23, -126, 0x7F7FFFFF, some 0x7F800000, 0x7FC00000, 32⟩
def fp16 : Fmt := ⟨10, -14, 0x7BFF, some 0x7C00, 0x7E00, 16⟩
def bf16 : Fmt := ⟨7, -126, 0x7F7F, some 0x7F80, 0x7FC0, 16⟩
def e4m3 : Fmt := ⟨3, -6, 0x7E, none, 0x7F, 8⟩
def e5m2 : Fmt := ⟨2, -14, 0x7B, some 0x7C, 0x7E, 8⟩
def e2m3 : Fmt := ⟨3, 0, 0x1F, none, 0x1F, 6⟩
def e3m2 : Fmt := ⟨2, -2, 0x1F, none, 0x1F, 6⟩
def e2m1 : Fmt := ⟨1, 0, 0x7, none, 0x7, 4⟩

/-- A value: NaN with its signalling mark, infinity, or (−1)^neg × m × 2^e. -/
inductive FVal where
  | nan (signalling : Bool)
  | inf (neg : Bool)
  | fin (neg : Bool) (m : Nat) (e : Int)
  deriving DecidableEq, Repr

/-- The magnitude of a finite magnitude code. -/
def Fmt.mag (f : Fmt) (c : Nat) : Nat × Int :=
  let x := c / 2 ^ f.M
  let r := c % 2 ^ f.M
  if x = 0 then (r, f.emin - f.M) else (2 ^ f.M + r, f.emin - f.M + (x - 1 : Nat))

/-- The value of a code (R44-R46). -/
def Fmt.value (f : Fmt) (c : Nat) : FVal :=
  let neg := c.testBit (f.width - 1)
  let m := c % 2 ^ (f.width - 1)
  if f.inf = some m then .inf neg
  else if f.maxc < m then .nan (!(m.testBit (f.M - 1)))
  else .fin neg (f.mag m).1 (f.mag m).2

/-- A code whose value is subnormal. -/
def Fmt.subnormal (f : Fmt) (c : Nat) : Bool :=
  let m := c % 2 ^ (f.width - 1)
  decide (0 < m) && decide (m < 2 ^ f.M)

def Fmt.signed (f : Fmt) (neg : Bool) (m : Nat) : Nat := if neg then 2 ^ (f.width - 1) + m else m

/-! ## Rounding -/

/-- Rounds m × 2^(−d) to an integer: the integer and whether it is inexact. -/
def roundShift (rm : RMode) (neg : Bool) (m d : Nat) : Nat × Bool :=
  let q := m / 2 ^ d
  let r := m % 2 ^ d
  let up := match rm with
    | .rne => decide (2 ^ d < 2 * r) || (2 * r == 2 ^ d && q % 2 == 1 && d != 0)
    | .rtz => false
    | .rup => !neg && r != 0
    | .rdn => neg && r != 0
  (if up then q + 1 else q, r != 0)

/-- m × 2^e as a number of quanta 2^q, rounded. -/
def roundAt (rm : RMode) (neg : Bool) (m : Nat) (e q : Int) : Nat × Bool :=
  if q ≤ e then (m * 2 ^ (e - q).toNat, false) else roundShift rm neg m (q - e).toNat

/-- The magnitude code of m × 2^e in a format without an upper bound, whether it is inexact, and whether it is tiny after
rounding. -/
def Fmt.code (f : Fmt) (rm : RMode) (neg : Bool) (m : Nat) (e : Int) : Nat × Bool × Bool :=
  if m = 0 then (0, false, false)
  else
    let lead := e + (Nat.log2 m : Int)
    let q := max lead f.emin - f.M
    let r := roundAt rm neg m e q
    let u := roundAt rm neg m e (lead - f.M)
    let tiny := decide (lead < f.emin) && !(decide (lead + 1 = f.emin) && u.1 == 2 ^ (f.M + 1))
    ((q - (f.emin - f.M)).toNat * 2 ^ f.M + r.1, r.2, tiny)

/-- Whether a mode carries a finite overflow to infinity. -/
def overflowsToInf (rm : RMode) (neg : Bool) : Bool :=
  match rm with
  | .rne => true
  | .rtz => false
  | .rup => !neg
  | .rdn => neg

/-- Rounds a finite value into a format with infinities: the IEEE result and flags, with FTZ as R55 states. -/
def Fmt.roundFin (f : Fmt) (c : FpCtl) (neg : Bool) (m : Nat) (e : Int) : Nat × Flags :=
  let r := f.code c.rm neg m e
  if f.maxc < r.1 then
    (f.signed neg (if overflowsToInf c.rm neg then f.inf.getD f.maxc else f.maxc), fOF ||| fNX)
  else if c.ftz && decide (0 < r.1) && decide (r.1 < 2 ^ f.M) then (f.signed neg 0, fUF ||| fNX)
  else (f.signed neg r.1, (if r.2.1 then fNX else 0) ||| (if r.2.1 && r.2.2 then fUF else 0))

/-- Rounds any value into a format with infinities (FP32, FP16, BF16); a NaN becomes the canonical NaN. -/
def Fmt.round (f : Fmt) (c : FpCtl) (v : FVal) : Nat × Flags :=
  match v with
  | .nan _ => (f.nan, 0)
  | .inf neg => (f.signed neg (f.inf.getD f.maxc), 0)
  | .fin neg m e => f.roundFin c neg m e

/-! ## Exact operations: a value and the flags of invalid operations (IEEE 754-2019, R56) -/

def FVal.neg : FVal → FVal
  | .nan s => .nan s
  | .inf n => .inf (!n)
  | .fin n m e => .fin (!n) m e

def FVal.isNaN : FVal → Bool
  | .nan _ => true
  | _ => false
def FVal.isSig : FVal → Bool
  | .nan s => s
  | _ => false
def FVal.isZero : FVal → Bool
  | .fin _ m _ => m == 0
  | _ => false

/-- Signed scaled integer. -/
def sgn (neg : Bool) (m : Nat) : Int := if neg then -(m : Int) else m

/-- a × 2^ea + b × 2^eb, exactly. -/
def addScaled (a : Int) (ea : Int) (b : Int) (eb : Int) : Int × Int :=
  let e := min ea eb
  (a * 2 ^ (ea - e).toNat + b * 2 ^ (eb - e).toNat, e)

/-- The value of a signed scaled integer; an exact zero sum of opposite signs is −0 only when rounding down. -/
def ofScaled (rm : RMode) (a : Int × Int) : FVal :=
  if a.1 = 0 then .fin (rm == .rdn) 0 0 else .fin (decide (a.1 < 0)) a.1.natAbs a.2

def FVal.add (rm : RMode) (x y : FVal) : FVal × Flags :=
  match x, y with
  | .nan a, .nan b => (.nan false, if a || b then fNV else 0)
  | .nan a, _ => (.nan false, if a then fNV else 0)
  | _, .nan b => (.nan false, if b then fNV else 0)
  | .inf a, .inf b => if a = b then (.inf a, 0) else (.nan false, fNV)
  | .inf a, _ => (.inf a, 0)
  | _, .inf b => (.inf b, 0)
  | .fin a m e, .fin b n k =>
    if m = 0 ∧ n = 0 then (.fin (if a = b then a else rm == .rdn) 0 0, 0)
    else (ofScaled rm (addScaled (sgn a m) e (sgn b n) k), 0)

def FVal.mul (x y : FVal) : FVal × Flags :=
  match x, y with
  | .nan a, .nan b => (.nan false, if a || b then fNV else 0)
  | .nan a, _ => (.nan false, if a then fNV else 0)
  | _, .nan b => (.nan false, if b then fNV else 0)
  | .inf a, .inf b => (.inf (a != b), 0)
  | .inf a, .fin b m _ => if m = 0 then (.nan false, fNV) else (.inf (a != b), 0)
  | .fin a m _, .inf b => if m = 0 then (.nan false, fNV) else (.inf (a != b), 0)
  | .fin a m e, .fin b n k => (.fin (a != b) (m * n) (e + k), 0)

/-- x × y + z with one rounding to come. Log entry 23, DESIGN CHOICE. -/
def FVal.fma (rm : RMode) (x y z : FVal) : FVal × Flags :=
  let p := x.mul y
  let r := p.1.add rm z
  (r.1, p.2 ||| (if x.isNaN || y.isNaN || !p.1.isNaN then r.2 else if z.isSig then fNV else 0))

/-- Compares two values that are no NaN: the sign of x − y. -/
def FVal.cmp (x y : FVal) : Ordering :=
  match x, y with
  | .inf a, .inf b => if a = b then .eq else if a then .lt else .gt
  | .inf a, _ => if a then .lt else .gt
  | _, .inf b => if b then .gt else .lt
  | .fin a m e, .fin b n k =>
    let d := (addScaled (sgn a m) e (-(sgn b n)) k).1
    if d = 0 then .eq else if d < 0 then .lt else .gt
  | _, _ => .eq

def FVal.isNeg : FVal → Bool
  | .fin n _ _ => n
  | .inf n => n
  | .nan _ => false

/-- FMIN and FMAX (R56): the operand that is no NaN, −0 below +0, NV only for a signalling NaN. -/
def FVal.minmax (max : Bool) (x y : FVal) : FVal × Flags :=
  let fl : Flags := if x.isSig || y.isSig then fNV else 0
  if x.isNaN then (if y.isNaN then .nan false else y, fl)
  else if y.isNaN then (x, fl)
  else
    let less := match x.cmp y with
      | .lt => true
      | .gt => false
      | .eq => x.isNeg
    (if less != max then x else y, fl)

/-- An operand as arithmetic reads it: with FTZ a subnormal is a zero of its sign (R55). Log entry 34, DEDUCED. -/
def Fmt.operand (f : Fmt) (c : FpCtl) (code : Nat) : FVal :=
  if c.ftz && f.subnormal code then .fin (code.testBit (f.width - 1)) 0 0 else f.value code

/-! ## Narrow conversions (R57) -/

/-- Conversion into E4M3, E5M2 or an element format of a block-scaled format: the saturating cases of R57, and no UF. -/
def Fmt.narrow (f : Fmt) (c : FpCtl) (v : FVal) : Nat × Flags :=
  match v with
  | .nan _ => (f.nan, fNV)
  | .inf neg =>
    if f.inf.isSome && c.e5inf then (f.signed neg (f.inf.getD 0), 0)
    else (f.signed neg f.maxc, fOF)
  | .fin neg m e =>
    let r := f.code c.rm neg m e
    if f.maxc < r.1 then
      if f.inf.isSome && c.e5inf && overflowsToInf c.rm neg then (f.signed neg (f.inf.getD 0), fOF ||| fNX)
      else (f.signed neg f.maxc, fOF ||| fNX)
    else (f.signed neg r.1, if r.2.1 then fNX else 0)

/-- Conversion into FP16 or BF16: a NaN sets NV (R57), and subnormals follow R55. -/
def Fmt.narrow16 (f : Fmt) (c : FpCtl) (v : FVal) : Nat × Flags :=
  match v with
  | .nan _ => (f.nan, fNV)
  | _ => f.round c v

/-- Rounds a value to an integer: toward the mode, with NX; none for NaN and infinities. -/
def FVal.toInt (rm : RMode) : FVal → Option (Int × Bool)
  | .fin neg m e =>
    let r := roundAt rm neg m e 0
    some (sgn neg r.1, r.2)
  | _ => none

/-- Conversion to a signed integer of `w` bits with saturation: NV beyond the range and for NaN and infinities; NaN
gives 0. -/
def FVal.toSigned (rm : RMode) (w : Nat) (v : FVal) : Int × Flags :=
  let hi : Int := 2 ^ (w - 1) - 1
  let lo : Int := -(2 ^ (w - 1))
  match v with
  | .nan _ => (0, fNV)
  | .inf neg => (if neg then lo else hi, fNV)
  | v =>
    match v.toInt rm with
    | none => (0, fNV)
    | some (i, nx) => if hi < i then (hi, fNV) else if i < lo then (lo, fNV) else (i, if nx then fNX else 0)

/-- An exact integer as a value. -/
def ofInt (i : Int) : FVal := .fin (decide (i < 0)) i.natAbs 0

/-- The exact quotient of finite values, with its discarded tail folded into a last bit, fine enough for one rounding
into a format of at most 24 mantissa bits. -/
def quotient (m : Nat) (e : Int) (n : Nat) (k : Int) : Nat × Int :=
  let sh := 64 + Nat.log2 n
  let q := m * 2 ^ sh / n
  let sticky := if m * 2 ^ sh % n = 0 then 0 else 1
  (2 * q + sticky, e - k - sh - 1)

/-! ## Block scales (R47, R58) -/

/-- The E3M5 format of block scales. -/
def e3m5 : Fmt := ⟨5, -2, 0xFE, none, 0xFF, 9⟩
/-- Value of a scale code other than 0xFF. -/
def scaleValue (c : Nat) : Nat × Int := e3m5.mag c

/-- An integer in w bits. -/
def wrapTo (w : Nat) (i : Int) : Nat := (i % (2 ^ w : Nat)).toNat

/-! ## AX64 (R67, R69) -/

/-- FP32 value to AX64 with exponent E. -/
def toAx (E : Int) (v : FVal) : Int × Flags :=
  match v with
  | .fin neg m e =>
    let r := roundAt .rtz neg m (e + 62 - E) 0
    if 2 ^ 63 - 1 < r.1 then (sgn neg (2 ^ 63 - 1), fOF ||| fNX) else (sgn neg r.1, if r.2 then fNX else 0)
  | _ => (0, fNV)

/-- AX64 element to FP32: nearest-even, subnormals kept. -/
def ofAx (E : Int) (a : Int) : Nat × Flags :=
  if a = 0 then (0, 0) else fp32.roundFin .exact (decide (a < 0)) a.natAbs (E - 62)

/-- Local exponent of a value: the smallest X with magnitude below 2^X (R66); none for zero and values not finite. -/
def localExp : FVal → Option Int
  | .fin _ m e => if m = 0 then none else some (e + Nat.log2 m + 1)
  | _ => none

end Sys2Proof.Machine
end

