-- ==== Sys2Proof/Machine/Memory.lean ====
section
/-! DEFINITION. The memory instructions of the S class (R228-R237): scalar, synchronising and vector accesses, atomics,
far forms and status twins, and `FENCE`. -/

namespace Sys2Proof.Machine
open Sys2Proof

/-! ## Scopes (R285) -/

/-- A place as the die of a cell names it: the deep store of a pair of its own tower under that die (R72). -/
def placeCell (c : Nat) (a : W64) : Nat :=
  let t := aCell a
  if aSpace a = 1 ∧ t / 512 = c / 512 then dieOf c * 256 + t % 256 else t

/-- Whether a location lies in a scope of cell `c`: 0 cell, 1 region, 2 die, 3 package, else fabric. -/
def State.scopeHolds (s : State) (c sc : Nat) (a : W64) : Bool :=
  let t := placeCell c a
  let own := aPkg a == s.pkg.number
  match sc with
  | 0 => own && t == c
  | 1 => own && t / 256 == c / 256 && ((s.cell t).regionId == (s.cell c).regionId || t == c)
  | 2 => own && t / 256 == c / 256
  | 3 => own
  | _ => true

/-- The smallest scope of cell `c` that holds a location (R229). -/
def State.scopeOf (s : State) (c : Nat) (a : W64) : Nat :=
  ((List.range 4).find? fun sc => s.scopeHolds c sc a).getD 4

/-! ## What atomics compute (R234) -/

inductive AmoOp where
  | add | min | max | and | or | xor | swap | cas
  deriving DecidableEq, Repr

/-- The new value of a word of `n` bytes. -/
def AmoOp.apply (o : AmoOp) (n : Nat) (old x y : W64) : W64 :=
  let w : W64 := if n = 4 then 0xFFFFFFFF else ~~~0
  let sx (v : W64) : W64 := if n = 4 then (v.setWidth 32).signExtend 64 else v
  let old := old &&& w
  let x := x &&& w
  (match o with
    | .add => old + x
    | .min => if (sx old).slt (sx x) then old else x
    | .max => if (sx old).slt (sx x) then x else old
    | .and => old &&& x
    | .or => old ||| x
    | .xor => old ^^^ x
    | .swap => x
    | .cas => if old = x then y else old) &&& w

/-- The atomic that the low three bits of an opcode name. -/
def amoOf (n : Nat) : AmoOp :=
  match n with
  | 0 => .add
  | 1 => .min
  | 2 => .max
  | 3 => .and
  | 4 => .or
  | 5 => .xor
  | 6 => .swap
  | _ => .cas

/-! ## Local accesses and their performance (R284-R290)

Memory is what has been performed. A local access is performed as it issues while `State.lag` is false and no release of its
class travels before it; otherwise it joins `Ctx.pend`, from which the schedule performs it, part by part, in an order that
R286 allows. -/

def PendOp.writes : PendOp → Bool
  | .read _ => false
  | _ => true
def PendOp.reads : PendOp → Bool
  | .read _ => true
  | .amo .. => true
  | _ => false

/-- Whether two accesses touch one word. -/
def Pend.meets (d e : Pend) : Bool := d.pieces.any fun p => e.pieces.any fun q => wordOf p.key == wordOf q.key

/-- The accesses of its class that an access is performed after (R286), of those that have issued before it: for a write all
of them, for a read those up to the last write; and all for a read of a word that an earlier one reads too.
Log entry 8, DESIGN CHOICE. -/
def Pend.after (e : Pend) (l : List Pend) : List Pend :=
  let mine := l.filter fun d => d.oc == e.oc && decide (d.seq < e.seq)
  if e.op.writes || mine.any (fun d => !d.op.writes && d.meets e) then mine
  else mine.filter fun d => mine.any fun w => w.op.writes && decide (d.seq ≤ w.seq)

/-- Whether an outstanding operation is a release on its way to the context's own cell, of which it is a local access. -/
def State.barring (s : State) (c : Nat) (w : Await) : Bool :=
  w.kind == .store && !w.info.getLsbD 28 && w.answer.isNone && aCell w.addr == c && aPkg w.addr == s.pkg.number

/-- Numbers of the travelling releases of the class of a local access, behind which it waits (R286, R290). -/
def State.barred (s : State) (c oc : Nat) (b : Ctx) : List Nat :=
  (b.awaits.filter fun w => w.oc == oc && s.barring c w).map Await.id

/-- Whether nothing that has issued before keeps an access from being performed. -/
def State.free (s : State) (c : Nat) (b : Ctx) (e : Pend) : Bool := (s.barred c e.oc b).all fun id => decide (e.seq < id)

/-- A word that a local read finds, put where the read goes. An empty word of scratch reads as two empty lanes (R232). -/
def Ctx.supply (b : Ctx) (seq : Nat) (dst : ReadTo) (off : Nat) (l : List Byte) (hollow : Bool) : Ctx :=
  match dst with
  | .scalar signed => { b with land := b.land.map fun e =>
      if e.src = seq then
        { e with val := ((if signed then sextN (ofBytes l) (8 * l.length) else zextN (ofBytes l) (8 * l.length)) : W64).setWidth 512 }
      else e }
  | .vec cls => { b with land := b.land.map fun e =>
      if e.src = seq ∧ e.cl = cls.getD (off / 64) 0 then
        let j := off % 64 / 4
        let mine (i : Nat) : Bool := decide (j ≤ i) && decide (i < j + 2)
        { e with
          val := lanes fun i =>
            if mine i && !e.emp.getLsbD i then (if hollow then 0 else BitVec.ofNat 32 (field l (4 * (i - j)) 4)) else lane e.val i
          emp := e.emp ||| (if hollow then bits16 mine else 0) }
      else e }
  | .await => { b with awaits := b.awaits.map fun w =>
      if w.id = seq then
        { w with answer := w.answer.map fun a => (a.1, a.2.1, a.2.2.1.take off ++ l ++ a.2.2.1.drop (off + l.length), a.2.2.2) }
      else w }

/-- The place of a flat address in bytes that were read from consecutive places. -/
def spanAt (k : Nat) : List (Nat × Nat) → Option Nat
  | [] => none
  | (a, n) :: t => if a ≤ k ∧ k < a + n then some (k - a) else (spanAt k t).map fun i => n + i

/-- Source bytes of a running operation, of which it reads some anew. -/
def MEntry.reread (e : MEntry) (key : Nat) (l : List Byte) : MEntry :=
  { e with data := (List.range l.length).foldl (fun d i =>
      match spanAt (key + i) e.spans with
      | some j => d.set j (l.getD i 0)
      | none => d) e.data }

/-- Running matrix operations of a context meet its store to their sources: no `FENCE` orders the two, and each may read the
word as it was or as it becomes, by a free value (R279). Log entry 31, DEDUCED. -/
def State.engineSees (s : State) (c x key : Nat) (l : List Byte) : State :=
  let meets (e : MEntry) : Bool := e.ctx == x && e.spans.any fun p => decide (p.1 < key + l.length) && decide (key < p.1 + p.2)
  if !((s.cell c).mats.any fun m => m.2.running.any fun r => meets r.1) then s
  else
    (List.range 2).foldl (fun (t : State) e =>
      let new := Config.freeBit t.draws
      { t.modCell c fun k => { k with mats := k.mats.map fun m =>
          if m.1 = e then
            (m.1, { m.2 with running := m.2.running.map fun r => if meets r.1 && new then (r.1.reread key l, r.2) else r })
          else m } with draws := t.draws + 1 }) s

/-- A context's write reaches its memory. -/
def State.storeBytes (s : State) (c x oc key : Nat) (l : List Byte) : State :=
  (((s.noteTable c x oc key l.length).writeBytes key l).clearPoison key l.length).engineSees c x key l

/-- Performs one part of an access. -/
def State.settlePart (s : State) (c x : Nat) (b : Ctx) (e : Pend) (p : Piece) : State × Ctx :=
  match e.op with
  | .write => (s.storeBytes c x e.oc p.key p.bytes, b)
  | .empty => (s.setFull p.key false, b)
  | .read dst =>
    (s, b.supply e.seq dst p.off (s.readBytes p.key p.bytes.length) (flatSpace p.key == 0 && !s.isFull p.key))
  | .amo op n v w log =>
    let old := s.readBytes p.key n
    let t := s.storeBytes c x e.oc p.key (toBytes n ((amoOf op).apply n (BitVec.ofNat 64 (ofBytes old)) v w).toNat)
    (match log with
      | some (pc, slot, a) => if s.recording c then t.recLog c 2 x false pc slot (sextN (ofBytes old) (8 * n)) a else t
      | none => t,
      b.supply e.seq (.scalar true) 0 old false)

/-- Performs whole accesses in the order given. -/
def State.settleList (s : State) (c x : Nat) (b : Ctx) (l : List Pend) : State × Ctx :=
  l.foldl (fun (r : State × Ctx) (e : Pend) =>
    let q := e.pieces.foldl (fun (r : State × Ctx) p => r.1.settlePart c x r.2 e p) r
    (q.1, { q.2 with pend := q.2.pend.filter fun d => d.seq != e.seq })) (s, b)

/-- Performs the accesses of a bank that satisfy a condition and that nothing keeps, oldest first. -/
def State.settleBank (s : State) (c x : Nat) (b : Ctx) (f : Pend → Bool) : State × Ctx :=
  s.settleList c x b (b.pend.filter fun e => f e && s.free c b e)

/-- The same for a resident context. -/
def State.settle (s : State) (c x : Nat) (f : Pend → Bool) : State :=
  if (s.ctxOf c x).pend.isEmpty then s
  else
    let r := s.settleBank c x (s.ctxOf c x) f
    r.1.modCtxOf c x fun _ => r.2

/-- Performs one access, after those that it must follow. -/
def State.settleSeq (s : State) (c x seq : Nat) : State :=
  match (s.ctxOf c x).pend.find? fun e => e.seq == seq with
  | none => s
  | some e => s.settle c x fun d => d.seq == seq || (e.after (s.ctxOf c x).pend).contains d

/-- Performs one part of an access, after the accesses that it must follow. Log entry 8, DESIGN CHOICE. -/
def State.performPart (s : State) (c x seq part : Nat) : State :=
  match (s.ctxOf c x).pend.find? fun e => e.seq == seq with
  | none => s
  | some e =>
    if !s.free c (s.ctxOf c x) e then s
    else
      let s := s.settle c x fun d => (e.after (s.ctxOf c x).pend).contains d
      match e.pieces[part]? with
      | none => s
      | some p =>
        let r := s.settlePart c x (s.ctxOf c x) e p
        let left := e.pieces.eraseIdx part
        r.1.modCtxOf c x fun _ => { r.2 with
          pend := if left.isEmpty then r.2.pend.filter fun d => d.seq != seq
            else r.2.pend.map fun d => if d.seq = seq then { d with pieces := left } else d }

/-- Sets `State.lag`; every access that waits is performed as it goes false. Log entry 8, DESIGN CHOICE. -/
def State.setLag (s : State) (b : Bool) : State :=
  let s := { s with lag := b }
  if b then s
  else s.cells.foldl (fun t k => [0, 1, 2, 3].foldl (fun t x => t.settle k.1 x fun _ => true) t) s

/-- Whether a local access of the issuing context in a class is performed as it issues. -/
def State.prompt (s : State) (oc : Nat) : Bool :=
  !s.lag && s.ctx.pend.all (fun e => e.oc != oc) && (s.barred s.focus.cell oc s.ctx).isEmpty

/-- Puts a local access among those not yet performed. -/
def State.delay (s : State) (oc : Nat) (op : PendOp) (ps : List Piece) : State :=
  let id := s.here.nextId + 1
  (s.modHere fun k => { k with nextId := id + 1 }).modCtx fun x => { x with pend := x.pend ++ [⟨id, oc, op, ps⟩] }

/-- Performs the waiting local accesses of an evicted task. -/
def State.settleAway (s : State) (c : Nat) (v : Saved) : State :=
  if v.bank.pend.isEmpty then s
  else
    let r := s.settleBank c v.num v.bank fun _ => true
    r.1.modCell c fun k => { k with saved := k.saved.map fun u =>
      if u.bank.task = v.bank.task then { u with bank := r.2 } else u }

/-- Performs the earlier accesses of the issuing context in a class. -/
def State.settleClass (s : State) (oc : Nat) : State := s.settle s.focus.cell s.focus.ctx fun e => e.oc == oc

/-- A local store of the issuing context. -/
def State.storeLocal (s : State) (oc : Nat) (ps : List Piece) : State :=
  if s.prompt oc then ps.foldl (fun t p => t.storeBytes s.focus.cell s.focus.ctx oc p.key p.bytes) s
  else s.delay oc .write ps

/-- The words of `n` bytes from an aligned key, as parts. -/
def wordPieces (key n : Nat) : List Piece :=
  if n < 8 then [⟨key, List.replicate n 0, 0⟩] else (List.range (n / 8)).map fun i => ⟨key + 8 * i, List.replicate 8 0, 8 * i⟩

/-- Holds a local read, or an access that reads and writes, behind a travelling release of its class. Log entry 8, DESIGN
CHOICE. -/
def State.behindRelease (s : State) (oc : Nat) (f : State → State) : State :=
  let ids := s.barred s.focus.cell oc s.ctx
  if ids.isEmpty then f s else s.block (.fence ids)

/-- Holds an access that belongs to every class (R288) behind the travelling releases of the context, and performs its
earlier writes, each after what it must follow (R286). -/
def State.behindReleases (s : State) (f : State → State) : State :=
  let ids := (s.ctx.awaits.filter fun w => s.barring s.focus.cell w).map Await.id
  if !ids.isEmpty then s.block (.fence ids)
  else
    let l := s.ctx.pend
    f (s.settle s.focus.cell s.focus.ctx fun e => e.op.writes || l.any fun w => w.op.writes && (w.after l).contains e)

/-- An access to the CSR window, which acts as it is looked at, after the earlier ones of its class: for a read, where a
write is among them (R286). -/
def State.windowOrder (s : State) (oc : Nat) (store : Bool) (f : State → State) : State :=
  s.behindRelease oc fun s => f (if store || s.ctx.pend.any (fun e => e.oc == oc && e.op.writes) then s.settleClass oc else s)

/-! ## Error responses -/

/-- `VIOL_INFO` of the issuing slot. -/
def State.infoOf (s : State) (sz : Nat) (vec store far : Bool) (oc : Nat) : W64 :=
  violInfo s.focus.pc s.focus.slot sz vec store far oc

/-- The address that a violation records: formed as a far access would form it (R169). -/
def State.violAddrOf (s : State) (ea : W64) (far : Bool) : W64 :=
  if far || !(ea.extractLsb' 43 21 == 0) then ea else s.localAddr s.focus.cell ea

/-! ## Scalar loads and stores (R230) -/

/-- The value of the low `z` bytes, extended to 64 bits. -/
def extend (signed : Bool) (z : Nat) (l : List Byte) : W64 :=
  let v := ofBytes l
  if signed then sextN v (8 * z) else zextN v (8 * z)

/-- A scalar result in flight that a delayed access supplies. -/
def State.awaitOp (s : State) (d : BitVec 6) (oc key : Nat) (op : PendOp) (n : Nat) : State :=
  let t := s.delay oc op (wordPieces key n)
  let id := s.here.nextId + 1
  if d = 0 then t else
  t.modCtx fun x => { x with land := x.land ++ [⟨.scalar, 0, d.toNat, 0, 0, 1, 0, 0, s.now + 6, true, s.now, id⟩] }

def State.awaitLate (s : State) (d : BitVec 6) (oc : Nat) (signed : Bool) (key n : Nat) : State :=
  s.awaitOp d oc key (.read (.scalar signed)) n

/-- The CSR window as the slots of a bundle read it: as it stood before the bundle, as `CSRR` would (R230). -/
def State.windowSeen (s : State) (off n : Nat) : List Byte :=
  (s.putCell s.focus.cell s.seen).windowBytes s.focus.cell s.focus.ctx off n

/-- A scalar load that R74 allows, of bound 6. -/
def State.loadLocal (s : State) (d : BitVec 6) (ea : W64) (oc : Nat) (signed : Bool) (n : Nat) : State :=
  let a := s.localAddr s.focus.cell ea
  if aSpace a = 3 then s.windowOrder oc false fun s => s.wsLate d (extend signed n (s.windowSeen (aOff a) n)) 6
  else s.behindRelease oc fun s =>
    if s.prompt oc then s.wsLate d (extend signed n (s.readBytes (flatOf a) n)) 6
    else s.awaitLate d oc signed (flatOf a) n

/-- Whether a local access meets a poisoned word. -/
def State.localPoison (s : State) (ea : W64) (n : Nat) : Bool :=
  aSpace ea != 3 && s.poisoned (flatOf (s.localAddr s.focus.cell ea)) n

def State.load (s : State) (signed : Bool) (d a : BitVec 6) (oc : BitVec 3) (z : BitVec 2) (f : BitVec 3) : State :=
  let ea := s.eaScalar a z f
  let n := szBytes z
  match s.localError ea n n false false false with
  | some k => (s.violate k (s.violAddrOf ea false) (s.infoOf z.toNat false false false oc.toNat)).wsLate d 0 6
  | none =>
    if s.localPoison ea n then s.consume (flatOf (s.localAddr s.focus.cell ea)) else
    s.loadLocal d ea oc.toNat signed n

def execLd (d a : BitVec 6) (o : BitVec 3) (z : BitVec 2) (f : BitVec 3) (s : State) : Out := .next (s.load true d a o z f)
def execLdz (d a : BitVec 6) (o : BitVec 3) (z : BitVec 2) (f : BitVec 3) (s : State) : Out := .next (s.load false d a o z f)

/-- A word as the parts of a write leave it. -/
def State.wordAfter (s : State) (w : Nat) (ps : List Piece) : W64 :=
  BitVec.ofNat 64 (ofBytes ((List.range 8).map fun j =>
    match ps.find? fun p => decide (p.key ≤ w + j) && decide (w + j < p.key + p.bytes.length) with
    | some p => p.bytes.getD (w + j - p.key) 0
    | none => s.byte (w + j)))

/-- Value watchpoints that a local write fires (R463), as a mask. Log entry 84, DESIGN CHOICE. -/
def State.watchHits (s : State) (ps : List Piece) : Nat :=
  let k := s.here
  if s.ctx.stepping then 0 else
  (List.range 4).foldl (fun m n =>
    let cfg := k.wv.get 0 (4 * n + 1)
    let base := k.wv.get 0 (4 * n)
    let sp := bitsAt base 26 2
    let first := flat s.focus.cell sp (bitsAt base 0 26)
    let hit := ps.any fun p =>
      let w := wordOf p.key
      let old := s.read64 w
      let new := s.wordAfter w ps
      decide (first ≤ w) && decide (w ≤ first + 8 * bitsAt cfg 2 12) &&
        (if cfg.getLsbD 1 then ((new ^^^ old) &&& k.wv.get 0 (4 * n + 3)) != 0
         else ((new ^^^ k.wv.get 0 (4 * n + 2)) &&& k.wv.get 0 (4 * n + 3)) == 0)
    if cfg.getLsbD 0 && cfg.getLsbD (14 + s.focus.ctx) && decide (sp < 2) && hit then m + 2 ^ n else m) 0

/-- A local write that R74 allows, by its parts: to the CSR window as `CSRW` (R230), else to memory by `commit`, under the
value watchpoints: the S slot does not commit where one fires. Log entry 84, DESIGN CHOICE. -/
def State.localWrite (s : State) (ea : W64) (oc : Nat) (ps : List Piece) (commit : State → State) : State :=
  let a := s.localAddr s.focus.cell ea
  if aSpace a = 3 then s.windowOrder oc true fun s =>
    ps.foldl (fun t p => t.windowStore s.focus.cell s.focus.ctx (aOff a + p.off) p.bytes s.was.supervisor) s
  else
    let h := s.watchHits ps
    if h ≠ 0 then s.stop 0x07 (h * 2 ^ 14)
    else match ps.find? fun p => decide (p.bytes.length < 8) && s.poisoned p.key p.bytes.length with
      | some p => s.consume p.key
      | none => commit s

/-- The one part of a scalar store of at most 8 bytes. -/
def State.scalarPiece (s : State) (ea : W64) (l : List Byte) : List Piece :=
  [⟨flatOf (s.localAddr s.focus.cell ea), l, 0⟩]

def execSt (d a : BitVec 6) (o : BitVec 3) (z : BitVec 2) (f : BitVec 3) (s : State) : Out :=
  .next (
    let ea := s.eaScalar a z f
    let n := szBytes z
    match s.localError ea n n true false false with
    | some k => s.violate k (s.violAddrOf ea false) (s.infoOf z.toNat false true false o.toNat)
    | none =>
      let ps := s.scalarPiece ea (toBytes n (s.rs d).toNat)
      s.localWrite ea o.toNat ps fun t => t.storeLocal o.toNat ps)

/-! ## Synchronising accesses (R231) -/

/-- Whether another context of the cell asked for the word before the issuing one: held waiters complete first come,
first served (R231). Log entry 87, DEDUCED. -/
def State.wordTaken (s : State) (w : Nat) : Bool :=
  let mine := if s.was.hold = .word w then s.was.heldAt else s.cycle
  (List.range 4).any fun y => y != s.focus.ctx &&
    (s.here.ctx y).hold == .word w && decide ((s.here.ctx y).heldAt < mine)

/-- The word on which an `LDS` or `LDSE` is held: it is empty, or another waits for it already. Log entry 87, DEDUCED. -/
def State.syncHold (s : State) (a : BitVec 6) (z : BitVec 2) (f : BitVec 3) : Option Nat :=
  let ea := s.eaScalar a z f
  match s.localError ea (szBytes z) (szBytes z) false true false with
  | some _ => none
  | none =>
    let k := flatOf (s.localAddr s.focus.cell ea)
    if s.isFull k && !s.wordTaken (wordOf k) then none else some (wordOf k)

def State.syncLoad (s : State) (take : Bool) (d a : BitVec 6) (oc : BitVec 3) (z : BitVec 2) (f : BitVec 3) : State :=
  let ea := s.eaScalar a z f
  let n := szBytes z
  match s.localError ea n n false true false with
  | some k => (s.violate k (s.violAddrOf ea false) (s.infoOf z.toNat false false false oc.toNat)).wsLate d 0 6
  | none =>
    let k := flatOf (s.localAddr s.focus.cell ea)
    if !s.isFull k || s.wordTaken (wordOf k) then s.block (.word (wordOf k))
    else if s.localPoison ea n then s.consume k
    else s.behindRelease oc.toNat fun s =>
      let s := s.settleClass oc.toNat
      if !s.isFull k then s.block (.word (wordOf k))
      else
        let t := if take then s.setFull k false else s
        t.wsLate d (extend true n (s.readBytes k n)) 6

def execLds (d a : BitVec 6) (o : BitVec 3) (z : BitVec 2) (f : BitVec 3) (s : State) : Out :=
  .next (s.syncLoad false d a o z f)
def execLdse (d a : BitVec 6) (o : BitVec 3) (z : BitVec 2) (f : BitVec 3) (s : State) : Out :=
  .next (s.syncLoad true d a o z f)

/-! ## Vector loads and stores (R232) -/

/-- Lanes whose bit of a mask is 1 written zero. -/
def maskedData (v : BitVec 512) (dead : BitVec 16) : BitVec 512 :=
  lanes fun i => if dead.getLsbD i then 0 else lane v i

/-- The 16 empty bits of a cluster's 64 bytes from the empty marks of its eight words. -/
def wordsToLanes (w : Nat) : BitVec 16 := bits16 fun i => w.testBit (i / 2)

/-- The 512 bits of 64 bytes. -/
def vecOf (l : List Byte) : BitVec 512 := BitVec.ofNat 512 (ofBytes l)

/-- The words, numbered from `i`, of a scratch range whose full bits are 0. -/
def State.emptyWords (s : State) (key : Nat) : Nat → Nat
  | 0 => 0
  | n + 1 => s.emptyWords key n + (if s.isFull (key + 8 * n) then 0 else 2 ^ n)

/-- Writes a loaded cluster's register, exposed with bound 8. -/
def State.landVec (s : State) (cl v : Nat) (val : BitVec 512) (emp : BitVec 16) : State :=
  s.land .vec cl v (maskedData val emp) emp 0xFFFF 0 8 false

/-- Whether a vector load that leaves out dead lanes reads a poisoned word. -/
def State.vectorPoison (s : State) (key : Nat) (cls : List Nat) (dead : Nat → BitVec 16) : Bool :=
  (List.range (8 * cls.length)).any fun w =>
    ((dead (cls.getD (w / 8) 0)) >>> (2 * (w % 8))).extractLsb' 0 2 != 3#2 && s.poisoned (key + 8 * w) 8

/-- The lanes of all clusters that a load leaves out. -/
def deadLanes (cls : List Nat) (dead : Nat → BitVec 16) : BitVec 128 :=
  cls.foldl (fun (m : BitVec 128) cl => m ||| ((dead cl).setWidth 128 <<< (16 * cl))) 0

/-- The local vector load of the clusters `cls` from `ea`, 64 bytes each in order; `dead` gives the lanes of each cluster
that are not read. Log entry 9, DESIGN CHOICE. -/
def State.vload (s : State) (v : Nat) (cls : List Nat) (ea : W64) (oc : Nat) (dead : Nat → BitVec 16) : State :=
  let n := 64 * cls.length
  match s.localError ea n 64 false false false with
  | some k =>
    cls.foldl (fun t cl => t.land .vec cl v 0 0 0xFFFF 0 8 false)
      (s.violate k (s.violAddrOf ea false) (s.infoOf 0 true false false oc))
  | none =>
    let a := s.localAddr s.focus.cell ea
    let key := flatOf a
    if aSpace a = 3 then s.windowOrder oc false fun s =>
      let l := s.windowSeen (aOff a) n
      (List.range cls.length).foldl (fun t i =>
        let cl := cls.getD i 0
        t.landVec cl v (vecOf ((l.drop (64 * i)).take 64)) (dead cl)) s
    else if s.vectorPoison key cls dead then s.consume key
    else s.behindRelease oc fun s =>
      let ready := s.prompt oc
      let id := s.here.nextId + 1
      let deep := decide (aSpace a = 1)
      let t := if ready then s.modHere fun k => { k with nextId := id + 1 }
        else s.delay oc (.read (if deep then .await else .vec cls)) (wordPieces key n)
      let l := if ready then s.readBytes key n else zeros n
      if deep then
        t.modCtx fun x => { x with
          awaits := x.awaits ++ [⟨id, .vload, v, cls.foldl (fun m cl => m ||| (1#8 <<< cl)) 0#8, deadLanes cls dead, 3, false,
            false, a, oc, s.infoOf 0 true false false oc, some (0, 0, l, 0),
            some (s.now + (if isC s.focus.cell then 24 else 20)), false, s.now⟩] }
      else
        (List.range cls.length).foldl (fun t i =>
          let cl := cls.getD i 0
          let hollow := if ready ∧ aSpace a = 0 then wordsToLanes (s.emptyWords (key + 64 * i) 8) else 0
          let emp := hollow ||| dead cl
          t.modCtx fun x => { x with
            land := x.land ++ [⟨.vec, cl, v, maskedData (vecOf ((l.drop (64 * i)).take 64)) emp, emp, 0xFFFF, 0, 0, s.now + 8,
              false, s.now, if ready then 0 else id⟩] }) t

def execVld (v : BitVec 5) (a : BitVec 6) (o : BitVec 3) (x : BitVec 5) (s : State) : Out :=
  .next (s.vload v.toNat (List.range 8) (s.eaVec a x) o.toNat fun _ => 0)
def execVldc (v : BitVec 5) (a : BitVec 6) (o c : BitVec 3) (f : BitVec 2) (s : State) : Out :=
  .next (s.vload v.toNat [c.toNat] (s.eaCluster a f) o.toNat fun _ => 0)
def execVldq (v : BitVec 5) (a : BitVec 6) (o q : BitVec 3) (f : BitVec 2) (s : State) : Out :=
  .next (s.vload v.toNat (List.range 8) (s.eaMasked a f) o.toNat fun cl => ~~~(s.was.qr cl q.toNat))

/-- The runs of bytes that a vector store writes: from a flat address, clusters in order, lanes by mask. -/
def State.vstoreBytes (s : State) (v : Nat) (cls : List Nat) : List Byte :=
  cls.foldl (fun l cl => l ++ toBytes 64 (s.was.vr cl v).val.toNat) []

/-- The parts of a vector store of `n` words: both lanes of a word, or the one that is stored. -/
def storePieces (key : Nat) (l : List Byte) (n : Nat) (store : Nat → Bool) : List Piece :=
  (List.range n).filterMap fun w =>
    match store (2 * w), store (2 * w + 1) with
    | true, true => some ⟨key + 8 * w, (l.drop (8 * w)).take 8, 8 * w⟩
    | true, false => some ⟨key + 8 * w, (l.drop (8 * w)).take 4, 8 * w⟩
    | false, true => some ⟨key + 8 * w + 4, (l.drop (8 * w + 4)).take 4, 8 * w + 4⟩
    | false, false => none

def State.vstore (s : State) (v : Nat) (cls : List Nat) (ea : W64) (oc : Nat) (live : Nat → BitVec 16) : State :=
  let n := 64 * cls.length
  match s.localError ea n 64 true false false with
  | some k => s.violate k (s.violAddrOf ea false) (s.infoOf 0 true true false oc)
  | none =>
    let ps := storePieces (flatOf (s.localAddr s.focus.cell ea)) (s.vstoreBytes v cls) (8 * cls.length) fun i =>
      (live (cls.getD (i / 16) 0)).getLsbD (i % 16)
    s.localWrite ea oc ps fun t => t.storeLocal oc ps

def execVst (v : BitVec 5) (a : BitVec 6) (o : BitVec 3) (x : BitVec 5) (s : State) : Out :=
  .next (s.vstore v.toNat (List.range 8) (s.eaVec a x) o.toNat fun _ => 0xFFFF)
def execVstc (v : BitVec 5) (a : BitVec 6) (o c : BitVec 3) (f : BitVec 2) (s : State) : Out :=
  .next (s.vstore v.toNat [c.toNat] (s.eaCluster a f) o.toNat fun _ => 0xFFFF)
def execVstq (v : BitVec 5) (a : BitVec 6) (o q : BitVec 3) (f : BitVec 2) (s : State) : Out :=
  .next (s.vstore v.toNat (List.range 8) (s.eaMasked a f) o.toNat fun cl =>
    s.was.qr cl q.toNat &&& ~~~(s.was.vr cl v.toNat).emp)

/-! ## Atomics (R234) -/

/-- The opcode of an atomic of the S class (R113). -/
def AmoOp.code : AmoOp → Nat
  | .add => 0x18
  | .min => 0x19
  | .max => 0x1A
  | .and => 0x1B
  | .or => 0x1C
  | .xor => 0x1D
  | .swap => 0x1E
  | .cas => 0x1F

/-- The operand registers of an atomic: sd, and for `AMOCAS` s(d+1). -/
def State.amoArgs (s : State) (d : BitVec 6) : W64 × W64 := (s.rs d, s.rs (d + 1))

/-- The recorder's part in a local atomic (R465, R468): the log's answer in replay, or a log entry of this one. -/
def State.amo (s : State) (op : AmoOp) (d a : BitVec 6) (oc : BitVec 3) (z : BitVec 1) (f : BitVec 3) : State :=
  let sz : BitVec 2 := 2 + z.setWidth 2
  let n := szBytes sz
  let ea := s.eaScalar a sz f
  let c := s.focus.cell
  match s.localError ea n n true false true with
  | some k => (s.violate k (s.violAddrOf ea false) (s.infoOf sz.toNat false true false oc.toNat)).wsLate d 0 6
  | none =>
    let log := (s.recCtl c).getLsbD 3
    if log && s.replaying c then
      match s.replayRecord 2 with
      | some r => (s.recAdvance c).wsLate d (BitVec.ofNat 64 (field r 16 8)) 6
      | none => s.stop 0x10 0
    else
      let key := flatOf (s.localAddr c ea)
      if s.localPoison ea n then s.consume key else
      s.behindRelease oc.toNat fun s =>
      let s := if s.lag then s else s.settleClass oc.toNat
      let old := s.readBytes key n
      let ov := BitVec.ofNat 64 (ofBytes old)
      let new := op.apply n ov (s.amoArgs d).1 (s.amoArgs d).2
      let res := extend true n old
      let ps := s.scalarPiece ea (toBytes n new.toNat)
      s.localWrite ea oc.toNat ps fun t =>
        if !t.prompt oc.toNat then
          t.awaitOp d oc.toNat key (.amo (op.code % 8) n (s.amoArgs d).1 (s.amoArgs d).2
            (if log then some (s.focus.pc, s.focus.slot, s.localAddr c ea) else none)) n
        else
          let t := (t.storeBytes c s.focus.ctx oc.toNat key (toBytes n new.toNat)).wsLate d res 6
          if log && s.recording c then
            t.recLog c 2 s.focus.ctx false s.focus.pc s.focus.slot res (s.localAddr c ea) else t

/-! ## Far forms and status twins (R235, R236, R398) -/

/-- Puts a request on its way to the cell that its address names: one of another package goes into a packet. -/
def State.sendReq (s : State) (r : RemoteReq) : State :=
  if aPkg r.addr = s.pkg.number then s.post .remoteRequest { Args.empty with c := aCell r.addr, req := r } else s.injectReq r

/-- The request that a message in flight carries, within the package or not yet injected. -/
def Event.request (e : Event) : Option RemoteReq :=
  match e.instr, e.args.pk.body with
  | .remoteRequest, _ => some e.args.req
  | .packetInject, .request r => some r
  | _, _ => none

/-- Whether request `d` is an earlier one of the same context and class as `r` to the same cell (R287). -/
def reqPrecedes (d r : RemoteReq) : Bool :=
  d.pkg == r.pkg && d.cell == r.cell && d.ctx == r.ctx && d.oc == r.oc && decide (d.id < r.id) && d.op != 0xF0 &&
    d.addr.extractLsb' 43 21 == r.addr.extractLsb' 43 21

/-- Whether an earlier request of its context and class to the same cell is still in flight (R287). -/
def State.behind (s : State) (r : RemoteReq) : Bool :=
  s.flying.any fun e => e.request.any fun d => reqPrecedes d r

/-- Sends a remote operation on its way and remembers what its answer will write; every one is given up after 64 µs
(R235). -/
def State.sendFrom (s : State) (base op : Nat) (kind : AwaitKind) (reg : Nat) (sz : BitVec 2) (twin : Bool) (addr : W64)
    (data : List Byte) (oc : Nat) (info : W64) : State :=
  let c := s.focus.cell
  let id := s.here.nextId
  let s := (s.modHere fun k => { k with nextId := id + 1 }).modCtx fun x => { x with
    awaits := x.awaits ++ [⟨id, kind, reg, 0xFF, 0, sz, true, twin, addr, oc, info, none, none, false, s.now⟩] }
  let r : RemoteReq := ⟨s.pkg.number, c, s.focus.ctx, id, base, oc, BitVec.ofNat 8 op, sz, addr, data, s.was.supervisor,
    checkCode op addr data⟩
  (s.after 64000 .farAccessTimeout { Args.empty with c := c, x := s.focus.ctx, id := id }).sendReq r

/-- One remote operation. -/
def State.sendRemote (s : State) (op : Nat) (kind : AwaitKind) (reg : Nat) (sz : BitVec 2) (twin : Bool) (addr : W64)
    (data : List Byte) (oc : Nat) (info : W64) : State :=
  s.sendFrom s.here.nextId op kind reg sz twin addr data oc info

/-! ## Releases that cannot be performed as they issue (R290) -/

/-- Whether a release of the issuing context at a place must still wait for earlier accesses, or lies elsewhere: it is
carried as a remote operation, and its bundle is not held. Log entry 13, DEDUCED. -/
def State.mustTravel (s : State) (a : W64) : Bool :=
  s.lag || aCell a != s.focus.cell || aPkg a != s.pkg.number || !s.ctx.pend.isEmpty ||
    s.ctx.awaits.any fun w => w.kind != .xlt && w.answer.isNone && s.scopeHolds s.focus.cell 0 w.addr

def execStf (d a : BitVec 6) (o : BitVec 3) (z : BitVec 2) (f : BitVec 3) (s : State) : Out :=
  .next (
    let ea := s.eaScalar a z f
    let n := szBytes z
    match s.localError ea n n true true false with
    | some k => s.violate k (s.violAddrOf ea false) (s.infoOf z.toNat false true false o.toNat)
    | none =>
      let l := toBytes n (s.rs d).toNat
      let addr := s.localAddr s.focus.cell ea
      s.localWrite ea o.toNat (s.scalarPiece ea l) fun t =>
        if t.mustTravel addr then
          t.sendRemote 0x12 .store 0 z false addr (toBytes 8 (s.rs d).toNat) o.toNat (s.infoOf z.toNat false true false o.toNat)
        else (t.storeBytes s.focus.cell s.focus.ctx o.toNat (flatOf addr) l).setFull (flatOf addr) true)

/-- `SETE`: sz is 0b11. -/
def execSete (a : BitVec 6) (o f : BitVec 3) (s : State) : Out :=
  .next (
    let ea := s.eaScalar a 3 f
    match s.localError ea 8 8 true true false with
    | some k => s.violate k (s.violAddrOf ea false) (s.infoOf 3 false true false o.toNat)
    | none =>
      let key := flatOf (s.localAddr s.focus.cell ea)
      if s.prompt o.toNat then s.setFull key false else s.delay o.toNat .empty [⟨key, [], 0⟩])

/-- The failure value of a status twin's register (R236). -/
def failWord (code : Nat) : W64 := 0xFFFFFFFFFFFFFFF0 ||| BitVec.ofNat 64 code

/-- Status codes of R236 for the kinds of R74: SYNC is reported as PERM. -/
def statusOfKind (k : Nat) : Nat := if k = kAddr then 1 else if k = kAlign then 2 else 3

/-- A scalar far access or its twin, found forbidden at issue: error response, or status. -/
def State.farRefused (s : State) (kind : Nat) (twin : Bool) (writes : Bool) (d : BitVec 6) (ea : W64) (info : W64) : State :=
  if twin then
    let s := s.wpair 7 false
    if writes then s.ws d (failWord (statusOfKind kind)) else s
  else
    let s := s.violate kind ea info
    if writes then s.ws d 0 else s

def State.farScalar (s : State) (op : Nat) (kind : AwaitKind) (twin : Bool) (d a : BitVec 6) (oc : BitVec 3)
    (z : BitVec 2) (f : BitVec 3) (data : List Byte) : State :=
  let ea := s.eaScalar a z f
  let n := szBytes z
  let store := kind != .load
  let info := s.infoOf z.toNat false store true oc.toNat
  match s.farError ea n n store (kind == .amo) with
  | some k => s.farRefused k twin (kind != .store) d ea info
  | none => s.sendRemote op kind d.toNat z twin ea data oc.toNat info

def execLdF (d a : BitVec 6) (o : BitVec 3) (z : BitVec 2) (f : BitVec 3) (s : State) : Out :=
  .next (s.farScalar 0x20 .load false d a o z f (zeros 8))
def execStF (d a : BitVec 6) (o : BitVec 3) (z : BitVec 2) (f : BitVec 3) (s : State) : Out :=
  .next (s.farScalar 0x21 .store false d a o z f (toBytes 8 (s.rs d).toNat))
def execLdFs (d a : BitVec 6) (o : BitVec 3) (z : BitVec 2) (f : BitVec 3) (s : State) : Out :=
  .next (s.farScalar 0x40 .load true d a o z f (zeros 8))
def execStFs (d a : BitVec 6) (o : BitVec 3) (z : BitVec 2) (f : BitVec 3) (s : State) : Out :=
  .next (s.farScalar 0x41 .store true d a o z f (toBytes 8 (s.rs d).toNat))

/-- A far atomic or its twin; its result is logged when it returns, and taken from the log in replay (R468). -/
def State.farAmo (s : State) (op : AmoOp) (twin : Bool) (d a : BitVec 6) (oc : BitVec 3) (z : BitVec 1) (f : BitVec 3) :
    State :=
  let sz : BitVec 2 := 2 + z.setWidth 2
  let data := toBytes 8 (s.rs d).toNat ++ (if op = .cas then toBytes 8 (s.rs (d + 1)).toNat else [])
  if s.replaying s.focus.cell then
    match s.replayRecord 2 with
    | some r =>
      let s := (s.recAdvance s.focus.cell).ws d (BitVec.ofNat 64 (field r 16 8))
      if twin then s.wpair 7 (field r 10 1 % 2 == 0) else s
    | none => s.stop 0x10 0
  else s.farScalar (op.code + (if twin then 0x30 else 0x10)) .amo twin d a oc sz f data

def State.farVload (s : State) (op : Nat) (twin : Bool) (v : BitVec 5) (a : BitVec 6) (oc : BitVec 3) (x : BitVec 5) : State :=
  let ea := s.eaVec a x
  let info := s.infoOf 0 true false true oc.toNat
  match s.farError ea 512 64 false false with
  | some k =>
    let s := if twin then s.wpair 7 false else s.violate k ea info
    s.modCtx fun t => { t with v := (List.range 8).foldl (fun m cl => m.ins (vkey cl v.toNat) VReg.zero) t.v }
  | none => s.sendRemote op .vload v.toNat 3 twin ea (zeros 8) oc.toNat info

def State.farVstore (s : State) (op : Nat) (twin : Bool) (v : BitVec 5) (a : BitVec 6) (oc : BitVec 3) (x : BitVec 5) : State :=
  let ea := s.eaVec a x
  let info := s.infoOf 0 true true true oc.toNat
  match s.farError ea 512 64 true false with
  | some k => if twin then s.wpair 7 false else s.violate k ea info
  | none => s.sendRemote op .vstore 0 3 twin ea (s.vstoreBytes v.toNat (List.range 8)) oc.toNat info

def execVldF (v : BitVec 5) (a : BitVec 6) (o : BitVec 3) (x : BitVec 5) (s : State) : Out := .next (s.farVload 0x22 false v a o x)
def execVstF (v : BitVec 5) (a : BitVec 6) (o : BitVec 3) (x : BitVec 5) (s : State) : Out := .next (s.farVstore 0x23 false v a o x)
def execVldFs (v : BitVec 5) (a : BitVec 6) (o : BitVec 3) (x : BitVec 5) (s : State) : Out := .next (s.farVload 0x42 true v a o x)
def execVstFs (v : BitVec 5) (a : BitVec 6) (o : BitVec 3) (x : BitVec 5) (s : State) : Out := .next (s.farVstore 0x43 true v a o x)

/-! ## FENCE (R237, R289, R300) -/

/-- Accesses of the masked classes not yet performed at the scope, by their numbers. -/
def State.fenceHeld (s : State) (m : BitVec 8) (sc : Nat) : List Nat :=
  (s.was.awaits.filter fun w => m.getLsbD w.oc && w.kind != .xlt && s.scopeHolds s.focus.cell sc w.addr).map Await.id

/-- Copies of tile-table entries within the scope are dropped (R300): port-context entries and edge translation
buffers. -/
def State.dropTranslations (s : State) (sc : Nat) : State :=
  let c := s.focus.cell
  { s with
    cells := s.cells.map fun e =>
      if s.scopeHolds c sc (s.addrOf e.1 0 0) then
        (e.1, { e.2 with seqs := e.2.seqs.map fun q => (q.1, { q.2 with entry := none }) }) else e
    dies := s.dies.map fun e => if 3 ≤ sc ∨ (sc = 2 ∧ e.1 = dieOf c) then (e.1, { e.2 with tb := [] }) else e }

/-- The stores to tile tables that stay unseen when some become visible: a store of a byte before one that is shown is
never seen any more. -/
def visibleLast (shown : Nat × Byte × Nat × Nat × Nat → Bool) : List (Nat × Byte × Nat × Nat × Nat) →
    List (Nat × Byte × Nat × Nat × Nat)
  | [] => []
  | e :: t => if shown e || t.any (fun f => f.1 == e.1 && shown f) then visibleLast shown t else e :: visibleLast shown t

/-- Stores of the issuing context to tile tables that a fence makes visible to translation: in its classes, where its scope
holds the table and every die that translates through it (R300). -/
def State.showTables (s : State) (m : BitVec 8) (sc : Nat) : State :=
  let c := s.focus.cell
  let shown (e : Nat × Byte × Nat × Nat × Nat) : Bool :=
    e.2.2.1 == c && e.2.2.2.1 == s.focus.ctx && m.getLsbD e.2.2.2.2 &&
      (decide (3 ≤ sc) || (sc == 2 && (s.tableDies e.1 1).all fun d => d == dieOf c) &&
        s.scopeHolds c sc (BitVec.ofNat 64 e.1 ||| (s.pkg.number.setWidth 64 <<< 54)))
  { s with unseen := visibleLast shown s.unseen }

/-- `FENCE mask, scope`: held until the masked accesses are performed; a flush point (R325). A mask of 0 orders nothing. -/
def execFence (m : BitVec 8) (sc : BitVec 3) (s : State) : Out :=
  .next (
    if !(s.fenceHeld m sc.toNat).isEmpty then s.block (.fence (s.fenceHeld m sc.toNat))
    else if m = 0 then s.closeWindow
    else
      let t := s.settle s.focus.cell s.focus.ctx fun e => m.getLsbD e.oc
      ((t.showTables m sc.toNat).dropTranslations sc.toNat).closeWindow)

/-- SNOP (R113). -/
def execSnop (s : State) : Out := .next s

/-- The even register that `AMOCAS` names in five bits (R113). -/
def evenReg (d : BitVec 5) : BitVec 6 := d ++ 0#1

def execAmoadd (d a : BitVec 6) (o : BitVec 3) (z : BitVec 1) (f : BitVec 3) (s : State) : Out := .next (s.amo .add d a o z f)
def execAmomin (d a : BitVec 6) (o : BitVec 3) (z : BitVec 1) (f : BitVec 3) (s : State) : Out := .next (s.amo .min d a o z f)
def execAmomax (d a : BitVec 6) (o : BitVec 3) (z : BitVec 1) (f : BitVec 3) (s : State) : Out := .next (s.amo .max d a o z f)
def execAmoand (d a : BitVec 6) (o : BitVec 3) (z : BitVec 1) (f : BitVec 3) (s : State) : Out := .next (s.amo .and d a o z f)
def execAmoor (d a : BitVec 6) (o : BitVec 3) (z : BitVec 1) (f : BitVec 3) (s : State) : Out := .next (s.amo .or d a o z f)
def execAmoxor (d a : BitVec 6) (o : BitVec 3) (z : BitVec 1) (f : BitVec 3) (s : State) : Out := .next (s.amo .xor d a o z f)
def execAmoswap (d a : BitVec 6) (o : BitVec 3) (z : BitVec 1) (f : BitVec 3) (s : State) : Out := .next (s.amo .swap d a o z f)
def execAmocas (d : BitVec 5) (a : BitVec 6) (o : BitVec 3) (z : BitVec 1) (f : BitVec 3) (s : State) : Out :=
  .next (s.amo .cas (evenReg d) a o z f)
def execAmoaddF (d a : BitVec 6) (o : BitVec 3) (z : BitVec 1) (f : BitVec 3) (s : State) : Out := .next (s.farAmo .add false d a o z f)
def execAmominF (d a : BitVec 6) (o : BitVec 3) (z : BitVec 1) (f : BitVec 3) (s : State) : Out := .next (s.farAmo .min false d a o z f)
def execAmomaxF (d a : BitVec 6) (o : BitVec 3) (z : BitVec 1) (f : BitVec 3) (s : State) : Out := .next (s.farAmo .max false d a o z f)
def execAmoandF (d a : BitVec 6) (o : BitVec 3) (z : BitVec 1) (f : BitVec 3) (s : State) : Out := .next (s.farAmo .and false d a o z f)
def execAmoorF (d a : BitVec 6) (o : BitVec 3) (z : BitVec 1) (f : BitVec 3) (s : State) : Out := .next (s.farAmo .or false d a o z f)
def execAmoxorF (d a : BitVec 6) (o : BitVec 3) (z : BitVec 1) (f : BitVec 3) (s : State) : Out := .next (s.farAmo .xor false d a o z f)
def execAmoswapF (d a : BitVec 6) (o : BitVec 3) (z : BitVec 1) (f : BitVec 3) (s : State) : Out := .next (s.farAmo .swap false d a o z f)
def execAmocasF (d : BitVec 5) (a : BitVec 6) (o : BitVec 3) (z : BitVec 1) (f : BitVec 3) (s : State) : Out :=
  .next (s.farAmo .cas false (evenReg d) a o z f)
def execAmoaddFs (d a : BitVec 6) (o : BitVec 3) (z : BitVec 1) (f : BitVec 3) (s : State) : Out := .next (s.farAmo .add true d a o z f)
def execAmominFs (d a : BitVec 6) (o : BitVec 3) (z : BitVec 1) (f : BitVec 3) (s : State) : Out := .next (s.farAmo .min true d a o z f)
def execAmomaxFs (d a : BitVec 6) (o : BitVec 3) (z : BitVec 1) (f : BitVec 3) (s : State) : Out := .next (s.farAmo .max true d a o z f)
def execAmoandFs (d a : BitVec 6) (o : BitVec 3) (z : BitVec 1) (f : BitVec 3) (s : State) : Out := .next (s.farAmo .and true d a o z f)
def execAmoorFs (d a : BitVec 6) (o : BitVec 3) (z : BitVec 1) (f : BitVec 3) (s : State) : Out := .next (s.farAmo .or true d a o z f)
def execAmoxorFs (d a : BitVec 6) (o : BitVec 3) (z : BitVec 1) (f : BitVec 3) (s : State) : Out := .next (s.farAmo .xor true d a o z f)
def execAmoswapFs (d a : BitVec 6) (o : BitVec 3) (z : BitVec 1) (f : BitVec 3) (s : State) : Out := .next (s.farAmo .swap true d a o z f)
def execAmocasFs (d : BitVec 5) (a : BitVec 6) (o : BitVec 3) (z : BitVec 1) (f : BitVec 3) (s : State) : Out :=
  .next (s.farAmo .cas true (evenReg d) a o z f)

end Sys2Proof.Machine
end

