-- ==== Sys2Proof/Machine/Sync.lean ====
section
/-! DEFINITION. Barrier and signal objects (R243-R247), `STMC` (R242), ring rotation (R100-R102, R241) and the
synchronisation watchpoints (R464). -/

namespace Sys2Proof.Machine
open Sys2Proof

/-! ## Barrier objects -/

/-- A barrier object as its two words hold it (R243). -/
structure Barrier where
  count : Nat
  expected : Nat
  phase : Bool
  err : Nat
  pending : Int
  deriving DecidableEq, Repr

/-- A 48-bit two's-complement number. -/
def signed48 (n : Nat) : Int := if n % 2 ^ 48 < 2 ^ 47 then (n % 2 ^ 48 : Nat) else (n % 2 ^ 48 : Nat) - 2 ^ 48

/-- A barrier object by its two words. -/
def Barrier.ofWords (w p : Nat) : Barrier := ⟨w % 2 ^ 24, w / 2 ^ 24 % 2 ^ 24, w.testBit 48, w / 2 ^ 56 % 256, signed48 p⟩
def Barrier.ofBytes (l : List Byte) : Barrier := Barrier.ofWords (field l 0 8) (field l 8 8)
def State.barrier (s : State) (key : Nat) : Barrier := Barrier.ofWords (s.readN key 8) (s.readN (key + 8) 8)

def Barrier.word0 (b : Barrier) : Nat := b.count + b.expected * 2 ^ 24 + b.phase.toNat * 2 ^ 48 + b.err * 2 ^ 56
def Barrier.word1 (b : Barrier) : Nat := (b.pending % 2 ^ 48).toNat

def Barrier.error (b : Barrier) (e : Nat) : Barrier := if b.err = 0 then { b with err := e } else b

/-- Adds to PENDING, saturating at the signed 48-bit range with ERR 0x02 (R244). -/
def Barrier.addPending (b : Barrier) (d : Int) : Barrier :=
  let p := b.pending + d
  if p < -(2 ^ 47) then { b with pending := -(2 ^ 47) }.error 2
  else if 2 ^ 47 ≤ p then { b with pending := 2 ^ 47 - 1 }.error 2
  else { b with pending := p }

/-- Whether the update from `b` to `n` makes COUNT and PENDING both zero, and the object with the flip of that step
(R243). Log entry 79, DEDUCED. -/
def Barrier.flips (b n : Barrier) : Bool := n.count == 0 && n.pending == 0 && !(b.count == 0 && b.pending == 0)
/-- Log entry 79, DEDUCED. -/
def Barrier.settle (b n : Barrier) : Barrier :=
  if b.flips n then { n with count := n.expected, phase := !n.phase } else n

/-- An arrival that accounts for `d` pending bytes. Log entry 79, DEDUCED. -/
def Barrier.arrive (b : Barrier) (d : Int) : Barrier :=
  if b.count = 0 then b.error 1 else ({ b with count := b.count - 1 }.addPending d)

/-- Stores the object `b` as the update makes it, `n`; a flip sets both words full. -/
def State.putBarrier (s : State) (key : Nat) (b n : Barrier) : State :=
  let t := ((s.writeN key 8 (b.settle n).word0).writeN (key + 8) 8 (b.settle n).word1)
  if b.flips n then (t.setFull key true).setFull (key + 8) true else t

/-! ## Synchronisation watchpoints (R464) -/

/-- The watchpoints of the object's cell that an update fires: `arrival`, `last` and `flip` say what the update is. -/
def State.syncHits (s : State) (key : Nat) (arrival last flip : Bool) : List Nat :=
  let c := key / 2 ^ 43
  [0, 1].filter fun n =>
    let cfg := (s.cell c).ws.get 0 (2 * n + 1)
    cfg.getLsbD 0 && flatSpace key == 0 && ((s.cell c).ws.get 0 (2 * n)).toNat == key % 2 ^ 41 &&
      (match bitsAt cfg 1 2 with
        | 0 => arrival
        | 1 => last
        | _ => flip)

/-- Whether the watchpoints stop the context that makes the update: a local one of its own cell, watched, not stepping. -/
def State.syncStops (s : State) (key : Nat) (hits : List Nat) (actor : Option (Nat × Nat)) : List Nat :=
  match actor with
  | some (c, x) =>
    if c = key / 2 ^ 43 ∧ !(s.ctxOf c x).stepping then
      hits.filter fun n => ((s.cell c).ws.get 0 (2 * n + 1)).getLsbD (3 + x)
    else []
  | none => []

/-- OBSERVED and a WATCH record for watchpoints whose agent does not stop. -/
def State.observe (s : State) (key : Nat) (hits : List Nat) : State :=
  let c := key / 2 ^ 43
  hits.foldl (fun t n =>
    (t.modCell c fun k => { k with ws := k.ws.ins (2 * n + 1) (k.ws.get 0 (2 * n + 1) ||| 0x100) }).trace c 6 none 0 0
      (BitVec.ofNat 64 (2 ^ (4 + n) + 0x100)) (s.addrOf c 0 (key % 2 ^ 41))) s

/-- The update of a barrier object by any agent. `none`: a watched context must stop, and the update is not made. -/
def State.updateBarrier (s : State) (key : Nat) (actor : Option (Nat × Nat)) (arrival : Bool) (f : Barrier → Barrier) :
    State × List Nat :=
  let b := s.barrier key
  let b' := f b
  let hits := s.syncHits key arrival (arrival && b.count != 0 && b'.count == 0) (b.flips b')
  let stops := s.syncStops key hits actor
  if stops.isEmpty then ((s.putBarrier key b b').observe key (hits.filter fun n => !stops.contains n), [])
  else (s, stops)

/-- An engine's subtraction from PENDING of an object of the package, with the error it leaves (R244, R246). -/
def State.subtract (s : State) (key n err : Nat) : State :=
  (s.updateBarrier key none false fun b =>
    let b := if err = 0 then b else b.error err
    b.addPending (-(n : Int))).1

/-- The subtraction at the end of command `id` of context `x` of cell `c`. It never lands before the barrier operations that
the context issued ahead of the command: behind one still on its way, or to another package, it travels as they do (R336).
Log entry 13, DEDUCED. -/
def State.engineSub (s : State) (c x id : Nat) (addr : W64) (n err : Nat) : State :=
  let data := toBytes 8 n ++ toBytes 8 err
  let r : RemoteReq := ⟨s.pkg.number, c, x, id, id, 0, 0xF0, 3, addr, data, true, checkCode 0xF0 addr data⟩
  if s.fencedAt addr then s
  else if aPkg addr = s.pkg.number && !s.behind r then s.subtract (flatOf addr) n err else s.sendReq r

/-- The address at which a barrier or signal instruction acts: a local prefix, or a global address. -/
def State.objAddr (s : State) (ea : W64) : W64 :=
  if ea.extractLsb' 43 21 == 0 then s.localAddr s.focus.cell ea else ea

/-- What R74 says of a synchronising access of `n` bytes at an object. -/
def State.objError (s : State) (ea : W64) (n align : Nat) : Option Nat :=
  s.accessFault ⟨s.objAddr ea, n, align, true, true, false, false, s.was.supervisor⟩

/-- A barrier update by the issuing context: at once on its own cell, by message elsewhere. Log entry 13, DEDUCED. -/
def State.barrierOp (s : State) (op : Nat) (ea : W64) (data : W64) (arrival : Bool) (f : Barrier → Barrier) : State :=
  match s.objError ea 16 16 with
  | some k => s.violate k (s.violAddrOf ea false) (s.infoOf 3 false true false 0)
  | none =>
    if s.mustTravel (s.objAddr ea) then
      s.sendRemote op .store 0 3 false (s.objAddr ea) (toBytes 8 data.toNat) 0 (s.infoOf 3 false true false 0)
    else
      let r := s.updateBarrier (flatOf (s.objAddr ea)) (some (s.focus.cell, s.focus.ctx)) arrival f
      if r.2.isEmpty then r.1 else s.stop 0x08 ((r.2.foldl (fun m n => m + 2 ^ (4 + n)) 0) * 2 ^ 14)

/-- `BINIT` on an object (R244). -/
def Barrier.init (v : W64) (b : Barrier) : Barrier :=
  { b with expected := bitsAt v 0 24, count := bitsAt v 0 24, pending := 0, err := 0 }

def execBinit (a b : BitVec 6) (s : State) : Out :=
  .next (
    if bitsAt (s.rs b) 0 24 = 0 ∨ bitsAt (s.rs b) 24 40 ≠ 0 then s.illegal 37
    else s.barrierOp 0x3C (s.rs a) (s.rs b) false (Barrier.init (s.rs b)))

/-- `ARRIVE` and `ARRIVEX` release at the scope that holds the object, and close the Tarragon windows (R325). -/
def execArrive (a : BitVec 6) (s : State) : Out :=
  .next (s.barrierOp 0x37 (s.rs a) 0 true fun b => b.arrive 0).closeWindow

def execArrivex (a b : BitVec 6) (s : State) : Out :=
  .next (
    if bitsAt (s.rs b) 48 16 ≠ 0 then
      (s.violate kAddr (s.violAddrOf (s.rs a) false) (s.infoOf 3 false true false 0)).closeWindow
    else (s.barrierOp 0x38 (s.rs a) (s.rs b) true fun o => o.arrive (signed48 (s.rs b).toNat)).closeWindow)

/-- Whether a wait on an object of another package is held: its state there is not known to this package and is free at each
look. Log entry 22, DEDUCED. -/
def State.farHeld (s : State) : Bool := Config.freeBit s.draws

/-- The place by which a held wait names its object: one of another package lies beyond the package's memory.
Log entry 22, DEDUCED. -/
def State.waitKey (s : State) (a : W64) : Nat := if aPkg a = s.pkg.number then flatOf a else 2 ^ 54

/-- The object of a `BWAIT`, and whether it can still be held. -/
def State.bwaitObj (s : State) (a : BitVec 6) : W64 := (s.rs a) &&& ~~~1#64
/-- Log entry 22, DEDUCED. -/
def State.bwaitHeld (s : State) (a : BitVec 6) : Bool :=
  (s.objError (s.bwaitObj a) 16 16).isNone &&
    (if aPkg (s.objAddr (s.bwaitObj a)) = s.pkg.number then
      (s.barrier (flatOf (s.objAddr (s.bwaitObj a)))).phase == (s.rs a).getLsbD 0
    else s.farHeld)

/-- Pair 7 of a `BWAIT` that completes: ERR = 0. Log entry 22, DEDUCED. -/
def State.bwaitOk (s : State) (a : BitVec 6) : Bool :=
  if aPkg (s.objAddr (s.bwaitObj a)) = s.pkg.number then
    (s.barrier (flatOf (s.objAddr (s.bwaitObj a)))).err == 0
  else Config.freeBit (s.draws + 1)

/-- The draws of a look at an object of another package. -/
def State.lookedAt (s : State) (a : W64) : State := if aPkg a = s.pkg.number then s else s.drawn.drawn

/-- `BWAIT` (R245): completes with pair 7 := (ERR == 0), or at once with an error response. -/
def execBwait (a : BitVec 6) (s : State) : Out :=
  .next (
    match s.objError (s.bwaitObj a) 16 16 with
    | some k =>
      ((s.violate k (s.violAddrOf (s.bwaitObj a) false) (s.infoOf 3 false false false 0)).wpair 7 false).closeWindow
    | none =>
      s.behindRelease 0 fun s =>
      let s := s.settleClass 0
      let t := s.lookedAt (s.objAddr (s.bwaitObj a))
      if s.bwaitHeld a then t.block (.phase (s.waitKey (s.objAddr (s.bwaitObj a))) ((s.rs a).getLsbD 0))
      else (t.wpair 7 (s.bwaitOk a)).closeWindow)

/-! ## Signals (R247) -/

/-- The addition of a `SIGNAL`, by any agent. -/
def State.addSignal (s : State) (key : Nat) (v : W64) : State :=
  (s.writeN key 8 (s.read64 key + v).toNat).setFull key true

/-- An engine's addition to a signal object (R275). -/
def State.engineAdd (s : State) (addr v : W64) : State :=
  if aPkg addr ≠ s.pkg.number then s.engineReq 0 unawaited 0x3A addr (toBytes 8 v.toNat)
  else if s.fencedAt addr then s
  else (s.addSignal (flatOf addr) v).observe (flatOf addr) (s.syncHits (flatOf addr) true false false)

def execSignal (a b : BitVec 6) (s : State) : Out :=
  .next (
    let ea := s.rs a
    match s.objError ea 8 8 with
    | some k => s.violate k (s.violAddrOf ea false) (s.infoOf 3 false true false 0)
    | none =>
      if s.mustTravel (s.objAddr ea) then
        s.sendRemote 0x3A .store 0 3 false (s.objAddr ea) (toBytes 8 (s.rs b).toNat) 0 (s.infoOf 3 false true false 0)
      else
        let key := flatOf (s.objAddr ea)
        let hits := s.syncHits key true false false
        let stops := s.syncStops key hits (some (s.focus.cell, s.focus.ctx))
        if stops.isEmpty then (s.addSignal key (s.rs b)).observe key hits
        else s.stop 0x08 ((stops.foldl (fun m n => m + 2 ^ (4 + n)) 0) * 2 ^ 14))

/-- Log entry 22, DEDUCED. -/
def State.swaitHeld (s : State) (a b : BitVec 6) : Bool :=
  (s.objError (s.rs a) 8 8).isNone &&
    (if aPkg (s.objAddr (s.rs a)) = s.pkg.number then (s.read64 (flatOf (s.objAddr (s.rs a)))).ult (s.rs b) else s.farHeld)

def execSwait (a b : BitVec 6) (s : State) : Out :=
  .next (
    match s.objError (s.rs a) 8 8 with
    | some k => s.violate k (s.violAddrOf (s.rs a) false) (s.infoOf 3 false false false 0)
    | none =>
      s.behindRelease 0 fun s =>
      let s := s.settleClass 0
      let t := s.lookedAt (s.objAddr (s.rs a))
      if s.swaitHeld a b then t.block (.signal (s.waitKey (s.objAddr (s.rs a))) (s.rs b)) else t)

/-! ## The region ring (R9, R13) -/

/-- Width, height and size of a cell's region. -/
def Cell.regW (k : Cell) : Nat := bitsAt k.regionId 8 4 + 1
def Cell.regH (k : Cell) : Nat := bitsAt k.regionId 12 4 + 1
def Cell.regSize (k : Cell) : Nat := k.regionSize.toNat

/-- The logical cell at a ring position of a region with the given origin and width (R13). -/
def ringCell (origin w pos : Nat) : Nat :=
  let i := pos / w
  let j := if i % 2 = 0 then pos % w else w - 1 - pos % w
  (origin / 16 + i) * 16 + origin % 16 + j

/-- The cells of the region of a cell, by ring position. -/
def State.ringOf (s : State) (c : Nat) : List Nat :=
  let k := s.cell c
  (List.range k.regSize).map fun p => dieOf c * 256 + ringCell (bitsAt k.regionId 0 8) k.regW p

/-- The largest mesh distance from a cell of the ring to its successor (R101). -/
def ringDmax (w h : Nat) : Nat :=
  if w * h ≤ 1 then 0
  else max 1 (if h = 1 then w - 1 else if h % 2 = 0 then h - 1 else w - 1 + h - 1)

/-! ## STMC (R242) -/

def execStmc (d a b : BitVec 6) (s : State) : Out :=
  .next (
    let k := s.seen
    let off := bitsAt (s.rs a) 0 26
    let start := bitsAt (s.rs b) 0 8
    let n := if bitsAt (s.rs b) 8 8 = 0 then k.regSize else bitsAt (s.rs b) 8 8
    let addr := s.addrOf s.focus.cell 0 off
    let info := s.infoOf 3 false true false 0
    if bitsAt (s.rs a) 26 38 ≠ 0 ∨ bitsAt (s.rs b) 16 48 ≠ 0 ∨ k.regSize ≤ start then s.violate kAddr addr info
    else match s.localError addr 8 8 true true false with
      | some e => s.violate e addr info
      | none =>
        (List.range (min n k.regSize)).foldl (fun t i =>
          let c := (s.ringOf s.focus.cell).getD ((start + i) % k.regSize) 0
          t.sendFrom s.here.nextId 0x36 .store 0 3 false (s.addrOf c 0 off) (toBytes 8 (s.rs d).toNat) 0 info) s)

/-! ## Ring rotate (R100-R102, R241) -/

/-- Whether `n` bytes of scratch from `off` exist in cell `c`. -/
def inScratch (c off n : Nat) : Bool := decide (off + n ≤ spaceSize c 0)

def rotHeld (k : Cell) : Bool := k.rot.isSome

/-- `ROT` (R100-R102, R241). The source belongs to every class and is read as the instruction issues (R288). A poisoned
word of it is moved as such: R421 does not count `ROT` among the readers that consume. Log entry 77, DEDUCED. Log entry
26, DESIGN CHOICE. Log entry 108, DEDUCED. -/
def execRot (d a b : BitVec 6) (s : State) : Out :=
  .next (
    let n := (s.rs d).toNat
    let c := s.focus.cell
    if n % 512 ≠ 0 ∨ n < 512 ∨ 16384 < n then s.illegal 35
    else if rotHeld s.here then s.block .rotate
    else s.behindReleases fun s =>
      let src := (s.rs a).toNat
      let dst := (s.rs b).toNat
      let data := if inScratch c src n then some (s.readBytes (flat c 0 src) n) else none
      let s1 := if inScratch c src n then s else s.violate kAddr (s.addrOf c 0 src) (s.infoOf 0 true false false 0)
      let s2 := if inScratch c dst n then s1.setFullRange (flat c 0 dst) n false
        else s1.violate kAddr (s.addrOf c 0 dst) (s.infoOf 0 true true false 0)
      let s3 := s2.modHere fun k => { k with nextId := k.nextId + 1, rot := some ⟨flat c 0 src,
        s.poison.filter fun p => decide (flat c 0 src < p.1 + 8) && decide (p.1 < flat c 0 src + n), data, dst, n, s.focus.ctx,
        s.ctx.task, s.focus.slot, k.nextId⟩ }
      let ring := s3.ringOf c
      if ring.all (fun m => (s3.cell m).rot.isSome) && !ring.isEmpty then
        let big := ring.foldl (fun m q => match (s3.cell q).rot with | some r => max m r.len | none => m) 0
        let dmax := ringDmax s3.here.regW s3.here.regH
        s3.afterCycles (1 + 12 + big / 64 + 2 * dmax) .rotComplete
          { Args.empty with die := dieOf c, origin := bitsAt s3.here.regionId 0 8 }
      else s3)

/-- The end of a rotation: every receive in one step (R101, R102). Log entry 26, DESIGN CHOICE. Log entry 27, DEDUCED.
Log entry 108, DEDUCED. -/
def execRotComplete (s : State) : Out :=
  .next (
    let c0 := s.args.die * 256 + s.args.origin
    let ring := s.ringOf c0
    let rots := ring.filterMap fun m => (s.cell m).rot.map fun r => (m, r)
    let equal := rots.all fun r => rots.all fun q => r.2.len == q.2.len
    let n := ring.length
    let s' := (List.range n).foldl (fun t i =>
      let me := ring.getD i 0
      let pred := ring.getD ((i + n - 1) % n) 0
      match (s.cell me).rot, (s.cell pred).rot with
      | some r, some p =>
        if !inScratch me r.dst r.len then t
        else
          let t := t.engineWrite (flat me 0 r.dst) (if equal then p.data.getD (zeros r.len) else zeros r.len)
          if equal && p.data.isSome then t.carryPoison p.src (flat me 0 r.dst) r.len p.bad else t
      | _, _ => t) s
    rots.foldl (fun t r =>
      let t := t.modCell r.1 fun k => { k with rot := none }
      if equal then t else t.modTask r.1 r.2.ctx r.2.task fun x => x.violate kRot 0 (violInfo 0 r.2.slot 0 true true false 0)) s')

end Sys2Proof.Machine
end

