-- ==== Sys2Proof/Machine/Formats.lean ====
section
/-! DEFINITION. Format codes (R43), packed bit strings (R49), activation rows (R52), weight images (R50), and the chunk
residue (R98, R99). -/

namespace Sys2Proof.Machine
open Sys2Proof

/-- Bits per element of a format code; 0 for RAW and the reserved codes. -/
def fmtBits (f : Nat) : Nat :=
  match f with
  | 1 => 32
  | 2 => 16
  | 3 => 16
  | 4 => 8
  | 5 => 8
  | 6 => 6
  | 7 => 6
  | 8 => 4
  | 9 => 8
  | 10 => 32
  | 11 => 64
  | _ => 0
def fmtDefined (f : Nat) : Bool := decide (f ≤ 0x0B)
def blockScaled (f : Nat) : Bool := decide (6 ≤ f) && decide (f ≤ 8)
def fmtAX : Nat := 0x0B

/-- The floating-point format of a code. -/
def fmtOf (f : Nat) : Option Fmt :=
  match f with
  | 1 => some fp32
  | 2 => some fp16
  | 3 => some bf16
  | 4 => some e4m3
  | 5 => some e5m2
  | 6 => some e2m3
  | 7 => some e3m2
  | 8 => some e2m1
  | _ => none

/-- K of the engines of a cell (R11). -/
def engineK (c : Nat) : Nat := if isC c then 128 else 64

/-- Element `i` of a packed string of `b`-bit elements, held as one number (R49). -/
def packedAt (s b i : Nat) : Nat := s / 2 ^ (b * i) % 2 ^ b

/-- Bytes of an activation row (R52). -/
def rowBytes (k f : Nat) : Nat :=
  let n := k * fmtBits f / 8 + (if blockScaled f then k / 8 else 0) + 2
  (n + 7) / 8 * 8

/-- Bytes of a weight image and of its checksum vector (R50). -/
def imageBytes (k f : Nat) : Nat := 64 * (k * fmtBits f / 8) + (if blockScaled f then 64 * (k / 8) else 0) + 64 * (k / 64) * 2
def checkBytes (k : Nat) : Nat := 4 * k

/-! ## The burgee -/

def p61 : Nat := 2 ^ 61 - 1

/-- Sum of 8-byte little-endian words, the last padded with zeros. -/
def sumWords : Nat → List Byte → Nat
  | 0, _ => 0
  | _, [] => 0
  | n + 1, l => ofBytes (l.take 8) + sumWords n (l.drop 8)

/-- A 64-bit two's-complement number. -/
def signed64 (n : Nat) : Int := if n % 2 ^ 64 < 2 ^ 63 then (n % 2 ^ 64 : Nat) else (n % 2 ^ 64 : Nat) - 2 ^ 64

def sumSigned : Nat → List Byte → Int
  | 0, _ => 0
  | _, [] => 0
  | n + 1, l => signed64 (ofBytes (l.take 8)) + sumSigned n (l.drop 8)

/-- The residue of a payload, raw or AX (R99). -/
def residue (ax : Bool) (l : List Byte) : Nat :=
  if ax then (sumSigned (l.length + 1) l % p61).toNat else sumWords (l.length + 1) l % p61

def burgeeOf (ax : Bool) (l : List Byte) : W64 := BitVec.ofNat 64 (ax.toNat * 2 ^ 61 + residue ax l)

/-- The residue check of a hop: a defined kind and a matching residue (R98, R99). -/
def burgeeOk (ck : Chunk) : Bool :=
  let k := bitsAt ck.burgee 61 3
  decide (k ≤ 1) && residue (k == 1) ck.payload == bitsAt ck.burgee 0 61

/-- The 32 bytes of a chunk header (R95). -/
def headerBytes (ck : Chunk) : List Byte :=
  toBytes 2 ck.stream.toNat
    ++ [BitVec.ofNat 8 (ck.tag.toNat + ck.endMb.toNat * 16 + ck.last.toNat * 32 + ck.replay.toNat * 64
        + ck.census.toNat * 128), ck.attempt]
    ++ toBytes 4 ck.seq.toNat ++ [ck.fmt, ck.rsvd] ++ toBytes 2 ck.length.toNat ++ toBytes 2 ck.axexp.toNat
    ++ toBytes 2 ck.mb.toNat ++ toBytes 8 ck.burgee.toNat ++ toBytes 4 ck.hop.toNat ++ toBytes 4 ck.origin.toNat

/-- A chunk from its header and payload bytes. -/
def chunkOf (l : List Byte) : Chunk :=
  let b2 := field l 2 1
  { stream := BitVec.ofNat 16 (field l 0 2)
    tag := BitVec.ofNat 4 b2
    endMb := b2.testBit 4
    last := b2.testBit 5
    replay := b2.testBit 6
    census := b2.testBit 7
    attempt := BitVec.ofNat 8 (field l 3 1)
    seq := BitVec.ofNat 32 (field l 4 4)
    fmt := BitVec.ofNat 8 (field l 8 1)
    rsvd := BitVec.ofNat 8 (field l 9 1)
    length := BitVec.ofNat 16 (field l 10 2)
    axexp := BitVec.ofNat 16 (field l 12 2)
    mb := BitVec.ofNat 16 (field l 14 2)
    burgee := BitVec.ofNat 64 (field l 16 8)
    hop := BitVec.ofNat 32 (field l 24 4)
    origin := BitVec.ofNat 32 (field l 28 4)
    payload := (l.drop 32).take (field l 10 2) }

/-- A HOP word (R96). Log entry 12, DEDUCED. -/
def State.hopWord (s : State) (die point kind : Nat) : BitVec 32 :=
  BitVec.ofNat 32 (s.pkg.number.toNat + die * 2 ^ 10 + point * 2 ^ 13 + kind * 2 ^ 21)

end Sys2Proof.Machine
end

