-- ==== Sys2Proof/Machine/MatrixMath.lean ====
section
/-! DEFINITION. Arithmetic of the matrix engines (R60-R63): products, blocks, bands, accumulation, checksums and the
rounding of drains. -/

namespace Sys2Proof.Machine
open Sys2Proof

/-- An exact number m × 2^e. -/
abbrev Dyadic := Int × Int
def dAdd (x y : Dyadic) : Dyadic := addScaled x.1 x.2 y.1 y.2
def dMul (x y : Dyadic) : Dyadic := (x.1 * y.1, x.2 + y.2)
def dAbs (x : Dyadic) : Dyadic := (x.1.natAbs, x.2)
def dLt (x y : Dyadic) : Bool := decide ((addScaled x.1 x.2 (-y.1) y.2).1 < 0)
def FVal.dyadic : FVal → Option Dyadic
  | .fin n m e => some (sgn n m, e)
  | _ => none

/-- The value of an element code of an activation or weight format. -/
def elemValue (f c : Nat) : FVal :=
  if f = 9 then ofInt (if c % 256 < 128 then (c % 256 : Nat) else (c % 256 : Nat) - 256)
  else match fmtOf f with
    | some g => g.value c
    | none => .fin false 0 0

/-- One side of a product row: element codes as one packed number, and block scale codes. -/
structure Side where
  fmt : Nat
  elems : Nat
  scales : List Nat
  deriving DecidableEq, Repr

def Side.scale (r : Side) (k : Nat) : Nat := if blockScaled r.fmt then r.scales.getD (k / 8) 0 else 0x60
def Side.elem (r : Side) (k : Nat) : FVal := elemValue r.fmt (packedAt r.elems (fmtBits r.fmt) k)
/-- Value of element `k` with its block scale; a NaN block is NaN (R47), and so is an infinity with scale 0x00. Log entry
112, DESIGN CHOICE. -/
def Side.value (r : Side) (k : Nat) : FVal :=
  if r.scale k = 0xFF then .nan false
  else match r.elem k with
    | .fin n m e => let v := scaleValue (r.scale k); .fin n (m * v.1) (e + v.2)
    | v => v

/-- Whether a pair needs the 56-bit window (R62). Log entry 14, DEDUCED. -/
def windowed (a w : Nat) : Bool := a == 3 || a == 5 || w == 3 || w == 5

/-- Least significant bit of the window: the top magnitude bit lies 6 places above the leading bit of the largest product,
and the window has 55 magnitude bits (R61, R62; log entry 14). -/
def windowLsb (ps : List Dyadic) : Int :=
  ps.foldl (fun (o : Int) p => if p.1 = 0 then o else max o (p.2 + Nat.log2 p.1.natAbs + 6 - 54)) (-100000)

/-- A term in units of 2^q, rounded toward −∞. Log entry 14, DEDUCED. -/
def floorAt (q : Int) (p : Dyadic) : Int :=
  if q ≤ p.2 then p.1 * 2 ^ (p.2 - q).toNat else p.1 / 2 ^ (q - p.2).toNat

/-- The sum of a band's products: NaN, an infinity, or an exact number (R60-R63). Log entry 14, DEDUCED. -/
def bandSum (a w : Side) (g : Nat) : FVal :=
  let ps := (List.range 64).map fun i => ((a.value (64 * g + i)).mul (w.value (64 * g + i))).1
  if ps.any FVal.isNaN then .nan false
  else
    let pinf := ps.any fun p => p == .inf false
    let ninf := ps.any fun p => p == .inf true
    if pinf && ninf then .nan false
    else if pinf then .inf false
    else if ninf then .inf true
    else
      let ds := ps.filterMap FVal.dyadic
      let sum : Dyadic :=
        if windowed a.fmt w.fmt then
          let q := windowLsb ds
          (ds.foldl (fun t p => t + floorAt q p) 0, q)
        else ds.foldl dAdd (0, 0)
      .fin (decide (sum.1 < 0)) sum.1.natAbs sum.2

/-- Step 4: times the band scale, rounded once to FP32; a NaN is canonical. -/
def bandResult (a w : Side) (g : Nat) (band : Nat) : Nat := (fp32.round .exact ((bandSum a w g).mul (bf16.value band)).1).1

/-- One FP32 addition of the accumulator. -/
def accAdd (x y : Nat) : Nat := (fp32.round .exact ((fp32.value x).add .rne (fp32.value y)).1).1

/-- Step 5: the bands added in order (R60). -/
def accBands (acc : Nat) (a w : Side) (bands : List Nat) : Nat :=
  (List.range bands.length).foldl (fun t g => accAdd t (bandResult a w g (bands.getD g 0))) acc

/-- The checksum of a row: exact sum over k of its value times the checksum vector; none where it is not finite. -/
def rowCheck (k : Nat) (a : Side) (check : Nat) : Option Dyadic :=
  (List.range k).foldl (fun t i =>
    match t, ((a.value i).mul (fp32.value (packedAt check 32 i))).1.dyadic with
    | some s, some p => some (dAdd s p)
    | _, _ => none) (some (0, 0))

/-! ## Rows and images as bytes -/

/-- An activation row (R52). -/
def rowSide (k f : Nat) (l : List Byte) : Side :=
  let n := k * fmtBits f / 8
  ⟨f, ofBytes (l.take n), ((l.drop n).take (k / 8)).map BitVec.toNat⟩
def rowScaleOf (k f : Nat) (l : List Byte) : Nat := field l (k * fmtBits f / 8 + (if blockScaled f then k / 8 else 0)) 2

/-- Column `n` of a weight image (R50). -/
def colSide (k f n : Nat) (img : List Byte) : Side :=
  let cb := k * fmtBits f / 8
  ⟨f, field img (n * cb) cb, ((img.drop (64 * cb + n * (k / 8))).take (k / 8)).map BitVec.toNat⟩
/-- Offset of the band scales of an image. -/
def bandOff (k f : Nat) : Nat := 64 * (k * fmtBits f / 8) + (if blockScaled f then 64 * (k / 8) else 0)
def colBands (k f n : Nat) (img : List Byte) : List Nat :=
  (List.range (k / 64)).map fun g => field img (bandOff k f + 2 * (n * (k / 64) + g)) 2
/-- The checksum vector behind the image, as one packed number. -/
def checkOf (k f : Nat) (img : List Byte) : Nat := ofBytes ((img.drop (imageBytes k f)).take (checkBytes k))

/-! ## Drains (R63, R256) -/

/-- acc × row scale, rounded once to the output format. -/
def drainElem (f acc scale : Nat) : Nat :=
  let v := ((fp32.value acc).mul (bf16.value scale)).1
  match f with
  | 1 => (fp32.round .exact v).1
  | 2 => (fp16.round .exact v).1
  | 3 => (bf16.round .exact v).1
  | 4 => (e4m3.narrow .exact v).1
  | _ => (e5m2.narrow .exact v).1

/-- x × g rounded to nearest even in a format with infinities (R257). -/
def scaleBy (f : Fmt) (x : Nat) (g : Nat) : Nat := (f.round .exact ((f.value x).mul (fp32.value g)).1).1

end Sys2Proof.Machine
end

