-- ==== Sys2Proof/Machine/Tarragon.lean ====
section
/-! DEFINITION. The Tarragon rewrite stage (R317-R325): rule entries, their load, and the match made when an entry
enters a matrix engine's queue. -/

namespace Sys2Proof.Machine
open Sys2Proof

/-- A field of a rule entry (R320). -/
def rfield (r : BitVec 128) (lo n : Nat) : Nat := r.toNat / 2 ^ lo % 2 ^ n

def ruleNP (r : BitVec 128) : Nat := rfield r 3 2
def ruleNR (r : BitVec 128) : Nat := rfield r 5 2
def ruleOp (r : BitVec 128) (k : Nat) : Nat := rfield r (8 + 4 * k) 4
def ruleAuxV (r : BitVec 128) (k : Nat) : Nat := rfield r (32 + 16 * k) 8
def ruleAuxM (r : BitVec 128) (k : Nat) : Nat := rfield r (40 + 16 * k) 8
/-- Fields of replacement i: OP, TSRC, SSRC, AUXSRC, AUXC, FSEL, ORIG. -/
def xOp (r : BitVec 128) (i : Nat) : Nat := rfield r (80 + 24 * i) 4
def xT (r : BitVec 128) (i : Nat) : Nat := rfield r (84 + 24 * i) 2
def xS (r : BitVec 128) (i : Nat) : Nat := rfield r (86 + 24 * i) 2
def xAux (r : BitVec 128) (i : Nat) : Nat := rfield r (88 + 24 * i) 2
def xAuxC (r : BitVec 128) (i : Nat) : Nat := rfield r (90 + 24 * i) 8
def xF (r : BitVec 128) (i : Nat) : Nat := rfield r (98 + 24 * i) 3
def xOrig (r : BitVec 128) (i : Nat) : Nat := rfield r (101 + 24 * i) 3

/-- Operations a rule may name (R321). -/
def ruleOpOk (o : Nat) : Bool := o == 4 || o == 5 || o == 6 || o == 7 || o == 8 || o == 9
/-- Operations that touch memory, which a replacement keeps in order. -/
def memOp (o : Nat) : Bool := o == 4 || o == 5 || o == 6

/-- The pairs of entries that EQ compares. -/
def eqPairs : List (Nat × Nat) := [(0, 1), (0, 2), (1, 2)]

/-- Whether a load rejects an entry with V = 1 (R321). -/
def ruleRejected (r : BitVec 128) : Bool :=
  let np := ruleNP r
  let nr := ruleNR r
  let xs := List.range nr
  rfield r 1 2 == 3 || np == 0 || nr == 3 || rfield r 7 1 != 0
    || (List.range np).any (fun k => !ruleOpOk (ruleOp r k))
    || xs.any (fun i => !ruleOpOk (xOp r i))
    || xs.any (fun i => decide (np ≤ xT r i) || decide (np ≤ xS r i) || (xAux r i != 3 && decide (np ≤ xAux r i)))
    || (List.range 9).any (fun b => rfield r (23 + b) 1 == 1 && decide (np ≤ (eqPairs.getD (b % 3) (0, 0)).2))
    || (List.range 3).any (fun k => rfield r (20 + k) 1 == 1 && decide (np ≤ k))
    || xs.any (fun i => xF r i != 0 && (xOp r i != 9 || xF r i == 7
        || (xF r i == 2 && decide (np < 2)) || (xF r i == 3 && decide (np < 3)) || (xF r i == 4 && decide (np < 2))
        || (decide (5 ≤ xF r i) && decide (np < 3))))
    || (List.range 3).any (fun k => decide (np ≤ k) && (ruleOp r k != 0 || ruleAuxV r k != 0 || ruleAuxM r k != 0))
    || (List.range 2).any (fun i => decide (nr ≤ i) && rfield r (80 + 24 * i) 24 != 0)
    || (nr == 0 && (xOrig r 0 != 0 || xOrig r 1 != 0))
    || (decide (1 ≤ nr) && (
        xs.foldl (fun m i => m ||| xOrig r i) 0 != 2 ^ np - 1
        || (nr == 2 && (xOrig r 0 &&& xOrig r 1) != 0)
        || (nr == 2 && (List.range 3).any fun k => (xOrig r 1).testBit k &&
            (List.range 3).any fun j => decide (k < j) && (xOrig r 0).testBit j)))
    || (let ps := (List.range np).filter fun k => memOp (ruleOp r k)
        let qs := xs.filter fun i => memOp (xOp r i)
        ps.length != qs.length || (ps.zip qs).any fun p => ruleOp r p.1 != xOp r p.2 || xS r p.2 != p.1)

/-! ## The match -/

/-- g of an entry: its factor, or bits 31:0 of its captured value. -/
def MEntry.g (e : MEntry) : Nat := (e.factor.getD (e.sval.setWidth 32)).toNat

/-- A positive FP32 power of two from 1.0 to 2^127. -/
def posPow2 (g : Nat) : Bool := decide (127 * 2 ^ 23 ≤ g) && decide (g ≤ 254 * 2 ^ 23) && g % 2 ^ 23 == 0

/-- The factor that FSEL names (R319). -/
def factorOf (f : Nat) (gs : List Nat) : Nat :=
  let g (i : Nat) := gs.getD i 0
  match f with
  | 1 => g 0
  | 2 => g 1
  | 3 => g 2
  | 4 => scaleBy fp32 (g 0) (g 1)
  | 5 => scaleBy fp32 (g 1) (g 2)
  | _ => scaleBy fp32 (scaleBy fp32 (g 0) (g 1)) (g 2)

def finiteNonzero (g : Nat) : Bool := g % 2 ^ 31 != 0 && decide (g % 2 ^ 31 < 0x7F800000)

/-- The union of origins, in the order of the entries. -/
def originsOf (es : List MEntry) : List (Nat × Nat) :=
  es.foldl (fun l e => l ++ e.origins.filter fun o => !l.contains o) []

/-- Whether a rule applies to the last NP entries of a window (R318). -/
def ruleMatches (r : BitVec 128) (perm : W64) (es : List MEntry) : Bool :=
  let np := ruleNP r
  let gs := es.map MEntry.g
  es.length == np
    && (List.range np).all (fun k => match es[k]? with
        | some e => e.op == ruleOp r k && (e.aux.toNat % 256 &&& ruleAuxM r k) == (ruleAuxV r k &&& ruleAuxM r k)
        | none => false)
    && (List.range 3).all (fun i =>
        let p := eqPairs.getD i (0, 0)
        match es[p.1]?, es[p.2]? with
        | some a, some b =>
          (rfield r (23 + i) 1 == 0 || a.t == b.t) && (rfield r (26 + i) 1 == 0 || a.aux == b.aux)
            && (rfield r (29 + i) 1 == 0 || a.sval == b.sval)
        | _, _ => true)
    && (List.range np).all (fun k => rfield r (20 + k) 1 == 0 || posPow2 (gs.getD k 0))
    && (List.range (ruleNR r)).all (fun i => xF r i == 0 || finiteNonzero (factorOf (xF r i) gs))
    && decide ((originsOf es).length ≤ 3)
    && perm.getLsbD (rfield r 1 2)

/-- The stream from which an `MMUL` or `MMAC` with aux[7] set takes its rows: that of the entry whose s it has, else the
number that the captured value holds (R319). -/
def rowStream (op : Nat) (aux : BitVec 11) (src : MEntry) : Option Nat :=
  if (op = 4 ∨ op = 5) ∧ aux.getLsbD 7 then some (src.stream.getD (src.sval.toNat % 16)) else none

/-- Operations that take the tile they name (R251). -/
def takesTile (op : Nat) : Bool := op == 4 || op == 7

/-- Of the entries of one match, an operation that takes a tile cancels the releases of those before it, as its instruction
would (R251, R319). -/
def keptByLater : List MEntry → List MEntry
  | [] => []
  | e :: t => { e with kept := t.any fun d => takesTile d.op && d.t == e.t } :: keptByLater t

/-- The replacement entries (R319). -/
def replacements (r : BitVec 128) (es : List MEntry) : List MEntry :=
  let from_ (i : Nat) : List MEntry := (List.range es.length).filterMap fun k => if (xOrig r i).testBit k then es[k]? else none
  keptByLater ((List.range (ruleNR r)).filterMap fun i =>
    match es[xT r i]?, es[xS r i]?, es.getLast? with
    | some et, some esrc, some last =>
      let aux := if xAux r i = 3 then BitVec.ofNat 11 (xAuxC r i) else (es[xAux r i]?.map MEntry.aux).getD 0
      some { last with
        op := xOp r i
        t := et.t
        sval := esrc.sval
        stream := rowStream (xOp r i) aux esrc
        aux := aux
        past := es.flatMap MEntry.past
        factor := if xF r i = 0 then esrc.factor else some (BitVec.ofNat 32 (factorOf (xF r i) (es.map MEntry.g)))
        origins := originsOf (from_ i)
        born := (from_ i).flatMap MEntry.born }
    | _, _, _ => none)

/-- Tries every valid rule in index order; the first that applies replaces the matched entries, keeps their originals
behind them and counts a hit. -/
def State.rewrite (s : State) (c x e : Nat) : State :=
  let k := s.cell c
  let m := k.mats.get MatEngine.reset e
  let t := k.ctx x
  if k.rwLoad.isSome then s
  else
    let cand := k.rwRules.findSome? fun q =>
      let np := ruleNP q.2
      let es := m.queue.drop (m.queue.length - np)
      if q.2.getLsbD 0 && decide (np ≤ m.queue.length)
          && es.all (fun d => d.ctx == x && d.window == t.window.get 0 e && !d.inhibited)
          && ruleMatches q.2 (t.rwPermClosed.get 0 e) es then some (q.1, q.2, es) else none
    match cand with
    | none => s
    | some (n, r, es) =>
      s.modCell c fun k => { k.putCtx x ((k.ctx x).count 10 1) with
        mats := k.mats.ins e { m with
          queue := m.queue.take (m.queue.length - es.length) ++ replacements r es
          originals := m.originals ++ es.filter fun d => d.born.length == 1 && !m.originals.any fun o => o.born == d.born }
        rwHits := k.rwHits.ins n (BitVec.ofNat 64 (min ((k.rwHits.get 0 n).toNat + 1) 0xFFFFFFFF)) }

/-! ## Table loads (R323) -/

/-- `RW_TABLE_LOAD`: a write that sets LOAD. -/
def execRwTableLoad (s : State) : Out := .next (s.writeRwTable s.args.c .write (s.args.v ||| 1))

/-- `RW_TABLE_LOAD_DONE`: entries 0 to COUNT − 1 from the instruction store, rejected ones invalid, the others too; a read
past the store's end loads nothing. -/
def execRwTableLoadDone (s : State) : Out :=
  .next (
    let c := s.args.c
    let k := s.cell c
    match k.rwLoad with
    | none => s
    | some (_, w) =>
      let addr := bitsAt w 4 13 * 16
      let n := bitsAt w 17 7
      let base := k.rwTable &&& 0xFFFFF0
      if 0x20000 < addr + 16 * n then
        let idx := (0x20000 - addr) / 16
        s.modCell c fun k => { k with
          rwLoad := none, rwRules := [], rwTable := base ||| BitVec.ofNat 64 (2 ^ 25 + idx % 64 * 2 ^ 26) }
      else
        let es := (List.range n).map fun i => (i, BitVec.ofNat 128 (s.readN (flat c 2 (addr + 16 * i)) 16))
        let bad := es.filter fun e => e.2.getLsbD 0 && ruleRejected e.2
        s.modCell c fun k => { k with
          rwLoad := none
          rwRules := es.filter fun e => e.2.getLsbD 0 && !ruleRejected e.2
          rwTable := base ||| (match bad with
            | [] => 0
            | b :: _ => BitVec.ofNat 64 (2 ^ 25 + b.1 * 2 ^ 26)) })

/-- `TARRAGON_IDLE_CLOSE` (R325): 64 counted cycles without an M entry of the context on an engine close its window there,
once: the next count begins with its next entry. -/
def execTarragonIdleClose (s : State) : Out :=
  .next (s.modCtxOf s.args.c s.args.x fun t =>
    { t.closeOn s.args.e t.rwPerm with lastM := t.lastM.filter fun p => p.1 != s.args.e })

end Sys2Proof.Machine
end

