-- ==== Sys2Proof/Machine/Layout.lean ====
section
/-! DEFINITION. Translation (R77-R80, R170, R373-R376): the layout unit, tile tables, the edge translation buffer, the
fault buffer's records, and `XLT`. -/

namespace Sys2Proof.Machine
open Sys2Proof

/-- The outcome of a translation (R80): an address, or the code of R170. -/
inductive XOut where
  | ok (a : W64)
  | fail (code : Nat)
  deriving DecidableEq, Repr

def xNotPresent : Nat := 1
def xRange : Nat := 2
def xBadEntry : Nat := 3

/-! ## The layout unit (R78) -/

/-- Bytes of an element of a whole-byte format; RAW elements are bytes. -/
def elemBytes (f : Nat) : Nat := max (fmtBits f / 8) 1

/-- Tile number, and the offset before its kind is looked at. -/
def Tensor.tileOff (t : Tensor) (cs : List Nat) : Nat × Nat :=
  let r := (List.range 4).foldl (fun (a : Nat × Nat × Nat × Nat) i =>
    let c := cs.getD i 0
    let g := (t.dim i + t.size i - 1) / t.size i
    (a.1 + c / t.size i * a.2.1, a.2.1 * g, a.2.2.1 + c % t.size i * a.2.2.2, a.2.2.2 * t.size i)) (0, 1, 0, 1)
  (r.1, r.2.2.1)

/-- Tile number and byte offset of the coordinates, or none beyond a dimension. -/
def Tensor.layout (t : Tensor) (cs : List Int) : Option (Nat × Nat) :=
  if (List.range 4).any fun i => decide (cs.getD i 0 < 0) || decide ((t.dim i : Int) ≤ cs.getD i 0) then none
  else
    let ns := cs.map Int.toNat
    let r := t.tileOff ns
    let off := match t.kind with
      | 0 => r.2 * elemBytes t.fmt
      | 1 => 0
      | _ => ns.getD 1 0 % t.size 1 * rowBytes (t.dim 0) t.fmt
    some (r.1, off)

/-- Bytes of a tile (R77); K of a weight image is its T0. -/
def Tensor.tileBytes (t : Tensor) : Nat :=
  match t.kind with
  | 0 => t.size 0 * t.size 1 * t.size 2 * t.size 3 * elemBytes t.fmt
  | 1 => imageBytes (t.size 0) t.fmt + checkBytes (t.size 0)
  | _ => t.size 1 * rowBytes (t.dim 0) t.fmt

/-! ## Memory as engines reach it -/

/-- `n` free bytes. Log entry 10, DESIGN CHOICE. -/
def freeBytes (d n : Nat) : List Byte := (List.range n).map fun i => (Config.freeWord (d + i)).setWidth 8

/-- `n` bytes at a global address. Memory of another package is outside the machine: what an engine reads there is free.
Log entry 10, DESIGN CHOICE. -/
def State.globalRead (s : State) (a : W64) (n : Nat) : List Byte × State :=
  if aPkg a = s.pkg.number then (s.readBytes (flatOf a) n, s)
  else (freeBytes s.draws n, { s with draws := s.draws + n })

/-- Bytes that an agent without a context reads, in the CSR window too (R71). -/
def State.placeRead (s : State) (a : W64) (n : Nat) : List Byte × State :=
  if aPkg a = s.pkg.number ∧ aSpace a = 3 then (s.windowBytes (aCell a) 0 (aOff a) n, s) else s.globalRead a n

/-- Stores to the CSR window, CSR by CSR, the first `n` bytes of a run. -/
def State.windowRun (s : State) (c : Nat) (sup : Bool) : Nat → Nat → List Byte → State
  | 0, _, _ => s
  | n + 1, off, l =>
    if l.isEmpty then s
    else
      let m := 8 - off % 8
      (s.windowStore c 0 off (l.take m) sup).windowRun c sup n (off + (l.take m).length) (l.drop m)

/-- A write by such an agent. -/
def State.placeStore (s : State) (a : W64) (l : List Byte) (sup : Bool) : State :=
  if s.fencedAt a then s
  else if aPkg a = s.pkg.number ∧ aSpace a = 3 then s.windowRun (aCell a) sup l.length (aOff a) l else s.globalWrite a l

/-! ## The fault buffer (R370, R378) -/

/-- Word 1 of a fault record. -/
def faultWord1 (kind c x src : Nat) (held : Bool) (tensor : Nat) : W64 :=
  BitVec.ofNat 64 (kind + c % 256 * 2 ^ 8 + x % 4 * 2 ^ 16 + src * 2 ^ 18 + held.toNat * 2 ^ 22 + tensor % 65536 * 2 ^ 32)

/-- Posts a fault record of a cell on its die. -/
def State.postFault (s : State) (c x kind src : Nat) (held : Bool) (tensor : Nat) (w2 w3 : W64) : State :=
  s.modDie (dieOf c) fun d => { d with
    faults := d.faults.push 256 [s.tai, faultWord1 kind c x src held tensor, w2, w3] }

/-- Whether a source has a record held while the buffer is full (R380). -/
def State.recordHeld (s : State) (c x src : Nat) : Bool :=
  (s.die (dieOf c)).faults.held.any fun r =>
    bitsAt (r.getD 1 0) 8 14 == c % 256 + x % 4 * 2 ^ 8 + src * 2 ^ 10

/-! ## Tile tables -/

/-- Whether a tile-table entry can be read at an address (R80). -/
def State.tableReadable (s : State) (a : W64) : Bool :=
  !s.noCell a && !s.fencedAt a && aRsvd a == 0 && decide ((aPkg a).toNat ≤ 992) && decide (aSpace a < 2) && a.toNat % 8 == 0
    && decide (aOff a + 8 ≤ spaceSize (aCell a) (aSpace a))

/-- An entry of a tile table as translation sees it (R300), none where it cannot be read. Whether a table of another package
answers within 64 µs, and what it holds, is free. Log entry 10, DESIGN CHOICE. -/
def State.tableEntry (s : State) (t : Tensor) (tile : Nat) : Option W64 × State :=
  let a := t.table + BitVec.ofNat 64 (8 * tile)
  if !s.tableReadable a then (none, s)
  else if aPkg a = s.pkg.number then (some (BitVec.ofNat 64 (ofBytes (s.tableBytes (flatOf a) 8))), s)
  else
    (if Config.freeBit s.draws then some (Config.freeWord (s.draws + 1)) else none, { s with draws := s.draws + 2 })

/-- The outcome that an entry gives (R80). -/
def entryOut (e : Option W64) (off : Nat) : XOut :=
  match e with
  | none => .fail xBadEntry
  | some w =>
    if !w.getLsbD 0 then .fail xNotPresent
    else if bitsAt w 1 13 != 0 then .fail xBadEntry
    else .ok ((w &&& ~~~0x3FFF#64) + BitVec.ofNat 64 off)

/-! ## The edge translation buffer (R375) -/

def tbKey (tensor tile : Nat) : Nat := tensor * 2 ^ 64 + tile
/-- Log entry 28, DEDUCED. -/
def tbSet (k : Nat) : Nat := Nat.xor (k % 2 ^ 64) (k / 2 ^ 64) % 64

/-- Fills an entry; the victim of a full set is the oldest. Log entry 28, DEDUCED. -/
def tbFill (l : List (Nat × W64)) (k : Nat) (e : W64) : List (Nat × W64) :=
  let same := l.filter fun p => tbSet p.1 == tbSet k
  let l := match same with
    | v :: _ => if 8 ≤ same.length then l.erase v else l
    | [] => l
  l ++ [(k, e)]

/-- Reads an entry for a gather stream through the buffer of a die. Log entry 28, DEDUCED. -/
def State.edgeEntry (s : State) (die tensor : Nat) (t : Tensor) (tile : Nat) : Option W64 × State :=
  match (s.die die).tb.find? fun p => p.1 == tbKey tensor tile with
  | some p => (some p.2, s)
  | none =>
    let r := s.tableEntry t tile
    match r.1 with
    | some e => (some e, r.2.modDie die fun d => { d with tb := tbFill d.tb (tbKey tensor tile) e })
    | none => r

/-- Translates for a context or engine of cell `c`: source number as in R378. -/
def State.translate (s : State) (c x src tensor : Nat) (cs : List Int) : XOut × State :=
  match (s.die (dieOf c)).tensors.find? fun e => e.1 == tensor with
  | none => (.fail xBadEntry, s.postFault c x 2 src false tensor 0 0)
  | some (_, t) =>
    match t.layout cs with
    | none => (.fail xRange, s)
    | some (tile, off) =>
      let r := s.tableEntry t tile
      let o := entryOut r.1 off
      (o, if o = .fail xBadEntry then r.2.postFault c x 2 src false tensor (BitVec.ofNat 64 tile) 0 else r.2)

/-! ## XLT (R170) -/

/-- The port-context entry of a stream of the cell that an `XLT` hits. -/
def Cell.portEntry (k : Cell) (tensor tile : Nat) : Option W64 :=
  k.seqs.findSome? fun q =>
    match q.2.entry with
    | some (n, e) => if q.2.tensor.toNat = tensor ∧ n = tile then some e else none
    | none => none

/-- The coordinates of an `XLT`. -/
def xltCoords (a b : W64) : List Int :=
  [(bitsAt b 0 24 : Nat), (bitsAt b 24 24 : Nat), (bitsAt a 16 24 : Nat), (bitsAt a 40 24 : Nat)]

/-- The answer of an `XLT`: the outcome code, and the value for its register. -/
def xltAnswer (o : XOut) : Nat × Nat × List Byte × W64 :=
  match o with
  | .ok v => (0, 0, toBytes 8 v.toNat, 0)
  | .fail k => (k, 0, toBytes 8 (failWord k).toNat, 0)

/-- Gives the awaited `XLT` numbered `id` its outcome, to be written at a cell clock. -/
def State.xltDone (s : State) (c x id : Nat) (o : XOut) (due : Nat) : State :=
  s.modBank c x id fun t => { t with awaits := t.awaits.map fun w =>
    if w.id = id then { w with answer := some (xltAnswer o), due := some due } else w }

/-- `XLT`: the destination and pair 7 are written together when the answer comes: 4 cycles after a hit, else when a walker
has taken the request and read the table. -/
def execXlt (d a b : BitVec 6) (s : State) : Out :=
  .next (
    let c := s.focus.cell
    let x := s.focus.ctx
    if bitsAt (s.rs b) 48 16 != 0 then s.illegal 6
    else if s.recordHeld c x 15 then s.block .record
    else
      let tensor := bitsAt (s.rs a) 0 16
      let id := s.here.nextId
      let t := (s.modHere fun k => { k with nextId := id + 1 }).modCtx fun y => { y with
        awaits := y.awaits ++ [⟨id, .xlt, d.toNat, 0, 0, 3, false, true, 0, 0, 0, none, none, false, s.now⟩] }
      let hit := ((s.die (dieOf c)).tensors.find? fun e => e.1 == tensor).bind fun e =>
        (e.2.layout (xltCoords (s.rs a) (s.rs b))).bind fun l =>
          (s.seen.portEntry tensor l.1).map fun w => entryOut (some w) l.2
      match hit with
      | some o =>
        let t := if o = .fail xBadEntry then t.postFault c x 2 15 false tensor
            (BitVec.ofNat 64 ((((s.die (dieOf c)).tensors.find? fun e => e.1 == tensor).bind fun e =>
              e.2.layout (xltCoords (s.rs a) (s.rs b))).elim 0 Prod.fst)) 0
          else t
        (t.xltDone c x id o (t.now + 4)).modCtx fun y => { y with awaits := y.awaits.map fun w =>
          if w.id = id then { w with quick := true } else w }
      | none =>
        (t.modDie (dieOf c) fun k => { k with walks := k.walks ++ [⟨c, x, id, s.rs a, s.rs b, none, none⟩] }).post
          .walkerTranslate { Args.empty with die := dieOf c })

/-! ## Walkers (R376) -/

/-- The tensor that a walk translates, and its tile with the offset in it: none where there is none. -/
def State.walkTile (s : State) (w : Walk) : Option (Nat × Nat) :=
  ((s.die (dieOf w.cell)).tensors.find? fun e => e.1 == bitsAt w.a 0 16).bind fun e => e.2.layout (xltCoords w.a w.b)

/-- Cycles after which a walk to another package is given up at the latest: 64 µs (R80). -/
def farWalk : Nat := 145000

/-- A walker takes the request of an `XLT`. The entry of a table in another package is asked for by a far read, for whose
answer the walker stays busy. -/
def State.walkXlt (s : State) (w : Walk) (table : W64) (bound : Nat) : State :=
  let away := aPkg table != s.pkg.number && s.tableReadable table
  match s.walkTile w, away with
  | some (tile, _), true =>
    let addr := table + BitVec.ofNat 64 (8 * tile)
    (s.post .packetInject { Args.empty with pk := { Packet.empty with
      dst := aPkg addr
      die := BitVec.ofNat 3 (aCell addr / 256)
      cell := BitVec.ofNat 8 (aCell addr)
      kind := 2
      body := .request ⟨s.pkg.number, w.cell, w.ctx, w.id, w.id, 8, 0x20, 3, addr, zeros 8, true, checkCode 0x20 addr (zeros 8)⟩ } }).after
        64000 .tileTableReadTimeout { Args.empty with c := w.cell, x := w.ctx, id := w.id }
  | _, _ =>
    let r := s.translate w.cell w.ctx 15 (bitsAt w.a 0 16) (xltCoords w.a w.b)
    r.2.xltDone w.cell w.ctx w.id r.1 (r.2.clock w.cell + bound)

/-- The end of a stream's walk: its port-context entry is filled, or the stream stops with BAD_ENTRY (R374). -/
def State.seqWalked (s : State) (c n id tile : Nat) : State :=
  match (s.cell c).seqs.find? fun e => e.1 == n && e.2.walk == some id with
  | none => s
  | some (_, q) =>
    let put (s : State) (f : SeqStream → SeqStream) : State :=
      s.modCell c fun k => { k with seqs := k.seqs.map fun e => (e.1, if e.1 = n then f { e.2 with walk := none } else e.2) }
    let r : Option W64 × State := match (s.die (dieOf c)).tensors.find? fun e => e.1 == q.tensor.toNat with
      | some (_, t) => s.tableEntry t tile
      | none => (none, s)
    let s := match r.1 with
      | some e => put r.2 fun q => { q with entry := some (tile, e) }
      | none => (put r.2 fun q => { q with stopped := some xBadEntry }).postFault c 0 2 1 false q.tensor.toNat
          (BitVec.ofNat 64 tile) 0
    s.post .seqUnitFetch { Args.empty with c := c, n := n }

/-- `WALKER_TRANSLATE`: a free walker takes the oldest waiting request, of an `XLT` or of a stream; with `flag` the walk
of a stream ends. -/
def execWalkerTranslate (s : State) : Out :=
  .next (
    let d := s.args.die
    if s.args.flag then s.seqWalked s.args.c s.args.n s.args.id s.args.row
    else
    let s := s.modDie d fun k => { k with walks := k.walks.filter fun w => match w.ends with
      | some n => decide (s.cycle < n)
      | none => true }
    if 16 ≤ (s.die d).walking s.cycle then
      if (s.die d).walks.any fun w => w.ends.isNone then s.afterCycles 1 .walkerTranslate { Args.empty with die := d } else s
    else
      match (s.die d).walks.find? fun w => w.ends.isNone with
      | none => s
      | some w =>
        let tensor := match w.stream with
          | some (n, _) => (((s.cell w.cell).seqs.find? fun e => e.1 == n).map fun e => e.2.tensor.toNat).getD 0
          | none => bitsAt w.a 0 16
        let table := (((s.die d).tensors.find? fun e => e.1 == tensor).map fun e => e.2.table).getD (s.addrOf w.cell 0 0)
        let near := aPkg table == s.pkg.number && dieOf (aCell table) == d
        let far := w.stream.isNone && aPkg table != s.pkg.number && s.tableReadable table && (s.walkTile w).isSome
        let bound := if near then 96 else 1500
        let take (v : Walk) : Walk := if v = w then { v with ends := some (s.cycle + if far then farWalk else bound) } else v
        let s := s.modDie d fun k => { k with walks := k.walks.map take }
        match w.stream with
        | some (n, tile) => s.afterCycles bound .walkerTranslate
            { Args.empty with die := d, flag := true, c := w.cell, n := n, id := w.id, row := tile }
        | none => s.walkXlt w table bound)

/-- The entry of a table of another package, or its failure, ends the walk of an `XLT`, whose walker is then free.
Log entry 28, DEDUCED. -/
def State.walkEntry (s : State) (c x id : Nat) (e : Option W64) : State :=
  let d := dieOf c
  match (s.die d).walks.find? fun w => w.cell == c && w.ctx == x && w.id == id with
  | none => s
  | some w =>
    let s := (s.modDie d fun k => { k with walks := k.walks.erase w }).post .walkerTranslate { Args.empty with die := d }
    match s.walkTile w with
    | none => s.xltDone c x id (.fail xBadEntry) (s.clock c + 1)
    | some (tile, off) =>
      let o := entryOut e off
      let s := if o = .fail xBadEntry then s.postFault c x 2 15 false (bitsAt w.a 0 16) (BitVec.ofNat 64 tile) 0 else s
      s.xltDone c x id o (s.clock c + 1)

/-- `TILE_TABLE_READ_TIMEOUT` (R80): a walk still without its entry ends in BAD_ENTRY, also that of an evicted task
(R171). -/
def execTileTableReadTimeout (s : State) : Out :=
  .next (
    let a := s.args
    if (s.awaited a.c a.x a.id).any fun w => w.kind == .xlt && w.answer.isNone then s.walkEntry a.c a.x a.id none else s)

/-! ## Invalidation (R377) -/

/-- Drops the copies of a tensor's entries, or of every tensor's, on a die. -/
def State.dropTensor (s : State) (d : Nat) (tensor : Option Nat) : State :=
  let hit (t : Nat) : Bool := match tensor with
    | none => true
    | some n => t == n
  let s := s.modDie d fun k => { k with tb := k.tb.filter fun p => !hit (p.1 / 2 ^ 64) }
  { s with cells := s.cells.map fun e =>
      if dieOf e.1 = d then
        (e.1, { e.2 with seqs := e.2.seqs.map fun q =>
          (q.1, if hit q.2.tensor.toNat then { q.2 with entry := none } else q.2) })
      else e }

/-- Stores to tile tables of a die's tensors, of one or of all, become visible to translation (R377). -/
def State.tablesFresh (s : State) (d : Nat) (id : Option Nat) : State :=
  let ts := (s.die d).tensors.filter fun t => id.all fun i => t.1 == i
  { s with unseen := s.unseen.filter fun e => !(ts.any fun t => t.2.tableMeets e.1 1) }

/-- `XLT_INV`: acts on what the register holds, and clears GO; the stores before it are visible to translation. -/
def execXltInv (s : State) : Out :=
  .next (
    let d := s.args.die
    let w := (s.die d).csr.get 0 0x210
    let id := if w.getLsbD 16 then none else some (bitsAt w 0 16)
    ((s.tablesFresh d id).dropTensor d id).modDie d fun k =>
      { k with csr := k.csr.ins 0x210 (w &&& 0x1FFFF) })

end Sys2Proof.Machine
end

