-- ==== Sys2Proof/Machine/Sequencer.lean ====
section
/-! DEFINITION. The sequencer (R233, R266, R267): streams of coordinates, their units, condition tokens, and the sequenced
vector load. -/

namespace Sys2Proof.Machine
open Sys2Proof

/-! ## Coordinates -/

/-- Elements that a stream emits: the product of its loop counts, or those of the iterations released before a token of 0.
-/
def SeqStream.total (q : SeqStream) : Nat :=
  let n := q.loops.foldl (fun n l => n * l.count) 1
  min n (q.cut.getD n)
/-- Iterations of the outermost loop are runs of this many elements. -/
def SeqStream.inner (q : SeqStream) : Nat := q.loops.dropLast.foldl (fun n l => n * l.count) 1
def SeqStream.outerOf (q : SeqStream) (k : Nat) : Nat := k / max q.inner 1
/-- Units that a stream emits, the last possibly short. Log entry 29, DEDUCED. -/
def SeqStream.units (q : SeqStream) : Nat := (q.total + q.unit - 1) / max q.unit 1

/-- Coordinates of element `k`: BASE plus each loop's index times its step; loop 0 is innermost. Log entry 29, DEDUCED. -/
def seqCoords (base : List Int) : List SeqLoop → Nat → List Int
  | [], _ => base
  | l :: t, k =>
    let i := k % max l.count 1
    seqCoords (base.set l.dim (base.getD l.dim 0 + i * l.step)) t (k / max l.count 1)
def SeqStream.coords (q : SeqStream) (k : Nat) : List Int :=
  seqCoords (q.base.map Int.ofNat) q.loops k

/-! ## Translation through the port-context entry (R374) -/

def State.modSeq (s : State) (c n : Nat) (f : SeqStream → SeqStream) : State :=
  s.modCell c fun k => { k with seqs := k.seqs.map fun e => if e.1 = n then (e.1, f e.2) else e }
def Cell.seq (k : Cell) (n : Nat) : Option SeqStream := (k.seqs.find? fun e => e.1 == n).map Prod.snd

/-- The tile of a coordinate whose entry a walker must read first: a change of tile of a stream whose tensor has no
GATHER. -/
def State.seqMiss (s : State) (c : Nat) (q : SeqStream) (cs : List Int) : Option Nat :=
  match (s.die (dieOf c)).tensors.find? fun e => e.1 == q.tensor.toNat with
  | none => none
  | some (_, t) =>
    match t.layout cs with
    | none => none
    | some (tile, _) => if t.gather || q.entry.any fun e => e.1 == tile then none else some tile

/-- Asks a walker for the entry of a tile (R374, R376). -/
def State.seqWalk (s : State) (c n tile : Nat) : State :=
  let id := (s.cell c).nextId
  (((s.modCell c fun k => { k with nextId := id + 1 }).modSeq c n fun q => { q with walk := some id }).modDie (dieOf c) fun k =>
    { k with walks := k.walks ++ [⟨c, 4, id, 0, 0, none, some (n, tile)⟩] }).post .walkerTranslate { Args.empty with die := dieOf c }

/-- Translates a coordinate of a stream: on a change of tile through the edge translation buffer for a GATHER tensor, else
by the entry that a walker has read. -/
def State.seqTranslate (s : State) (c n : Nat) (q : SeqStream) (cs : List Int) : XOut × State :=
  let tensor := q.tensor.toNat
  match (s.die (dieOf c)).tensors.find? fun e => e.1 == tensor with
  | none => (.fail xBadEntry, s.postFault c 0 2 1 false tensor 0 0)
  | some (_, t) =>
    match t.layout cs with
    | none => (.fail xRange, s)
    | some (tile, off) =>
      let held := ((s.cell c).seq n).bind fun q => q.entry
      let r : Option W64 × State := match held with
        | some (m, e) => if m = tile then (some e, s)
          else if t.gather then s.edgeEntry (dieOf c) tensor t tile else s.tableEntry t tile
        | none => if t.gather then s.edgeEntry (dieOf c) tensor t tile else s.tableEntry t tile
      let o := entryOut r.1 off
      let s := match r.1 with
        | some e => r.2.modSeq c n fun q => { q with entry := some (tile, e) }
        | none => r.2
      (o, if o = .fail xBadEntry then s.postFault c 0 2 1 false tensor (BitVec.ofNat 64 tile) 0 else s)

/-! ## Fetching units -/

/-- Bytes of each element that a unit of target 0 gathers. -/
def State.seqElemBytes (s : State) (c : Nat) (q : SeqStream) : Nat :=
  match (s.die (dieOf c)).tensors.find? fun e => e.1 == q.tensor.toNat with
  | some (_, t) => elemBytes t.fmt
  | none => 1

/-- How the gathering of a unit ends: with its last element, at an outcome other than OK, or at a change of tile. -/
inductive GatherEnd where
  | whole
  | fail (code : Nat)
  | walk (tile : Nat)
  deriving DecidableEq, Repr

/-- Gathers `m` elements from element `k`: how many, their bytes, and what ended them. Log entry 29, DEDUCED.
Log entry 74, DEDUCED. -/
def State.gather (s : State) (c n : Nat) (q : SeqStream) (eb k : Nat) : Nat → (Nat × List Byte × GatherEnd) × State
  | 0 => ((0, [], .whole), s)
  | m + 1 =>
    match s.seqMiss c q (q.coords k) with
    | some tile => ((0, [], .walk tile), s)
    | none =>
      let r := s.seqTranslate c n q (q.coords k)
      match r.1 with
      | .fail e => ((0, [], .fail e), r.2)
      | .ok a =>
        let b := if r.2.fencedAt a then (freeBytes r.2.draws eb, { r.2 with draws := r.2.draws + eb }) else r.2.globalRead a eb
        let t := b.2.gather c n q eb (k + 1) m
        ((t.1.1 + 1, b.1 ++ t.1.2.1, t.1.2.2), t.2)

/-- The outer iteration of the last element of the next unit. -/
def SeqStream.nextOuter (q : SeqStream) : Nat := q.outerOf (q.emitted * q.unit + min q.unit (q.total - q.emitted * q.unit) - 1)

/-- Whether the stream may fetch now: at most 8 units ahead, and with COND at most 8 outer iterations beyond the last token.
A stream that a token has ended still fetches the units of the iterations already released. -/
def SeqStream.mayFetch (q : SeqStream) : Bool :=
  q.stopped.isNone && q.walk.isNone && decide (q.queue.length < 8) && decide (q.emitted < q.units)
    && (!q.cond || q.ended || decide (q.nextOuter < q.released + 8))

/-- Fetches the next unit: for target 0 its elements' bytes, else the address of its first element. On a change of tile it
goes on when a walker has read the entry. -/
def State.seqFetch (s : State) (c n : Nat) : State :=
  match (s.cell c).seq n with
  | none => s
  | some q =>
    if !q.mayFetch then s
    else
      let k := q.emitted * q.unit
      let m := min q.unit (q.total - k)
      let push (s : State) (u : SeqUnit) : State := (s.modSeq c n fun q => { q with
        queue := q.queue ++ [u]
        emitted := q.emitted + 1
        got := 0
        part := [] }).modCell c fun k => k.profFired 14
      let halt (s : State) (e : Nat) : State := s.modSeq c n fun q => { q with stopped := some e }
      if q.target = 0 then
        let r := s.gather c n q (s.seqElemBytes c q) (k + q.got) (m - q.got)
        let l := q.part ++ r.1.2.1
        match r.1.2.2 with
        | .fail e => halt r.2 e
        | .walk tile => (r.2.modSeq c n fun q => { q with got := q.got + r.1.1, part := l }).seqWalk c n tile
        | .whole => push r.2 ⟨none, l.length, l, q.outerOf (k + m - 1)⟩
      else
        match s.seqMiss c q (q.coords k) with
        | some tile => s.seqWalk c n tile
        | none =>
          let r := s.seqTranslate c n q (q.coords k)
          match r.1 with
          | .fail e => halt r.2 e
          | .ok a => push r.2 ⟨some a, 0, [], q.outerOf (k + m - 1)⟩

/-! ## Delivery -/

/-- The next unit, if it is fetched and released by its token. -/
def SeqStream.ready (q : SeqStream) : Option SeqUnit :=
  match q.queue with
  | u :: _ => if !q.cond || decide (u.outer < q.released) then some u else none
  | [] => none

/-- Whether no unit will ever follow. -/
def SeqStream.over (q : SeqStream) : Bool :=
  q.ready.isNone && !q.mayFetch && ((q.ended && q.walk.isNone) || (q.queue.isEmpty && (q.stopped.isSome || decide (q.units ≤ q.emitted))))

/-- Takes the next unit. -/
def SeqStream.take (q : SeqStream) : SeqStream := { q with queue := q.queue.drop 1, taken := q.taken + 1 }

/-- Lanes of the 128 that a unit of `n` bytes leaves empty. -/
def unitDead (n : Nat) : BitVec 128 := ~~~(BitVec.ofNat 128 (2 ^ ((n + 3) / 4) - 1))

/-- Answers a waiting sequenced load with 512 bytes. Log entry 29, DEDUCED. -/
def State.seqAnswer (s : State) (c x id : Nat) (l : List Byte) : State :=
  s.modBank c x id fun t => { t with awaits := t.awaits.map fun w =>
    if w.id = id then { w with
      dead := unitDead l.length
      answer := some (0, 0, l ++ zeros (512 - l.length), 0)
      due := some (s.clock c + 1) } else w }

/-- Hands units to the loads that wait for them, oldest first. -/
def State.seqServe (s : State) (c n : Nat) : Nat → State
  | 0 => s
  | m + 1 =>
    match (s.cell c).seq n with
    | none => s
    | some q =>
      match q.waiting with
      | [] => s
      | (x, id) :: rest =>
        match q.ready with
        | some u => ((s.modSeq c n fun q => { q.take with waiting := rest }).seqAnswer c x id u.data).seqServe c n m
        | none =>
          if q.over then ((s.modSeq c n fun q => { q with waiting := rest }).seqAnswer c x id []).seqServe c n m
          else s

/-- Has the stream fetch again if it may. -/
def State.seqPoke (s : State) (c n : Nat) : State :=
  match (s.cell c).seq n with
  | some q => if q.mayFetch then s.post .seqUnitFetch { Args.empty with c := c, n := n } else s
  | none => s

/-- `SEQ_UNIT_FETCH`: fetches a unit, hands units on, and goes on while it may; in a freeze cycle it waits for the next. -/
def execSeqUnitFetch (s : State) : Out :=
  .next (
    if (s.cell s.args.c).froze then s.afterCycles 1 .seqUnitFetch s.args else
    ((s.args.n |> (s.seqFetch s.args.c)).seqServe s.args.c s.args.n 16).seqPoke s.args.c s.args.n)

/-- The sequenced `VLD` (R233): the next unit of the stream, into all eight clusters. -/
def execVldSequenced (v : BitVec 5) (n : BitVec 4) (o : BitVec 3) (s : State) : Out :=
  .next (
    let c := s.focus.cell
    match s.here.seq n.toNat with
    | none => s.illegal 42
    | some q =>
      if q.target ≠ 0 then s.illegal 42
      else
        let id := s.here.nextId
        let s := (s.modHere fun k => { k with nextId := id + 1 }).modCtx fun x => { x with
          awaits := x.awaits ++ [⟨id, .vload, v.toNat, 0xFF, 0, 3, false, false, s.addrOf c 0 0, o.toNat,
            s.infoOf 0 true false false o.toNat, none, none, false, s.now⟩] }
        let s := s.modSeq c n.toNat fun q => { q with waiting := q.waiting ++ [(s.focus.ctx, id)] }
        ((s.seqServe c n.toNat 16)).seqPoke c n.toNat)

/-! ## Tokens and ends (R267) -/

/-- The unit that stands at place `i` of the queue, with the elements below `cut` alone: none where it has none (R233,
R267). -/
def SeqStream.cutUnit (q : SeqStream) (cut i : Nat) (u : SeqUnit) : Option SeqUnit :=
  let k := (q.taken + i) * q.unit
  if cut ≤ k then none
  else if k + q.unit ≤ cut then some u
  else
    let l := u.data.take (u.data.length / max q.unit 1 * (cut - k))
    some { u with data := l, bytes := l.length, outer := q.outerOf (cut - 1) }

/-- A token of 0 ends the stream after the iterations released: what has been fetched of later ones is discarded. -/
def SeqStream.endAt (q : SeqStream) (cut : Nat) : SeqStream :=
  let kept := ((List.range q.queue.length).zip q.queue).filterMap fun e => q.cutUnit cut e.1 e.2
  { q with
    ended := true
    cut := some cut
    queue := kept
    emitted := min q.emitted (q.taken + kept.length)
    got := min q.got (cut - q.emitted * q.unit)
    part := q.part.take (q.part.length / max q.got 1 * (cut - q.emitted * q.unit)) }

/-- Applies the queued tokens: 1 releases an outer iteration, 0 ends the stream after those released. -/
def SeqStream.applyTokens (q : SeqStream) : SeqStream :=
  q.tokens.foldl (fun q t =>
    if q.ended then q
    else if t then { q with released := q.released + 1 }
    else q.endAt (q.released * q.inner))
    { q with tokens := [] }

/-- SEQSTOP: ends at once. -/
def SeqStream.stop (q : SeqStream) : SeqStream := { q with ended := true, queue := [], tokens := [], emitted := max q.emitted q.units }

end Sys2Proof.Machine
end

