-- ==== Sys2Proof/Machine/Spill.lean ====
section
/-! DEFINITION. The spill pool of a die, and the claims of incoming work on the tiles and weight buffers of evicted tasks
(R40, R252, R367). -/

namespace Sys2Proof.Machine
open Sys2Proof

/-! ## The pool -/

def Die.spillCount (d : Die) : Nat := bitsAt (d.csr.get 0 0x221) 0 16

/-- Frames of the pool that nothing uses. -/
def Die.freeFrames (d : Die) : List Nat := (List.range d.spillCount).filter fun i => !d.spill.contains i

/-- Weight buffers that hold something. -/
def MatEngine.buffers (m : MatEngine) : List Weights := m.active.toList ++ m.shadow.toList

/-- Frames that claims on an evicted task, or on a cell of an evicted configuration, may still take. -/
def Saved.mayNeed (v : Saved) : Nat := 3 * (v.tiles.length - v.claims.length)
def Shelf.mayNeed (h : Shelf) : Nat :=
  (h.was.saved.foldl (fun n v => n + v.mayNeed) 0)
    + h.kept.foldl (fun n e => n + 2 * (h.was.mats.get MatEngine.reset e).buffers.length) 0

/-- Frames that the evicted tasks and configurations of the die may still need. -/
def State.reservedFrames (s : State) (d : Nat) : Nat :=
  (s.cells.filter fun e => dieOf e.1 == d).foldl (fun n e => n + (e.2.saved.foldl (fun m v => m + v.mayNeed) 0)) 0
    + (s.die d).shelf.foldl (fun n h => n + h.mayNeed) 0

/-- Whether `n` more frames can be claimed. -/
def State.spillRoom (s : State) (d n : Nat) : Bool :=
  decide (n + s.reservedFrames d ≤ (s.die d).freeFrames.length)

/-- Takes `n` frames. -/
def State.takeFrames (s : State) (d n : Nat) : List Nat × State :=
  let l := (s.die d).freeFrames.take n
  (l, s.modDie d fun k => { k with spill := k.spill ++ l })

/-- Writes bytes over frames, 16 KiB each. -/
def State.spillBytes (s : State) (d : Nat) (frames : List Nat) (l : List Byte) : State :=
  (List.range frames.length).foldl (fun t i =>
    t.globalWrite (t.spillFrame d (frames.getD i 0)) ((l.drop (0x4000 * i)).take 0x4000)) s

/-- Gives frames back, through quarantine (R301, R367). -/
def State.freeFramesOf (s : State) (d : Nat) (l : List Nat) : State :=
  l.foldl (fun t f => t.post .quarFree { Args.empty with die := d, v := t.spillFrame d f }) s

/-! ## Claims -/

/-- Changes the record of an evicted task of a cell, in the cell or among its evicted configurations. -/
def State.modTaskAway (s : State) (c task : Nat) (f : Saved → Saved) : State :=
  let g (v : Saved) : Saved := if v.bank.task = task then f v else v
  (s.modCell c fun k => { k with saved := k.saved.map g }).modDie (dieOf c) fun d => { d with shelf := d.shelf.map fun h =>
    if h.cell = c then { h with was := { h.was with saved := h.was.saved.map g } } else h }

end Sys2Proof.Machine
end

