-- ==== Sys2Proof/Machine/Streams.lean ====
section
/-! DEFINITION. Streams (R81-R97, R238-R240): emission with retain rings, chunk travel and the hop and cell-input checks,
residency, returns, census, refusals and replay. -/

namespace Sys2Proof.Machine
open Sys2Proof

/-! ## Numbers and places -/

/-- a − b of sequence numbers, as a signed distance (R83). -/
def seqDiff (a b : BitVec 32) : Int := (a - b).toInt

/-- Stride of a ring slot (R81). -/
def strideOf (pay : Nat) : Nat := (32 + pay + 63) / 64 * 64
def TagSt.slotOff (t : TagSt) (slot : Nat) : Nat := t.base + slot * strideOf t.pay
def TagSt.slotOf (t : TagSt) (n : BitVec 32) : Nat := n.toNat % max t.slots 1
def TagSt.at_ (t : TagSt) (slot : Nat) : RingSlot := t.ring.get RingSlot.reset slot
def TagSt.put (t : TagSt) (slot : Nat) (r : RingSlot) : TagSt := { t with ring := t.ring.ins slot r }
def PortSt.slotOf (p : PortSt) (n : BitVec 32) : Nat := n.toNat % max p.slots 1
def PortSt.slotOff (p : PortSt) (n : BitVec 32) : Nat := p.base + p.slotOf n * strideOf p.pay

def Cell.tag (k : Cell) (t : Nat) : TagSt := k.tags.get TagSt.reset t
def Cell.port (k : Cell) (p : Nat) : PortSt := k.ports.get PortSt.reset p
def State.modTag (s : State) (c t : Nat) (f : TagSt → TagSt) : State :=
  s.modCell c fun k => { k with tags := k.tags.ins t (f (k.tag t)) }
def State.modPort (s : State) (c p : Nat) (f : PortSt → PortSt) : State :=
  s.modCell c fun k => { k with ports := k.ports.ins p (f (k.port p)) }

/-- The output port of a cell that carries a stream. A stream of the collective engine or of the copy engine (R82) has none:
no rule says how those produce chunks. Log entry 100, DEDUCED. -/
def Cell.portOf (k : Cell) (stream : BitVec 16) : Option Nat := (k.ports.find? fun e => e.2.stream == stream && e.2.slots != 0).map Prod.fst
/-- The consumer tag of a cell that a stream feeds. -/
def Cell.tagOf (k : Cell) (stream : BitVec 16) : Option Nat := (k.tags.find? fun e => e.2.stream == stream && e.2.slots != 0).map Prod.fst

/-- Carries out an operation on the port of a cell that carries a stream: of its configuration, else of an evicted one,
whose streams go on at the producer (R40, R88-R93). Log entry 53, DESIGN CHOICE. -/
def State.atPort (s : State) (c : Nat) (stream : BitVec 16) (f : State → Nat → State) : State :=
  match (s.cell c).portOf stream with
  | some p => f s p
  | none =>
    match (s.die (dieOf c)).shelf.find? fun h => h.cell == c && (h.was.portOf stream).isSome with
    | some h => s.onShelf h fun t => ((t.cell c).portOf stream).elim t (f t)
    | none => s

/-- The same for the tag that a stream feeds. Log entry 53, DESIGN CHOICE. -/
def State.atTag (s : State) (c : Nat) (stream : BitVec 16) (f : State → Nat → State) : State :=
  match (s.cell c).tagOf stream with
  | some t => f s t
  | none =>
    match (s.die (dieOf c)).shelf.find? fun h => h.cell == c && (h.was.tagOf stream).isSome with
    | some h => s.onShelf h fun u => ((u.cell c).tagOf stream).elim u (f u)
    | none => s

/-- F (R87); while NEXT_P < ACK_P, after a kill, F reads S (R434). -/
def PortSt.free (p : PortSt) : Nat :=
  let d := seqDiff p.nextP p.ackP
  if d < 0 then p.slots else p.slots - d.toNat

/-- A hardware set of an `EV_PEND` bit: it stands against a clear of the same cycle (R157). -/
def Ctx.setEvent (x : Ctx) (bit : Nat) : Ctx :=
  { x with evPend := x.evPend ||| BitVec.ofNat 64 (2 ^ bit), evHw := x.evHw ||| BitVec.ofNat 64 (2 ^ bit) }

/-- Sets an `EV_PEND` bit in every task of a cell, resident or not (R157). -/
def State.raiseEvent (s : State) (c bit : Nat) : State :=
  (s.modAway c (fun _ => true) fun b => b.setEvent bit).modCell c fun k =>
    { k with ctxs := k.ctxs.map fun e => (e.1, e.2.setEvent bit) }

/-! ## Travel -/

/-- Sends a message to a cell of the fabric: by an event within the package, by a packet elsewhere. Nothing passes to a
fenced die (R441). -/
def State.sendTo (s : State) (dest : BitVec 32) (i : Instr) (a : Args) (kind : Nat) (b : Body) : State :=
  if namePkg dest = s.pkg.number then
    (if s.pkg.fenced.getLsbD (dieOf (nameCell dest)) then s else s.post i { a with c := nameCell dest })
  else
    s.post .packetInject { Args.empty with pk := { Packet.empty with
      dst := namePkg dest
      die := BitVec.ofNat 3 (nameCell dest / 256)
      cell := BitVec.ofNat 8 (nameCell dest)
      kind := BitVec.ofNat 5 kind
      body := b } }

/-- The die that a HOP word names (R96). -/
def hopDie (hop : BitVec 32) : Nat := (hop.extractLsb' 10 3).toNat

/-- The next point at which a chunk on die `d`, bound for cell `c`, is checked: the die it enters, POINT and KIND (R96,
R424); none where `c` lies on `d`. Log entry 12 names the points of this model. -/
def nextPoint (d c : Nat) : Option (Nat × Nat × Nat) :=
  let t := dieOf c
  if d = t then none
  else if d / 2 = t / 2 then some (t, c % 256, 3)
  else if d % 2 = 1 then some (d - 1, c % 256, 3)
  else
    let dt := d / 2
    let tt := t / 2
    if dt % 2 ≠ tt % 2 then
      let n := if dt % 2 = 0 then dt + 1 else dt - 1
      some (2 * n, c % 256 / 16 * 16 + (if dt % 2 = 0 then 0 else 15), 4)
    else some (2 * tt, c % 16 + (if dt < tt then 0 else 240), 4)

/-- A chunk on die `d` goes on to cell `c`: to its next checked point, to the comparator of a shadowed stream, or to the
cell input. A fenced die accepts none. Log entry 12, DEDUCED. -/
def State.chunkOnward (s : State) (d c : Nat) (ck : Chunk) : State :=
  match nextPoint d c with
  | some (d', point, kind) =>
    if s.pkg.fenced.getLsbD d' then s
    else s.post .chunkHopCheck { Args.empty with k := kind, die := d', n := point, c := c, ck := ck }
  | none =>
    if ck.census then s.post .censusArrival { Args.empty with c := c, ck := ck }
    else
      match (s.die d).shadow.find? fun e => e.1 == ck.stream with
      | some _ => s.post .shadowCompare { Args.empty with
          die := d, c := c, ck := ck
          flag := namePkg ck.origin == s.pkg.number && (s.cell (nameCell ck.origin)).stageId.getLsbD 33 }
      | none => s.post .chunkArrival { Args.empty with c := c, ck := ck }

/-- A return on die `d` goes on to cell `c` by the points that a census passes, so that those of one stream keep their order
(R85). Log entry 101, DEDUCED. -/
def State.returnOnward (s : State) (d c : Nat) (stream : BitVec 16) (ack : BitVec 32) : State :=
  let a : Args := { Args.empty with c := c, stream := stream, ack := ack }
  match nextPoint d c with
  | some (d', point, kind) =>
    if s.pkg.fenced.getLsbD d' then s else s.post .chunkHopCheck { a with k := kind, die := d', n := point, flag := true }
  | none => s.post .returnArrival a

/-- A chunk leaves cell `c` for the cell a word names. -/
def State.sendChunk (s : State) (c : Nat) (dest : BitVec 32) (ck : Chunk) : State :=
  if namePkg dest = s.pkg.number then s.chunkOnward (dieOf c) (nameCell dest) ck
  else s.sendTo dest .chunkArrival { Args.empty with ck := ck } 1 (.chunk ck)

/-! ## Failed checks (R89, R97, R424) -/

/-- A transport mismatch counts against a link port of its blamed segment; the eighth within 1 s retires the port (R428). -/
def State.blame (s : State) (p : Nat) : State :=
  let recent := s.pkg.blames.filter fun e => decide (s.elapsed < e.2 + 1000000000 * 45000)
  if (recent.filter fun e => e.1 == p).length < 7 then s.modPkg fun k => { k with blames := recent ++ [(p, s.elapsed)] }
  else (s.modPkg fun k => { k with blames := recent.filter fun e => e.1 != p }).post .linkRetire { Args.empty with p := p }

/-- A CENSUS_FIX record counts for its stream; more than 16 within 1 s are a transport fault of the stream's path, which is
the link port on the way to the consumer's package (R438). Log entry 109, DESIGN CHOICE. -/
def State.countFix (s : State) (t : PortSt) : State :=
  let recent := s.pkg.fixes.filter fun e => decide (s.elapsed < e.2 + 1000000000 * 45000)
  if (recent.filter fun e => e.1 == t.stream).length < 16 then s.modPkg fun k => { k with fixes := recent ++ [(t.stream, s.elapsed)] }
  else
    let s := s.modPkg fun k => { k with fixes := recent.filter fun e => e.1 != t.stream }
    if namePkg t.dest = s.pkg.number then s
    else s.blame (routePort (s.pkg.route s.pkg.inj (namePkg t.dest).toNat) s.pkg.number (namePkg t.dest) false)

/-- A point that fails a chunk drops it, logs a record on its die and asks its producer for a replay. At a link ingress the
blamed segment crosses the link (R425), elsewhere it contains no link port. Log entry 68, DEDUCED. -/
def State.failChunk (s : State) (die point port kind sub : Nat) (src : Option Nat) (ck : Chunk) : State :=
  let s := s.logError die src (elogWord1 3 point port kind sub)
    (BitVec.ofNat 64 (ck.stream.toNat + ck.attempt.toNat * 2 ^ 16 + ck.seq.toNat * 2 ^ 32))
    (BitVec.ofNat 64 (ck.hop.toNat + (s.hopWord die point kind).toNat * 2 ^ 32))
  let s := if kind = 2 then s.blame port else s
  s.sendTo ck.origin .replayRequestArrival { Args.empty with stream := ck.stream, seq := ck.seq, attempt := ck.attempt.toNat }
    9 (.replayReq ck.stream ck.seq ck.attempt)

/-- SUB of a failed residue check. -/
def burgeeSub (ck : Chunk) : Nat := if 1 < bitsAt ck.burgee 61 3 then 1 else 0

/-! ## Channel errors (R92) -/

/-- The producer stops the stream, logs the error and reports it; the regions of the package that hold its producer or its
consumer are killed (R432). Log entry 68, DEDUCED. -/
def State.channelError (s : State) (c p sub : Nat) (seq : BitVec 32) : State :=
  let q := (s.cell c).port p
  let t := ((s.modPort c p fun t => { t with stopped := true }).logCell c 6 sub
    (BitVec.ofNat 64 (q.stream.toNat + seq.toNat * 2 ^ 32)) 0).askKill c 1
  if namePkg q.dest ≠ s.pkg.number then t
  else
    match (s.die (dieOf (nameCell q.dest))).shelf.find? fun h =>
        h.cell == nameCell q.dest && (h.was.tagOf q.stream).isSome && ((s.cell (nameCell q.dest)).tagOf q.stream).isNone with
    | some h => t.askKillOf (nameCell q.dest) h.was.regionId 1
    | none => t.askKill (nameCell q.dest) 1

/-! ## Emission (R87, R238) -/

/-- The micro-batch that a halyard port emits next (R271). After a re-establishment that found nothing retained it is the
one after the last emitted, until the next chunk says otherwise. Log entry 102, DEDUCED. -/
def haNext (k : Cell) (p : PortSt) : BitVec 16 := p.mbBase + BitVec.ofNat 16 (p.nextP.toNat / max k.hal.cpm 1)

def semitBad (k : Cell) (p : PortSt) (w : W64) : Bool :=
  let len := bitsAt w 0 13
  w.getLsbD 15 || bitsAt w 48 16 != 0 || decide (p.pay < len)
    || (bitsAt w 32 16 != 0 && p.fmt.toNat != fmtAX) || (p.fmt.toNat == fmtAX && len % 8 != 0)
    || (p.halyard && (!k.hal.paired
        || (w.getLsbD 13 != (p.nextP.toNat % max k.hal.cpm 1 == k.hal.cpm - 1))
        || (!p.renumber && haNext k p != BitVec.ofNat 16 (bitsAt w 16 16))))

/-- Whether the comparator of a shadowed stream holds 8 chunks of the cell's copy (R430). -/
def State.comparatorFull (s : State) (c : Nat) (t : PortSt) : Bool :=
  match (s.die (dieOf (nameCell t.dest))).shadow.find? fun e => e.1 == t.stream with
  | some (_, a, b) => namePkg t.dest == s.pkg.number && decide (8 ≤ (if (s.cell c).stageId.getLsbD 33 then b else a).length)
  | none => false

/-- What holds a `SEMIT`: a stopped stream, no free slot, no pennant, a full comparator queue (R430), or chunks still to
be resent (R93). A chunk emitted again after a kill needs no pennant (R449). -/
def State.emitHeld (s : State) (c p : Nat) (mb : BitVec 16) : Bool :=
  let k := s.cell c
  let t := k.port p
  let discarded := decide (seqDiff t.nextP t.ackP < 0)
  let pennanted := k.hal.held.contains mb || t.high.any fun h => decide (seqDiff t.nextP h < 0)
  t.stopped || t.peerLost ||
    (!discarded && (t.free == 0 || t.unsent.isSome || (t.halyard && !pennanted) || s.comparatorFull c t))

/-- The chunk that a port forms (R95). Log entry 25, DEDUCED. -/
def State.formChunk (s : State) (c : Nat) (t : PortSt) (w : W64) (pay : List Byte) : Chunk :=
  let ax := t.fmt.toNat == fmtAX
  { stream := t.stream
    tag := t.tag
    endMb := w.getLsbD 13
    last := w.getLsbD 14
    replay := false
    census := false
    attempt := 0
    seq := t.nextP
    fmt := t.fmt
    rsvd := 0
    length := BitVec.ofNat 16 pay.length
    axexp := BitVec.ofNat 16 (bitsAt w 32 16)
    mb := BitVec.ofNat 16 (bitsAt w 16 16)
    burgee := burgeeOf ax pay
    hop := s.cellName c
    origin := s.cellName c
    payload := pay }

/-- Emission in one step: retain copy, header, burgee, sending, NEXT_P + 1. A re-emitted chunk below ACK_P is discarded
(R434). A halyard port consumes the pennant with the END_MB chunk (R273). Log entry 25, DEDUCED. -/
def State.emitChunk (s : State) (c x p : Nat) (w : W64) (pay : List Byte) : State :=
  let t := (s.cell c).port p
  let ck := s.formChunk c t w pay
  let s := s.modCtxOf c x fun y => { y with
    marks := if (y.marks.find? fun e => e.1 == p).isSome then y.marks else y.marks.ins p t.nextP }
  let s := if decide (seqDiff t.nextP t.ackP < 0) then s
    else
      let s := s.overwrite (flat c 0 (t.slotOff t.nextP)) (headerBytes ck ++ pay)
      (s.sendChunk c t.dest ck).modCell c fun k => k.profFired (16 + p)
  let s := s.modPort c p fun t => { t with
    nextP := t.nextP + 1
    attempts := t.attempts.ins (t.slotOf ck.seq) 0
    mbBase := if t.renumber then ck.mb - BitVec.ofNat 16 (ck.seq.toNat / max (s.cell c).hal.cpm 1) else t.mbBase
    renumber := false
    high := if t.high = some (t.nextP + 1) then none else t.high }
  let s := if t.halyard && ck.endMb then
      s.modCell c fun k => { k with hal := { k.hal with held := k.hal.held.filter fun m => m != ck.mb } }
    else s
  s.modCtxOf c x fun y => y.count 11 1

/-! ## Freeing (R85, R239) -/

/-- The producers of a stream as its consumer on cell `c` knows them: the one its last chunk came from; before the first
chunk, and for a shadowed stage (R430), the cells of the package that hold an output port of the stream. Log entry 103,
DEDUCED. -/
def State.producers (s : State) (c : Nat) (stream : BitVec 16) (origin : Option (BitVec 32)) : List (BitVec 32) :=
  if origin.isNone || (s.die (dieOf c)).shadow.any fun e => e.1 == stream then
    (origin.toList ++ ((s.cells.filter fun e => (e.2.portOf stream).isSome).map fun e => s.cellName e.1)
      ++ s.dies.flatMap fun e => (e.2.shelf.filter fun h => (h.was.portOf stream).isSome).map fun h => s.cellName h.cell).eraseDups
  else origin.toList

/-- Sends the current ACK_C to the producer; an end in PEER_LOST sends nothing (R479). -/
def State.sendReturn (s : State) (c t : Nat) : State :=
  let g := (s.cell c).tag t
  if g.peerLost then s else
  (s.producers c g.stream g.origin).foldl (fun s o =>
    if namePkg o = s.pkg.number then s.returnOnward (dieOf c) (nameCell o) g.stream g.ackC
    else s.sendTo o .returnArrival { Args.empty with stream := g.stream, ack := g.ackC } 4 (.ret g.stream g.ackC 0)) s

/-- ACK_C past every contiguous freed chunk; on a halyard tag it stands at micro-batch boundaries (R271). -/
def advanceAck (cpm : Nat) (t : TagSt) : Nat → TagSt
  | 0 => t
  | n + 1 =>
    let step := if t.halyard then max cpm 1 else 1
    let ready := (List.range step).all fun i =>
      let k := t.ackC + BitVec.ofNat 32 i
      let r := t.at_ (t.slotOf k)
      r.use == .freed && r.seq == k
    if ready then
      let t' := (List.range step).foldl (fun t i =>
        let sl := t.slotOf (t.ackC + BitVec.ofNat 32 i)
        t.put sl { t.at_ sl with use := .empty }) t
      advanceAck cpm { t' with ackC := t.ackC + BitVec.ofNat 32 step } n
    else t

/-- The receiver slot of a halyard tag in which a chunk number lies (R271). -/
def haSlot (h : Halyard) (n : BitVec 32) : Nat := n.toNat / max h.cpm 1 % max h.n 1

/-- The receiver slot that holds a micro-batch: one that is not FREE. -/
def Halyard.group (h : Halyard) (m : BitVec 16) : Option Nat :=
  (List.range h.n).find? fun i => h.slots.get 0 i != 0 && h.slotMb.get 0 i == m

/-- A receiver slot in COMPUTING becomes FREE when the last ring slot of its micro-batch has been freed (R272). `g` is the
tag with that slot freed. -/
def State.haFreed (s : State) (c : Nat) (g : TagSt) (m : BitVec 16) : State :=
  s.modCell c fun k =>
    match k.hal.group m with
    | some i =>
      if k.hal.slots.get 0 i = 4 ∧ !(g.ring.any fun e => e.2.mb == m && e.2.use != .freed && e.2.use != .empty) then
        { k with hal := { k.hal with slots := k.hal.slots.ins i 0 } }
      else k
    | none => k

/-- The numbering of an incoming stream becomes known from a chunk of it: the slot groups follow the new numbers (R271,
R445). Log entry 102, DEDUCED. -/
def Halyard.rebase (h : Halyard) (ck : Chunk) : Halyard :=
  match h.base with
  | some _ => h
  | none =>
    let b := ck.mb - BitVec.ofNat 16 (ck.seq.toNat / max h.cpm 1)
    let live := (List.range h.n).filter fun i => h.slots.get 0 i != 0
    let at_ (i : Nat) : Nat := (h.slotMb.get 0 i - b).toNat % max h.n 1
    { h with
      base := some b
      nextSeq := BitVec.ofNat 32 ((h.nextPennant - b).toNat * h.cpm)
      slots := live.foldl (fun t i => t.ins (at_ i) (h.slots.get 0 i)) []
      slotMb := live.foldl (fun t i => t.ins (at_ i) (h.slotMb.get 0 i)) [] }

/-- The first chunk of a micro-batch has been bound to a task: its number is at a multiple of CPM. -/
def TagSt.firstBound (t : TagSt) (cpm : Nat) (n : BitVec 32) : Bool :=
  let f := BitVec.ofNat 32 (n.toNat / max cpm 1 * max cpm 1)
  let r := t.at_ (t.slotOf f)
  r.seq == f && (match r.use with
    | .bound _ => true
    | .freed => true
    | _ => false)

/-- The cell bonded to `c` (R4). -/
def bonded (c : Nat) : Nat := if isC c then c - 256 else c + 256

/-- Sends a pennant to the bonded partner. -/
def State.sendPennant (s : State) (c : Nat) (m : BitVec 16) : State :=
  if s.pkg.fenced.getLsbD (dieOf (bonded c)) then s else s.post .pennantArrival { Args.empty with c := bonded c, n := m.toNat }

/-- Issues the pennant of the next micro-batch, whose slot group follows from the number of its first chunk (R271). -/
def State.issuePennant (s : State) (c : Nat) : State :=
  let h := (s.cell c).hal
  let sl := haSlot h h.nextSeq
  (s.modCell c fun k => { k with hal := { k.hal with
      nextPennant := h.nextPennant + 1
      nextSeq := h.nextSeq + BitVec.ofNat 32 h.cpm
      slots := k.hal.slots.ins sl 1
      slotMb := k.hal.slotMb.ins sl h.nextPennant } }).sendPennant c h.nextPennant

/-- Issues the next pennant when its slot group is FREE and a task has been bound to the micro-batch before it (R273).
After a re-establishment it waits until the numbers of the stream are known. Log entry 102, DEDUCED. -/
def State.nextPennant (s : State) (c : Nat) : State :=
  let h := (s.cell c).hal
  if h.paired && h.base.isSome && h.slots.get 0 (haSlot h h.nextSeq) == 0 && decide ((h.expected - h.nextPennant).toInt ≥ 0) then
    s.issuePennant c
  else s

/-- Frees a ring slot: its words become empty, ACK_C advances and a return is sent (R85). -/
def State.freeSlot (s : State) (c t slot : Nat) : State :=
  let g := (s.cell c).tag t
  let r := g.at_ slot
  let s := s.setFullRange (flat c 0 (g.slotOff slot)) (strideOf g.pay) false
  let g1 := g.put slot { r with use := .freed }
  let g2 := advanceAck (s.cell c).hal.cpm g1 g.slots
  let s := s.modTag c t fun _ => g2
  let s := if g.halyard then (s.haFreed c g1 r.mb).nextPennant c else s
  if g2.ackC = g.ackC then s else s.sendReturn c t

/-- Resident chunks of a tag that are neither bound nor freed. -/
def TagSt.unbound (t : TagSt) : List Nat := (t.ring.filter fun e => e.2.use == .resident).map Prod.fst

/-- `SSTAT` (R240). -/
def sstatTag (t : TagSt) : W64 :=
  BitVec.ofNat 64 (t.ackC.toNat + t.unbound.length * 2 ^ 32 + (t.slots - (t.expC - t.ackC).toNat) * 2 ^ 47)
/-- Log entry 102, DEDUCED. -/
def sstatPort (k : Cell) (p : PortSt) : W64 :=
  let pen := p.halyard && k.hal.held.contains (haNext k p)
  BitVec.ofNat 64 (p.nextP.toNat + p.free * 2 ^ 32 + pen.toNat * 2 ^ 39 + (p.stopped || p.peerLost).toNat * 2 ^ 40 + p.slots * 2 ^ 47)

def execSstat (d : BitVec 6) (n : BitVec 4) (x : BitVec 1) (s : State) : Out :=
  .next (
    if x = 0 then
      let t := s.seen.tag n.toNat
      if t.slots = 0 then s.illegal 32 else s.wsLate d (sstatTag t) 6
    else
      let p := s.seen.port n.toNat
      if p.slots = 0 then s.illegal 32 else s.wsLate d (sstatPort s.seen p) 6)

/-! ## Arrival and residency (R86, R93, R94, R97) -/

/-- The cell-input check (R97): none where it passes, else the SUB of the report (R423). -/
def inputFault (k : Cell) (ck : Chunk) : Option Nat :=
  let t := k.tag ck.tag.toNat
  let kind := bitsAt ck.burgee 61 3
  if 1 < kind then some 1
  else if !fmtDefined ck.fmt.toNat then some 3
  else if t.slots == 0 || ck.stream != t.stream || ck.fmt != t.fmt || ck.rsvd != 0 || ck.hop.extractLsb' 24 8 != 0
      || (ck.axexp != 0 && ck.fmt.toNat != fmtAX) || decide (t.pay < ck.length.toNat)
      || (ck.fmt.toNat == fmtAX && ck.length.toNat % 8 != 0) || ((kind == 1) != (ck.fmt.toNat == fmtAX))
      || ck.payload.length != ck.length.toNat then some 2
  else if residue (kind == 1) ck.payload != bitsAt ck.burgee 0 61 then some 0
  else none

/-- Makes resident every arrived chunk that EXP_C reaches, and passes the dropped ones, which count as freed (R86, R445).
The rule that drops chunks ends when one that it does not drop becomes resident: none numbered below it is accepted any
more (R446). Log entry 74, DEDUCED. -/
def State.settleTag (s : State) (c t : Nat) : Nat → State
  | 0 => s
  | n + 1 =>
    let g := (s.cell c).tag t
    let sl := g.slotOf g.expC
    let r := g.at_ sl
    if r.use == .freed && r.seq == g.expC then
      (s.modTag c t fun g => { g with expC := g.expC + 1 }).settleTag c t n
    else if r.use == .arrived && r.seq == g.expC then
      let s := s.setFullRange (flat c 0 (g.slotOff sl)) (strideOf g.pay) true
      let s := s.modTag c t fun g =>
        { g.put sl { r with use := .resident } with expC := g.expC + 1, since := g.since + 1, dropTo := none }
      let s := s.raiseEvent c 7
      let s := if g.halyard && r.flags.getLsbD 0 then
          s.modCell c fun k => { k with hal := { k.hal with
            slots := k.hal.slots.ins (haSlot k.hal r.seq) (if g.firstBound k.hal.cpm r.seq then 4 else 3) } }
        else s
      let s := if 64 ≤ g.since + 1 then s.post .censusSend { Args.empty with c := c, tag := t, stream := g.stream } else s
      (s.post .taskStartArrival { Args.empty with c := c }).settleTag c t n
    else s

/-- A refusal carries n and ACK_C (R93). -/
def State.refuseFor (s : State) (g : TagSt) (origin : BitVec 32) (n : BitVec 32) : State :=
  if g.peerLost then s else
  s.sendTo origin .refusalArrival { Args.empty with stream := g.stream, n := n.toNat, ack := g.ackC } 4
    (.refusal g.stream n g.ackC)
/-- A refusal by a tag of cell `c`; both producers of a shadowed stream get it, so that their state stays the same (R430).
-/
def State.refuse (s : State) (c : Nat) (g : TagSt) (origin : BitVec 32) (n : BitVec 32) : State :=
  (s.producers c g.stream (some origin)).foldl (fun t o => t.refuseFor g o n) s

/-- The evicted configuration of a cell that consumes a stream (R40). -/
def State.shelved (s : State) (c : Nat) (stream : BitVec 16) : Option Shelf :=
  (s.die (dieOf c)).shelf.find? fun h => h.cell == c && (h.was.tagOf stream).isSome

/-- A chunk of a micro-batch that the consumer completed before a migration: dropped, and acknowledged as if freed, in any
order of arrival, so that a halyard tag's return waits for the whole micro-batch (R271, R445). Log entry 74, DEDUCED. -/
def State.dropCompleted (s : State) (c t : Nat) (ck : Chunk) : State :=
  let g := (s.cell c).tag t
  if seqDiff ck.seq g.expC < 0 then (if seqDiff ck.seq g.ackC < 0 then s.sendReturn c t else s)
  else if (g.slots : Int) ≤ seqDiff ck.seq g.ackC then s.refuse c g ck.origin ck.seq
  else
    let s := (s.modTag c t fun g => { g.put (g.slotOf ck.seq) ⟨.freed, ck.seq, ck.mb, 0, ck.attempt⟩ with
      origin := some ck.origin }).settleTag c t g.slots
    let g1 := (s.cell c).tag t
    let g2 := advanceAck (s.cell c).hal.cpm g1 g.slots
    let s := s.modTag c t fun _ => g2
    if g2.ackC = g1.ackC then s else s.sendReturn c t

/-- The first chunk of a micro-batch reaches its slot group (R272): the group is FILLING. One that comes without a pennant
of this side, sent again after a kill, stands for it: the next pennant is then that of the micro-batch after it. Log entry
102, DEDUCED. -/
def Halyard.filling (h : Halyard) (seq : BitVec 32) (mb : BitVec 16) : Halyard :=
  let i := haSlot h seq
  if h.slots.get 0 i = 1 then { h with slots := h.slots.ins i 2 }
  else if h.slots.get 0 i = 0 then
    let h := { h with slots := h.slots.ins i 2, slotMb := h.slotMb.ins i mb }
    if mb = h.nextPennant then
      { h with nextPennant := h.nextPennant + 1, nextSeq := h.nextSeq + BitVec.ofNat 32 h.cpm }
    else h
  else h

/-- `CHUNK_ARRIVAL`: the cell input. -/
def execChunkArrival (s : State) : Out :=
  .next (
    let c := s.args.c
    let ck := s.args.ck
    let away := s.shelved c ck.stream
    let k := (away.map Shelf.was).getD (s.cell c)
    let t := ck.tag.toNat
    let g := k.tag t
    match inputFault k ck with
    | some sub => s.failChunk (dieOf c) (c % 256) 0 1 sub (some c) ck
    | none =>
      let s := if away.isNone && g.halyard && k.hal.base.isNone then
          (s.modCell c fun k => { k with hal := k.hal.rebase ck }).nextPennant c else s
      if away.isSome then s.refuse c g ck.origin ck.seq
      else if (g.dropTo.any fun d => decide ((d - ck.mb).toNat < 32768)) then s.dropCompleted c t ck
      else if seqDiff ck.seq g.expC < 0 then
        (if seqDiff ck.seq g.ackC < 0 then s.sendReturn c t else s)
      else if (g.slots : Int) ≤ seqDiff ck.seq g.ackC then s.refuse c g ck.origin ck.seq
      else
        let sl := g.slotOf ck.seq
        let r := g.at_ sl
        if r.use == .arrived && r.seq == ck.seq then s
        else
          let ck := { ck with hop := s.hopWord (dieOf c) (c % 256) 1 }
          let s := s.overwrite (flat c 0 (g.slotOff sl)) (headerBytes ck ++ ck.payload)
          let s := s.modTag c t fun g => { g.put sl ⟨.arrived, ck.seq, ck.mb,
            BitVec.ofNat 4 (ck.endMb.toNat + ck.last.toNat * 2 + ck.replay.toNat * 4), ck.attempt⟩ with
              origin := some ck.origin }
          let s := if g.halyard then s.modCell c fun k => { k with hal := k.hal.filling ck.seq ck.mb } else s
          s.settleTag c t g.slots)

/-! ## Returns, census and refusals at the producer (R88-R93) -/

/-- The number against which a return or census is checked: NEXT_P, or the high-water mark after a kill (R434). -/
def PortSt.limit (p : PortSt) : BitVec 32 := p.high.getD p.nextP

/-- Chunks waiting to be resent are looked at again. -/
def State.pokeResend (s : State) (c p : Nat) : State :=
  if ((s.cell c).port p).unsent.isSome then
    s.post .refusedChunkResend { Args.empty with c := c, stream := ((s.cell c).port p).stream }
  else s

/-- A return reaches a port. -/
def State.takeReturn (s : State) (c p : Nat) (ack : BitVec 32) : State :=
  let t := (s.cell c).port p
  if t.stopped then s
  else if 0 < seqDiff ack t.limit then s.channelError c p 1 ack
  else if seqDiff ack t.ackP ≤ 0 then s
  else ((s.modPort c p fun t => { t with ackP := ack, resendOk := true }).raiseEvent c 6).pokeResend c p

/-- `RETURN_ARRIVAL` (R88); a stopped stream holds its retain slots (R92). -/
def execReturnArrival (s : State) : Out :=
  .next (s.atPort s.args.c s.args.stream fun t p => t.takeReturn s.args.c p s.args.ack)

/-- The period of a tag's censuses begins: with its stream, or with a census (R90). -/
def State.startTag (s : State) (c t : Nat) : State :=
  (s.modTag c t fun g => { g with since := 0, censusAt := s.elapsed }).after 10000 .censusSend
    { Args.empty with c := c, tag := t, stream := ((s.cell c).tag t).stream }

/-- A census of a tag at 64 chunks or 10 µs since the last; every census restarts both. An end in PEER_LOST sends none
(R479). -/
def State.sendCensus (s : State) (c t : Nat) : State :=
  let g := (s.cell c).tag t
  if g.slots = 0 ∨ (g.since < 64 ∧ s.elapsed < g.censusAt + 10000 * 45000) then s
  else if g.peerLost then s.startTag c t
  else
    let pay := toBytes 4 g.ackC.toNat ++ toBytes 4 g.expC.toNat
      ++ toBytes 2 (g.slots - (g.expC - g.ackC).toNat) ++ toBytes 2 g.slots ++ toBytes 4 g.serial.toNat
    let ck : Chunk :=
      { stream := g.stream, tag := BitVec.ofNat 4 t, endMb := false, last := false, replay := false, census := true
        attempt := 0, seq := 0, fmt := 0, rsvd := 0, length := 16, axexp := 0, mb := 0, burgee := burgeeOf false pay
        hop := s.cellName c, origin := s.cellName c, payload := pay }
    let s := s.modTag c t fun g => { g with serial := g.serial + 1 }
    ((s.producers c g.stream g.origin).foldl (fun s o => s.sendChunk c o ck) s).startTag c t

/-- `CENSUS_SEND` (R90), also of a tag whose configuration is evicted. -/
def execCensusSend (s : State) : Out :=
  .next (s.atTag s.args.c s.args.stream fun u t => u.sendCensus s.args.c t)

/-- The cell-input check of a census (R97) at the port of its stream: none where it passes, else the SUB of the report.
FORMAT is RAW and LENGTH 16 (R90, R95). Log entry 104, DEDUCED. -/
def censusFault (p : Option PortSt) (ck : Chunk) : Option Nat :=
  if 1 < bitsAt ck.burgee 61 3 then some 1
  else if (p.all fun t => ck.tag != t.tag) || ck.fmt != 0 || ck.rsvd != 0 || ck.hop.extractLsb' 24 8 != 0 || ck.axexp != 0
      || ck.length != 16 || ck.payload.length != 16 || bitsAt ck.burgee 61 3 != 0 then some 2
  else if residue false ck.payload != bitsAt ck.burgee 0 61 then some 0
  else none

/-- ACK_C of a census or refusal differs from ACK_P: it is applied, with a CENSUS_FIX record (R91). -/
def State.fixAck (s : State) (c p : Nat) (ack : BitVec 32) : State :=
  let t := (s.cell c).port p
  (((s.modPort c p fun t => { t with ackP := ack }).logCell c 5 0
    (BitVec.ofNat 64 (t.stream.toNat + ack.toNat * 2 ^ 32)) (t.ackP.setWidth 64)).countFix t).raiseEvent c 6

/-- A census that has passed its check reaches a port (R91); a stopped stream holds its retain slots (R92). Where a census
shows a channel error beside a difference of ACK_C, the channel error stands. Log entry 104, DEDUCED. -/
def State.takeCensus (s : State) (c p : Nat) (pay : List Byte) : State :=
  let t := (s.cell c).port p
  let ack : BitVec 32 := BitVec.ofNat 32 (field pay 0 4)
  let expN : BitVec 32 := BitVec.ofNat 32 (field pay 4 4)
  if t.stopped then s
  else if 0 < seqDiff expN t.limit || 0 < seqDiff ack expN || field pay 10 2 != t.slots then s.channelError c p 0 expN
  else
    let s := s.modPort c p fun t => { t with resendOk := true }
    (if ack = t.ackP then s else s.fixAck c p ack).pokeResend c p

/-- `CENSUS_ARRIVAL` at the producer: the cell input checks it. Log entry 104, DEDUCED. -/
def execCensusArrival (s : State) : Out :=
  .next (
    let c := s.args.c
    let ck := s.args.ck
    let fault (t : State) : Option Nat := censusFault (((t.cell c).portOf ck.stream).map fun p => (t.cell c).port p) ck
    let fails (t : State) (sub : Nat) : State := t.failChunk (dieOf c) (c % 256) 0 1 sub (some c) ck
    let known := (s.cell c).portOf ck.stream |>.isSome
    if !known && !((s.die (dieOf c)).shelf.any fun h => h.cell == c && (h.was.portOf ck.stream).isSome) then
      (fault s).elim s (fails s)
    else s.atPort c ck.stream fun t p => (fault t).elim (t.takeCensus c p ck.payload) (fails t))

/-- The first unsent chunk after a refusal of chunk n: those that already wait stay unsent. -/
def PortSt.firstUnsent (p : PortSt) (n : BitVec 32) : BitVec 32 :=
  match p.unsent with
  | some u => if seqDiff u n < 0 then u else n
  | none => n

/-- A refusal reaches a port (R93): chunks from n on are unsent; ACK_C is applied as a census's is (R91), but not on a
stopped stream, which holds its retain slots (R92). -/
def State.takeRefusal (s : State) (c p : Nat) (n ack : BitVec 32) : State :=
  let t := (s.cell c).port p
  if !t.stopped && decide (0 < seqDiff ack t.limit) then s.channelError c p 0 ack
  else
    let s := if t.stopped || ack == t.ackP then s else s.fixAck c p ack
    if 0 ≤ seqDiff n t.nextP then s
    else
      (s.modPort c p fun t => { t with unsent := some (t.firstUnsent n), resendOk := false, refusedAt := s.elapsed }).after 10000
        .refusedChunkResend { Args.empty with c := c, stream := t.stream }

/-- `REFUSAL_ARRIVAL` (R93). -/
def execRefusalArrival (s : State) : Out :=
  .next (s.atPort s.args.c s.args.stream fun t p => t.takeRefusal s.args.c p (BitVec.ofNat 32 s.args.n) s.args.ack)

/-- A stream that needs a retain slot which cannot be read is stopped for good: a channel error of SUB 4 (R436). -/
def State.retainError (s : State) (c p : Nat) (n : BitVec 32) : State :=
  let t := (s.cell c).port p
  (s.modPort c p fun t => { t with stopped := true, lost := true }).logCell c 6 4
    (BitVec.ofNat 64 (t.stream.toNat + n.toNat * 2 ^ 32)) 0

/-- Sends a retained chunk again: REPLAY set, HOP back at the origin, payload and burgee unchanged (R89). -/
def State.resend (s : State) (c p : Nat) (n : BitVec 32) (attempt : Nat) : State :=
  let t := (s.cell c).port p
  if t.peerLost then s
  else if s.poisoned (flat c 0 (t.slotOff n)) (32 + t.pay) then s.retainError c p n
  else
  let ck := chunkOf (s.readBytes (flat c 0 (t.slotOff n)) (32 + t.pay))
  let ck := { ck with replay := true, attempt := BitVec.ofNat 8 attempt, hop := s.cellName c }
  ((s.modPort c p fun t => { t with attempts := t.attempts.ins (t.slotOf n) attempt }).sendChunk c t.dest ck).modCell c
    fun k => k.profFired (16 + p)

/-- `REFUSED_CHUNK_RESEND`: one chunk, once a slot is known free and a return, a census or 10 µs have come; nothing is
sent on a stopped stream (R92). The chunk keeps its ATTEMPT and has REPLAY set, as R434 says for a kill. Log entry 104,
DEDUCED. -/
def State.resendRefused (s : State) (c p : Nat) : State :=
  let t := (s.cell c).port p
  match t.unsent with
  | none => s
  | some k =>
    if t.peerLost || t.stopped then s
    else if (t.resendOk || decide (t.refusedAt + 10000 * 45000 ≤ s.elapsed)) && decide (seqDiff k t.ackP < t.slots) then
      let s := if seqDiff k t.ackP < 0 then s else s.resend c p k (t.attempts.get 0 (t.slotOf k))
      (s.modPort c p fun t => { t with unsent := if k + 1 = t.nextP then none else some (k + 1) }).pokeResend c p
    else s
/-- Log entry 104, DEDUCED. -/
def execRefusedChunkResend (s : State) : Out :=
  .next (s.atPort s.args.c s.args.stream fun t p => t.resendRefused s.args.c p)

/-- A replay request reaches a port (R89): a chunk still retained is sent again with the next attempt; a third sending that
fails is a channel error. -/
def State.takeReplay (s : State) (c p : Nat) (n : BitVec 32) (attempt : Nat) : State :=
  let t := (s.cell c).port p
  if t.stopped || decide (seqDiff n t.ackP < 0) || decide (0 ≤ seqDiff n t.nextP) then s
  else if 2 ≤ attempt then s.channelError c p 2 n
  else s.resend c p n (attempt + 1)

/-- `REPLAY_REQUEST_ARRIVAL` (R89). -/
def execReplayRequestArrival (s : State) : Out :=
  .next (s.atPort s.args.c s.args.stream fun t p => t.takeReplay s.args.c p s.args.seq s.args.attempt)

end Sys2Proof.Machine
end

