-- ==== Sys2Proof/Machine/Matrix.lean ====
section
/-! DEFINITION. The matrix engines (R249-R262, R278-R281, R316, R327, R328): queues, tiles, weight buffers, the start and
completion of operations, and the M-class instructions. -/

namespace Sys2Proof.Machine
open Sys2Proof

/-! ## Codes of the M class (R116) -/

def opMwload : Nat := 2
def opMwswap : Nat := 3
def opMmul : Nat := 4
def opMmac : Nat := 5
def opMdrain : Nat := 6
def opMzero : Nat := 7
def opMtrn : Nat := 8
def opMscale : Nat := 9
def opMsave : Nat := 11
def opMrest : Nat := 12

def isMM (o : Nat) : Bool := o == opMmul || o == opMmac

/-- A field of aux. -/
def MEntry.auxBits (e : MEntry) (lo n : Nat) : Nat := bitsAt (e.aux.setWidth 64) lo n
/-- Rows of an `MMUL` or `MMAC`. -/
def MEntry.rows (e : MEntry) : Nat := e.auxBits 0 7 + 1
/-- The tile an operation names; none for weight loads and swaps and for `MSCALE` of the weights (R251). -/
def MEntry.tile (e : MEntry) : Option Nat :=
  if e.op = opMwload ∨ e.op = opMwswap ∨ (e.op = opMscale ∧ e.auxBits 0 2 = 1) then none else some e.t

/-- The engine that a matrix slot selects: M0 is slot 9 and M1 is slot 8 (R106). -/
def State.engineNo (s : State) : Nat := 9 - s.focus.slot

def Cell.mat (k : Cell) (e : Nat) : MatEngine := k.mats.get MatEngine.reset e
def State.modMat (s : State) (c e : Nat) (f : MatEngine → MatEngine) : State :=
  s.modCell c fun k => { k with mats := k.mats.ins e (f (k.mat e)) }
def MatEngine.tile (m : MatEngine) (t : Nat) : Tile := m.tiles.get Tile.reset t
def MatEngine.putTile (m : MatEngine) (t : Nat) (f : Tile → Tile) : MatEngine :=
  { m with tiles := m.tiles.ins t (f (m.tile t)) }

/-- Queued and running operations that satisfy a condition (the scoreboard of R316). -/
def MatEngine.pending (m : MatEngine) (f : MEntry → Bool) : Bool := m.queue.any f || m.running.any fun r => f r.1
def MatEngine.idle (m : MatEngine) : Bool := m.queue.isEmpty && m.running.isEmpty

/-! ## Tiles -/

/-- Bases of the three kinds of undefined contents among the free values of a tile. Log entry 33, DESIGN CHOICE. -/
def undefScale : Nat := 8192
/-- Log entry 33, DESIGN CHOICE. -/
def undefCheck : Nat := 8320
def undefSpan : Nat := 8448

/-- Element `row × 64 + column`. Log entry 33, DESIGN CHOICE. -/
def Tile.elem (t : Tile) (i : Nat) : Nat :=
  (t.acc.get (match t.undef with
    | none => 0
    | some b => (Config.freeWord (b + i)).setWidth 32) i).toNat
def Tile.rowScale (t : Tile) (i : Nat) : Nat :=
  (t.scale.get (match t.undef with
    | none => 0x3F80
    | some b => (Config.freeWord (b + undefScale + i)).setWidth 16) i).toNat
def Tile.sum (t : Tile) (i : Nat) : Option Dyadic :=
  t.check.get (match t.undef with
    | none => some (0, 0)
    | some b => some ((Config.freeVec (b + undefCheck + i)).toInt, -64)) i

/-- A tile that is zero, with its owner (R257). Log entry 32, DEDUCED. -/
def Tile.zeroed (t : Tile) : Tile :=
  { t with ru := 0, acc := [], undef := none, scale := [], check := [], flip0 := false, flip1 := false }

/-- Elements of all 128 rows by a function of the index. -/
def Tile.setAll (t : Tile) (f : Nat → Nat) : Tile :=
  { t with acc := (List.range 8192).map fun i => (i, BitVec.ofNat 32 (f i)) }
def Tile.setScales (t : Tile) (f : Nat → Nat) : Tile :=
  { t with scale := (List.range 128).map fun i => (i, BitVec.ofNat 16 (f i)) }
def Tile.setSums (t : Tile) (f : Nat → Option Dyadic) : Tile :=
  { t with check := (List.range 128).map fun i => (i, f i) }

/-- A checksum as an accumulator image holds it: 16 bytes, signed, binary point at bit 64. A sum that is not finite or does
not fit has no stated image: a free value. Log entry 33, DESIGN CHOICE. -/
def sumImage (b : Nat) (x : Option Dyadic) : List Byte :=
  let free := toBytes 16 (Config.freeVec b).toNat
  match x with
  | none => free
  | some (m, e) =>
    if m = 0 then zeros 16
    else
      let v : Int := if -64 ≤ e then m * 2 ^ (e + 64).toNat else m / 2 ^ (-64 - e).toNat
      let exact := decide (-64 ≤ e) || decide (m % 2 ^ (-64 - e).toNat = 0)
      if exact && decide (-(2 ^ 127) ≤ v) && decide (v < 2 ^ 127) then toBytes 16 (v % 2 ^ 128).toNat else free

/-- An accumulator image (R259). -/
def Tile.image (t : Tile) (c b : Nat) : List Byte :=
  let body := (List.range 8192).flatMap (fun i => toBytes 4 (t.elem i))
    ++ (List.range 128).flatMap (fun i => toBytes 2 (t.rowScale i))
    ++ (List.range 128).flatMap (fun i => sumImage (b + i) (t.sum i))
  toBytes 4 0x4D494341 ++ [BitVec.ofNat 8 (isC c).toNat, BitVec.ofNat 8 t.ru,
      BitVec.ofNat 8 (t.flip0.toNat + 2 * t.flip1.toNat), 0]
    ++ zeros 8 ++ toBytes 8 (burgeeOf false body).toNat ++ zeros 40 ++ body

/-! ## Claims on evicted state (R40, R252, R367) -/

/-- Incoming work names a tile of an evicted task: its image goes to three spill frames, unless it is there already.
Log entry 53, DESIGN CHOICE. -/
def State.claimTile (s : State) (c e t : Nat) : State :=
  let v := ((s.cell c).mat e).tile t
  match v.owner with
  | none => s
  | some o =>
    if o < 4 then s
    else
      let d := dieOf c
      let f := s.takeFrames d 3
      let u := { f.2 with draws := s.draws + 128 }.spillBytes d f.1 (v.image c s.draws)
      (u.modTaskAway c (o - 4) fun w => { w with claims := w.claims ++ [(e, t, f.1)] }).modMat c e fun m =>
        m.putTile t fun v => { v with owner := none }

/-- Incoming work issues `MCFG` or `MWLOAD`: weight buffers that an evicted configuration has left in place go to frames,
two for each. Log entry 53, DESIGN CHOICE. -/
def State.claimWeights (s : State) (c e : Nat) : State :=
  let d := dieOf c
  if !((s.cell c).mat e).aside then s
  else
    let own (h : Shelf) : Bool := h.cell == c && h.kept.contains e
    let held := (((s.die d).shelf.find? own).map fun h => (h.was.mat e).buffers).getD []
    let p := held.foldl (fun (p : List Nat × State) w =>
      let f := p.2.takeFrames d 2
      (p.1 ++ f.1, f.2.spillBytes d f.1 w.img)) ([], s)
    let give (h : Shelf) : Shelf := if own h then { h with kept := h.kept.erase e, frames := h.frames ++ p.1 } else h
    (p.2.modDie d fun k => { k with shelf := k.shelf.map give }).modMat c e fun m => { m with aside := false }

/-- Frees every tile of a context on both engines (R31). -/
def Cell.freeTiles (k : Cell) (x : Nat) : Cell :=
  { k with mats := k.mats.map fun m =>
      (m.1, { m.2 with tiles := m.2.tiles.map fun t =>
        (t.1, if t.2.owner = some x then { t.2 with owner := none } else t.2) }) }

/-! ## Ownership and enqueueing (R249, R251) -/

/-- The test of R251 and the change it makes. -/
def MatEngine.mayTake (m : MatEngine) (t x : Nat) : Bool :=
  match (m.tile t).owner with
  | none => true
  | some y => x == y || decide (4 ≤ y)
def MatEngine.owns (m : MatEngine) (t x : Nat) : Bool := (m.tile t).owner == some x

/-- Puts an operation of the issuing slot into its engine's queue, and lets Tarragon look at it. -/
def State.enqueueM (s : State) (op t : Nat) (aux : BitVec 11) (sval : W64) (stream : Option Nat) (f : State → State) :
    State :=
  let c := s.focus.cell
  let x := s.focus.ctx
  let e := s.engineNo
  let m := s.here.mat e
  if 8 ≤ m.queue.length then s.block (.matrix e)
  else
    let entry : MEntry := ⟨x, op, t, aux, sval, stream, none, [(s.focus.pc, s.focus.slot)],
      s.ctx.window.get 0 e, false, false, s.was.supervisor, [], s.now, [], [s.now], []⟩
    let s := (f s).modMat c e fun m => { m with queue := m.queue ++ [entry] }
    let s := s.modCtx fun y => { y with lastM := y.lastM.ins e s.now }
    (s.rewrite c x e).post .matrixOpStart { Args.empty with c := c, e := e }

/-- The bundle stays where it is, and its context keeps the issue slot (R17). -/
def State.stay (s : State) : State := s.modCtx fun x => { x with pc := s.focus.pc }

def streamOk (k : Cell) (n target : Nat) : Bool :=
  match k.seq n with
  | some q => q.target == target
  | none => false

/-! ## The instructions -/

/-- Formats of R253. -/
def pairFmt (f : Nat) : Bool := decide (3 ≤ f) && decide (f ≤ 8)
def pairOk (a w : Nat) : Bool := (pairFmt a && pairFmt w) || (a == 9 && w == 9)

/-- `MCFG`: held until the engine is idle; then the pair is set and the window closes (R325). -/
def mcfgHeld (m : MatEngine) : Bool := !m.idle
def execMcfg (w a : BitVec 4) (s : State) : Out :=
  .next (
    if mcfgHeld (s.here.mat s.engineNo) then s.stay
    else if !pairOk a.toNat w.toNat then s.illegal 39
    else ((s.claimWeights s.focus.cell s.engineNo).modMat s.focus.cell s.engineNo fun m =>
      { m with pair := some (a, w) }).closeWindow)

/-- `MWLOAD` (R254). -/
def execMwload (r : BitVec 6) (m : BitVec 1) (s : State) : Out :=
  .next (
    let e := s.here.mat s.engineNo
    if e.pair.isNone then s.illegal 39
    else if m = 1 ∧ !streamOk s.here r.toNat 1 then s.illegal 42
    else s.enqueueM opMwload 0 (m.setWidth 11) (if m = 1 then 0 else s.rs r) (if m = 1 then some r.toNat else none)
      fun s => (s.claimWeights s.focus.cell s.engineNo).modMat s.focus.cell s.engineNo fun e => { e with loaded := true })

/-- `MWSWAP` (R254). -/
def execMwswap (s : State) : Out :=
  .next (
    let e := s.here.mat s.engineNo
    if e.pair.isNone || !e.loaded then s.illegal 40
    else s.enqueueM opMwswap 0 0 0 none fun s => s.modMat s.focus.cell s.engineNo fun e =>
      { e with loaded := false, swapped := true })

/-- Cycles per row of a pair, and the rows that one operation may hold (R250). -/
def rowCycles (p : BitVec 4 × BitVec 4) : Nat :=
  if p.1 = 3 ∨ p.2 = 3 then 4 else if p.1 = 8 ∧ p.2 = 8 then 1 else 2
def rowLimit (p : BitVec 4 × BitVec 4) : Nat := 128 / rowCycles p

/-- An operation that takes a tile cancels the releases of the context's earlier operations on it (R251). -/
def MatEngine.takeTile (m : MatEngine) (t x : Nat) : MatEngine :=
  let keep (e : MEntry) : MEntry := if e.ctx = x ∧ e.tile = some t then { e with kept := true } else e
  { m.putTile t fun v => { v with owner := some x } with
    queue := m.queue.map keep
    originals := m.originals.map keep
    running := m.running.map fun r => (keep r.1, r.2) }

/-- The issuing context takes a tile of its slot's engine; the tile of an evicted task is claimed (R367). -/
def State.takeTile (s : State) (t : Nat) : State :=
  (s.claimTile s.focus.cell s.engineNo t).modMat s.focus.cell s.engineNo fun m => m.takeTile t s.focus.ctx

/-- `MMUL` and `MMAC` (R255). -/
def State.multiply (s : State) (op : Nat) (t : BitVec 3) (r : BitVec 6) (q : BitVec 1) (n : BitVec 7) : State :=
  let e := s.here.mat s.engineNo
  let x := s.focus.ctx
  if !(if op = opMmul then e.mayTake t.toNat x else e.owns t.toNat x) then s.illegal 38
  else
    match e.pair with
    | none => s.illegal 40
    | some p =>
      if !e.swapped || decide (rowLimit p < n.toNat + 1) then s.illegal 40
      else if q = 1 ∧ !streamOk s.here r.toNat 2 then s.illegal 42
      else
        s.enqueueM op t.toNat (n.setWidth 11 ||| (q.setWidth 11 <<< 7)) (if q = 1 then 0 else s.rs r)
          (if q = 1 then some r.toNat else none) fun s => if op = opMmul then s.takeTile t.toNat else s
def execMmul (t : BitVec 3) (r : BitVec 6) (q : BitVec 1) (n : BitVec 7) (s : State) : Out :=
  .next (s.multiply opMmul t r q n)
def execMmac (t : BitVec 3) (r : BitVec 6) (q : BitVec 1) (n : BitVec 7) (s : State) : Out :=
  .next (s.multiply opMmac t r q n)

/-- An operation on a tile that the issuing context must own. -/
def State.ownedOp (s : State) (op : Nat) (t : BitVec 3) (aux : BitVec 11) (sval : W64) : State :=
  if !(s.here.mat s.engineNo).owns t.toNat s.focus.ctx then s.illegal 38
  else s.enqueueM op t.toNat aux sval none id

/-- `MDRAIN` (R256). -/
def execMdrain (t : BitVec 3) (r : BitVec 6) (z rel : BitVec 1) (f : BitVec 4) (s : State) : Out :=
  .next (s.ownedOp opMdrain t (f.setWidth 11 ||| (rel.setWidth 11 <<< 4) ||| (z.setWidth 11 <<< 5)) (s.rs r))

/-- `MZERO` (R257). -/
def execMzero (t : BitVec 3) (s : State) : Out :=
  .next (
    if !(s.here.mat s.engineNo).mayTake t.toNat s.focus.ctx then s.illegal 38
    else s.enqueueM opMzero t.toNat 0 0 none fun s => s.takeTile t.toNat)

/-- `MTRN` (R257). -/
def execMtrn (t : BitVec 3) (h : BitVec 1) (s : State) : Out :=
  .next (s.ownedOp opMtrn t (h.setWidth 11) 0)

/-- `MSCALE` (R257): target 1 needs no ownership. -/
def execMscale (t : BitVec 3) (r : BitVec 6) (tgt : BitVec 2) (s : State) : Out :=
  .next (
    if tgt = 1 then s.enqueueM opMscale 0 1 (s.rs r) none id
    else s.ownedOp opMscale t (tgt.setWidth 11) (s.rs r))

/-- `MSAVE` (R260). -/
def execMsave (t : BitVec 3) (r : BitVec 6) (rel : BitVec 1) (s : State) : Out :=
  .next (s.ownedOp opMsave t (rel.setWidth 11) (s.rs r))

/-- `MREST` (R260). -/
def execMrest (t : BitVec 3) (r : BitVec 6) (s : State) : Out :=
  .next (
    if !(s.here.mat s.engineNo).mayTake t.toNat s.focus.ctx then s.illegal 38
    else s.enqueueM opMrest t.toNat 0 (s.rs r) none fun s => s.takeTile t.toNat)

/-- `MWAIT` (R261, R280): held while operations on the masked tiles, or weight operations, are queued or running. -/
def mwaitHeld (m : MatEngine) (w : BitVec 1) (k : BitVec 8) : Bool :=
  m.pending fun e => match e.tile with
    | some t => k.getLsbD t
    | none => w == 1
def execMwait (w : BitVec 1) (k : BitVec 8) (s : State) : Out :=
  .next (if mwaitHeld (s.here.mat s.engineNo) w k then s.stay else s)

/-! ## The checksum test (R258) -/

/-- Whether row `i` passes. -/
def Tile.rowPasses (t : Tile) (i : Nat) : Bool :=
  let ys := (List.range 64).map fun j => (fp32.value (t.elem (64 * i + j))).dyadic
  match t.sum i with
  | none => true
  | some x =>
    if ys.any Option.isNone then true
    else
      let ds := ys.filterMap id
      let S := ds.foldl dAdd (0, 0)
      let A := (ds.map dAbs).foldl dAdd (0, 0)
      let d := dAbs (dAdd S (-x.1, x.2))
      let w := dAdd A (dAbs x)
      !(dLt (dAdd (w.1, w.2 - 14) (1, -120)) d)

/-- The first row that fails. -/
def Tile.firstBad (t : Tile) : Option Nat :=
  (List.range t.ru).find? fun i => !(if i < 64 then t.flip0 else t.flip1) && !t.rowPasses i

def mchkHeld (m : MatEngine) (t : BitVec 3) : Bool := m.pending fun e => e.tile == some t.toNat
def execMchk (t : BitVec 3) (x : BitVec 1) (s : State) : Out :=
  .next (
    let m := s.here.mat s.engineNo
    if mchkHeld m t then s.stay
    else if !m.owns t.toNat s.focus.ctx then s.illegal 38
    else
      match (m.tile t.toNat).firstBad with
      | none => if x = 1 then s.wpair 7 true else s
      | some row => if x = 1 then s.wpair 7 false else s.stop 0x0A row)

/-! ## Starting operations (R249, R250) -/

/-- The error of an engine's access for a context: R74, and the spaces an engine cannot use (R254, R256, R281); of a source,
ALIGN and PERM come before any other.
Log entry 86, DEDUCED. -/
def State.matError (s : State) (c : Nat) (e : MEntry) (size align : Nat) (store : Bool) : Option Nat :=
  let a := s.localAddr c e.sval
  if !store && a.toNat % align ≠ 0 then some kAlign
  else if !s.localOk c e.sval then some kAddr
  else if !store && decide (2 ≤ aSpace a) then some kPerm
  else match s.accessFault ⟨a, size, align, store, false, false, false, e.supervisor⟩ with
    | some k => some k
    | none => if 2 ≤ aSpace a then some kPerm else none

/-- The error response of an engine, at the operation's own place (R169). Log entry 108, DEDUCED. -/
def State.matViolate (s : State) (c : Nat) (e : MEntry) (kind : Nat) (a : W64) (store : Bool) : State :=
  let o := e.origins.headD (0, 0)
  s.violateOf c e.ctx kind (s.localAddr c a) (violInfo o.1 o.2 0 true store false 0)

/-- Bytes of memory as an operation reads them: those of a slot freed since its issue as they stood (R297). -/
def State.pastBytes (s : State) (past : List (Nat × List Byte)) (k n : Nat) : List Byte :=
  if past.isEmpty then s.readBytes k n
  else (List.range n).map fun i =>
    ((past.find? fun p => decide (p.1 ≤ k + i) && decide (k + i < p.1 + p.2.length)).map fun p => p.2.getD (k + i - p.1) 0).getD
      (s.byte (k + i))

/-- The bytes of a source of `n` bytes at each address and their places, zeros for all of them where one may not be read:
one error response, for the first (R281). -/
def State.matSource (s : State) (c : Nat) (e : MEntry) (n align : Nat) (addrs : List W64) :
    (List Byte × List (Nat × Nat)) × State :=
  match addrs.findSome? fun a => (s.matError c { e with sval := a } n align false).map fun k => (k, a) with
  | some (k, a) => ((zeros (n * addrs.length), []), s.matViolate c e k a false)
  | none =>
    let ks := addrs.map fun a => flatOf (s.localAddr c a)
    ((ks.flatMap fun k => s.pastBytes e.past k n, ks.map fun k => (k, n)), s)

/-- A unit's address as its cell names it: the deep store of its own pair under either die of the tower (R72). -/
def State.ownName (s : State) (c : Nat) (a : W64) : W64 :=
  if aPkg a = s.pkg.number ∧ aSpace a = 1 ∧ placeCell c a = c then s.localAddr c a else a

/-- Takes the next unit of a stream for an engine: its address, none beyond the end of the stream. None while the unit has
not been fetched: the engine's own demand drives its fetch. -/
def State.unitAddr (s : State) (c q : Nat) : Option (Option W64 × State) :=
  match (s.cell c).seq q with
  | none => some (none, s)
  | some st =>
    let s := if st.queue.isEmpty then s.seqFetch c q else s
    match (s.cell c).seq q with
    | none => none
    | some st =>
      match st.ready with
      | some u => some (some (s.ownName c (u.addr.getD 0)), s.modSeq c q SeqStream.take)
      | none => if st.over then some (none, s) else none

/-- `m` units of a stream. Log entry 29, DEDUCED. -/
def State.unitAddrs (s : State) (c q : Nat) : Nat → Option (List (Option W64) × State)
  | 0 => some ([], s)
  | m + 1 =>
    match s.unitAddr c q with
    | none => none
    | some r => (r.2.unitAddrs c q m).map fun t => (r.1 :: t.1, t.2)

/-- The rows or the image that the units of a stream give: free bytes for a unit beyond its end, but zeros for every unit
where one may not be read (R281). -/
def State.unitBytes (s : State) (c : Nat) (e : MEntry) (n align : Nat) (us : List (Option W64)) :
    (List Byte × List (Nat × Nat)) × State :=
  let addrs := us.filterMap id
  let r := s.matSource c e n align addrs
  if r.1.2.isEmpty && !addrs.isEmpty then ((zeros (n * us.length), []), r.2)
  else
    let nowhere := 2 ^ 60
    us.foldl (fun (p : (List Byte × List (Nat × Nat)) × State) u =>
      let j := (p.1.2.filter fun q => q.1 != nowhere).length
      match u with
      | some _ => ((p.1.1 ++ (r.1.1.drop (n * j)).take n, p.1.2 ++ [r.1.2.getD j (nowhere, n)]), p.2)
      | none => ((p.1.1 ++ freeBytes p.2.draws n, p.1.2 ++ [(nowhere, n)]), { p.2 with draws := p.2.draws + n }))
      (([], []), r.2)

/-- A source as it has been read: bytes and places, whether any come from deep store, and the state after. -/
structure MatSrc where
  data : List Byte
  spans : List (Nat × Nat)
  deep : Bool
  after : State
  deriving DecidableEq, Repr

/-- The source of an operation that has one, read as it starts; none while a stream has not supplied it. -/
def State.matData (s : State) (c : Nat) (m : MatEngine) (e : MEntry) : Option MatSrc :=
  let k := engineK c
  let p := m.pair.getD (3, 3)
  let deep (s : State) (a : W64) : Bool := aSpace (s.localAddr c a) == 1
  let src (n align count : Nat) : Option MatSrc :=
    match e.stream with
    | none =>
      let r := s.matSource c e (n * count) align [e.sval]
      some ⟨r.1.1, r.1.2, deep s e.sval, r.2⟩
    | some q => (s.unitAddrs c q count).map fun us =>
        let r := us.2.unitBytes c e n align us.1
        ⟨r.1.1, r.1.2, (us.1.filterMap id).any (deep s), r.2⟩
  if e.op = opMwload then src (imageBytes k p.2.toNat + checkBytes k) 64 1
  else if isMM e.op then src (rowBytes k p.1.toNat) 8 e.rows
  else if e.op = opMrest then
    let r := s.matSource c e 35136 64 [e.sval]
    some ⟨r.1.1, r.1.2, deep s e.sval, r.2⟩
  else some ⟨[], [], false, s⟩

/-- Cycles from start to completion (R250); for an operation that reads or writes memory `b` is its byte count. -/
def matCycles (c : Nat) (m : MatEngine) (e : MEntry) (deep : Bool) : Nat :=
  let k := engineK c
  let up (b n : Nat) : Nat := (b + n - 1) / n
  let p := m.pair.getD (3, 3)
  if isMM e.op then e.rows * rowCycles p + 24
  else if e.op = opMdrain then up ((m.tile e.t).ru * 64 * (fmtBits (e.auxBits 0 4) / 8)) 512 + 24
  else if e.op = opMsave ∨ e.op = opMrest then up 35136 512 + 24
  else if e.op = opMwload then
    let b := imageBytes k p.2.toNat + checkBytes k
    (if !deep then up b 512 else if isC c then up b 256 else up b 1024) + 16
  else if e.op = opMzero then 4
  else if e.op = opMwswap then 2
  else 36

/-- Whether the head of the queue can start: no earlier than the cycle after its issue; with the engine idle, or, for an
`MMUL` or `MMAC`, after the one before it has fed its last row. -/
def MatEngine.canStart (m : MatEngine) (now : Nat) : Bool :=
  match m.queue with
  | [] => false
  | e :: _ =>
    decide (e.at_ < now) &&
      (m.running.isEmpty || (isMM e.op && m.running.all fun r => isMM r.1.op && decide (r.2.1 < now)))

/-- What is wrong with an image: a class (ACC_CLASS), or INFO 41 (0x02), an RU byte above 128 among the causes. Log entry
115, DESIGN CHOICE. -/
def imageFault (c : Nat) (l : List Byte) : Option (Nat × Nat) :=
  if field l 0 4 != 0x4D494341 || decide (4 ≤ field l 6 1) || field l 7 9 != 0 || field l 24 40 != 0
      || decide (128 < field l 5 1)
      || field l 16 8 != (burgeeOf false (l.drop 64)).toNat then some (0x02, 41)
  else if field l 4 1 != (isC c).toNat then some (0x09, 0)
  else none

/-- A fault that an engine finds, taken at the next bundle boundary of the context (R260, R328). Log entry 86, DEDUCED. -/
def Ctx.faultLater (x : Ctx) (pc slot cause info : Nat) : Ctx :=
  { x with late := x.late ++ [⟨pc, slot, cause, info, 1#14 <<< slot, []⟩] }

/-- The earliest origin of an entry. -/
def MEntry.first (e : MEntry) : Nat × Nat := e.origins.headD (0, 0)

/-- `MATRIX_OP_START`: the head of the queue leaves it, and its source is read. A poisoned word there is consumed: the
operation does not run, and its context stops (R421). Log entry 31, DEDUCED. -/
def State.matStart (s : State) (c n : Nat) : State :=
  let m := (s.cell c).mat n
  let now := s.clock c
  if !m.canStart now then s
  else
    match m.queue with
    | [] => s
    | e :: rest =>
      match s.matData c m e with
      | none => s
      | some ⟨data, spans, deep, s⟩ =>
        match spans.find? fun p => s.poisoned p.1 p.2 with
        | some p => ((s.logConsumed c e.ctx e.first.1 e.first.2 p.1).modMat c n fun m => { m with queue := rest }).modCtxOf c e.ctx
            fun x => x.faultLater e.first.1 e.first.2 0x0B 0
        | none =>
        let cyc := matCycles c m e deep
        let feed := now + cyc - 25
        let s :=
          if e.op = opMrest then
            match imageFault c data with
            | none => s
            | some (cause, info) =>
              let o := e.origins.headD (0, 0)
              (s.modMat c n fun m => m.putTile e.t fun t => { t with owner := none }).modCtxOf c e.ctx
                fun x => x.faultLater o.1 o.2 cause info
          else s
        let s := if isMM e.op then s.modCtxOf c e.ctx fun x => x.count 9 e.rows else s
        s.modMat c n fun m => { m with
          queue := rest
          originals := if rest.isEmpty then [] else m.originals
          running := m.running ++ [({ e with data := data, spans := spans }, feed, now + cyc)] }

/-- Nothing starts in a freeze cycle (R309). Log entry 31, DEDUCED. -/
def execMatrixOpStart (s : State) : Out :=
  .next (if (s.cell s.args.c).froze then s else s.matStart s.args.c s.args.e)

/-! ## Effects (R254-R260) -/

/-- `MMUL` and `MMAC` on a tile: rows 0 to n − 1. `b` numbers the free values of the rows that an `MMUL` leaves undefined.
-/
def multiplied (c : Nat) (p : BitVec 4 × BitVec 4) (w : Weights) (e : MEntry) (b : Nat) (t : Tile) : Tile :=
  let k := engineK c
  let af := p.1.toNat
  let wf := w.fmt.toNat
  let rb := rowBytes k af
  let mul := e.op == opMmul
  let rows := (List.range e.rows).map fun i => (e.data.drop (i * rb)).take rb
  let sides := rows.map (rowSide k af)
  let check := checkOf k wf w.img
  let cols := (List.range 64).map fun j => (colSide k wf j w.img, colBands k wf j w.img)
  let accs := (List.range e.rows).flatMap fun i =>
    (List.range 64).map fun j =>
      match sides[i]?, cols[j]? with
      | some a, some (cw, bands) =>
        (64 * i + j, BitVec.ofNat 32 (accBands (if mul then 0 else t.elem (64 * i + j)) a cw bands))
      | _, _ => (64 * i + j, 0#32)
  let sums := (List.range e.rows).map fun i =>
    let x := match sides[i]? with
      | some a => rowCheck k a check
      | none => none
    (i, if mul then x else
      match t.sum i, x with
      | some u, some v => some (dAdd u v)
      | _, _ => none)
  if mul then
    { t with
      ru := e.rows
      acc := accs
      undef := some b
      scale := (List.range e.rows).map fun i => (i, BitVec.ofNat 16 (rowScaleOf k af (rows.getD i [])))
      check := sums
      flip0 := false
      flip1 := false }
  else
    { t with
      ru := max t.ru e.rows
      acc := accs ++ t.acc.filter fun q => decide (64 * e.rows ≤ q.1)
      check := sums ++ t.check.filter fun q => decide (e.rows ≤ q.1) }

/-- `MTRN`: the 64 × 64 square of half `h`. -/
def Tile.transpose (t : Tile) (h : Nat) : Tile :=
  let u := t.setAll fun i =>
    let r := i / 64
    if r / 64 = h then t.elem ((64 * h + i % 64) * 64 + r % 64) else t.elem i
  if h = 0 then { u with flip0 := !t.flip0 } else { u with flip1 := !t.flip1 }

/-- The exact value of an FP32 factor, none where it is not finite. -/
def factorValue (g : Nat) : Option Dyadic := (fp32.value g).dyadic

/-- `MSCALE` of elements and checksums. -/
def Tile.scaleAll (t : Tile) (g : Nat) : Tile :=
  (t.setAll fun i => scaleBy fp32 (t.elem i) g).setSums fun i =>
    match t.sum i, factorValue g with
    | some x, some y => some (dMul x y)
    | _, _ => none

/-- `MSCALE` of the active band scales. -/
def Weights.scaleBands (k : Nat) (w : Weights) (g : Nat) : Weights :=
  let off := bandOff k w.fmt.toNat
  let n := 64 * (k / 64)
  { w with img := w.img.take off
      ++ (List.range n).flatMap (fun i => toBytes 2 (scaleBy bf16 (field w.img (off + 2 * i) 2) g))
      ++ w.img.drop (off + 2 * n) }

/-- The bytes of a drain. -/
def Tile.drained (t : Tile) (f : Nat) : List Byte :=
  (List.range t.ru).flatMap fun i =>
    (List.range 64).flatMap fun j => toBytes (fmtBits f / 8) (drainElem f (t.elem (64 * i + j)) (t.rowScale i))

/-- A tile loaded from an image. -/
def Tile.fromImage (t : Tile) (l : List Byte) : Tile :=
  { t with
    ru := field l 5 1
    undef := none
    acc := (List.range 8192).map fun i => (i, BitVec.ofNat 32 (field l (64 + 4 * i) 4))
    scale := (List.range 128).map fun i => (i, BitVec.ofNat 16 (field l (32832 + 2 * i) 2))
    check := (List.range 128).map fun i =>
      (i, some ((BitVec.ofNat 128 (field l (33088 + 16 * i) 16)).toInt, -64))
    flip0 := (field l 6 1).testBit 0
    flip1 := (field l 6 1).testBit 1 }

/-- Writes an engine's result, or an error response that writes nothing. -/
def State.matWrite (s : State) (c : Nat) (e : MEntry) (l : List Byte) : State :=
  match s.matError c e l.length 64 true with
  | some k => s.matViolate c e k e.sval true
  | none => s.engineWrite (flatOf (s.localAddr c e.sval)) l

/-- The tile of an operation with RELEASE becomes FREE as the operation completes, unless a later one of the context has
cancelled that (R251). -/
def State.releaseTile (s : State) (c n : Nat) (e : MEntry) : State :=
  if e.kept then s else s.modMat c n fun m => m.putTile e.t fun v => { v with owner := none }

/-- The effect of a completed operation. Log entry 32, DEDUCED. -/
def State.matEffect (s : State) (c n : Nat) (e : MEntry) : State :=
  let m := (s.cell c).mat n
  let p := m.pair.getD (3, 3)
  let t := m.tile e.t
  let upd (s : State) (f : Tile → Tile) : State := s.modMat c n fun m => m.putTile e.t f
  if e.op = opMwload then s.modMat c n fun m => { m with shadow := some ⟨p.2.setWidth 8, e.data⟩ }
  else if e.op = opMwswap then s.modMat c n fun m => { m with active := m.shadow }
  else if isMM e.op then
    match m.active with
    | none => s
    | some w => { upd s (multiplied c p w e s.draws) with draws := s.draws + undefSpan }
  else if e.op = opMdrain then
    let s := s.matWrite c e (t.drained (e.auxBits 0 4))
    let s := if e.auxBits 5 1 = 1 then upd s Tile.zeroed else s
    if e.auxBits 4 1 = 1 then s.releaseTile c n e else s
  else if e.op = opMzero then upd s Tile.zeroed
  else if e.op = opMtrn then upd s fun t => t.transpose (e.auxBits 0 1)
  else if e.op = opMscale then
    match e.auxBits 0 2 with
    | 0 => upd s fun t => t.scaleAll e.g
    | 1 => s.modMat c n fun m => { m with active := m.active.map fun w => w.scaleBands (engineK c) e.g }
    | _ => upd s fun t => t.setScales fun i => scaleBy bf16 (t.rowScale i) e.g
  else if e.op = opMsave then
    let s := { s.matWrite c e (t.image c s.draws) with draws := s.draws + 128 }
    if e.auxBits 0 1 = 1 then s.releaseTile c n e else s
  else
    if (imageFault c e.data).isNone then upd s fun t => t.fromImage e.data else s

/-- `MATRIX_OP_COMPLETE`: the oldest running operation whose time has come. Log entry 31, DEDUCED. -/
def State.matComplete (s : State) (c n : Nat) : State :=
  let m := (s.cell c).mat n
  match m.running with
  | (e, _, due) :: rest =>
    if s.clock c < due then s
    else
      ((s.modMat c n fun m => { m with running := rest }).matEffect c n e).post .matrixOpStart
        { Args.empty with c := c, e := n }
  | [] => s

def execMatrixOpComplete (s : State) : Out := .next (s.matComplete s.args.c s.args.e)

/-! ## SEMIT (R238) -/

/-- The address of the `j`-th unit from now that a stream gives a matrix engine. -/
def State.unitPlace (s : State) (c q j : Nat) : Option W64 :=
  ((s.cell c).seq q).bind fun st =>
    match st.queue[j]? with
    | some u => u.addr.map (s.ownName c)
    | none =>
      let k := st.emitted + (j - st.queue.length)
      if st.units ≤ k then none
      else match (s.seqTranslate c q st (st.coords (k * st.unit))).1 with
        | .ok a => some (s.ownName c a)
        | .fail _ => none

/-- The memory that a queued matrix operation reads its rows from or drains to: flat addresses and lengths. `skip` units
of its stream go to operations before it. A drain counts as 128 rows (R325). -/
def State.opSpans (s : State) (c : Nat) (m : MatEngine) (skip : Nat) (e : MEntry) : List (Nat × Nat) :=
  if e.op = opMdrain then [(flatOf (s.localAddr c e.sval), 128 * 64 * (fmtBits (e.auxBits 0 4) / 8))]
  else if isMM e.op then
    let b := rowBytes (engineK c) (m.pair.getD (3, 3)).1.toNat
    match e.stream with
    | none => [(flatOf (s.localAddr c e.sval), e.rows * b)]
    | some q => (List.range e.rows).filterMap fun i => (s.unitPlace c q (skip + i)).map fun a => (flatOf a, b)
  else []

/-- Whether a payload range meets the source rows or the destination of an operation of the context's windows: a flush point
of `SEMIT` (R325). -/
def State.semitMeets (s : State) (off len : Nat) : Bool :=
  let c := s.focus.cell
  let lo := flat c 0 off
  s.here.mats.any fun m => (List.range m.2.queue.length).any fun i =>
    match m.2.queue[i]? with
    | none => false
    | some e =>
      let skip := (m.2.queue.take i).foldl (fun n d => if d.stream = e.stream then n + d.rows else n) 0
      e.ctx == s.focus.ctx && e.window == s.ctx.window.get 0 m.1 &&
        (s.opSpans c m.2 skip e).any fun p => decide (lo < p.1 + p.2) && decide (p.1 < lo + len)

/-- `SEMIT port, sa, sb` (R238): the payload is read after every earlier local write of the context (R288). -/
def execSemit (p : BitVec 4) (a b : BitVec 6) (s : State) : Out :=
  .next (
    let c := s.focus.cell
    let t := s.seen.port p.toNat
    let w := s.rs b
    let len := bitsAt w 0 13
    let off := (s.rs a).toNat
    let mb : BitVec 16 := BitVec.ofNat 16 (bitsAt w 16 16)
    if t.slots = 0 then s.illegal 32
    else if semitBad s.here t w then s.illegal 33
    else if s.emitHeld c p.toNat mb then s.block (.emit p.toNat mb)
    else s.behindReleases fun s =>
      let s := if s.semitMeets off len then s.closeWindow else s
      let addr := s.addrOf c 0 off
      if !inScratch c off len then s.violate kAddr addr (s.infoOf 0 true false false 0)
      else if off % 8 ≠ 0 then s.violate kAlign addr (s.infoOf 0 true false false 0)
      else if s.poisoned (flat c 0 off) len then s.consume (flat c 0 off)
      else s.emitChunk c s.focus.ctx p.toNat w (s.readBytes (flat c 0 off) len))

/-! ## Faults in queued entries (R327, R328) -/

/-- `RW_ORIGIN` names up to three origins (R329). -/
def originWord (l : List (Nat × Nat)) : W64 :=
  BitVec.ofNat 64 ((List.range 3).foldl (fun n i =>
    let o := l.getD i (0, 15)
    n + (o.1 % 2 ^ 17 + o.2 * 2 ^ 17) * 2 ^ (21 * i)) 0)

/-- The slots of the bundle of the earliest origin that are origins (R328). -/
def originSlots (l : List (Nat × Nat)) : BitVec 14 :=
  l.foldl (fun b p => if p.1 = (l.headD (0, 0)).1 then b ||| (1#14 <<< p.2) else b) 0

/-- The original entries that a replacement in a queue stands for; none for an original or an inhibited entry. -/
def MatEngine.replacedBy (m : MatEngine) (e : MEntry) : List MEntry :=
  if e.inhibited || e.born.length == 1 && !m.originals.any (fun d => d.born == e.born) then []
  else m.originals.filter fun d => d.ctx == e.ctx && e.born.any fun b => d.born == [b]

/-- An uncorrectable error in the head entry of a queue, found as it starts. An original, or an inhibited entry, stops its
context with UE_CONSUMED at its origin; a replacement is undone, its originals run, and the context stops with
REWRITE_ORIGIN. Log entry 77, DEDUCED. Log entry 86, DEDUCED. -/
def State.entryError (s : State) (c n : Nat) : State :=
  let m := (s.cell c).mat n
  match m.queue with
  | [] => s
  | e :: rest =>
    let o := e.first
    let replaced := m.replacedBy e
    if replaced.isEmpty then
      (s.modMat c n fun m => { m with queue := rest }).modCtxOf c e.ctx fun x => x.faultLater o.1 o.2 0x0B 0
    else
      let mine := rest.filter fun d => d.ctx == e.ctx
      let others := rest.filter fun d => d.ctx != e.ctx
      let back := (replaced ++ mine).map fun d => { d with inhibited := true }
      (s.modMat c n fun m => { m with queue := back ++ others }).modCtxOf c e.ctx fun x =>
        { x with late := x.late ++ [⟨o.1, o.2, 0x0C, 0, originSlots e.origins, e.origins⟩] }

/-- An uncorrectable error in a tile or weight buffer that the oldest running operation reads: the operation writes
nothing, and its context stops with UE_CONSUMED at its earliest origin (R262, R327). Log entry 77, DEDUCED. -/
def State.bufferError (s : State) (c n : Nat) : State :=
  match ((s.cell c).mat n).running with
  | [] => s
  | (e, _) :: rest =>
    (s.modMat c n fun m => { m with running := rest }).modCtxOf c e.ctx fun x => x.faultLater e.first.1 e.first.2 0x0B 0

end Sys2Proof.Machine
end

