-- ==== Sys2Proof/Machine/Lanes.lean ====
section
/-! DEFINITION. How V operations read and write lanes (R181-R189): clusters, masks, halves and sub-elements, the
empty-lane policies, and the landing of results. -/

namespace Sys2Proof.Machine
open Sys2Proof

/-- The clusters that a V slot acts on: Vn is slot 7 − n (R106); a broadcast V0 word acts on all (R181).
Log entry 94, DEDUCED. -/
def State.clusters (s : State) : List Nat := if s.focus.vb then List.range 8 else [7 - s.focus.slot]

/-- What an operation gives in one cluster. -/
structure VRes where
  stop : Bool
  val : BitVec 512
  emp : BitVec 16
  mask : BitVec 16
  flags : Flags
  deriving DecidableEq, Repr

def VRes.stops : VRes := ⟨true, 0, 0, 0, 0⟩
/-- Every lane 0 and empty. -/
def VRes.allEmpty : VRes := ⟨false, 0, 0xFFFF, 0xFFFF, 0⟩
/-- All lanes of a register, full. -/
def VRes.full (v : BitVec 512) (fl : Flags) : VRes := ⟨false, v, 0, 0xFFFF, fl⟩
/-- A register's lanes with their empty bits, under a mask. -/
def VRes.copy (v : VReg) (m : BitVec 16) : VRes := ⟨false, v.val, v.emp, m, 0⟩

/-- Lands the results of every cluster in a register, or stops the slot with INFO 16 (R189). -/
def State.vexec (s : State) (d : BitVec 5) (bound : Nat) (cls : List Nat) (f : Nat → VRes) : State :=
  let r := cls.map fun cl => (cl, f cl)
  if r.any fun e => e.2.stop then s.illegal 16
  else r.foldl (fun t e => t.land .vec e.1 d.toNat e.2.val e.2.emp e.2.mask e.2.flags.word bound false) s

/-- The same for a lane predicate: bit i of the result is bit 0 of lane i of `val`. -/
def qWord (v : BitVec 512) : BitVec 16 := bits16 fun i => v.getLsbD (32 * i)
def State.qexec (s : State) (q : BitVec 3) (bound : Nat) (cls : List Nat) (f : Nat → VRes) : State :=
  let r := cls.map fun cl => (cl, f cl)
  if r.any fun e => e.2.stop then s.illegal 16
  else r.foldl (fun t e =>
    t.land .lanePred e.1 q.toNat ((qWord e.2.val).setWidth 512) 0 0xFFFF e.2.flags.word bound false) s

/-! ## The policies of R189 -/

/-- POLICY and CONST of a cluster. -/
def State.policy (s : State) (cl : Nat) : Nat × W32 :=
  let w := s.seen.vcfg.get 0 cl
  (bitsAt w 0 2, w.extractLsb' 32 32)

/-- A register as the policy has it read: under REPLACE an empty lane holds CONST. -/
def underPolicy (v : VReg) (p : Nat × W32) : VReg :=
  if p.1 = 1 then ⟨lanes fun i => if v.emp.getLsbD i then p.2 else lane v.val i, 0⟩ else v

def State.vreg (s : State) (cl : Nat) (r : BitVec 5) : VReg := s.was.vr cl r.toNat
def State.mask (s : State) (cl : Nat) (q : BitVec 3) : BitVec 16 := s.was.qr cl q.toNat
/-- A source register under the policy of the cluster. -/
def State.vsrc (s : State) (cl : Nat) (r : BitVec 5) : VReg := underPolicy (s.vreg cl r) (s.policy cl)

/-- Results lane by lane under a mask, from the lanes that `e` marks empty: those are written 0 and empty, or stop the
slot. -/
def lanewise (pol : Nat) (m e : BitVec 16) (f : Nat → W32 × Flags) : VRes :=
  let bad := e &&& m
  if pol == 2 && bad != 0 then VRes.stops
  else
    let live := m &&& ~~~bad
    ⟨false, lanes fun i => if live.getLsbD i then (f i).1 else 0, bad, m,
      (List.range 16).foldl (fun fl i => if live.getLsbD i then fl ||| (f i).2 else fl) 0⟩

/-- Lanes of source registers at one index. -/
def State.lanesOp (s : State) (cl : Nat) (q : BitVec 3) (rs : List (BitVec 5)) (f : List W32 → W32 × Flags) : VRes :=
  let vs := rs.map fun r => s.vsrc cl r
  lanewise (s.policy cl).1 (s.mask cl q) (vs.foldl (fun e v => e ||| v.emp) 0) fun i => f (vs.map fun v => lane v.val i)

/-- An operation on a whole register of which it reads the lanes of `m`: an empty one acts on the whole result. -/
def State.wholeOp (s : State) (cl : Nat) (m : BitVec 16) (r : BitVec 5) (f : VReg → VRes) : VRes :=
  let v := s.vsrc cl r
  if (v.emp &&& m) != 0 then (if (s.policy cl).1 = 2 then VRes.stops else VRes.allEmpty) else f v

/-! ## Halves and sub-elements (R182) -/

def xAt (xs : List Nat) (i : Nat) : Nat := xs.getD i 0

/-- A floating-point operation on a lane, or on each of its halves. -/
def fparts (t : BitVec 2) (g : Fmt → List Nat → Nat × Flags) (xs : List W32) : W32 × Flags :=
  let ns := xs.map BitVec.toNat
  if t = 0 then
    let r := g fp32 ns
    (BitVec.ofNat 32 r.1, r.2)
  else
    let f := if t = 1 then bf16 else fp16
    let lo := g f (ns.map (· % 65536))
    let hi := g f (ns.map (· / 65536))
    (BitVec.ofNat 32 (lo.1 % 65536 + hi.1 % 65536 * 65536), lo.2 ||| hi.2)

/-- Width and count of the sub-elements of an integer lane. -/
def subWidth (t : BitVec 2) : Nat := if t = 0 then 32 else if t = 1 then 16 else 8

/-- An integer operation on each sub-element: of width w, its result taken in w bits. -/
def iparts (t : BitVec 2) (g : Nat → List Nat → Nat) (xs : List W32) : W32 × Flags :=
  let w := subWidth t
  let ns := xs.map BitVec.toNat
  (BitVec.ofNat 32 ((List.range (32 / w)).foldl (fun r j =>
    r + g w (ns.map fun n => n / 2 ^ (w * j) % 2 ^ w) % 2 ^ w * 2 ^ (w * j)) 0), 0)

/-- A w-bit number taken signed. -/
def signedOf (w n : Nat) : Int := if n % 2 ^ w < 2 ^ (w - 1) then (n % 2 ^ w : Nat) else (n % 2 ^ w : Nat) - (2 ^ w : Nat)
def saturateTo (w : Nat) (i : Int) : Nat :=
  wrapTo w (max (-(2 ^ (w - 1) : Nat)) (min ((2 ^ (w - 1) : Nat) - 1) i))

end Sys2Proof.Machine
end

