-- ==== Sys2Proof/Machine/Vector.lean ====
section
/-! DEFINITION. The V class but for conversions: floating-point, integer, compare, move, reduction and lane-predicate
operations (R190-R198, R205-R220). -/

namespace Sys2Proof.Machine
open Sys2Proof

/-! ## Floating-point lanes (R190-R194) -/

/-- Rounds an exact result into a format, with the flags of the operation. -/
def finish (f : Fmt) (c : FpCtl) (v : FVal × Flags) : Nat × Flags :=
  let r := f.round c v.1
  (r.1, r.2 ||| v.2)

/-- A lane operation on floating-point values. -/
def State.flop (s : State) (d : BitVec 5) (rs : List (BitVec 5)) (q : BitVec 3) (t : BitVec 2)
    (g : FpCtl → Fmt → List Nat → Nat × Flags) : State :=
  s.vexec d 4 s.clusters fun cl => s.lanesOp cl q rs (fparts t (g s.fpc))

def opAdd (c : FpCtl) (f : Fmt) (xs : List Nat) : Nat × Flags :=
  finish f c ((f.operand c (xAt xs 0)).add c.rm (f.operand c (xAt xs 1)))
def opSub (c : FpCtl) (f : Fmt) (xs : List Nat) : Nat × Flags :=
  finish f c ((f.operand c (xAt xs 0)).add c.rm (f.operand c (xAt xs 1)).neg)
def opMulF (c : FpCtl) (f : Fmt) (xs : List Nat) : Nat × Flags :=
  finish f c ((f.operand c (xAt xs 0)).mul (f.operand c (xAt xs 1)))
def opMinMax (mx : Bool) (c : FpCtl) (f : Fmt) (xs : List Nat) : Nat × Flags :=
  finish f c ((f.operand c (xAt xs 0)).minmax mx (f.operand c (xAt xs 1)))
/-- a × b ± d, negated or not (R191). -/
def opFma (sub negate : Bool) (c : FpCtl) (f : Fmt) (xs : List Nat) : Nat × Flags :=
  let d := f.operand c (xAt xs 2)
  let r := FVal.fma c.rm (f.operand c (xAt xs 0)) (f.operand c (xAt xs 1)) (if sub then d.neg else d)
  finish f c (if negate then r.1.neg else r.1, r.2)

def execFadd (d a b : BitVec 5) (q : BitVec 3) (t : BitVec 2) (s : State) : Out := .next (s.flop d [a, b] q t opAdd)
def execFsub (d a b : BitVec 5) (q : BitVec 3) (t : BitVec 2) (s : State) : Out := .next (s.flop d [a, b] q t opSub)
def execFmul (d a b : BitVec 5) (q : BitVec 3) (t : BitVec 2) (s : State) : Out := .next (s.flop d [a, b] q t opMulF)
def execFma (d a b : BitVec 5) (q : BitVec 3) (t : BitVec 2) (s : State) : Out :=
  .next (s.flop d [a, b, d] q t (opFma false false))
def execFms (d a b : BitVec 5) (q : BitVec 3) (t : BitVec 2) (s : State) : Out :=
  .next (s.flop d [a, b, d] q t (opFma true false))
def execFnma (d a b : BitVec 5) (q : BitVec 3) (t : BitVec 2) (s : State) : Out :=
  .next (s.flop d [a, b, d] q t (opFma false true))
def execFnms (d a b : BitVec 5) (q : BitVec 3) (t : BitVec 2) (s : State) : Out :=
  .next (s.flop d [a, b, d] q t (opFma true true))
def execFmin (d a b : BitVec 5) (q : BitVec 3) (t : BitVec 2) (s : State) : Out :=
  .next (s.flop d [a, b] q t (opMinMax false))
def execFmax (d a b : BitVec 5) (q : BitVec 3) (t : BitVec 2) (s : State) : Out :=
  .next (s.flop d [a, b] q t (opMinMax true))

/-- FABS and FNEG (R192). -/
def opSign (abs : Bool) (c : FpCtl) (f : Fmt) (xs : List Nat) : Nat × Flags :=
  match f.operand c (xAt xs 0) with
  | .nan _ => (f.nan, 0)
  | v => finish f .exact (if abs && !v.isNeg then v else v.neg, 0)
def execFabs (d a : BitVec 5) (q : BitVec 3) (t : BitVec 2) (s : State) : Out := .next (s.flop d [a] q t (opSign true))
def execFneg (d a : BitVec 5) (q : BitVec 3) (t : BitVec 2) (s : State) : Out := .next (s.flop d [a] q t (opSign false))

/-- FRND (R193). -/
def opRound (c : FpCtl) (f : Fmt) (xs : List Nat) : Nat × Flags :=
  match f.operand c (xAt xs 0) with
  | .nan g => (f.nan, if g then fNV else 0)
  | .inf n => (f.signed n (f.inf.getD f.maxc), 0)
  | .fin n m e =>
    let r := roundAt c.rm n m e 0
    ((f.round .exact (.fin n r.1 0)).1, if r.2 then fNX else 0)
def execFrnd (d a : BitVec 5) (q : BitVec 3) (t : BitVec 2) (s : State) : Out := .next (s.flop d [a] q t opRound)

/-- FCLASS reads the raw encoding (R194). -/
def opClass (_ : FpCtl) (f : Fmt) (xs : List Nat) : Nat × Flags :=
  let x := xAt xs 0
  let bit := match f.value x with
    | .nan g => if g then 8 else 9
    | .inf n => if n then 0 else 7
    | .fin n m _ =>
      if m = 0 then (if n then 3 else 4)
      else if f.subnormal x then (if n then 2 else 5)
      else if n then 1 else 6
  (2 ^ bit, 0)
def execFclass (d a : BitVec 5) (q : BitVec 3) (t : BitVec 2) (s : State) : Out := .next (s.flop d [a] q t opClass)

/-! ## Floating-point compares (R195) -/

inductive CmpKind where
  | eq | ne | lt | le | un
  deriving DecidableEq, Repr

def CmpKind.holds (k : CmpKind) (x y : FVal) : Bool :=
  let un := x.isNaN || y.isNaN
  match k with
  | .eq => !un && x.cmp y == .eq
  | .ne => un || x.cmp y != .eq
  | .lt => !un && x.cmp y == .lt
  | .le => !un && x.cmp y != .gt
  | .un => un
def CmpKind.flags (k : CmpKind) (x y : FVal) : Flags :=
  let nv := match k with
    | .lt => x.isNaN || y.isNaN
    | .le => x.isNaN || y.isNaN
    | _ => x.isSig || y.isSig
  if nv then fNV else 0

def bitWord (b : Bool) : W32 := if b then 1 else 0

/-- Compares va and vb into a lane predicate: halves 0 alone for pair types, bits outside the mask 0. -/
def State.fcmp (s : State) (k : CmpKind) (a b : BitVec 5) (n q : BitVec 3) (t : BitVec 2) : State :=
  let c := s.fpc
  let f := if t = 0 then fp32 else if t = 1 then bf16 else fp16
  s.qexec n 4 s.clusters fun cl => s.lanesOp cl q [a, b] fun xs =>
    let ns := xs.map fun x => if t = 0 then x.toNat else x.toNat % 65536
    let x := f.operand c (xAt ns 0)
    let y := f.operand c (xAt ns 1)
    (bitWord (k.holds x y), k.flags x y)

def execFcmpeq (d a : BitVec 5) (n q : BitVec 3) (t : BitVec 2) (s : State) : Out := .next (s.fcmp .eq d a n q t)
def execFcmpne (d a : BitVec 5) (n q : BitVec 3) (t : BitVec 2) (s : State) : Out := .next (s.fcmp .ne d a n q t)
def execFcmplt (d a : BitVec 5) (n q : BitVec 3) (t : BitVec 2) (s : State) : Out := .next (s.fcmp .lt d a n q t)
def execFcmple (d a : BitVec 5) (n q : BitVec 3) (t : BitVec 2) (s : State) : Out := .next (s.fcmp .le d a n q t)
def execFcmpun (d a : BitVec 5) (n q : BitVec 3) (t : BitVec 2) (s : State) : Out := .next (s.fcmp .un d a n q t)

/-! ## Integer lanes (R196-R198) -/

def State.ilop (s : State) (d : BitVec 5) (rs : List (BitVec 5)) (q : BitVec 3) (t : BitVec 2) (g : Nat → List Nat → Nat) :
    State :=
  s.vexec d 4 s.clusters fun cl => s.lanesOp cl q rs (iparts t g)

/-- A carry-less product. -/
def clProduct (w x y : Nat) : Nat :=
  (List.range w).foldl (fun r k => if y.testBit k then Nat.xor r (x * 2 ^ k) else r) 0
def popCount (w x : Nat) : Nat := ((List.range w).filter fun k => x.testBit k).length
def leadingZeros (w x : Nat) : Nat := if x = 0 then w else w - 1 - Nat.log2 x

def ix (w : Nat) (xs : List Nat) (i : Nat) : Int := signedOf w (xAt xs i)

def execIadd (d a b : BitVec 5) (q : BitVec 3) (t : BitVec 2) (s : State) : Out :=
  .next (s.ilop d [a, b] q t fun _ xs => xAt xs 0 + xAt xs 1)
def execIsub (d a b : BitVec 5) (q : BitVec 3) (t : BitVec 2) (s : State) : Out :=
  .next (s.ilop d [a, b] q t fun w xs => wrapTo w ((xAt xs 0 : Int) - xAt xs 1))
def execImul (d a b : BitVec 5) (q : BitVec 3) (t : BitVec 2) (s : State) : Out :=
  .next (s.ilop d [a, b] q t fun _ xs => xAt xs 0 * xAt xs 1)
def execImulh (d a b : BitVec 5) (q : BitVec 3) (t : BitVec 2) (s : State) : Out :=
  .next (s.ilop d [a, b] q t fun w xs => wrapTo w (ix w xs 0 * ix w xs 1 / (2 ^ w : Nat)))
def execImad (d a b : BitVec 5) (q : BitVec 3) (t : BitVec 2) (s : State) : Out :=
  .next (s.ilop d [a, b, d] q t fun _ xs => xAt xs 0 * xAt xs 1 + xAt xs 2)
def execImin (d a b : BitVec 5) (q : BitVec 3) (t : BitVec 2) (s : State) : Out :=
  .next (s.ilop d [a, b] q t fun w xs => if ix w xs 0 < ix w xs 1 then xAt xs 0 else xAt xs 1)
def execImax (d a b : BitVec 5) (q : BitVec 3) (t : BitVec 2) (s : State) : Out :=
  .next (s.ilop d [a, b] q t fun w xs => if ix w xs 0 < ix w xs 1 then xAt xs 1 else xAt xs 0)
def execIminu (d a b : BitVec 5) (q : BitVec 3) (t : BitVec 2) (s : State) : Out :=
  .next (s.ilop d [a, b] q t fun _ xs => min (xAt xs 0) (xAt xs 1))
def execImaxu (d a b : BitVec 5) (q : BitVec 3) (t : BitVec 2) (s : State) : Out :=
  .next (s.ilop d [a, b] q t fun _ xs => max (xAt xs 0) (xAt xs 1))
def execIand (d a b : BitVec 5) (q : BitVec 3) (t : BitVec 2) (s : State) : Out :=
  .next (s.ilop d [a, b] q t fun _ xs => Nat.land (xAt xs 0) (xAt xs 1))
def execIor (d a b : BitVec 5) (q : BitVec 3) (t : BitVec 2) (s : State) : Out :=
  .next (s.ilop d [a, b] q t fun _ xs => Nat.lor (xAt xs 0) (xAt xs 1))
def execIxor (d a b : BitVec 5) (q : BitVec 3) (t : BitVec 2) (s : State) : Out :=
  .next (s.ilop d [a, b] q t fun _ xs => Nat.xor (xAt xs 0) (xAt xs 1))
def execIshl (d a b : BitVec 5) (q : BitVec 3) (t : BitVec 2) (s : State) : Out :=
  .next (s.ilop d [a, b] q t fun w xs => xAt xs 0 * 2 ^ (xAt xs 1 % w))
def execIshrl (d a b : BitVec 5) (q : BitVec 3) (t : BitVec 2) (s : State) : Out :=
  .next (s.ilop d [a, b] q t fun w xs => xAt xs 0 / 2 ^ (xAt xs 1 % w))
def execIshra (d a b : BitVec 5) (q : BitVec 3) (t : BitVec 2) (s : State) : Out :=
  .next (s.ilop d [a, b] q t fun w xs => wrapTo w (ix w xs 0 / (2 ^ (xAt xs 1 % w) : Nat)))
def execIabs (d a : BitVec 5) (q : BitVec 3) (t : BitVec 2) (s : State) : Out :=
  .next (s.ilop d [a] q t fun w xs => (ix w xs 0).natAbs)
def execIpopc (d a : BitVec 5) (q : BitVec 3) (t : BitVec 2) (s : State) : Out :=
  .next (s.ilop d [a] q t fun w xs => popCount w (xAt xs 0))
def execIclz (d a : BitVec 5) (q : BitVec 3) (t : BitVec 2) (s : State) : Out :=
  .next (s.ilop d [a] q t fun w xs => leadingZeros w (xAt xs 0))
def execIadds (d a b : BitVec 5) (q : BitVec 3) (t : BitVec 2) (s : State) : Out :=
  .next (s.ilop d [a, b] q t fun w xs => saturateTo w (ix w xs 0 + ix w xs 1))
def execIsubs (d a b : BitVec 5) (q : BitVec 3) (t : BitVec 2) (s : State) : Out :=
  .next (s.ilop d [a, b] q t fun w xs => saturateTo w (ix w xs 0 - ix w xs 1))
def execClmul (d a b : BitVec 5) (q : BitVec 3) (t : BitVec 2) (s : State) : Out :=
  .next (s.ilop d [a, b] q t fun w xs => clProduct w (xAt xs 0) (xAt xs 1))

/-- Compares sub-elements 0 (R198). -/
def State.icmp (s : State) (a b : BitVec 5) (n q : BitVec 3) (t : BitVec 2) (g : Nat → List Nat → Bool) : State :=
  let w := subWidth t
  s.qexec n 4 s.clusters fun cl => s.lanesOp cl q [a, b] fun xs =>
    (bitWord (g w (xs.map fun x => x.toNat % 2 ^ w)), 0)
def execIcmpeq (d a : BitVec 5) (n q : BitVec 3) (t : BitVec 2) (s : State) : Out :=
  .next (s.icmp d a n q t fun _ xs => xAt xs 0 == xAt xs 1)
def execIcmplt (d a : BitVec 5) (n q : BitVec 3) (t : BitVec 2) (s : State) : Out :=
  .next (s.icmp d a n q t fun w xs => decide (ix w xs 0 < ix w xs 1))
def execIcmpltu (d a : BitVec 5) (n q : BitVec 3) (t : BitVec 2) (s : State) : Out :=
  .next (s.icmp d a n q t fun _ xs => decide (xAt xs 0 < xAt xs 1))

/-! ## Moves (R205-R211) -/

def execVnop (s : State) : Out := .next s
def execMov (d a : BitVec 5) (q : BitVec 3) (s : State) : Out :=
  .next (s.vexec d 4 s.clusters fun cl => .copy (s.vreg cl a) (s.mask cl q))
def execMovi (d : BitVec 5) (i : BitVec 10) (s : State) : Out :=
  .next (s.vexec d 4 s.clusters fun _ => .full (lanes fun _ => i.signExtend 32) 0)
def execMovs (d : BitVec 5) (r : BitVec 6) (s : State) : Out :=
  .next (s.vexec d 4 s.clusters fun _ => .full (lanes fun _ => (s.rs r).setWidth 32) 0)

/-- `MVLS`: an exposed scalar result with bound 3 (R206). -/
def State.mvlsOf (s : State) (r : BitVec 6) (v : W64) : State :=
  if r = 0 then s else s.land .scalar 0 r.toNat (v.setWidth 512) 0 1 0 3 false
def execMvls (a : BitVec 5) (r : BitVec 6) (l : BitVec 4) (s : State) : Out :=
  .next (
    let bad := s.clusters.any fun cl => (s.policy cl).1 == 2 && (s.vreg cl a).emp.getLsbD l.toNat
    if bad then s.illegal 16
    else s.clusters.foldl (fun t cl => t.mvlsOf r ((lane (s.vsrc cl a).val l.toNat).setWidth 64)) s)

/-- Lanes chosen from registers with their empty bits. -/
def pickLanes (f : Nat → W32 × Bool) (m : BitVec 16) : VRes :=
  ⟨false, lanes fun i => (f i).1, bits16 fun i => (f i).2, m, 0⟩
def laneAt (v : VReg) (i : Nat) : W32 × Bool := (lane v.val i, v.emp.getLsbD i)

def execSel (d a b : BitVec 5) (q : BitVec 3) (_t : BitVec 2) (s : State) : Out :=
  .next (s.vexec d 4 s.clusters fun cl =>
    pickLanes (fun i => if (s.mask cl q).getLsbD i then laneAt (s.vreg cl a) i else laneAt (s.vreg cl b) i) 0xFFFF)

/-- `XCL` fills holes with CONST whatever the policy (R208). -/
def execXcl (d a : BitVec 5) (q : BitVec 3) (_t : BitVec 2) (s : State) : Out :=
  .next (s.vexec d 3 s.clusters fun cl =>
    pickLanes (fun i => if (s.vreg cl a).emp.getLsbD i then ((s.policy cl).2, false) else (lane (s.vreg cl a).val i, false))
      (s.mask cl q))

/-- `PERM`: only the index lane is read under the policy (R209). -/
def execPerm (d a b : BitVec 5) (q : BitVec 3) (_t : BitVec 2) (s : State) : Out :=
  .next (s.vexec d 3 s.clusters fun cl =>
    let x := s.vsrc cl b
    let v := s.vreg cl a
    let m := s.mask cl q
    if (s.policy cl).1 == 2 && (x.emp &&& m) != 0 then VRes.stops
    else pickLanes (fun i =>
      if x.emp.getLsbD i then (0, true)
      else if (lane x.val i).getLsbD 31 then (0, false)
      else laneAt v ((lane x.val i).toNat % 16)) m)

/-- The lanes that a selector picks, in order. -/
def selected (m : BitVec 16) : List Nat := (List.range 16).filter fun i => m.getLsbD i

/-- `COMPRESS`: vd and qN land together (R210). -/
def execCompress (d a : BitVec 5) (n q : BitVec 3) (_t : BitVec 2) (s : State) : Out :=
  .next (
    let t := s.vexec d 4 s.clusters fun cl =>
      pickLanes (fun i => match (selected (s.mask cl q))[i]? with
        | some j => laneAt (s.vreg cl a) j
        | none => (0, false)) 0xFFFF
    s.clusters.foldl (fun t cl =>
      t.land .lanePred cl n.toNat (BitVec.ofNat 512 (2 ^ (selected (s.mask cl q)).length - 1)) 0 0xFFFF 0 4 false) t)

/-- `EXPAND` (R211). -/
def execExpand (d a : BitVec 5) (q : BitVec 3) (_t : BitVec 2) (s : State) : Out :=
  .next (s.vexec d 4 s.clusters fun cl =>
    let m := s.mask cl q
    pickLanes (fun i => if m.getLsbD i then laneAt (s.vreg cl a) ((List.range i).filter fun j => m.getLsbD j).length
      else (0, false)) 0xFFFF)

/-! ## Reductions (R64, R65, R212, R213) -/

/-- One level of the pairwise tree. -/
def pairUp (g : Nat → Nat → Nat × Flags) : List Nat → List Nat × Flags
  | x :: y :: t =>
    let r := g x y
    let u := pairUp g t
    (r.1 :: u.1, r.2 ||| u.2)
  | l => (l, 0)
/-- The tree of R64 over 16 values. -/
def treeOf (g : Nat → Nat → Nat × Flags) (l : List Nat) : Nat × Flags :=
  let r := (List.range 4).foldl (fun (p : List Nat × Flags) _ =>
    let u := pairUp g p.1
    (u.1, p.2 ||| u.2)) (l, 0)
  (xAt r.1 0, r.2)

/-- The Hillis–Steele sums of R65. -/
def scanOf (g : Nat → Nat → Nat × Flags) (l : List Nat) : List Nat × Flags :=
  [1, 2, 4, 8].foldl (fun (p : List Nat × Flags) d =>
    let r := (List.range 16).map fun i => if i < d then (xAt p.1 i, (0 : Flags)) else g (xAt p.1 (i - d)) (xAt p.1 i)
    (r.map Prod.fst, r.foldl (fun fl e => fl ||| e.2) p.2)) (l, 0)

/-- A prefix of one lane: its operand under FTZ, a NaN as the canonical one (R55, R56). -/
def loneLane (c : FpCtl) (f : Fmt) (x : Nat) : Nat := (f.round .exact (f.operand c x)).1

/-- The inputs of a reduction at one half position: excluded lanes hold `dflt`. -/
def reduceIn (t : BitVec 2) (h : Nat) (m : BitVec 16) (v : BitVec 512) (dflt : Nat) : List Nat :=
  (List.range 16).map fun i =>
    if m.getLsbD i then (if t = 0 then (lane v i).toNat else (lane v i).toNat / 65536 ^ h % 65536) else dflt
def typeFmt (t : BitVec 2) : Fmt := if t = 0 then fp32 else if t = 1 then bf16 else fp16

/-- `RSUM`, `RMAX`, `RMIN`: the tree over each half position, its result in every lane. -/
def State.reduceLanes (s : State) (d a : BitVec 5) (q : BitVec 3) (t : BitVec 2) (dflt : Fmt → Nat)
    (g : FpCtl → Fmt → List Nat → Nat × Flags) : State :=
  let f := typeFmt t
  let op (x y : Nat) : Nat × Flags := g s.fpc f [x, y]
  s.vexec d 6 s.clusters fun cl => s.wholeOp cl (s.mask cl q) a fun v =>
    let one (h : Nat) := treeOf op (reduceIn t h (s.mask cl q) v.val (dflt f))
    if t = 0 then .full (lanes fun _ => BitVec.ofNat 32 (one 0).1) (one 0).2
    else .full (lanes fun _ => BitVec.ofNat 32 ((one 0).1 + (one 1).1 * 65536)) ((one 0).2 ||| (one 1).2)

def execRsum (d a : BitVec 5) (q : BitVec 3) (t : BitVec 2) (s : State) : Out :=
  .next (s.reduceLanes d a q t (fun f => f.signed true 0) opAdd)
def execRmax (d a : BitVec 5) (q : BitVec 3) (t : BitVec 2) (s : State) : Out :=
  .next (s.reduceLanes d a q t (fun f => f.signed true (f.inf.getD 0)) (opMinMax true))
def execRmin (d a : BitVec 5) (q : BitVec 3) (t : BitVec 2) (s : State) : Out :=
  .next (s.reduceLanes d a q t (fun f => f.signed false (f.inf.getD 0)) (opMinMax false))

def execScan (d a : BitVec 5) (q : BitVec 3) (t : BitVec 2) (s : State) : Out :=
  .next (
    let f := typeFmt t
    let op (x y : Nat) : Nat × Flags := opAdd s.fpc f [x, y]
    s.vexec d 8 s.clusters fun cl => s.wholeOp cl (s.mask cl q) a fun v =>
      let sums (h : Nat) := scanOf op (reduceIn t h (s.mask cl q) v.val (f.signed true 0))
      let one (h : Nat) := ((sums h).1.set 0 (loneLane s.fpc f (xAt (sums h).1 0)), (sums h).2)
      if t = 0 then .full (lanes fun i => BitVec.ofNat 32 (xAt (one 0).1 i)) (one 0).2
      else .full (lanes fun i => BitVec.ofNat 32 (xAt (one 0).1 i + xAt (one 1).1 i * 65536)) ((one 0).2 ||| (one 1).2))

/-! ## Across clusters (R214-R216) -/

def execXcopy (d a : BitVec 5) (c : BitVec 3) (s : State) : Out :=
  .next (s.vexec d 6 s.clusters fun _ => .copy (s.vreg c.toNat a) 0xFFFF)
def execXbcast (d a : BitVec 5) (c : BitVec 3) (s : State) : Out :=
  .next (s.vexec d 8 s.clusters fun cl => pickLanes (fun _ => laneAt (s.vreg c.toNat a) cl) 0xFFFF)
def execLbcast (d a : BitVec 5) (l : BitVec 4) (s : State) : Out :=
  .next (s.vexec d 3 s.clusters fun cl => pickLanes (fun _ => laneAt (s.vreg cl a) l.toNat) 0xFFFF)

/-! ## Lane predicates and `VCFGW` (R217-R220) -/

def State.qlogic (s : State) (d : BitVec 3) (f : Nat → BitVec 16) : State :=
  s.clusters.foldl (fun t cl => t.land .lanePred cl d.toNat ((f cl).setWidth 512) 0 0xFFFF 0 2 false) s
def execQand (d a b : BitVec 3) (s : State) : Out := .next (s.qlogic d fun cl => s.mask cl a &&& s.mask cl b)
def execQor (d a b : BitVec 3) (s : State) : Out := .next (s.qlogic d fun cl => s.mask cl a ||| s.mask cl b)
def execQxor (d a b : BitVec 3) (s : State) : Out := .next (s.qlogic d fun cl => s.mask cl a ^^^ s.mask cl b)
def execQandn (d a b : BitVec 3) (s : State) : Out := .next (s.qlogic d fun cl => s.mask cl a &&& ~~~(s.mask cl b))
def execQset (d : BitVec 3) (a : BitVec 5) (_t : BitVec 2) (s : State) : Out :=
  .next (s.qexec d 2 s.clusters fun cl => s.lanesOp cl 0 [a] fun xs => (bitWord (xs.headD 0 != 0), 0))
def execQpop (d : BitVec 5) (a : BitVec 3) (s : State) : Out :=
  .next (s.vexec d 2 s.clusters fun cl => .full (lanes fun _ => BitVec.ofNat 32 (popCount 16 (s.mask cl a).toNat)) 0)
/-- `VCFGW`: the cell's `VCFGn` from lanes 1 and 0, in force from the second cycle after issue. Log entry 88, DEDUCED. -/
def execVcfgw (a : BitVec 5) (s : State) : Out :=
  .next (s.modHere fun k => { k with
    vland := k.vland ++ s.clusters.map fun cl => (s.now + 2, cl, (s.vreg cl a).val.setWidth 64) })

end Sys2Proof.Machine
end

