-- ==== Sys2Proof/Machine/Convert.lean ====
section
/-! DEFINITION. Conversions of the V class: `CVT` (R199, R200), `PACKB` and `UNPKB` (R58, R59, R201, R202), `CVTAX` and
`CVTXA` (R67, R69, R203, R204). -/

namespace Sys2Proof.Machine
open Sys2Proof

/-! ## CVT -/

/-- Puts an `n`-bit field in place of field `j` of a lane. -/
def putField (n j old v : Nat) : Nat := old - old / 2 ^ (n * j) % 2 ^ n * 2 ^ (n * j) + v % 2 ^ n * 2 ^ (n * j)
def getField (n j x : Nat) : Nat := x / 2 ^ (n * j) % 2 ^ n

/-- FP32 to INT32 or INT8, as a number of `w` bits. -/
def toIntField (w : Nat) (rm : RMode) (v : FVal) : Nat × Flags :=
  let r := v.toSigned rm w
  (wrapTo w r.1, r.2)

/-- A code of `CVT` on one lane: x is va, old is vd. -/
def cvtLane (c : FpCtl) (code x old : Nat) : Nat × Flags :=
  let v := fp32.operand c x
  let put (n j : Nat) (r : Nat × Flags) : Nat × Flags := (putField n j old r.1, r.2)
  if code = 0 then toIntField 32 c.rm v
  else if code = 1 then toIntField 32 .rtz v
  else if code = 2 then fp32.round c (ofInt (signedOf 32 x))
  else if code = 3 then fp32.round c (ofInt x)
  else if code ≤ 5 then put 16 (code - 4) (bf16.narrow16 c v)
  else if code ≤ 7 then put 16 (code - 6) (fp16.narrow16 c v)
  else if code ≤ 0x0B then
    let f := if code ≤ 9 then bf16 else fp16
    let u := f.operand c (getField 16 (code % 2) x)
    ((fp32.round .exact u).1, if u.isSig then fNV else 0)
  else if code ≤ 0x0F then put 8 (code % 4) (e4m3.narrow c v)
  else if code ≤ 0x13 then put 8 (code % 4) (e5m2.narrow c v)
  else if code ≤ 0x17 then ((fp32.round .exact (e4m3.value (getField 8 (code % 4) x))).1, 0)
  else if code ≤ 0x1B then
    let u := e5m2.value (getField 8 (code % 4) x)
    ((fp32.round .exact u).1, if u.isSig then fNV else 0)
  else put 8 (code % 4) (toIntField 8 c.rm v)

/-- Codes that keep part of vd. -/
def cvtKeeps (code : Nat) : Bool := keepsOld code

def execCvt (d a k : BitVec 5) (q : BitVec 3) (s : State) : Out :=
  .next (
    let c := s.fpc
    s.vexec d 4 s.clusters fun cl =>
      s.lanesOp cl q (if cvtKeeps k.toNat then [a, d] else [a]) fun xs =>
        let r := cvtLane c k.toNat (xs.headD 0).toNat (xs.getD 1 0).toNat
        (BitVec.ofNat 32 r.1, r.2))

/-! ## Block-scaled formats -/

/-- The element format of a block-scaled code and its largest magnitude (R58). -/
def blockFmt (f : Nat) : Fmt × Dyadic :=
  match f with
  | 6 => (e2m3, (15, -1))
  | 7 => (e3m2, (28, 0))
  | _ => (e2m1, (6, 0))

/-- The block scale of R58 for inputs without a NaN. -/
def chooseScale (emax : Dyadic) (vs : List FVal) : Nat :=
  let amax := (vs.filterMap fun v => v.dyadic.map dAbs).foldl (fun m x => if dLt m x then x else m) (0, 0)
  if amax.1 = 0 then 0
  else
    let codes := (List.range 254).map (· + 1)
    (codes.find? fun k => !dLt (dMul ((scaleValue k).1, (scaleValue k).2) emax) amax).getD 0xFE

/-- One element under a scale code. -/
def packElem (c : FpCtl) (f : Fmt) (k : Nat) (v : FVal) : Nat × Flags :=
  match v with
  | .nan _ => (0, 0)
  | .inf n => (f.signed n (if k = 0 then 0 else f.maxc), fOF ||| fNX)
  | .fin n m e =>
    if k = 0 then (f.signed n 0, 0)
    else if m = 0 then (f.signed n 0, 0)
    else
      let x := quotient m e (scaleValue k).1 (scaleValue k).2
      f.narrow c (.fin n x.1 x.2)

/-- A block of 8 values: element codes, scale code and flags (R58, R59). Log entry 34, DEDUCED. -/
def packBlock (c : FpCtl) (code : Nat) (vs : List FVal) : List Nat × Nat × Flags :=
  let f := (blockFmt code).1
  if vs.any FVal.isNaN then (List.replicate 8 0, 0xFF, fNV)
  else
    let k := chooseScale (blockFmt code).2 vs
    let es := vs.map (packElem c f k)
    (es.map Prod.fst, k, es.foldl (fun fl e => fl ||| e.2) 0)

/-- Codes packed at `b` bits each, the first lowest (R49). -/
def packBits (b : Nat) : List Nat → Nat
  | [] => 0
  | x :: t => x % 2 ^ b + 2 ^ b * packBits b t

/-- The lane that holds the scales (R201). -/
def scaleLane (code : Nat) : Nat := if code = 8 then 2 else 3

def execPackb (d a f : BitVec 5) (q : BitVec 3) (s : State) : Out :=
  .next (
    let c := s.fpc
    let code := f.toNat
    let b := fmtBits code
    s.vexec d 6 s.clusters fun cl => s.wholeOp cl (s.mask cl q) a fun v =>
      let m := s.mask cl q
      let xs := (List.range 16).map fun i => if m.getLsbD i then fp32.operand c (lane v.val i).toNat else .fin false 0 0
      let b0 := packBlock c code (xs.take 8)
      let b1 := packBlock c code (xs.drop 8)
      .full (BitVec.ofNat 512 (packBits b (b0.1 ++ b1.1) + (b0.2.1 + b1.2.1 * 256) * 2 ^ (32 * scaleLane code)))
        (b0.2.2 ||| b1.2.2))

/-- Element `i` of the layout of R201 times its block scale, as FP32. -/
def unpackElem (code : Nat) (v : BitVec 512) (i : Nat) : Nat :=
  let b := fmtBits code
  let x := v.toNat / 2 ^ (b * i) % 2 ^ b
  let k := v.toNat / 2 ^ (32 * scaleLane code + 8 * (i / 8)) % 256
  if k = 0xFF then fp32.nan
  else match (blockFmt code).1.value x with
    | .fin n m e => (fp32.round .exact (.fin n (m * (scaleValue k).1) (e + (scaleValue k).2))).1
    | _ => fp32.nan

def execUnpkb (d a f : BitVec 5) (q : BitVec 3) (s : State) : Out :=
  .next (s.vexec d 6 s.clusters fun cl =>
    s.wholeOp cl (BitVec.ofNat 16 (2 ^ (scaleLane f.toNat + 1) - 1)) a fun v =>
      ⟨false, lanes fun i => BitVec.ofNat 32 (unpackElem f.toNat v.val i), 0, s.mask cl q, 0⟩)

/-! ## AX64 -/

/-- The exponent in a lane of vb. -/
def laneExp (v : BitVec 512) (k : Nat) : Int := signedOf 16 ((lane v k).toNat % 65536)
/-- H: bit 16 of lane 0 of vb. -/
def halfOf (v : BitVec 512) : Nat := ((lane v 0).getLsbD 16).toNat

def execCvtax (d a b : BitVec 5) (q : BitVec 3) (s : State) : Out :=
  .next (s.vexec d 4 s.clusters fun cl =>
    let va := s.vsrc cl a
    let vb := s.vsrc cl b
    let h := halfOf vb.val
    let e := bits16 fun k => va.emp.getLsbD (8 * h + k / 2) || vb.emp.getLsbD k || vb.emp.getLsbD 0
    lanewise (s.policy cl).1 (s.mask cl q) e fun k =>
      let r := toAx (laneExp vb.val k) (fp32.value (lane va.val (8 * h + k / 2)).toNat)
      let w := wrapTo 64 r.1
      (BitVec.ofNat 32 (if k % 2 = 0 then w else w / 2 ^ 32), r.2))

/-- Log entry 35, DEDUCED. -/
def execCvtxa (d a b : BitVec 5) (q : BitVec 3) (s : State) : Out :=
  .next (s.vexec d 4 s.clusters fun cl =>
    let va := s.vsrc cl a
    let vb := s.vsrc cl b
    let h := halfOf vb.val
    let m := s.mask cl q
    let out := m &&& (if h = 0 then 0x00FF#16 else 0xFF00#16)
    let e := bits16 fun k =>
      vb.emp.getLsbD 0 || vb.emp.getLsbD k || va.emp.getLsbD (2 * (k % 8)) || va.emp.getLsbD (2 * (k % 8) + 1)
    if (s.policy cl).1 == 2 && vb.emp.getLsbD 0 && m != 0 then VRes.stops
    else lanewise (s.policy cl).1 out e fun k =>
      let j := k % 8
      let x := (lane va.val (2 * j)).toNat + (lane va.val (2 * j + 1)).toNat * 2 ^ 32
      let r := ofAx (laneExp vb.val k) (signedOf 64 x)
      (BitVec.ofNat 32 r.1, r.2))

end Sys2Proof.Machine
end

