-- ==== Sys2Proof/Machine/Crypto.lean ====
section
/-! DEFINITION. The algorithms that the spec names and that are fixed elsewhere: CRC-32 (R383), SHA3-512 (R400, R410), and
AES-256 with its key wrap (R408) and its Galois/Counter mode (R409). Log entry 111, PRESUMED. -/

namespace Sys2Proof.Machine
open Sys2Proof

/-! ## CRC-32 (R383) -/

/-- One bit of the CRC-32 with the reflected polynomial 0xEDB88320. Log entry 111, PRESUMED. -/
def crc32Bit (r : BitVec 32) : BitVec 32 := if r.getLsbD 0 then (r >>> 1) ^^^ 0xEDB88320#32 else r >>> 1
def crc32Byte (r : BitVec 32) (b : Byte) : BitVec 32 := (List.range 8).foldl (fun r _ => crc32Bit r) (r ^^^ b.setWidth 32)
/-- The CRC-32 of a string: initial value and final exclusive-or of ones. Log entry 111, PRESUMED. -/
def crc32 (l : List Byte) : BitVec 32 := ~~~(l.foldl crc32Byte (~~~0#32))

/-! ## SHA3-512 (R400, R410) -/

/-- The bit that a linear feedback register yields at step `t` of the round constants. -/
def keccakLfsr (t : Nat) : Nat :=
  (List.range (t % 255)).foldl (fun r _ => if r % 256 < 128 then 2 * r else (2 * r % 256) ^^^ 0x71) 1
def keccakRound (i : Nat) : W64 :=
  (List.range 7).foldl (fun w j => if (keccakLfsr (j + 7 * i)).testBit 0 then w ||| BitVec.ofNat 64 (2 ^ (2 ^ j - 1)) else w) 0

/-- Places and rotations of the ρ and π steps, along the walk of lane (1, 0). -/
def keccakWalk : List (Nat × Nat × Nat) :=
  ((List.range 24).foldl (fun (p : (Nat × Nat) × List (Nat × Nat × Nat)) t =>
    let y := p.1
    let z := (y.2, (2 * y.1 + 3 * y.2) % 5)
    (z, p.2 ++ [(y.1 + 5 * y.2, z.1 + 5 * z.2, (t + 1) * (t + 2) / 2 % 64)])) ((1, 0), [])).2

/-- One round of Keccak-f[1600] on 25 lanes, lane (x, y) at x + 5 y. -/
def keccakStep (a : List W64) (i : Nat) : List W64 :=
  let lane (n : Nat) : W64 := a.getD n 0
  let col (x : Nat) : W64 := (List.range 5).foldl (fun w y => w ^^^ lane (x + 5 * y)) 0
  let cols := (List.range 5).map col
  let th := (List.range 5).map fun x => cols.getD ((x + 4) % 5) 0 ^^^ (cols.getD ((x + 1) % 5) 0).rotateLeft 1
  let b := (List.range 25).map fun n => lane n ^^^ th.getD (n % 5) 0
  let c := keccakWalk.foldl (fun l w => l.set w.2.1 ((b.getD w.1 0).rotateLeft w.2.2)) b
  let at_ (x y : Nat) : W64 := c.getD (x % 5 + 5 * y) 0
  ((List.range 25).map fun n =>
    let v := at_ (n % 5) (n / 5) ^^^ (~~~(at_ (n % 5 + 1) (n / 5)) &&& at_ (n % 5 + 2) (n / 5))
    if n = 0 then v ^^^ keccakRound i else v)
def keccakF (a : List W64) : List W64 := (List.range 24).foldl keccakStep a

/-- The absorbing of blocks of 72 bytes, the rate of SHA3-512. -/
def sha3Absorb (a : List W64) (l : List Byte) : Nat → List W64
  | 0 => a
  | n + 1 =>
    let b := l.take 72
    sha3Absorb (keccakF ((List.range 25).map fun i =>
      a.getD i 0 ^^^ (if i < 9 then BitVec.ofNat 64 (field b (8 * i) 8) else 0))) (l.drop 72) n

/-- SHA3-512: 64 bytes. Log entry 111, PRESUMED. -/
def sha3 (l : List Byte) : List Byte :=
  let n := l.length / 72 + 1
  let z := 72 * n - l.length
  let pad : List Byte := if z = 1 then [0x86] else [0x06] ++ zeros (z - 2) ++ [0x80]
  let a := sha3Absorb (List.replicate 25 0) (l ++ pad) n
  (List.range 8).flatMap fun i => toBytes 8 (a.getD i 0).toNat

/-! ## AES-256 -/

/-- Multiplication of the AES field. -/
def gmul (a b : Byte) : Byte :=
  ((List.range 8).foldl (fun (p : Byte × Byte) i =>
    (if b.getLsbD i then p.1 ^^^ p.2 else p.1, if p.2.getLsbD 7 then (p.2 <<< 1) ^^^ 0x1B else p.2 <<< 1)) (0, a)).1

/-- The inverse of an element, 0 for 0: its 254th power. -/
def ginv (a : Byte) : Byte :=
  ((List.range 7).foldl (fun (p : Byte × Byte) _ => let q := gmul p.2 p.2; (gmul p.1 q, q)) (1, a)).1
def sbox (a : Byte) : Byte :=
  let b := ginv a
  b ^^^ b.rotateLeft 1 ^^^ b.rotateLeft 2 ^^^ b.rotateLeft 3 ^^^ b.rotateLeft 4 ^^^ 0x63
def sboxInv (a : Byte) : Byte := ginv (a.rotateLeft 1 ^^^ a.rotateLeft 3 ^^^ a.rotateLeft 6 ^^^ 0x05)

def xorBytes (a b : List Byte) : List Byte := List.zipWith (· ^^^ ·) a b

/-- The 60 words of four bytes of the key schedule. -/
def aesSchedule (key : List Byte) : List (List Byte) :=
  let word (w : List (List Byte)) (i : Nat) : List Byte := w.getD i []
  ((List.range 52).foldl (fun (p : List (List Byte) × Byte) j =>
    let w := p.1
    let i := j + 8
    let t := word w (i - 1)
    let u := if i % 8 = 0 then xorBytes ((t.drop 1 ++ t.take 1).map sbox) [p.2, 0, 0, 0]
      else if i % 8 = 4 then t.map sbox else t
    (w ++ [xorBytes (word w (i - 8)) u], if i % 8 = 0 then gmul p.2 2 else p.2))
    ((List.range 8).map fun i => (key.drop (4 * i)).take 4, 1)).1
def aesKey (w : List (List Byte)) (r : Nat) : List Byte := ((w.drop (4 * r)).take 4).flatten

/-- Rows of a block of four columns are shifted left by `k` times their number. -/
def aesShift (k : Nat) (l : List Byte) : List Byte := (List.range 16).map fun i => l.getD ((i + 4 * (k * (i % 4))) % 16) 0
/-- Columns are multiplied by the circulant of four coefficients. -/
def aesMix (m : List Byte) (l : List Byte) : List Byte :=
  (List.range 16).map fun i => (List.range 4).foldl (fun v j =>
    v ^^^ gmul (m.getD ((j + 4 - i % 4) % 4) 0) (l.getD (i / 4 * 4 + j) 0)) 0

/-- AES-256 of a block of 16 bytes. Log entry 111, PRESUMED. -/
def aesEncrypt (key block : List Byte) : List Byte :=
  let w := aesSchedule key
  let mid := (List.range 13).foldl (fun s r =>
    xorBytes (aesMix [2, 3, 1, 1] (aesShift 1 (s.map sbox))) (aesKey w (r + 1))) (xorBytes block (aesKey w 0))
  xorBytes (aesShift 1 (mid.map sbox)) (aesKey w 14)
/-- The inverse. Log entry 111, PRESUMED. -/
def aesDecrypt (key block : List Byte) : List Byte :=
  let w := aesSchedule key
  let mid := (List.range 13).foldl (fun s r =>
    aesMix [14, 11, 13, 9] (xorBytes ((aesShift 3 s).map sboxInv) (aesKey w (13 - r)))) (xorBytes block (aesKey w 14))
  xorBytes ((aesShift 3 mid).map sboxInv) (aesKey w 0)

/-- AES key unwrap of 40 bytes to a key of 32: none where its check word is wrong (R408). Log entry 111, PRESUMED. -/
def unwrapKey (kek l : List Byte) : Option (List Byte) :=
  let r := (List.range 24).foldl (fun (p : List Byte × List (List Byte)) j =>
    let t := 24 - j
    let i := (t - 1) % 4
    let b := aesDecrypt kek (xorBytes p.1 (toBytes 8 t).reverse ++ p.2.getD i [])
    (b.take 8, p.2.set i (b.drop 8))) (l.take 8, (List.range 4).map fun i => (l.drop (8 * (i + 1))).take 8)
  if r.1 = List.replicate 8 0xA6 then some r.2.flatten else none

/-! ## Galois/Counter mode (R409) -/

/-- Bytes as a number, the first the most significant. -/
def ofBytesBe (l : List Byte) : Nat := ofBytes l.reverse
def toBytesBe (n v : Nat) : List Byte := (toBytes n v).reverse

/-- Multiplication of the GCM field: the first bit of a string is its most significant. -/
def ghashMul (x y : BitVec 128) : BitVec 128 :=
  ((List.range 128).foldl (fun (p : BitVec 128 × BitVec 128) i =>
    (if x.getMsbD i then p.1 ^^^ p.2 else p.1,
      if p.2.getLsbD 0 then (p.2 >>> 1) ^^^ (0xE1#128 <<< 120) else p.2 >>> 1)) (0, y)).1

/-- A string, filled with zeros, as blocks of 16 bytes. -/
def gcmBlocks (l : List Byte) : List (BitVec 128) :=
  (List.range ((l.length + 15) / 16)).map fun i =>
    let b := (l.drop (16 * i)).take 16
    BitVec.ofNat 128 (ofBytesBe (b ++ zeros (16 - b.length)))

/-- Counter mode from a counter on, under an IV of 12 bytes. -/
def gcmCtr (key iv : List Byte) (ctr : Nat) (l : List Byte) : List Byte :=
  (List.range ((l.length + 15) / 16)).flatMap fun i =>
    xorBytes ((l.drop (16 * i)).take 16) (aesEncrypt key (iv ++ toBytesBe 4 (ctr + i)))

/-- The tag over authenticated data and ciphertext. -/
def gcmTag (key iv aad ct : List Byte) : List Byte :=
  let h : BitVec 128 := BitVec.ofNat 128 (ofBytesBe (aesEncrypt key (zeros 16)))
  let len : BitVec 128 := BitVec.ofNat 128 (8 * aad.length * 2 ^ 64 + 8 * ct.length)
  let y := (gcmBlocks aad ++ gcmBlocks ct ++ [len]).foldl (fun y b => ghashMul (y ^^^ b) h) 0
  gcmCtr key iv 1 (toBytesBe 16 y.toNat)

/-- Ciphertext with its 16-byte tag behind it. Log entry 111, PRESUMED. -/
def gcmSeal (key iv aad plain : List Byte) : List Byte :=
  let ct := gcmCtr key iv 2 plain
  ct ++ gcmTag key iv aad ct
/-- The plaintext, none where the tag does not match. Log entry 111, PRESUMED. -/
def gcmOpen (key iv aad sealed : List Byte) : Option (List Byte) :=
  let ct := sealed.take (sealed.length - 16)
  if sealed.drop (sealed.length - 16) = gcmTag key iv aad ct then some (gcmCtr key iv 2 ct) else none

end Sys2Proof.Machine
end

