-- ==== Sys2Proof/Machine/Graph.lean ====
section
/-! DEFINITION. The dependence table (R347-R356): the nodes of accepted graphs, their states, and how graphs complete. What
the nodes do stands in Machine/Dispatcher.lean. -/

namespace Sys2Proof.Machine
open Sys2Proof

/-! ## Fields of a node (R348) -/

def GNode.type (n : GNode) : Nat := field n.bytes 0 1
def GNode.flags (n : GNode) : Nat := field n.bytes 1 1
/-- A failure counts as completion. -/
def GNode.onFail (n : GNode) : Bool := n.flags.testBit 0
def GNode.pin (n : GNode) : Bool := n.flags.testBit 1
def GNode.deps (n : GNode) : Nat := field n.bytes 2 2
def GNode.handler (n : GNode) : Nat := field n.bytes 5 1
def GNode.die (n : GNode) : Nat := field n.bytes 6 1
def GNode.origin (n : GNode) : Nat := field n.bytes 7 1
def GNode.succ (n : GNode) (i : Nat) : Nat := field n.bytes (48 + 2 * i) 2
/-- Successors that a completion decrements; a COND chooses its own (R353). -/
def GNode.succs (n : GNode) : List Nat := (List.range (field n.bytes 4 1)).map n.succ

def GNode.reset : GNode := ⟨[], .cancelled, 0, 0, 0, none, [], false, false, 0⟩

/-! ## The table -/

def State.graph (s : State) (k : Nat) : Option Graph := (s.pkg.graphs.find? fun e => e.1 == k).map Prod.snd
def State.gnode (s : State) (k n : Nat) : GNode := ((s.graph k).bind fun g => g.nodes[n]?).getD GNode.reset
def State.modGraph (s : State) (k : Nat) (f : Graph → Graph) : State :=
  s.modPkg fun p => { p with graphs := p.graphs.map fun e => if e.1 = k then (k, f e.2) else e }
def State.modNode (s : State) (k n : Nat) (f : GNode → GNode) : State :=
  s.modGraph k fun g => { g with nodes := g.nodes.modify n f }

/-- The event that starts a READY node. -/
def startEvent (type : Nat) : Instr :=
  match type with
  | 1 => .runNodeBind
  | 2 => .copyNodeStart
  | 3 => .waitNode
  | 4 => .condNode
  | 5 => .hringNode
  | _ => .endNode

/-- A LOADED node whose count is 0 becomes READY; the event that starts it follows. A priority-0 RUN node aborts a scan
test on its die (R471). -/
def State.promote (s : State) (k n : Nat) : State :=
  let g := s.gnode k n
  if g.st = .loaded ∧ g.count = 0 then
    let s := (s.modNode k n fun g => { g with st := .ready, readyAt := s.elapsed }).post (startEvent g.type)
      { Args.empty with k := k, n := n }
    if g.type = 1 ∧ ((s.graph k).map Graph.prio) = some 0 then s.post .scanAbort { Args.empty with die := g.die } else s
  else s

/-- Insertion into a list in the order of a key, behind equals. -/
def insertBy {α : Type} (f : α → Nat) (a : α) : List α → List α
  | [] => [a]
  | b :: t => if f a < f b then a :: b :: t else b :: insertBy f a t
def sortBy {α : Type} (f : α → Nat) (l : List α) : List α := l.foldl (fun acc a => insertBy f a acc) []

/-! ## Completion of a graph (R354) -/

/-- The 16 bytes of a completion record. -/
def complRecord (tag status node time : Nat) : List Byte :=
  toBytes 2 tag ++ [BitVec.ofNat 8 status, 0] ++ toBytes 2 node ++ toBytes 2 0 ++ toBytes 8 time

/-- Writes a completion record to the host or to device memory. -/
def State.writeCompl (s : State) (addr : W64) (dev : Bool) (tag status node : Nat) : State :=
  if addr = 0 then s
  else
    let r := complRecord tag status node s.tai.toNat
    if dev then s.globalWrite addr r else s.hostWrite addr.toNat r

/-- Asks the dispatcher to look at its waiting launches and at the `ENQ` commands that wait for room. -/
def State.pokeLaunches (s : State) : State :=
  s.cells.foldl (fun t e => (e.2.engines.get [] 5).foldl
    (fun t _ => t.post .engineCommandComplete { Args.empty with c := e.1, e := 5 }) t) (s.post .graphAccept Args.empty)

def Graph.has (g : Graph) (st : NodeSt) : Bool := g.nodes.any fun n => n.st == st

/-- Status of a graph that has come to rest, none while it goes on. -/
def Graph.status (g : Graph) : Option Nat :=
  if g.has .running || g.has .ready then none
  else if g.nodes.any fun n => n.st == .failed && !n.onFail then some 1
  else if g.has .loaded then some 3
  else some 0

/-- Completes a graph that has come to rest: its entries are freed and its record written. Log entry 44, DEDUCED. -/
def State.settleGraph (s : State) (k : Nat) : State :=
  match s.graph k with
  | none => s
  | some g =>
    match g.status with
    | none => s
    | some st =>
      ((s.modPkg fun p => { p with graphs := p.graphs.del k }).writeCompl g.compl g.complDev g.tag st
        (g.firstFail.getD 0xFFFF)).pokeLaunches

/-- Cancels every LOADED and READY node. -/
def Graph.cancel (g : Graph) : Graph :=
  { g with nodes := g.nodes.map fun n =>
      if n.st = .loaded ∨ n.st = .ready then { n with st := .cancelled } else n }

/-- A running END node looks again at the graph once a node has left RUNNING. Log entry 45, DEDUCED. -/
def State.pokeEnds (s : State) (k : Nat) : State :=
  match s.graph k with
  | none => s
  | some g => (List.range g.nodes.length).foldl (fun t i =>
      let n := g.nodes.getD i GNode.reset
      if n.type = 6 ∧ n.st = .running then t.post .endNode { Args.empty with k := k, n := i } else t) s

/-- A RUNNING node completes into `st` or fails (R351): the chosen successors decrement, or the graph is aborted. A
running END looks at the graph before the nodes that have just become READY start (R354), and those start in the order of
their index (R356); `armed` are nodes that a COND has re-armed (R353).
Log entry 44, DEDUCED. -/
def State.nodeEnds (s : State) (k n : Nat) (ok : Bool) (st : NodeSt) (succs : List Nat) (armed : List Nat := []) : State :=
  let g := s.gnode k n
  if g.st ≠ .running then s
  else
    let s := s.modNode k n fun g => { g with st := if ok then st else .failed }
    let s := if ok then s else s.modGraph k fun g =>
      { g with firstFail := if g.firstFail.isNone then some n else g.firstFail }
    let s :=
      if ok || g.onFail then
        let t := (succs.foldl (fun t i => t.modNode k i fun m => { m with count := m.count - 1 }) s).pokeEnds k
        (sortBy id (succs ++ n :: armed).eraseDups).foldl (fun t i => t.promote k i) t
      else (s.modGraph k Graph.cancel).pokeEnds k
    s.settleGraph k

/-- Completion or failure of a node other than a COND. -/
def State.nodeDone (s : State) (k n : Nat) (ok : Bool) : State := s.nodeEnds k n ok .done (s.gnode k n).succs

end Sys2Proof.Machine
end

