-- ==== Sys2Proof/Machine/Copy.lean ====
section
/-! DEFINITION. The copy engine (R263-R265): COPY, COPYH and FILL, their descriptors, faults and completion. -/

namespace Sys2Proof.Machine
open Sys2Proof

/-! ## Queues (R172, R173) -/

def Cell.queue (k : Cell) (e : Nat) : List Cmd := k.engines.get [] e
def State.modQueue (s : State) (c e : Nat) (f : List Cmd → List Cmd) : State :=
  s.modCell c fun k => { k with engines := k.engines.ins e (f (k.queue e)) }

/-- A command has completed: the busy count of its task's context goes down. A command that has outlived its task counts
toward no context. Log entry 37, DESIGN CHOICE. -/
def State.cmdDone (s : State) (c e : Nat) (m : Cmd) : State :=
  if m.ctx < 4 then s.modTask c m.ctx m.task fun x => { x with busy := x.busy.ins e (x.busy.get 0 e - 1) } else s

/-- A bad descriptor without a barrier object goes to the die error log (R263, R423). Log entry 46, DEDUCED. -/
def State.logDescriptor (s : State) (c e : Nat) (addr : W64) : State := s.logCell c 12 e addr 0

/-- A barrier object that an engine can reach. Log entry 39, DEDUCED. Log entry 46, DEDUCED. -/
def State.barrierOk (s : State) (a : W64) : Bool := (s.accessFault ⟨a, 16, 16, true, true, false, false, true⟩).isNone

/-! ## Descriptors (R264) -/

def dSrc (l : List Byte) : W64 := BitVec.ofNat 64 (field l 0 8)
def dDst (l : List Byte) : W64 := BitVec.ofNat 64 (field l 8 8)
def dLen (l : List Byte) : Nat := field l 16 4
def dFlags (l : List Byte) : Nat := field l 20 1
def dBarrier (l : List Byte) : W64 := BitVec.ofNat 64 (field l 24 8)
def dSrcTile (l : List Byte) : Bool := (dFlags l).testBit 0
def dDstTile (l : List Byte) : Bool := (dFlags l).testBit 1
def dSrcHost (l : List Byte) : Bool := (dFlags l).testBit 2
def dDstHost (l : List Byte) : Bool := (dFlags l).testBit 3

/-- Whether a descriptor meets the requirements of its command: 1 COPY, 2 COPYH, 3 FILL. SRC_TILE together with HOST_SRC,
and DST_TILE with HOST_DST, are refused. Log entry 46, DEDUCED. -/
def State.descOk (s : State) (code : Nat) (l : List Byte) : Bool :=
  decide (1 ≤ dLen l) && decide (dFlags l < 16) && field l 21 3 == 0
    && !(dSrcTile l && dSrcHost l) && !(dDstTile l && dDstHost l)
    && (dBarrier l == 0 || s.barrierOk (dBarrier l))
    && (match code with
      | 1 => !dSrcHost l && !dDstHost l
      | 2 => dSrcHost l != dDstHost l
      | _ => !dSrcHost l && !dSrcTile l)

/-- One side of a copy: the host, an address of the fabric, a tile that faults (tensor and tile number), or none. -/
inductive Place where
  | host (a : Nat)
  | dev (a : W64)
  | absent (tensor tile : Nat)
  | bad
  deriving DecidableEq, Repr

/-- A tile-form address (R264): tensor, tile number, and byte offset within the tile. A copy beyond its tile is a RANGE
outcome. -/
def State.tilePlace (s : State) (c x : Nat) (w : W64) (len : Nat) : Place × State :=
  let tensor := bitsAt w 0 16
  let tile := bitsAt w 16 32
  let off := bitsAt w 48 16
  match (s.die (dieOf c)).tensors.find? fun e => e.1 == tensor with
  | none => (.bad, s.postFault c x 2 0 false tensor (BitVec.ofNat 64 tile) 0)
  | some (_, t) =>
    if t.tiles ≤ tile ∨ t.tileBytes < off + len then (.bad, s)
    else
      let r := s.tableEntry t tile
      match entryOut r.1 off with
      | .ok a => (.dev a, r.2)
      | .fail e =>
        if e = xNotPresent then (.absent tensor tile, r.2)
        else (.bad, r.2.postFault c x 2 0 false tensor (BitVec.ofNat 64 tile) 0)

/-- A side of a copy, with the test of R74 for its whole range. -/
def State.place (s : State) (c : Nat) (m : Cmd) (store host tile : Bool) (w : W64) (len : Nat) : Place × State :=
  let check (r : Place × State) : Place × State :=
    match r.1 with
    | .dev a => if (s.engineFault ⟨a, len, 1, store, false, false, true, m.supervisor⟩).isSome then (.bad, r.2) else r
    | _ => r
  if host then (.host w.toNat, s)
  else if tile then check (s.tilePlace c m.ctx w len)
  else check (.dev w, s)

/-- A 64-bit pattern over `n` bytes. -/
def patternBytes (w : W64) (n : Nat) : List Byte :=
  let p := toBytes 8 w.toNat
  (List.range n).map fun i => p.getD (i % 8) 0

/-- The bytes of a source. -/
def State.placeBytes (s : State) (p : Place) (n : Nat) : List Byte × State :=
  match p with
  | .host a => (s.hostRead a n, s)
  | .dev a => s.placeRead a n
  | _ => ([], s)

def State.placeWrite (s : State) (p : Place) (l : List Byte) (sup : Bool) : State :=
  match p with
  | .host a => s.hostWrite a l
  | .dev a => s.placeStore a l sup
  | _ => s

/-! ## Running a command -/

/-- The end of a copy command: the whole LEN is subtracted, with ERR on failure; the busy flag clears, and a COPY node
completes or fails. -/
def State.copyEnds (s : State) (c : Nat) (m : Cmd) (l : List Byte) (err : Nat) : State :=
  let s := if err = 8 ∧ (dBarrier l = 0 ∨ !s.barrierOk (dBarrier l)) then
      s.logDescriptor c 0 (match m.desc with
        | some _ => m.w1
        | none => s.addrOf c 0 (bitsAt m.w1 0 26))
    else if dBarrier l ≠ 0 && s.barrierOk (dBarrier l) then s.engineSub c m.ctx m.id (dBarrier l) (dLen l) err
    else s
  let s := s.cmdDone c 0 m
  match m.node with
  | some (k, n) => s.nodeDone k n (err == 0)
  | none => s

/-- Posts a NOT_PRESENT fault of the copy engine and suspends the command (R265, R378). Log entry 37, DESIGN CHOICE. -/
def State.suspend (s : State) (c : Nat) (m : Cmd) (l : List Byte) (tensor tile : Nat) : State :=
  let fid := (s.die (dieOf c)).nextFid % 65536
  ((s.modDie (dieOf c) fun d => { d with nextFid := fid + 1 }).postFault c m.ctx 1 0 true tensor (BitVec.ofNat 64 tile)
    (BitVec.ofNat 64 fid)).modCell c fun k => { k with copies := k.copies ++ [⟨m, l, fid⟩] }

/-- Bytes of one write of a copy to another package, as many as a vector store carries. -/
def copyUnit : Nat := 512

/-- Which of `n` source bytes lie in poisoned words. -/
def State.badBytes (s : State) (p : Place) (n : Nat) : Nat → Bool :=
  match p with
  | .dev a => if aPkg a = s.pkg.number then fun i => decide (i < n) && s.poisoned (wordOf (flatOf a + i)) 8 else fun _ => false
  | _ => fun _ => false

/-- The bytes that reach the host: those of poisoned words are free, as no corrupted value leaves as data (R421).
Log entry 77, DEDUCED. -/
def State.hostBytes (s : State) (bad : Nat → Bool) (l : List Byte) : List Byte :=
  (List.range l.length).map fun i => if bad i then (freeBytes (s.draws + i) 1).headD 0 else l.getD i 0

/-- A request that writes bytes to another package: opcode 0xF2 names the bytes of poisoned words in 64 bytes ahead of
them. -/
def State.writeReq (s : State) (c id : Nat) (a : W64) (bad : Nat → Bool) (l : List Byte) : State :=
  let mask := (List.range l.length).foldl (fun m i => if bad i then m + 2 ^ i else m) 0
  if mask = 0 then s.engineReq c id 0xF1 a l else s.engineReq c id 0xF2 a (toBytes 64 mask ++ l)

/-- The writes of a copy to another package: numbered requests, for whose answers the command waits (R296).
Log entry 10, DESIGN CHOICE. Log entry 37, DESIGN CHOICE. -/
def State.copyAbroad (s : State) (c : Nat) (m : Cmd) (l : List Byte) (a : W64) (bad : Nat → Bool) (data : List Byte) : State :=
  let n := (data.length + copyUnit - 1) / copyUnit
  let first := (s.cell c).nextId + 2 ^ 40
  let s := s.modCell c fun k => { k with
    nextId := k.nextId + n
    copies := k.copies ++ (List.range n).map fun i => ⟨m, l, first + i⟩ }
  (List.range n).foldl (fun t i =>
    (t.writeReq c (first + i) (a + BitVec.ofNat 64 (copyUnit * i)) (fun j => bad (copyUnit * i + j))
      ((data.drop (copyUnit * i)).take copyUnit)).after 64000 .farAccessTimeout { Args.empty with c := c, x := 4, id := first + i }) s

/-- Has the copy engine of a cell look at each waiting command again. Log entry 98, DEDUCED. -/
def State.pokeCopies (s : State) (c : Nat) : State :=
  ((s.cell c).queue 0).foldl (fun t _ => t.post .copyComplete { Args.empty with c := c }) s

/-- A write of a copy to another package is answered, or given up: the last one ends the command, the first failure ends it
with ERR 0x04. Log entry 37, DESIGN CHOICE. -/
def State.writeAnswered (s : State) (c id : Nat) (ok : Bool) : State :=
  match (s.cell c).copies.find? fun r => r.fid == id with
  | none => s
  | some r =>
    let gone (q : CopyRun) : Bool := if ok then q.fid == id else q.cmd.id == r.cmd.id
    let s := s.modCell c fun k => { k with copies := k.copies.filter fun q => !gone q }
    if (s.cell c).copies.any fun q => q.cmd.id == r.cmd.id then s
    else (s.copyEnds c r.cmd r.desc (if ok then 0 else 4)).pokeCopies c

/-- Runs a command from its descriptor: the sides are looked at, source first, and then all its bytes are moved.
Log entry 37, DESIGN CHOICE. -/
def State.runCopy (s : State) (c : Nat) (m : Cmd) (l : List Byte) : State :=
  let code := m.w0.toNat % 256
  if !s.descOk code l then s.copyEnds c m l 8
  else
    let n := dLen l
    let src := if code = 3 then (Place.host 0, s) else s.place c m false (dSrcHost l) (dSrcTile l) (dSrc l) n
    match src.1 with
    | .absent t i => src.2.suspend c m l t i
    | .bad => src.2.copyEnds c m l 4
    | _ =>
      let dst := src.2.place c m true (dDstHost l) (dDstTile l) (dDst l) n
      match dst.1 with
      | .absent t i => dst.2.suspend c m l t i
      | .bad => dst.2.copyEnds c m l 4
      | _ =>
        let b := if code = 3 then (patternBytes (dSrc l) n, dst.2) else dst.2.placeBytes src.1 n
        match dst.1 with
        | .dev d =>
          if aPkg d ≠ s.pkg.number then b.2.copyAbroad c m l d (s.badBytes src.1 n) b.1
          else
            let s1 := b.2.placeWrite dst.1 b.1 m.supervisor
            let s2 := match src.1 with
              | .dev a => if code ≠ 3 ∧ aPkg a = s.pkg.number then s1.carryPoison (flatOf a) (flatOf d) n s.poison else s1
              | _ => s1
            s2.copyEnds c m l 0
        | _ =>
          { b.2.placeWrite dst.1 (b.2.hostBytes (s.badBytes src.1 n) b.1) m.supervisor with
            draws := b.2.draws + n }.copyEnds c m l 0

/-- The copy engine's next command: the first whose context has none suspended. A source with a record held for the full
fault buffer takes no command (R380). Log entry 37, DESIGN CHOICE. -/
def State.nextCopy (s : State) (c : Nat) : Option Cmd :=
  if (List.range 5).any fun x => s.recordHeld c x 0 then none
  else ((s.cell c).queue 0).find? fun m => !((s.cell c).copies.any fun r => r.cmd.ctx == m.ctx)

/-- `COPY_COMPLETE`: a copy command starts, reads its descriptor and runs to its end or its fault. -/
def execCopyComplete (s : State) : Out :=
  .next (
    let c := s.args.c
    match s.nextCopy c with
    | none => s
    | some m =>
      let s := s.modQueue c 0 fun q => q.erase m
      match m.desc with
      | some l => s.runCopy c m l
      | none =>
        s.runCopy c m (s.readBytes (flat c 0 (bitsAt m.w1 0 26)) 32))

/-! ## Answers to held faults (R379) -/

/-- `FB_RESP`: the suspended command that holds the fault number goes on, or ends with ERR 0x04. Log entry 98, DEDUCED. -/
def execFbResp (s : State) : Out :=
  .next (
    let a := s.args
    match s.cells.findSome? fun e =>
      if dieOf e.1 = a.die then (e.2.copies.find? fun r => r.fid == a.n).map fun r => (e.1, r) else none with
    | none => s
    | some (c, r) =>
      let s := s.modCell c fun k => { k with copies := k.copies.filter fun q => q.fid != a.n }
      (if a.flag then s.copyEnds c r.cmd r.desc 4 else s.runCopy c r.cmd r.desc).pokeCopies c)

end Sys2Proof.Machine
end

