-- ==== Sys2Proof/Machine/Collective.lean ====
section
/-! DEFINITION. In-fabric reduction (R66-R69, R248, R268, R335-R340, R426, R439): `LDRED`, the members' engines, and the
roots. -/

namespace Sys2Proof.Machine
open Sys2Proof

/-! ## Groups and attempts -/

def Cell.group (k : Cell) (g : Nat) : Option Group := (k.groups.find? fun e => e.1 == g).map Prod.snd
def State.modGroup (s : State) (c g : Nat) (f : Group → Group) : State :=
  s.modCell c fun k => { k with groups := k.groups.map fun e => if e.1 = g then (g, f e.2) else e }

/-- Attempt number of a group at a cell; a group not defined there stands at 0. -/
def State.attemptOf (s : State) (c g : Nat) : Nat :=
  match (s.cell c).group g with
  | some d => d.attempt.toNat
  | none => 0

/-- What ingress does with attempt `a` (R439): accept, drop an older one, hold a newer one. -/
inductive Ingress where
  | accept | drop | hold
  deriving DecidableEq, Repr

/-- Log entry 41, DEDUCED. -/
def ingress (current a : Nat) : Ingress :=
  let d := (current + 256 - a % 256) % 256
  if d = 0 then .accept else if d ≤ 128 then .drop else .hold

/-- Holds a message of a newer attempt for 100 µs: it bears the time at which it came. Log entry 41, DEDUCED. -/
def State.holdColl (s : State) (die group : Nat) (e : Event) : State :=
  let a := { e.args with size := s.elapsed }
  (s.modDie die fun d => { d with collHeld := d.collHeld ++ [{ e with args := a }] }).after 100000 .newerAttemptDrop
    { Args.empty with die := die, group := group, coll := a.coll, c := a.c, size := a.size }

/-- `NEWER_ATTEMPT_DROP`: the message held for that member or root since that time goes. -/
def execNewerAttemptDrop (s : State) : Out :=
  .next (
    let a := s.args
    s.modDie a.die fun d => { d with collHeld := d.collHeld.filter fun e =>
      !(e.args.coll == a.coll && e.args.c == a.c && e.args.size == a.size) })

/-- Messages held on a die are looked at again. -/
def State.releaseHeld (s : State) (die : Nat) : State :=
  let l := (s.die die).collHeld
  { (s.modDie die fun d => { d with collHeld := [] }) with agenda := s.agenda ++ l }

/-- The AX64 chunk that a message of a collective carries. -/
def collChunk (m : CollMsg) : Option Chunk :=
  match m with
  | .input _ _ _ _ _ _ _ ck => some ck
  | .result _ _ _ ck => some ck
  | _ => none
/-- The message with the identity of the hop that verified its chunk. -/
def collHopped (m : CollMsg) (hop : BitVec 32) : CollMsg :=
  match m with
  | .input root src g a i n k ck => .input root src g a i n k { ck with hop := hop }
  | .result g a k ck => .result g a k { ck with hop := hop }
  | m => m

/-- The event at which a message of a collective with a chunk arrives. -/
def collEvent (m : CollMsg) : Instr :=
  match m with
  | .result _ _ _ _ => .collResult
  | _ => .collRootChunk

/-- A message with a chunk on die `d` goes on to cell `c`, or to the router of its die: to its next checked point, or to
its end (R96, R424). A fenced die accepts none. Log entry 12, DEDUCED. -/
def State.collOnward (s : State) (d c : Nat) (m : CollMsg) : State :=
  let a : Args := { Args.empty with c := c, coll := m }
  match nextPoint d c with
  | some (d', point, kind) =>
    if s.pkg.fenced.getLsbD d' then s else s.post .chunkHopCheck { a with k := kind, die := d', n := point, slot := 1 }
  | none => s.post (collEvent m) { a with die := d }

/-- Sends a message of a collective to the cell that a member word names, or to the root's die; one with a chunk leaves
from the place that its HOP names. -/
def State.sendColl (s : State) (dest : BitVec 32) (i : Instr) (m : CollMsg) : State :=
  match collChunk m with
  | some ck =>
    if namePkg dest = s.pkg.number then s.collOnward (hopDie ck.hop) (nameCell dest) m
    else s.sendTo dest i { Args.empty with die := nameCell dest / 256, coll := m } 8 (.coll m)
  | none => s.sendTo dest i { Args.empty with die := nameCell dest / 256, coll := m } 8 (.coll m)

/-! ## The member (R248, R337) -/

/-- Elements of a section. -/
def Ldred.sect (r : Ldred) (k : Nat) : List W32 := (r.src.drop (512 * k)).take 512
def sections (count : Nat) : Nat := (count + 511) / 512
def Group.root (g : Group) : BitVec 32 := g.members.getD 0 0

/-- X of a set of FP32 words (R66), and F. -/
def setExp (l : List W32) : Int :=
  l.foldl (fun m w => match localExp (fp32.value w.toNat) with
    | some e => max m e
    | none => m) (-32768)
def setNotFinite (l : List W32) : Bool := l.any fun w => w.extractLsb' 23 8 == 0xFF

/-- Starts the 200 µs timer of a message that a member has sent. -/
def State.memberTimer (s : State) (c g : Nat) : State :=
  s.after 200000 .collMemberTimeout { Args.empty with c := c, group := g }

/-- Step 1: the records of every section. -/
def State.sendRecords (s : State) (c g : Nat) (d : Group) (r : Ldred) : State :=
  (List.range (sections r.count)).foldl (fun t k =>
    let l := r.sect k
    (t.sendColl d.root .collExpRecord
      (.expRecord d.root (s.cellName c) g d.attempt.toNat d.myidx d.nmem k r.count (setExp l) (setNotFinite l))).memberTimer c g) s

/-- Writes FP32 words to a section's place in DST, setting full bits. -/
def State.writeSect (s : State) (c : Nat) (r : Ldred) (k : Nat) (l : List W32) : State :=
  s.engineWrite (flat c 0 (r.dst + 2048 * k)) (l.flatMap fun w => toBytes 4 w.toNat)

/-- A section is written; after the last, the subtraction (R337 step 5, R248 step 6). -/
def State.sectDone (s : State) (c g k : Nat) : State :=
  let s := s.modGroup c g fun d => { d with run := d.run.map fun r =>
    { r with sects := r.sects.ins k { (r.sects.get ⟨0, 0, 0⟩ k) with stage := 2 } } }
  match (s.cell c).group g with
  | some d =>
    match d.run with
    | some r =>
      if r.sects.all fun e => e.2.stage == 2 then
        (s.modGroup c g fun d => { d with run := none }).engineSub c r.ctx r.id d.barrier (4 * r.count) 0
      else s
    | none => s
  | none => s

/-- A failed `LDRED` (R248): zeros in every result word not yet written, then the bytes subtracted with ERR. -/
def State.ldredFails (s : State) (c g err : Nat) : State :=
  match (s.cell c).group g with
  | none => s
  | some d =>
    match d.run with
    | none => s
    | some r =>
      let s := (List.range (sections r.count)).foldl (fun t k =>
        if (r.sects.get ⟨0, 0, 0⟩ k).stage = 2 then t else t.writeSect c r k ((r.sect k).map fun _ => 0)) s
      (s.modGroup c g fun d => { d with run := none }).engineSub c r.ctx r.id d.barrier (4 * r.count) err

/-- Log entry 40, DEDUCED. -/
def ldredBad (k : Cell) (w : W64) : Bool :=
  bitsAt w 13 3 != 0 || bitsAt w 24 8 != 0 || bitsAt w 58 6 != 0 || bitsAt w 0 13 == 0
    || decide (4096 < bitsAt w 0 13) || (k.group (bitsAt w 16 8)).isNone
def ldredHeld (k : Cell) (w : W64) : Bool :=
  match k.group (bitsAt w 16 8) with
  | some d => d.run.isSome
  | none => false

/-- Widened words of a contribution. -/
def widenWords (fp : Bool) (l : List Byte) (n : Nat) : List W32 :=
  (List.range n).map fun i =>
    if fp then BitVec.ofNat 32 (field l (4 * i) 4) else BitVec.ofNat 32 (field l (2 * i) 2 * 65536)

/-- `LDRED` (R248). A source or destination that is misaligned or beyond scratch draws an error response and starts
nothing. Log entry 40, DEDUCED. Log entry 108, DEDUCED. -/
def execLdred (a b : BitVec 6) (s : State) : Out :=
  .next (
    let c := s.focus.cell
    let w := s.rs b
    let g := bitsAt w 16 8
    let n := bitsAt w 0 13
    let dst := bitsAt w 32 26
    let off := (s.rs a).toNat
    if ldredBad s.here w then s.illegal 36
    else if ldredHeld s.here w then s.block (.group g)
    else
      match s.here.group g with
      | none => s
      | some d =>
        let eb := if d.infmt = 1 then 4 else 2
        let addr := s.addrOf c 0 off
        let info := s.infoOf 0 true false false 0
        if !inScratch c off (n * eb) then s.violate kAddr addr info
        else if !inScratch c dst (4 * n) then s.violate kAddr (s.addrOf c 0 dst) (s.infoOf 0 true true false 0)
        else if off % 8 ≠ 0 then s.violate kAlign addr info
        else if dst % 8 ≠ 0 then s.violate kAlign (s.addrOf c 0 dst) (s.infoOf 0 true true false 0)
        else if s.poisoned (flat c 0 off) (n * eb) then s.consume (flat c 0 off)
        else s.behindReleases fun s =>
          let r : Ldred := ⟨s.here.nextId, s.focus.ctx, s.ctx.task, n, dst,
            widenWords (d.infmt == 1) (s.readBytes (flat c 0 off) (n * eb)) n,
            (List.range (sections n)).map fun k => (k, ⟨0, s.elapsed, 0⟩)⟩
          (((s.modHere fun k => { k with nextId := k.nextId + 1 }).modGroup c g fun d => { d with run := some r }).sendRecords c g
            d r))

/-- A section of the member's run at a stage, if it is this attempt's. -/
def State.runSect (s : State) (c g k stage : Nat) : Option (Group × Ldred × LSect) :=
  match (s.cell c).group g with
  | some d =>
    match d.run with
    | some r =>
      match r.sects.find? fun e => e.1 == k with
      | some (_, q) => if q.stage = stage then some (d, r, q) else none
      | none => none
    | none => none
  | none => none

/-- The AX64 chunk of a section (R337 step 3, R338). Log entry 41, DEDUCED. -/
def State.inputChunk (s : State) (c g k : Nat) (r : Ldred) (e : Int) (attempt : Nat) : Chunk :=
  let pay := (r.sect k).flatMap fun w => toBytes 8 (wrapTo 64 (toAx e (fp32.value w.toNat)).1)
  { Chunk.empty with
    stream := BitVec.ofNat 16 g
    seq := BitVec.ofNat 32 k
    attempt := BitVec.ofNat 8 attempt
    replay := decide (0 < attempt)
    fmt := BitVec.ofNat 8 fmtAX
    length := BitVec.ofNat 16 pay.length
    axexp := BitVec.ofInt 16 e
    burgee := burgeeOf true pay
    hop := s.cellName c
    origin := s.cellName c
    payload := pay }

/-- Ingress at a member's engine: `f` for a message of the current attempt. -/
def State.memberIngress (s : State) (g a : Nat) (f : State → State) : State :=
  let c := s.args.c
  match ingress (s.attemptOf c g) a with
  | .accept => f s
  | .drop => s
  | .hold => s.holdColl (dieOf c) g ⟨match s.args.coll with
      | .result _ _ _ _ => .collResult
      | .failure _ _ _ => .collFailureNotice
      | _ => .collExponentReturn, s.args⟩

/-- Sends a section's chunk with E, or again with a later ATTEMPT. -/
def State.sendInput (s : State) (c g k : Nat) (d : Group) (r : Ldred) (e : Int) (attempt : Nat) : State :=
  let s := s.modGroup c g fun d => { d with run := d.run.map fun r => { r with sects := r.sects.ins k ⟨1, s.elapsed, e⟩ } }
  (s.sendColl d.root .collRootChunk
    (.input d.root (s.cellName c) g d.attempt.toNat d.myidx d.nmem k (s.inputChunk c g k r e attempt))).memberTimer c g

/-- `COLL_EXPONENT_RETURN`: E, or a request to send a chunk again. -/
def execCollExponentReturn (s : State) : Out :=
  .next (
    let c := s.args.c
    match s.args.coll with
    | .exponent _ g a k e nf => s.memberIngress g a fun s =>
        match s.runSect c g k 0 with
        | none => s
        | some (d, r, _) =>
          if nf then (s.writeSect c r k ((r.sect k).map fun _ => 0x7FC00000)).sectDone c g k
          else s.sendInput c g k d r e 0
    | .inputAgain _ g a k n => s.memberIngress g a fun s =>
        match s.runSect c g k 1 with
        | none => s
        | some (d, r, q) => s.sendInput c g k d r q.e n
    | _ => s)

/-- Elements of an AX64 payload. -/
def axElems : Nat → List Byte → List Int
  | 0, _ => []
  | n + 1, l => signed64 (ofBytes (l.take 8)) :: axElems n (l.drop 8)

/-- `COLL_RESULT`: the cell input verifies the result; a failing one is asked for again, three times in all. -/
def execCollResult (s : State) : Out :=
  .next (
    let c := s.args.c
    match s.args.coll with
    | .result g a k ck => s.memberIngress g a fun s =>
        match s.runSect c g k 1 with
        | none => s
        | some (d, r, q) =>
          if burgeeOk ck && ck.payload.length == 8 * (r.sect k).length then
            (s.writeSect c r k ((axElems (r.sect k).length ck.payload).map fun x =>
              BitVec.ofNat 32 (ofAx q.e x).1)).sectDone c g k
          else
            let s := s.logError (dieOf c) (some c) (elogWord1 3 (c % 256) 0 1 (burgeeSub ck))
              (BitVec.ofNat 64 (ck.stream.toNat + ck.attempt.toNat * 2 ^ 16 + ck.seq.toNat * 2 ^ 32))
              (BitVec.ofNat 64 (ck.hop.toNat + (s.hopWord (dieOf c) (c % 256) 1).toNat * 2 ^ 32))
            if 2 ≤ ck.attempt.toNat then s.ldredFails c g 7
            else s.sendColl d.root .collRootChunk (.resultAgain d.root (s.cellName c) g a k (ck.attempt.toNat + 1))
    | _ => s)

/-- `COLL_FAILURE_NOTICE`. -/
def execCollFailureNotice (s : State) : Out :=
  .next (
    match s.args.coll with
    | .failure g a err => s.memberIngress g a fun s => s.ldredFails s.args.c g err
    | _ => s)

/-- `COLL_MEMBER_TIMEOUT`: a record or chunk has had no answer for 200 µs. -/
def execCollMemberTimeout (s : State) : Out :=
  .next (
    let c := s.args.c
    let g := s.args.group
    match ((s.cell c).group g).bind fun d => d.run with
    | none => s
    | some r =>
      if r.sects.any fun e => decide (e.2.stage < 2) && decide (e.2.sentAt + 200000 * 45000 ≤ s.elapsed)
      then s.ldredFails c g 5 else s)

/-! ## The root (R337-R339, R426) -/

/-- Key of a collective at its root. Log entry 41, DEDUCED. -/
def collKey (root : BitVec 32) (g : Nat) : Nat := nameCell root % 256 * 256 + g

def State.coll (s : State) (die key a : Nat) : Coll :=
  match (s.die die).colls.find? fun e => e.1 == key with
  | some (_, q) => if q.attempt = a then q else ⟨a, [], none⟩
  | none => ⟨a, [], none⟩
def State.putColl (s : State) (die key : Nat) (q : Coll) : State :=
  s.modDie die fun d => { d with colls := d.colls.ins key q }
def Coll.sect (q : Coll) (k : Nat) : CollSect := q.sects.get CollSect.reset k

/-- Members from which the root holds a record of the attempt. -/
def Coll.peers (q : Coll) : List (BitVec 32) := ((q.sects.flatMap fun e => e.2.recs.map fun r => r.2.1)).eraseDups

/-- A collective fails: notices to the members known, and to each that comes later. -/
def State.collFails (s : State) (die key g : Nat) (q : Coll) (err : Nat) : State :=
  q.peers.foldl (fun t m => t.sendColl m .collFailureNotice (.failure g q.attempt err))
    (s.putColl die key ⟨q.attempt, [], some err⟩)

/-- Ingress at the root's router; `f` takes the collective of the current attempt. A failed attempt is answered with its
notice. Log entry 41, DEDUCED. -/
def State.rootIngress (s : State) (root src : BitVec 32) (g a : Nat) (i : Instr) (f : State → Coll → State) : State :=
  let die := s.args.die
  let c := die * 256 + nameCell root % 256
  match ingress (s.attemptOf c g) a with
  | .drop => s
  | .hold => s.holdColl die g ⟨i, s.args⟩
  | .accept =>
    let q := s.coll die (collKey root g) a
    match q.failed with
    | some err => s.sendColl src .collFailureNotice (.failure g a err)
    | none => f s q

/-- Starts or restarts a section's 100 µs timer. -/
def State.rootTimer (s : State) (die key a k : Nat) (q : Coll) (t : CollSect) : State :=
  (s.putColl die key { q with sects := q.sects.ins k { t with due := s.elapsed + 100000 * 45000 } }).after 100000
    .collRootTimeout { Args.empty with die := die, group := key, attempt := a, sect := k }

/-- E of R66 for the records of a section. -/
def collExponent (nmem : Nat) (l : List (Nat × BitVec 32 × Nat × Int × Bool)) : Int :=
  let x := l.foldl (fun m r => max m r.2.2.2.1) (-32768)
  let g : Nat := if nmem ≤ 1 then 1 else Nat.log2 (nmem - 1) + 2
  max (-32768) (min 32767 (x + g))

/-- `COLL_EXP_RECORD`: records whose COUNT differs end the collective with ERR 0x08 (R339, R340). -/
def execCollExpRecord (s : State) : Out :=
  .next (
    match s.args.coll with
    | .expRecord root src g a m nmem k n x nf =>
      let die := s.args.die
      let key := collKey root g
      s.rootIngress root src g a .collExpRecord fun s q =>
        let t := q.sect k
        if t.recs.any fun r => r.1 == m then s
        else
          let first := t.recs.isEmpty
          let t := { t with recs := t.recs ++ [(m, src, n, x, nf)] }
          let q := { q with sects := q.sects.ins k t }
          if t.recs.any fun r => r.2.2.1 != n then s.collFails die key g q 8
          else if t.recs.length < nmem then
            (if first then s.rootTimer die key a k q t else s.putColl die key q)
          else
            let e := collExponent nmem t.recs
            let f := t.recs.any fun r => r.2.2.2.2
            let t' : CollSect := if f then CollSect.reset else { t with e := some (e, f) }
            let s := s.rootTimer die key a k { q with sects := q.sects.ins k t' } t'
            t.recs.foldl (fun s r => s.sendColl r.2.1 .collExponentReturn (.exponent root g a k e f)) s
    | _ => s)

/-- The reduction check of R426 over the held inputs: expected and recomputed residue. -/
def reductionCheck (inputs : List Chunk) (sums : List Int) : Nat × Nat :=
  ((inputs.foldl (fun n ck => n + bitsAt ck.burgee 0 61) 0) % p61, (sums.foldl (· + ·) 0 % (p61 : Int)).toNat)

/-- The elementwise sums of a section's chunks. -/
def collSums (n : Nat) (inputs : List Chunk) : List Int :=
  inputs.foldl (fun acc ck => List.zipWith (· + ·) acc (axElems n ck.payload)) (List.replicate n 0)

/-- Records of `n` failing tries of a reduction check; the residue of a try that the router got wrong is free.
Log entry 41, DEDUCED. -/
def State.logReduction (s : State) (die g k n : Nat) (r : Nat × Nat) : State :=
  (List.range n).foldl (fun t i =>
    let got := if r.1 = r.2 then (Config.freeWord t.draws).toNat else r.2
    (t.logError die none (elogWord1 4 0 0 5 i) (BitVec.ofNat 64 (g + k * 2 ^ 32))
      (BitVec.ofNat 64 (r.1 % 2 ^ 32 + got % 2 ^ 32 * 2 ^ 32))).drawn) s

/-- All chunks of a section are held: sum, check, and send the result to every member (R337 step 4). The event says in `n`
how many tries of the sum the router gets wrong: each is logged and made again from the held inputs, and the third ends
the collective (R426). -/
def State.reduce (s : State) (die : Nat) (root : BitVec 32) (g a k : Nat) (q : Coll) (t : CollSect) : State :=
  let key := collKey root g
  let inputs := t.chunks.map Prod.snd
  let n := (inputs.headD Chunk.empty).payload.length / 8
  let sums := collSums n inputs
  let r := reductionCheck inputs sums
  let bad := if r.1 ≠ r.2 then 3 else min 3 s.args.n
  let s := s.logReduction die g k bad r
  if bad = 3 then
    (s.collFails die key g q 7).post .dieFence { Args.empty with die := die, n := 1 }
  else
    let pay := sums.flatMap fun x => toBytes 8 (wrapTo 64 x)
    let ck : Chunk := { Chunk.empty with
      stream := BitVec.ofNat 16 g
      seq := BitVec.ofNat 32 k
      fmt := BitVec.ofNat 8 fmtAX
      length := BitVec.ofNat 16 pay.length
      axexp := BitVec.ofInt 16 ((t.e.getD (0, false)).1)
      burgee := burgeeOf true pay
      hop := s.hopWord die 0 5
      origin := root
      payload := pay }
    let s := s.putColl die key { q with sects := q.sects.ins k { CollSect.reset with result := some ck } }
    t.recs.foldl (fun s m => s.sendColl m.2.1 .collResult (.result g a k ck)) s

/-- A chunk of a collective that fails its check at a point on its way (R424, R340): it is dropped and logged, an input is
asked of its member again, a result of the root, and a third failure ends the collective. `dest` is the cell it was bound
for. -/
def State.collPointFails (s : State) (die point port kind : Nat) (dest : BitVec 32) (m : CollMsg) : State :=
  let log (ck : Chunk) : State :=
    let t := s.logError die none (elogWord1 3 point port kind (burgeeSub ck))
      (BitVec.ofNat 64 (ck.stream.toNat + ck.attempt.toNat * 2 ^ 16 + ck.seq.toNat * 2 ^ 32))
      (BitVec.ofNat 64 (ck.hop.toNat + (s.hopWord die point kind).toNat * 2 ^ 32))
    if kind = 2 then t.blame port else t
  match m with
  | .input root src g a _ _ k ck =>
    if 2 ≤ ck.attempt.toNat then (log ck).sendColl root .collRootChunk (.chunkLost root src g a)
    else (log ck).sendColl src .collExponentReturn (.inputAgain root g a k (ck.attempt.toNat + 1))
  | .result g a k ck =>
    if 2 ≤ ck.attempt.toNat then (log ck).sendColl ck.origin .collRootChunk (.chunkLost ck.origin dest g a)
    else (log ck).sendColl ck.origin .collRootChunk (.resultAgain ck.origin dest g a k (ck.attempt.toNat + 1))
  | _ => s

/-- `CHUNK_HOP_CHECK` (R424): a passing chunk takes the point's identity and goes on. With `flag` a return passes, with
`slot` 1 a chunk of a collective. -/
def execChunkHopCheck (s : State) : Out :=
  .next (
    let a := s.args
    let hop := s.hopWord a.die a.n a.k
    if a.flag then s.returnOnward a.die a.c a.stream a.ack
    else if a.slot = 1 then
      (if (collChunk a.coll).all burgeeOk then s.collOnward a.die a.c (collHopped a.coll hop)
       else s.collPointFails a.die a.n 0 a.k (s.cellName a.c) a.coll)
    else if burgeeOk a.ck then s.chunkOnward a.die a.c { a.ck with hop := hop }
    else s.failChunk a.die a.n 0 a.k (burgeeSub a.ck) none a.ck)

/-- `COLL_ROOT_CHUNK`: a member's chunk, a request for the result again, or notice of a chunk lost for good. -/
def execCollRootChunk (s : State) : Out :=
  .next (
    let die := s.args.die
    match s.args.coll with
    | .input root src g a m nmem k ck => s.rootIngress root src g a .collRootChunk fun s q =>
        let key := collKey root g
        let t := q.sect k
        if !burgeeOk ck then
          let s := s.logError die none (elogWord1 3 0 0 5 (burgeeSub ck))
            (BitVec.ofNat 64 (ck.stream.toNat + ck.attempt.toNat * 2 ^ 16 + ck.seq.toNat * 2 ^ 32))
            (BitVec.ofNat 64 (ck.hop.toNat + (s.hopWord die 0 5).toNat * 2 ^ 32))
          if 2 ≤ ck.attempt.toNat then s.collFails die key g q 7
          else s.sendColl src .collExponentReturn (.inputAgain root g a k (ck.attempt.toNat + 1))
        else if t.e.isNone || t.chunks.any fun e => e.1 == m then s
        else
          let t := { t with chunks := t.chunks ++ [(m, ck)] }
          let q := { q with sects := q.sects.ins k t }
          if t.chunks.length < nmem then s.putColl die key q else s.reduce die root g a k q t
    | .resultAgain root src g a k n => s.rootIngress root src g a .collRootChunk fun s q =>
        match (q.sect k).result with
        | some ck => s.sendColl src .collResult (.result g a k { ck with attempt := BitVec.ofNat 8 n, replay := true })
        | none => s
    | .chunkLost root src g a => s.rootIngress root src g a .collRootChunk fun s q => s.collFails die (collKey root g) g q 7
    | .packetLost root src g a => s.rootIngress root src g a .collRootChunk fun s q => s.collFails die (collKey root g) g q 5
    | _ => s)

/-- `COLL_ROOT_TIMEOUT`: the section's timer has expired and was not restarted. -/
def execCollRootTimeout (s : State) : Out :=
  .next (
    let die := s.args.die
    let key := s.args.group
    match (s.die die).colls.find? fun e => e.1 == key with
    | none => s
    | some (_, q) =>
      let t := q.sect s.args.sect
      if q.attempt = s.args.attempt ∧ q.failed.isNone ∧ !t.recs.isEmpty ∧ t.due ≤ s.elapsed then
        s.collFails die key (key % 256) q 5
      else s)

end Sys2Proof.Machine
end

