-- ==== Sys2Proof/Machine/Launch.lean ====
section
/-! DEFINITION. Launching command graphs (R344-R350, R355): the launch queue, the check of a graph, its acceptance, and
`ENQ`. -/

namespace Sys2Proof.Machine
open Sys2Proof

/-! ## The check of R350 -/

def graphMagic : Nat := 0x48505247
def zeroBytes (l : List Byte) (i n : Nat) : Bool := ((l.drop i).take n).all fun b => b == 0

/-- Body fields of a node that are zero, and codes of R349. Log entry 43, DEDUCED. -/
def bodyOk (l : List Byte) (nnodes : Nat) : Bool :=
  match field l 0 1 with
  | 1 => (decide (field l 1 1 / 2 % 2 = 1) || field l 7 1 == 0)
  | 2 => zeroBytes l 40 8
  | 3 => zeroBytes l 18 6 && zeroBytes l 40 8 && decide (field l 16 1 ≤ 1) && decide (field l 17 1 ≤ 1)
  | 4 => zeroBytes l 40 8 && decide (field l 16 1 ≤ 5) && decide (field l 17 1 ≤ 2)
      && decide (field l 18 2 ≤ field l 20 2) && decide (field l 20 2 < nnodes)
  | 5 => zeroBytes l 9 7 && zeroBytes l 24 24
  | 6 => zeroBytes l 8 40
  | _ => false

/-- Number of successors: NSUCC, or for a COND its true and false counts together. -/
def nsucc (l : List Byte) : Nat := if field l 0 1 = 4 then field l 4 1 % 16 + field l 4 1 / 16 else field l 4 1

/-- Log entry 43, DEDUCED. -/
def nodeOk (nnodes : Nat) (l : List Byte) : Bool :=
  decide (field l 1 1 < 4) && (field l 0 1 == 1 || (field l 1 1 < 2 && zeroBytes l 5 3))
    && decide (field l 2 2 ≤ 512) && decide (nsucc l ≤ 8)
    && ((List.range 8).all fun i =>
      if i < nsucc l then decide (field l (48 + 2 * i) 2 < nnodes) else field l (48 + 2 * i) 2 == 0)
    && bodyOk l nnodes

/-- Log entry 43, DEDUCED. -/
def headerOk (l : List Byte) : Bool :=
  field l 0 4 == graphMagic && decide (1 ≤ field l 4 2) && decide (field l 4 2 ≤ 512) && decide (field l 6 1 ≤ 1)
    && zeroBytes l 7 1 && zeroBytes l 16 48

/-! ## Acceptance -/

/-- Takes one dependence-table entry per node; nodes without dependences become READY. -/
def State.acceptGraph (s : State) (tag prio : Nat) (compl : W64) (dev : Bool) (nodes : List (List Byte)) : State :=
  let k := s.pkg.nextGraph
  let g : Graph := ⟨tag, prio, compl, dev,
    nodes.map fun l => { GNode.reset with bytes := l, st := .loaded, count := field l 2 2, readyAt := s.elapsed }, none⟩
  let s := s.modPkg fun p => { p with graphs := p.graphs.ins k g, nextGraph := k + 1 }
  ((List.range nodes.length).foldl (fun t n => t.promote k n) s).settleGraph k

/-- Bytes of the staging window (R344): offset `o` lies in MD0 cell o[25:18]. -/
def stagingKey (o : Nat) : Nat := flat (o / 2 ^ 18 % 256) 0 (0x1C0000 + o % 2 ^ 18)
def State.stagingRead (s : State) (o n : Nat) : List Byte := (List.range n).map fun i => s.byte (stagingKey (o + i))

/-- The outcome of looking at a graph whose bytes are at hand. -/
inductive Accept where
  | reject | wait | take
  deriving DecidableEq, Repr

def Pkg.judge (p : Pkg) (nodes : List (List Byte)) (ok : Bool) : Accept :=
  if !ok || !(nodes.all (nodeOk nodes.length)) then .reject
  else if p.depFree < nodes.length then .wait else .take

/-- `GRAPH_ACCEPT`: the launch at the head of the queue is rejected, waits for room, or is accepted.
Log entry 43, DEDUCED. -/
def execGraphAccept (s : State) : Out :=
  .next (
    match s.pkg.launches with
    | [] => s
    | w :: rest =>
      let o := bitsAt w 0 26
      let h := s.stagingRead o 64
      let nodes := (List.range (field h 4 2 % 513)).map fun i => s.stagingRead (o + 64 + 64 * i) 64
      let pop (s : State) : State :=
        let s := s.modPkg fun p => { p with launches := rest }
        if rest.isEmpty then s else s.post .graphAccept Args.empty
      let compl : W64 := BitVec.ofNat 64 (field h 8 8)
      match s.pkg.judge nodes (headerOk h) with
      | .reject => (pop s).writeCompl compl (field h 6 1 % 2 == 1) (bitsAt w 32 16) 2 0xFFFF
      | .wait => s
      | .take => (pop s).acceptGraph (bitsAt w 32 16) (bitsAt w 26 2) compl (field h 6 1 % 2 == 1) nodes)

/-- `LAUNCH` (R345): the write enters the queue of 16, or is discarded and counted. -/
def execLaunch (s : State) : Out :=
  .next (
    let v := s.args.v
    if 16 ≤ s.pkg.launches.length ∨ bitsAt v 28 4 ≠ 0 ∨ bitsAt v 48 16 ≠ 0 ∨ bitsAt v 0 6 ≠ 0 then
      s.modPkg fun p => { p with lost := true, lostCnt := min (p.lostCnt + 1) 255 }
    else (s.modPkg fun p => { p with launches := p.launches ++ [v] }).post .graphAccept Args.empty)

/-- `LAUNCH_STATUS` (R346). -/
def Pkg.launchStatus (p : Pkg) : W64 :=
  BitVec.ofNat 64 ((16 - p.launches.length) + p.lost.toNat * 2 ^ 8 + p.lostCnt * 2 ^ 16 + p.depFree * 2 ^ 24)

/-- A rejected `ENQ` with no record to write goes to the die fault buffer as DESCRIPTOR. -/
def State.enqFault (s : State) (c : Nat) (m : Cmd) : State := s.postFault c m.ctx 4 5 false 0 0 0

/-- Whether `n` bytes can be read at a global address. -/
def State.readableAt (s : State) (a : W64) (n : Nat) : Bool := (s.engineFault ⟨a, n, 1, false, false, false, true, true⟩).isNone

/-- `ENQ` taken from the engine's queue (R355): a graph header or a single node. None: it waits for room. -/
def State.enqTake (s : State) (c : Nat) (m : Cmd) : Option State :=
  let prio := bitsAt m.w0 8 2
  let h := s.placeRead m.w1 64
  if !s.readableAt m.w1 64 then some (s.enqFault c m)
  else if field h.1 0 4 = graphMagic then
    let n := field h.1 4 2 % 513
    let body := h.2.placeRead (m.w1 + 64) (64 * n)
    let nodes := (List.range n).map fun i => (body.1.drop (64 * i)).take 64
    let compl : W64 := BitVec.ofNat 64 (field h.1 8 8)
    match s.pkg.judge nodes (headerOk h.1 && s.readableAt (m.w1 + 64) (64 * n)) with
    | .wait => none
    | .take => some (body.2.acceptGraph (bitsAt m.w0 16 16) prio compl (field h.1 6 1 % 2 == 1) nodes)
    | .reject =>
      if compl = 0 then some (body.2.enqFault c m)
      else some (body.2.writeCompl compl (field h.1 6 1 % 2 == 1) (bitsAt m.w0 16 16) 2 0xFFFF)
  else
    match s.pkg.judge [h.1] (field h.1 2 2 == 0 && nsucc h.1 == 0) with
    | .wait => none
    | .take => some (h.2.acceptGraph (bitsAt m.w0 16 16) prio 0 false [h.1])
    | .reject => some (h.2.enqFault c m)

end Sys2Proof.Machine
end

