-- ==== Sys2Proof/Machine/Engines.lean ====
section
/-! DEFINITION. `XCMD` (R172, R263) and the commands of the sequencer, collective, halyard, trace and dispatcher engines
(R266-R276). -/

namespace Sys2Proof.Machine
open Sys2Proof

/-! ## Issue -/

/-- Queue depths of R263. -/
def engineDepth (e : Nat) : Nat := if e = 0 then 16 else if e = 3 ∨ e = 4 then 4 else 8

/-- Codes of R263. -/
def codeOk (e code : Nat) : Bool :=
  decide (1 ≤ code) && decide (code ≤ (match e with
    | 0 => 3
    | 1 => 3
    | 2 => 2
    | 3 => 3
    | 4 => 2
    | _ => 1))

/-- Bits of word 0 above the code that a command uses. -/
def word0Mask (e code : Nat) : W64 :=
  match e, code with
  | 1, 2 => 0xF00
  | 1, 3 => 0xF00
  | 2, 2 => 0xFF00
  | 3, 1 => 0xFFF700
  | 4, 1 => 0xFFFFFFFF00
  | 5, 1 => 0xFFFF0300
  | _, _ => 0

/-- A descriptor or record place in scratch carried in word 1. Log entry 38, DEDUCED. -/
def placeOk (c : Nat) (w1 : W64) (n align : Nat) : Bool := w1.toNat % align == 0 && inScratch c w1.toNat n

/-- Checks of `HPAIR` at issue (R270); the HALYARD bit of its port is not among them. Log entry 119, DESIGN CHOICE. -/
def State.hpairOk (s : State) (c : Nat) (w0 w1 : W64) : Bool :=
  let k := s.cell c
  let n := bitsAt w0 8 3
  let cpm := bitsAt w0 20 4 + 1
  w1 == 0 && decide (2 ≤ n) && decide (n ≤ 4) && k.stageId.getLsbD 32
    && (k.tag (bitsAt w0 12 4)).slots == n * cpm
    && (k.port (bitsAt w0 16 4)).slots != 0 && (k.port (bitsAt w0 16 4)).dest == s.cellName (bonded c)
    && !k.hal.paired && k.hal.pairing.isNone

/-- Fields carried in the words (R263): a breach is an INFO 43 case. Log entry 38, DEDUCED. -/
def State.xcmdOk (s : State) (e : Nat) (w0 w1 : W64) : Bool :=
  let c := s.focus.cell
  let code := w0.toNat % 256
  (w0 &&& ~~~(word0Mask e code ||| 0xFF)) == 0 &&
  (match e, code with
    | 0, _ => placeOk c w1 32 32
    | 1, 1 => placeOk c w1 64 64
    | 1, 2 => decide (w1.toNat < 2)
    | 1, _ => true
    | 2, 1 => placeOk c w1 16 8
    | 2, _ => true
    | 3, 1 => s.hpairOk c w0 w1
    | 3, 2 => w1 == 0
    | 3, _ => placeOk c w1 32 32
    | 4, 1 => bitsAt w0 16 24 != 0 && aSpace w1 == 1 &&
        (s.accessFault ⟨w1, 4096 * bitsAt w0 16 24, 4096, true, false, false, true, true⟩).isNone
    | 4, _ => w1 == 0 || (s.objError w1 8 8).isNone
    | _, _ => s.was.supervisor || decide (s.was.prio.toNat ≤ bitsAt w0 8 2))

/-- Condition tokens of a stream not yet used up by delivered units, those still in the engine's queue included.
Log entry 117, DESIGN CHOICE. -/
def Cell.tokensHeld (k : Cell) (n : Nat) : Nat :=
  (match k.seq n with
    | some q => q.released - q.outerOf (q.taken * q.unit)
    | none => 0) +
  ((k.queue 1).filter fun m => m.w0.toNat % 256 == 2 && bitsAt m.w0 8 4 == n && m.w1.getLsbD 0).length

/-- What holds an `XCMD`: a full queue of its engine, or a full token queue (R267). Log entry 38, DEDUCED. -/
def State.xcmdHold (s : State) (e : Nat) (w0 : W64) : Option Hold :=
  let k := s.here
  if engineDepth e ≤ (k.queue e).length then some (.engine e)
  else if e = 1 ∧ w0.toNat % 256 = 2 ∧ 8 ≤ k.tokensHeld (bitsAt w0 8 4) then some (.tokens (bitsAt w0 8 4))
  else none

/-- `XCMD`: one word of it, shared by the commands of an engine. Log entry 93, DEDUCED. -/
def State.xcmd (s : State) (e : Nat) (a b : BitVec 6) : State :=
  let w0 := s.rs a
  let w1 := s.rs b
  match s.xcmdHold e w0 with
  | some h => s.block h
  | none =>
    if !codeOk e (w0.toNat % 256) then s.illegal 7
    else if !s.xcmdOk e w0 w1 then s.illegal 43
    else
      let c := s.focus.cell
      let m : Cmd := ⟨s.here.nextId, s.focus.ctx, s.ctx.task, s.was.prio.toNat, s.was.supervisor, w0, w1, none, none⟩
      (((s.modHere fun k => { k with nextId := k.nextId + 1 }).modQueue c e fun q => q ++ [m]).modCtx fun x => { x with busy := x.busy.ins e (x.busy.get 0 e + 1) }).post
        (if e = 0 then .copyComplete else .engineCommandComplete) { Args.empty with c := c, e := e }

def execCopy (a b : BitVec 6) (s : State) : Out := .next (s.xcmd 0 a b)
/-- Log entry 93, DEDUCED. -/
def execCopyh (s : State) : Out := .next (s.xcmd 0 s.args.a s.args.b)
/-- Log entry 93, DEDUCED. -/
def execFill (s : State) : Out := .next (s.xcmd 0 s.args.a s.args.b)
def execSeqdef (a b : BitVec 6) (s : State) : Out := .next (s.xcmd 1 a b)
/-- Log entry 93, DEDUCED. -/
def execSeqcond (s : State) : Out := .next (s.xcmd 1 s.args.a s.args.b)
/-- Log entry 93, DEDUCED. -/
def execSeqstop (s : State) : Out := .next (s.xcmd 1 s.args.a s.args.b)
def execGrpdef (a b : BitVec 6) (s : State) : Out := .next (s.xcmd 2 a b)
/-- Log entry 93, DEDUCED. -/
def execGrpabort (s : State) : Out := .next (s.xcmd 2 s.args.a s.args.b)
def execHpair (a b : BitVec 6) (s : State) : Out := .next (s.xcmd 3 a b)
/-- Log entry 93, DEDUCED. -/
def execHpennant (s : State) : Out := .next (s.xcmd 3 s.args.a s.args.b)
/-- Log entry 93, DEDUCED. -/
def execHstat (s : State) : Out := .next (s.xcmd 3 s.args.a s.args.b)
def execTrcfg (a b : BitVec 6) (s : State) : Out := .next (s.xcmd 4 a b)
/-- Log entry 93, DEDUCED. -/
def execTrflush (s : State) : Out := .next (s.xcmd 4 s.args.a s.args.b)
def execEnq (a b : BitVec 6) (s : State) : Out := .next (s.xcmd 5 a b)

/-! ## Sequencer commands (R266, R267) -/

/-- The loops of a descriptor, innermost first. Log entry 30, DEDUCED. -/
def descLoops (l : List Byte) : List SeqLoop :=
  (List.range (field l 1 1)).map fun n =>
    ⟨field l (24 + 8 * n) 4, field l (28 + 8 * n) 1, (BitVec.ofNat 16 (field l (30 + 8 * n) 2)).toInt⟩

/-- Whether a SEQDEF descriptor is good, beside the loop counters that other streams use. Log entry 30, DEDUCED. -/
def seqDescOk (t : Option Tensor) (others : Nat) (l : List Byte) : Bool :=
  let n := field l 1 1
  decide (field l 0 1 < 16) && decide (1 ≤ n) && decide (n ≤ 4) && decide (field l 2 1 ≤ 2) && decide (field l 3 1 ≤ 1)
    && zeroBytes l 6 2 && zeroBytes l 60 4 && decide (1 ≤ field l 56 4)
    && ((List.range n).all fun i =>
      decide (1 ≤ field l (24 + 8 * i) 4) && decide (field l (28 + 8 * i) 1 ≤ 3) && zeroBytes l (29 + 8 * i) 1)
    && decide (others + n ≤ 16)
    && (field l 2 1 != 0 || (match t with
      | some t => field l 56 4 * elemBytes t.fmt == 512
      | none => true))

/-- SEQDEF. One that fails its checks leaves a stream that is already defined as it was. Log entry 39, DEDUCED. -/
def State.seqDef (s : State) (c : Nat) (m : Cmd) : State :=
  let l := s.readBytes (flat c 0 (bitsAt m.w1 0 26)) 64
  let n := field l 0 1
  let others := ((s.cell c).seqs.filter fun e => e.1 != n).foldl (fun k e => k + e.2.loops.length) 0
  let t := ((s.die (dieOf c)).tensors.find? fun e => e.1 == field l 4 2).map Prod.snd
  if !seqDescOk t others l then s.logDescriptor c 1 (s.addrOf c 0 (bitsAt m.w1 0 26))
  else
    let old := (s.cell c).seq n
    let q : SeqStream :=
      { target := field l 2 1
        cond := field l 3 1 == 1
        tensor := BitVec.ofNat 16 (field l 4 2)
        base := (List.range 4).map fun i => field l (8 + 4 * i) 4
        loops := descLoops l
        unit := field l 56 4
        emitted := 0
        taken := 0
        queue := []
        tokens := []
        released := 0
        ended := false
        stopped := none
        waiting := (old.map SeqStream.waiting).getD []
        entry := none
        walk := none
        got := 0
        part := []
        cut := none }
    (s.modCell c fun k => { k with seqs := k.seqs.ins n q }).seqPoke c n

/-- Sequencer commands (R266, R267). `SEQCOND` acts on COND streams alone. Log entry 118, DESIGN CHOICE. -/
def State.seqCommand (s : State) (c : Nat) (m : Cmd) : State :=
  let n := bitsAt m.w0 8 4
  match m.w0.toNat % 256 with
  | 1 => s.seqDef c m
  | 2 =>
    match (s.cell c).seq n with
    | some q =>
      if q.cond then
        ((s.modSeq c n fun q => { q with tokens := q.tokens ++ [m.w1.getLsbD 0] }.applyTokens).seqServe c n 16).seqPoke c n
      else s
    | none => s
  | _ => ((s.modSeq c n SeqStream.stop).seqServe c n 16)

/-! ## Collective commands (R268, R269, R335) -/

/-- Log entry 39, DEDUCED. -/
def grpDescOk (me : BitVec 32) (c off : Nat) (l : List Byte) (members : List (BitVec 32)) : Bool :=
  let n := field l 1 1
  decide (2 ≤ n) && decide (n ≤ 64) && (field l 2 1 == 1 || field l 2 1 == 3) && field l 3 1 == 0
    && decide (field l 4 1 < n) && zeroBytes l 5 3 && inScratch c off (16 + 4 * n)
    && (members.all fun w => w.extractLsb' 21 11 == 0) && members.getD (field l 4 1) 0 == me
    && members.eraseDups.length == n

/-- Log entry 39, DEDUCED. -/
def State.grpDef (s : State) (c : Nat) (m : Cmd) : State :=
  let off := bitsAt m.w1 0 26
  let l := s.readBytes (flat c 0 off) (16 + 4 * 64)
  let n := field l 1 1
  let g := field l 0 1
  let members : List (BitVec 32) := (List.range n).map fun i => BitVec.ofNat 32 (field l (16 + 4 * i) 4)
  if !grpDescOk (s.cellName c) c off l members then
    ((s.ldredFails c g 6).modCell c fun k => { k with groups := k.groups.del g }).logDescriptor c 2 (s.addrOf c 0 off)
  else
    let s := s.ldredFails c g 6
    let d : Group := ⟨n, BitVec.ofNat 8 (field l 2 1), field l 4 1, BitVec.ofNat 64 (field l 8 8), members,
      BitVec.ofNat 8 (s.attemptOf c g), none⟩
    s.modCell c fun k => { k with groups := k.groups.ins g d }

def State.collCommand (s : State) (c : Nat) (m : Cmd) : State :=
  match m.w0.toNat % 256 with
  | 1 => s.grpDef c m
  | _ =>
    let g := bitsAt m.w0 8 8
    ((s.ldredFails c g 6).modGroup c g fun d => { d with attempt := d.attempt + 1 }).releaseHeld (dieOf c)

/-! ## Halyard commands (R270-R274) -/

/-- Takes a pennant at the sender side: new ones are kept, duplicates counted (R273). -/
def State.takePennant (s : State) (c : Nat) (m : BitVec 16) : State :=
  (s.raiseEvent c 9).modCell c fun k =>
    let x := haNext k (k.port k.hal.oport)
    if k.hal.held.contains m || decide (2 ^ 15 ≤ (m - x).toNat) then
      { k with hal := { k.hal with dups := min (k.hal.dups + 1) 0xFFFF } }
    else { k with hal := { k.hal with held := k.hal.held ++ [m] } }

/-- `PENNANT_ARRIVAL`: one that comes before this cell's `HPAIR` has completed is kept, up to four. -/
def execPennantArrival (s : State) : Out :=
  .next (
    let c := s.args.c
    let m : BitVec 16 := BitVec.ofNat 16 s.args.n
    if (s.cell c).hal.paired then s.takePennant c m
    else s.modCell c fun k => { k with hal := { k.hal with early := (k.hal.early ++ [m]).take 4 } })

/-- `HPAIR_COMPLETE`: the pair stands, pennants 0 to N − 2 go out, and pennants that came early are taken. -/
def execHpairComplete (s : State) : Out :=
  .next (
    let c := s.args.c
    match (s.cell c).hal.pairing with
    | none => s
    | some m =>
      let early := (s.cell c).hal.early
      let s := s.modCell c fun k =>
        let p := bitsAt m.w0 16 4
        { k with
          hal := { Halyard.reset with
            paired := true
            n := bitsAt m.w0 8 3
            itag := bitsAt m.w0 12 4
            oport := p
            cpm := bitsAt m.w0 20 4 + 1 }
          tags := k.tags.ins (bitsAt m.w0 12 4) { k.tag (bitsAt m.w0 12 4) with halyard := true }
          ports := k.ports.ins p { k.port p with mbBase := 0, renumber := false } }
      let s := (List.range (bitsAt m.w0 8 3 - 1)).foldl (fun t _ => t.issuePennant c) s
      let s := early.foldl (fun t m => t.takePennant c m) s
      let s := s.cmdDone c 3 m
      ((s.cell c).queue 3).foldl (fun t _ => t.post .engineCommandComplete { Args.empty with c := c, e := 3 }) s)

/-- The next expected micro-batch (R274): the one of the receiving tag's EXP_C; before the numbers of a re-established
stream are known, the one after those it drops. Log entry 42, DEDUCED. -/
def Cell.haExpected (k : Cell) : BitVec 16 :=
  let h := k.hal
  let g := k.tag h.itag
  if !h.paired then 0
  else match h.base with
    | some b => b + BitVec.ofNat 16 (g.expC.toNat / max h.cpm 1)
    | none => (g.dropTo.map fun d => d + 1).getD 0

/-- The 32-byte status record of `HSTAT`; without a pair its base is by port 0. Log entry 42, DEDUCED. Log entry 120,
DESIGN CHOICE. -/
def hstatBytes (k : Cell) : List Byte :=
  let h := k.hal
  let x := haNext k (k.port h.oport)
  let st := (List.range 4).foldl (fun w i => w + h.slots.get 0 i * 2 ^ (4 * i)) 0
  let held := (List.range 16).foldl (fun w i => if h.held.contains (x + BitVec.ofNat 16 i) then w + 2 ^ i else w) 0
  toBytes 4 st ++ toBytes 4 (h.nextPennant.toNat + k.haExpected.toNat * 2 ^ 16) ++ toBytes 4 held ++ toBytes 2 x.toNat
    ++ toBytes 2 h.dups ++ zeros 16

def State.halCommand (s : State) (c : Nat) (m : Cmd) : State :=
  match m.w0.toNat % 256 with
  | 2 =>
    let h := (s.cell c).hal
    (List.range h.n).foldl (fun t i => if h.slots.get 0 i = 1 then t.sendPennant c (h.slotMb.get 0 i) else t) s
  | _ => s.engineWrite (flat c 0 (bitsAt m.w1 0 26)) (hstatBytes (s.cell c))

/-! ## Trace commands (R275, R459) -/

/-- `TRCFG`, which discards what the engine still holds, and `TRFLUSH`. Log entry 121, DESIGN CHOICE. -/
def State.traceCommand (s : State) (c : Nat) (m : Cmd) : State :=
  match m.w0.toNat % 256 with
  | 1 => s.modCell c fun k => { k with trace :=
      { Trace.reset with mask := BitVec.ofNat 8 (bitsAt m.w0 8 8), size := bitsAt m.w0 16 24, base := m.w1 } }
  | _ =>
    let s := (List.range 66).foldl (fun t _ => t.traceWriteOne c) s
    if m.w1 = 0 then s else s.engineAdd (if m.w1.extractLsb' 43 21 == 0 then s.localAddr c m.w1 else m.w1) 1

/-! ## Completion -/

/-- `ENGINE_COMMAND_COMPLETE`: the command at the head of an engine's queue starts and, `HPAIR` apart, completes. -/
def execEngineCommandComplete (s : State) : Out :=
  .next (
    let c := s.args.c
    let e := s.args.e
    match (s.cell c).queue e with
    | [] => s
    | m :: _ =>
      let t := s.modQueue c e fun q => q.drop 1
      match e with
      | 1 => if (List.range 4).any fun x => s.recordHeld c x 1 then s else (t.seqCommand c m).cmdDone c e m
      | 2 => (t.collCommand c m).cmdDone c e m
      | 3 =>
        if (s.cell c).hal.pairing.isSome then s
        else if m.w0.toNat % 256 = 1 then
          (t.modCell c fun k => { k with hal := { k.hal with pairing := some m } }).afterCycles 16 .hpairComplete
            { Args.empty with c := c }
        else (t.halCommand c m).cmdDone c e m
      | 4 => (t.traceCommand c m).cmdDone c e m
      | 5 =>
        if (List.range 4).any fun x => s.recordHeld c x 5 then s
        else
          match t.enqTake c m with
          | some t => t.cmdDone c e m
          | none => s
      | _ => s)

end Sys2Proof.Machine
end

