-- ==== Sys2Proof/Machine/Tasks.lean ====
section
/-! DEFINITION. Tasks (R21-R42): starts by arrival and by `RUN`, retirement, eviction with its save area (R365), resume,
and power grants (R178, R407). -/

namespace Sys2Proof.Machine
open Sys2Proof

/-! ## Binding (R24-R27) -/

/-- Ring slots of a tag whose chunks satisfy a condition, in sequence order from ACK_C. -/
def TagSt.slotsWith (t : TagSt) (f : SlotUse → Bool) : List Nat :=
  ((List.range (t.expC - t.ackC).toNat).map fun i => t.ackC + BitVec.ofNat 32 i).filterMap fun n =>
    let r := t.at_ (t.slotOf n)
    if f r.use && r.seq == n then some (t.slotOf n) else none

def TagSt.carriedFor (t : TagSt) (h i : Nat) : List Nat := t.slotsWith fun u => u == .carried h i
def TagSt.fresh (t : TagSt) : List Nat := t.slotsWith fun u => u == .resident

/-- Contexts that hold tasks of a handler. -/
def Cell.holding (k : Cell) (h : Nat) : Nat :=
  ((List.range 4).filter fun x => (k.ctx x).st != .free && (k.ctx x).handler.toNat == h).length

/-- Eligibility of an ARRIVAL handler (R24). An input of which carried slots alone reach the count (R33 forbids it) makes
the handler not eligible. Log entry 106, DEDUCED. -/
def Cell.eligible (k : Cell) (h : Nat) (e : Handler) : Bool :=
  e.arrival && !e.inputs.isEmpty && decide (k.holding h < e.maxctx) &&
  (List.range e.inputs.length).all fun i =>
    let d := e.inputs.getD i (0, 1, false)
    let t := k.tag d.1
    let carried := (t.carriedFor h i).length
    let fresh := t.fresh.length
    decide (d.2.1 ≤ carried + fresh) && decide (carried < d.2.1) && decide (1 ≤ fresh)

/-- FREE contexts of a cell. -/
def Cell.frees (k : Cell) : List Nat := (List.range 4).filter fun x => (k.ctx x).st == .free

/-- The slots an input binds: carried first, then the oldest unbound, up to its count. -/
def Cell.inputSlots (k : Cell) (h i : Nat) (d : Nat × Nat × Bool) : List Nat :=
  ((k.tag d.1).carriedFor h i ++ (k.tag d.1).fresh).take d.2.1

/-- Binds an input's slots to a context. -/
def State.bindInput (s : State) (c x h i : Nat) (d : Nat × Nat × Bool) : State :=
  let slots := (s.cell c).inputSlots h i d
  let s := s.modTag c d.1 fun t => slots.foldl (fun t sl =>
    { t.put sl { t.at_ sl with use := .bound x } with newest := some ((t.at_ sl).mb, (t.at_ sl).flags.getLsbD 0) }) t
  let s := s.modCtxOf c x fun y => { y with bound := y.bound ++ slots.map fun sl => ⟨i, d.1, sl, false⟩ }
  let g := (s.cell c).tag d.1
  if !g.halyard then s
  else
    slots.foldl (fun s sl =>
      let r := g.at_ sl
      if r.seq.toNat % max (s.cell c).hal.cpm 1 = 0 then
        (s.modCell c fun k =>
          let g := haSlot k.hal r.seq
          { k with hal := { k.hal with
            slots := if k.hal.slots.get 0 g = 3 then k.hal.slots.ins g 4 else k.hal.slots
            expected := r.mb + 1 } }).nextPennant c
      else s) s

/-- The field of `TASK_SLOTS` of an input. -/
def slotField (d : Nat × Nat × Bool) (first : Nat) : Nat := 2 ^ 15 + d.1 * 2 ^ 11 + (d.2.1 - 1) * 2 ^ 6 + first

/-- `TASK_SLOTS` of an arrival start. -/
def Cell.taskSlots (k : Cell) (h : Nat) (e : Handler) : W64 :=
  BitVec.ofNat 64 ((List.range e.inputs.length).foldl (fun w i =>
    let d := e.inputs.getD i (0, 1, false)
    w + slotField d ((k.inputSlots h i d).headD 0) * 2 ^ (16 * i)) 0)

/-- `TASK_ARG0` and `TASK_ARG1` of an arrival start: from the first newly bound chunk of input 0. -/
def Cell.arrivalArgs (k : Cell) (e : Handler) : W64 × W64 :=
  let d := e.inputs.headD (0, 1, false)
  let t := k.tag d.1
  let r := t.at_ (t.fresh.headD 0)
  (r.seq.setWidth 64, BitVec.ofNat 64 (r.mb.toNat + r.attempt.toNat * 2 ^ 16 + r.flags.toNat * 2 ^ 24))

/-! ## Task start (R28) -/

/-- The bank of a context at a task start, at cell clock `now`: its vector registers are left as they are. -/
def Ctx.startBank (old : Ctx) (x task : Nat) (h : Nat) (e : Handler) (disp : Bool) (prio : Nat) (args : List W64)
    (slots : W64) (carried : Bool) (node : Option (Nat × Nat)) (now : Nat) : Ctx :=
  { Ctx.reset with
    st := .ready
    pc := e.entry
    v := old.v
    s := if e.stackBase = 0 ∧ e.stackSize = 0 then []
      else [(61, e.stackBase + BitVec.ofNat 64 (x + 1) * e.stackSize)]
    supervisor := e.supervisor
    handler := BitVec.ofNat 4 h
    prio := BitVec.ofNat 2 prio
    disp := disp
    carried := carried
    fpctl := e.fpctl0 &&& 0xF
    rwPerm := e.rwperm0
    rwPermClosed := [(0, e.rwperm0), (1, e.rwperm0)]
    rwOrigin := originWord []
    taskArg := [(0, args.getD 0 0), (1, args.getD 1 0), (2, args.getD 2 0), (3, args.getD 3 0)]
    taskSlots := slots
    window := old.closeWindow.window
    lastM := [(0, now), (1, now)]
    task := task
    node := node }

/-- Word 0 of a TASK record (R458). -/
def taskWord (x : Ctx) (ends failed : Bool) : W64 :=
  BitVec.ofNat 64 ((x.taskArg.get 0 0).toNat % 2 ^ 32 + x.handler.toNat * 2 ^ 32 + x.disp.toNat * 2 ^ 36
    + ends.toNat * 2 ^ 37 + failed.toNat * 2 ^ 38)

/-- The recorder's part in a task start (R465, R466, R468), before the start binds its chunks: HSEQ counts the chunks of a
task that is not logged as unbound. Log entry 50, DEDUCED. -/
def State.recStart (s : State) (c x h : Nat) (e : Handler) (args : List W64) (slots : W64) : State :=
  if s.replaying c then s.recAdvance c
  else if s.recording c then s.recLog c 1 (x + h * 4) false e.entry 0 (args.getD 0 0) slots
  else s

/-- Starts a task on context `x`; `args` and `slots` are already known. -/
def State.startTask (s : State) (c x h : Nat) (e : Handler) (disp : Bool) (prio : Nat) (args : List W64) (slots : W64)
    (carried : Bool) (node : Option (Nat × Nat)) : State :=
  let task := (s.cell c).nextTask + 1
  let now := s.clock c
  let s := (s.modCell c fun k => { k with nextTask := task, started := s.cycle + 1 }).modCtxOf c x fun old =>
    { old.startBank x task h e disp prio args slots carried node now with bound := old.bound }
  s.trace c 2 (some x) e.entry 0 (taskWord (s.ctxOf c x) false false) slots

/-- Whether the recorder's log lets a start happen (R468): the next record is this start on this context.
Log entry 96, DEDUCED. -/
def State.replayAllows (s : State) (c x h : Nat) (slots : W64) : Bool :=
  if !s.replaying c then true
  else
    let r := s.recNextBytes c
    field r 8 1 == 1 && field r 9 1 == x + h * 4 && field r 24 8 == slots.toNat

/-- The FREE context that a start takes: the spec does not say which, so a free value chooses. In replay it is the logged
one. Log entry 47, DESIGN CHOICE. -/
def State.pickCtx (s : State) (c : Nat) (l : List Nat) : Nat × State :=
  if s.replaying c then (field (s.recNextBytes c) 9 1 % 4, s)
  else
    match l with
    | [x] => (x, s)
    | _ => (l.getD ((Config.freeWord s.draws).toNat % max l.length 1) 0, s.drawn)

/-- A `RUN` task starts. Log entry 48, DEDUCED. -/
def State.startRun (s : State) (c : Nat) (r : Nat × Nat × Nat × Nat × List W64) : State :=
  let k := s.cell c
  let p := s.pickCtx c k.frees
  match k.handlers.find? fun e => e.1 == r.2.2.1 with
  | none => s
  | some (h, e) =>
    if !s.replayAllows c p.1 h 0 then s
    else
      let s := p.2.modCell c fun k => { k with runs := k.runs.erase r }
      let s := (s.modCtxOf c p.1 fun y => { y with bound := [] }).recStart c p.1 h e r.2.2.2.2 0
      s.startTask c p.1 h e true r.2.2.2.1 r.2.2.2.2 0 false (some (r.1, r.2.1))

/-- An ARRIVAL task starts (R26). -/
def State.startArrival (s : State) (c h : Nat) (e : Handler) : State :=
  let k := s.cell c
  let p := s.pickCtx c k.frees
  let x := p.1
  let slots := k.taskSlots h e
  if !s.replayAllows c x h slots then s
  else
    let a := k.arrivalArgs e
    let carried := (List.range e.inputs.length).any fun i =>
      !((k.tag (e.inputs.getD i (0, 1, false)).1).carriedFor h i).isEmpty
    let s := (p.2.modCtxOf c x fun y => { y with bound := [] }).recStart c x h e [a.1, a.2, e.arg2, e.arg3] slots
    let s := (List.range e.inputs.length).foldl (fun t i => t.bindInput c x h i (e.inputs.getD i (0, 1, false))) s
    s.startTask c x h e false k.startPrio.toNat [a.1, a.2, e.arg2, e.arg3] slots carried none

/-- Logical cells of a rectangle (R9). -/
def rectCells (origin w h : Nat) : List Nat :=
  (List.range h).flatMap fun i => (List.range w).map fun j => origin + 16 * i + j

/-- Whether an evicted task could resume now: its context is FREE, and its tiles are not owned by others.
Log entry 48, DEDUCED. -/
def Cell.mayResume (k : Cell) (v : Saved) : Bool :=
  (k.ctx v.num).st == .free && v.tiles.all fun t =>
    match ((k.mat t.1).tile t.2.1).owner with
    | none => true
    | some o => decide (4 ≤ o)

/-- The first of the least keys. -/
def leastBy {α : Type} (f : α → Nat) : List α → Option α
  | [] => none
  | a :: t => match leastBy f t with
    | none => some a
    | some b => if f b < f a then some b else some a

/-- The cells of a rectangle of a die, by ring position. -/
def regionCells (d origin w h : Nat) : List Nat :=
  (List.range (w * h)).map fun p => d * 256 + ringCell origin w p

/-- Cells of the regions of a die that a rectangle meets, beside its own. -/
def State.overlapped (s : State) (d : Nat) (cells : List Nat) : List Region :=
  (s.die d).regions.filter fun r => (regionCells d r.origin r.w r.h).any fun c => cells.contains c

/-- Every cell that a load at a rectangle touches: all contexts there are evicted before it (R38). -/
def State.touched (s : State) (d origin w h : Nat) : List Nat :=
  let cells := regionCells d origin w h
  (cells ++ (s.overlapped d cells).flatMap fun r => regionCells d r.origin r.w r.h).eraseDups

/-- Whether a cell waits for a configuration load: no task starts or resumes there until it ends (R38, R358). -/
def State.underLoad (s : State) (c : Nat) : Bool :=
  (s.die (dieOf c)).loads.any fun l => (s.touched (dieOf c) l.origin l.w l.h).contains c

/-! ## Pre-emption (R25, R38) -/

/-- The victim of a pre-emption on a cell (R38): lowest priority, most recent start. One that has issued `ENDT` is not
evicted: its context becomes FREE and serves the incoming task (R42). -/
def Cell.victim (k : Cell) : Option Nat :=
  leastBy (fun x => (3 - (k.ctx x).prio.toNat) * 2 ^ 64 + (2 ^ 64 - 1 - (k.ctx x).task))
    ((List.range 4).filter fun x => (k.ctx x).st != .free)

/-- Tiles that contexts of a cell own. -/
def Cell.tilesOf (k : Cell) (xs : List Nat) : Nat :=
  [0, 1].foldl (fun n e => n + ((k.mat e).tiles.filter fun t => match t.2.owner with
    | some o => xs.contains o
    | none => false).length) 0

/-- Asks for the eviction of contexts of a cell. -/
def State.askEvict (s : State) (c : Nat) (xs : List Nat) : State :=
  xs.foldl (fun t x => if (t.ctxOf c x).st = .free then t else t.post .preemptEvict { Args.empty with c := c, x := x, n := (t.ctxOf c x).task + 1 }) s

/-- A start of priority `prio` waits for want of a FREE context: the dispatcher evicts a context whose task runs at a
priority numerically greater, unless one is leaving already, or what the eviction may claim cannot be spilled (R25, R38,
R357). Log entry 48, DEDUCED. -/
def State.preemptFor (s : State) (c prio : Nat) : State :=
  let k := s.cell c
  match k.victim with
  | none => s
  | some x =>
    if (k.ctx x).prio.toNat ≤ prio ∨ (k.ctx x).hold = .ending ∨ (List.range 4).any (fun y => (k.ctx y).frozen) then s
    else if s.spillRoom (dieOf c) (3 * k.tilesOf [x]) then s.askEvict c [x]
    else s.after 1000000 .taskStartArrival { Args.empty with c := c }

/-- The `CELL_OOS` bit of a cell (R469). -/
def Die.oos (d : Die) (cell : Nat) : Bool := (d.csr.get 0 (0x258 + cell / 64)).getLsbD (cell % 64)
def Die.setOos (d : Die) (cell : Nat) (b : Bool) : Die :=
  let a := 0x258 + cell / 64
  { d with csr := d.csr.ins a (withBits (d.csr.get 0 a) (cell % 64) 1 b.toNat) }

/-- Whether a task of an evicted configuration of a cell has a priority at least as high: it comes before new starts, and
waits for the cell to fall idle (R41), unless a cell of its region is out of service. Log entry 53, DESIGN CHOICE. -/
def State.shelvedFirst (s : State) (c prio : Nat) : Bool :=
  let d := s.die (dieOf c)
  let bad (h : Shelf) : Bool := d.shelf.any fun q => q.origin == h.origin && q.image == h.image &&
    (d.oos (q.cell % 256) || d.absent (q.cell % 256))
  d.shelf.any fun h => h.cell == c && (h.was.saved.any fun v => decide (v.bank.prio.toNat ≤ prio)) && !bad h

/-- `TASK_START_ARRIVAL`: one start per cycle (R25): a `RUN` task of the highest priority, then the eligible ARRIVAL
handler with the lowest index. An evicted task that may resume comes before those starts whose priority is not higher than
its own (R38, R41). Where no context is FREE the start waits for one. Log entry 48, DEDUCED. -/
def execTaskStartArrival (s : State) : Out :=
  .next (
    let c := s.args.c
    let k := s.cell c
    let again (t : State) : State := t.afterCycles 1 .taskStartArrival { Args.empty with c := c }
    if !k.loaded || k.killed || s.underLoad c then s
    else
      let run := leastBy (fun r => r.2.2.2.1) (k.runs.filter fun r => !s.shelvedFirst c r.2.2.2.1 &&
        match k.handlers.find? fun e => e.1 == r.2.2.1 with
        | some (h, e) => decide (k.holding h < e.maxctx)
        | none => false)
      let arr := (k.handlers.find? fun e => k.eligible e.1 e.2).filter fun _ => !s.shelvedFirst c k.startPrio.toNat
      if k.frees.isEmpty then
        match run, arr with
        | some r, some _ => s.preemptFor c (min r.2.2.2.1 k.startPrio.toNat)
        | some r, none => s.preemptFor c r.2.2.2.1
        | none, some _ => s.preemptFor c k.startPrio.toNat
        | none, none => s
      else if s.cycle < k.started then again s
      else
        let back := leastBy (fun v => v.bank.prio.toNat * 2 ^ 64 + v.bank.task) (k.saved.filter k.mayResume)
        let above (prio : Nat) : Bool := match back with
          | some v => decide (prio < v.bank.prio.toNat)
          | none => true
        match run.filter (fun r => above r.2.2.2.1), arr.filter (fun _ => above k.startPrio.toNat), back with
        | some r, _, _ => again (s.startRun c r)
        | none, some (h, e), _ => again (s.startArrival c h e)
        | none, none, some v => again (s.post .taskResume { Args.empty with c := c, x := v.num })
        | none, none, none => s)

/-! ## RUN nodes of the dispatcher (R352, R356) -/

/-- Effective priority of a READY node: one level per millisecond of waiting. Log entry 56, DESIGN CHOICE. -/
def effPrio (prio readyAt now : Nat) : Nat := prio - (now - readyAt) / 45000000000

/-- READY RUN nodes in the order of R356. -/
def State.readyRuns (s : State) : List (Nat × Nat) :=
  let all := s.pkg.graphs.flatMap fun g =>
    (List.range g.2.nodes.length).filterMap fun n =>
      let d := g.2.nodes.getD n GNode.reset
      if d.st = .ready ∧ d.type = 1 then some (g.1, n, effPrio g.2.prio d.readyAt s.elapsed * 2 ^ 128 + d.readyAt) else none
  (sortBy (fun e => e.2.2) all).map fun e => (e.1, e.2.1)

/-- The dispatcher looks at every READY RUN node again. Log entry 56, DESIGN CHOICE. -/
def State.pokeRuns (s : State) : State :=
  s.readyRuns.foldl (fun t e => t.post .runNodeBind { Args.empty with k := e.1, n := e.2 }) s

/-- Whether every task of a RUN node has retired, and every store of theirs has been performed (R414). -/
def State.nodeOver (s : State) (node : Nat × Nat) : Bool :=
  (s.gnode node.1 node.2).left.isEmpty && !s.cells.any fun e => e.2.orphans.any fun o => o.node == some node

/-- A cell's task of a RUN node has retired; with the last one, and with the last of their far stores performed, the node
completes or fails. -/
def State.taskDone (s : State) (node : Option (Nat × Nat)) (c : Nat) (failed : Bool) : State :=
  match node with
  | none => s
  | some (k, n) =>
    let s := s.modNode k n fun g => { g with left := g.left.erase c, bad := g.bad || failed }
    if s.nodeOver (k, n) then s.nodeDone k n (!(s.gnode k n).bad) else s

/-- A far store of a task that has retired is performed, or given up: the node that awaits it may end. -/
def State.orphanDone (s : State) (c id : Nat) : State :=
  let was := (s.cell c).orphans.find? fun o => o.id == id
  let s := s.modCell c fun k => { k with orphans := k.orphans.filter fun o => o.id != id }
  match was.bind Orphan.node with
  | none => s
  | some (k, n) =>
    if (s.gnode k n).st = .running && s.nodeOver (k, n) then s.nodeDone k n (!(s.gnode k n).bad) else s

/-! ## Retirement (R31, R159) -/

/-- What `ENDT` still waits for: results, interlocked returns and loads, local accesses behind a release on its way, and the
task's matrix operations. -/
def State.endReady (s : State) (c x : Nat) : Bool :=
  let t := s.ctxOf c x
  t.land.isEmpty && t.pend.isEmpty && (t.awaits.all fun w => !w.twin && (w.kind == .store || w.kind == .vstore))
    && ([0, 1].all fun e => !((s.cell c).mat e).pending fun m => m.ctx == x)

/-- Frees or carries the slots of a task. -/
def State.endSlots (s : State) (c x : Nat) : State :=
  let t := s.ctxOf c x
  let h := t.handler.toNat
  let ins := match (s.cell c).handlers.find? fun e => e.1 == h with
    | some (_, e) => e.inputs
    | none => []
  (t.bound.filter fun b => !b.freed).foldl (fun s b =>
    if (ins.getD b.input (0, 1, true)).2.2 then s.freeSlot c b.tag b.slot
    else s.modTag c b.tag fun g => g.put b.slot { g.at_ b.slot with use := .carried h b.input }) s

/-- The context becomes FREE; only its vector registers stay. -/
def Ctx.freed (x : Ctx) : Ctx := { Ctx.reset with v := x.v, window := x.closeWindow.window }

/-- Far stores of a task that are not yet acknowledged as it retires: the cell goes on to await them (R302). -/
def Ctx.storesOut (x : Ctx) : List Orphan :=
  (x.awaits.filter fun w => w.answer.isNone).map fun w => ⟨w.id, w.addr, x.task, x.node⟩

/-- Drops the requests of a context at the die power manager, and releases its grant. The requests that stay are looked at
again. -/
def State.dropPower (s : State) (c x : Nat) : State :=
  let mine (q : Nat × Nat × Nat) : Bool := q.1 == c && q.2.1 == x
  let d := s.die (dieOf c)
  let t := (s.modDie (dieOf c) fun d => { d with powQueue := d.powQueue.filter fun q => !mine q }).releaseUnits
    c x (s.ctxOf c x).grant
  if (s.ctxOf c x).grant = 0 && d.powQueue.any mine && !d.powQueue.all mine then
    t.post .powerGrant { Args.empty with die := dieOf c }
  else t

/-- Retirement in the order of R31; `failed` adds a failure that is not the task's own. -/
def State.retire (s : State) (c x : Nat) (failed : Bool) : State :=
  let t := s.ctxOf c x
  let bad := failed || t.errSticky != 0
  let at_ := t.ended.getD (t.pc, 0)
  let s := s.modCell c fun k => k.freeTiles x
  let s := s.endSlots c x
  let s := s.dropPower c x
  let s := s.trace c 2 (some x) at_.1 at_.2 (taskWord t true bad) t.errSticky
  let s := if t.errSticky = 0 then s
    else s.postFault c x 3 15 false 0 t.violAddr
      (BitVec.ofNat 64 (t.errSticky.toNat % 256 + t.violInfo.toNat % 2 ^ 32 * 2 ^ 32))
  let s := s.modCtxOf c x Ctx.freed
  let s := s.modCell c fun k => { k with
    cur := if k.cur == some x then none else k.cur
    orphans := k.orphans ++ t.storesOut }
  let s := s.taskDone t.node c bad
  ((s.post .taskStartArrival { Args.empty with c := c }).pokeRuns).post .configDrop
    { Args.empty with die := dieOf c, origin := bitsAt (s.cell c).regionId 0 8 }

/-- A task that has issued `ENDT` retires once nothing is outstanding. A fault found meanwhile in a queued operation stops
the context first, with the `ENDT` not done. -/
def State.tryRetire (s : State) (c x : Nat) : State :=
  let t := s.ctxOf c x
  if t.hold ≠ .ending then s
  else if !t.late.isEmpty then s.modCtxOf c x fun y => { y with st := .ready, hold := .none, ended := none }
  else
    let s := s.settle c x fun _ => true
    if s.endReady c x then s.retire c x false else s

/-- `ENDT`: running capture sets stop, the windows close, and the task retires as soon as nothing is outstanding. It is
held while a record of the context waits for the full fault buffer (R380). -/
def execEndt (s : State) : Out :=
  .next (
    let c := s.focus.cell
    let x := s.focus.ctx
    if s.recordHeld c x 15 then s.block .record
    else
      let s := (List.range 16).foldl (fun t n => t.stopCap c x n t.focus.pc t.focus.slot) s.closeWindow
      let s := s.modCtx fun t => { t with
        st := .blocked
        hold := .ending
        ended := some (s.focus.pc, s.focus.slot)
        pc := s.focus.pc
        redo := true
        doneMask := (~~~(1#14 <<< s.focus.slot)).setWidth 64 }
      (s.modHere fun k => { k with cur := none, switched := false }).tryRetire c x)

/-! ## The place of a save area (R39, R366) -/

/-- The lowest multiple of 64 in scratch from which 32 KiB is not taken; the staging area of MD0 is never free (R344).
Log entry 49, DEDUCED. -/
def freeArea (alloc : List (Nat × Nat)) (limit : Nat) : Option Nat :=
  let cands := 0 :: alloc.map fun a => (a.1 + a.2 + 63) / 64 * 64
  leastBy id (cands.filter fun o => decide (o + 0x8000 ≤ limit) &&
    alloc.all fun a => decide (a.1 + a.2 ≤ o) || decide (o + 0x8000 ≤ a.1))

/-- Where an evicted bank goes (R39, R366): scratch that neither the cell nor an evicted configuration of it has taken, or
the pair's reserved deep store. -/
def State.saveArea (s : State) (c x : Nat) : Nat :=
  let aside := ((s.die (dieOf c)).shelf.filter fun h => h.cell == c).flatMap fun h => h.was.alloc
  match freeArea ((s.cell c).alloc ++ aside) (if dieOf c = 0 then 0x1C0000 else spaceSize c 0) with
  | some o => flat c 0 o
  | none => flat c 1 (0x2F80000 + ((isC c).toNat * 4 + x) * 0x8000)

/-! ## Eviction (R39, R42) -/

/-- The bank as it is saved: interlocked local results have arrived, exposed ones keep the offsets that remained at the
freeze (R39, R41), and a task that was still waiting for the grant of its resume is saved as it was before it. Log entry
51, DEDUCED. -/
def Ctx.saveBank (x : Ctx) (now : Nat) : Ctx :=
  let y := (x.land.filter Landing.held).foldl Ctx.landNow x
  let from_ := x.frozeAt.getD now
  { y.freshCycle with
    st := (x.back.map Prod.fst).getD y.st
    hold := (x.back.map Prod.snd).getD y.hold
    grant := if x.back.isSome then (x.asked.headD (0, 0)).2 else y.grant
    back := none
    land := (y.land.filter fun e => !e.held).map fun e => if x.back.isSome then e else { e with due := e.due - from_ }
    lastM := y.lastM.map fun e => (e.1, if x.back.isSome then e.2 else from_ - e.2)
    preempted := true
    frozen := false
    frozeAt := none
    asked := []
    caps := y.caps.map fun e => (e.1, { e.2 with evicted := e.2.evicted || e.2.running }) }

/-- A context's queued operations, originals included: by engine, the originals under its number and 2 (R262). -/
def Cell.queuedOf (k : Cell) (x : Nat) : List (Nat × MEntry) :=
  [0, 1].flatMap fun e =>
    (((k.mat e).queue.filter fun m => m.ctx == x).map fun m => (e, m)) ++
      (((k.mat e).originals.filter fun m => m.ctx == x).map fun m => (e + 2, m))

/-- Takes a context's queued operations, originals included, out of an engine. -/
def MatEngine.unqueue (m : MatEngine) (x : Nat) : MatEngine :=
  { m with
    queue := m.queue.filter fun e => e.ctx != x
    originals := m.originals.filter fun e => e.ctx != x }

/-- Gives a context's tiles to the evicted task. -/
def MatEngine.evict (m : MatEngine) (x task : Nat) : MatEngine :=
  { m with tiles := m.tiles.map fun t => (t.1, if t.2.owner = some x then { t.2 with owner := some (4 + task) } else t.2) }

/-- A context that the DCP finds STOPPED: also one that waits, after a resume, for its power units (R372).
Log entry 59, DEDUCED. -/
def Ctx.isStopped (x : Ctx) : Bool := (x.back.map Prod.fst).getD x.st == .stopped
/-- A context stopped by a consumed uncorrectable error: it takes no command but SELECT (R371), and is not evicted (R449).
Log entry 59, DEDUCED. -/
def Ctx.dead (x : Ctx) : Bool := x.isStopped && bitsAt x.trapCause 0 8 == 0x0B

/-- Resumes a stopped context, for one bundle or for good. One that waits for its power units resumes with their grant. -/
def State.resumeCtx (s : State) (c x : Nat) (step : Bool) : State :=
  (s.returnFrom c x (s.ctxOf c x) false).modCtxOf c x fun t => { t with
    st := if t.back.isSome then t.st else .ready
    hold := if t.back.isSome then t.hold else .none
    back := t.back.map fun _ => (.ready, .none)
    stepping := step
    stepDone := false }

/-- Whether fetch cannot be frozen yet (R42): the step that the DCP holds (R372), a trap entry of the context or WAIT
cycles of the bundle that it issued last (R107), or a freeze cycle of the power limiter. -/
def State.freezeWaits (s : State) (c x : Nat) : Bool :=
  let k := s.cell c
  let t := k.ctx x
  (t.stepping && !t.stepDone) || (decide (s.clock c < k.busyTil) && (if k.entering then k.cur else k.last) == some x)
    || k.froze

/-- Whether a frozen context waits for running matrix operations (R39), or for a local access behind a release on its way.
-/
def State.evictWaits (s : State) (c x : Nat) : Bool :=
  !(s.ctxOf c x).pend.isEmpty || [0, 1].any fun e => ((s.cell c).mat e).running.any fun r => r.1.ctx == x

/-- Fetch freezes: the windows close, the results in flight stand as they are, and the queued matrix operations leave their
engines (R39, R262). -/
def State.freezeFetch (s : State) (c x : Nat) : State :=
  let now := s.clock c
  let s := s.settle c x fun _ => true
  s.modCell c fun k =>
    { k.putCtx x { (k.ctx x).closeWindow with
        frozen := true
        frozeAt := some now
        parked := (k.ctx x).parked ++ k.queuedOf x } with
      mats := k.mats.map fun m => (m.1, m.2.unqueue x) }

/-- The eviction of a frozen context. Log entry 49, DEDUCED. Log entry 51, DEDUCED. -/
def State.evict (s : State) (c x : Nat) : State :=
  let k := s.cell c
  let t := k.ctx x
  let tiles := [0, 1].flatMap fun e => ((k.mat e).tiles.filter fun q => q.2.owner == some x).map fun q => (e, q.1, q.2)
  let bank := t.saveBank (s.clock c)
  let area := s.saveArea c x
  let s := s.modCell c fun k => { k with
    mats := k.mats.map fun m => (m.1, m.2.evict x t.task)
    saved := k.saved ++ [⟨x, bank, area, tiles, []⟩]
    alloc := if flatSpace area = 0 then k.alloc ++ [(area % 2 ^ 41, 0x8000)] else k.alloc
    cur := if k.cur == some x then none else k.cur }
  let s := (s.writeBytes area (saveBytes bank x)).clearPoison area 0x8000
  let s := s.trace c 7 (some x) 0 0 4 0
  let s := s.dropPower c x
  let s := s.modCtxOf c x Ctx.freed
  (s.post .taskStartArrival { Args.empty with c := c }).pokeRuns

/-- The evicted task `v` of a cell, or of an evicted configuration of it, comes back no more: its save area, its tiles and
its spill frames are free (R372). -/
def State.dropSaved (s : State) (c : Nat) (v : Saved) : State :=
  let gone (t : Tile) : Tile := if t.owner = some (4 + v.bank.task) then { t with owner := none } else t
  let without (k : Cell) : Cell :=
    if !k.saved.contains v then k
    else { k with
      saved := k.saved.erase v
      alloc := if flatSpace v.area = 0 then k.alloc.erase (v.area % 2 ^ 41, 0x8000) else k.alloc }
  let s := s.modCell c fun k => { without k with
    mats := k.mats.map fun m => (m.1, { m.2 with tiles := m.2.tiles.map fun t => (t.1, gone t.2) }) }
  (s.modDie (dieOf c) fun d => { d with shelf := d.shelf.map fun h =>
    if h.cell = c then { h with was := without h.was } else h }).freeFramesOf (dieOf c) (v.claims.flatMap fun t => t.2.2)

/-- `PREEMPT_EVICT`: fetch freezes; the eviction follows once operations in flight have completed. A context that has
issued `ENDT` is not evicted, nor one whose region is being killed (R449). A request names its task, one more than `task`,
in `n`; 0 names whichever is resident. -/
def execPreemptEvict (s : State) : Out :=
  .next (
    let c := s.args.c
    let x := s.args.x
    let t := s.ctxOf c x
    let later (s : State) : State := s.afterCycles 1 .preemptEvict s.args
    if t.st = .free ∨ t.hold = .ending ∨ (s.cell c).killed ∨ t.dead ∨ (s.args.n ≠ 0 ∧ s.args.n ≠ t.task + 1) then s
    else if !t.frozen && s.freezeWaits c x then later s
    else
      let s := if t.frozen then s.settle c x fun _ => true else s.freezeFetch c x
      if s.evictWaits c x then later s else s.evict c x)

/-! ## Resume (R41, R368) -/

/-- Latch replay begins: the saved offsets count from this clock (R41). -/
def Ctx.replay (x : Ctx) (now : Nat) : Ctx :=
  { x with
    land := x.land.map fun e => { e with due := e.due + now }
    lastM := x.lastM.map fun e => (e.1, now - e.2) }

/-- The bank as it is restored. A held bundle is presented again; a wait whose time has come is over. Where power units were
held, latch replay begins with their grant (R368): until then the offsets stay as they were saved. Log entry 51, DEDUCED. -/
def Ctx.restored (x : Ctx) (now : Nat) (tai : W64) : Ctx :=
  let st : CtxState × Hold := match x.st, x.hold with
    | .stopped, h => (.stopped, h)
    | .waiting, .time t => if t.ule tai then (.ready, .none) else (.waiting, .time t)
    | .waiting, h => (.waiting, h)
    | _, _ => (.ready, .none)
  let y := { x.freshCycle with
    parked := []
    order := none
    window := x.closeWindow.window
    st := st.1
    hold := st.2 }
  if x.grant = 0 then y.replay now
  else { y with
    grant := 0
    asked := [(resumeKey, x.grant)]
    back := some st
    st := .waiting
    hold := .power
    frozeAt := some now }

/-- `TASK_RESUME`: tiles, bank, queued matrix operations and power grant, in that order; an order of the DCP recorded
during the eviction is applied (R372). A save area that cannot be read kills the region (R432). Log entry 48, DEDUCED. Log
entry 49, DEDUCED. Log entry 116, DESIGN CHOICE. -/
def execTaskResume (s : State) : Out :=
  .next (
    let c := s.args.c
    let k := s.cell c
    match leastBy (fun v => v.bank.prio.toNat * 2 ^ 64 + v.bank.task)
        (k.saved.filter fun v => v.num == s.args.x && k.mayResume v) with
    | none => s
    | some v =>
      let d := dieOf c
      let frames := v.claims.flatMap fun t => t.2.2
      if s.poisoned v.area 0x8000 || frames.any (fun f => s.poisoned (flatOf (s.spillFrame d f)) 0x4000) then s.askKill c 5
      else
      let s := v.tiles.foldl (fun s t =>
        let own := (((s.cell c).mat t.1).tile t.2.1).owner == some (4 + v.bank.task)
        (if own then s else s.claimTile c t.1 t.2.1).modMat c t.1 fun m =>
          m.putTile t.2.1 fun _ => { t.2.2 with owner := some v.num }) s
      let s := s.freeFramesOf d frames
      let s := s.modCell c fun k => { k with
        saved := k.saved.erase v
        alloc := if flatSpace v.area = 0 then k.alloc.erase (v.area % 2 ^ 41, 0x8000) else k.alloc }
      let s := s.modCtxOf c v.num fun _ => v.bank.restored (s.clock c) s.tai
      let s := v.bank.parked.foldl (fun s p => s.modMat c (p.1 % 2) fun m =>
        if p.1 < 2 then { m with queue := m.queue ++ [p.2] } else { m with originals := m.originals ++ [p.2] }) s
      let s := [0, 1].foldl (fun s e => s.post .matrixOpStart { Args.empty with c := c, e := e }) s
      let s := s.trace c 7 (some v.num) 0 0 5 0
      let s := match v.bank.order with
        | some step => s.resumeCtx c v.num step
        | none => s
      if v.bank.grant = 0 then s
      else (s.modDie (dieOf c) fun d => { d with powQueue := d.powQueue ++ [(c, v.num, v.bank.grant)] }).post .powerGrant
        { Args.empty with die := dieOf c })

/-! ## Power grants (R178, R313, R407) -/

/-- The grant of `u` units reaches its context: a held `POWREQ` is presented again, a resumed task goes on and its latch
replay begins (R368). -/
def Ctx.powered (x : Ctx) (u now : Nat) : Ctx :=
  let key := ((x.asked.find? fun q => q.2 == u).getD (0, u)).1
  let y := { x with grant := x.grant + u, asked := x.asked.erase (key, u) }.setEvent 10
  match x.back with
  | some b => { y.replay now with back := none, st := b.1, hold := b.2, frozeAt := if x.frozen then some now else none }
  | none => { y with granted := x.granted ++ [key] }

/-- `POWER_GRANT`: the oldest request of a die is granted whole when the pool has room. -/
def execPowerGrant (s : State) : Out :=
  .next (
    let d := s.args.die
    match (s.die d).powQueue with
    | [] => s
    | (c, x, u) :: rest =>
      if (s.die d).pool < (s.die d).powUsed + u then s
      else
        let s := s.modDie d fun k => { k with powQueue := rest, powUsed := k.powUsed + u }
        let s := s.modCtxOf c x fun t => t.powered u (s.clock c)
        if rest.isEmpty then s else s.post .powerGrant { Args.empty with die := d })

end Sys2Proof.Machine
end

