-- ==== Sys2Proof/Machine/Image.lean ====
section
/-! DEFINITION. Configuration images (R360-R364): their layout, the checks of a load, and the writing of one into a
region (R358). -/

namespace Sys2Proof.Machine
open Sys2Proof

/-! ## Layout of an image (R360) -/

def align64 (n : Nat) : Nat := (n + 63) / 64 * 64
def imgMagic : Nat := 0x47464E43
def imgTags (l : List Byte) : Nat := field l 6 1
def imgPorts (l : List Byte) : Nat := field l 7 1
def imgHandlers (l : List Byte) : Nat := field l 8 1
def imgTensors (l : List Byte) : Nat := field l 10 2
def imgText (l : List Byte) : Nat := field l 16 4
def imgData (l : List Byte) : Nat := field l 20 4
def imgRules (l : List Byte) : Nat := field l 24 4
def imgW (l : List Byte) : Nat := field l 5 1 % 16 + 1
def imgH (l : List Byte) : Nat := field l 5 1 / 16 + 1
def tagsAt (l : List Byte) : Nat := 64 + align64 (48 * imgHandlers l)
def portsAt (l : List Byte) : Nat := tagsAt l + align64 (16 * imgTags l)
def tensorsAt (l : List Byte) : Nat := portsAt l + align64 (16 * imgPorts l)
def textAt (l : List Byte) : Nat := tensorsAt l + align64 (32 * imgTensors l)
def dataAt (l : List Byte) : Nat := textAt l + align64 (imgText l)
def rulesAt (l : List Byte) : Nat := dataAt l + align64 (imgData l)

/-- `n` bytes of an image from offset `o`. -/
def slice (l : List Byte) (o n : Nat) : List Byte := (l.drop o).take n

/-- Entries of `n` bytes, `k` of them, from an offset. -/
def entries (l : List Byte) (o n k : Nat) : List (List Byte) := (List.range k).map fun i => slice l (o + n * i) n

/-- The header's own requirements: without them nothing beyond it is read. -/
def imgHeaderOk (die : Nat) (l : List Byte) : Bool :=
  field l 0 4 == imgMagic && field l 4 1 == die % 2 && decide (imgTags l ≤ 16) && decide (imgPorts l ≤ 16)
    && decide (1 ≤ imgHandlers l) && decide (imgHandlers l ≤ 16) && decide (field l 9 1 < 4)
    && decide (imgTensors l ≤ 1024) && decide (imgText l ≤ 0x20000) && decide (imgData l ≤ 0x200000)
    && decide (imgRules l ≤ 0x20000) && imgRules l % 16 == 0 && zeroBytes l 30 2 && zeroBytes l 40 24

/-- A whole image as it lies at an address, none where its header is bad. Log entry 52, DEDUCED. -/
def State.readImage (s : State) (die : Nat) (a : W64) : Option (List Byte) × State :=
  let h := s.globalRead a 64
  if a.toNat % 64 ≠ 0 ∨ aSpace a ≠ 1 ∨ !s.readableAt a 64 ∨ !imgHeaderOk die h.1 then (none, h.2)
  else
    let n := rulesAt h.1 + imgRules h.1
    if !s.readableAt a n then (none, h.2)
    else
      let r := h.2.globalRead a n
      (some r.1, r.2)

/-! ## Entries (R361-R363) -/

/-- A declared input: tag, count and AUTOFREE. -/
def inputOf (w : Nat) : Nat × Nat × Bool := (w / 2 ^ 11 % 16, w / 2 ^ 6 % 32 + 1, w.testBit 5)
def handlerWords (l : List Byte) : List Nat := (List.range 4).map fun i => field l (8 + 2 * i) 2

def handlerOf (l : List Byte) : Handler where
  entry := field l 4 4
  arrival := !(field l 0 1).testBit 1
  inputs := ((handlerWords l).filter fun w => w.testBit 15).map inputOf
  maxctx := field l 0 1 / 8 % 4 + 1
  supervisor := (field l 0 1).testBit 2
  fpctl0 := BitVec.ofNat 64 (field l 16 2)
  rwperm0 := BitVec.ofNat 64 (field l 18 1)
  stackBase := BitVec.ofNat 64 (field l 20 4)
  stackSize := BitVec.ofNat 64 (field l 24 4)
  arg2 := BitVec.ofNat 64 (field l 32 8)
  arg3 := BitVec.ofNat 64 (field l 40 8)

def handlerValid (l : List Byte) : Bool := (field l 0 1).testBit 0

/-- The fields of an entry that must be zero. -/
def handlerZeros (l : List Byte) : Bool :=
  decide (field l 0 1 < 32) && zeroBytes l 1 3 && decide (field l 16 2 < 256) && decide (field l 18 1 < 8)
    && zeroBytes l 19 1 && zeroBytes l 28 4 && (handlerWords l).all fun w => w % 32 == 0

/-- What R23 asks of a handler, beside the tags. -/
def handlerOk (text : Nat) (l : List Byte) : Bool :=
  let h := handlerOf l
  let decl := (handlerWords l).map fun w => w.testBit 15
  h.entry % 4 == 0 && decide (h.entry < text)
    && ((List.range 3).all fun i => decl.getD i false || !decl.getD (i + 1) false)
    && (if h.arrival then !h.inputs.isEmpty else h.inputs.isEmpty)

def tagOf (l : List Byte) : Nat × TagSt :=
  (field l 0 1, { TagSt.reset with
    slots := field l 1 1
    pay := 64 * field l 2 1
    fmt := BitVec.ofNat 8 (field l 3 1)
    stream := BitVec.ofNat 16 (field l 4 2)
    base := field l 8 4 })
def portOfEntry (l : List Byte) : Nat × PortSt :=
  (field l 0 1, { PortSt.reset with
    slots := field l 1 1
    pay := 64 * field l 2 1
    fmt := BitVec.ofNat 8 (field l 3 1)
    stream := BitVec.ofNat 16 (field l 4 2)
    tag := BitVec.ofNat 4 (field l 6 1)
    halyard := (field l 6 1).testBit 4
    base := field l 8 4
    dest := BitVec.ofNat 32 (field l 12 4) })

/-- Bytes of a ring. -/
def ringBytes (slots pay : Nat) : Nat := slots * strideOf pay

def ringOk (limit num slots pay fmt base : Nat) : Bool :=
  decide (num < 16) && decide (1 ≤ slots) && decide (slots ≤ 64) && decide (64 ≤ pay) && decide (pay ≤ 4096)
    && fmtDefined fmt && base % 64 == 0 && decide (base + ringBytes slots pay ≤ limit)

def tensorOf (l : List Byte) : Nat × Tensor :=
  (field l 0 2,
    { fmt := field l 2 1
      kind := field l 3 1 % 4
      gather := (field l 3 1).testBit 4
      dims := (List.range 4).map fun i => field l (4 + 3 * i) 3 + 1
      shape := (List.range 4).map fun i => field l 16 2 / 16 ^ i % 16
      table := BitVec.ofNat 64 (field l 24 8)
      raw := l })

/-- Log entry 52, DEDUCED. -/
def tensorOk (l : List Byte) : Bool :=
  let t := (tensorOf l).2
  let rank := field l 3 1 / 4 % 4 + 1
  fmtDefined t.fmt && decide (t.kind < 3) && decide (field l 3 1 < 32) && zeroBytes l 18 6 && t.table.toNat % 8 == 0
    && ((List.range 4).all fun i => decide (t.shape.getD i 0 ≤ 14)
      && (decide (i < rank) || (t.dims.getD i 1 == 1 && t.shape.getD i 0 == 0)))

/-- The tensor descriptors of an image. -/
def imgTensorList (l : List Byte) : List (Nat × Tensor) := (entries l (tensorsAt l) 32 (imgTensors l)).map tensorOf
def imgTagList (l : List Byte) : List (Nat × TagSt) := (entries l (tagsAt l) 16 (imgTags l)).map tagOf
def imgPortList (l : List Byte) : List (Nat × PortSt) := (entries l (portsAt l) 16 (imgPorts l)).map portOfEntry
/-- The valid handlers of an image by table index. -/
def imgHandlerList (l : List Byte) : List (Nat × Handler) :=
  (List.range (imgHandlers l)).filterMap fun i =>
    let e := slice l (64 + 48 * i) 48
    if handlerValid e then some (i, handlerOf e) else none

/-- Scratch that a load may use (R344). -/
def loadLimit (die : Nat) : Nat := if die = 0 then 0x1C0000 else spaceSize (die * 256) 0

/-- Scratch that a configuration takes: data, consumer rings, retain rings and stacks. -/
def imgAlloc (l : List Byte) : List (Nat × Nat) :=
  [(field l 32 4, imgData l)]
    ++ (imgTagList l).map (fun t => (t.2.base, ringBytes t.2.slots t.2.pay))
    ++ (imgPortList l).map (fun p => (p.2.base, ringBytes p.2.slots p.2.pay))
    ++ (imgHandlerList l).map (fun h => (h.2.stackBase.toNat, 4 * h.2.stackSize.toNat))

/-! ## Rejection (R23, R81, R344, R364) -/

/-- Tags that a handler declares, each once. -/
def Handler.tags (h : Handler) : List Nat := (h.inputs.map Prod.fst).eraseDups

/-- Log entry 52, DEDUCED. -/
def imgOk (die : Nat) (l : List Byte) : Bool :=
  let tags := imgTagList l
  let ports := imgPortList l
  let hs := imgHandlerList l
  let limit := loadLimit die
  field l 32 4 + imgData l ≤ limit
    && (imgRules l == 0 || (field l 36 4 % 16 == 0 && decide (field l 36 4 + imgRules l ≤ 0x20000)))
    && ((entries l 64 48 (imgHandlers l)).all fun e => handlerZeros e && (!handlerValid e || handlerOk (imgText l) e))
    && ((entries l (tagsAt l) 16 (imgTags l)).all fun e => zeroBytes e 6 2 && zeroBytes e 12 4)
    && (tags.all fun t => ringOk limit t.1 t.2.slots t.2.pay t.2.fmt.toNat t.2.base)
    && (tags.map Prod.fst).eraseDups.length == tags.length
    && ((entries l (portsAt l) 16 (imgPorts l)).all fun e => decide (field e 6 1 < 32) && zeroBytes e 7 1
        && decide (field e 12 4 < 2 ^ 21))
    && (ports.all fun p => ringOk limit p.1 p.2.slots p.2.pay p.2.fmt.toNat p.2.base)
    && (ports.map Prod.fst).eraseDups.length == ports.length
    && (hs.all fun h => h.2.inputs.all fun i => match tags.find? fun t => t.1 == i.1 with
        | some t => decide (i.2.1 ≤ t.2.slots)
        | none => false)
    && (let all := hs.flatMap fun h => h.2.tags
        all.eraseDups.length == all.length)
    && ((entries l (tensorsAt l) 32 (imgTensors l)).all tensorOk)
    && (die != 0 || ((imgAlloc l).all fun a => a.2 == 0 || decide (a.1 + a.2 ≤ limit)))

/-- A tensor identifier with a different descriptor, in the image or in the directory of a die. -/
def tensorsClash (dir : Tab Tensor) (l : List Byte) : Bool :=
  let ts := imgTensorList l
  ts.any fun t => (dir.any fun e => e.1 == t.1 && e.2.raw != t.2.raw) ||
    ts.any fun u => u.1 == t.1 && u.2.raw != t.2.raw

/-- Whether a rectangle fits a die at an origin. -/
def rectFits (origin w h : Nat) : Bool := decide (origin % 16 + w ≤ 16) && decide (origin / 16 + h ≤ 16)

/-- A configuration that must be run with PIN (R357). -/
def needsPin (l : List Byte) : Bool :=
  imgTags l != 0 || imgPorts l != 0 || (field l 9 1).testBit 0

/-! ## Writing a configuration (R358) -/

/-- Text and rules sections of one cell. -/
def State.writeText (s : State) (c : Nat) (l : List Byte) : State :=
  (s.overwrite (flat c 2 0) (slice l (textAt l) (imgText l))).overwrite (flat c 2 (field l 36 4)) (slice l (rulesAt l) (imgRules l))
/-- The data section of one cell. -/
def State.writeData (s : State) (c : Nat) (l : List Byte) : State :=
  s.overwrite (flat c 0 (field l 32 4)) (slice l (dataAt l) (imgData l))
def State.writeSections (s : State) (c : Nat) (l : List Byte) : State := (s.writeText c l).writeData c l

/-- Full bits of a cell at a load (R76): every word full, the words of consumer rings empty. -/
def State.loadFull (s : State) (c : Nat) (l : List Byte) : State :=
  let lo := flat c 0 0
  let s := { s with full := s.full.filter fun e => !(decide (lo ≤ e.1) && decide (e.1 < lo + spaceSize c 0)) }
  (imgTagList l).foldl (fun t g => t.setFullRange (flat c 0 g.2.base) (ringBytes g.2.slots g.2.pay) false) s

/-- Rules of a cell: `RW_TABLE` takes the section's place and loads it; without a section no rule stands (R323).
Log entry 54, DEDUCED. -/
def State.loadRules (s : State) (c : Nat) (l : List Byte) : State :=
  let n := imgRules l / 16
  let s := s.modCell c fun k => { k with
    rwTable := BitVec.ofNat 64 ((if n = 0 then 0 else field l 36 4) + min n 64 * 2 ^ 17)
    rwRules := []
    rwHits := []
    rwLoad := none }
  if n = 0 then s else s.startTableLoad c

/-- The end of a configuration interval (R453): live counters become the last bank's, and an INTERVAL record is traced.
The load takes the cell's next turn, which belongs to the interval that it begins: this cycle's, or the next where that is
past. `serial` is the SERIAL of the interval that begins, kept with its counters. Log entry 83, DEDUCED. -/
def State.profInterval (s : State) (c serial : Nat) : State :=
  let k := s.cell c
  let live := k.prof.filter fun e => decide (e.1 < 33 * 16)
  let last : Tab Nat := live.map fun e => (33 * 16 + e.1, e.2)
  let past := (!s.turn.contains c).toNat
  let n := s.profCycles c + past
  let last := (List.range 32).foldl (fun (t : Tab Nat) e => t.ins (profKey 1 e 4) (k.profIdle n e)) last
  let last := last.ins (profKey 1 32 6) n
  let s := s.modCell c fun k => { k with
    prof := last.ins (profKey 0 32 7) (serial % 2 ^ 32)
    profStart := s.cycle + past
    loading := true }
  s.trace c 5 none 0 0 (BitVec.ofNat 64 n) (BitVec.ofNat 64 (k.profItem 0 32 7))

/-- An engine between configurations: what evicted tasks have left in place stays (R40, R252). -/
def MatEngine.cleared (m : MatEngine) : MatEngine :=
  { MatEngine.reset with
    aside := m.aside
    tiles := m.tiles.filter fun t => match t.2.owner with
      | some o => decide (4 ≤ o)
      | none => false }

/-- The cell record of a freshly loaded cell at ring position `pos`: what the load does not set stays.
Log entry 54, DEDUCED. -/
def Cell.configured (k : Cell) (l : List Byte) (origin pos serial prio : Nat) : Cell :=
  let w := imgW l
  let h := imgH l
  { k with
    regionId := BitVec.ofNat 64 (origin + (w - 1) * 2 ^ 8 + (h - 1) * 2 ^ 12 + serial % 2 ^ 32 * 2 ^ 16)
    regionSize := BitVec.ofNat 64 (w * h)
    ringPos := BitVec.ofNat 64 pos
    stageId := BitVec.ofNat 64 (field l 12 4 + field l 9 1 * 2 ^ 32)
    ringLink := BitVec.ofNat 64 (ringCell origin w ((pos + 1) % (w * h))
      + ringCell origin w ((pos + w * h - 1) % (w * h)) * 2 ^ 8)
    curBase := BitVec.ofNat 14 (min (field l 28 2) 2560)
    freezeCnt := 0
    vcfg := []
    vland := []
    handlers := imgHandlerList l
    tags := (imgTagList l).foldl (fun t e => t.ins e.1 e.2) []
    ports := (imgPortList l).foldl (fun t e => t.ins e.1 e.2) []
    engines := []
    copies := []
    seqs := []
    groups := []
    hal := { Halyard.reset with early := k.hal.early }
    mats := k.mats.map fun m => (m.1, m.2.cleared)
    saved := []
    alloc := imgAlloc l
    loaded := true
    killed := false
    rot := none
    startPrio := BitVec.ofNat 2 prio
    runs := [] }

/-- A cell without a configuration. -/
def Cell.unconfigured (k : Cell) : Cell :=
  { k with
    regionId := 0
    regionSize := 0
    ringPos := 0
    stageId := 0
    ringLink := 0
    handlers := []
    tags := []
    ports := []
    seqs := []
    groups := []
    hal := { Halyard.reset with early := k.hal.early }
    mats := k.mats.map fun m => (m.1, m.2.cleared)
    saved := []
    alloc := []
    loaded := false
    killed := false
    rot := none
    runs := [] }

/-- The census of a loaded tag is first due 10 µs after the load (R90). -/
def State.startCensus (s : State) (c : Nat) : State :=
  (s.cell c).tags.foldl (fun t e => t.startTag c e.1) s

/-- Fills the tensor directory from an image; 1,024 descriptors have room (R373). Log entry 122, DESIGN CHOICE. -/
def Die.addTensors (d : Die) (l : List Byte) : Die :=
  let add (t : Tab Tensor) (e : Nat × Tensor) : Tab Tensor :=
    if t.length < 1024 || t.any fun f => f.1 == e.1 then t.ins e.1 e.2 else t
  { d with tensors := (imgTensorList l).foldl add d.tensors }

/-- Descriptors that no configuration of the die names leave the directory (R373). -/
def Die.pruneTensors (d : Die) : Die :=
  { d with tensors := d.tensors.filter fun e => d.regions.any fun r => r.tensors.contains e.1 }

/-- Streams of a cell's ports with the die that consumes each, within the package. -/
def State.portStreams (s : State) (c : Nat) : List (Nat × BitVec 16) :=
  ((s.cell c).ports.filter fun e => e.2.slots != 0 && namePkg e.2.dest == s.pkg.number).map fun e =>
    (dieOf (nameCell e.2.dest), e.2.stream)

/-- Puts comparators before the consumers of a shadow region's streams (R430). Log entry 76, DEDUCED. -/
def State.addShadows (s : State) (c : Nat) : State :=
  if !(s.cell c).stageId.getLsbD 33 then s
  else (s.portStreams c).foldl (fun t e => t.modDie e.1 fun d =>
    if d.shadow.any fun x => x.1 == e.2 then d else { d with shadow := d.shadow ++ [(e.2, [], [])] }) s

/-- The limits of waits in comparators end with the waits: of one number, or of all of some streams (R431). -/
def State.endWaits (s : State) (f : BitVec 16 → Bool) (seq : Option (BitVec 32)) : State :=
  { s with timers := s.timers.filter fun t =>
      !(t.2.instr == .shadowTimeout && f t.2.args.stream && (seq.isNone || seq == some t.2.args.seq)) }

/-- Takes them away with the shadow region. -/
def State.dropShadows (s : State) (c : Nat) : State :=
  if !(s.cell c).stageId.getLsbD 33 then s
  else (s.portStreams c).foldl (fun t e => (t.modDie e.1 fun d =>
    { d with shadow := d.shadow.filter fun x => x.1 != e.2 }).endWaits (fun n => n == e.2) none) s

/-- Drops the region with the given origin: its cells hold no configuration. -/
def State.dropRegion (s : State) (d origin : Nat) : State :=
  match (s.die d).regions.find? fun r => r.origin == origin with
  | none => s
  | some r =>
    let s := (regionCells d r.origin r.w r.h).foldl (fun t c => t.dropShadows c) s
    let s := (regionCells d r.origin r.w r.h).foldl (fun t c => t.modCell c Cell.unconfigured) s
    s.modDie d fun k => ({ k with regions := k.regions.filter fun q => q.origin != origin } : Die).pruneTensors

/-- Writes a configuration into every cell of a region, in the order of R358. Log entry 54, DEDUCED. -/
def State.writeConfig (s : State) (d origin prio : Nat) (image : W64) (l : List Byte) : State :=
  let serial := (s.die d).serial + 1
  let s := s.modDie d fun k => { k with serial := serial }
  let cells := regionCells d origin (imgW l) (imgH l)
  let s := (List.range cells.length).foldl (fun s p =>
    let c := cells.getD p 0
    let s := ((s.profInterval c serial).writeSections c l).loadFull c l
    (((s.modCell c fun k => k.configured l origin p serial prio).loadRules c l).startCensus c).addShadows c) s
  let r : Region := ⟨origin, imgW l, imgH l, image, (imgTensorList l).map Prod.fst⟩
  s.modDie d fun k => ({ k with regions := k.regions ++ [r] } : Die).addTensors l

end Sys2Proof.Machine
end

