-- ==== Sys2Proof/Machine/Quarantine.lean ====
section
/-! DEFINITION. Frame quarantine (R301, R382). -/

namespace Sys2Proof.Machine
open Sys2Proof

/-! ## The queue (R382) -/

/-- A frame takes a place in quarantine; while the queue is full the free is held. -/
def State.quarantine (s : State) (d : Nat) (frame : W64) : State :=
  if (s.die d).quar.length < 256 then
    (s.modDie d fun k => { k with quar := k.quar ++ [⟨frame, k.epoch, s.openAccesses d⟩] }).post .quarantineRelease
      { Args.empty with die := d }
  else s.modDie d fun k => { k with quarHeld := k.quarHeld ++ [frame] }

/-- `QUAR_FREE`: a write whose bits 13:0 are not zero is ignored. -/
def execQuarFree (s : State) : Out :=
  .next (if bitsAt s.args.v 0 14 = 0 then s.quarantine s.args.die s.args.v else s)

/-- `QUARANTINE_RELEASE`: the oldest frame goes to the free list once no access that it waits for is open; the epoch
advances, and a held free enters. -/
def execQuarantineRelease (s : State) : Out :=
  .next (
    let d := s.args.die
    match (s.die d).quar with
    | [] => s
    | q :: rest =>
      if s.quiesceCount d ≠ 0 then s.afterCycles 1 .quarantineRelease s.args
      else
        let s := s.modDie d fun k => { k with
          quar := rest
          epoch := (k.epoch + 1) % 2 ^ 16
          spill := k.spill.filter fun i => s.spillFrame d i != q.frame }
        match (s.die d).quarHeld with
        | [] => s
        | f :: fs => (s.modDie d fun k => { k with quarHeld := fs }).quarantine d f)

end Sys2Proof.Machine
end

