-- ==== Sys2Proof/Machine/Dispatcher.lean ====
section
/-! DEFINITION. The dispatcher (R351-R358, R367, R368, R482): binding RUN nodes, configuration loads and drops, the
eviction of configurations, and the nodes that move, wait, decide and end. -/

namespace Sys2Proof.Machine
open Sys2Proof

/-! ## Cells as candidates (R357) -/

/-- A cell that may take work: present, in service, its row not under remap, not under a kill or a load.
Log entry 62, DEDUCED. -/
def State.usable (s : State) (c : Nat) : Bool :=
  let d := s.die (dieOf c)
  !d.absent (c % 256) && !d.oos (c % 256) && !(d.cmapRow (c % 256 / 16)).getLsbD 11
    && !(s.cell c).killed && !s.underLoad c && !s.pkg.fenced.getLsbD (dieOf c)

/-- A task waits to start: a `RUN` task, or an eligible arrival. -/
def Cell.waits (k : Cell) : Bool := !k.runs.isEmpty || k.handlers.any fun e => k.eligible e.1 e.2

/-- Priorities of the tasks that a cell still has: evicted ones and those that wait to start. -/
def Cell.prios (k : Cell) : List Nat :=
  k.saved.map (fun v => v.bank.prio.toNat) ++ k.runs.map (fun r => r.2.2.2.1)
    ++ (if k.handlers.any fun e => k.eligible e.1 e.2 then [k.startPrio.toNat] else [])

/-- Rule 2 of R357: no resident task and none waiting to start. -/
def Cell.idle (k : Cell) : Bool := k.frees.length == 4 && !k.waits

/-- No resident task, and nothing of a higher priority that could start or resume. -/
def Cell.idleFor (k : Cell) (prio : Nat) : Bool := k.frees.length == 4 && k.prios.all fun p => decide (prio ≤ p)

/-- Rule 3 of R357: every resident task runs at a priority numerically greater. -/
def Cell.lowerThan (k : Cell) (prio : Nat) : Bool :=
  (List.range 4).all fun x => (k.ctx x).st == .free || decide (prio < (k.ctx x).prio.toNat)

/-- Evicted tasks of a cell that could resume now and have a priority at least as high come first (R41). -/
def State.evictedFirst (s : State) (c prio : Nat) : Bool :=
  s.shelvedFirst c prio || ((s.cell c).frees.length == 4 &&
    (s.cell c).saved.any fun v => (s.cell c).mayResume v && decide (v.bank.prio.toNat ≤ prio))

/-! ## Frames that an eviction needs (R367) -/

/-- 16 KiB pages of scratch that a configuration's data, rings and stacks occupy. -/
def claimedPages (alloc : List (Nat × Nat)) : List Nat :=
  (alloc.flatMap fun a => if a.2 = 0 then [] else
    (List.range ((a.1 + a.2 - 1) / 0x4000 - a.1 / 0x4000 + 1)).map fun i => a.1 / 0x4000 + i).eraseDups

/-- Frames that a cell may need besides, once its configuration is evicted: its own tiles and weight buffers. -/
def Cell.evictFrames (k : Cell) : Nat :=
  3 * k.tilesOf [0, 1, 2, 3] + [0, 1].foldl (fun n e => n + if (k.mat e).aside then 0 else 2 * (k.mat e).buffers.length) 0

/-- A load over the cell makes its configuration an evicted one: it has resident, evicted or waiting tasks. -/
def Cell.hasTasks (k : Cell) : Bool := !k.saved.isEmpty || k.frees.length != 4 || k.waits

/-- The evicted configurations on a cell, and the pages of `pages` that each would lose. -/
def State.losses (s : State) (c : Nat) (pages : List Nat) : Nat :=
  ((s.die (dieOf c)).shelf.filter fun h => h.cell == c).foldl (fun n h =>
    n + (pages.filter fun p => !(h.pages.map Prod.fst).contains p).length) 0

/-! ## The choice of R357 -/

/-- Where a READY RUN node goes. -/
inductive Choice where
  | fail
  /-- rule 1: start on the region with this origin -/
  | start (origin : Nat)
  /-- rule 2, or rule 3 with another configuration: load at this origin -/
  | load (origin : Nat)
  /-- the load at this pinned origin is rejected, once nothing runs there (R364) -/
  | reject (origin : Nat)
  /-- rule 3 with the configuration in place: evict one context on each full cell, then start -/
  | evict (origin : Nat)
  /-- rule 3 would bind, but its claims cannot be spilled -/
  | spill
  | wait
  deriving DecidableEq, Repr

/-- Rule 1 candidates: regions that hold the image. -/
def State.holding (s : State) (d : Nat) (image : W64) (pin : Option Nat) : List Region :=
  (s.die d).regions.filter fun r => r.image == image && (pin.isNone || pin == some r.origin)
    && (regionCells d r.origin r.w r.h).all s.usable

/-- Rule 2 candidates: origins at which the shape fits on usable cells. -/
def State.places (s : State) (d w h : Nat) (pin : Option Nat) : List Nat :=
  ((match pin with
    | some o => [o]
    | none => List.range 256).filter fun o => rectFits o w h).filter fun o => (regionCells d o w h).all s.usable

/-- Whether every claim of a load can be spilled (R357, R367). -/
def State.evictRoom (s : State) (d w h o : Nat) (l : List Byte) : Bool :=
  let pages := claimedPages (imgAlloc l)
  let cells := regionCells d o w h
  let staying := (s.overlapped d cells).filter fun r => (regionCells d r.origin r.w r.h).any fun c => (s.cell c).hasTasks
  let kept := staying.flatMap fun r => regionCells d r.origin r.w r.h
  s.spillRoom d (kept.foldl (fun n c => n + (s.cell c).evictFrames + (if cells.contains c then pages.length else 0)) 0
    + cells.foldl (fun n c => n + s.losses c pages) 0)

/-- The candidate of R357 for a configuration; evicted tasks of a priority at least as high come before it (R41).
Log entry 53, DESIGN CHOICE. -/
def State.choose (s : State) (d prio : Nat) (image : W64) (pin : Option Nat) (l : List Byte) : Choice :=
  let w := imgW l
  let h := imgH l
  let held := (s.holding d image pin).filter fun r => !(regionCells d r.origin r.w r.h).any fun c => s.shelvedFirst c prio
  let spots := (s.places d w h pin).filter fun o => !(s.touched d o w h).any fun c => s.evictedFirst c prio
  let free (c : Nat) : Bool := decide ((s.cell c).runs.length < (s.cell c).frees.length)
  let lower (c : Nat) : Bool := (s.cell c).lowerThan prio
  match held.find? fun r => (regionCells d r.origin r.w r.h).all free with
  | some r => .start r.origin
  | none =>
    match spots.find? fun o => (s.touched d o w h).all fun c => (s.cell c).idle with
    | some o => if s.evictRoom d w h o l then .load o else .spill
    | none =>
      match held.find? fun r => (regionCells d r.origin r.w r.h).all lower with
      | some r =>
        let need := (regionCells d r.origin r.w r.h).foldl (fun n c =>
          if free c then n else n + 3 * (s.cell c).tilesOf (s.cell c).victim.toList) 0
        if s.spillRoom d need then .evict r.origin else .spill
      | none =>
        match spots.find? fun o => (s.touched d o w h).all lower with
        | some o => if s.evictRoom d w h o l then .load o else .spill
        | none => .wait

/-- The choice for a node whose load cannot be carried out: a pinned one still clears the region there, and one without a
pin has no region to clear. Log entry 52, DEDUCED. -/
def State.refusal (s : State) (d : Nat) (pin : Option Nat) : Choice :=
  match pin with
  | some o => if (s.touched d o 1 1).all fun c => (s.cell c).idle then .reject o else .wait
  | none => .fail

/-- The choice for a node, with the image it names. -/
def State.nodeChoice (s : State) (k n : Nat) : Choice :=
  let g := s.gnode k n
  let image : W64 := BitVec.ofNat 64 (field g.bytes 8 8)
  let pin := if g.pin then some g.origin else none
  if 8 ≤ g.die then .fail
  else
    match (s.readImage g.die image).1 with
    | none => s.refusal g.die pin
    | some l =>
      match (imgHandlerList l).find? fun e => e.1 == g.handler with
      | none => .fail
      | some (_, h) =>
        let gone := match pin with
          | some o => !rectFits o (imgW l) (imgH l) ||
              (regionCells g.die o (imgW l) (imgH l)).any fun c => (s.die g.die).absent (c % 256)
          | none => false
        if h.arrival || (needsPin l && !g.pin) then .fail
        else if gone then s.refusal g.die pin
        else s.choose g.die (effPrio (((s.graph k).map Graph.prio).getD 0) g.readyAt s.elapsed) image pin l

/-! ## Binding -/

/-- The effective priority of a node now. -/
def State.nodePrio (s : State) (k n : Nat) : Nat :=
  effPrio (((s.graph k).map Graph.prio).getD 0) (s.gnode k n).readyAt s.elapsed

/-- A node starts. -/
def State.nodeStarts (s : State) (k n : Nat) : State :=
  let p := s.nodePrio k n
  s.modNode k n fun g => { g with st := .running, startAt := s.elapsed, prio := p }

/-- Gives every cell of a region its `RUN` task of a node that has started. -/
def State.bindRegion (s : State) (k n d origin : Nat) : State :=
  match (s.die d).regions.find? fun r => r.origin == origin with
  | none => s
  | some r =>
    let cells := regionCells d r.origin r.w r.h
    let g := s.gnode k n
    let args : List W64 := (List.range 4).map fun i => BitVec.ofNat 64 (field g.bytes (16 + 8 * i) 8)
    let s := s.modNode k n fun g => { g with region := some (d, origin), left := cells, bad := false, rerun := false }
    cells.foldl (fun t c =>
      (t.modCell c fun q => { q with runs := q.runs ++ [(k, n, g.handler, g.prio, args)] }).post .taskStartArrival
        { Args.empty with c := c }) s

/-- Whether a choice binds or ends its node. -/
def Choice.acts : Choice → Bool
  | .spill | .wait => false
  | _ => true

/-- The READY RUN node that R356 puts first of those that can bind now. -/
def State.firstRun (s : State) : Option (Nat × Nat) := s.readyRuns.find? fun e => (s.nodeChoice e.1 e.2).acts

/-- `RUN_NODE_BIND`: a READY RUN node binds by R357, fails, or stays READY and is looked at again as its priority
rises. One that R356 puts before it and that can bind now binds first. Log entry 56, DESIGN CHOICE. -/
def execRunNodeBind (s : State) : Out :=
  .next (
    let k := s.args.k
    let n := s.args.n
    let g := s.gnode k n
    let first := (s.firstRun).filter fun e => e != (k, n)
    if g.st ≠ .ready ∨ g.type ≠ 1 then s
    else if (s.nodeChoice k n).acts ∧ first.isSome then
      (s.post .runNodeBind { Args.empty with k := (first.getD (k, n)).1, n := (first.getD (k, n)).2 }).post .runNodeBind s.args
    else
      let image : W64 := BitVec.ofNat 64 (field g.bytes 8 8)
      let ch := s.nodeChoice k n
      let s := s.modPkg fun p => { p with spillWait := s.readyRuns.any fun e => s.nodeChoice e.1 e.2 == .spill }
      match ch with
      | .fail => (s.nodeStarts k n).nodeDone k n false
      | .start o => (s.nodeStarts k n).bindRegion k n g.die o
      | .evict o =>
        match (s.die g.die).regions.find? fun r => r.origin == o with
        | none => s
        | some r =>
          let t := (regionCells g.die r.origin r.w r.h).foldl (fun t c =>
            if (s.cell c).runs.length < (s.cell c).frees.length then t else t.preemptFor c (s.nodePrio k n)) s
          (t.nodeStarts k n).bindRegion k n g.die o
      | .load o =>
        match (s.readImage g.die image).1 with
        | none => s
        | some l =>
          let cells := s.touched g.die o (imgW l) (imgH l)
          let t := cells.foldl (fun t c => t.askEvict c [0, 1, 2, 3]) (s.nodeStarts k n)
          let p := (t.gnode k n).prio
          (t.modDie g.die fun d => { d with loads := d.loads ++ [⟨o, imgW l, imgH l, image, some (k, n), p⟩] }).post
            .configLoad { Args.empty with die := g.die, origin := o }
      | .reject o =>
        let t := s.nodeStarts k n
        (t.modDie g.die fun d => { d with loads := d.loads ++ [⟨o, 1, 1, image, some (k, n), (t.gnode k n).prio⟩] }).post
          .configLoad { Args.empty with die := g.die, origin := o }
      | _ => s.after 1000000 .runNodeBind s.args)

/-! ## Eviction of a configuration (R40, R367) -/

/-- An incoming configuration claims pages of a cell: every evicted configuration there keeps those that it has in place in
frames (R40, R367). Log entry 53, DESIGN CHOICE. -/
def State.claimPages (s : State) (d c : Nat) (pages : List Nat) : State :=
  ((s.die d).shelf.filter fun h => h.cell == c).foldl (fun s h =>
    let lost := pages.filter fun p => !(h.pages.map Prod.fst).contains p
    let f := s.takeFrames d lost.length
    let s := (List.range lost.length).foldl (fun t i =>
      let page := flat c 0 (lost.getD i 0 * 0x4000)
      (t.spillBytes d [f.1.getD i 0] (t.readBytes page 0x4000)).carryPoison page
        (flatOf (t.spillFrame d (f.1.getD i 0))) 0x4000 t.poison) f.2
    s.modDie d fun k => { k with shelf := k.shelf.map fun q => if q = h then { q with pages := q.pages ++ lost.zip f.1 } else q }) s

/-- An engine as its configuration is set aside: its weight buffers and pair stay in place for that configuration alone,
whose record holds them (R252, R253). Log entry 53, DESIGN CHOICE. -/
def MatEngine.setAside (m : MatEngine) : MatEngine :=
  { MatEngine.reset with tiles := m.tiles, aside := m.aside || !m.buffers.isEmpty || m.pair.isSome }

/-- Engines whose buffers or pair the configuration of a cell has set. -/
def Cell.ownBuffers (k : Cell) : List Nat :=
  [0, 1].filter fun e => !(k.mat e).aside && (!(k.mat e).buffers.isEmpty || (k.mat e).pair.isSome)

/-- Sets the configuration of a region aside: it has tasks to come back. Scratch, tiles and weight buffers stay in place.
Log entry 53, DESIGN CHOICE. -/
def State.shelve (s : State) (d : Nat) (r : Region) : State :=
  let s := (regionCells d r.origin r.w r.h).foldl (fun s c =>
    let was := s.cell c
    let h : Shelf := ⟨c, r.origin, r.image, was, s.fullOf c, [], was.ownBuffers, []⟩
    (s.modDie d fun k => { k with shelf := k.shelf ++ [h] }).modCell c fun k =>
      Cell.unconfigured { k with mats := k.mats.map fun (m : Nat × MatEngine) => (m.1, m.2.setAside) }) s
  s.modDie d fun k => ({ k with regions := k.regions.filter fun q => q.origin != r.origin } : Die).pruneTensors

/-- Makes room for a load that claims pages of its cells: regions with tasks to come back are set aside, others dropped. -/
def State.clearFor (s : State) (d origin w h : Nat) (pages : List Nat) : State :=
  let cells := regionCells d origin w h
  let s := (s.overlapped d cells).foldl (fun t r =>
    if (regionCells d r.origin r.w r.h).any fun c => (t.cell c).hasTasks then t.shelve d r else t.dropRegion d r.origin) s
  cells.foldl (fun t c => t.claimPages d c pages) s

/-! ## Draining (R302) -/

/-- A cell on which nothing runs, is queued or is in flight. -/
def Cell.drained (k : Cell) : Bool :=
  k.frees.length == 4 && ((List.range 6).all fun e => (k.queue e).isEmpty) && k.copies.isEmpty
    && (k.groups.all fun g => g.2.run.isNone) && k.hal.pairing.isNone && k.rot.isNone
    && ([0, 1].all fun e => (k.mat e).idle) && k.orphans.isEmpty
    && k.saved.all fun v => v.bank.awaits.isEmpty && v.bank.pend.isEmpty

/-- The same with the requests of its tasks that are still on their way (R302). -/
def State.drained (s : State) (c : Nat) : Bool := (s.cell c).drained && (s.requests (dieOf c)).all fun r => r.1 != c

/-! ## Bringing a configuration back (R41, R368) -/

/-- The engines of a cell as its configuration comes back: tiles stay where they are, for the tasks to take as they resume;
weight buffers and pair are those that it had. Log entry 53, DESIGN CHOICE. -/
def Cell.matBack (was now : Cell) (e : Nat) : MatEngine :=
  let m := now.mat e
  let o := was.mat e
  if o.aside then m
  else if o.buffers.isEmpty && o.pair.isNone then m
  else { m with active := o.active, shadow := o.shadow, loaded := o.loaded, swapped := o.swapped, pair := o.pair, aside := false }

/-- A cell as it stood, with what belongs to the physical cell as it is now. -/
def Cell.brought (was now : Cell) : Cell :=
  let ctxs : Tab Ctx := (List.range 4).map fun x => (x, (now.ctx x).freed)
  { was.onPhysical now with
    ctxs := ctxs
    mats := [0, 1].map fun e => (e, Cell.matBack was now e) }

/-- Text and rules, then pages, then tiles and weights, of one evicted cell. Log entry 53, DESIGN CHOICE. -/
def State.bringCell (s : State) (d : Nat) (h : Shelf) (l : List Byte) : State :=
  let c := h.cell
  let s := s.writeText c l
  let s := h.pages.foldl (fun t p =>
    let r := t.globalRead (t.spillFrame d p.2) 0x4000
    r.2.overwrite (flat c 0 (p.1 * 0x4000)) r.1) s
  let s := (s.putFull c h.full).profInterval c (bitsAt h.was.regionId 16 32)
  let s := [0, 1].foldl (fun s e =>
    if (h.was.mat e).aside || h.kept.contains e then s else s.claimWeights c e) s
  let s := s.modCell c fun now => h.was.brought now
  let frames := h.pages.map Prod.snd ++ h.frames
  let bad := frames.any fun f => s.poisoned (flatOf (s.spillFrame d f)) 0x4000
  let s := s.freeFramesOf d frames
  if bad then s.askKill c 5 else s.post .taskStartArrival { Args.empty with c := c }

/-- The evicted configuration with an origin returns to its cells. -/
def State.bringBack (s : State) (d : Nat) (ld : Load) (l : List Byte) : State :=
  let hs := (s.die d).shelf.filter fun h => h.origin == ld.origin && h.image == ld.image
  let s := s.modDie d fun k => { k with shelf := k.shelf.filter fun h => !(h.origin == ld.origin && h.image == ld.image) }
  let s := s.clearFor d ld.origin ld.w ld.h (claimedPages (imgAlloc l) ++ hs.flatMap fun h => h.pages.map Prod.fst).eraseDups
  let s := hs.foldl (fun t h => t.bringCell d h l) s
  let r : Region := ⟨ld.origin, ld.w, ld.h, ld.image, (imgTensorList l).map Prod.fst⟩
  s.modDie d fun k => ({ k with regions := k.regions ++ [r] } : Die).addTensors l

/-- The highest priority among the tasks of an evicted configuration. -/
def State.shelfPrio (s : State) (d : Nat) (h : Shelf) : Nat :=
  (((s.die d).shelf.filter fun q => q.origin == h.origin && q.image == h.image).flatMap fun q => q.was.prios).foldl min 3

/-- Whether a READY RUN node of a strictly higher priority binds now to cells of a list. -/
def State.runFirst (s : State) (d prio : Nat) (cells : List Nat) : Bool :=
  s.readyRuns.any fun e => decide (s.nodePrio e.1 e.2 < prio) && (s.gnode e.1 e.2).die == d &&
    match s.nodeChoice e.1 e.2 with
    | .start o | .evict o =>
      (s.die d).regions.any fun r => r.origin == o && (regionCells d r.origin r.w r.h).any cells.contains
    | .load o =>
      match (s.readImage d (BitVec.ofNat 64 (field (s.gnode e.1 e.2).bytes 8 8))).1 with
      | some l => (s.touched d o (imgW l) (imgH l)).any cells.contains
      | none => false
    | _ => false

/-- Whether an evicted configuration may come back: its cells are usable, idle for its best task, and no node of a higher
priority takes them (R41). -/
def State.mayReturn (s : State) (d : Nat) (h : Shelf) : Bool :=
  let cells := s.touched d h.origin h.was.regW h.was.regH
  let best := s.shelfPrio d h
  (regionCells d h.origin h.was.regW h.was.regH).all s.usable && (cells.all fun c => (s.cell c).idleFor best)
    && !s.runFirst d best cells

/-- The evicted configuration of the highest priority that may come back does so. -/
def State.pokeShelf (s : State) (d : Nat) : State :=
  match leastBy (s.shelfPrio d) ((s.die d).shelf.filter fun h => h.was.ringPos == 0 && s.mayReturn d h) with
  | none => s
  | some h =>
    (s.modDie d fun k => { k with loads := k.loads ++ [⟨h.origin, h.was.regW, h.was.regH, h.image, none, 3⟩] }).post
      .configLoad { Args.empty with die := d, origin := h.origin }

/-! ## Loads and drops (R358, R364, R482) -/

/-- `CONFIG_LOAD`: once the cells have drained, the load is rejected or written; a node's region then starts its
tasks. Log entry 52, DEDUCED. Log entry 99, DEDUCED. -/
def execConfigLoad (s : State) : Out :=
  .next (
    let d := s.args.die
    match (s.die d).loads.find? fun l => l.origin == s.args.origin with
    | none => s
    | some ld =>
      if (s.touched d ld.origin ld.w ld.h).any fun c => !s.drained c then s.afterCycles 1 .configLoad s.args
      else
        let s := s.modDie d fun k => { k with loads := k.loads.erase ld }
        let r := s.readImage d ld.image
        match ld.node, r.1 with
        | none, some l => r.2.bringBack d ld l
        | none, none => r.2
        | some (k, n), none => (r.2.clearFor d ld.origin ld.w ld.h []).nodeDone k n false
        | some (k, n), some l =>
          let t := r.2.clearFor d ld.origin ld.w ld.h (claimedPages (imgAlloc l))
          if !imgOk d l || tensorsClash (t.die d).tensors l || imgW l != ld.w || imgH l != ld.h
              || (regionCells d ld.origin ld.w ld.h).any fun c => (t.die d).absent (c % 256) then t.nodeDone k n false
          else (t.writeConfig d ld.origin ld.prio ld.image l).bindRegion k n d ld.origin)

/-- A region that R482 drops: a cell out of service, no task, none evicted and none waiting. -/
def State.mayDrop (s : State) (d : Nat) (r : Region) : Bool :=
  let cells := regionCells d r.origin r.w r.h
  (cells.any fun c => (s.die d).oos (c % 256)) &&
    cells.all fun c => (s.cell c).frees.length == 4 && !(s.cell c).waits && (s.cell c).saved.isEmpty && !s.underLoad c

/-- `CONFIG_DROP`: a region out of service loses its configuration; then an evicted configuration may come back. -/
def execConfigDrop (s : State) : Out :=
  .next (
    let d := s.args.die
    let t := match (s.die d).regions.find? fun r => r.origin == s.args.origin with
      | some r => if s.mayDrop d r then s.dropRegion d r.origin else s
      | none => s
    t.pokeRuns.pokeShelf d)

/-! ## COPY nodes (R352) -/

/-- The cell whose copy engine runs a descriptor: the one that DST names, or MD0 cell 0 for a host DST.
Log entry 55, DEDUCED. -/
def State.copyCell (s : State) (l : List Byte) : Nat :=
  if dDstHost l then 0
  else if dDstTile l then 0
  else if aPkg (dDst l) = s.pkg.number then aCell (dDst l) else 0

/-- `COPY_NODE_START`: the node takes an entry of the copy engine's queue as soon as one is free. -/
def execCopyNodeStart (s : State) : Out :=
  .next (
    let k := s.args.k
    let n := s.args.n
    let g := s.gnode k n
    let s := if g.st = .ready then s.nodeStarts k n else s
    if (s.gnode k n).st ≠ .running ∨ g.type ≠ 2 then s
    else
      let l := slice g.bytes 8 32
      let c := s.copyCell l
      if 16 ≤ ((s.cell c).queue 0).length then s.afterCycles 1 .copyNodeStart s.args
      else
        let code := if dSrcHost l || dDstHost l then 2 else 1
        let m : Cmd := ⟨(s.cell c).nextId, 4, 0, 0, true, BitVec.ofNat 64 code, BitVec.ofNat 64 (field g.bytes 24 8), some l, some (k, n)⟩
        ((s.modCell c fun k => { k with nextId := k.nextId + 1 }).modQueue c 0 fun q => q ++ [m]).post .copyComplete { Args.empty with c := c })

/-! ## WAIT nodes -/

/-- A WAIT node's object as it stands: none while its condition does not hold, else whether it succeeds. An object of
another package is free at each look. Log entry 10, DESIGN CHOICE. Log entry 22, DEDUCED. -/
def State.waitOutcome (s : State) (l : List Byte) : Option Bool × State :=
  let a : W64 := BitVec.ofNat 64 (field l 8 8)
  let bar := field l 16 1 == 0
  let n := if bar then 16 else 8
  if (s.engineFault ⟨a, n, n, false, true, false, false, true⟩).isSome then (some false, s)
  else
    let r := s.globalRead a n
    if bar then
      let b := Barrier.ofBytes r.1
      (if b.phase == (field l 17 1 == 1) then none else some (b.err == 0), r.2)
    else (if ofBytes r.1 < field l 24 8 then none else some true, r.2)

/-- `WAIT_NODE`: looks at its object each cycle; the first look starts the timeout. -/
def execWaitNode (s : State) : Out :=
  .next (
    let k := s.args.k
    let n := s.args.n
    let g := s.gnode k n
    let s := if g.st = .ready then
        let t := s.nodeStarts k n
        if field g.bytes 32 8 = 0 then t else t.after (field g.bytes 32 8) .waitNodeTimeout s.args
      else s
    if (s.gnode k n).st ≠ .running ∨ g.type ≠ 3 then s
    else
      let r := s.waitOutcome g.bytes
      match r.1 with
      | some ok => r.2.nodeDone k n ok
      | none => r.2.afterCycles 1 .waitNode s.args)

/-- `WAIT_NODE_TIMEOUT`: a node still waiting since that start fails. -/
def execWaitNodeTimeout (s : State) : Out :=
  .next (
    let k := s.args.k
    let n := s.args.n
    let g := s.gnode k n
    if g.type = 3 ∧ g.st = .running ∧ g.startAt + field g.bytes 32 8 * 45000 ≤ s.elapsed then s.nodeDone k n false else s)

/-! ## COND nodes (R353) -/

def condHolds (op : Nat) (x y : W64) : Bool :=
  match op with
  | 0 => x == y
  | 1 => x != y
  | 2 => x.slt y
  | 3 => !x.slt y
  | 4 => x.ult y
  | _ => !x.ult y

/-- The end of a COND node whose word read `w`: it re-arms its range, and chooses its successors. One that fails chooses
none. -/
def State.condEnds (s : State) (k n : Nat) (w : W64) : State :=
  let g := s.gnode k n
  let l := g.bytes
  let c := condHolds (field l 16 1) (w &&& BitVec.ofNat 64 (field l 32 8)) (BitVec.ofNat 64 (field l 24 8))
  let arm := (field l 17 1 == 1 && c) || (field l 17 1 == 2 && !c)
  let lo := field l 18 2
  let hi := field l 20 2
  let inRange (i : Nat) : Bool := decide (lo ≤ i) && decide (i ≤ hi)
  let range := (List.range (hi + 1 - lo)).map fun i => lo + i
  let busy := range.any fun i => i != n && ((s.gnode k i).st == .ready || (s.gnode k i).st == .running)
  if arm && busy then s.nodeEnds k n false .done []
  else
    let rearm (t : State) (i : Nat) : State :=
      t.modNode k i fun m => { m with st := if i = n then .running else .loaded, count := m.deps }
    let s := if arm then range.foldl rearm s else s
    let t := field l 4 1 % 16
    let f := field l 4 1 / 16
    let chosen := if c then (List.range t).map g.succ else (List.range f).map fun i => g.succ (t + i)
    s.nodeEnds k n true (if arm && inRange n then .loaded else .done) chosen (if arm then range else [])

/-- `COND_NODE`: read, compare, add, re-arm, and choose the successors, in one step; an addition in another package is
waited for (with `flag`), as the node completes when it is performed (R414). -/
def execCondNode (s : State) : Out :=
  .next (
    let k := s.args.k
    let n := s.args.n
    let g := s.gnode k n
    if s.args.flag then
      (if g.st ≠ .running ∨ g.type ≠ 4 then s
       else if s.pkg.writes.contains s.args.id then s.afterCycles 1 .condNode s.args
       else s.condEnds k n s.args.v)
    else if g.st ≠ .ready ∨ g.type ≠ 4 then s
    else
      let l := g.bytes
      let s := s.nodeStarts k n
      let a : W64 := BitVec.ofNat 64 (field l 8 8)
      if (s.engineFault ⟨a, 8, 8, field l 22 2 != 0, false, field l 22 2 != 0, true, true⟩).isSome then s.nodeEnds k n false .done []
      else
        let r := s.placeRead a 8
        let w : W64 := BitVec.ofNat 64 (ofBytes r.1)
        let inc : W64 := (BitVec.ofNat 16 (field l 22 2)).signExtend 64
        if inc = 0 then r.2.condEnds k n w
        else if aPkg a = s.pkg.number then (r.2.writeN (flatOf a) 8 (w + inc).toNat).condEnds k n w
        else
          let q := r.2.awaitedWrite a 0x3A (toBytes 8 inc.toNat)
          q.2.afterCycles 1 .condNode { Args.empty with k := k, n := n, flag := true, v := w, id := q.1 })

/-! ## END nodes (R354) -/

/-- `END_NODE`: once every other node has left RUNNING (R352), the rest of the graph is cancelled (R354). -/
def execEndNode (s : State) : Out :=
  .next (
    let k := s.args.k
    let n := s.args.n
    match s.graph k with
    | none => s
    | some g =>
      let me := g.nodes.getD n GNode.reset
      let s := if me.st = .ready then s.nodeStarts k n else s
      let others := (List.range g.nodes.length).any fun i =>
        i != n && (g.nodes.getD i GNode.reset).st == .running
      if (s.gnode k n).st ≠ .running ∨ me.type ≠ 6 ∨ others then s
      else (((s.modNode k n fun m => { m with st := .done }).modGraph k Graph.cancel).pokeEnds k).settleGraph k)

end Sys2Proof.Machine
end

