-- ==== Sys2Proof/Machine/Rings.lean ====
section
/-! DEFINITION. The host port (R342-R344, R411, R412, R415): host rings, MSI-X, HRING nodes and the staging window. -/

namespace Sys2Proof.Machine
open Sys2Proof

def Pkg.ring (p : Pkg) (n : Nat) : Ring := p.rings.get Ring.reset n
def State.modRing (s : State) (n : Nat) (f : Ring → Ring) : State :=
  s.modPkg fun p => { p with rings := p.rings.ins n (f (p.ring n)) }

/-! ## MSI-X -/

/-- A word of the MSI-X table: entry v holds its address in words 4v and 4v + 1, its data in 4v + 2 and its mask in bit 0
of 4v + 3, which is set at reset. Log entry 21, PRESUMED. -/
def Pkg.msixWord (p : Pkg) (i : Nat) : W32 := p.msix.get (if i % 4 = 3 then 1 else 0) i
/-- Log entry 21, PRESUMED. -/
def Pkg.masked (p : Pkg) (v : Nat) : Bool := (p.msixWord (4 * v + 3)).getLsbD 0

/-- Sends the message of a vector, or keeps it pending while the vector is masked. Log entry 21, PRESUMED. -/
def State.signalMsix (s : State) (v : Nat) : State :=
  if s.pkg.masked v then s.modPkg fun p => { p with pending := p.pending ||| BitVec.ofNat 32 (2 ^ v) }
  else s.hostWrite ((s.pkg.msixWord (4 * v)).toNat + (s.pkg.msixWord (4 * v + 1)).toNat * 2 ^ 32)
    (toBytes 4 (s.pkg.msixWord (4 * v + 2)).toNat)

/-- Clears the mask of a vector and sends its pending message. -/
def State.unmask (s : State) (v : Nat) : State :=
  let was := s.pkg.pending.getLsbD v
  let s := s.modPkg fun p => { p with
    msix := p.msix.ins (4 * v + 3) (p.msixWord (4 * v + 3) &&& ~~~1#32)
    pending := p.pending &&& ~~~(BitVec.ofNat 32 (2 ^ v)) }
  if was then s.signalMsix v else s

/-- `MSIX_UNMASK`. -/
def execMsixUnmask (s : State) : Out := .next (if s.args.n < 32 then s.unmask s.args.n else s)

/-! ## Posting (R412) -/

/-- Raises the interrupt of a ring whose count or timer is due. -/
def State.ringIrq (s : State) (n : Nat) : State :=
  let r := s.pkg.ring n
  if decide (r.n ≤ r.c) || (r.t != 0 && decide (1 ≤ r.c) && decide (r.t0 + r.t * 1000 * 45000 ≤ s.time)) then
    (s.signalMsix r.vector).modRing n fun r => { r with irqs := min (r.irqs + 1) 0xFFFFFFFF, c := 0 }
  else s

/-- After N or T is written: the interrupt if it is now due, else the timer of the records not yet counted. -/
def State.ringWatch (s : State) (n : Nat) : State :=
  let s := s.ringIrq n
  let r := s.pkg.ring n
  if r.c = 0 ∨ r.t = 0 then s
  else { s with timers := s.timers ++ [(r.t0 + 1000 * r.t * 45000 - s.pkg.time.stepped, ⟨.hringIrqTimer, { Args.empty with n := n }⟩)] }

def Ring.size (r : Ring) : Nat := 2 ^ r.log2
def Ring.full (r : Ring) : Bool := (r.head - r.tail).toNat == r.size

/-- Posts one record: the record, the HEAD write-back, and the interrupt, in that order. Log entry 57, DEDUCED. -/
def State.ringPost (s : State) (n : Nat) (l : List Byte) : State :=
  let r := s.pkg.ring n
  let s := s.hostWrite (r.base.toNat + 64 * (r.head.toNat % r.size)) l
  let s := s.modRing n fun r => { r with head := r.head + 1, c := r.c + 1, t0 := if r.c = 0 then s.time else r.t0 }
  let s := if r.headwb = 0 then s else s.hostWrite r.headwb.toNat (toBytes 8 (r.head + 1).toNat)
  let s := if r.c = 0 ∧ r.t ≠ 0 then s.after (1000 * r.t) .hringIrqTimer { Args.empty with n := n } else s
  s.ringIrq n

/-- Posts waiting records while the ring has space; a record's node completes with its posting. -/
def State.ringDrain (s : State) (n : Nat) : Nat → State
  | 0 => s
  | f + 1 =>
    let r := s.pkg.ring n
    match r.waiting with
    | [] => s
    | w :: rest =>
      if r.full then s
      else
        let s := (s.ringPost n w.bytes).modRing n fun r => { r with waiting := rest }
        (match w.node with
          | some (k, i) => s.nodeDone k i true
          | none => s).ringDrain n f

/-- Hands a record to a ring. -/
def State.ringPut (s : State) (n : Nat) (w : RingRec) : State :=
  let s := s.modRing n fun r => { r with waiting := r.waiting ++ [w] }
  s.ringDrain n (s.pkg.ring n).waiting.length

/-- A ring that is disabled: nodes whose records wait fail. -/
def State.ringDisable (s : State) (n : Nat) : State :=
  let w := (s.pkg.ring n).waiting
  let s := s.modRing n fun r => { r with en := false, waiting := [] }
  w.foldl (fun t x => match x.node with
    | some (k, i) => t.nodeDone k i false
    | none => t) s

/-- `HRING_IRQ_TIMER`. -/
def execHringIrqTimer (s : State) : Out := .next (s.ringIrq s.args.n)

/-- `HOST_RING_ENABLE` (R411): EN := 1 empties the ring. -/
def execHostRingEnable (s : State) : Out :=
  .next (if s.args.n < 16 then s.modRing s.args.n fun r => { r with en := true, head := 0, tail := 0 } else s)

/-- `HOST_RING_TAIL`: the host has consumed records. -/
def execHostRingTail (s : State) : Out :=
  .next (
    if s.args.n < 16 then
      let s := s.modRing s.args.n fun r => { r with tail := BitVec.ofNat 32 s.args.v.toNat }
      s.ringDrain s.args.n (s.pkg.ring s.args.n).waiting.length
    else s)

/-- `HRING_NODE`: reads its record once, at its start (R415), and hands it to the ring. -/
def execHringNode (s : State) : Out :=
  .next (
    let k := s.args.k
    let n := s.args.n
    let g := s.gnode k n
    if g.st ≠ .ready ∨ g.type ≠ 5 then s
    else
      let s := s.nodeStarts k n
      let ring := field g.bytes 8 1
      let a : W64 := BitVec.ofNat 64 (field g.bytes 16 8)
      if 16 ≤ ring ∨ !(s.pkg.ring ring).en ∨ a.toNat % 64 ≠ 0 ∨ !s.readableAt a 64 then s.nodeDone k n false
      else
        let r := s.globalRead a 64
        r.2.ringPut ring ⟨r.1, some (k, n)⟩)

/-! ## The staging window (R344) -/

/-- Bytes of a ring register. -/
def Ring.reg (r : Ring) (i : Nat) : W64 :=
  match i with
  | 0 => r.base
  | 1 => BitVec.ofNat 64 (r.log2 + r.vector * 2 ^ 8 + r.en.toNat * 2 ^ 16)
  | 2 => r.head.setWidth 64
  | 3 => r.tail.setWidth 64
  | 4 => BitVec.ofNat 64 (r.n + r.t * 2 ^ 32)
  | 5 => r.headwb
  | 6 => BitVec.ofNat 64 (r.full.toNat + r.irqs * 2 ^ 32)
  | _ => 0

/-- Writes bytes into the staging window. -/
def State.stagingWrite (s : State) (o : Nat) : List Byte → State
  | [] => s
  | b :: t => ((s.noteTable 0 5 0 (stagingKey o) 1).setByte (stagingKey o) b).stagingWrite (o + 1) t

/-- `HOST_STAGING_ACCESS`: a host write is an ordinary write that leaves full bits as they are; a read changes nothing. -/
def execHostStagingAccess (s : State) : Out :=
  .next (
    let a := s.args
    if a.flag && decide (a.off + a.bytes.length ≤ 0x4000000) then
      let t := s.stagingWrite a.off a.bytes
      { t with poison := t.poison.filter fun e =>
          !((List.range a.bytes.length).any fun i =>
            stagingKey (a.off + i) == e.1 && decide (i + 8 ≤ a.bytes.length)) }
    else s)

end Sys2Proof.Machine
end

