-- ==== Sys2Proof/Machine/Traps.lean ====
section
/-! DEFINITION. Trap records and the record queues of a die (R369, R370), and the commands of the DCP (R371, R372). -/

namespace Sys2Proof.Machine
open Sys2Proof

/-! ## Trap records (R369) -/

/-- The four words of the trap record of a stopped context. Bit 25 of word 1 is set for a stop inside a handler that had
left `TRAP_VEC`.V at 0: the hidden bit of R165 still stands. Log entry 24, DEDUCED. Log entry 58, DEDUCED. -/
def State.trapRecord (s : State) (c x : Nat) : List W64 :=
  let t := s.ctxOf c x
  let k := s.cell c
  let inside := t.hidden && !t.trapVec.getLsbD 0
  [s.tai,
    BitVec.ofNat 64 (c % 256 + x % 4 * 2 ^ 8 + bitsAt t.trapCause 0 8 * 2 ^ 16 + bitsAt t.trapCause 8 1 * 2 ^ 24
      + inside.toNat * 2 ^ 25 + bitsAt t.trapCause 16 14 * 2 ^ 32),
    BitVec.ofNat 64 (bitsAt t.trapPc 0 17 + bitsAt t.trapSlot 0 4 * 2 ^ 17 + bitsAt t.doneMask 0 14 * 2 ^ 21),
    BitVec.ofNat 64 (bitsAt k.regionId 16 32 + bitsAt k.stageId 0 16 * 2 ^ 32)]

/-- The tile that the `MCHK` at a bundle address and slot names. -/
def State.mchkTile (s : State) (c pc slot : Nat) : Nat :=
  let i := (decodeHeader (s.fetch c pc)).slots.findIdx fun n => n == slot
  match decodeSlot slot (s.fetch c (pc + 4 + 4 * i)) with
  | .ok (.mchk t _) => t.toNat
  | _ => 0

/-- An ABFT_MISMATCH delivered to the DCP is logged as kind 7 with its tile and row, and the region is killed; a second
one on a cell within 1 s takes the cell out of service (R429). -/
def State.abftTrap (s : State) (c x : Nat) : State :=
  let t := s.ctxOf c x
  let info := bitsAt t.trapCause 16 14
  let d := dieOf c
  let again := match (s.die d).abft.find? fun e => e.1 == c % 256 with
    | some e => decide (s.elapsed < e.2 + 1000000000 * 45000)
    | none => false
  let s := s.logCell c 7 (9 - min (bitsAt t.trapSlot 0 4) 9)
    (BitVec.ofNat 64 (s.mchkTile c (bitsAt t.trapPc 2 15 * 4) (bitsAt t.trapSlot 0 4) + info % 128 * 2 ^ 3))
    (BitVec.ofNat 64 (x + bitsAt t.trapPc 2 15 * 4 + bitsAt t.trapSlot 0 4 * 2 ^ 17))
  let s := s.modDie d fun k => { k with abft := k.abft.ins (c % 256) s.elapsed }
  let s := if again then s.modDie d fun k => k.setOos (c % 256) true else s
  s.askKill c 2

/-- `TRAP_RECORD_POST`: posts the record of a stopped context, or holds it at its cell while the queue is full. -/
def execTrapRecordPost (s : State) : Out :=
  .next (
    let c := s.args.c
    let x := s.args.x
    if (s.ctxOf c x).st ≠ .stopped then s
    else
      let s := s.modDie (dieOf c) fun d => { d with traps := d.traps.push 64 (s.trapRecord c x) }
      if bitsAt (s.ctxOf c x).trapCause 0 8 = 0x0A then s.abftTrap c x else s)

/-! ## Popping (R370, R380) -/

/-- Commands of engines whose sources held a fault record are looked at again. -/
def State.pokeEngines (s : State) (d : Nat) : State :=
  (s.cells.filter fun e => dieOf e.1 == d).foldl (fun t e =>
    let t := t.pokeCopies e.1
    [1, 2, 3, 4, 5].foldl (fun t i =>
      (e.2.queue i).foldl (fun t _ => t.post .engineCommandComplete { Args.empty with c := e.1, e := i }) t) t) s

/-- `FB_POP`: the oldest entry of the fault buffer goes; a held record takes its place, and its source goes on. -/
def execFbPop (s : State) : Out :=
  .next (
    let d := s.args.die
    let held := !(s.die d).faults.held.isEmpty
    let s := s.modDie d fun k => { k with faults := k.faults.pop }
    if held then s.pokeEngines d else s)

/-- `FAULT_RECORD_POST`: a held record is posted if an entry is free. -/
def LogQueue.settle (q : LogQueue) (cap : Nat) : LogQueue :=
  match q.held with
  | [] => q
  | h :: hs => if q.items.length < cap then { q with items := q.items ++ [h], held := hs } else q

def execFaultRecordPost (s : State) : Out :=
  .next (s.modDie s.args.die fun k => { k with faults := k.faults.settle 256 })

/-- `TQ_POP` and `ELOG_POP`. -/
def execTqPop (s : State) : Out := .next (s.modDie s.args.die fun k => { k with traps := k.traps.pop })
def execElogPop (s : State) : Out := .next (s.modDie s.args.die fun k => { k with elog := k.elog.pop })

/-! ## DCP commands (R371, R372, R461) -/

/-- `DCP_CMD`: GO clears when OP has taken effect, and ERR says whether it was refused. -/
def State.dcpDone (s : State) (d : Nat) (err : Bool) : State :=
  s.modDie d fun k => { k with csr := k.csr.ins 0x20D (withBits (withBits (k.csr.get 0 0x20D) 13 1 0) 14 1 err.toNat) }

def execDcpSelect (s : State) : Out :=
  .next ((s.modDie s.args.die fun k => { k with selected := k.selected.ins (s.args.c % 256) s.args.x }).dcpDone s.args.die
    false)

/-- The evicted task of a context number: of the cell's configuration, else of an evicted one. -/
def State.evictedOf (s : State) (c x : Nat) : Option Saved :=
  ((s.cell c).saved ++ ((s.die (dieOf c)).shelf.filter fun h => h.cell == c).flatMap fun h => h.was.saved).find? fun v => v.num == x

/-- `REGION_ID` of the configuration of an evicted task, by which a kill names it (R432). -/
def State.regionOf (s : State) (c : Nat) (v : Saved) : W64 :=
  if (s.cell c).saved.contains v then (s.cell c).regionId
  else (((s.die (dieOf c)).shelf.find? fun h => h.cell == c && h.was.saved.contains v).map fun h => h.was.regionId).getD
    (s.cell c).regionId
/-- Changes the bank of an evicted task, with its save area (R372). -/
def State.modSaved (s : State) (c x : Nat) (f : Ctx → Ctx) : State :=
  match s.evictedOf c x with
  | none => s
  | some v => s.modAway c (fun b => b.task == v.bank.task) f

/-- RESUME and STEP: refused for a context that is not STOPPED; recorded for one that is evicted.
Log entry 59, DEDUCED. -/
def State.dcpResume (s : State) (d c x : Nat) (step : Bool) : State :=
  let t := s.ctxOf c x
  if t.dead then s.dcpDone d true
  else if t.isStopped then (s.resumeCtx c x step).dcpDone d false
  else
    match s.evictedOf c x with
    | some v =>
      if v.bank.st = .stopped ∧ !v.bank.dead then
        (s.modSaved c x fun b => { b with order := some step }).dcpDone d false
      else s.dcpDone d true
    | none => s.dcpDone d true

def execDcpResume (s : State) : Out := .next (s.dcpResume s.args.die s.args.c s.args.x false)
def execDcpStep (s : State) : Out := .next (s.dcpResume s.args.die s.args.c s.args.x true)

/-- The end of a killed DISPATCH task: queued matrix operations, results and returns are discarded, tiles released, and
the task is reported failed. Log entry 59, DEDUCED. -/
def State.killTask (s : State) (c x : Nat) : State :=
  let s := [0, 1].foldl (fun t e => t.modMat c e fun m => { m with
    queue := m.queue.filter fun q => q.ctx != x
    originals := m.originals.filter fun q => q.ctx != x }) s
  let s := s.settle c x fun _ => true
  let s := s.modCell c fun k => { k with orphans := k.orphans ++ (k.ctx x).storesOut }
  let s := s.modCtxOf c x fun t => { t with
    land := []
    awaits := [] }
  s.retire c x true

/-- KILL (R371): of a DISPATCH task only; of an ARRIVAL task it is refused, and the region is killed instead (R432). -/
def execDcpKill (s : State) : Out :=
  .next (
    let d := s.args.die
    let c := s.args.c
    let x := s.args.x
    let t := s.ctxOf c x
    if t.dead then s.dcpDone d true
    else if t.st ≠ .free then
      if t.disp then (s.killTask c x).dcpDone d false
      else (s.dcpDone d true).askKill c 4
    else
      match s.evictedOf c x with
      | none => s.dcpDone d true
      | some v =>
        if v.bank.dead then s.dcpDone d true
        else if !v.bank.disp then (s.dcpDone d true).askKillOf c (s.regionOf c v) 4
        else
          let s := (s.settleAway c v).modCell c fun k => { k with orphans := k.orphans ++ v.bank.storesOut }
          (((s.dropSaved c v).taskDone v.bank.node c true).pokeRuns).dcpDone d false)

/-- POST: sets `EV_PEND`.POST. -/
def execDcpPost (s : State) : Out :=
  .next (
    let d := s.args.die
    let c := s.args.c
    let x := s.args.x
    let post (t : Ctx) : Ctx := t.setEvent 8
    match if (s.ctxOf c x).st = .free then s.evictedOf c x else none with
    | some v => if v.bank.dead then s.dcpDone d true else (s.modSaved c x post).dcpDone d false
    | none => if (s.ctxOf c x).dead then s.dcpDone d true else (s.modCtxOf c x post).dcpDone d false)

end Sys2Proof.Machine
end

