-- ==== Sys2Proof/Machine/Remote.lean ====
section
/-! DEFINITION. Remote operations at their target and back (R235, R236, R398), and the writing of interlocked results
that switch (R149, R171). -/

namespace Sys2Proof.Machine
open Sys2Proof

/-! ## At the target (R398, R74, R234) -/

/-- What an opcode byte of a remote request does. -/
inductive RemoteOp where
  | load | store | vload | vstore
  | amo (op : AmoOp)
  | storeFull | arrive | arrivex | signal | binit
  /-- an engine's subtraction from PENDING that travels behind its context's barrier operations (R336) -/
  | subtract
  /-- an engine's write of bytes from another package; `poisonWrite` has 64 bytes ahead that name those of poisoned words -/
  | engineWrite
  | poisonWrite
  deriving DecidableEq, Repr

/-- The operation of an opcode byte: far forms, twins, the releases that travel, and an engine's subtraction.
Log entry 13, DEDUCED. -/
def remoteOp (op : Nat) : Option RemoteOp :=
  if op = 0x20 ∨ op = 0x40 then some .load
  else if op = 0x21 ∨ op = 0x41 then some .store
  else if op = 0x22 ∨ op = 0x42 then some .vload
  else if op = 0x23 ∨ op = 0x43 then some .vstore
  else if op / 8 = 5 ∨ op / 8 = 9 then some (.amo (amoOf (op % 8)))
  else if op = 0x12 ∨ op = 0x36 then some .storeFull
  else if op = 0x37 then some .arrive
  else if op = 0x38 then some .arrivex
  else if op = 0x3A then some .signal
  else if op = 0x3C then some .binit
  else if op = 0xF0 then some .subtract
  else if op = 0xF1 then some .engineWrite
  else if op = 0xF2 then some .poisonWrite
  else none

/-- Bytes that the operation touches, and the alignment it needs; `len` are the bytes that it carries. -/
def RemoteOp.size (o : RemoteOp) (sz : BitVec 2) (len : Nat) : Nat × Nat :=
  match o with
  | .engineWrite => (len, 1)
  | .poisonWrite => (len - 64, 1)
  | .load | .store | .amo _ => (szBytes sz, szBytes sz)
  | .vload | .vstore => (512, 64)
  | .storeFull => (szBytes sz, szBytes sz)
  | .signal => (8, 8)
  | .arrive | .arrivex | .binit | .subtract => (16, 16)

/-- Whether the operation writes, and whether it acts on a synchronisation object or a full bit. -/
def RemoteOp.writes (o : RemoteOp) : Bool :=
  match o with
  | .load | .vload => false
  | _ => true
def RemoteOp.syncs (o : RemoteOp) : Bool :=
  match o with
  | .storeFull | .arrive | .arrivex | .signal | .binit | .subtract => true
  | _ => false
/-- The releases of R290 among them. `BINIT` is a write of class 0 (R336), an engine's subtraction no access of a context.
-/
def RemoteOp.release (o : RemoteOp) : Bool :=
  match o with
  | .storeFull | .arrive | .arrivex | .signal => true
  | _ => false

/-- R74 and R234 at the target. What synchronises was tested as a local access at its issue. -/
def State.remoteError (s : State) (o : RemoteOp) (r : RemoteReq) : Option Nat :=
  let z := o.size r.sz r.data.length
  let amo := match o with
    | .amo _ => true
    | _ => false
  s.accessFault ⟨r.addr, z.1, z.2, o.writes, o.syncs, amo, !o.syncs, r.supervisor⟩

/-- Whether uncorrectable data at the target meets the operation (R235, R421). Log entry 72, DEDUCED. -/
def State.remotePoison (s : State) (o : RemoteOp) (r : RemoteReq) : Bool :=
  let z := (o.size r.sz r.data.length).1
  aSpace r.addr != 3 && s.poisoned (flatOf r.addr) z &&
    (match o with
      | .store | .storeFull => decide (z < 8)
      | .vstore | .engineWrite | .poisonWrite => false
      | _ => true)

/-- The response of a request with a status. -/
def reqAnswer (r : RemoteReq) (status : Nat) (sync : Bool) (data : List Byte) (empties : W64) : RemoteResp :=
  ⟨r.cell, r.ctx, r.id, r.op, r.addr, status, sync, data, empties, checkCode r.op.toNat r.addr data⟩

/-- Sends a response to the cell that asked; an engine's subtraction has none. -/
def State.respond (s : State) (r : RemoteReq) (a : RemoteResp) : State :=
  if r.op = 0xF0 then s
  else if r.pkg = s.pkg.number then s.post .remoteResponse { Args.empty with resp := a }
  else
    s.post .packetInject { Args.empty with pk := { Packet.empty with
      dst := r.pkg
      die := BitVec.ofNat 3 (r.cell / 256)
      cell := BitVec.ofNat 8 r.cell
      ch := true
      kind := 3
      body := .response a } }

/-- Performs an operation that nothing forbids, on the target cell's memory or CSR window. Log entry 13, DEDUCED. -/
def State.perform (s : State) (o : RemoteOp) (r : RemoteReq) : State × RemoteResp :=
  let c := aCell r.addr
  let n := (o.size r.sz r.data.length).1
  let key := flatOf r.addr
  let csr := aSpace r.addr == 3
  let v : W64 := BitVec.ofNat 64 (ofBytes (r.data.take 8))
  let done (t : State) : State × RemoteResp := (t, reqAnswer r 0 false (zeros 8) 0)
  match o with
  | .load =>
    let l := if csr then s.windowBytes c 0 (aOff r.addr) n else s.readBytes key n
    (s, reqAnswer r 0 false (l ++ zeros (8 - n)) 0)
  | .store =>
    if csr then done (s.windowStore c 0 (aOff r.addr) (r.data.take n) r.supervisor)
    else done (s.storeBytes r.cell r.ctx r.oc key (r.data.take n))
  | .vload =>
    let l := if csr then s.windowBytes c 0 (aOff r.addr) 512 else s.readBytes key 512
    let e := if aSpace r.addr = 0 then s.emptyWords key 64 else 0
    (s, reqAnswer r 0 false l (BitVec.ofNat 64 e))
  | .vstore =>
    if csr then done ((List.range 64).foldl (fun t w =>
      t.windowStore c 0 (aOff r.addr + 8 * w) ((r.data.drop (8 * w)).take 8) r.supervisor) s)
    else done (s.storeBytes r.cell r.ctx r.oc key (r.data.take 512))
  | .amo op =>
    let old := s.readBytes key n
    let new := op.apply n (BitVec.ofNat 64 (ofBytes old)) v (BitVec.ofNat 64 (field r.data 8 8))
    (s.storeBytes r.cell r.ctx r.oc key (toBytes n new.toNat), reqAnswer r 0 false (old ++ zeros (8 - n)) 0)
  | .storeFull =>
    let t := (s.storeBytes r.cell r.ctx r.oc key (r.data.take n)).setFull key true
    done (if r.op = 0x12 then t else t.observe key (s.syncHits key true false false))
  | .arrive => done (s.updateBarrier key none true fun b => b.arrive 0).1
  | .arrivex => done (s.updateBarrier key none true fun b => b.arrive (signed48 v.toNat)).1
  | .signal => done (s.engineAdd r.addr v)
  | .binit => done (s.updateBarrier key none false (Barrier.init v)).1
  | .subtract => done (s.subtract key (field r.data 0 8) (field r.data 8 1))
  | .engineWrite => done (s.placeStore r.addr r.data true)
  | .poisonWrite =>
    let t := s.placeStore r.addr (r.data.drop 64) true
    done ((List.range n).foldl (fun t i =>
      if (field r.data 0 64).testBit i then { t with poison := t.poison.ins (wordOf (key + i)) true } else t) t)

/-- Earlier accesses of its context that a release of this package's cell still waits for: those within its own scope
(R290, R293). The scope of `STMC` is the region (R242). -/
def State.releaseWaits (s : State) (r : RemoteReq) : Bool :=
  let sc := if r.op = 0x36 then 1 else s.scopeOf r.cell r.addr
  let open_ (b : Ctx) : Bool := b.awaits.any fun w =>
    decide (w.id < r.base) && w.kind != .xlt && w.answer.isNone && s.scopeHolds r.cell sc w.addr
  let mine (b : Ctx) : Bool := b.awaits.any fun w => w.id == r.id
  let left (o : Orphan) : Bool := o.id == r.id
  let k := s.cell r.cell
  r.pkg == s.pkg.number && ((mine (k.ctx r.ctx) && open_ (k.ctx r.ctx)) || (k.saved.any fun v => mine v.bank && open_ v.bank)
    || k.orphans.any fun o => left o && k.orphans.any fun q =>
      q.task == o.task && decide (q.id < r.base) && s.scopeHolds r.cell sc q.addr)

/-- A release performs the earlier local accesses of its context first (R290), a `BINIT` those of class 0 (R336). -/
def State.settleFor (s : State) (o : RemoteOp) (r : RemoteReq) : State :=
  if r.pkg ≠ s.pkg.number then s
  else if o.release then s.settle r.cell r.ctx fun e => decide (e.seq < r.base)
  else if o = .binit then s.settle r.cell r.ctx fun e => e.oc == 0 && decide (e.seq < r.base)
  else s

/-- What a request does at its target, its turn come: the check code is tested first; a request that fails any test performs
nothing. A fenced die answers nothing but UNREACHABLE (R441). -/
def State.serve (s : State) (r : RemoteReq) : State :=
  match remoteOp r.op.toNat with
  | none => s.respond r (reqAnswer r 5 false (zeros 8) 0)
  | some o =>
    let s := s.settleFor o r
    if s.pkg.fenced.getLsbD (dieOf (aCell r.addr)) then s.respond r (reqAnswer r 4 false (zeros 8) 0)
    else if checkCode r.op.toNat r.addr r.data ≠ r.check then s.respond r (reqAnswer r 5 false (zeros 8) 0)
    else
      match s.remoteError o r with
      | some k => s.respond r (reqAnswer r (statusOfKind k) (k == kSync) (zeros 8) 0)
      | none =>
        if s.remotePoison o r then s.respond r (reqAnswer r 6 false (zeros 8) 0)
        else
          let p := s.perform o r
          p.1.respond r p.2

/-- Whether a request is a release that must wait (R290). -/
def State.mustWait (s : State) (r : RemoteReq) : Bool :=
  match remoteOp r.op.toNat with
  | some o => o.release && s.releaseWaits r
  | none => false

/-- `REMOTE_REQUEST`: a request behind an earlier one of its class waits for it, and a release for the accesses it covers.
-/
def execRemoteRequest (s : State) : Out :=
  .next (
    let r := s.args.req
    if s.behind r then s.post .remoteRequest s.args
    else if s.mustWait r then s.afterCycles 1 .remoteRequest s.args
    else s.serve r)

/-! ## Freeing a slot (R239, R297) -/

/-- `SFREE tag, sa` (R239). -/
def sfreeBad (x : Ctx) (t : Nat) (v : W64) : Bool :=
  bitsAt v 6 58 != 0 || !(x.bound.any fun b => b.tag == t && b.slot == bitsAt v 0 6 && !b.freed)

/-- Reads of the issuing context on their way to its own cell, of the `n` bytes from scratch offset `lo`, oldest first. -/
def State.slotReads (s : State) (lo n : Nat) : List RemoteReq :=
  sortBy RemoteReq.id ((s.flying.filter fun e => e.instr == .remoteRequest).filterMap fun e =>
    let r := e.args.req
    let size := if r.op = 0x22 ∨ r.op = 0x42 then 512
      else if r.op = 0x20 ∨ r.op = 0x40 ∨ r.op.toNat / 8 = 5 ∨ r.op.toNat / 8 = 9 then szBytes r.sz else 0
    if r.pkg == s.pkg.number && r.cell == s.focus.cell && r.ctx == s.focus.ctx && aPkg r.addr == s.pkg.number
      && aCell r.addr == s.focus.cell && aSpace r.addr == 0 && decide (aOff r.addr < lo + n)
      && decide (lo < aOff r.addr + size) then some r else none)

/-- Performs a request now, where it is in flight. -/
def State.performNow (s : State) (r : RemoteReq) : State :=
  let mine (e : Event) : Bool := e.instr == .remoteRequest && e.args.req == r
  ({ s with agenda := s.agenda.filter fun e => !mine e, alarms := s.alarms.filter fun e => !mine e.2 }).serve r

/-- The requests on their way to a request's cell that are performed before it (R286, R287, R290): the earlier ones of its
class, and with a release among them, or as one, all that the release covers. -/
def State.flyingBefore (s : State) (r : RemoteReq) : List RemoteReq :=
  let l := ((s.flying.filter fun e => e.instr == .remoteRequest).map fun e => e.args.req).filter fun d =>
    d.pkg == r.pkg && d.cell == r.cell && d.ctx == r.ctx && decide (d.id < r.id) && d.op != 0xF0 && aCell d.addr == aCell r.addr
  let frees (d : RemoteReq) : Bool := (remoteOp d.op.toNat).any RemoteOp.release
  let rels := (r :: l.filter fun d => reqPrecedes d r).filter frees
  sortBy RemoteReq.id (l.filter fun d => reqPrecedes d r || rels.any fun q => decide (d.id < q.base))

/-- The reads of a slot that the issuing context has issued are performed: waiting local ones, those on their way, and the
source reads of its queued matrix operations, which keep the bytes of the slot (R297). Log entry 105, DEDUCED. -/
def State.readSlot (s : State) (lo n : Nat) : State :=
  let c := s.focus.cell
  let x := s.focus.ctx
  let hit (p : Piece) : Bool := decide (p.key < flat c 0 lo + n) && decide (flat c 0 lo < p.key + p.bytes.length)
  let s := (s.ctx.pend.filter fun e => e.op.reads && e.pieces.any hit).foldl (fun t e => t.settleSeq c x e.seq) s
  let s := (s.slotReads lo n).foldl (fun t r => (t.flyingBefore r).foldl State.performNow t |>.performNow r) s
  let l := s.readBytes (flat c 0 lo) n
  let keep (e : MEntry) : MEntry := if e.ctx = x then { e with past := e.past ++ [(flat c 0 lo, l)] } else e
  s.modCell c fun k => { k with mats := k.mats.map fun m => (m.1, { m.2 with
    queue := m.2.queue.map keep
    originals := m.2.originals.map keep }) }

def execSfree (t : BitVec 4) (a : BitVec 6) (s : State) : Out :=
  .next (
    let v := s.rs a
    if sfreeBad s.ctx t.toNat v then s.illegal 34
    else
      let g := s.here.tag t.toNat
      let s := s.readSlot (g.slotOff (bitsAt v 0 6)) (strideOf g.pay)
      let s := s.modCtx fun x => { x.count 12 1 with
        bound := x.bound.map fun b =>
          if b.tag == t.toNat && b.slot == bitsAt v 0 6 then { b with freed := true } else b }
      s.freeSlot s.focus.cell t.toNat (bitsAt v 0 6))

/-! ## Back at the issuing cell -/

/-- Gives a waiting operation its answer, once. Log entry 95, DEDUCED. -/
def State.answerAwait (s : State) (c x id : Nat) (a : Nat × Nat × List Byte × W64) : State :=
  (s.modBank c x id fun t => { t with awaits := t.awaits.map fun w =>
    if w.id = id ∧ w.answer.isNone then { w with answer := some a } else w }).post .interlockReturn
      { Args.empty with c := c, x := x, id := id }

/-- Error kind of a far form that answers with a status (R235). -/
def kindOfStatus (status : Nat) (sync : Bool) : Nat :=
  match status with
  | 1 => kAddr
  | 2 => kAlign
  | 3 => if sync then kSync else kPerm
  | _ => kRemote

/-- An engine's request, or one whose task has retired, is answered or given up: the copy that waits for it, the wait of the
dispatcher or of the boot for it, and what was left of the task (R402, R414). -/
def State.engineAnswered (s : State) (c id : Nat) (ok : Bool) : State :=
  ((s.modPkg fun p => { p with writes := p.writes.erase id }).writeAnswered c id ok).orphanDone c id

/-- `REMOTE_RESPONSE`: a check code that does not match is status CHECK; an answer that comes too late is discarded. -/
def execRemoteResponse (s : State) : Out :=
  .next (
    let a := s.args.resp
    match s.awaited a.cell a.ctx a.id with
    | none => s.engineAnswered a.cell a.id (a.check == checkCode a.op.toNat a.addr a.data && a.status == 0)
    | some w =>
      if w.answer.isSome then s
      else
        let ok := a.check == checkCode a.op.toNat a.addr a.data
        let status := if ok then a.status else 5
        if w.kind = .xlt then
          s.walkEntry a.cell a.ctx a.id (if status = 0 then some (BitVec.ofNat 64 (ofBytes (a.data.take 8))) else none)
        else s.answerAwait a.cell a.ctx a.id (status, kindOfStatus status (ok && a.sync), a.data, a.empties))

/-- `FAR_ACCESS_TIMEOUT`: an operation without an answer ends UNREACHABLE. Log entry 95, DEDUCED. -/
def execFarAccessTimeout (s : State) : Out :=
  .next (
    let a := s.args
    match s.awaited a.c a.x a.id with
    | none => s.engineAnswered a.c a.id false
    | some w => if w.answer.isSome then s else s.answerAwait a.c a.x a.id (4, kRemote, [], 0))

/-! ## Writing the result (R149) -/

/-- Writes a scalar register from outside the issue of a bundle: an indirect branch of the same cycle still reads the old
value. `born` is the clock of the operation's issue: a later-issued result of this cycle stays (R121). -/
def Ctx.wsOut (x : Ctx) (n : Nat) (v : W64) (born : Nat) : Ctx :=
  x.landNow ⟨.scalar, 0, n, v.setWidth 512, 0, 1, 0, 0, 0, true, born, 0⟩

/-- Writes the clusters of a vector result, 64 bytes each in order. -/
def Ctx.wvOut (x : Ctx) (w : Await) (data : List Byte) (empties : W64) : Ctx :=
  let cls := (List.range 8).filter fun cl => w.clusters.getLsbD cl
  (List.range cls.length).foldl (fun t i =>
    let cl := cls.getD i 0
    let dead := w.dead.extractLsb' (16 * cl) 16
    let emp := wordsToLanes (empties.toNat / 2 ^ (8 * i) % 256) ||| dead
    t.landNow ⟨.vec, cl, w.reg, maskedData (vecOf ((data.drop (64 * i)).take 64)) emp, emp, 0xFFFF, 0, 0, 0, false, w.born, 0⟩) x

/-- Pair 7 as an answered operation writes it: a later-issued write of the pair in the same cycle stands (R121). -/
def Ctx.wpairOut (x : Ctx) (c : Bool) (born : Nat) : Ctx :=
  let y := if x.beaten .scalar 0 (pairReg 7) 1 born = 0 then x else x.wpair 7 c
  { y with reached := y.reached ++ [⟨.scalar, 0, pairReg 7, 1, born⟩] }

/-- What an answered operation writes: its register, pair 7 of a twin, or the error response of a form without status. -/
def Ctx.applyAnswer (x : Ctx) (w : Await) (a : Nat × Nat × List Byte × W64) : Ctx :=
  let data := a.2.2.1
  let n := szBytes w.sz
  match w.kind with
  | .xlt => (x.wsOut w.reg (BitVec.ofNat 64 (ofBytes data)) w.born).wpairOut (a.1 == 0) w.born
  | _ =>
    if a.1 = 0 then
      let y := match w.kind with
        | .load => x.wsOut w.reg (extend w.signed n (data.take n)) w.born
        | .amo => x.wsOut w.reg (extend true n (data.take n)) w.born
        | .vload => x.wvOut w data a.2.2.2
        | _ => x
      if w.twin then y.wpairOut true w.born else y
    else
      let y := match w.kind with
        | .load | .amo => x.wsOut w.reg (if w.twin then failWord a.1 else 0) w.born
        | .vload => x.wvOut { w with dead := 0 } [] 0
        | _ => x
      if w.twin then y.wpairOut false w.born else y.violate a.2.1 w.addr w.info

/-- Performs the local accesses that a release of their class held back, unless the schedule performs them: of the resident
context, and of tasks that are not resident. Log entry 8, DESIGN CHOICE. -/
def State.settleWaiting (s : State) (c x : Nat) : State :=
  if s.lag then s
  else
    let s := s.settle c x fun _ => true
    (s.cell c).saved.foldl (fun t v => t.settleAway c v) s

/-- `INTERLOCK_RETURN`: the result is written and the operation is no longer awaited. The recorder logs the result of a far
atomic. A blocked context is READY from the next cycle, when its hold is looked at. Log entry 96, DEDUCED. -/
def execInterlockReturn (s : State) : Out :=
  .next (
    let c := s.args.c
    let x := s.args.x
    let id := s.args.id
    let s := s.settleSeq c x id
    match s.awaited c x id with
    | none => s
    | some w =>
      match w.answer with
      | none => s
      | some a =>
        let s := s.modBank c x id fun t =>
          { t.applyAnswer w a with awaits := t.awaits.filter fun v => v.id != id }
        let s := s.settleWaiting c x
        if w.kind = .amo ∧ s.recording c then
          s.recLog c 2 x (w.twin && a.1 != 0) (bitsAt w.info 0 17) (bitsAt w.info 17 4)
            (if a.1 = 0 then extend true (szBytes w.sz) (a.2.2.1.take (szBytes w.sz)) else if w.twin then failWord a.1 else 0)
            w.addr
        else s)

end Sys2Proof.Machine
end

