-- ==== Sys2Proof/Machine/Links.lean ====
section
/-! DEFINITION. Link ports (R383-R388), routing (R389-R396) and end-to-end delivery (R397). -/

namespace Sys2Proof.Machine
open Sys2Proof

def State.lport (s : State) (p : Nat) : LinkPort := s.pkg.link p
def State.modLink (s : State) (p : Nat) (f : LinkPort → LinkPort) : State :=
  s.modPkg fun k => { k with links := k.links.ins p (f (k.link p)) }

/-- The die that holds a port: MD of its tower (R383). -/
def portDie (p : Nat) : Nat := p / 8 * 2

/-- The cell that a packet is bound for, as a member word names it. -/
def packetDest (pk : Packet) : BitVec 32 := BitVec.ofNat 32 (pk.dst.toNat + pk.die.toNat * 1024 + pk.cell.toNat * 8192)

/-! ## Packets as bytes (R384) -/

/-- The bytes of a collective's message behind its chunk or in its place. Log entry 17, DESIGN CHOICE. -/
def collBytes (m : CollMsg) : List Byte :=
  let chunk (ck : Chunk) : List Byte := headerBytes ck ++ ck.payload
  let part (kind g a k : Nat) : List Byte := toBytes 1 kind ++ toBytes 1 g ++ toBytes 2 k ++ toBytes 4 a
  match m with
  | .expRecord root src g a i n k count x nf =>
    part 1 g a k ++ toBytes 4 root.toNat ++ toBytes 4 src.toNat ++ toBytes 2 i ++ toBytes 2 n ++ toBytes 2 count
      ++ toBytes 2 (x % 65536).toNat ++ toBytes 1 nf.toNat
  | .exponent root g a k e nf => part 2 g a k ++ toBytes 4 root.toNat ++ toBytes 2 (e % 65536).toNat ++ toBytes 1 nf.toNat
  | .input root src g a i n k ck =>
    chunk ck ++ part 3 g a k ++ toBytes 4 root.toNat ++ toBytes 4 src.toNat ++ toBytes 2 i ++ toBytes 2 n
  | .result g a k ck => chunk ck ++ part 4 g a k
  | .failure g a err => part 5 g a err
  | .inputAgain root g a k n => part 6 g a k ++ toBytes 4 root.toNat ++ toBytes 1 n
  | .resultAgain root src g a k n => part 7 g a k ++ toBytes 4 root.toNat ++ toBytes 4 src.toNat ++ toBytes 1 n
  | .chunkLost root src g a => part 8 g a 0 ++ toBytes 4 root.toNat ++ toBytes 4 src.toNat
  | .packetLost root src g a => part 9 g a 0 ++ toBytes 4 root.toNat ++ toBytes 4 src.toNat

/-- The bytes of a packet behind its header: of chunks and boot packets as the spec lays them out, of the others in a layout
of the model's. Log entry 17, DESIGN CHOICE. -/
def bodyBytes (b : Body) : List Byte :=
  match b with
  | .chunk ck => headerBytes ck ++ ck.payload
  | .boot l _ => l
  | .request r =>
    toBytes 1 r.op.toNat ++ toBytes 1 (r.sz.toNat + r.supervisor.toNat * 4 + r.oc * 8) ++ toBytes 2 r.cell ++ toBytes 4 r.ctx
      ++ toBytes 8 r.id ++ toBytes 8 r.base ++ toBytes 8 r.addr.toNat ++ r.data
  | .response r =>
    toBytes 1 r.op.toNat ++ toBytes 1 (r.status + r.sync.toNat * 8) ++ toBytes 2 r.cell ++ toBytes 4 r.ctx ++ toBytes 8 r.id
      ++ toBytes 8 r.addr.toNat ++ toBytes 8 r.empties.toNat ++ r.data
  | .ret stream ack hop => toBytes 2 0 ++ toBytes 2 stream.toNat ++ toBytes 4 ack.toNat ++ toBytes 4 hop.toNat
  | .refusal stream n ack => toBytes 2 1 ++ toBytes 2 stream.toNat ++ toBytes 4 ack.toNat ++ toBytes 4 n.toNat
  | .pennant m => toBytes 2 m.toNat
  | .ack => []
  | .replayReq stream seq attempt => toBytes 2 stream.toNat ++ toBytes 2 attempt.toNat ++ toBytes 4 seq.toNat
  | .coll m => collBytes m

/-- Bytes of a packet after its header. Log entry 17, DESIGN CHOICE. -/
def bodyLength (b : Body) : Nat := (bodyBytes b).length

/-- CHECK: the check code of a remote operation, else zero. -/
def packetCheck (b : Body) : Nat :=
  match b with
  | .request r => r.check.toNat
  | .response r => r.check.toNat
  | _ => 0

/-- The 32-byte header, for a body with `extra` bytes behind it. A boot packet says in byte 21 whether it is DIRECT.
Log entry 17, DESIGN CHOICE. -/
def packetHeader (pk : Packet) (extra : Nat) : List Byte :=
  let direct := match pk.body with
    | .boot _ d => d.toNat
    | _ => 0
  toBytes 2 pk.src.toNat ++ toBytes 2 pk.dst.toNat ++ toBytes 1 (pk.die.toNat + pk.nonmin.toNat * 8 + pk.gen.toNat * 16)
    ++ toBytes 1 (pk.hop % 4 + pk.ch.toNat * 4 + pk.kind.toNat * 8) ++ toBytes 2 pk.inter.toNat ++ toBytes 4 pk.eseq.toNat
    ++ toBytes 4 pk.eack.toNat ++ toBytes 2 (bodyLength pk.body + extra) ++ toBytes 2 (packetCheck pk.body)
    ++ toBytes 1 pk.cell.toNat ++ toBytes 11 direct

/-! ## Keys of a link (R408, R409) -/

/-- The key in a slot, with slot 0 as provisioned (R408). -/
def Pkg.key (p : Pkg) (slot : Nat) : Option Key :=
  match p.keys.find? fun e => e.1 == slot with
  | some (_, k) => if k.usage < 3 then some k else none
  | none => if slot = 0 then some ⟨2, toBytes 32 Config.provisionedKey.toNat⟩ else none

/-- A BIND names a slot of usage LINK. -/
def Pkg.bindable (p : Pkg) (slot : Nat) : Bool := (p.key slot).any fun k => k.usage == 0

/-- The IV of a packet: the key epoch, then the counter of the direction. Log entry 71, DEDUCED. -/
def packetIv (epoch : BitVec 32) (counter : Nat) : List Byte := toBytes 4 epoch.toNat ++ toBytes 8 counter

/-- A packet as it stands on a link: with a key its body is encrypted and its tag stands behind it (R409).
Log entry 71, DEDUCED. -/
def packetBytes (pk : Packet) (key : Option (List Byte)) (epoch : BitVec 32) (counter : Nat) : List Byte :=
  match key with
  | none => packetHeader pk 0 ++ bodyBytes pk.body
  | some k =>
    let h := packetHeader pk 16
    h ++ gcmSeal k (packetIv epoch counter) h (bodyBytes pk.body)

/-- The body that received bytes hold, their length by the header's LENGTH: none where the tag fails. -/
def openBody (l : List Byte) (key : Option (List Byte)) (epoch : BitVec 32) (counter : Nat) : Option (List Byte) :=
  let b := (l.drop 32).take (field l 16 2)
  match key with
  | none => some b
  | some k => gcmOpen k (packetIv epoch counter) (l.take 32) b

/-! ## Flits (R383) -/

/-- Bytes that a tag adds to the packets of a port. -/
def LinkPort.tagBytes (l : LinkPort) : Nat := if l.txKey.isSome then 16 else 0

/-- Flits that a packet occupies with `extra` bytes behind its body. Log entry 17, DESIGN CHOICE. -/
def flitCount (pk : Packet) (extra : Nat) : Nat := (32 + bodyLength pk.body + extra + 231) / 232

/-- The virtual channel of a packet on its next link (R385). -/
def vcOf (pk : Packet) : Nat := 2 * pk.hop + pk.ch.toNat

/-- FHDR of a flit. -/
def flitHeader (f : Flit) : Nat :=
  f.lseq.toNat + f.vc.toNat * 2 ^ 12 + f.sop.toNat * 2 ^ 15 + f.eop.toNat * 2 ^ 16 + f.ctrl.isSome.toNat * 2 ^ 17
/-- The CRC-32 over bytes 0–235. -/
def flitCrc (f : Flit) : BitVec 32 := crc32 (toBytes 4 (flitHeader f) ++ f.body)
/-- A flit with its CRC and its parity. -/
def flitSealed (f : Flit) : Flit :=
  let c := flitCrc f
  { f with crc := c, fec := Config.rsParity (toBytes 4 (flitHeader f) ++ f.body ++ toBytes 4 c.toNat) }

/-- The flits of a packet's bytes from sequence number `seq` on, BODY filled with zeros at the end; with the last one the
packet is whole. Log entry 17, DESIGN CHOICE. -/
def packetFlits (pk : Packet) (whole : List Byte) (seq : BitVec 12) : List Flit :=
  let n := (whole.length + 231) / 232
  (List.range n).map fun i =>
    let body := (whole.drop (232 * i)).take 232
    flitSealed ⟨seq + BitVec.ofNat 12 i, BitVec.ofNat 3 (vcOf pk), i == 0, i + 1 == n, none, body ++ zeros (232 - body.length), 0, [],
      if i + 1 = n then some pk else none⟩

/-- The bytes of a control message. Log entry 64, DESIGN CHOICE. -/
def ctrlBytes (m : LinkCtrl) : List Byte :=
  match m with
  | .ack n => toBytes 2 1 ++ toBytes 2 n.toNat
  | .nak n => toBytes 2 2 ++ toBytes 2 n.toNat
  | .credit vc n => toBytes 2 3 ++ toBytes 2 vc.toNat ++ toBytes 4 n
  | .stamp t k => toBytes 2 4 ++ toBytes 2 k ++ toBytes 8 t.toNat
  | .stampReply a b c k => toBytes 2 5 ++ toBytes 2 k ++ toBytes 8 a.toNat ++ toBytes 8 b.toNat ++ toBytes 8 c.toNat
  | .keySwitch e => toBytes 2 6 ++ toBytes 2 0 ++ toBytes 4 e.toNat

/-- A control flit: it takes no LSEQ and is not kept (R383). Log entry 64, DESIGN CHOICE. -/
def ctrlFlit (m : LinkCtrl) : Flit :=
  let b := ctrlBytes m
  flitSealed ⟨0, 0, false, false, some m, b ++ zeros (232 - b.length), 0, [], none⟩

/-- Flits of a virtual channel that wait at a port. Log entry 63, DESIGN CHOICE. -/
def LinkPort.depth (l : LinkPort) (vc : Nat) : Nat :=
  l.queue.foldl (fun n e => if e.1 = vc then n + flitCount e.2 l.tagBytes else n) 0

/-- Held flits from a number on, which are sent again in order (R386). -/
def LinkPort.heldFrom (l : LinkPort) (n : BitVec 12) : List Flit :=
  l.retry.filter fun f => decide ((f.lseq - n).toNat < 2048)

/-! ## Sending (R385, R386) -/

/-- Flits of one virtual channel that a receiving router buffers: at least those of the longest packet. Log entry 63,
DESIGN CHOICE. -/
def vcRoom : Nat := 18 + Config.vcBuffer

/-- The oldest packet of each virtual channel. Log entry 63, DESIGN CHOICE. -/
def vcHeads (l : List (Nat × Packet)) : List (Nat × Packet) :=
  l.foldl (fun h e => if h.any fun q => q.1 == e.1 then h else h ++ [e]) []

/-- Whether a port can put a packet on its link: it is UP, its retry buffer of 1,024 flits has room, the peer's buffer of
the packet's channel has room, and the key it is bound to stands. A packet waits for no buffer but those of its own
channel (R385). Log entry 63, DESIGN CHOICE. Log entry 71, DEDUCED. -/
def State.maySend (s : State) (p : Nat) (e : Nat × Packet) : Bool :=
  let l := s.lport p
  let n := flitCount e.2 l.tagBytes
  l.state == .up && decide (l.retry.length + n ≤ 1024)
    && (l.spent.get 0 e.1 == l.returned.get 0 e.1 || decide (l.spent.get 0 e.1 + n ≤ l.returned.get 0 e.1 + vcRoom))
    && l.txKey.all s.pkg.bindable

/-- Sends waiting packets: the oldest of a channel that can go. Log entry 63, DESIGN CHOICE. -/
def State.pump (s : State) (p : Nat) : Nat → State
  | 0 => s
  | n + 1 =>
    let l := s.lport p
    match (vcHeads l.queue).find? (s.maySend p) with
    | none => s
    | some e =>
      let key := (l.txKey.bind s.pkg.key).map Key.bytes
      let fl := packetFlits e.2 (packetBytes e.2 key l.txEpoch l.txCounter) l.next
      (s.modLink p fun l => { l with
        queue := l.queue.erase e
        next := l.next + BitVec.ofNat 12 fl.length
        retry := l.retry ++ fl
        wire := l.wire ++ fl
        spent := l.spent.ins e.1 (l.spent.get 0 e.1 + fl.length)
        txCounter := if l.txKey.isSome then l.txCounter + 1 else l.txCounter }).pump p n
def State.pumpAll (s : State) (p : Nat) : State := s.pump p (s.lport p).queue.length

/-! ## Retrain (R387) -/

/-- Starts a retrain episode; an attempt that nothing ends fails after 4 µs. -/
def State.retrain (s : State) (p : Nat) : State :=
  let s := s.modLink p fun l => { l with
    state := .training
    attempts := 1
    retrains := min (l.retrains + 1) 0xFFFF
    naks := [] }
  s.after 4000 .retrainAttemptEnd { Args.empty with p := p, n := (s.lport p).retrains * 4 + 1 }

/-- `LANE_LOCK_LOSS`. -/
def execLaneLockLoss (s : State) : Out :=
  .next (if (s.lport s.args.p).state = .up then s.retrain s.args.p else s)

/-- `LINK_SILENCE_TIMEOUT`: no flit for 1 µs on an UP port. -/
def execLinkSilenceTimeout (s : State) : Out :=
  .next (
    let l := s.lport s.args.p
    if l.state = .up ∧ l.heard + 1000 * 45000 ≤ s.elapsed then s.retrain s.args.p else s)

/-- A port becomes FAILED: its retry buffer is discarded, and packets that wait for it are dropped (R387, R393). -/
def State.linkFails (s : State) (p : Nat) : State :=
  let n := (s.lport p).queue.length
  (s.modLink p fun l => { l with state := .failed, retry := [], queue := [] }).modPkg fun k =>
    { k with dropFail := k.dropFail + n }

/-- The peer that the fabric description gives a port (R391). -/
def Fabric.peerOf (f : Fabric) (p : Nat) : Option (BitVec 10) := f.neigh[p / max f.perEdge 1]?

/-- The interval of the time stamps of a port, in nanoseconds: 1,024 in a second (R404). -/
def stampInterval : Nat := 976563

/-- Held flits of each virtual channel. -/
def heldFlits (l : List Flit) : Tab Nat := l.foldl (fun t f => t.ins f.vc.toNat (t.get 0 f.vc.toNat + 1)) []

/-- A port after a successful attempt: the peer expects `lseq`, from which on the held flits are sent again, and at which
new flits go on where none is held; the credits of both ends start anew. Log entry 63, DESIGN CHOICE. -/
def LinkPort.trained (l : LinkPort) (lseq : BitVec 12) (now : Nat) : LinkPort :=
  let held := l.heldFrom lseq
  { l with
    state := .up
    miswired := false
    heard := now
    retry := held
    next := if held.isEmpty then lseq else l.next
    spent := heldFlits held
    returned := []
    freed := []
    wire := l.wire ++ held ++ l.owed.toList.map ctrlFlit
    owed := none }

/-- `RETRAIN_ATTEMPT_END`: `flag` says whether the attempt succeeded, `lseq` is the number that the peer expects, `src`
and `dst` name the peer and its port, and `int` is the lane asymmetry. A number in `n` marks the time limit of one
attempt. After a success the held flits from `lseq` on are sent again, then a key switch that waits, then new packets
(R387, R413). -/
def execRetrainAttemptEnd (s : State) : Out :=
  .next (
    let a := s.args
    let l := s.lport a.p
    if l.state ≠ .training ∨ (a.n ≠ 0 ∧ a.n ≠ l.retrains * 4 + l.attempts) then s
    else if a.flag then
      let peer : BitVec 10 := BitVec.ofNat 10 a.src
      let wrong := !s.pkg.bunting a.p && (s.pkg.fabric.peerOf a.p).any fun q => q != peer
      if wrong then
        s.modLink a.p fun l => { l with state := .down, peer := peer, peerPort := a.dst, miswired := true }
      else
        (((s.modLink a.p fun l =>
          { l.trained a.lseq s.elapsed with peer := peer, peerPort := a.dst, asym := a.int }).pumpAll a.p).after 1000
            .linkSilenceTimeout { Args.empty with p := a.p }).after stampInterval
              .timeExchange { Args.empty with p := a.p, flag := true, n := l.retrains }
    else if l.attempts < 3 then
      (s.modLink a.p fun l => { l with attempts := l.attempts + 1 }).after 4000 .retrainAttemptEnd
        { Args.empty with p := a.p, n := l.retrains * 4 + l.attempts + 1 }
    else s.linkFails a.p)

/-- `LINK_ENABLE` (R388). -/
def execLinkEnable (s : State) : Out :=
  .next (
    let a := s.args
    if (s.lport a.p).en = a.flag then s
    else
      let s := s.modLink a.p fun l => { l with en := a.flag }
      if a.flag then s.retrain a.p else s.modLink a.p fun l => { l with state := .down })

/-! ## Routing (R392, R393) -/

/-- NMTHRESH of `RT_CTL`. -/
def Pkg.nmThresh (p : Pkg) : Nat := bitsAt p.rtCtl 16 8

/-- SRC of the packets that this package sends: its former number while an adoption window is open (R480). -/
def Pkg.srcNumber (p : Pkg) : BitVec 10 := if p.window then p.former else p.number
/-- Whether a destination names this package. -/
def Pkg.isMe (p : Pkg) (dst : BitVec 10) : Bool := dst == p.number || (p.window && dst == p.former)

def State.dropFail (s : State) : State := s.modPkg fun k => { k with dropFail := k.dropFail + 1 }

/-- A return or a census: those of one stream travel on one path (R85). Log entry 101, DEDUCED. -/
def onePath (pk : Packet) : Bool :=
  match pk.body with
  | .ret _ _ _ => true
  | .chunk ck => ck.census
  | _ => false

/-- A packet with the generation that injection stamps in this cycle (R413). -/
def Pkg.stamped (p : Pkg) (pk : Packet) : Packet :=
  { pk with gen := BitVec.ofNat 4 (p.gen p.stamp), hop := 0, nonmin := false, inter := 0 }

/-- Stamps a packet with the injection generation and chooses minimal or non-minimal routing; the choice among the
candidates is free. Returns and censuses leave their minimal path only where its port has FAILED, for the first
intermediate. Log entry 101, DEDUCED. -/
def State.launchPacket (s : State) (pk : Packet) : State :=
  let p := s.pkg
  let e := p.route p.stamp pk.dst.toNat
  let path := onePath pk
  let pk := p.stamped pk
  if !routeValid e then s.dropFail
  else
    let min := routePort e pk.src pk.dst pk.ch
    if (s.lport min).state = .failed ∨ (!path ∧ p.nmThresh < (s.lport min).depth (vcOf pk)) then
      let cands := ((List.range (bitsAt e 8 3)).map fun k => e.extractLsb' (16 + 10 * k) 10).filter fun i =>
        let f := p.route p.stamp i.toNat
        routeValid f && (s.lport (routePort f pk.src pk.dst pk.ch)).state == .up
      if cands.isEmpty then s.post .packetForward { Args.empty with pk := pk }
      else if path then s.post .packetForward { Args.empty with pk := { pk with nonmin := true, inter := cands.getD 0 0 } }
      else
        let i := (Config.freeWord s.draws).toNat % cands.length
        s.drawn.post .packetForward { Args.empty with pk := { pk with nonmin := true, inter := cands.getD i 0 } }
    else s.post .packetForward { Args.empty with pk := pk }

/-- The points that a chunk passes from die `d` to the die of cell `c` (R424). -/
def pathPoints : Nat → Nat → Nat → List (Nat × Nat × Nat)
  | 0, _, _ => []
  | n + 1, d, c =>
    match nextPoint d c with
    | none => []
    | some q => q :: pathPoints n q.1 c

/-- The chunk of a packet that is verified on its way. -/
def verifiedChunk (b : Body) : Option Chunk :=
  match b with
  | .chunk ck => some ck
  | .coll m => collChunk m
  | _ => none
/-- The body with the identity of the hop that verified its chunk. -/
def bodyHopped (b : Body) (hop : BitVec 32) : Body :=
  match b with
  | .chunk ck => .chunk { ck with hop := hop }
  | .coll m => .coll (collHopped m hop)
  | b => b

/-- What a point does that fails a packet's chunk (R424). -/
def State.bodyFails (s : State) (die point port kind : Nat) (pk : Packet) : State :=
  match pk.body with
  | .chunk ck => s.failChunk die point port kind (burgeeSub ck) none ck
  | .coll m => s.collPointFails die point port kind (packetDest pk) m
  | _ => s

/-- A packet crosses the package to a die: its chunk is verified at each point on the way and takes that point's
identity (R96, R424); it goes as its producer's cell would to a cell there. None where a point drops it.
Log entry 12, DEDUCED. -/
def State.crossTo (s : State) (die : Nat) (pk : Packet) : Option Packet × State :=
  match verifiedChunk pk.body with
  | none => (some pk, s)
  | some ck =>
    let c := die * 256 + nameCell ck.origin % 256
    let pts := pathPoints 4 (hopDie ck.hop) c
    match pts with
    | [] => (some pk, s)
    | q :: _ =>
      if pts.any fun q => s.pkg.fenced.getLsbD q.1 then (none, s)
      else if burgeeOk ck then
        let l := pts.getLastD q
        (some { pk with body := bodyHopped pk.body (s.hopWord l.1 l.2.1 l.2.2) }, s)
      else (none, s.bodyFails q.1 q.2.1 0 q.2.2 pk)

/-- Puts a packet into a port's queue. The bunting port carries boot packets only (R390). -/
def State.enqueueAt (s : State) (port : Nat) (pk : Packet) : State :=
  if s.pkg.bunting port && pk.kind != 7 then s.dropFail
  else (s.modLink port fun l => { l with queue := l.queue ++ [(vcOf pk, pk)] }).pumpAll port

/-- `PACKET_FORWARD`: a router delivers, forwards or drops a packet by the table of its generation. -/
def execPacketForward (s : State) : Out :=
  .next (
    let p := s.pkg
    let pk := s.args.pk
    let slot := [0, 1].find? fun k => p.genValid k && p.gen k == pk.gen.toNat
    match slot with
    | none => s.modPkg fun k => { k with dropGen := k.dropGen + 1 }
    | some k =>
      let pk := if p.isMe pk.inter then { pk with nonmin := false } else pk
      let target := if pk.nonmin then pk.inter else pk.dst
      if p.isMe target && p.isMe pk.dst then s.post .e2eDeliver { Args.empty with pk := pk }
      else
        let e := p.route k target.toNat
        let port := routePort e pk.src pk.dst pk.ch
        if !routeValid e || decide (3 < pk.hop) || (s.lport port).state == .failed then s.dropFail
        else
          match s.crossTo (portDie port) pk with
          | (some pk, s) => s.enqueueAt port pk
          | (none, s) => s)

/-- `RT_DATA_WRITE`: ignored while the slot is valid. -/
def execRtDataWrite (s : State) : Out :=
  .next (
    let w := s.pkg.csr.get 0 0x311
    let slot := bitsAt w 10 1
    if s.pkg.genValid slot then s
    else s.modPkg fun p => { p with
      routes := p.routes.set 0 (slot * 1024 + bitsAt w 0 10) (s.args.v &&& 0x00FFFFFFFFFF1FFF#64) })

/-- `GENERATION_SWAP` (R394, R480): end-to-end state toward numbers that an adoption moved starts anew. -/
def execGenerationSwap (s : State) : Out :=
  .next (
    let w := s.pkg.rtCtl
    if w.getLsbD 14 && decide ((s.pkg.csr.get 0 0x314).toNat * 45000 ≤ s.time) then
      s.modPkg fun p =>
        let all := p.window
        let gone (n : Nat) : Bool := all || p.fabric.moved.contains (BitVec.ofNat 10 n)
        { p with
          csr := p.csr.ins 0x310 (withBits (withBits w 14 1 0) 13 1 (1 - bitsAt w 13 1))
          window := false
          store := p.store.filter fun x => !gone x.pk.dst.toNat
          e2e := p.e2e.filter fun x => !gone (x.1 / 2)
          fabric := { p.fabric with moved := [] } }
    else s)

/-! ## Flits (R386) -/

/-- The burgee check at a link ingress (R424): a passing chunk takes the port's identity, as does a return on its way.
Log entry 65, DEDUCED. Log entry 66, DEDUCED. -/
def State.ingressCheck (s : State) (p : Nat) (pk : Packet) : State :=
  let hop := s.hopWord (portDie p) p 2
  let on (b : Body) : State := s.post .packetForward { Args.empty with pk := { pk with body := b } }
  match pk.body with
  | .ret stream ack _ => on (.ret stream ack hop)
  | b => if (verifiedChunk b).all burgeeOk then on (bodyHopped b hop) else s.bodyFails (portDie p) p p 2 pk

/-- The event of a boot packet's TYPE (R399). -/
def bootEvent (l : List Byte) : Option Instr :=
  match field l 8 1 with
  | 1 => some .bootAnnounce
  | 2 => some .bootData
  | 3 => some .bootVerify
  | 4 => some .bootCommit
  | 5 => some .bootReply
  | 6 => some .bootReply
  | _ => none

/-- Hands a boot packet's body to the PCP. -/
def State.bootIn (s : State) (src : BitVec 10) (l : List Byte) (direct : Bool) : State :=
  match bootEvent l with
  | some i => s.post i { Args.empty with bytes := l, flag := direct, src := src.toNat }
  | none => s

/-- A whole packet has come in at a port. Reserved kinds are dropped and counted; the bunting port carries boot packets
only (R384, R390). Log entry 65, DEDUCED. -/
def State.packetIn (s : State) (p : Nat) (pk : Packet) : State :=
  let bad := decide (9 < pk.kind.toNat) || pk.kind == 0
  if bad || (s.pkg.bunting p && pk.kind != 7) then s.modPkg fun k => { k with errors := k.errors + 1 }
  else if s.pkg.bunting p then
    match pk.body with
    | .boot l _ =>
      let s := if field l 8 1 = 2 then s.modPkg fun k => { k with boot := { k.boot with held := k.boot.held ++ [l] } } else s
      s.bootIn pk.src l false
    | _ => s
  else s.ingressCheck p { pk with hop := pk.hop + 1 }

/-- STRATUM as the package reports it to its peers (R403). Log entry 70, DEDUCED. -/
def TimeSt.reported (t : TimeSt) : Nat := if t.locked then min t.stratum 3 else 3

/-- A reply to a time stamp that this port sent (R404): offset of TIME from the peer's and path delay, the lane asymmetry
removed. Log entry 70, DEDUCED. -/
def State.stamped (s : State) (p : Nat) (t1 t2 t3 : W64) (stratum : Nat) : State :=
  let t4 := s.tai
  let there : Int := (t2 - t1).toInt
  let back : Int := (t4 - t3).toInt
  (s.modLink p fun l => { l with delay := (there + back) / 2 }).post .timeExchange
    { Args.empty with p := p, n := stratum, int := (back - there + (s.lport p).asym) / 2 }

/-- A control message: acknowledgements free held flits, credits buffers of the peer; a time stamp is replied to; a key
switch moves the receive direction (R409). Log entry 63, DESIGN CHOICE. Log entry 64, DESIGN CHOICE. Log entry 71,
DEDUCED. -/
def State.linkCtrl (s : State) (p : Nat) (m : LinkCtrl) : State :=
  match m with
  | .ack n =>
    (s.modLink p fun l => { l with retry := l.retry.filter fun f => decide ((f.lseq - (n + 1)).toNat < 2048) }).pumpAll p
  | .nak n => s.post .nackReceive { Args.empty with p := p, lseq := n }
  | .keySwitch e =>
    s.modLink p fun l => { l with
      rxKey := if l.rxNext.isSome then l.rxNext else l.rxKey
      rxNext := none
      rxEpoch := e
      rxCounter := 0 }
  | .credit vc n =>
    (s.modLink p fun l => { l with returned := l.returned.ins vc.toNat (max n (l.returned.get 0 vc.toNat)) }).pumpAll p
  | .stamp t1 _ =>
    s.modLink p fun l => { l with wire := l.wire ++ [ctrlFlit (.stampReply t1 s.tai s.tai s.pkg.time.reported)] }
  | .stampReply t1 t2 t3 stratum => s.stamped p t1 t2 t3 stratum

/-- Bytes of the packet that a flit goes on with, its own among them. -/
def LinkPort.rxWith (l : LinkPort) (f : Flit) : List Byte := (if f.sop then [] else l.rx) ++ f.body
/-- LSEQ of the first flit of that packet. -/
def LinkPort.rxFrom (l : LinkPort) (f : Flit) : BitVec 12 := if f.sop then f.lseq else l.rxStart

/-- Whether the bytes up to a packet's last flit lay it out: under a key, whether the tag matches and the body decrypts to
the packet's (R409). A key that was erased opens nothing. Log entry 71, DEDUCED. -/
def State.rxTagOk (s : State) (p : Nat) (pk : Packet) (f : Flit) : Bool :=
  let l := s.lport p
  let bytes := l.rxWith f
  l.rxKey.all s.pkg.bindable && bytes.take 32 == packetHeader pk (if l.rxKey.isSome then 16 else 0)
    && openBody bytes ((l.rxKey.bind s.pkg.key).map Key.bytes) l.rxEpoch l.rxCounter == some (bodyBytes pk.body)

/-- Accepts a flit in order. Those of a protected packet are acknowledged with its last one; with the last one the buffers
that the packet held are given free (R385). Log entry 63, DESIGN CHOICE. -/
def State.acceptFlit (s : State) (p : Nat) (f : Flit) : State :=
  let l := s.lport p
  let last := f.eop
  let n := (l.rxWith f).length / 232
  s.modLink p fun l => { l with
    expect := l.expect + 1
    rxStart := l.rxFrom f
    rx := if last then [] else l.rxWith f
    freed := if last then l.freed.ins f.vc.toNat (l.freed.get 0 f.vc.toNat + n) else l.freed
    rxCounter := if last && l.rxKey.isSome then l.rxCounter + 1 else l.rxCounter
    wire := l.wire ++ (if last || l.rxKey.isNone then [ctrlFlit (.ack f.lseq)] else [])
      ++ (if last then [ctrlFlit (.credit f.vc (l.freed.get 0 f.vc.toNat + n))] else []) }

/-- `FLIT_RECEIVE`: a flit, as it stands after the correction of FEC. One that fails its CRC or comes out of order is
discarded and a negative acknowledgement is sent; so is a packet whose tag fails, from its first flit on; an accepted one
is acknowledged. -/
def execFlitReceive (s : State) : Out :=
  .next (
    let p := s.args.p
    let f := s.args.flit
    if (s.lport p).state ≠ .up then s
    else
      let s := (s.modLink p fun l => { l with heard := s.elapsed }).after 1000 .linkSilenceTimeout { Args.empty with p := p }
      let refuse (t : State) : State := t.modLink p fun l => { l with wire := l.wire ++ [ctrlFlit (.nak l.expect)] }
      if f.crc ≠ flitCrc f then refuse s
      else
        match f.ctrl with
        | some m => s.linkCtrl p m
        | none =>
          if f.lseq ≠ (s.lport p).expect then refuse s
          else
            match f.packet with
            | none => s.acceptFlit p f
            | some pk =>
              if s.rxTagOk p pk f then (s.acceptFlit p f).packetIn p pk
              else refuse (s.modLink p fun l => { l with expect := l.rxFrom f, rx := [] }))

/-- `NACK_RECEIVE`: the held flits from the named number on are sent again; sixteen within 1 µs start a retrain. -/
def execNackReceive (s : State) : Out :=
  .next (
    let p := s.args.p
    if (s.lport p).state ≠ .up then s
    else
      let s := s.modLink p fun l => { l with
        replays := min (l.replays + 1) 0xFFFF
        wire := l.wire ++ l.heldFrom s.args.lseq
        naks := (l.naks.filter fun t => decide (s.elapsed < t + 1000 * 45000)) ++ [s.elapsed] }
      if 16 ≤ (s.lport p).naks.length then s.retrain p else s)

/-! ## The end-to-end store (R397) -/

def e2eKey (dst : BitVec 10) (ch : Bool) : Nat := dst.toNat * 2 + ch.toNat
def Pkg.peer (p : Pkg) (dst : BitVec 10) (ch : Bool) : E2e := p.e2e.get E2e.reset (e2eKey dst ch)
def State.modPeer (s : State) (dst : BitVec 10) (ch : Bool) (f : E2e → E2e) : State :=
  s.modPkg fun p => { p with e2e := p.e2e.ins (e2eKey dst ch) (f (p.peer dst ch)) }

/-- The lowest number toward a package that this one may still send. Log entry 66, DEDUCED. -/
def Pkg.lowest (p : Pkg) (dst : BitVec 10) (ch : Bool) : BitVec 32 :=
  match p.store.find? fun x => x.pk.dst == dst && x.pk.ch == ch with
  | some x => x.pk.eseq
  | none => (p.peer dst ch).next

/-- Numbers a packet, keeps it until it is acknowledged, and sends it. Log entry 66, DEDUCED. -/
def State.number (s : State) (pk : Packet) : State :=
  let e := s.pkg.peer pk.dst pk.ch
  let pk := s.pkg.stamped { pk with src := s.pkg.srcNumber, eseq := e.next, eack := e.expect }
  let s := (s.modPeer pk.dst pk.ch fun e => { e with next := e.next + 1 }).modPkg fun p =>
    { p with store := p.store ++ [⟨pk, s.elapsed, 1⟩] }
  (s.after 16000 .e2eResendTimeout { Args.empty with dst := pk.dst.toNat, flag := pk.ch, seq := pk.eseq }).launchPacket pk

/-- Whether a request may not leave yet: an earlier one of its class is still on its way, or it is a release that earlier
accesses within its scope hold back (R286, R290). -/
def State.requestWaits (s : State) (b : Body) : Bool :=
  match b with
  | .request r => r.pkg == s.pkg.number && (s.behind r || s.mustWait r)
  | _ => false
/-- A release performs the earlier local accesses of its context before it leaves (R290). -/
def State.settleBody (s : State) (b : Body) : State :=
  match b with
  | .request r => (remoteOp r.op.toNat).elim s fun o => s.settleFor o r
  | _ => s

/-- `PACKET_INJECT`: an acknowledgement packet is neither numbered nor kept; any other waits while the store of 16,384
packets is full. An acknowledgement bears in ESEQ the lowest number that this package may still send, so that its peer
waits for none that was abandoned. Log entry 66, DEDUCED. -/
def execPacketInject (s : State) : Out :=
  .next (
    let pk := s.args.pk
    if pk.kind = 6 then
      s.launchPacket { pk with
        src := s.pkg.srcNumber
        eseq := s.pkg.lowest pk.dst pk.ch
        eack := (s.pkg.peer pk.dst pk.ch).expect }
    else if s.requestWaits pk.body then s.afterCycles 1 .packetInject s.args
    else
    let s := s.settleBody pk.body
    if 16384 ≤ s.pkg.store.length ∨ !s.pkg.outbox.isEmpty then
      s.modPkg fun p => { p with outbox := p.outbox ++ [pk] }
    else s.number pk)

/-- Numbers waiting packets while the store has room. -/
def State.refill (s : State) : Nat → State
  | 0 => s
  | n + 1 =>
    match s.pkg.outbox with
    | [] => s
    | pk :: t =>
      if s.pkg.store.length < 16384 then ((s.modPkg fun p => { p with outbox := t }).number pk).refill n else s

/-- `E2E_ACK_RECEIVE`: packets below the acknowledged number leave the store. -/
def execE2eAckReceive (s : State) : Out :=
  .next (
    let a := s.args
    let s := s.modPkg fun p => { p with store := p.store.filter fun x =>
      !(x.pk.dst.toNat == a.src && x.pk.ch == a.flag && decide (seqDiff x.pk.eseq a.ack < 0)) }
    s.refill s.pkg.outbox.length)

/-! ## Delivery -/

/-- Whether a cell lies on a die that is fenced, to which no traffic passes (R441). -/
def State.fencedCell (s : State) (c : Nat) : Bool := s.pkg.fenced.getLsbD (dieOf c)

/-- The die from which the returns and censuses of a package go on within this one: that of the port on the minimal path
to it, so that those of one stream pass the same points (R85). Log entry 101, DEDUCED. -/
def Pkg.dieToward (p : Pkg) (src : BitVec 10) (hop : BitVec 32) : Nat :=
  let e := p.route p.inj src.toNat
  if routeValid e then portDie (routePort e p.number src false) else hopDie hop

/-- What a delivered packet brings. Nothing passes to a fenced die (R441); a request to one is answered.
Log entry 101, DEDUCED. -/
def State.deliverBody (s : State) (pk : Packet) : State :=
  let d := pk.die.toNat
  let c := d * 256 + pk.cell.toNat
  let go (i : Instr) (a : Args) : State := if s.fencedCell c then s else s.post i { a with c := c, die := d }
  match pk.body with
  | .chunk ck =>
    if ck.census then
      let home := s.pkg.dieToward pk.src ck.hop
      match s.crossTo home pk with
      | (some q, s) => (verifiedChunk q.body).elim s fun ck => s.chunkOnward home c ck
      | (none, s) => s
    else s.chunkOnward (hopDie ck.hop) c ck
  | .request r => s.post .remoteRequest { Args.empty with c := aCell r.addr, req := r }
  | .response r => if s.fencedCell r.cell then s else s.post .remoteResponse { Args.empty with resp := r }
  | .ret stream ack hop => s.returnOnward (s.pkg.dieToward pk.src hop) c stream ack
  | .refusal stream n ack => go .refusalArrival { Args.empty with stream := stream, n := n.toNat, ack := ack }
  | .pennant m => go .pennantArrival { Args.empty with n := m.toNat }
  | .ack => s
  | .boot l direct => s.bootIn pk.src l direct
  | .replayReq stream seq attempt =>
    go .replayRequestArrival { Args.empty with stream := stream, seq := seq, attempt := attempt.toNat }
  | .coll m =>
    let a : Args := { Args.empty with coll := m }
    match m with
    | .expRecord .. => go .collExpRecord a
    | .exponent .. => go .collExponentReturn a
    | .input _ _ _ _ _ _ _ ck => s.collOnward (hopDie ck.hop) c m
    | .result _ _ _ ck => s.collOnward (hopDie ck.hop) c m
    | .failure .. => go .collFailureNotice a
    | .inputAgain .. => go .collExponentReturn a
    | .resultAgain .. => go .collRootChunk a
    | .chunkLost .. => go .collRootChunk a
    | .packetLost .. => go .collRootChunk a

/-- Delivers in order every early arrival that is now expected. -/
def State.deliverEarly (s : State) (src : BitVec 10) (ch : Bool) : Nat → State
  | 0 => s
  | n + 1 =>
    let e := s.pkg.peer src ch
    match e.early.find? fun pk => pk.eseq == e.expect with
    | none => s
    | some pk =>
      ((s.modPeer src ch fun e => { e with
        expect := e.expect + 1
        early := e.early.filter fun q => q.eseq != pk.eseq }).deliverBody pk).deliverEarly src ch n

/-- Acknowledges what has come from a package. Log entry 66, DEDUCED. -/
def State.acknowledge (s : State) (src : BitVec 10) (ch : Bool) : State :=
  s.post .packetInject { Args.empty with pk := { Packet.empty with dst := src, ch := ch, kind := 6, body := .ack } }

/-- The sender will send no number below `n` any more: what has come early below it is delivered, and the rest given up.
Log entry 66, DEDUCED. -/
def State.skipTo (s : State) (src : BitVec 10) (ch : Bool) (n : BitVec 32) : State :=
  let e := s.pkg.peer src ch
  if seqDiff n e.expect ≤ 0 then s
  else
    let below := sortBy (fun pk => (seqDiff pk.eseq e.expect).toNat) (e.early.filter fun pk => decide (seqDiff pk.eseq n < 0))
    let s := s.modPeer src ch fun e => { e with
      expect := n
      early := e.early.filter fun pk => decide (0 ≤ seqDiff pk.eseq n) }
    ((below.foldl State.deliverBody s).deliverEarly src ch 64).acknowledge src ch

/-- `E2E_DELIVER`: in ESEQ order, with a window of 64 for early arrivals; duplicates are acknowledged and dropped.
Log entry 66, DEDUCED. -/
def execE2eDeliver (s : State) : Out :=
  .next (
    let pk := s.args.pk
    let s := s.modPeer pk.src pk.ch fun e => { e with heard := s.elapsed }
    let s := s.post .e2eAckReceive { Args.empty with src := pk.src.toNat, flag := pk.ch, ack := pk.eack }
    if pk.kind = 6 then s.skipTo pk.src pk.ch pk.eseq
    else
      let e := s.pkg.peer pk.src pk.ch
      let d := seqDiff pk.eseq e.expect
      if d < 0 then s.acknowledge pk.src pk.ch
      else if 64 ≤ d then s
      else if d = 0 then
        ((((s.modPeer pk.src pk.ch fun e => { e with expect := e.expect + 1 }).deliverBody pk).deliverEarly pk.src pk.ch
          64).acknowledge pk.src pk.ch)
      else if e.early.any fun q => q.eseq == pk.eseq then s
      else (s.modPeer pk.src pk.ch fun e => { e with early := e.early ++ [pk] }).acknowledge pk.src pk.ch)

/-! ## Giving up (R397, R479) -/

/-- Whether any packet has come from a package since a time. -/
def Pkg.heardSince (p : Pkg) (src : BitVec 10) (t : Nat) : Bool :=
  [false, true].any fun ch => (p.e2e.any fun e => e.1 == e2eKey src ch) && decide (t ≤ (p.peer src ch).heard)

/-- A stream end whose packet was abandoned: PEER_LOST when nothing has come from the peer since, else a channel error.
Log entry 67, DESIGN CHOICE. -/
def State.endAbandoned (s : State) (c : Nat) (stream : BitVec 16) (port : Option Nat) (tag : Option Nat) (seq : BitVec 32)
    (lost : Bool) : State :=
  let w2 : W64 := BitVec.ofNat 64 (stream.toNat + seq.toNat * 2 ^ 32)
  match port, tag with
  | some p, _ =>
    if lost then
      if ((s.cell c).port p).peerLost then s
      else (s.modPort c p fun t => { t with peerLost := true }).logCell c 6 5 w2 0
    else s.channelError c p 3 seq
  | none, some t =>
    if lost then
      if ((s.cell c).tag t).peerLost then s
      else (s.modTag c t fun g => { g with peerLost := true }).logCell c 6 5 w2 0
    else (s.logCell c 6 3 w2 0).askKill c 1
  | none, none => s

/-- The cell of this package whose consumer tag a stream feeds from another package. -/
def State.consumerOf (s : State) (stream : BitVec 16) : Option (Nat × Nat) :=
  s.cells.findSome? fun e => (e.2.tagOf stream).map fun t => (e.1, t)

/-- A collective whose packet to a member is abandoned ends at its root, with ERR 0x05 (R339). Log entry 67, DESIGN
CHOICE. -/
def State.collAbandoned (s : State) (root member : BitVec 32) (g a : Nat) : State :=
  s.sendColl root .collRootChunk (.packetLost root member g a)

/-- The stream that a cell's halyard unit consumes, by its tag. -/
def Cell.halyardTag (k : Cell) : Option Nat := (k.tags.find? fun e => e.2.halyard && e.2.slots != 0).map Prod.fst

/-- What the abandonment of a packet does. The tiles of a boot packet's share stay unwritten, so it fails its check at its
package (R413). Log entry 67, DESIGN CHOICE. Log entry 68, DEDUCED. -/
def State.abandon (s : State) (x : Sent) : State :=
  let pk := x.pk
  let s := s.acknowledge pk.dst pk.ch
  let lost := !s.pkg.heardSince pk.dst x.first
  let consumer (stream : BitVec 16) (seq : BitVec 32) (t : State) : State :=
    match t.consumerOf stream with
    | some (c, g) => t.endAbandoned c stream none (some g) seq lost
    | none => t
  match pk.body with
  | .request r =>
    match s.awaited r.cell r.ctx r.id with
    | some w =>
      if w.answer.isSome then s
      else if w.kind = .xlt then s.walkEntry r.cell r.ctx r.id none
      else s.answerAwait r.cell r.ctx r.id (4, kRemote, [], 0)
    | none => s.engineAnswered r.cell r.id false
  | .chunk ck =>
    let c := nameCell ck.origin
    if ck.census then consumer ck.stream 0 s
    else s.endAbandoned c ck.stream ((s.cell c).portOf ck.stream) none ck.seq lost
  | .ret stream ack _ => consumer stream ack s
  | .refusal stream n _ => consumer stream n s
  | .replayReq stream seq _ => consumer stream seq s
  | .pennant m =>
    let c := bonded (pk.die.toNat * 256 + pk.cell.toNat)
    (s.cell c).halyardTag.elim s fun t => s.endAbandoned c ((s.cell c).tag t).stream none (some t) (m.setWidth 32) lost
  | .coll m =>
    match m with
    | .exponent root g a .. => s.collAbandoned root (packetDest pk) g a
    | .inputAgain root g a .. => s.collAbandoned root (packetDest pk) g a
    | .result g a _ ck => s.collAbandoned ck.origin (packetDest pk) g a
    | .expRecord _ src g .. => s.ldredFails (nameCell src) g 5
    | .input _ src g .. => s.ldredFails (nameCell src) g 5
    | .resultAgain _ src g .. => s.ldredFails (nameCell src) g 5
    | .chunkLost _ src g .. => s.ldredFails (nameCell src) g 7
    | _ => s
  | _ => s

/-- `E2E_RESEND_TIMEOUT`: sent again under the current generation, at most three further times. -/
def execE2eResendTimeout (s : State) : Out :=
  .next (
    let a := s.args
    let mine (x : Sent) : Bool := x.pk.dst.toNat == a.dst && x.pk.ch == a.flag && x.pk.eseq == a.seq
    match s.pkg.store.find? mine with
    | none => s
    | some x =>
      if 4 ≤ x.tries then
        let s := (s.modPkg fun p => { p with store := p.store.filter fun y => !mine y }).abandon x
        s.refill s.pkg.outbox.length
      else
        let pk := s.pkg.stamped { x.pk with eack := (s.pkg.peer x.pk.dst x.pk.ch).expect }
        let again (y : Sent) : Sent := if mine y then { y with pk := pk, tries := y.tries + 1 } else y
        let s := s.modPkg fun p => { p with store := p.store.map again }
        (s.after 16000 .e2eResendTimeout a).launchPacket pk)

end Sys2Proof.Machine
end

