-- ==== Sys2Proof/Machine/Boot.lean ====
section
/-! DEFINITION. The bunting boot (R399-R402, R474-R478): manifests, placement, verification, commit and replies. -/

namespace Sys2Proof.Machine
open Sys2Proof

/-! ## Boot packets (R399) -/

def bootMagic : Nat := 0x544E5542
def bType (l : List Byte) : Nat := field l 8 1
def bNent (l : List Byte) : Nat := field l 9 1
def bLength (l : List Byte) : Nat := field l 10 2
def bTensor (l : List Byte) : Nat := field l 12 2
def bLast (l : List Byte) : Bool := (field l 14 1).testBit 0
def bEnc (l : List Byte) : Bool := (field l 14 1).testBit 1
def bTile (l : List Byte) : Nat := field l 16 4
def bOffset (l : List Byte) : Nat := field l 20 4
def bSerial (l : List Byte) : BitVec 32 := BitVec.ofNat 32 (field l 4 4)
def bEntries (l : List Byte) : List W64 := (List.range (bNent l)).map fun i => BitVec.ofNat 64 (field l (32 + 8 * i) 8)
def bPayload (l : List Byte) : List Byte := (l.drop (32 + 8 * bNent l)).take (bLength l)
/-- The tag that follows the payload of a LAST packet with ENC. -/
def bTag (l : List Byte) : List Byte := (l.drop (32 + 8 * bNent l + bLength l)).take 16
/-- Bytes of a body by its own fields. -/
def bSize (l : List Byte) : Nat := 32 + 8 * bNent l + bLength l + (if bLast l && bEnc l then 16 else 0)

/-- MAGIC and the raw burgee of the payload. -/
def bootOk (l : List Byte) : Bool :=
  field l 0 4 == bootMagic && field l 24 8 == (burgeeOf false (bPayload l)).toNat

/-- The same packet with other entries. -/
def withEntries (l : List Byte) (es : List W64) : List Byte :=
  l.take 9 ++ [BitVec.ofNat 8 es.length] ++ (l.drop 10).take 22 ++ es.flatMap (fun e => toBytes 8 e.toNat)
    ++ l.drop (32 + 8 * bNent l)

/-! ## Manifests (R400) -/

structure Share where
  tensor : Nat
  pkg : BitVec 10
  first : Nat
  count : Nat
  hash : List Byte
  deriving DecidableEq, Repr

def mNtensor (m : List Byte) : Nat := field m 8 2
def mNshare (m : List Byte) : Nat := field m 10 4
def mKeySlot (m : List Byte) : Nat := field m 14 2
def mTensors (m : List Byte) : List (Nat × Tensor) :=
  (List.range (mNtensor m)).map fun i => tensorOf ((m.drop (64 + 32 * i)).take 32)
def mShare (m : List Byte) (i : Nat) : Share :=
  let e := (m.drop (64 + 32 * mNtensor m + 80 * i)).take 80
  ⟨field e 0 2, BitVec.ofNat 10 (field e 2 2), field e 4 4, field e 8 4, e.drop 16⟩
def mSigned (m : List Byte) : Nat := 64 + 32 * mNtensor m + 80 * mNshare m
/-- Magic, length and signature. -/
def manifestOk (m : List Byte) : Bool :=
  field m 0 4 == 0x54464E4D && m.length == mSigned m + 4627
    && Config.operatorSigned (sha3 (m.take (mSigned m))) (m.drop (mSigned m))

/-- Indices of the shares of a package. -/
def mine (m : List Byte) (p : BitVec 10) : List Nat := (List.range (mNshare m)).filter fun i => (mShare m i).pkg == p

def bootKey (tensor tile : Nat) : Nat := tensor * 2 ^ 32 + tile
def mTensor (m : List Byte) (t : Nat) : Option Tensor := ((mTensors m).find? fun e => e.1 == t).map Prod.snd

/-! ## Sending -/

def State.modBoot (s : State) (f : Boot → Boot) : State := s.modPkg fun p => { p with boot := f p.boot }

/-- Sends a boot packet's body to a package. -/
def State.sendBoot (s : State) (dst : BitVec 10) (l : List Byte) (direct : Bool) : State :=
  s.post .packetInject { Args.empty with pk := { Packet.empty with dst := dst, kind := 7, body := .boot l direct } }

/-- Children of this package in the boot tree (R401). -/
def Pkg.bootChildren (p : Pkg) : List (BitVec 10) := (p.fabric.tree.filter fun e => e.2 == p.number).map Prod.fst
/-- Whether a package lies in the subtree of another. -/
def Fabric.under (f : Fabric) (top q : BitVec 10) : Bool := q == top || f.tree.any fun e => e.1 == q && e.2 == top

/-- Passes a packet down the tree: ANNOUNCE, VERIFY and COMMIT to every child; DATA by its entries, a depth-1 package
giving each child its own (R401). A DIRECT packet goes no further (R478). -/
def State.passDown (s : State) (l : List Byte) (direct : Bool) : State :=
  let p := s.pkg
  if direct then s
  else
    p.bootChildren.foldl (fun t q =>
      if bType l ≠ 2 then t.sendBoot q l false
      else if p.number = p.fabric.root then
        if (bEntries l).any fun e => p.fabric.under q (aPkg e) then t.sendBoot q l false else t
      else
        let es := (bEntries l).filter fun e => aPkg e == q
        if es.isEmpty then t else t.sendBoot q (withEntries l es) false) s

/-- A STATUS or NACK (R476). -/
def State.bootReplyBytes (s : State) (type : Nat) : List Byte :=
  let b := s.pkg.boot
  let pay := [BitVec.ofNat 8 b.st.code, BitVec.ofNat 8 b.sigOk.toNat] ++ toBytes 2 b.bad.length ++ zeros 4
    ++ b.bad.flatMap (fun i => toBytes 4 i)
  toBytes 4 bootMagic ++ toBytes 4 b.serial.toNat ++ [BitVec.ofNat 8 type, 0] ++ toBytes 2 pay.length ++ zeros 12
    ++ toBytes 8 (burgeeOf false pay).toNat ++ pay

/-- The root passes a reply on to its boot server, out of the bunting port (R390). Log entry 69, DEDUCED. -/
def State.toServer (s : State) (src : BitVec 10) (l : List Byte) : State :=
  if s.pkg.bunting 31 then
    s.enqueueAt 31 { Packet.empty with src := src, dst := s.pkg.number, kind := 7, body := .boot l false }
  else s

/-- Sends a reply to the root. Log entry 69, DEDUCED. -/
def State.bootReply (s : State) (type : Nat) : State :=
  let l := s.bootReplyBytes type
  if s.pkg.number = s.pkg.fabric.root then s.bootIn s.pkg.number l false else s.sendBoot s.pkg.fabric.root l false

/-! ## Injection by the host (R474, R475) -/

/-- Whether a word written to `BOOT_INJ` is discarded. Log entry 69, DEDUCED. -/
def State.injBad (s : State) (v : W64) : Bool :=
  let l := s.stagingRead (bitsAt v 0 26) 32
  decide (8 ≤ s.pkg.boot.queue.length) || bitsAt v 26 6 != 0 || bitsAt v 45 3 != 0 || bitsAt v 59 5 != 0
    || bitsAt v 0 3 != 0 || bitsAt v 32 13 != bSize l || (!v.getLsbD 48 && bitsAt v 49 10 != 0)

/-- Key of a share of a package in the root's count of its re-sends. -/
def shareKey (q : BitVec 10) (i : Nat) : Nat := q.toNat * 2 ^ 32 + i
/-- Shares of the announced manifest, by index, that a package holds of a tile. -/
def Boot.sharesAt (b : Boot) (q : BitVec 10) (tensor tile : Nat) : List Nat :=
  (mine b.man q).filter fun i =>
    let h := mShare b.man i
    h.tensor == tensor && decide (h.first ≤ tile) && decide (tile < h.first + h.count)
/-- A DATA packet without the entries of shares that have been sent again twice (R402, R476). Log entry 69, DEDUCED. -/
def Boot.limited (b : Boot) (l : List Byte) : List Byte :=
  if bType l ≠ 2 then l
  else withEntries l ((bEntries l).filter fun e =>
    !((b.sharesAt (aPkg e) (bTensor l) (bTile l)).any fun i => decide (2 < b.resends.get 0 (shareKey (aPkg e) i))))

/-- The root takes an injected body: DIRECT ones go to one package, others are handled and passed down. -/
def State.injTake (s : State) (v : W64) : State :=
  let direct := v.getLsbD 48
  let l0 := s.stagingRead (bitsAt v 0 26) (bitsAt v 32 13)
  let l := if direct then l0 else s.pkg.boot.limited l0
  let dst := v.extractLsb' 49 10
  let s := if bType l = 1 then s.modBoot fun b => { b with
      direct := direct
      directSerial := if direct then bSerial l else b.directSerial } else s
  if direct && dst != s.pkg.number then s.sendBoot dst l true else s.bootIn s.pkg.number l direct

/-- `BOOT_INJ`: a write enters the injection queue, or is discarded with DROP; with `flag`, the root takes the oldest
entry. -/
def execBootInj (s : State) : Out :=
  .next (
    if s.args.flag then
      match s.pkg.boot.queue with
      | [] => s
      | v :: t => (s.modBoot fun b => { b with queue := t }).injTake v
    else if s.injBad s.args.v then s.modBoot fun b => { b with drop := true }
    else
      (s.modBoot fun b => { b with queue := b.queue ++ [s.args.v] }).post .bootInj { Args.empty with flag := true })

/-! ## ANNOUNCE (R402, R477) -/

/-- Starts a boot with a verified manifest, or fails one. -/
def State.announced (s : State) (m : List Byte) (ok : Bool) : State :=
  (s.modBoot fun b => { b with
    st := if ok then .announced else .failed
    sigOk := ok
    serial := b.segSerial
    segs := []
    length := none
    man := if ok then m else []
    frames := []
    good := []
    bad := []
    fails := []
    ready := []
    resends := []
    stores := [] }).bootReply 6

/-- The bytes of a collected manifest from 0 to its end, if every one is held. -/
def Boot.whole (b : Boot) : Option (List Byte) :=
  match b.length with
  | none => none
  | some n => (List.range n).foldr (fun i acc =>
      match b.segs.find? fun e => e.1 == i with
      | some (_, x) => acc.map fun l => x :: l
      | none => none) (some [])

/-- `BOOT_ANNOUNCE`: a segment of a manifest. One that overlaps a held segment with other bytes discards the whole. When
every byte is held the signature is verified; a manifest of the current serial that is not DIRECT changes nothing. -/
def execBootAnnounce (s : State) : Out :=
  .next (
    let l := s.args.bytes
    let direct := s.args.flag
    if !bootOk l then s
    else
      let s := s.passDown l direct
      let s := if s.pkg.boot.segSerial ≠ bSerial l ∨ s.pkg.boot.segDirect ≠ direct then
          s.modBoot fun b => { b with segSerial := bSerial l, segDirect := direct, segs := [], length := none }
        else s
      let pay := bPayload l
      let clash := (List.range pay.length).any fun i =>
        s.pkg.boot.segs.any fun e => e.1 == bOffset l + i && e.2 != pay.getD i 0
      if clash then s.modBoot fun b => { b with segs := [], length := none }
      else
        let s := s.modBoot fun b => { b with
          segs := (List.range pay.length).foldl (fun (t : Tab Byte) i => t.ins (bOffset l + i) (pay.getD i 0)) b.segs
          length := if bLast l then some (bOffset l + pay.length) else b.length }
        match s.pkg.boot.whole with
        | none => s
        | some m =>
          let b := s.pkg.boot
          let fresh := b.serial != b.segSerial || b.st == .idle || b.st == .failed || direct
          if fresh then s.announced m (manifestOk m && field m 4 4 == b.segSerial.toNat)
          else s.modBoot fun b => { b with segs := [], length := none })

/-! ## DATA (R402) -/

/-- Shares of this package that hold a tile. -/
def Pkg.sharesOf (p : Pkg) (tensor tile : Nat) : List Nat := p.boot.sharesAt p.number tensor tile

/-- A frame that exists in scratch or deep store of this package. -/
def State.frameOk (s : State) (e : W64) (n : Nat) : Bool :=
  bitsAt e 0 14 == 0 && decide (aSpace e ≤ 1) && (s.accessFault ⟨e, n, 1, true, false, false, true, true⟩).isNone

/-- The IV of a tile image, formed from SERIAL, TENSOR and TILE (R409). Log entry 71, DEDUCED. -/
def tileIv (serial tensor tile : Nat) : List Byte := toBytes 4 serial ++ toBytes 4 tensor ++ toBytes 4 tile

/-- Writes the payload into one frame, and opens the tile at its LAST packet. -/
def State.bootWrite (s : State) (l : List Byte) (e : W64) : State :=
  let b := s.pkg.boot
  let s := s.engineWrite (flatOf (e + BitVec.ofNat 64 (bOffset l))) (bPayload l)
  let s := s.modBoot fun b => { b with frames := b.frames.ins (bootKey (bTensor l) (bTile l)) e }
  if bLast l && bEnc l then
    match s.pkg.key (mKeySlot b.man) with
    | some k =>
      if k.usage ≠ 1 then s
      else
        let n := bOffset l + bLength l
        match gcmOpen k.bytes (tileIv b.serial.toNat (bTensor l) (bTile l)) [] (s.readBytes (flatOf e) n ++ bTag l) with
        | some plain => s.engineWrite (flatOf e) (plain.take n)
        | none => s
    | none => s
  else s

/-- `BOOT_DATA`: taken while ANNOUNCED or LOADING; while VERIFYING only for a share that failed. A placement is accepted
onto a package with its described ports UP only (R391). -/
def execBootData (s : State) : Out :=
  .next (
    let l := s.args.bytes
    let b := s.pkg.boot
    if !bootOk l || bSerial l != b.serial || !b.sigOk then s
    else
      let s := s.passDown l s.args.flag
      let own := (bEntries l).filter fun e =>
        s.pkg.placeable && aPkg e == s.pkg.number && s.frameOk e (bOffset l + bLength l)
      let again := (s.pkg.sharesOf (bTensor l) (bTile l)).any fun i => b.bad.contains i
      if own.isEmpty then s
      else if b.st = .announced ∨ b.st = .loading ∨ (b.st = .verifying ∧ again) then
        own.foldl (fun t e => t.bootWrite l e) (s.modBoot fun b => { b with st := .loading })
      else s)

/-! ## VERIFY (R402) -/

/-- Whether the tiles of a share, in order, hash to its entry of the manifest. -/
def State.shareGood (s : State) (i : Nat) : Bool :=
  let b := s.pkg.boot
  let h := mShare b.man i
  match mTensor b.man h.tensor with
  | none => false
  | some t =>
    let tiles := (List.range h.count).map fun k => b.frames.find? fun e => e.1 == bootKey h.tensor (h.first + k)
    tiles.all Option.isSome &&
      sha3 (tiles.flatMap fun o => match o with
        | some (_, e) => s.readBytes (flatOf e) t.tileBytes
        | none => []) == h.hash

/-- `BOOT_VERIFY`: hashes each share of this package; a share that has failed three times fails the boot, and the shares
that failed are named in a STATUS, and in a NACK while they may be sent again. -/
def execBootVerify (s : State) : Out :=
  .next (
    let l := s.args.bytes
    let b := s.pkg.boot
    if !bootOk l || bSerial l != b.serial then s
    else
      let s := s.passDown l s.args.flag
      if b.st ≠ .announced ∧ b.st ≠ .loading then s
      else
        let own := mine b.man s.pkg.number
        let good := own.filter fun i => s.shareGood i
        let bad := own.filter fun i => !good.contains i
        let fails := bad.foldl (fun (t : Tab Nat) i => t.ins i (t.get 0 i + 1)) b.fails
        let spent := bad.any fun i => decide (3 ≤ fails.get 0 i)
        let s := (s.modBoot fun b => { b with
          st := if spent then .failed else .verifying
          good := good
          bad := bad
          fails := fails }).bootReply 6
        if bad.isEmpty || spent then s else s.bootReply 5)

/-! ## COMMIT (R402) -/

/-- Writes a tile-table entry: within the package at once, elsewhere by a numbered request for whose answer the boot
waits. -/
def State.writeEntry (s : State) (a : W64) (e : W64) : State :=
  let l := toBytes 8 (e ||| 1).toNat
  if !s.tableReadable a then s
  else if aPkg a = s.pkg.number then s.globalWrite a l
  else
    let r := s.awaitedWrite a 0xF1 l
    r.2.modBoot fun b => { b with stores := b.stores ++ [r.1] }

/-- Writes the entries of this package's tiles into their tile tables, with P = 1. -/
def State.writeTables (s : State) : State :=
  let b := s.pkg.boot
  (mine b.man s.pkg.number).foldl (fun t i =>
    let h := mShare b.man i
    match mTensor b.man h.tensor with
    | none => t
    | some d => (List.range h.count).foldl (fun t k =>
        let tile := h.first + k
        match b.frames.find? fun e => e.1 == bootKey h.tensor tile with
        | some (_, e) => t.writeEntry (d.table + BitVec.ofNat 64 (8 * tile)) e
        | none => t) t) s

/-- The fence at fabric scope that follows (R300): every copy of an entry in the package is dropped. -/
def State.bootFence (s : State) : State := (List.range 8).foldl (fun t d => t.dropTensor d none) s

/-- The end of a commit, once its stores to other packages are performed (R402). Log entry 69, DEDUCED. -/
def State.bootDone (s : State) : State :=
  if s.pkg.boot.stores.any s.pkg.writes.contains then
    s.afterCycles 1 .bootCommit { Args.empty with n := 1, id := s.pkg.boot.serial.toNat }
  else s.bootFence.modBoot fun b => { b with st := .committed, stores := [] }

/-- `BOOT_COMMIT`: the root sends it on only when every package has reported every share good; a package whose shares are
all good commits: with `n` 1, its stores have been sent. Log entry 69, DEDUCED. -/
def execBootCommit (s : State) : Out :=
  .next (
    let l := s.args.bytes
    let b := s.pkg.boot
    let root := s.pkg.number == s.pkg.fabric.root && !s.args.flag
    if s.args.n = 1 then (if b.st = .verifying ∧ b.serial.toNat = s.args.id ∧ !b.stores.isEmpty then s.bootDone else s)
    else if !bootOk l || bSerial l != b.serial then s
    else if root && !(s.pkg.fabric.packages.all fun q => b.ready.contains q) then s
    else
      let s := s.passDown l s.args.flag
      if b.st = .verifying ∧ b.bad.isEmpty ∧ b.stores.isEmpty then s.writeTables.bootDone else s)

/-! ## Replies at the root (R402, R476) -/

/-- The 64-byte records of a reply, twelve failed shares to each. -/
def replyRecords (src : Nat) (l : List Byte) : List (List Byte) :=
  let p := bPayload l
  let k := field p 2 2
  (List.range (max ((k + 11) / 12) 1)).map fun r =>
    toBytes 2 src ++ [BitVec.ofNat 8 (bType l), BitVec.ofNat 8 (field p 0 1)] ++ toBytes 4 (bSerial l).toNat
      ++ [BitVec.ofNat 8 (field p 1 1 % 2), 0] ++ toBytes 2 k ++ zeros 4
      ++ (List.range 12).flatMap fun i =>
        if 12 * r + i < k then toBytes 4 (field p (8 + 4 * (12 * r + i)) 4) else toBytes 4 0xFFFFFFFF

/-- Sends the named shares of a package again, each at most twice, from the packets that the boot server sent, and then
VERIFY. The host sends them where it is the boot's source (R476). Log entry 69, DEDUCED. -/
def State.sendAgain (s : State) (q : BitVec 10) (l : List Byte) : State :=
  let b := s.pkg.boot
  let p := bPayload l
  let named := (List.range (field p 2 2)).map fun i => field p (8 + 4 * i) 4
  let some_ := named.filter fun i => decide (b.resends.get 0 (shareKey q i) < 2)
  let hits := b.held.filter fun d =>
    (bEntries d).any (fun e => aPkg e == q) && (b.sharesAt q (bTensor d) (bTile d)).any some_.contains
  let s := s.modBoot fun b => { b with
    resends := named.foldl (fun t i => t.ins (shareKey q i) (t.get 0 (shareKey q i) + 1)) b.resends }
  if hits.isEmpty then s
  else
    let verify := toBytes 4 bootMagic ++ toBytes 4 b.serial.toNat ++ [3] ++ zeros 15 ++ toBytes 8 (burgeeOf false []).toNat
    let out := hits.map (fun d => withEntries d ((bEntries d).filter fun e => aPkg e == q)) ++ [verify]
    out.foldl (fun t d => if q = t.pkg.number then t.bootIn q d true else t.sendBoot q d true) s

/-- `BOOT_REPLY`: the root learns which packages are ready, posts the reply to its host's ring and passes it on to its
boot server, and sends failed shares again where it holds them. The replies of a DIRECT boot go to the host only. A reply
with another SERIAL is discarded (R399). -/
def execBootReply (s : State) : Out :=
  .next (
    let l := s.args.bytes
    let src : BitVec 10 := BitVec.ofNat 10 s.args.src
    let b := s.pkg.boot
    if !bootOk l || s.pkg.number != s.pkg.fabric.root then s
    else if bSerial l != (if b.direct then b.directSerial else b.serial) then s
    else
      let p := bPayload l
      let good := bType l == 6 && field p 0 1 == 3 && field p 2 2 == 0
      let s := if b.direct then s else s.modBoot fun b => { b with
        ready := (b.ready.filter fun q => q != src) ++ (if good then [src] else []) }
      let r := bitsAt s.pkg.bootReply 0 4
      let s := if s.pkg.bootReply.getLsbD 4 && (s.pkg.ring r).en then
          (replyRecords s.args.src l).foldl (fun t rec => t.ringPut r ⟨rec, none⟩) s
        else s
      if b.direct then s
      else
        let s := s.toServer src l
        if bType l = 5 then s.sendAgain src l else s)

end Sys2Proof.Machine
end

