-- ==== Sys2Proof/Machine/Platform.lean ====
section
/-! DEFINITION. Time (R403-R405), power (R406, R407), keys (R408, R409) and attestation (R410). -/

namespace Sys2Proof.Machine
open Sys2Proof

/-! ## Time -/

def State.modTime (s : State) (f : TimeSt → TimeSt) : State := s.modPkg fun p => { p with time := f p.time }

/-- Nanoseconds in the state's unit of 1/45000 ns. Log entry 70, DEDUCED. -/
def nsUnits (n : Int) : Int := n * 45000

/-- Events whose moment is one of TIME itself, not of the hardware's timers. Log entry 70, DEDUCED. -/
def onTime (i : Instr) : Bool := i == .generationSwap || i == .hringIrqTimer

/-- TIME steps forward once: the hardware's timers run on, and the events of TIME come earlier by the step (R404).
Log entry 70, DEDUCED. -/
def State.stepTime (s : State) (u : Nat) : State :=
  let early (e : Nat × Event) : Nat × Event := if onTime e.2.instr then (e.1 - u, e.2) else e
  ({ s with time := s.time + u, timers := s.timers.map early }).modTime fun t => { t with stepped := t.stepped + u }

/-- A measured offset of TIME from its source, in nanoseconds: TIME that is behind at the first lock steps forward once;
any other offset is slewed away (R404). The package is LOCKED while what is left is within 8 ns. Log entry 70, DEDUCED. -/
def State.measured (s : State) (source port stratum : Nat) (offset : Int) : State :=
  let first := !s.pkg.time.once
  let s := if first && decide (offset < 0) then s.stepTime (nsUnits (-offset)).toNat else s
  let left : Int := if first && decide (offset < 0) then 0 else offset
  s.modTime fun t => { t with
    source := source
    locked := decide (-8 ≤ left) && decide (left ≤ 8)
    holdover := false
    srcPort := port
    stratum := stratum
    offset := offset
    slew := nsUnits (-left)
    heard := s.elapsed
    once := true }

/-- Whether a source of a higher rank than rank `r` disciplines TIME (R403). -/
def TimeSt.above (t : TimeSt) (r : Nat) : Bool :=
  !t.holdover && t.source != 0 && decide (t.source < r) && t.once

/-- The UP port whose peer has the smallest stratum, the lowest on a tie. -/
def Pkg.bestPort (p : Pkg) : Option Nat :=
  ((List.range 32).filter fun n => (p.link n).state == .up && decide ((p.link n).stratum < 3)).foldl
    (fun b n => match b with
      | none => some n
      | some m => if (p.link n).stratum < (p.link m).stratum then some n else b) none

/-- Sends the time stamp of a port, 1,024 times in a second while it is UP (R404). Log entry 70, DEDUCED. -/
def State.sendStamp (s : State) : State :=
  let a := s.args
  if a.n ≠ (s.lport a.p).retrains then s
  else
    (s.modLink a.p fun l => { l with wire := l.wire ++ [ctrlFlit (.stamp s.tai s.pkg.time.reported)] }).after stampInterval
      .timeExchange a

/-- `TIME_EXCHANGE`: an exchange on a port gave the offset of TIME from the peer's, `int`, and the peer's stratum, `n`. It
disciplines TIME while its port is the best source. Three missed exchanges end in holdover. With `flag` the port's next
stamp is due, in the training that `n` counts. -/
def execTimeExchange (s : State) : Out :=
  .next (
    let a := s.args
    if (s.pkg.link a.p).state ≠ .up then s
    else if a.flag then s.sendStamp
    else
      let s := s.modLink a.p fun l => { l with stratum := a.n }
      if s.pkg.time.above 3 || s.pkg.bestPort != some a.p then s
      else (s.measured 3 a.p (a.n + 1) a.int).after (3 * stampInterval) .timeHoldover { Args.empty with k := 3, p := a.p })

/-- `PTP_SYNC`: the management port is locked to a master and has measured the offset `int`. IEEE 1588-2019 says how; its
messages are outside the package (log entry 70). -/
def execPtpSync (s : State) : Out := .next (s.measured 1 0 0 s.args.int)

/-- `PPS_EDGE`: with PPSIN, the edge marks the second that firmware wrote to `TIME_SEC`, which then counts up with each
edge; it disciplines TIME unless the management port does (R403, R405). -/
def execPpsEdge (s : State) : Out :=
  .next (
    let t := s.pkg.time
    if !t.ppsIn || !t.secLive then s
    else
      let s := if t.above 2 then s else s.measured 2 0 0 ((s.time / 45000 : Nat) - (t.sec.toNat * 1000000000 : Nat))
      s.modTime fun t => { t with sec := t.sec + 1 })

/-- The drift of one second of holdover: free within ±100 ns (R404). Log entry 70, DEDUCED. -/
def State.drift (s : State) : Int := ((Config.freeWord s.draws).toNat % 9000001 : Nat) - 4500000

/-- A second of holdover begins. Log entry 70, DEDUCED. -/
def State.holdSecond (s : State) : State :=
  (s.drawn.modTime fun t => { t with locked := false, holdover := true, slew := s.drift }).after 1000000000 .timeHoldover
    { Args.empty with n := 1 }

/-- `TIME_HOLDOVER`: the source `k` has missed three exchanges or intervals, and is still the one that disciplines TIME;
TIME runs on by itself and drifts, by at most 100 ns in each second (with `n` 1), until a source locks again (R404). -/
def execTimeHoldover (s : State) : Out :=
  .next (
    let t := s.pkg.time
    if s.args.n = 1 then (if t.holdover then s.holdSecond else s)
    else if t.source = 0 ∨ t.source ≠ s.args.k ∨ t.holdover ∨ (t.source = 3 ∧ s.elapsed < t.heard + 3 * stampInterval * 45000) then s
    else s.holdSecond)

/-! ## Power (R406) -/

/-- `POWER_OVER_STEP`: once per millisecond while OVER is set, every configured cell's base limit falls by 256. -/
def execPowerOverStep (s : State) : Out :=
  .next (
    if !s.pkg.overLimit then s
    else
      let lower (e : Nat × Cell) : Nat × Cell :=
        if e.2.loaded then (e.1, { e.2 with curBase := if e.2.curBase.toNat < 256 then 0 else e.2.curBase - 256 }) else e
      State.after { s with cells := s.cells.map lower } 1000000 .powerOverStep Args.empty)

/-- `POWER_MEASUREMENT_UPDATE`: `n` is the power in watts averaged over the last millisecond. -/
def execPowerMeasurementUpdate (s : State) : Out :=
  .next (
    let was := s.pkg.overLimit
    let now := decide (s.pkg.plimit < s.args.n)
    let s := s.modPkg fun p => { p with measured := s.args.n, overLimit := now }
    if now && !was && !(s.timers.any fun e => e.2.instr == .powerOverStep) then s.post .powerOverStep Args.empty else s)

/-- `COOLANT_ALARM`. -/
def execCoolantAlarm (s : State) : Out := .next (s.modPkg fun p => { p with coolAlm := s.args.flag })

/-! ## Keys (R408, R409) -/

/-- The end of an operation of `KEY_CMD`. -/
def State.keyDone (s : State) (refused : Bool) : State :=
  s.modPkg fun p => { p with
    csr := p.csr.ins 0x360 (withBits (withBits (p.csr.get 0 0x360) 23 1 0) 24 1 refused.toNat) }

/-- Bytes at an offset of MD0's scratch as a whole, 2 MiB to a cell (log entry 18). -/
def State.md0Read (s : State) (o n : Nat) : List Byte :=
  (List.range n).map fun i => s.byte (flat ((o + i) / 0x200000 % 256) 0 ((o + i) % 0x200000))

/-- `KEY_LOAD`: the 40 bytes at SRC, unwrapped under slot 0. -/
def execKeyLoad (s : State) : Out :=
  .next (
    let a := s.args
    let key := (s.pkg.key 0).bind fun k => unwrapKey k.bytes (s.md0Read a.src 40)
    match key with
    | some b =>
      if a.slot = 0 ∨ 2 < a.usage then s.keyDone true
      else (s.modPkg fun p => { p with keys := p.keys.ins a.slot ⟨a.usage, b⟩ }).keyDone false
    | none => s.keyDone true)

/-- `KEY_ERASE`: an erased slot holds no key. -/
def execKeyErase (s : State) : Out :=
  .next ((s.modPkg fun p => { p with keys := p.keys.ins s.args.slot ⟨3, []⟩ }).keyDone false)

/-- `KEY_BINDTX`: a direction without a key takes it at once, any other at `REKEY`. Log entry 71, DEDUCED. -/
def execKeyBindtx (s : State) : Out :=
  .next (
    let a := s.args
    if !s.pkg.bindable a.slot then s.keyDone true
    else (s.modLink a.p fun l =>
      if l.txKey.isNone then { l with txKey := some a.slot } else { l with txNext := some a.slot }).keyDone false)

/-- `KEY_BINDRX`: a direction without a key takes it at once, any other at the peer's key switch.
Log entry 71, DEDUCED. -/
def execKeyBindrx (s : State) : Out :=
  .next (
    let a := s.args
    if !s.pkg.bindable a.slot then s.keyDone true
    else (s.modLink a.p fun l =>
      if l.rxKey.isNone then { l with rxKey := some a.slot } else { l with rxNext := some a.slot }).keyDone false)

/-- `KEY_REKEY`: the transmit direction moves to the bound slot, announced in a control flit, during a retrain after it
(R413); the epoch of its IV rises and its counter starts anew. Log entry 71, DEDUCED. -/
def execKeyRekey (s : State) : Out :=
  .next (
    (s.modLink s.args.p fun l =>
      match l.txNext with
      | some k => { l with
          txKey := some k
          txNext := none
          txEpoch := l.txEpoch + 1
          txCounter := 0
          owed := if l.state = .up then none else some (.keySwitch (l.txEpoch + 1))
          wire := if l.state = .up then l.wire ++ [ctrlFlit (.keySwitch (l.txEpoch + 1))] else l.wire }
      | none => l).keyDone false)

/-! ## Attestation (R410) -/

/-- The first 384 bytes of the report. -/
def State.reportBody (s : State) (nonce : List Byte) : List Byte :=
  toBytes 4 0x54415441 ++ toBytes 4 s.pkg.number.toNat ++ toBytes 8 s.tai.toNat ++ nonce
    ++ sha3 Config.pcpFirmware ++ sha3 Config.dcpFirmware
    ++ (if s.pkg.boot.man.isEmpty then zeros 64 else sha3 s.pkg.boot.man) ++ zeros 112

/-- The 4,627 bytes of the device's signature over a digest. Log entry 16, DESIGN CHOICE. -/
def signature (digest : List Byte) : List Byte := (Config.deviceSign digest ++ zeros 4627).take 4627

/-- `ATTESTATION`: `src` is the offset of the nonce in MD0 scratch, `dst` that at which the report is delivered (log
entry 18). -/
def execAttestation (s : State) : Out :=
  .next (
    let body := s.reportBody (s.md0Read s.args.src 64)
    let l := body ++ signature (sha3 body)
    (List.range l.length).foldl (fun t i =>
      let o := s.args.dst + i
      t.engineWrite (flat (o / 0x200000 % 256) 0 (o % 0x200000)) [l.getD i 0]) s)

end Sys2Proof.Machine
end

