-- ==== Sys2Proof/Machine/Reliability.lean ====
section
/-! DEFINITION. Containment (R419-R449): region kills, die fences, stage migration, the logical cell map, corrected and
uncorrectable errors, and the comparators of shadow regions. -/

namespace Sys2Proof.Machine
open Sys2Proof

/-! ## Region kill (R432-R437) -/

/-- Tasks of a cell, resident and evicted, as the kill finds them. -/
def Cell.tasks (k : Cell) : List Ctx :=
  ((List.range 4).map k.ctx).filter (fun x => x.st != .free) ++ k.saved.map Saved.bank

/-- An output port after a kill (R434), whose stream goes on unless a needed retain slot was unreadable (R436): NEXT_P
goes back to the least mark of the killed tasks, and the high-water mark stands until NEXT_P reaches it. -/
def PortSt.rewound (p : PortSt) (marks : List (BitVec 32)) : PortSt :=
  let back := leastBy (fun m => (seqDiff m p.nextP + 2 ^ 32).toNat) marks
  let q := { p with stopped := p.lost, peerLost := false }
  match back with
  | none => q
  | some m =>
    if 0 ≤ seqDiff m p.nextP then q
    else { q with
      nextP := m
      high := some (p.high.getD p.nextP)
      unsent := match p.unsent with
        | some u => if seqDiff u m < 0 then some u else none
        | none => none }

/-- A consumer tag after a kill: every slot not freed is discarded and EXP_C := ACK_C. -/
def TagSt.cleared (t : TagSt) : TagSt := { t with ring := [], expC := t.ackC, peerLost := false }

/-- The halyard unit after a kill (R435): slots FREE, and the next pennant that of the micro-batch after the newest
freed; before the numbers of a re-established stream are known, the one after those it drops. -/
def Halyard.killed (h : Halyard) (t : TagSt) : Halyard :=
  if !h.paired then { h with pairing := none }
  else
    let m := match h.base with
      | some b => b + BitVec.ofNat 16 (t.ackC.toNat / max h.cpm 1)
      | none => (t.dropTo.map fun d => d + 1).getD 0
    { h with
      pairing := none
      slots := []
      slotMb := []
      nextPennant := m
      nextSeq := t.ackC
      expected := m }

/-- A cell stops for a kill: nothing issues, and what is queued is discarded; what has started runs to its end.
Log entry 73, DEDUCED. -/
def Cell.halted (k : Cell) : Cell :=
  { k with
    killed := true
    cur := none
    ctxs := k.ctxs.map fun e => (e.1, { e.2 with
      land := []
      frozen := true })
    mats := k.mats.map fun m => (m.1, { m.2 with
      queue := []
      originals := [] })
    engines := k.engines.map fun e => (e.1, e.2.filter fun m => m.ctx == 4) }

/-- The restart of a DISPATCH task by the arguments of its node, or its failure in a second kill (R433).
Log entry 73, DEDUCED. -/
def State.restartTask (s : State) (c : Nat) (x : Ctx) (again : Bool) : State :=
  match x.node with
  | none => s
  | some (k, n) =>
    if again then s.taskDone (some (k, n)) c true
    else
      let g := s.gnode k n
      let args : List W64 := (List.range 4).map fun i => BitVec.ofNat 64 (field g.bytes (16 + 8 * i) 8)
      (s.modNode k n fun g => { g with rerun := true }).modCell c fun q =>
        { q with runs := q.runs ++ [(k, n, x.handler.toNat, x.prio.toNat, args)] }

/-- The tasks of a killed cell, resident and evicted, come to their end: what they have issued is performed, far accesses
go on as accesses of the cell, and what evicted tasks hold is free. -/
def State.endTasks (s : State) (c : Nat) : State :=
  let s := (List.range 4).foldl (fun t x => t.settle c x fun _ => true) s
  let s := (s.cell c).saved.foldl (fun t v => t.settleAway c v) s
  let s := s.modCell c fun k => { k with orphans := k.orphans ++ k.tasks.flatMap Ctx.storesOut }
  (s.cell c).saved.foldl (fun t v => t.dropSaved c v) s

/-- Reloads one cell from its image: retain rings, port stream state and the halyard configuration stay (R433). An evicted
configuration (`away`) has its text and rules rewritten as it comes back (R368). Log entry 73, DEDUCED. -/
def State.reloadCell (s : State) (away : Bool) (c : Nat) (origin pos serial : Nat) (l : List Byte) (tasks : List Ctx) : State :=
  let was := s.cell c
  let s := s.endTasks c
  let s := if away then s else (s.profInterval c serial).writeText c l
  let s := (s.writeData c l).loadFull c l
  let tags : Tab TagSt := was.tags.map fun e => (e.1, e.2.cleared)
  let ports : Tab PortSt := was.ports.map fun e =>
    (e.1, e.2.rewound (tasks.filterMap fun t => (t.marks.find? fun m => m.1 == e.1).map Prod.snd))
  let hal := was.hal.killed (was.tag was.hal.itag)
  let s := s.modCell c fun k => { k.configured l origin pos serial was.startPrio.toNat with
    ctxs := was.ctxs.map fun e => (e.1, e.2.freed)
    tags := tags
    ports := ports
    hal := hal
    engines := was.engines
    copies := was.copies
    runs := was.runs }
  let s := if away then s else s.loadRules c l
  let s := ports.foldl (fun t e => t.pokeResend c e.1) s
  let s := tags.foldl (fun t e =>
    if e.2.slots = 0 then t else (t.producers c e.2.stream e.2.origin).foldl (fun t o => t.refuseFor e.2 o e.2.ackC) t) s
  if hal.paired then (List.range (hal.n - 1)).foldl (fun t _ => t.issuePennant c) s else s

/-- Power grants and requests of a killed cell's contexts go back. -/
def State.dropAllPower (s : State) (c : Nat) : State := (List.range 4).foldl (fun t x => t.dropPower c x) s

/-- A region killed without reload: its configuration goes, and `ends` says what becomes of its RUN nodes. -/
def State.killGone (s : State) (d : Nat) (r : Region) (ends : State → Nat → Nat × Nat → State) : State :=
  let cells := regionCells d r.origin r.w r.h
  let s := cells.foldl (fun t c =>
    let k := t.cell c
    let nodes := (k.tasks.filterMap Ctx.node) ++ k.runs.map fun q => (q.1, q.2.1)
    let t := ((t.dropAllPower c).endTasks c).modCell c fun q => { q.halted with
      ctxs := q.ctxs.map (fun e => (e.1, e.2.freed))
      saved := []
      runs := [] }
    nodes.foldl (fun t n => ends t c n) t) s
  s.dropRegion d r.origin

/-- A region killed without reload, whose RUN nodes fail (R441). -/
def State.killDead (s : State) (d : Nat) (r : Region) : State := s.killGone d r fun t c n => t.taskDone (some n) c true

/-- A region with a cell out of service: its RUN nodes are READY again and bind elsewhere, as R357 lets them, but for one
that a kill has restarted already, which fails (R433, R437). Log entry 109, DESIGN CHOICE. -/
def State.killElsewhere (s : State) (d : Nat) (r : Region) : State :=
  (s.killGone d r fun t c n =>
    if (t.gnode n.1 n.2).rerun then t.taskDone (some n) c true
    else t.modNode n.1 n.2 fun g => { g with st := if g.st = .running then .ready else g.st, left := [], region := none }).pokeRuns

/-- An evicted configuration that is lost with its die: its nodes fail. -/
def State.loseShelf (s : State) (d : Nat) : State :=
  let hs := (s.die d).shelf
  let s := s.modDie d fun k => { k with shelf := [] }
  hs.foldl (fun t h =>
    ((h.was.saved.filterMap fun v => v.bank.node) ++ h.was.runs.map fun q => (q.1, q.2.1)).foldl
      (fun t n => t.taskDone (some n) h.cell true) t) s

/-- The kill of every cell of a configuration, once what had started has ended; `on` carries out an operation on one of
its cells. Log entry 73, DEDUCED. -/
def State.killCells (s : State) (d origin : Nat) (l : List Byte) (away : Bool) (tasks : List (Nat × List Ctx))
    (on : Nat → (State → State) → State → State) : State :=
  let nodes := (tasks.flatMap fun e => e.2.filterMap Ctx.node).eraseDups
  let again := nodes.filter fun n => (s.gnode n.1 n.2).rerun
  let serial := (s.die d).serial + 1
  let s := s.modDie d fun k => { k with serial := serial }
  let s := (List.range tasks.length).foldl (fun t p =>
    let e := tasks.getD p (0, [])
    on e.1 (fun u => u.reloadCell away e.1 origin p serial l e.2) t) s
  let s := tasks.foldl (fun t e =>
    on e.1 (fun u => (e.2.filter fun x => x.disp).foldl (fun t x => t.restartTask e.1 x (x.node.any fun n => again.contains n)) u) t) s
  let s := tasks.foldl (fun t e => t.post .taskStartArrival { Args.empty with c := e.1 }) s
  s.pokeRuns

/-- The kill of a region: it is reloaded and its tasks start again, unless a cell of it is out of service.
Log entry 73, DEDUCED. -/
def State.killRegion (s : State) (d : Nat) (r : Region) : State :=
  let cells := regionCells d r.origin r.w r.h
  if cells.any fun c => (s.die d).oos (c % 256) then s.killElsewhere d r
  else
    let tasks := cells.map fun c => (c, (s.cell c).tasks)
    let s := cells.foldl (fun t c => t.dropAllPower c) s
    let img := s.readImage d r.image
    match img.1 with
    | none => img.2.killDead d r
    | some l => img.2.killCells d r.origin l false tasks fun _ f t => f t

/-- The kill of an evicted configuration (R432): its tasks start again once it is back. Log entry 73, DEDUCED. -/
def State.killShelf (s : State) (d : Nat) (h : Shelf) : State :=
  let mine (q : Shelf) : Bool := q.origin == h.origin && q.image == h.image
  let hs := (s.die d).shelf.filter mine
  let on (c : Nat) (f : State → State) (t : State) : State :=
    match (t.die d).shelf.find? fun q => mine q && q.cell == c with
    | some q => t.onShelf q f
    | none => t
  let img := s.readImage d h.image
  match img.1 with
  | none => img.2
  | some l => img.2.killCells d h.origin l true (hs.map fun q => (q.cell, q.was.tasks)) on

/-- Whether what had started on a killed cell still goes on: matrix operations, commands and collectives, and accesses of
its tasks that are not yet performed (R302, R433). Log entry 73, DEDUCED. -/
def State.stillRuns (s : State) (c : Nat) : Bool :=
  let k := s.cell c
  let open_ (x : Ctx) : Bool := x.awaits.any fun w => w.answer.isNone
  ([0, 1].any fun e => !(k.mat e).running.isEmpty) || ((List.range 6).any fun e => !(k.queue e).isEmpty) || !k.copies.isEmpty
    || (k.groups.any fun g => g.2.run.isSome) || k.hal.pairing.isSome || !k.orphans.isEmpty
    || (k.ctxs.any fun x => open_ x.2) || (k.saved.any fun v => open_ v.bank) || (s.requests (dieOf c)).any fun r => r.1 == c

/-- The third kill of a region within 100 ms: its cells go out of service for scan test; on a die on which such cells have
passed it, the die is fenced (R437). Log entry 109, DESIGN CHOICE. -/
def State.escalate (s : State) (d : Nat) (cells : List Nat) : State :=
  if (s.die d).cleared then s.post .dieFence { Args.empty with die := d, n := 3 }
  else s.modDie d fun k => cells.foldl (fun k c =>
    { k.setOos (c % 256) true with suspects := if k.suspects.contains (c % 256) then k.suspects else k.suspects ++ [c % 256] }) k

/-- Logs a kill and counts it toward R437. -/
def State.countKill (s : State) (d origin trigger : Nat) (id : W64) (cells : List Nat) : State :=
  let recent := (s.die d).kills.filter fun e => decide (s.elapsed < e.2 + 100000000 * 45000)
  let n := (recent.filter fun e => e.1 == origin).length + 1
  let s := s.modDie d fun k => { k with kills := recent ++ [(origin, s.elapsed)] }
  let s := s.logCell (d * 256 + origin) 10 trigger id (BitVec.ofNat 64 (min n 0xFFFF))
  if n < 3 then s else s.escalate d cells

/-- The evicted configuration that a request to kill names by its serial (R432). -/
def State.shelfKilled (s : State) (d serial : Nat) : Option Shelf :=
  (s.die d).shelf.find? fun h => bitsAt h.was.regionId 16 32 == serial

/-- Streams of the stage of which a killed region is one copy. -/
def State.stageStreams (s : State) (cells : List Nat) : List (BitVec 16) :=
  cells.flatMap fun c => (s.cell c).ports.map fun p => p.2.stream

/-- A mismatch and an uncorrectable error that meet in one copy of a stage: the comparators discard their queues for it
(R449). -/
def State.discardStage (s : State) (cells : List Nat) : State :=
  let ids := s.stageStreams cells
  let s := { s with dies := s.dies.map fun (e : Nat × Die) => (e.1, { e.2 with
      shadow := e.2.shadow.map fun (q : BitVec 16 × List (Nat × Chunk) × List (Nat × Chunk)) =>
        if ids.contains q.1 then (q.1, [], []) else q }) }
  s.endWaits ids.contains none

/-- `REGION_KILL`: the first event stops the region, logs the kill and counts it toward R437; the region is then reloaded
and its tasks restarted (with `flag`) as soon as what had started, and a rotation that every cell has issued, have ended.
An evicted configuration, which `k` names by its serial, has nothing running. Log entry 27, DEDUCED. -/
def execRegionKill (s : State) : Out :=
  .next (
    let a := s.args
    let d := a.die
    match s.shelfKilled d a.k, (s.die d).regions.find? fun r => r.origin == a.origin with
    | some h, _ =>
      let cells := regionCells d h.origin h.was.regW h.was.regH
      (s.countKill d h.origin a.n h.was.regionId cells).killShelf d h
    | none, none => s
    | none, some r =>
      let cells := regionCells d r.origin r.w r.h
      let id := (s.cell (d * 256 + r.origin)).regionId
      let now := cells.any fun c => (s.cell c).killed
      if !a.flag && a.k ≠ bitsAt id 16 32 then s
      else if now && !a.flag then (if a.n = 0 ∨ a.n = 3 then s.discardStage cells else s)
      else if !a.flag then
        (cells.foldl (fun t c => t.modCell c Cell.halted) (s.countKill d a.origin a.n id cells)).post .regionKill { a with flag := true }
      else if (cells.any fun c => s.stillRuns c) || (cells.all fun c => (s.cell c).rot.isSome) then s.afterCycles 1 .regionKill a
      else s.killRegion d r)

/-! ## Die fence (R440-R442) -/

/-- The dies that fall with a die: the compute die above a memory die, and every die with MD0. Log entry 62, DEDUCED. -/
def fencedWith (d : Nat) : BitVec 8 :=
  if d = 0 then 0xFF else if d % 2 = 0 then 3#8 <<< d else 1#8 <<< d

/-- Regions that form a halyard pair with cells of fenced dies. -/
def State.pairedRegions (s : State) (m : BitVec 8) : List (Nat × Region) :=
  s.dies.flatMap fun e => (e.2.regions.filter fun r =>
    !m.getLsbD e.1 && (regionCells e.1 r.origin r.w r.h).any fun c =>
      (s.cell c).hal.paired && m.getLsbD (dieOf (bonded c))).map fun r => (e.1, r)

/-- Collectives with a member on a fenced die end with ERR 0x05 at the other members. -/
def State.fenceColls (s : State) (m : BitVec 8) : State :=
  s.cells.foldl (fun t e =>
    if m.getLsbD (dieOf e.1) then t
    else e.2.groups.foldl (fun t g =>
      if g.2.run.isSome && g.2.members.any (fun w => namePkg w == t.pkg.number && m.getLsbD (dieOf (nameCell w)))
      then t.ldredFails e.1 g.1 5 else t) t) s

/-- Streams from other dies to a fenced die stop as channel errors; their contexts continue. Log entry 74, DEDUCED. -/
def State.fenceStreams (s : State) (m : BitVec 8) : State :=
  s.cells.foldl (fun t e =>
    if m.getLsbD (dieOf e.1) then t
    else e.2.ports.foldl (fun t p =>
      if p.2.slots != 0 && namePkg p.2.dest == t.pkg.number && m.getLsbD (dieOf (nameCell p.2.dest)) then
        (t.modPort e.1 p.1 fun q => { q with stopped := true }).logCell e.1 6 3
          (BitVec.ofNat 64 (p.2.stream.toNat + p.2.nextP.toNat * 2 ^ 32)) 0
      else t) t) s

/-- `DIE_FENCE`: `n` is the trigger of R440, 0 to 4; another number stands for a write of the register, which the spec gives
no cause: it is a free value. Log entry 61, DESIGN CHOICE. Log entry 62, DEDUCED. -/
def execDieFence (s : State) : Out :=
  .next (
    let a := s.args
    if s.pkg.fenced.getLsbD a.die then s
    else
      let new := fencedWith a.die &&& ~~~s.pkg.fenced
      let m := s.pkg.fenced ||| new
      let cause := if a.n ≤ 4 then a.n else (Config.freeWord s.draws).toNat % 256
      let s := (if a.n ≤ 4 then s else s.drawn).modPkg fun p => { p with fenced := m, fenceCause := cause }
      let s := s.logError 0 none (elogWord1 11 0 0 0 cause) (BitVec.ofNat 64 m.toNat) 0
      let s := (List.range 32).foldl (fun t p =>
        if new.getLsbD (portDie p) then t.post .linkEnable { Args.empty with p := p, flag := false } else t) s
      let s := s.modPkg fun k => { k with
        retired := (List.range 32).foldl (fun m p => if new.getLsbD (portDie p) then m ||| 1#32 <<< p else m) k.retired }.prepared
      let own := (List.range 8).flatMap fun d =>
        if new.getLsbD d then (s.die d).regions.map fun r => (d, r) else []
      let s := (own ++ s.pairedRegions new).foldl (fun t e => t.killDead e.1 e.2) s
      let s := (List.range 8).foldl (fun t d => if new.getLsbD d then t.loseShelf d else t) s
      ((s.fenceColls new).fenceStreams new).pokeRuns)

/-- `DCP_WATCHDOG_MISS` and `BOUNDARY_RETRAIN_FAILED` fence the die (R440). -/
def execDcpWatchdogMiss (s : State) : Out := .next (s.post .dieFence { Args.empty with die := s.args.die, n := 2 })
/-- Log entry 11, DESIGN CHOICE. -/
def execBoundaryRetrainFailed (s : State) : Out := .next (s.post .dieFence { Args.empty with die := s.args.die, n := 4 })

/-- `LINK_RETIRE` (R428): EN := 0 at this end, and a routing generation without the port is prepared.
Log entry 109, DESIGN CHOICE. -/
def execLinkRetire (s : State) : Out :=
  .next ((s.modPkg fun k => { k with retired := k.retired ||| 1#32 <<< s.args.p }.prepared).post .linkEnable
    { Args.empty with p := s.args.p, flag := false })

/-! ## Re-establishing streams (R445) -/

/-- A live producer: retained chunks are numbered anew from 0 and resent with REPLAY set. Log entry 74, DEDUCED. -/
def State.resetPort (s : State) (c p : Nat) : State :=
  let t := (s.cell c).port p
  let n := (seqDiff t.nextP t.ackP).toNat
  let held := (List.range n).map fun i => s.readBytes (flat c 0 (t.slotOff (t.ackP + BitVec.ofNat 32 i))) (32 + t.pay)
  let first : BitVec 16 := BitVec.ofNat 16 (field (held.headD []) 14 2)
  let s := (List.range n).foldl (fun s i =>
    s.writeBytes (flat c 0 (t.slotOff (BitVec.ofNat 32 i))) ((held.getD i []).take 4 ++ toBytes 4 i ++ (held.getD i []).drop 8)) s
  let s := s.modPort c p fun t => { t with
    nextP := BitVec.ofNat 32 n
    ackP := 0
    unsent := none
    attempts := []
    stopped := false
    lost := false
    peerLost := false
    high := none
    mbBase := if n = 0 then haNext (s.cell c) t else first
    renumber := decide (n = 0) }
  (List.range n).foldl (fun s i => s.resend c p (BitVec.ofNat 32 i) 0) s

/-- The receiving side of a halyard unit as its stream is re-established: the chunks of groups that no task computes are
discarded and come again. Log entry 102, DEDUCED. -/
def Halyard.renumbered (h : Halyard) : Halyard :=
  if !h.paired then h else { h with base := none, slots := h.slots.map fun e => (e.1, if e.2 = 2 ∨ e.2 = 3 then 1 else e.2) }

/-- A live consumer: unbound chunks are discarded, and D is set; a task that holds chunks above D is killed with its
region. Log entry 74, DEDUCED. -/
def State.resetTag (s : State) (c t : Nat) : State :=
  let g := (s.cell c).tag t
  let d := g.newest.map fun m => if m.2 then m.1 else m.1 - 1
  let live := g.ring.any fun e => match e.2.use, d with
    | .bound _, some d => decide (0 < (e.2.mb - d).toNat) && decide ((e.2.mb - d).toNat < 32768)
    | _, _ => false
  let isBound (e : Nat × RingSlot) : Bool := match e.2.use with
    | .bound _ => true
    | _ => false
  let s := s.modTag c t fun g => { g with
    ring := g.ring.filter isBound
    ackC := 0
    expC := 0
    dropTo := d
    peerLost := false }
  let s := s.startTag c t
  let s := if g.halyard then s.modCell c fun k => { k with hal := k.hal.renumbered } else s
  if live then s.askKill c 1 else s

/-- `STREAM_RESET`: every port and tag of the die that holds the stream, those of evicted configurations too; ERR where none
does. -/
def execStreamReset (s : State) : Out :=
  .next (
    let d := s.args.die
    let id := s.args.stream
    let cells := (s.cells.filter fun e => dieOf e.1 == d) ++ (s.die d).shelf.map fun h => (h.cell, h.was)
    let ports := (cells.filter fun e => (e.2.portOf id).isSome).map Prod.fst
    let tags := (cells.filter fun e => (e.2.tagOf id).isSome).map Prod.fst
    let s := ports.foldl (fun t c => t.atPort c id fun u p => u.resetPort c p) s
    let s := tags.foldl (fun t c => t.atTag c id fun u g => u.resetTag c g) s
    s.modDie d fun k =>
      let w := withBits (withBits (k.csr.get 0 0x236) 16 1 0) 17 1 (ports.isEmpty && tags.isEmpty).toNat
      { k with csr := k.csr.ins 0x236 w })

/-! ## Adoption of a number (R443, R444, R480) -/

/-- `PKG_ADOPT`: ignored while a window is open or a region holds a configuration. -/
def execPkgAdopt (s : State) : Out :=
  .next (
    if s.pkg.window || s.dies.any fun e => !e.2.regions.isEmpty then s
    else s.modPkg fun p => { p with former := p.number, number := BitVec.ofNat 10 s.args.n, window := true })

/-- The PCP loads a fabric description (R391, R444): a port that has learned the package which the description moves away
from its edge reads the number that stands there now, and is not MISWIRED (R480). Log entry 6, DESIGN CHOICE. -/
def State.describe (s : State) (f : Fabric) : State :=
  let old := s.pkg.fabric
  s.modPkg fun k => { k with
    fabric := f
    links := k.links.map fun e =>
      match old.peerOf e.1, f.peerOf e.1 with
      | some a, some b => if e.2.peer = a ∧ a ≠ b then (e.1, { e.2 with peer := b, miswired := false }) else e
      | _, _ => e }

/-- The record of a migration, on die 0 of the spare, once the adoption window has closed and the streams are re-established
(R443). Log entry 74, DEDUCED. -/
def State.migrated (s : State) : State :=
  if s.pkg.window || s.pkg.former == s.pkg.number then s
  else s.logError 0 none (elogWord1 13 0 0 0 0) (s.pkg.number.setWidth 64) (s.pkg.former.setWidth 64)

/-! ## The logical cell map (R447, R448, R484) -/

/-- Removed columns of a row's map. Log entry 15, DESIGN CHOICE. Log entry 75, DEDUCED. -/
def removedCols (w : W64) : List Nat := [bitsAt w 0 5, bitsAt w 5 5].filter fun c => c != 31

/-- Whether a write of a row's map is refused. Log entry 75, DEDUCED. -/
def State.mapRefused (s : State) (d row : Nat) (v : W64) : Bool :=
  let t := d / 2 * 2
  let old := (s.die d).cmapRow row
  let scan (k : Nat) : Bool :=
    let w := (s.die k).csr.get 0x40000 0x251
    (w.getLsbD 15 || w.getLsbD 16) && bitsAt w 0 8 / 16 == row
  old.getLsbD 11 || scan t || scan (t + 1)
    || ((List.range 16).any fun i => (s.cell (t * 256 + row * 16 + i)).loaded || (s.cell ((t + 1) * 256 + row * 16 + i)).loaded)
    || (removedCols old).any (fun c => !(removedCols v).contains c)
    || (bitsAt v 0 5 == 31 && bitsAt v 5 5 != 31)
    || (removedCols v).any fun c => decide (16 < c)

/-- The pairs of a row that a map change shifts: logical columns from the first that moves. -/
def shiftedPairs (old v : W64) : Nat :=
  match leastBy id ((removedCols v).filter fun c => !(removedCols old).contains c) with
  | none => 0
  | some c => 16 - min 16 (c - ((removedCols old).filter fun r => decide (r < c)).length)

/-- Log entry 75, DEDUCED. Log entry 15, DESIGN CHOICE. -/
def State.putMap (s : State) (d row : Nat) (f : W64 → W64) : State :=
  [d / 2 * 2, d / 2 * 2 + 1].foldl (fun t k => t.modDie k fun x => { x with cmap := x.cmap.ins row (f (x.cmapRow row)) }) s

/-- `CMAP_ROW_WRITE`: refused with ERR, or accepted with BUSY; pairs then move one at a time. -/
def execCmapRowWrite (s : State) : Out :=
  .next (
    let a := s.args
    let v := a.v &&& 0x3FF
    if s.mapRefused a.die a.row v then s.putMap a.die a.row fun w => withBits w 12 1 1
    else
      let n := shiftedPairs ((s.die a.die).cmapRow a.row) v
      let was := bitsAt ((s.die a.die).cmapRow a.row) 0 10
      (s.putMap a.die a.row fun _ =>
        withBits (withBits (withBits v 10 1 (decide ((removedCols v).length = 2)).toNat) 11 1 1) 32 10 was).after (if n = 0 then 2000 else 22000)
          .cmapPairMove { Args.empty with die := a.die, row := a.row, n := n })

/-- `CMAP_PAIR_MOVE`: `n` pairs have still to move; 2 µs after the last, PHYS follows the new map and BUSY clears.
The data of a pair moves with its
logical number, under which the model keeps it. Log entry 74, DEDUCED. -/
def execCmapPairMove (s : State) : Out :=
  .next (
    let a := s.args
    if a.n = 0 then (s.putMap a.die a.row fun w => withBits w 11 1 0 &&& 0x1FFF).pokeRuns
    else s.after (if a.n = 1 then 2000 else 22000) .cmapPairMove { a with n := a.n - 1 })

/-! ## Corrected and uncorrectable errors (R419-R423) -/

/-- `ECC_CORRECTABLE` in a store of cell `c` of the die, or of port `v` for store kind 5: counted, and logged at most once
per store kind and millisecond with the events merged since. Log entry 77, DEDUCED. -/
def execEccCorrectable (s : State) : Out :=
  .next (
    let a := s.args
    let s := s.modDie a.die fun k => { k with eccCe := min (k.eccCe + 1) 0xFFFFFFFF }
    let src := if a.store ≤ 4 then some (a.die * 256 + a.c % 256) else none
    let word1 := elogWord1 1 ((src.getD 0) % 256) (if a.store = 5 then a.v.toNat % 32 else 0) 0 a.store
    let old := ((s.die a.die).ce.find? fun e => e.1 == a.store).map Prod.snd
    let due := match old with
      | none => true
      | some (t, _) => decide (t + 1000000 * 45000 ≤ s.elapsed)
    let n := ((old.map Prod.snd).getD 0) + 1
    if due then
      (s.modDie a.die fun k => { k with ce := k.ce.ins a.store (s.elapsed, 0) }).logError a.die src
        (word1 + BitVec.ofNat 64 ((n - 1) * 2 ^ 32)) a.v 0
    else s.modDie a.die fun k => { k with ce := k.ce.ins a.store ((old.map Prod.fst).getD 0, n) })

/-- An uncorrectable error that a matrix engine meets: in its next queue entry, or (`buffer`) in a tile or weight buffer
of its oldest running operation. A replacement is run again as its originals; any other operation stops its context, and
the region is killed (R327, R328, R421). Log entry 77, DEDUCED. -/
def State.engineError (s : State) (c n : Nat) (buffer : Bool) (v : W64) : State :=
  let m := (s.cell c).mat n
  match if buffer then (m.running.map Prod.fst).head? else m.queue.head? with
  | none => s.logCell c 2 4 v 0
  | some e =>
    let again := !buffer && !(m.replacedBy e).isEmpty
    let s := if again then s.logCell c 2 4 v 0 else s.logCell c 2 0x84 v (consumedBy e.ctx e.first.1 e.first.2)
    let s := (if buffer then s.bufferError c n else s.entryError c n).post .matrixOpStart { Args.empty with c := c, e := n }
    if again then s else s.askKill c 0

/-- A flit whose packet has been dropped from the retry store: it keeps its number and holds nothing. -/
def blankFlit (f : Flit) : Flit := flitSealed { f with body := zeros 232, packet := none }

/-- Drops the packet that holds flit `i` of a retry store. -/
def blankAt (l : List Flit) (i : Nat) : List Flit :=
  let first := (List.range (i + 1)).foldl (fun a j => if (l[j]?).any Flit.sop then j else a) 0
  let last := i + (l.drop i).findIdx Flit.eop
  ((List.range l.length).zip l).map fun e => if first ≤ e.1 ∧ e.1 ≤ last then blankFlit e.2 else e.2

/-- A packet with an unreadable header word is dropped from a router buffer (0), a retry store (1) or the end-to-end store
(R419). Log entry 77, DEDUCED. -/
def State.dropBuffer (s : State) (store p i : Nat) : State :=
  match store with
  | 0 => s.modLink p fun l => { l with queue := l.queue.eraseIdx i }
  | 1 => s.modLink p fun l => { l with retry := blankAt l.retry i }
  | _ => s.modPkg fun k => { k with store := k.store.eraseIdx i }

/-- `ECC_UNCORRECTABLE` on cell `c`: consumed by context `x` at `slot`, which stops it and kills the region, or by matrix
engine `e` (store kind 4; `k` is 1 for a tile or weight buffer); or found by a reader that does not consume, which poisons
the word with flat address `v`. Store kind 5 drops the packet at the port and the buffer index that `v` gives (R419,
R423); a kind above 5 stands for the die-wide state of R440. For store kind 5 the buffer is a router buffer (`e` = 0), the
retry store (1) or the end-to-end store. Log entry 77, DEDUCED. -/
def execEccUncorrectable (s : State) : Out :=
  .next (
    let a := s.args
    let d := dieOf a.c
    let s := s.modDie d fun k => { k with eccUe := min (k.eccUe + 1) 0xFFFF }
    if a.flag && a.store == 4 then s.engineError a.c (a.e % 2) (a.k == 1) (a.v &&& 0x7FFFFFFFFFF)
    else if a.flag then
      let t := s.ctxOf a.c a.x
      let s := s.logCell a.c 2 (a.store + 0x80) (a.v &&& 0x7FFFFFFFFFF) (consumedBy a.x t.pc a.slot)
      if t.st = .free then s
      else (s.takeStop a.c a.x t.pc a.slot 0x0B 0 (if t.redo then t.doneMask.setWidth 14 else 0)).askKill a.c 0
    else if 5 < a.store then
      (s.logError d none (elogWord1 2 0 0 0 a.store) a.v 0).post .dieFence { Args.empty with die := d, n := 0 }
    else if a.store = 5 then
      (s.logError d none (elogWord1 2 0 (a.v.toNat % 32) 0 5) a.v 0).dropBuffer a.e (a.v.toNat % 32) (bitsAt a.v 16 16)
    else
      let s := s.logCell a.c 2 a.store (a.v &&& 0x7FFFFFFFFFF) 0
      if a.store ≤ 2 then { s with poison := Tab.set false s.poison (wordOf a.v.toNat) true } else s)

/-- `SCRUB`: the patrol scrubber reads the word with flat address `v`. What it finds comes as an error event of its own; a
good word is left as it is. -/
def execScrub (s : State) : Out :=
  .next (if s.poisoned (wordOf s.args.v.toNat) 8 then { s with poison := Tab.set false s.poison (wordOf s.args.v.toNat) true }
    else s)

/-! ## Comparators of shadow regions (R430, R431) -/

/-- Every header byte but HOP and ORIGIN. Log entry 76, DEDUCED. -/
def headersEqual (a b : Chunk) : Bool := { a with hop := b.hop, origin := b.origin, payload := b.payload } == b

def State.modShadow (s : State) (d : Nat) (id : BitVec 16)
    (f : List (Nat × Chunk) → List (Nat × Chunk) → List (Nat × Chunk) × List (Nat × Chunk)) : State :=
  s.modDie d fun k => { k with shadow := k.shadow.map fun e => if e.1 = id then (e.1, f e.2.1 e.2.2) else e }

/-- The cells of the package that produce a stream: of a shadowed stage, one in each copy. -/
def State.shadowEnds (s : State) (id : BitVec 16) : List Nat :=
  (s.cells.filter fun e => (e.2.portOf id).isSome).map Prod.fst

/-- The name of the producer in the primary or in the shadow region. -/
def State.shadowEnd (s : State) (id : BitVec 16) (shadow : Bool) (w : Chunk) : BitVec 32 :=
  (((s.shadowEnds id).find? fun c => (s.cell c).stageId.getLsbD 33 == shadow).map s.cellName).getD w.origin

/-- Whether a copy of a stage is being killed, or is to be: a context of it has consumed an uncorrectable error. -/
def State.copyFails (s : State) (ends : List Nat) : Bool :=
  ends.any fun c => (s.cell c).killed || (s.cell c).ctxs.any fun x => x.2.dead

/-- A mismatch: logged, both regions killed; a second one for the same number takes both regions' cells out of service. -/
def State.mismatch (s : State) (d : Nat) (id : BitVec 16) (seq : BitVec 32) (sub : Nat) (p q : BitVec 32) : State :=
  let again := (s.die d).mismatched.contains (id, seq)
  let s := s.logError d none (elogWord1 8 0 0 0 sub) (BitVec.ofNat 64 (id.toNat + seq.toNat * 2 ^ 32))
    (BitVec.ofNat 64 (nameCell p % 256 + nameCell q % 256 * 2 ^ 8))
  let s := (s.modShadow d id fun a b => (a.filter (fun e => e.2.seq != seq), b.filter fun e => e.2.seq != seq)).endWaits
    (fun n => n == id) (some seq)
  let s := s.modDie d fun k => { k with mismatched := (id, seq) :: k.mismatched }
  let ends := s.shadowEnds id
  let s := if s.copyFails ends then s.discardStage ends else s
  ends.foldl (fun t c =>
    let t := if again then
        (t.cells.filter fun e => dieOf e.1 == dieOf c && e.2.regionId == (t.cell c).regionId).foldl
          (fun t e => t.modDie (dieOf c) fun k => k.setOos (e.1 % 256) true) t
      else t
    t.askKill c 3) s

/-- `SHADOW_COMPARE`: a chunk of one copy meets its twin, or waits for it. Log entry 76, DEDUCED. -/
def execShadowCompare (s : State) : Out :=
  .next (
    let a := s.args
    let ck := a.ck
    match (s.die a.die).shadow.find? fun e => e.1 == ck.stream with
    | none => s.post .chunkArrival { Args.empty with c := a.c, ck := ck }
    | some (_, ps, qs) =>
      if !burgeeOk ck then s.failChunk a.die 0 0 5 (burgeeSub ck) none ck
      else
        let own := if a.flag then qs else ps
        match (if a.flag then ps else qs).find? fun e => e.2.seq == ck.seq with
        | none =>
          if own.any fun e => e.2.seq == ck.seq then s
          else if 8 ≤ own.length then s.afterCycles 1 .shadowCompare a
          else
          (s.modShadow a.die ck.stream fun p q =>
            if a.flag then (p, q ++ [(a.c, ck)]) else (p ++ [(a.c, ck)], q)).after 100000 .shadowTimeout
              { Args.empty with die := a.die, stream := ck.stream, seq := ck.seq }
        | some (c, w) =>
          let p := if a.flag then w else ck
          let q := if a.flag then ck else w
          let to_ := if a.flag then c else a.c
          if !headersEqual p q then s.mismatch a.die ck.stream ck.seq 1 p.origin q.origin
          else if p.payload ≠ q.payload then s.mismatch a.die ck.stream ck.seq 0 p.origin q.origin
          else
            ((s.modShadow a.die ck.stream fun x y =>
              (x.filter (fun e => e.2.seq != ck.seq), y.filter fun e => e.2.seq != ck.seq)).endWaits
                (fun n => n == ck.stream) (some ck.seq)).post .chunkArrival
                { Args.empty with c := to_, ck := { p with hop := s.hopWord a.die 0 5 } })

/-- `SHADOW_TIMEOUT`: a chunk still without its twin after 100 µs. -/
def execShadowTimeout (s : State) : Out :=
  .next (
    let a := s.args
    match (s.die a.die).shadow.find? fun e => e.1 == a.stream with
    | none => s
    | some (_, ps, qs) =>
      match (ps ++ qs).find? fun e => e.2.seq == a.seq with
      | none => s
      | some (_, w) => s.mismatch a.die a.stream a.seq 2 (s.shadowEnd a.stream false w) (s.shadowEnd a.stream true w))

end Sys2Proof.Machine
end

