-- ==== Sys2Proof/Machine/Debug.lean ====
section
/-! DEFINITION. The scan test (R469-R471, R483), arming the recorder (R467), resets, and the register windows through which
the host and the device's controllers write (R343, R371). -/

namespace Sys2Proof.Machine
open Sys2Proof

/-! ## Recorder -/

/-- `REC_ARM` (R467): empties every cell's log; ARM clears. -/
def execRecArm (s : State) : Out :=
  .next (
    let d := s.args.die
    { s with cells := s.cells.map fun e => if dieOf e.1 = d then (e.1, { e.2 with recStat := 0 }) else e })

/-! ## Scan test -/

def State.scanCtl (s : State) (d : Nat) : W64 := s.dieCsr d 0x251
def State.putScan (s : State) (d : Nat) (w : W64) : State := s.modDie d fun k => { k with csr := k.csr.ins 0x251 w }
/-- Adds 1 to a saturating count of `SCAN_STAT`. -/
def State.scanCount (s : State) (d i : Nat) : State :=
  s.modDie d fun k =>
    let w := k.csr.get 0 0x254
    { k with csr := k.csr.ins 0x254 (withBits w (16 * i) 16 (min (bitsAt w (16 * i) 16 + 1) 0xFFFF)) }
/-- The mark by which a segment's end knows that its own run still stands. Log entry 78, DEDUCED. -/
def State.scanRun (s : State) (d : Nat) : Nat := bitsAt ((s.die d).csr.get 0 0x254) 0 16 + 1

/-- `SCAN_GO` (R470, R483): a refused GO sets ERR and nothing else. -/
def execScanGo (s : State) : Out :=
  .next (
    let d := s.args.die
    let v := s.args.v
    let w := s.scanCtl d
    let cell := bitsAt v 0 8
    let resume := v.getLsbD 9
    if w.getLsbD 15 || w.getLsbD 16 || (s.die d).absent cell || (resume && !(s.die d).aborted.contains cell) then
      s.putScan d (withBits w 17 1 1)
    else
      let x := (w &&& 0x1C00#64) ||| (v &&& 0x402FF#64) ||| 0x10100#64
      let s := if resume then s.putScan d x
        else (s.putScan d (withBits x 10 3 0)).modDie d fun k => { k with csr := k.csr.ins 0x253 0 }
      let s := s.modDie d fun k => { k.setOos cell true with aborted := k.aborted.filter fun c => c != cell }
      (s.scanCount d 0).post .scanDrainDone { Args.empty with die := d })

/-- Free register contents: four contexts' vector registers after the pattern. -/
def scanBank (draw x : Nat) : Ctx :=
  { Ctx.reset with
    v := (List.range 256).map fun i => (i, ⟨Config.freeVec (draw + x * 256 + i), 0⟩) }

/-- The pattern overwrites the cell's instruction store, banks, latches, tiles, weights, sequencer and handler table; what
they hold afterwards is free (R470). Scratch, deep store and the identifier CSRs stay. Log entry 78, DEDUCED. -/
def State.scanWipe (s : State) (c : Nat) : State :=
  let draw := s.draws
  let s := (List.range 0x20000).foldl (fun t i =>
    t.setByte (flat c 2 i) ((Config.freeWord (draw + 1024 + i)).setWidth 8)) s
  let banks : Tab Ctx := (List.range 4).map fun x => (x, scanBank draw x)
  let s := s.modCell c fun k => { k with
    ctxs := banks
    mats := []
    seqs := []
    handlers := []
    cur := none }
  { s with draws := draw + 1024 + 0x20000 }

/-- The region of a die that holds a cell. -/
def State.regionAt (s : State) (d cell : Nat) : Option Region :=
  (s.die d).regions.find? fun r => (regionCells d r.origin r.w r.h).contains (d * 256 + cell)

/-- Whether the cell's region has come to rest. -/
def State.scanDrained (s : State) (d cell : Nat) : Bool :=
  match s.regionAt d cell with
  | some r => (regionCells d r.origin r.w r.h).all fun c =>
      (s.cell c).saved.isEmpty && (s.cell c).runs.isEmpty && !s.underLoad c && s.drained c
  | none => !s.underLoad (d * 256 + cell) && s.drained (d * 256 + cell)

/-- `SCAN_DRAIN_DONE`: once the region has come to rest its configuration is dropped and the pattern runs. -/
def execScanDrainDone (s : State) : Out :=
  .next (
    let d := s.args.die
    let w := s.scanCtl d
    let cell := bitsAt w 0 8
    if !w.getLsbD 16 then s
    else if !s.scanDrained d cell then s.afterCycles 1 .scanDrainDone s.args
    else
      let s := match s.regionAt d cell with
        | some r => s.dropRegion d r.origin
        | none => s
      let s := (s.putScan d (withBits (withBits w 16 1 0) 15 1 1)).scanWipe (d * 256 + cell)
      s.after 25000 .scanSegmentEnd { Args.empty with die := d, n := s.scanRun d })

/-- The scan test sets the spare-row and spare-column maps of a cell's engines (R429); nothing that an instruction sees
depends on them (R259), and what they hold is free. Log entry 78, DEDUCED. -/
def State.setSpares (s : State) (d cell : Nat) : State :=
  [0, 1].foldl (fun t e => t.drawn.modDie d fun k =>
    { k with spares := k.spares.ins (2 * cell + e) (Config.freeWord t.draws) }) s

/-- `SCAN_SEGMENT_END`: the MISR is written and SEG rises; after segment 7 the signature decides.
Log entry 78, DEDUCED. -/
def execScanSegmentEnd (s : State) : Out :=
  .next (
    let d := s.args.die
    let w := s.scanCtl d
    let cell := bitsAt w 0 8
    if !w.getLsbD 15 || (s.args.n != 0 && s.args.n != s.scanRun d) then s
    else
      let seg := bitsAt w 10 3
      let m := Config.scanMisr (d * 256 + cell) seg ((s.die d).csr.get 0 0x253) s.draws
      let s := s.drawn.modDie d fun k => { k with csr := k.csr.ins 0x253 m }
      if seg < 7 then
        (s.putScan d (withBits w 10 3 (seg + 1))).after 25000 .scanSegmentEnd { Args.empty with die := d, n := s.scanRun d }
      else
        let pass := m == (s.die d).csr.get 0 0x252
        let x := withBits (withBits (withBits (withBits w 10 3 0) 8 1 0) 15 1 0) 13 2 (if pass then 1 else 2)
        let s := ((s.putScan d x).scanCount d (if pass then 1 else 2)).setSpares d cell
        if pass then (s.modDie d fun k =>
          { k.setOos cell false with cleared := k.cleared || k.suspects.contains cell }).pokeRuns else s)

/-- `SCAN_ABORT` (R471): SEG and the MISR keep the last completed segment; the cell returns to service without a
configuration. Log entry 78, DEDUCED. -/
def execScanAbort (s : State) : Out :=
  .next (
    let d := s.args.die
    let w := s.scanCtl d
    let cell := bitsAt w 0 8
    if !w.getLsbD 15 && !w.getLsbD 16 then s
    else
      let x := withBits (withBits (withBits (withBits w 8 1 0) 15 1 0) 16 1 0) 13 2 3
      let s := (s.putScan d x).scanCount d 3
      let s := s.modDie d fun k => { k.setOos cell false with aborted := cell :: k.aborted.filter fun c => c != cell }
      let s := if w.getLsbD 15 then s.modCell (d * 256 + cell) fun k => { Cell.reset with
        frozen := k.frozen
        profStart := s.cycle } else s
      s.pokeRuns)

/-! ## Resets -/

/-- `DIE_RESET`: the cells, registers and queues of a die take their reset values, and every scratch word is full (R76).
The logical cell map is the manufacturing map's, and memory keeps its bytes (log entry 19).
Log entry 97, DESIGN CHOICE. -/
def execDieReset (s : State) : Out :=
  .next (
    let d := s.args.die
    let cells := s.cells.filter fun e => dieOf e.1 != d
    let full := s.full.filter fun e => e.1 / 2 ^ 51 != d
    let t : State := { s with
      cells := cells
      full := full
      turn := s.turn.filter fun c => dieOf c != d
      snap := none }
    t.modDie d fun k => { Die.reset with
      cmap := k.fuse
      fuse := k.fuse
      spares := k.spares
      resetAt := s.cycle })

/-- `PACKAGE_RESET`: everything but memory, the host, what the package is built and described as, and the environment's own
schedule takes its reset value. Log entry 19, DESIGN CHOICE. -/
def execPackageReset (s : State) : Out :=
  .next (
    let dies : Tab Die := (s.dies.filter fun e => !e.2.fuse.isEmpty || !e.2.spares.isEmpty).map fun e =>
      (e.1, { Die.reset with
        cmap := e.2.fuse
        fuse := e.2.fuse
        spares := e.2.spares })
    let keys : Tab Key := s.pkg.keys
    { State.reset with
      mem := s.mem
      poison := s.poison
      hostMem := s.hostMem
      dies := dies
      pkg := { Pkg.reset with
        number := s.pkg.number
        former := s.pkg.number
        fabric := s.pkg.fabric
        keys := keys }
      sched := s.sched
      args := s.args
      draws := s.draws })

/-! ## Register writes (R343, R345, R346, R371, R411, R474-R476) -/

/-- Merges a written 4- or 8-byte value into a register. -/
def mergeReg (old : W64) (off size : Nat) (v : W64) : W64 :=
  if size = 8 then v else if off % 8 = 0 then withBits old 0 32 (bitsAt v 0 32) else withBits old 32 32 (bitsAt v 0 32)

/-- Writes a register of a host ring. Log entry 57, DEDUCED. -/
def State.ringWrite (s : State) (n i off size : Nat) (v : W64) : State :=
  let r := s.pkg.ring n
  let w := mergeReg (r.reg i) off size v
  match i with
  | 0 => s.modRing n fun r => { r with base := w &&& ~~~0xFFF#64 }
  | 1 =>
    if off % 8 ≠ 0 then s
    else
      let s := s.modRing n fun r => { r with log2 := max 4 (min 20 (bitsAt w 0 5)), vector := bitsAt w 8 5 }
      if w.getLsbD 16 then s.post .hostRingEnable { Args.empty with n := n }
      else if r.en then s.ringDisable n
      else s
  | 3 => s.post .hostRingTail { Args.empty with n := n, v := w }
  | 4 => (s.modRing n fun r => { r with n := max 1 (bitsAt w 0 16), t := bitsAt w 32 16 }).ringWatch n
  | 5 => s.modRing n fun r => { r with headwb := w }
  | _ => s

/-- Writes the MSI-X table, whose layout is the one PCIe gives it (log entry 21). -/
def State.msixWrite (s : State) (off size : Nat) (v : W64) : State :=
  (List.range (size / 4)).foldl (fun t i =>
    let k := off / 4 + i
    let x : W32 := BitVec.ofNat 32 (bitsAt v (32 * i) 32)
    if k % 4 = 3 ∧ !x.getLsbD 0 ∧ t.pkg.masked (k / 4) then t.post .msixUnmask { Args.empty with n := k / 4 }
    else t.modPkg fun p => { p with msix := p.msix.ins k x }) s

/-- A write of BAR0. -/
def State.bar0Write (s : State) (off size : Nat) (v : W64) : State :=
  if (size ≠ 4 ∧ size ≠ 8) ∨ off % size ≠ 0 then s
  else if off = 0x100 ∧ size = 8 then s.post .launch { Args.empty with v := v }
  else if off = 0x108 then
    if v.getLsbD 8 then s.modPkg fun p => { p with lost := false } else s
  else if off = 0x200 ∧ size = 8 then s.post .bootInj { Args.empty with v := v }
  else if off = 0x208 then
    if v.getLsbD 8 then s.modBoot fun b => { b with drop := false } else s
  else if off = 0x210 then s.modPkg fun p => { p with bootReply := v &&& 0x1F }
  else if 0x1000 ≤ off ∧ off < 0x1400 then s.ringWrite ((off - 0x1000) / 0x40) (off % 0x40 / 8) off size v
  else if 0x80000 ≤ off ∧ off < 0x80200 then s.msixWrite (off - 0x80000) size v
  else s

/-- The 8 bytes of a BAR0 register. -/
def State.bar0Reg (s : State) (off : Nat) : W64 :=
  let p := s.pkg
  if off = 0 then p.number.setWidth 64 ||| withBits 0x47324C4700000000#64 16 16 (bitsAt (Config.freeWord (2 ^ 200)) 0 16)
  else if off = 0x108 then p.launchStatus
  else if off = 0x208 then BitVec.ofNat 64 ((8 - p.boot.queue.length) + p.boot.drop.toNat * 2 ^ 8)
  else if off = 0x210 then p.bootReply
  else if 0x1000 ≤ off ∧ off < 0x1400 then (p.ring ((off - 0x1000) / 0x40)).reg (off % 0x40 / 8)
  else if 0x80000 ≤ off ∧ off < 0x80200 then
    BitVec.ofNat 64 ((p.msixWord ((off - 0x80000) / 4)).toNat + (p.msixWord ((off - 0x80000) / 4 + 1)).toNat * 2 ^ 32)
  else if off = 0x80800 then p.pending.setWidth 64
  else 0

/-- What a host read of BAR0 gives: any access but a naturally aligned one of 4 or 8 bytes reads all ones (R343). -/
def State.bar0Read (s : State) (off size : Nat) : W64 :=
  if (size ≠ 4 ∧ size ≠ 8) ∨ off % size ≠ 0 then BitVec.allOnes 64
  else if size = 8 then s.bar0Reg off
  else BitVec.ofNat 64 (bitsAt (s.bar0Reg (off / 8 * 8)) (off % 8 * 8) 32)

/-- A store of a controller's firmware to memory at a global address (R283): it leaves full bits as they are, and one to a
tile table reaches translation when the die's `XLT_INV` starts (R377). Where R74 forbids it, nothing is stored. Log entry
107, DEDUCED. -/
def State.firmwareStore (s : State) (a : W64) (l : List Byte) : State :=
  if (s.accessFault ⟨a, l.length, l.length, true, false, false, true, true⟩).isSome then s
  else if aPkg a = s.pkg.number ∧ aSpace a ≠ 3 then s.storeBytes (aCell a) 5 0 (flatOf a) l
  else s.placeStore a l true

/-- A controller's access to the CSRs of a cell below 0x100 reaches the selected context, or its save area (R371, R372). -/
def State.selectedWrite (s : State) (c off size : Nat) (v : W64) : State :=
  let x := (s.die (dieOf c)).selected.get 0 (c % 256)
  let l := toBytes size v.toNat
  match s.evictedOf c x with
  | some w =>
    if off < 0x800 ∧ (s.ctxOf c x).st = .free then
      let old := w.bank.csr x (off / 8)
      let m : W64 := BitVec.ofNat 64 ((2 ^ (8 * size) - 1) * 2 ^ (8 * (off % 8)))
      let y := (old &&& ~~~stickyBits (off / 8) &&& ~~~m) ||| BitVec.ofNat 64 (ofBytes l * 2 ^ (8 * (off % 8)))
      s.modSaved c x fun b => b.csrWrite .write (off / 8) y true
    else s.windowStore c x off l true
  | none => s.windowStore c x off l true

/-- What a controller reads through the CSR window of a cell: below 0x100 the selected context, or its save area (R371,
R372). Log entry 59, DEDUCED. -/
def State.selectedRead (s : State) (c off n : Nat) : List Byte :=
  let x := (s.die (dieOf c)).selected.get 0 (c % 256)
  match s.evictedOf c x with
  | some w =>
    if off < 0x800 ∧ (s.ctxOf c x).st = .free then
      (List.range n).map fun i => BitVec.ofNat 8 ((w.bank.csr x ((off + i) / 8)).toNat / 256 ^ ((off + i) % 8))
    else s.windowBytes c x off n
  | none => s.windowBytes c x off n

/-- `REGISTER_WRITE`: the host through BAR0, or a controller through a CSR window or to memory: `off` is the byte offset,
8 × the CSR address in the windows. -/
def execRegisterWrite (s : State) : Out :=
  .next (
    let a := s.args
    let ok := [1, 2, 4, 8].contains a.size && a.off % a.size == 0
    match a.sp with
    | .bar0 => s.bar0Write a.off a.size a.v
    | .cellCsr c => if ok then s.selectedWrite c a.off a.size a.v else s
    | .dieCsr d => if ok && decide (0x200 * 8 ≤ a.off) then s.windowStore (d * 256) 0 a.off (toBytes a.size a.v.toNat) true else s
    | .memory m => if ok then s.firmwareStore m (toBytes a.size a.v.toNat) else s
    | .pkgCsr => if ok && decide (0x300 * 8 ≤ a.off) then s.windowStore 0 0 a.off (toBytes a.size a.v.toNat) true else s)

end Sys2Proof.Machine
end

