-- ==== Sys2Proof/Machine/Elementary.lean ====
section
/-! DEFINITION. The elementary functions behind the F class (R222) as numbers with 400 fractional bits, by their series. Each
is within 2^−200 of the function it names, relatively or absolutely, far below the bounds of R222. -/

namespace Sys2Proof.Machine
open Sys2Proof

/-- Fractional bits. -/
def fxP : Nat := 400
def fxOne : Int := 2 ^ fxP
/-- A dyadic number in units of 2^−400. -/
def fx (d : Dyadic) : Int := floorAt (-(fxP : Int)) d
def fxMul (x y : Int) : Int := x * y / fxOne
def fxDiv (x y : Int) : Int := x * fxOne / y
/-- A fixed-point number as a dyadic one. -/
def unFx (x : Int) : Dyadic := (x, -(fxP : Int))

/-- Σ of `n` terms, where each term is made from the one before by `next i` and enters the sum divided by `by_ i`. -/
def series (next : Nat → Int → Int) (by_ : Nat → Int) : Nat → Nat → Int → Int
  | 0, _, _ => 0
  | n + 1, i, t => t / by_ i + series next by_ n (i + 1) (next i t)

/-- ln((1 + y)/(1 − y)) for |y| ≤ 1/3. -/
def fxLnRatio (y : Int) : Int :=
  let q := fxMul y y
  2 * series (fun _ t => fxMul t q) (fun i => 2 * i + 1) 160 0 y
def fxLn2 : Int := fxLnRatio (fxOne / 3)

/-- arctan(1/n). -/
def fxAtanInv (n : Int) : Int := series (fun _ t => -t / (n * n)) (fun i => 2 * i + 1) 200 0 (fxOne / n)
def fxPi : Int := 16 * fxAtanInv 5 - 4 * fxAtanInv 239

/-- e^x for x between 0 and ln 2. -/
def fxExpSmall (x : Int) : Int := series (fun i t => fxMul t x / (i + 1)) (fun _ => 1) 120 0 fxOne

/-- e^x as a dyadic number; below −300 it is closer to 0 than any code. -/
def expOf (d : Dyadic) : Dyadic :=
  if dLt d (-300, 0) then (0, 0)
  else
    let x := fx d
    let k := x / fxLn2
    (fxExpSmall (x - k * fxLn2), k - fxP)
/-- 2^x. -/
def exp2Of (d : Dyadic) : Dyadic :=
  if dLt d (-300, 0) then (0, 0)
  else
    let x := fx d
    let k := x / fxOne
    (fxExpSmall (fxMul (x - k * fxOne) fxLn2), k - fxP)

/-- log2 of a positive m × 2^e. -/
def log2Of (m : Nat) (e : Int) : Dyadic :=
  let l := Nat.log2 m
  let y := fx ((m : Int), -(l : Int))
  unFx ((e + l) * fxOne + fxDiv (fxLnRatio (fxDiv (y - fxOne) (y + fxOne))) fxLn2)

/-- sin and cos of any number, reduced modulo 2π. -/
def sinOf (d : Dyadic) : Dyadic :=
  let r := fx d % (2 * fxPi)
  let q := fxMul r r
  unFx (series (fun i t => -(fxMul t q) / ((2 * i + 2) * (2 * i + 3))) (fun _ => 1) 90 0 r)
def cosOf (d : Dyadic) : Dyadic :=
  let r := fx d % (2 * fxPi)
  let q := fxMul r r
  unFx (series (fun i t => -(fxMul t q) / ((2 * i + 1) * (2 * i + 2))) (fun _ => 1) 90 0 fxOne)

/-- erf of a fixed-point number; beyond ±12 it differs from ±1 by less than 2^−200. -/
def fxErf (x : Int) : Int :=
  if 12 * fxOne ≤ x then fxOne - 1
  else if x ≤ -12 * fxOne then 1 - fxOne
  else
    let q := fxMul x x
    let s := series (fun i t => -(fxMul t q) / (i + 1)) (fun i => 2 * i + 1) 640 0 x
    fxDiv (2 * s) (Nat.sqrt (fxPi * fxOne).toNat : Int)
def erfOf (d : Dyadic) : Dyadic := unFx (fxErf (fx d))
def fxSqrt2 : Int := (Nat.sqrt (2 * fxOne * fxOne).toNat : Int)
/-- x (1 + erf(x/√2))/2; below −30 it is closer to 0 than any bound. -/
def geluOf (d : Dyadic) : Dyadic :=
  if dLt d (-30, 0) then (0, 0)
  else if dLt (30, 0) d then d
  else unFx (fxMul (fx d) (fxOne + fxErf (fxDiv (fx d) fxSqrt2)) / 2)

/-- x/y of positive fixed-point numbers from dyadic ones of any size. -/
def ratio (x y : Dyadic) : Dyadic :=
  let q := quotient x.1.natAbs x.2 y.1.natAbs y.2
  ((q.1 : Int), q.2)
/-- The same with 400 bits. -/
def ratioFine (x y : Dyadic) : Dyadic :=
  let sh := fxP + Nat.log2 (max y.1.natAbs 1)
  (x.1 * 2 ^ sh / y.1, x.2 - y.2 - sh)

/-- 1/(1 + e^−x). -/
def sigmOf (d : Dyadic) : Dyadic :=
  if dLt d (0, 0) then
    let p := expOf d
    ratioFine p (dAdd p (1, 0))
  else if dLt (300, 0) d then unFx (fxOne - 1)
  else ratioFine (1, 0) (dAdd (expOf (-d.1, d.2)) (1, 0))

/-- tanh x = (e^2x − 1)/(e^2x + 1). -/
def tanhOf (d : Dyadic) : Dyadic :=
  if dLt (100, 0) d then unFx (fxOne - 1)
  else if dLt d (-100, 0) then unFx (1 - fxOne)
  else
    let p := expOf (2 * d.1, d.2)
    ratioFine (dAdd p (-1, 0)) (dAdd p (1, 0))

end Sys2Proof.Machine
end

