-- ==== Sys2Proof/Machine/Special.lean ====
section
/-! DEFINITION. The F class (R221-R225). The exact results of R222 and R223 are computed, and so is `SQRT`. Every other result
is a fixed but unknown function of the input (R225) within the error that R222 states: a free FP32 code where that code
lies within the bound, else the code nearest to the exact value. -/

namespace Sys2Proof.Machine
open Sys2Proof

inductive SpecFn where
  | rcp | rsq | sqrt | exp2 | log2 | tanh | sigm | erf | sin | cos | expe | gelu
  deriving DecidableEq, Repr

def SpecFn.code : SpecFn → Nat
  | .rcp => 1
  | .rsq => 2
  | .sqrt => 3
  | .exp2 => 4
  | .log2 => 5
  | .tanh => 6
  | .sigm => 7
  | .erf => 8
  | .sin => 9
  | .cos => 10
  | .expe => 11
  | .gelu => 12

/-- Places of the free results, above those of the draw counter. -/
def specBase : Nat := 2 ^ 200
/-- The free code of a function at an input, under typ and FTZ. Log entry 36, DESIGN CHOICE. -/
def specFree (g : SpecFn) (t : BitVec 2) (ftz : Bool) (x : Nat) : Nat :=
  (Config.freeWord (specBase + ((g.code * 4 + t.toNat) * 2 + ftz.toNat) * 2 ^ 32 + x)).toNat % 2 ^ 32

/-! ## Roots -/

/-- √(m × 2^e) with its tail folded into a last bit, fine enough for one rounding to 24 bits. -/
def rootOf (m : Nat) (e : Int) : Nat × Int :=
  let m' := if e % 2 = 0 then m else 2 * m
  let e' := if e % 2 = 0 then e else e - 1
  let r := Nat.sqrt (m' * 2 ^ 128)
  (2 * r + (if r * r = m' * 2 ^ 128 then 0 else 1), e' / 2 - 65)

/-! ## Special inputs (R222, R223) -/

/-- What a function gives for an input that R223 or an exact case of R222 settles: code of the result, and flags.
Log entry 36, DESIGN CHOICE. -/
def settled (f : Fmt) (g : SpecFn) (v : FVal) : Option (Nat × Flags) :=
  let one := (f.round .exact (.fin false 1 0)).1
  let half := (f.round .exact (.fin false 1 (-1))).1
  let inf (n : Bool) := f.signed n (f.inf.getD f.maxc)
  let zero (n : Bool) := f.signed n 0
  let bad : Option (Nat × Flags) := some (f.nan, fNV)
  match v with
  | .nan sg => some (f.nan, if sg then fNV else 0)
  | .inf n =>
    match g with
    | .rcp => some (zero n, 0)
    | .rsq => if n then bad else some (zero false, 0)
    | .sqrt => if n then bad else some (inf false, 0)
    | .log2 => if n then bad else some (inf false, 0)
    | .exp2 => some (if n then zero false else inf false, 0)
    | .expe => some (if n then zero false else inf false, 0)
    | .tanh => some (f.signed n one, 0)
    | .erf => some (f.signed n one, 0)
    | .sigm => some (if n then zero false else one, 0)
    | .sin => bad
    | .cos => bad
    | .gelu => some (if n then zero true else inf false, 0)
  | .fin n m e =>
    if m = 0 then
      match g with
      | .rcp => some (inf n, fDZ)
      | .rsq => some (inf n, fDZ)
      | .sqrt => some (zero n, 0)
      | .log2 => some (inf true, fDZ)
      | .exp2 => some (one, 0)
      | .expe => some (one, 0)
      | .sigm => some (half, 0)
      | .cos => some (one, 0)
      | .tanh => some (zero n, 0)
      | .erf => some (zero n, 0)
      | .sin => some (zero n, 0)
      | .gelu => some (zero n, 0)
    else
      match g with
      | .rsq => if n then bad else none
      | .sqrt => if n then bad else none
      | .log2 =>
        if n then bad
        else if m = 2 ^ Nat.log2 m then some ((f.round .exact (ofInt (e + Nat.log2 m))).1, 0)
        else none
      | .exp2 =>
        let d : Dyadic := (sgn n m, e)
        let k := (FVal.fin n m e).toInt .rdn
        match k with
        | some (i, nx) =>
          if !nx && dLt (-127, 0) d && dLt d (128, 0) then some ((f.round .exact (.fin false 1 i)).1, 0) else none
        | none => none
      | _ => none

/-! ## The stated accuracy (R222) -/

/-- The exact value of a function at a finite nonzero number. -/
def exactOf (g : SpecFn) (d : Dyadic) : Dyadic :=
  match g with
  | .rcp =>
    let q := ratioFine (1, 0) (dAbs d)
    (if d.1 < 0 then -q.1 else q.1, q.2)
  | .rsq =>
    let m := d.1.natAbs * (if d.2 % 2 = 0 then 1 else 2)
    let e := if d.2 % 2 = 0 then d.2 else d.2 - 1
    ratioFine (1, -(e / 2)) ((Nat.sqrt (m * 2 ^ 400) : Int), -200)
  | .sqrt => d
  | .exp2 => exp2Of d
  | .log2 => log2Of d.1.natAbs d.2
  | .tanh => tanhOf d
  | .sigm => sigmOf d
  | .erf => erfOf d
  | .sin => sinOf d
  | .cos => cosOf d
  | .expe => expOf d
  | .gelu => geluOf d

/-- An ulp of FP32 in the binade of a value, or the subnormal spacing. -/
def ulpOf (y : Dyadic) : Dyadic :=
  if y.1 = 0 then (1, -149) else (1, max (y.2 + Nat.log2 y.1.natAbs - 23) (-149))

/-- The bounds of the FP32 results: any one of them suffices. Log entry 36, DESIGN CHOICE. -/
def specBounds (g : SpecFn) (d y : Dyadic) : List Dyadic :=
  let ulps (n : Int) : Dyadic := dMul (n, 0) (ulpOf y)
  match g with
  | .rcp => [ulps 1]
  | .rsq => [ulps 1]
  | .sqrt => []
  | .log2 => if !dLt d (1, -1) && !dLt (2, 0) d then [ulps 2, (1, -22)] else [ulps 2]
  | .sin => [(1, -22)]
  | .cos => [(1, -22)]
  | .gelu => if dLt d (-4, 0) then [(1, -24)] else [ulps 2]
  | _ => [ulps 2]

/-- The code nearest to a value. -/
def nearest (y : Dyadic) : Nat := (fp32.round .exact (.fin (decide (y.1 < 0)) y.1.natAbs y.2)).1

/-- The FP32 result at a finite input that nothing settles: the free code if it is a finite code within the bound, else the
nearest one; and its flags (R224). -/
def specFinite (c : FpCtl) (g : SpecFn) (d : Dyadic) (free : Nat) : Nat × Flags :=
  let y := exactOf g d
  let n := nearest y
  if 0x7F7FFFFF < n % 2 ^ 31 then (n, fOF ||| fNX)
  else
    let ok := match (fp32.value free).dyadic with
      | some r => (specBounds g d y).any fun b => !dLt b (dAbs (dAdd r (-y.1, y.2)))
      | none => false
    let r := if ok then free else n
    let mag := r % 2 ^ 31
    if mag < 0x800000 then (if c.ftz then r - mag else r, fUF ||| fNX) else (r, fNX)

/-- A function on one FP32 input. -/
def specFp32 (c : FpCtl) (g : SpecFn) (t : BitVec 2) (v : FVal) (x : Nat) : Nat × Flags :=
  match settled fp32 g v with
  | some r => r
  | none =>
    match v with
    | .fin n m e =>
      if g = .sqrt then
        let r := rootOf m e
        fp32.round c (.fin false r.1 r.2)
      else specFinite c g (sgn n m, e) (specFree g t c.ftz x)
    | _ => (fp32.nan, 0)

/-- An ulp of a 16-bit format in the binade of a value, or the subnormal spacing. -/
def ulpIn (f : Fmt) (y : Dyadic) : Dyadic :=
  if y.1 = 0 then (1, f.emin - f.M) else (1, max (y.2 + Nat.log2 y.1.natAbs - f.M) (f.emin - f.M))

/-- The 16-bit result of a function whose exact value is `y` and whose FP32 result is `w`: that code rounded, where it
lies within 1 ulp of the exact value (R222), else the nearest one; OF with an infinite one, whether the FP32 result was
infinite before or not, and UF with a tiny one, which is inexact (R224). FTZ flushes the 16-bit result, and no result
between. Log entry 36, DESIGN CHOICE. -/
def halfResult (c : FpCtl) (f : Fmt) (y : Dyadic) (w : Nat × Flags) : Nat × Flags :=
  let k : FpCtl := { c with rm := .rne, ftz := false }
  let r := f.round k (fp32.value w.1)
  let n := f.round k (.fin (decide (y.1 < 0)) y.1.natAbs y.2)
  let ok := match (f.value r.1).dyadic with
    | some z => !dLt (ulpIn f y) (dAbs (dAdd z (-y.1, y.2)))
    | none => r.1 == n.1
  let q := if ok then r else n
  let mag := q.1 % 2 ^ 15
  if f.maxc < mag then (q.1, fOF ||| fNX)
  else if mag < 2 ^ f.M then (if c.ftz then q.1 - mag else q.1, fUF ||| fNX) else (q.1, q.2 ||| fNX)

/-- A function on one half: widened to FP32, evaluated, and rounded to nearest-even into the 16-bit format; `SQRT` rounds
its root once (R221). Log entry 36, DESIGN CHOICE. -/
def specHalf (c : FpCtl) (g : SpecFn) (t : BitVec 2) (f : Fmt) (x : Nat) : Nat × Flags :=
  let v := f.operand c x
  match v with
  | .fin n m e =>
    if m = 0 then (settled f g v).getD (f.nan, 0)
    else if g = .sqrt then
      if n then (f.nan, fNV)
      else
        let r := rootOf m e
        f.round c (.fin false r.1 r.2)
    else
      match settled fp32 g v with
      | some w =>
        let r := f.round { c with rm := .rne } (fp32.value w.1)
        (r.1, r.2 ||| w.2)
      | none =>
        halfResult c f (exactOf g (sgn n m, e))
          (specFp32 { c with ftz := false } g t v (fp32.round .exact v).1)
  | _ => (settled f g v).getD (f.nan, 0)

/-- Log entry 36, DESIGN CHOICE. -/
def opSpecial (g : SpecFn) (t : BitVec 2) (c : FpCtl) (f : Fmt) (xs : List Nat) : Nat × Flags :=
  let x := xAt xs 0
  if t = 0 then specFp32 c g t (fp32.operand c x) x else specHalf c g t f x

/-- An F operation: in every cluster with its own mask and policy, bound 16; the cell notes when it issued (R122). -/
def State.fop (s : State) (g : SpecFn) (d a : BitVec 5) (q : BitVec 3) (t : BitVec 2) : State :=
  let c := s.fpc
  (s.vexec d 16 (List.range 8) fun cl => s.lanesOp cl q [a] (fparts t (opSpecial g t c))).modHere fun k =>
    { k with lastF := some s.now }

def execRcp (d a : BitVec 5) (q : BitVec 3) (t : BitVec 2) (s : State) : Out := .next (s.fop .rcp d a q t)
def execRsq (d a : BitVec 5) (q : BitVec 3) (t : BitVec 2) (s : State) : Out := .next (s.fop .rsq d a q t)
def execSqrt (d a : BitVec 5) (q : BitVec 3) (t : BitVec 2) (s : State) : Out := .next (s.fop .sqrt d a q t)
def execExp2 (d a : BitVec 5) (q : BitVec 3) (t : BitVec 2) (s : State) : Out := .next (s.fop .exp2 d a q t)
def execLog2 (d a : BitVec 5) (q : BitVec 3) (t : BitVec 2) (s : State) : Out := .next (s.fop .log2 d a q t)
def execTanh (d a : BitVec 5) (q : BitVec 3) (t : BitVec 2) (s : State) : Out := .next (s.fop .tanh d a q t)
def execSigm (d a : BitVec 5) (q : BitVec 3) (t : BitVec 2) (s : State) : Out := .next (s.fop .sigm d a q t)
def execErf (d a : BitVec 5) (q : BitVec 3) (t : BitVec 2) (s : State) : Out := .next (s.fop .erf d a q t)
def execSin (d a : BitVec 5) (q : BitVec 3) (t : BitVec 2) (s : State) : Out := .next (s.fop .sin d a q t)
def execCos (d a : BitVec 5) (q : BitVec 3) (t : BitVec 2) (s : State) : Out := .next (s.fop .cos d a q t)
def execExpe (d a : BitVec 5) (q : BitVec 3) (t : BitVec 2) (s : State) : Out := .next (s.fop .expe d a q t)
def execGelu (d a : BitVec 5) (q : BitVec 3) (t : BitVec 2) (s : State) : Out := .next (s.fop .gelu d a q t)

end Sys2Proof.Machine
end

