-- ==== Sys2Proof/Machine/Slots.lean ====
section
/-! DEFINITION. The meaning of a slot instruction inside a bundle: the same meanings that `exec` calls. -/

namespace Sys2Proof.Machine
open Sys2Proof

/-- What a slot instruction does at the slot of the focus. Events stand in no slot. -/
def execSlot (i : Instr) (s : State) : Out :=
  match i with
  | .add d a b m => execAdd d a b m s
  | .sub d a b m => execSub d a b m s
  | .mul d a b m => execMul d a b m s
  | .mulhs d a b m => execMulhs d a b m s
  | .mulhu d a b m => execMulhu d a b m s
  | .and d a b m => execAnd d a b m s
  | .or d a b m => execOr d a b m s
  | .xor d a b m => execXor d a b m s
  | .andn d a b m => execAndn d a b m s
  | .orn d a b m => execOrn d a b m s
  | .shl d a b m => execShl d a b m s
  | .shrl d a b m => execShrl d a b m s
  | .shra d a b m => execShra d a b m s
  | .rotl d a b m => execRotl d a b m s
  | .min d a b m => execMin d a b m s
  | .max d a b m => execMax d a b m s
  | .minu d a b m => execMinu d a b m s
  | .maxu d a b m => execMaxu d a b m s
  | .clz d a m => execClz d a m s
  | .ctz d a m => execCtz d a m s
  | .popc d a m => execPopc d a m s
  | .bswap d a m => execBswap d a m s
  | .extz d a b => execExtz d a b s
  | .exts d a b => execExts d a b s
  | .ins d a b => execIns d a b s
  | .addi d a i => execAddi d a i s
  | .andi d a i => execAndi d a i s
  | .ori d a i => execOri d a i s
  | .xori d a i => execXori d a i s
  | .shli d a i => execShli d a i s
  | .shrli d a i => execShrli d a i s
  | .shrai d a i => execShrai d a i s
  | .ldi d i => execLdi d i s
  | .ldis d i => execLdis d i s
  | .cmpEq k a b => execCmpEq k a b s
  | .cmpNe k a b => execCmpNe k a b s
  | .cmpLt k a b => execCmpLt k a b s
  | .cmpLe k a b => execCmpLe k a b s
  | .cmpGt k a b => execCmpGt k a b s
  | .cmpGe k a b => execCmpGe k a b s
  | .cmpLtu k a b => execCmpLtu k a b s
  | .cmpLeu k a b => execCmpLeu k a b s
  | .cmpGtu k a b => execCmpGtu k a b s
  | .cmpGeu k a b => execCmpGeu k a b s
  | .pand k a b => execPand k a b s
  | .por k a b => execPor k a b s
  | .pxor k a b => execPxor k a b s
  | .pandn k a b => execPandn k a b s
  | .cmpiEq k a i => execCmpiEq k a i s
  | .cmpiNe k a i => execCmpiNe k a i s
  | .cmpiLt k a i => execCmpiLt k a i s
  | .cmpiLe k a i => execCmpiLe k a i s
  | .cmpiGt k a i => execCmpiGt k a i s
  | .cmpiGe k a i => execCmpiGe k a i s
  | .cmpiLtu k a i => execCmpiLtu k a i s
  | .cmpiLeu k a i => execCmpiLeu k a i s
  | .cmpiGtu k a i => execCmpiGtu k a i s
  | .cmpiGeu k a i => execCmpiGeu k a i s
  | .br i => execBr i s
  | .call i => execCall i s
  | .brx a => execBrx a s
  | .callx a => execCallx a s
  | .loop a n => execLoop a n s
  | .brloop i => execBrloop i s
  | .trap i => execTrap i s
  | .waitt a => execWaitt a s
  | .waitev a => execWaitev a s
  | .bkpt i => execBkpt i s
  | .xlt d a b => execXlt d a b s
  | .xwait m => execXwait m s
  | .xpoll k e => execXpoll k e s
  | .csrr d c => execCsrr d c s
  | .csrw d c => execCsrw d c s
  | .csrs d c => execCsrs d c s
  | .csrc d c => execCsrc d c s
  | .rdtime d => execRdtime d s
  | .rdcyc d => execRdcyc d s
  | .ctrstart n => execCtrstart n s
  | .ctrstop n => execCtrstop n s
  | .tmark a i => execTmark a i s
  | .powreq u => execPowreq u s
  | .powrel u => execPowrel u s
  | .mvpq c q a => execMvpq c q a s
  | .mvqp d c q => execMvqp d c q s
  | .ld d a o z f => execLd d a o z f s
  | .ldz d a o z f => execLdz d a o z f s
  | .st d a o z f => execSt d a o z f s
  | .vld v a o x => execVld v a o x s
  | .vldSequenced v sr o => execVldSequenced v sr o s
  | .vst v a o x => execVst v a o x s
  | .vldc v a o c f => execVldc v a o c f s
  | .vstc v a o c f => execVstc v a o c f s
  | .vldq v a o q f => execVldq v a o q f s
  | .vstq v a o q f => execVstq v a o q f s
  | .lds d a o z f => execLds d a o z f s
  | .ldse d a o z f => execLdse d a o z f s
  | .stf d a o z f => execStf d a o z f s
  | .sete a o f => execSete a o f s
  | .amoadd d a o z f => execAmoadd d a o z f s
  | .amomin d a o z f => execAmomin d a o z f s
  | .amomax d a o z f => execAmomax d a o z f s
  | .amoand d a o z f => execAmoand d a o z f s
  | .amoor d a o z f => execAmoor d a o z f s
  | .amoxor d a o z f => execAmoxor d a o z f s
  | .amoswap d a o z f => execAmoswap d a o z f s
  | .amocas d a o z f => execAmocas d a o z f s
  | .ldF d a o z f => execLdF d a o z f s
  | .stF d a o z f => execStF d a o z f s
  | .vldF v a o x => execVldF v a o x s
  | .vstF v a o x => execVstF v a o x s
  | .amoaddF d a o z f => execAmoaddF d a o z f s
  | .amominF d a o z f => execAmominF d a o z f s
  | .amomaxF d a o z f => execAmomaxF d a o z f s
  | .amoandF d a o z f => execAmoandF d a o z f s
  | .amoorF d a o z f => execAmoorF d a o z f s
  | .amoxorF d a o z f => execAmoxorF d a o z f s
  | .amoswapF d a o z f => execAmoswapF d a o z f s
  | .amocasF d a o z f => execAmocasF d a o z f s
  | .ldFs d a o z f => execLdFs d a o z f s
  | .stFs d a o z f => execStFs d a o z f s
  | .vldFs v a o x => execVldFs v a o x s
  | .vstFs v a o x => execVstFs v a o x s
  | .amoaddFs d a o z f => execAmoaddFs d a o z f s
  | .amominFs d a o z f => execAmominFs d a o z f s
  | .amomaxFs d a o z f => execAmomaxFs d a o z f s
  | .amoandFs d a o z f => execAmoandFs d a o z f s
  | .amoorFs d a o z f => execAmoorFs d a o z f s
  | .amoxorFs d a o z f => execAmoxorFs d a o z f s
  | .amoswapFs d a o z f => execAmoswapFs d a o z f s
  | .amocasFs d a o z f => execAmocasFs d a o z f s
  | .fence m sr => execFence m sr s
  | .semit p a b => execSemit p a b s
  | .sfree t a => execSfree t a s
  | .sstat d n x => execSstat d n x s
  | .rot d a b => execRot d a b s
  | .ldred a b => execLdred a b s
  | .stmc d a b => execStmc d a b s
  | .arrive a => execArrive a s
  | .arrivex a b => execArrivex a b s
  | .bwait a => execBwait a s
  | .signal a b => execSignal a b s
  | .swait a b => execSwait a b s
  | .binit a b => execBinit a b s
  | .fadd d a b q t => execFadd d a b q t s
  | .fsub d a b q t => execFsub d a b q t s
  | .fmul d a b q t => execFmul d a b q t s
  | .fma d a b q t => execFma d a b q t s
  | .fms d a b q t => execFms d a b q t s
  | .fnma d a b q t => execFnma d a b q t s
  | .fnms d a b q t => execFnms d a b q t s
  | .fmin d a b q t => execFmin d a b q t s
  | .fmax d a b q t => execFmax d a b q t s
  | .fabs d a q t => execFabs d a q t s
  | .fneg d a q t => execFneg d a q t s
  | .frnd d a q t => execFrnd d a q t s
  | .fclass d a q t => execFclass d a q t s
  | .fcmpeq d a n q t => execFcmpeq d a n q t s
  | .fcmpne d a n q t => execFcmpne d a n q t s
  | .fcmplt d a n q t => execFcmplt d a n q t s
  | .fcmple d a n q t => execFcmple d a n q t s
  | .fcmpun d a n q t => execFcmpun d a n q t s
  | .iadd d a b q t => execIadd d a b q t s
  | .isub d a b q t => execIsub d a b q t s
  | .imul d a b q t => execImul d a b q t s
  | .imulh d a b q t => execImulh d a b q t s
  | .imad d a b q t => execImad d a b q t s
  | .imin d a b q t => execImin d a b q t s
  | .imax d a b q t => execImax d a b q t s
  | .iminu d a b q t => execIminu d a b q t s
  | .imaxu d a b q t => execImaxu d a b q t s
  | .iand d a b q t => execIand d a b q t s
  | .ior d a b q t => execIor d a b q t s
  | .ixor d a b q t => execIxor d a b q t s
  | .ishl d a b q t => execIshl d a b q t s
  | .ishrl d a b q t => execIshrl d a b q t s
  | .ishra d a b q t => execIshra d a b q t s
  | .iabs d a q t => execIabs d a q t s
  | .ipopc d a q t => execIpopc d a q t s
  | .iclz d a q t => execIclz d a q t s
  | .icmpeq d a n q t => execIcmpeq d a n q t s
  | .icmplt d a n q t => execIcmplt d a n q t s
  | .icmpltu d a n q t => execIcmpltu d a n q t s
  | .iadds d a b q t => execIadds d a b q t s
  | .isubs d a b q t => execIsubs d a b q t s
  | .clmul d a b q t => execClmul d a b q t s
  | .cvt d a c q => execCvt d a c q s
  | .packb d a f q => execPackb d a f q s
  | .unpkb d a f q => execUnpkb d a f q s
  | .cvtax d a b q => execCvtax d a b q s
  | .cvtxa d a b q => execCvtxa d a b q s
  | .mov d a q => execMov d a q s
  | .movi d i => execMovi d i s
  | .movs d sr => execMovs d sr s
  | .mvls a sr l => execMvls a sr l s
  | .sel d a b q t => execSel d a b q t s
  | .xcl d a q t => execXcl d a q t s
  | .perm d a b q t => execPerm d a b q t s
  | .compress d a n q t => execCompress d a n q t s
  | .expand d a q t => execExpand d a q t s
  | .rsum d a q t => execRsum d a q t s
  | .rmax d a q t => execRmax d a q t s
  | .rmin d a q t => execRmin d a q t s
  | .scan d a q t => execScan d a q t s
  | .xcopy d a c => execXcopy d a c s
  | .xbcast d a c => execXbcast d a c s
  | .lbcast d a l => execLbcast d a l s
  | .qand d a b => execQand d a b s
  | .qor d a b => execQor d a b s
  | .qxor d a b => execQxor d a b s
  | .qandn d a b => execQandn d a b s
  | .qset d a t => execQset d a t s
  | .qpop d a => execQpop d a s
  | .vcfgw a => execVcfgw a s
  | .rcp d a q t => execRcp d a q t s
  | .rsq d a q t => execRsq d a q t s
  | .sqrt d a q t => execSqrt d a q t s
  | .exp2 d a q t => execExp2 d a q t s
  | .log2 d a q t => execLog2 d a q t s
  | .tanh d a q t => execTanh d a q t s
  | .sigm d a q t => execSigm d a q t s
  | .erf d a q t => execErf d a q t s
  | .sin d a q t => execSin d a q t s
  | .cos d a q t => execCos d a q t s
  | .expe d a q t => execExpe d a q t s
  | .gelu d a q t => execGelu d a q t s
  | .mcfg w a => execMcfg w a s
  | .mwload sr m => execMwload sr m s
  | .mmul t sr q n => execMmul t sr q n s
  | .mmac t sr q n => execMmac t sr q n s
  | .mdrain t sr z r f => execMdrain t sr z r f s
  | .mzero t => execMzero t s
  | .mtrn t h => execMtrn t h s
  | .mscale t sr tgt => execMscale t sr tgt s
  | .mchk t x => execMchk t x s
  | .msave t sr r => execMsave t sr r s
  | .mrest t sr => execMrest t sr s
  | .mwait w k => execMwait w k s
  | .copy a b => execCopy a b s
  | .seqdef a b => execSeqdef a b s
  | .grpdef a b => execGrpdef a b s
  | .hpair a b => execHpair a b s
  | .trcfg a b => execTrcfg a b s
  | .enq a b => execEnq a b s
  | .nop => execNop s
  | .ret => execRet s
  | .eret => execEret s
  | .endt => execEndt s
  | .yield => execYield s
  | .rwflush => execRwflush s
  | .snop => execSnop s
  | .vnop => execVnop s
  | .mwswap => execMwswap s
  | _ => .next s

end Sys2Proof.Machine
end

