-- ==== Sys2Proof/Machine/Bundle.lean ====
section
/-! DEFINITION. Issue: the landing of results (R304-R306), the checks of a bundle (R104, R105, R117, R120, R126),
breakpoints and steps (R460, R461), interlocks and holds (R17, R122), exposed reads (R305), control conflicts (R150),
stops (R160), the power limiter (R309), and the profile of the cycle (R450-R455). -/

namespace Sys2Proof.Machine
open Sys2Proof

/-! ## Landing (R121, R304-R306) -/

/-- Whether a result lands by now. The exposed results of a context that is frozen for eviction stand in the snapshot
latches (R39). -/
def Ctx.lands (x : Ctx) (now : Nat) (e : Landing) : Bool := decide (e.due ≤ now) && (e.held || x.frozeAt.isNone)

/-- Results whose landing cycle has come land in its order, those of one cycle in the order of their issue. What a read
has seen new of another result there counts no longer. -/
def Ctx.landDue (x : Ctx) (now : Nat) : Ctx :=
  let due := sortBy Landing.due (x.land.filter (x.lands now))
  let rest := x.land.filter fun e => !x.lands now e
  due.foldl (fun (y : Ctx) (e : Landing) =>
    let y := y.landNow e
    { y with land := unseeOn e.kind e.cl e.reg e.mask y.land }) { x with land := rest }

/-- Local reads that have not been performed when their results land are performed now (R285). -/
def State.supplyDue (s : State) (c x now : Nat) : State :=
  ((s.ctxOf c x).land.filter fun e => e.src != 0 && (s.ctxOf c x).lands now e).foldl (fun t e => t.settleSeq c x e.src) s

/-- Values written by `VCFGW` come into force (R220), over that of a `CSRW` of the cycle before. Log entry 88, DEDUCED.
Log entry 114, DESIGN CHOICE. -/
def Cell.vcfgDue (k : Cell) (now : Nat) : Cell :=
  let due := k.vland.filter fun e => decide (e.1 ≤ now)
  { k with
    vcfg := due.foldl (fun (t : Tab W64) (e : Nat × Nat × W64) => t.ins e.2.1 (vcfgStored e.2.2)) k.vcfg
    vland := k.vland.filter fun e => decide (now < e.1) }

/-- `RESULT_LAND`: the results of a context of which the landing cycle is now, and the cell's `VCFGn` writes. -/
def execResultLand (s : State) : Out :=
  .next (
    let c := s.args.c
    let now := s.clock c
    ((s.supplyDue c s.args.x now).modCtxOf c s.args.x fun x => x.landDue now).modCell c fun k => k.vcfgDue now)

/-- `WAITT_WAKE`: TIME has reached the wait time. -/
def execWaittWake (s : State) : Out :=
  .next (s.modCtxOf s.args.c s.args.x fun x =>
    match x.st, x.hold with
    | .waiting, .time t => if s.tai.ult t then x else { x with st := .ready, hold := .none }
    | _, _ => x)

/-! ## The words of a bundle -/

/-- A present slot whose word decodes. -/
structure SlotOp where
  slot : Nat
  guard : Nat
  instr : Instr
  deriving DecidableEq, Repr

def State.slotWords (s : State) (c pc : Nat) (h : Header) : List (Nat × W32) :=
  (List.range h.slots.length).map fun i => (h.slots.getD i 0, s.fetch c (pc + 4 + 4 * i))

def slotOps (l : List (Nat × W32)) : List SlotOp :=
  l.filterMap fun e => match decodeSlot e.1 e.2 with
    | .ok i => some ⟨e.1, guardOf e.2, i⟩
    | .error _ => none

/-- Clusters whose registers the slot's word names: its own, or all for V0 with VB and for slots S and F (R108, R120). -/
def slotClusters (slot : Nat) (vb : Bool) : List Nat := if 8 ≤ slot || vb then List.range 8 else [7 - slot]

/-- The destinations of R120 as numbers: scalar registers below 64, pairs from 100, vector registers from 200, lane
predicates from 600. -/
def destsOf (u : Uses) (cls : List Nat) : List Nat :=
  (u.wr.filter fun r => r != 0) ++ (cls.flatMap fun _ => u.wrEach.filter fun r => r != 0)
    ++ u.wp.map (fun k => 100 + k) ++ (if u.win then (List.range 8).map fun k => 108 + k else [])
    ++ cls.flatMap (fun cl => u.wv.map fun r => 200 + vkey cl r) ++ u.wvAt.map (fun e => 200 + vkey e.1 e.2)
    ++ cls.flatMap (fun cl => u.wq.map fun r => 600 + qkey cl r) ++ u.wqAt.map (fun e => 600 + qkey e.1 e.2)

/-- Whether an element occurs twice. -/
def twice : List Nat → Bool
  | [] => false
  | a :: t => t.contains a || twice t

/-- The first offending slot in word order (R117): a word that is no instruction of its slot, a direct target outside the
store (R147), or a destination named before. Two link writes by A and B are no offence: `link` says that an earlier slot has
named s62 so (R120). `pc` is the bundle address. -/
def firstOffence (pc : Nat) (vb : Bool) : List (Nat × W32) → List Nat → Bool → Option Nat
  | [], _, _ => none
  | (n, w) :: t, seen, link =>
    match decodeSlot n w with
    | .error _ => some n
    | .ok i =>
      if !directOk pc i then some n else
      let ds := destsOf i.uses (slotClusters n vb)
      let ds := if link && i.links then ds.filter fun d => d != 62 else ds
      if twice ds || ds.any fun d => seen.contains d then some n
      else firstOffence pc vb t (seen ++ ds) (link || i.links)

/-- `TRAP_SLOT` of an illegal bundle: 15 for a fault of the header or the extent, else the first offending slot. -/
def State.bundleFault (s : State) (c pc : Nat) (h : Header) : Option Nat :=
  if 0x20000 < pc + Header.bytes h ∨ h.bad then some 15 else firstOffence pc h.vb (s.slotWords c pc h) [] false

/-! ## Breakpoints (R460) -/

/-- Whether a comparator fires on the bundle that a context presents. `live` are the present slots not yet done. -/
def bpFires (w : W64) (x pc : Nat) (ctx : Ctx) (live : List (Nat × W32)) : Bool :=
  w.getLsbD 0 && w.getLsbD (7 + x) && bitsAt w 16 17 == pc &&
    live.any fun e => (w.getLsbD 2 || e.1 == bitsAt w 3 4) && (!w.getLsbD 1 || ctx.pr (guardOf e.2))

/-- The comparators that fire, with the reported slot of the lowest. Log entry 81, DEDUCED. -/
def State.breakpoints (s : State) (c x pc : Nat) (live : List (Nat × W32)) : List Nat :=
  let k := s.cell c
  if (k.ctx x).stepping then []
  else (List.range 8).filter fun n => bpFires (k.bps.get 0 n) x pc (k.ctx x) live

/-! ## Interlocks (R17, R122, R149) -/

/-- Why a bundle waits: the class and name of R451, and the operations it awaits where it switches. -/
structure Stall where
  cls : Nat
  name : Nat
  ids : List Nat
  deriving DecidableEq, Repr

/-- What the presented slots read: scalars, pair 7, vector registers and lane predicates as (cluster, register). `MVQP` sees
no write in flight (R180). Log entry 80, DEDUCED. -/
def readScalars (ops : List SlotOp) : List Nat := (ops.flatMap fun o => o.instr.uses.rs).filter fun r => r != 0
def readPair7 (ops : List SlotOp) : Bool :=
  ops.any fun o => o.guard / 2 == 7 || o.instr.uses.ps.any fun p => p / 2 == 7
def readVectors (vb : Bool) (ops : List SlotOp) : List (Nat × Nat) :=
  ops.flatMap fun o => (slotClusters o.slot vb).flatMap (fun cl => o.instr.uses.vs.map fun r => (cl, r)) ++ o.instr.uses.vAt
def readMasks (vb : Bool) (ops : List SlotOp) : List (Nat × Nat) :=
  ops.flatMap fun o => (slotClusters o.slot vb).flatMap fun cl => o.instr.uses.qs.map fun r => (cl, r)

/-- Whether the bundle reads the result of an outstanding operation. -/
def Await.readBy (w : Await) (rs : List Nat) (p7 : Bool) (vs : List (Nat × Nat)) : Bool :=
  (w.twin && p7) ||
    match w.kind with
    | .load | .amo | .xlt => rs.contains w.reg
    | .vload => vs.any fun v => w.clusters.getLsbD v.1 && v.2 == w.reg
    | _ => false

/-- The name of an awaited result that a bundle reading the vector registers `vs` waits for (R451). -/
def Await.name (w : Await) (vs : List (Nat × Nat)) : Nat :=
  match w.kind with
  | .vload =>
    let cl := ((vs.find? fun v => w.clusters.getLsbD v.1 && v.2 == w.reg).map Prod.fst).getD 0
    2 * 2 ^ 28 + w.reg + cl * 32
  | _ => 2 ^ 28 + w.reg

/-- The interlock that a bundle meets. Log entry 80, DEDUCED. -/
def Ctx.stall (x : Ctx) (vb : Bool) (ops : List SlotOp) : Option Stall :=
  let rs := readScalars ops
  let vs := readVectors vb ops
  let waits := x.awaits.filter fun w => w.readBy rs (readPair7 ops) vs
  let far := waits.filter fun w => !w.quick
  match far with
  | w :: _ => some ⟨1, w.name vs, far.map Await.id⟩
  | [] =>
    match waits with
    | w :: _ => some ⟨1, w.name vs, []⟩
    | [] =>
      match x.land.find? fun e => e.held && e.kind == .scalar && rs.contains e.reg with
      | some e => some ⟨1, 2 ^ 28 + e.reg, []⟩
      | none => none

/-- The holds of `MCFG`, `MCHK` and `MWAIT`, which keep their bundle in place (R316), with their names. -/
def State.matrixStall (s : State) (i : Instr) : Option Stall :=
  let m := s.here.mat s.engineNo
  let name (t cfg : Nat) : Option Stall := some ⟨2, 8 * 2 ^ 28 + t + s.engineNo * 8 + cfg * 16, []⟩
  match i with
  | .mcfg _ _ => if mcfgHeld m then name 0 1 else none
  | .mchk t _ => if mchkHeld m t then name t.toNat 0 else none
  | .mwait w k => if mwaitHeld m w k then
      name (((List.range 8).find? fun t => k.getLsbD t && m.pending fun e => e.tile == some t).getD 0) 0
    else none
  | _ => none

/-- F operations issue at most once per 4 cycles of a cell (R122). -/
def Cell.spaced (k : Cell) (now : Nat) (ops : List SlotOp) : Bool :=
  match k.lastF with
  | some t => ops.any (fun o => o.instr.special) && decide (now < t + 4)
  | none => false

/-! ## Exposed reads (R305) -/

/-- Whether a bundle reads the destination of an exposed result. -/
def Landing.readBy (e : Landing) (vb : Bool) (ops : List SlotOp) : Bool :=
  match e.kind with
  | .vec => (readVectors vb ops).contains (e.cl, e.reg)
  | .lanePred => (readMasks vb ops).contains (e.cl, e.reg)
  | .scalar => (readScalars ops).contains e.reg

/-- A bank as a reader sees it that finds the marked elements of a result in flight new. Log entry 89, DESIGN CHOICE. -/
def Ctx.peek (x : Ctx) (e : Landing) (m : BitVec 16) : Ctx :=
  match e.kind with
  | .scalar => if m.getLsbD 0 then { x with s := x.s.ins e.reg (e.val.setWidth 64) } else x
  | _ => x.landOne { e with mask := m, flags := 0 }

/-- The cell as the slots of a bundle read it: each element of a result in flight that the bundle reads is old or new, by
a free value, and new for good once it has been seen new. A local read of which an element is seen new has been performed.
Behind its four contexts the cell then holds the bank without those results, for `MVQP`. Log entry 89, DESIGN CHOICE. -/
def State.exposed (s : State) (c x : Nat) (vb : Bool) (ops : List SlotOp) : Cell × State :=
  let k := s.cell c
  let es := sortBy Landing.due ((k.ctx x).land.filter fun e => !e.held && e.readBy vb ops)
  if es.isEmpty then (k, s)
  else
    es.foldl (fun (p : Cell × State) (e : Landing) =>
      let m := bits16 fun i => e.mask.getLsbD i && (e.seen.getLsbD i || Config.freeBit (p.2.draws + i))
      let t := if m != 0 && e.src != 0 then p.2.settleSeq c x e.src else p.2
      let now := ((t.ctxOf c x).land.find? fun o => { o with val := e.val, emp := e.emp, seen := e.seen } == e).getD e
      let mark (o : Landing) : Landing := if o = now then { o with seen := m } else o
      let t := t.modCtxOf c x fun t => { t with land := t.land.map mark }
      (p.1.putCtx x ((p.1.ctx x).peek now m), { t with draws := t.draws + 16 })) (k.putCtx (4 + x) (k.ctx x), s)

/-! ## Control conflicts (R150, R151) -/

/-- The kind of an executing control slot; a `BRLOOP` that is not taken is none. -/
def SlotOp.ctlKind (o : SlotOp) (x : Ctx) : Option CtlKind :=
  match o.instr.ctl with
  | some .loop => if loopTaken x then some .transfer else none
  | k => k

/-- Which of the control slots A and B run, and how many are suppressed. The third case of a stop leaves the other slot
not done. -/
def resolveCtl (x : Ctx) (l : List SlotOp) : List SlotOp × Nat :=
  match l with
  | [a, b] =>
    match a.ctlKind x, b.ctlKind x with
    | some .stop, _ => ([a], 0)
    | _, some .stop => ([b], 0)
    | some .ending, _ => ([a], 1)
    | _, some .ending => ([b], 1)
    | some .transfer, some .transfer => ([a], 1)
    | some .wait, some .wait => ([a], 1)
    | _, _ => ([a, b], 0)
  | l => (l, 0)

/-- Counts suppressed slots in `BR_CONFLICT`. -/
def Ctx.conflict (x : Ctx) (n : Nat) : Ctx :=
  { x with brConflict := BitVec.ofNat 64 (min (x.brConflict.toNat + n) 0xFFFFFFFF) }

/-! ## Current (R123, R309) -/

/-- The weight of the executing slots; a broadcast V0 word counts eight times. Log entry 82, DEDUCED. -/
def bundleWeight (c vb : Bool) (ops : List SlotOp) : Nat :=
  ops.foldl (fun n o => n + o.instr.weight c * (if vb && o.slot == 7 then 8 else 1)) 0

/-! ## Names of held bundles (R451) -/

/-- A held `SEMIT`: no free slot, no pennant, a full comparator queue, or else back-pressure: a stopped stream, or chunks
that are still to be resent. -/
def State.emitName (s : State) (c p : Nat) (mb : BitVec 16) : Nat :=
  let t := (s.cell c).port p
  let reason := if t.stopped ∨ t.peerLost then 2
    else if t.free = 0 then 0
    else if t.unsent.isSome then 2
    else if t.halyard && !(s.cell c).hal.held.contains mb then 1
    else if s.comparatorFull c t then 3
    else 2
  9 * 2 ^ 28 + p + reason * 16

/-- A word of scratch: one of a consumer ring slot is named by tag and slot. Log entry 83, DEDUCED. -/
def Cell.wordName (k : Cell) (a : Nat) : Nat :=
  let off := a % 2 ^ 26
  let hit (e : Nat × TagSt) : Option Nat :=
    let stride := strideOf e.2.pay
    if e.2.base ≤ off ∧ off < e.2.base + stride * e.2.slots then some (3 * 2 ^ 28 + e.1 + (off - e.2.base) / stride * 16)
    else none
  (k.tags.findSome? hit).getD (4 * 2 ^ 28 + off % 2 ^ 21)

/-- Vector registers that the bundle at a context's pc reads in the slots that it has not done. -/
def State.heldReads (s : State) (c x : Nat) : List (Nat × Nat) :=
  let t := (s.cell c).ctx x
  let h := decodeHeader (s.fetch c t.pc)
  readVectors h.vb ((slotOps (s.slotWords c t.pc h)).filter fun o => !(t.redo && t.doneMask.getLsbD o.slot))

/-- Class and name of a held bundle. Where R451 gives none, for a `FENCE`, a full fault buffer or the engine number of a
rotation, they are free. Log entry 83, DEDUCED. -/
def State.holdName (s : State) (c x : Nat) (h : Hold) : Nat × Nat :=
  let free := (Config.freeWord (2 ^ 211 + s.cycle * 2 ^ 16 + c * 4 + x)).toNat
  match h with
  | .awaits ids =>
    match ((s.cell c).ctx x).awaits.find? fun w => ids.contains w.id with
    | some w => (1, w.name (s.heldReads c x))
    | none => (1, 2 ^ 28)
  | .word a => (1, (s.cell c).wordName a)
  | .phase a _ => (1, 4 * 2 ^ 28 + a % 2 ^ 21)
  | .signal a _ => (1, 4 * 2 ^ 28 + a % 2 ^ 21)
  | .fence _ => (1 + free % 2, free / 2 % 2 ^ 32)
  | .record => (1 + free % 2, free / 2 % 2 ^ 32)
  | .engine e => (2, 6 * 2 ^ 28 + e)
  | .tokens _ => (2, 6 * 2 ^ 28 + 1)
  | .group _ => (2, 6 * 2 ^ 28 + 2)
  | .rotate => (2, 6 * 2 ^ 28 + free % 8)
  | .engines m => (2, 6 * 2 ^ 28 + ((List.range 6).find? fun e => m.getLsbD e && ((s.cell c).ctx x).busyOn e).getD 0)
  | .matrix e => (2, 7 * 2 ^ 28 + e)
  | .emit p mb => (2, s.emitName c p mb)
  | _ => (2, 11 * 2 ^ 28)

/-! ## The profile of a cycle (R450, R455) -/

/-- A held or stalled bundle: context, its slots not yet done, class and name. -/
structure HeldBy where
  ctx : Nat
  slots : BitVec 14
  cls : Nat
  name : Nat
  deriving DecidableEq, Repr

/-- The slots of the bundle at a context's pc that it would still execute. Log entry 81, DEDUCED. -/
def State.heldSlots (s : State) (c : Nat) (x : Ctx) : BitVec 14 :=
  let h := decodeHeader (s.fetch c x.pc)
  if x.redo then h.presence &&& ~~~(x.doneMask.setWidth 14) else h.presence

/-- The bundles held in a cell, by context. -/
def State.heldBundles (s : State) (c : Nat) : List HeldBy :=
  (List.range 4).filterMap fun x =>
    let t := s.ctxOf c x
    if t.st = .blocked ∧ t.hold ≠ .ending then
      let n := s.holdName c x t.hold
      some ⟨x, s.heldSlots c t, n.1, n.2⟩
    else none

/-- Counts a class of an element for the capture sets that `sel` gives it to (event 13). Log entry 83, DEDUCED. -/
def Ctx.countElem (x : Ctx) (sel : Tab W64) (e cls : Nat) : Ctx :=
  { x with caps := x.caps.map fun k =>
      let w := sel.get 0 k.1
      if k.2.running && bitsAt w 0 6 == 13 && bitsAt w 6 5 == e && bitsAt w 11 3 == cls then
        (k.1, { k.2 with count := min (k.2.count + 1) (2 ^ 48 - 1) }) else k }

/-- Classes of the slot elements and of element 15; `was` is the cell at the start of the cycle, whose `CAP_EVENTn` apply.
-/
def Cell.profSlots (k was : Cell) (frozen : Bool) (fired : Option (Nat × List Nat)) (held : List HeldBy) : Cell :=
  ([0, 1, 2, 3, 4, 5, 6, 7, 8, 9, 10, 11, 12, 13, 15] : List Nat).foldl (fun (k : Cell) (e : Nat) =>
    if frozen then k.profCount e 2 (some (11 * 2 ^ 28))
    else
      match fired.filter fun f => e == 15 || f.2.contains e with
      | some f => (k.profCount e 0 none).putCtx f.1 ((k.ctx f.1).countElem (was.ctx f.1).capEvent e 0)
      | none =>
        match held.find? fun h => e == 15 || h.slots.getLsbD e with
        | some h => (k.profCount e h.cls (some h.name)).putCtx h.ctx ((k.ctx h.ctx).countElem (was.ctx h.ctx).capEvent e h.cls)
        | none => k) k

/-- The sequencer has emitted a unit, waits for a token, or has a full run-ahead. -/
def Cell.profSeq (k : Cell) : Cell :=
  let live := k.seqs.filter fun q =>
    !q.2.ended && q.2.stopped.isNone && q.2.walk.isNone && decide (q.2.emitted < q.2.units) && !q.2.mayFetch
  if k.fired.contains 14 then k.profCount 14 0 none
  else match live.find? fun q => decide (q.2.queue.length < 8) with
  | some q => k.profCount 14 1 (some (5 * 2 ^ 28 + q.1))
  | none =>
    match live with
    | q :: _ => k.profCount 14 2 (some (10 * 2 ^ 28 + q.1))
    | [] => k

/-- Ports that have emitted, that hold a `SEMIT`, or a chunk to be resent. Log entry 83, DEDUCED. -/
def State.profPorts (s : State) (c : Nat) : State :=
  (List.range 16).foldl (fun (s : State) (p : Nat) =>
    if (s.cell c).fired.contains (16 + p) then s.modCell c fun k => k.profCount (16 + p) 0 none
    else
    let held := (List.range 4).findSome? fun x =>
      let t := s.ctxOf c x
      match t.st, t.hold with
      | .blocked, .emit q mb => if q = p then some mb else none
      | _, _ => none
    match held with
    | some mb => s.modCell c fun k => k.profCount (16 + p) 2 (some (s.emitName c p mb))
    | none =>
      if ((s.cell c).port p).unsent.isSome then
        s.modCell c fun k => k.profCount (16 + p) 2 (some (9 * 2 ^ 28 + p))
      else s) s

/-- Per-cycle events of the capture sets (R455): 3 BLOCKED, 4 WAITING, 5 READY without issuing, 6 freeze cycles, by the
`CAP_EVENTn` at the start of the cycle; `own` is an issue or `WAIT` cycle of the context's bundle, `slot` says that it
holds the issue slot. Log entry 83, DEDUCED. -/
def Ctx.countCycle (x : Ctx) (sel : Tab W64) (frozen own slot : Bool) : Ctx :=
  let y := match x.st with
    | .blocked => if own then x else x.countBy sel 3 1
    | .waiting => if own then x else x.countBy sel 4 1
    | .ready => if own || slot then x else x.countBy sel 5 1
    | _ => x
  if frozen && x.st != .free then y.countBy sel 6 1 else y

/-- A cycle of a configuration load (R450). Log entry 83, DEDUCED. -/
def Cell.profLoad (k : Cell) : Cell :=
  (List.range 32).foldl (fun k e => k.profCount e 3 none) { k with loading := false }

/-- The profile of a cycle: one class for each element. -/
def State.profCycle (s : State) (c : Nat) (was : Cell) (frozen : Bool) (fired : Option (Nat × List Nat)) (held : List HeldBy) :
    State :=
  let s := if was.loading then s.modCell c Cell.profLoad
    else (s.modCell c fun k => (k.profSlots was frozen fired held).profSeq).profPorts c
  s.modCell c fun k => { k with fired := [] }

/-- The end of a cell's cycle: profile and counters. In a freeze cycle the cell clock stands still (R304, R309): since the
start of the cycle where it was one from then on. `was` is the cell at the start of the cycle. Log entry 82, DEDUCED. -/
def State.endCycle (s : State) (c : Nat) (was : Cell) (frozen : Bool) (fired : Option (Nat × List Nat)) (held : List HeldBy) :
    State :=
  let waits (x : Nat) : Bool := !frozen && decide (s.clock c < was.busyTil) && !was.entering && was.last == some x
  let own (x : Nat) : Bool := fired.map Prod.fst == some x || waits x
  (s.profCycle c was frozen fired held).modCell c fun k =>
    let k := (List.range 4).foldl (fun (k : Cell) (x : Nat) =>
      if (k.ctx x).st = .free then k
      else k.putCtx x ((k.ctx x).countCycle (was.ctx x).capEvent frozen (own x) (k.cur == some x))) k
    if frozen then
      { k with
        froze := true
        frozen := if k.froze then k.frozen else k.frozen + 1
        freezeCnt := BitVec.ofNat 64 (min (k.freezeCnt.toNat + 1) 0xFFFFFFFF) }
    else { k with froze := false }

/-! ## Presenting a bundle -/

/-- What comes of presenting a bundle. -/
inductive Issue where
  /-- stopped before any slot -/
  | stopped (t : State)
  /-- held in place -/
  | place (t : State) (h : HeldBy)
  /-- not issued: the context is BLOCKED -/
  | held (t : State)
  /-- issued, with its weight and the slots that executed -/
  | issued (t : State) (w : Nat) (fired : List Nat)
  deriving DecidableEq, Repr

/-- Runs a slot at its number. Log entry 94, DEDUCED. -/
def State.runSlot (s : State) (o : SlotOp) : State :=
  match execSlot o.instr { s with focus := { s.focus with slot := o.slot } } with
  | .next t => t
  | .fault _ => s
  | .refused _ => s

/-- Whether a slot has held its bundle. -/
def State.heldNow (s : State) : Bool := s.ctx.st == .blocked && s.ctx.hold != .ending

/-- Ends a presentation: nothing is in focus. -/
def State.unfocus (s : State) : State := { s with focus := Focus.reset, snap := none }

/-- A stop before any slot of the presented bundle. -/
def State.stopBundle (s : State) (c x pc slot cause info : Nat) (done : BitVec 14) : Issue :=
  .stopped (s.takeStop c x pc slot cause info done)

/-- What an issued bundle counts: its issue cycle, its weight and `n` committed slots, in the sets that run once its slots
have run. Log entry 83, DEDUCED. -/
def Ctx.countIssue (x : Ctx) (sel : Tab W64) (w n : Nat) : Ctx :=
  ((x.countBy sel 1 1).countBy sel 8 w).countBy sel 7 n

/-- A bundle that slots have stopped: the first in word order is reported (R160). Its trap is taken under the `TRAP_VEC`
that the bundle found (R174). -/
def State.slotStop (t1 t2 : State) (ops live : List SlotOp) (old : BitVec 14) (x : Ctx) (w : Nat) (fired : List Nat) :
    Issue :=
  let f := t2.focus
  let first := f.stops.foldl (fun (a : Nat × Nat × Nat) b => if a.1 < b.1 then b else a) (f.stops.headD (0, 0, 0))
  let trap := first.2.1 == 4 || first.2.1 == 5
  let ok (o : SlotOp) : Bool :=
    if !x.pr o.guard then true
    else if (f.stops.any fun e => e.1 == o.slot) then trap && o.slot == first.1
    else (o.ctlKind x).isNone
  let done := (live.filter ok).foldl (fun (m : BitVec 14) o => m ||| (1#14 <<< o.slot)) old
  let n := (ops.filter ok).length
  let t := ((t1.modCtx fun y => y.countIssue x.capEvent w n).unfocus).takeStopBy x f.cell f.ctx f.pc first.1
    first.2.1 first.2.2 done
  .issued (t.modCtxOf f.cell f.ctx fun y => { y with stepping := false }) w fired

/-- Slots M0 and M1: their entries precede any close of their bundle (R325). -/
def SlotOp.isMatrix (o : SlotOp) : Bool := o.slot == 8 || o.slot == 9

/-- `MCFG`, whose close falls when its hold ends, before any entry of its bundle (R325). -/
def SlotOp.isMcfg (o : SlotOp) : Bool := match o.instr with
  | .mcfg _ _ => true
  | _ => false

/-- The slots of a bundle that nothing holds execute: `MCFG` and the other matrix slots first, then those that are no
control slots, then the control slots that R150 lets run. `base` is the state in focus, `ops` the executing slots, `live`
all that are not done. Log entry 81, DEDUCED. -/
def State.runSlots (base : State) (ops live : List SlotOp) (old : BitVec 14) (w wait : Nat) : Issue :=
  let x := base.was
  let f := base.focus
  let start := base.modCtx fun y => { y with
    st := .ready
    hold := .none
    pc := f.next
    redo := false
    doneMask := if y.redo then 0 else y.doneMask }
  let start := start.modHere fun k => { k with cur := some f.ctx, last := some f.ctx, entering := false }
  let ctl := ops.filter fun o => (o.ctlKind x).isSome
  let others := ops.filter fun o => (o.ctlKind x).isNone
  let plain := (others.filter SlotOp.isMcfg) ++ (others.filter fun o => o.isMatrix && !o.isMcfg) ++ others.filter fun o => !o.isMatrix
  let run := resolveCtl x ctl
  let step (p : State × Option SlotOp) (o : SlotOp) : State × Option SlotOp :=
    match p.2 with
    | some _ => p
    | none =>
      let t := p.1.runSlot o
      if t.heldNow then (t, some o) else (t, none)
  let r1 := plain.foldl step (start, none)
  let t1 := r1.1
  let go := t1.focus.stops.isEmpty
  let n := plain.length + run.1.length
  let ends := run.1.any fun o => o.ctlKind x == some .ending
  let t1c := if go then t1.modCtx fun y => y.conflict run.2 else t1
  let t1c := if go && ends then t1c.modCtx fun y => y.countIssue x.capEvent w n else t1c
  let r2 := run.1.foldl step (t1c, r1.2)
  match r2.2 with
  | some o =>
    let t := base.runSlot o
    let nm := t.holdName f.cell f.ctx t.ctx.hold
    let t := t.trace f.cell 7 (some f.ctx) f.pc o.slot 1 (BitVec.ofNat 64 nm.2)
    .held t.unfocus
  | none =>
    let t2 := r2.1
    if t2.focus.stops.isEmpty then
      let t := if ends then t2 else t2.modCtx fun y => y.countIssue x.capEvent w n
      let t := if t.ctx.stepping then t.modCtx fun y => { y with stepDone := true } else t
      let left := if t.ctx.st = .waiting then some 2 else if t.here.cur = none ∧ t.ctx.st = .ready then some 3 else none
      let t := match left with
        | some k => t.trace f.cell 7 (some f.ctx) f.pc ((run.1.map SlotOp.slot).headD 15) (BitVec.ofNat 64 k) 0
        | none => t
      let t := t.modHere fun k => { k with busyTil := base.now + 1 + wait }
      .issued t.unfocus w (ops.map SlotOp.slot)
    else slotStop t1 t2 ops live old x w (ops.map SlotOp.slot)

/-- A fault found after issue, taken at the boundary before the presented bundle (R260, R328). Log entry 81, DEDUCED. -/
def State.takeLate (s : State) (c x : Nat) (l : LateFault) : Issue :=
  let here := (s.ctxOf c x).pc
  let h := decodeHeader (s.fetch c l.pc)
  let s := s.modCtxOf c x fun t => { t with
    late := t.late.drop 1
    rwOrigin := if l.cause = 0x0C then originWord l.origins else t.rwOrigin
    rwFault := if l.cause = 0x0C then BitVec.ofNat 64 (here % 2 ^ 17) else t.rwFault }
  let s := if l.cause = 0x0B then s.askKill c 0 else s
  s.stopBundle c x l.pc l.slot l.cause l.info (h.presence &&& ~~~l.undone)

/-- The state in which the slots of a context's bundle run: in focus, with the cell as they read it. -/
def State.inFocus (s : State) (c x pc : Nat) (h : Header) (ops : List SlotOp) : State :=
  let e := s.exposed c x h.vb ops
  { e.2 with
    focus := ⟨c, x, 15, pc, pc + Header.bytes h, h.vb, true, []⟩
    snap := some e.1 }

/-- A context presents the bundle at its pc. Log entry 81, DEDUCED. -/
def State.present (s : State) (c x : Nat) : Issue :=
  let t := s.ctxOf c x
  let pc := t.pc
  let h := decodeHeader (s.fetch c pc)
  let old := if t.redo then t.doneMask.setWidth 14 &&& h.presence else 0
  if t.stepDone then
    (s.modCtxOf c x fun y => { y with stepping := false, stepDone := false }).stopBundle c x pc 15 0x06 0 0
  else
  match t.late with
  | l :: _ => s.takeLate c x l
  | [] =>
    if s.replayEnded c then s.stopBundle c x pc 15 0x11 0 0
    else
      let size := if 0x20000 < pc + Header.bytes h then 0 else Header.bytes h
      match (List.range (size / 4)).find? fun i => s.poisoned (flat c 2 (pc + 4 * i)) 4 with
      | some i =>
        let slot := if i = 0 then 15 else h.slots.getD (i - 1) 15
        let f := { s with focus := ⟨c, x, slot, pc, pc, false, false, []⟩ }
        .stopped (f.consume (flat c 2 (pc + 4 * i))).unfocus
      | none =>
        let words := s.slotWords c pc h
        let bps := if size = 0 then [] else s.breakpoints c x pc (words.filter fun e => !old.getLsbD e.1)
        match bps with
        | n :: _ =>
          let w := (s.cell c).bps.get 0 n
          s.stopBundle c x pc (if w.getLsbD 2 then 15 else bitsAt w 3 4) 0x05
            ((bps.foldl (fun m n => m + 2 ^ n) 0) * 2 ^ 6 * 2 ^ 14) old
        | [] =>
          match s.bundleFault c pc h with
          | some slot => s.stopBundle c x pc slot 0x01 0 0
          | none =>
            let all := slotOps words
            match if t.supervisor then none else all.find? fun o => o.instr.privileged with
            | some o => s.stopBundle c x pc o.slot 0x03 0 0
            | none =>
              let live := all.filter fun o => !old.getLsbD o.slot
              match t.stall h.vb live with
              | some st =>
                if st.ids.isEmpty then
                  .place (s.modCell c fun k => { k with cur := some x }) ⟨x, s.heldSlots c t, st.cls, st.name⟩
                else
                  let f := (s.inFocus c x pc h []).block (.awaits st.ids)
                  .held (f.trace c 7 (some x) pc 15 1 (BitVec.ofNat 64 st.name)).unfocus
              | none =>
                let ops := live.filter fun o => t.pr o.guard
                let f := s.inFocus c x pc h ops
                let stays := ops.findSome? fun o =>
                  State.matrixStall { f with focus := { f.focus with slot := o.slot } } o.instr
                let stays := if (s.cell c).spaced (s.clock c) ops then some ⟨2, 12 * 2 ^ 28, []⟩ else stays
                match stays with
                | some st =>
                  .place (s.modCell c fun k => { k with cur := some x }) ⟨x, s.heldSlots c t, st.cls, st.name⟩
                | none => f.runSlots ops live old (bundleWeight (isC c) h.vb ops) h.wait.toNat

/-! ## The cycle of a cell (R16-R18) -/

/-- Whether a context may hold the issue slot. -/
def Cell.runnable (k : Cell) (x : Nat) : Bool := (k.ctx x).st == .ready && !(k.ctx x).frozen && !k.killed

/-- The first runnable context in cyclic order after the one that last issued. Log entry 90, DEDUCED. -/
def Cell.nextReady (k : Cell) : Option Nat :=
  let order := match k.last with
    | some l => (List.range 4).map fun i => (l + 1 + i) % 4
    | none => List.range 4
  order.find? k.runnable

/-- A cycle in which no bundle issues and that is no freeze cycle. -/
def State.quiet (s : State) (c : Nat) (was : Cell) (held : List HeldBy) : State := s.endCycle c was false none held

/-- A cycle of a `WAIT` count or of a trap entry (R16); the former counts for the context that issued (event 2). -/
def State.busyCycle (s : State) (c : Nat) : State :=
  let k := s.cell c
  let s := match k.last.filter fun x => !k.entering && (k.ctx x).st != .free with
    | some x => s.modCtxOf c x fun t => t.count 2 1
    | none => s
  s.quiet c k (s.heldBundles c)

/-- The cycle of a presented bundle. A freeze cycle, which the weight of the bundle makes of it, discards the presentation;
the cycle in which a bundle fails to issue is the switch cycle where another context is ready (R18).
Log entry 90, DEDUCED. -/
def State.issueOf (s : State) (c x : Nat) : State :=
  let was := s.cell c
  let regains := was.cur != some x
  let note (t : State) : State := if regains then t.trace c 7 (some x) (s.ctxOf c x).pc 15 0 0 else t
  let gaveUp (t : State) : State := t.modCell c fun k => { k with
    switched := k.cur.isNone && (List.range 4).any fun y => y != x && k.runnable y }
  match (s.modCell c fun k => { k with home := some x, switched := false }).present c x with
  | .stopped t =>
    let t := gaveUp t
    t.quiet c was (t.heldBundles c)
  | .place t h =>
    let t := note t
    t.quiet c was (sortBy HeldBy.ctx (t.heldBundles c ++ [h]))
  | .held t =>
    let t := gaveUp t
    t.quiet c was (t.heldBundles c)
  | .issued t w fired =>
    if was.freezes s.cycle w then s.endCycle c was true none []
    else
      let t := note (t.modCell c fun k => { k with
        weights := (k.weights.filter fun e => decide (s.cycle < e.1 + 31)) ++ (if w = 0 then [] else [(s.cycle, w)]) })
      t.endCycle c was false (some (x, fired)) (t.heldBundles c)

/-- The selected context: the one that holds the issue slot, else the next in turn. -/
def Cell.selected (k : Cell) : Option Nat :=
  match k.cur with
  | some x => if k.runnable x then some x else k.nextReady
  | none => k.nextReady

/-- Whether the cycle is the one that a switch to context `x` takes (R18). -/
def Cell.switches (k : Cell) (x : Nat) : Bool := k.last.isSome && k.home != some x && k.cur != some x && !k.switched

/-- What the cell does in this cycle; while it loads a configuration no bundle issues. Log entry 82, DEDUCED.
Log entry 85, DEDUCED. Log entry 90, DEDUCED. -/
def State.cellCycle (s : State) (c : Nat) : State :=
  let k := s.cell c
  if k.loading then (s.modCell c fun k => { k with switched := false }).quiet c k []
  else if k.froze || k.freezes s.cycle 0 then s.endCycle c k true none []
  else if s.clock c < k.busyTil then s.busyCycle c
  else
    match k.selected with
    | none => (s.modCell c fun k => { k with switched := false }).quiet c k (s.heldBundles c)
    | some x =>
      if k.switches x then (s.modCell c fun k => { k with switched := true }).quiet c k (s.heldBundles c)
      else s.issueOf c x

/-- `BUNDLE_ISSUE`: a cell takes its turn of the cycle. -/
def execBundleIssue (s : State) : Out :=
  .next ({ s with turn := s.turn.erase s.args.c }.cellCycle s.args.c)

end Sys2Proof.Machine
end

