-- ==== Sys2Proof/Machine/Sched.lean ====
section
/-! DEFINITION. Which of the concurrent agents of the package moves next. `State.sched` may name the next moves, in any
order; behind it stands one order of a cycle: messages in flight, due events, results whose cycle has come, the turn of each
cell, starts of matrix operations, waits for TIME and idle windows, and the advance of the clock, at which held contexts are
looked at (R18). -/

namespace Sys2Proof.Machine
open Sys2Proof

/-! ## Holds (R17, R18) -/

/-- Whether a context that waits for an object of another package is looked at again in this cycle. Log entry 22, DEDUCED.
-/
def State.farWakes (s : State) (c x : Nat) : Bool := Config.freeBit (2 ^ 220 + s.cycle * 8192 + c * 4 + x)

/-- Whether the condition that holds a context has cleared. A wait for TIME ends by an event; an object of another package
is free at each look. Log entry 22, DEDUCED. -/
def State.holdClear (s : State) (c x : Nat) : Bool :=
  let k := s.cell c
  let t := k.ctx x
  match t.hold with
  | .none => true
  | .awaits ids => !(t.awaits.any fun w => ids.contains w.id)
  | .fence ids => !(t.awaits.any fun w => ids.contains w.id)
  | .engine e => decide ((k.queue e).length < engineDepth e)
  | .tokens n => decide (k.tokensHeld n < 8)
  | .matrix e => decide ((k.mat e).queue.length < 8)
  | .emit p mb => !s.emitHeld c p mb
  | .rotate => k.rot.isNone
  | .group g => match k.group g with
    | some d => d.run.isNone
    | none => true
  | .engines m => !xwaitHeld t m
  | .word a => s.isFull a && (List.range 4).all fun y => y == x || (k.ctx y).hold != .word a ||
      decide (t.heldAt ≤ (k.ctx y).heldAt)
  | .phase a seen => if a < 2 ^ 54 then (s.barrier a).phase != seen else s.farWakes c x
  | .signal a v => if a < 2 ^ 54 then !(s.read64 a).ult v else s.farWakes c x
  | .event m => (t.evWord.setWidth 11 &&& m) != 0
  | .record => !s.recordHeld c x 15
  | .power => t.back.isNone && t.granted.any fun q => q / 16 == t.pc
  | .time _ => false
  | .ending => false

/-- A held context whose condition has cleared is READY from the next cycle; its hold stays named until its bundle issues. A
fault found after issue ends any hold of a bundle (R328). -/
def State.wake (s : State) (c x : Nat) : State :=
  let t := s.ctxOf c x
  match t.st with
  | .blocked =>
    if t.hold = .ending then s.tryRetire c x
    else if !t.late.isEmpty || s.holdClear c x then s.modCtxOf c x fun y => { y with st := .ready }
    else s
  | .waiting => if s.holdClear c x then s.modCtxOf c x fun y => { y with st := .ready, hold := .none } else s
  | _ => s

/-! ## Work of a cell that is due -/

/-- A context with a result to land. -/
def State.landCtx (s : State) (c : Nat) (k : Cell) : Option Nat :=
  let now := s.clock c
  match (List.range 4).find? fun x => (k.ctx x).land.any ((k.ctx x).lands now) with
  | some x => some x
  | none => if k.vland.any fun e => decide (e.1 ≤ now) then some 0 else none

/-- An answered operation whose result is written now: its context and number. -/
def State.awaitDue (s : State) (c : Nat) (k : Cell) : Option (Nat × Nat) :=
  let now := s.clock c
  let due (w : Await) : Bool := w.answer.isSome && (match w.due with
    | some d => decide (d ≤ now)
    | none => false)
  let live := (List.range 4).flatMap fun x => ((k.ctx x).awaits.filter due).map fun w => (x, w.id)
  let away := k.saved.flatMap fun v => (v.bank.awaits.filter due).map fun w => (v.num, w.id)
  (live ++ away).head?

/-- A waiting context whose time has come. -/
def State.timeDue (s : State) (k : Cell) : Option Nat :=
  (List.range 4).find? fun x =>
    match (k.ctx x).st, (k.ctx x).hold with
    | .waiting, .time t => !s.tai.ult t
    | _, _ => false

/-- A window on an engine that ends with this cycle, the 64th counted one without an entry since the last, or since the
task's start (R325): context and engine. -/
def State.idleWindow (s : State) (c : Nat) (k : Cell) : Option (Nat × Nat) :=
  let now := s.clock c
  ([0, 1, 2, 3].flatMap fun x => [(x, 0), (x, 1)]).find? fun p =>
    let t := k.ctx p.1
    t.st != .free && t.back.isNone && t.lastM.any fun q => q.1 == p.2 && decide (q.2 + 64 ≤ now)

/-- An engine whose oldest operation has completed by the end of an earlier cycle (R262), and one whose next can start.
Log entry 31, DEDUCED. -/
def State.matDone (s : State) (c : Nat) (k : Cell) : Option Nat :=
  [0, 1].find? fun e => match (k.mat e).running with
    | r :: _ => decide (r.2.2 < s.clock c)
    | [] => false
/-- Log entry 31, DEDUCED. -/
def State.matNext (s : State) (c : Nat) (k : Cell) : Option Nat :=
  if k.froze then none
  else [0, 1].find? fun e => (k.mat e).canStart (s.clock c) &&
    match (k.mat e).queue with
    | m :: _ => (s.matData c (k.mat e) m).isSome
    | [] => false

/-- What is due in a cell before its turn: results, and the completions and starts of matrix operations, so that no bundle
of the cycle finds an entry in the window that starts with it (R317). -/
def State.cellDue (s : State) (c : Nat) : Option Event :=
  let k := s.cell c
  let a : Args := { Args.empty with c := c }
  match s.landCtx c k with
  | some x => some ⟨.resultLand, { a with x := x }⟩
  | none =>
    match s.awaitDue c k with
    | some (x, id) => some ⟨.interlockReturn, { a with x := x, id := id }⟩
    | none =>
      match s.matDone c k with
      | some e => some ⟨.matrixOpComplete, { a with e := e }⟩
      | none => (s.matNext c k).map fun e => ⟨.matrixOpStart, { a with e := e }⟩

/-- What is due in a cell after its turn: the ends of waits and windows. -/
def State.cellAfter (s : State) (c : Nat) : Option Event :=
  let k := s.cell c
  let a : Args := { Args.empty with c := c }
  match s.timeDue k with
  | some x => some ⟨.waittWake, { a with x := x }⟩
  | none => (s.idleWindow c k).map fun p => ⟨.tarragonIdleClose, { a with x := p.1, e := p.2 }⟩

/-! ## The clock -/

/-- Units by which TIME departs from its rate in one cycle: at most 4 of 20,000 (R404). Log entry 70, DEDUCED. -/
def slewStep (slew : Int) : Int := max (-4) (min 4 slew)

/-- Cells that take a turn in a cycle: those that hold a configuration or a task. -/
def State.active (s : State) : List Nat :=
  (s.cells.filter fun e => e.2.loaded || e.2.ctxs.any fun x => x.2.st != .free).map Prod.fst

/-- What a context keeps for one cycle goes, but for what waits for the next counted cycle where the cell stood still. -/
def Ctx.nextCycle (x : Ctx) (froze : Bool) : Ctx := if froze then { x with evHw := 0 } else x.freshCycle

/-- The contexts of every cell with a turn enter the next cycle. -/
def State.freshen (s : State) : State :=
  s.active.foldl (fun (s : State) (c : Nat) => s.modCell c fun k =>
    { k with ctxs := k.ctxs.map fun e => (e.1, e.2.nextCycle k.froze) }) s

/-! ## Freeze cycles (R309) -/

/-- A cell once what is due before its turn has come about, `n` moves at most. -/
def State.afterDue (s : State) (c : Nat) : Nat → State
  | 0 => s
  | n + 1 =>
    match s.cellDue c with
    | none => s
    | some e =>
      let s := { s with args := e.args }
      let o := match e.instr with
        | .resultLand => execResultLand s
        | .interlockReturn => execInterlockReturn s
        | .matrixOpComplete => execMatrixOpComplete s
        | _ => execMatrixOpStart s
      match o with
      | .next t => t.afterDue c n
      | _ => s

/-- Moves that may be due in a cell. -/
def Cell.dueBound (k : Cell) : Nat :=
  8 + (List.range 4).foldl (fun n x => n + (k.ctx x).land.length + (k.ctx x).awaits.length) 0
    + k.saved.foldl (fun n v => n + v.bank.awaits.length) 0

/-- Whether the cycle that begins is a freeze cycle: the limiter adds the weight of the bundle that the selected context
would issue in it to those of the 31 cycles before. Log entry 82, DEDUCED. -/
def State.willFreeze (s : State) (c : Nat) : Bool :=
  let k := s.cell c
  if k.loading || k.windowSum s.cycle == 0 then false
  else if k.freezes s.cycle 0 then true
  else if s.clock c < k.busyTil then false
  else
    let t := s.afterDue c k.dueBound
    match (t.cell c).selected with
    | none => false
    | some x =>
      if (t.cell c).switches x then false
      else match (t.modCell c fun k => { k with home := some x, switched := false }).present c x with
        | .issued _ w _ => k.freezes s.cycle w
        | _ => false

/-- A freeze cycle is one from its start: the cell clock stands still, and with it all that counts by it.
Log entry 82, DEDUCED. -/
def State.limit (s : State) (c : Nat) : State :=
  if s.willFreeze c then s.modCell c fun k => { k with froze := true, frozen := k.frozen + 1 }
  else s.modCell c fun k => { k with froze := false }

/-- The end of a cycle: holds are looked at, the clock advances, and TIME with it; 1PPS OUT rises at each multiple of 10^9
ns (R404); a second boundary that the forward step of a first lock has skipped counts as risen with it (log entry 123).
Log entry 70, DEDUCED. Log entry 7, DESIGN CHOICE. Log entry 123, DESIGN CHOICE. -/
def State.tick (s : State) : State :=
  let s := (s.active.foldl (fun (s : State) (c : Nat) => [0, 1, 2, 3].foldl (fun (s : State) (x : Nat) => s.wake c x) s) s).freshen
  let d := slewStep s.pkg.time.slew
  let time := s.time + (20000 + d).toNat
  let s := s.modPkg fun p => { p with
    time := { p.time with slew := p.time.slew - d, ppsOut := max p.time.ppsOut (time / 45000000000000) }
    stamp := p.inj
    links := p.links.map fun e => (e.1, { e.2 with wire := [] }) }
  let s := { s with
    cycle := s.cycle + 1
    time := time
    turn := s.active }
  s.turn.foldl State.limit s

/-! ## The next move -/

/-- The timer that is due first. -/
def State.timerDue (s : State) : Option (Nat × Event) :=
  leastBy Prod.fst (s.timers.filter fun t => decide (t.1 ≤ s.elapsed))
/-- The event whose cycle has come first. -/
def State.alarmDue (s : State) : Option (Nat × Event) :=
  leastBy Prod.fst (s.alarms.filter fun t => decide (t.1 ≤ s.cycle))

/-- The move of the default order: an event to execute in the state beside it, or the state after the clock's advance.
Log entry 7, DESIGN CHOICE. -/
def State.defaultMove (s : State) : Option Event × State :=
  match s.agenda with
  | e :: t => (some e, { s with agenda := t })
  | [] =>
    match s.timerDue, s.alarmDue with
    | some t, _ => (some t.2, { s with timers := s.timers.erase t })
    | none, some t => (some t.2, { s with alarms := s.alarms.erase t })
    | none, none =>
      match s.active.findSome? s.cellDue with
      | some e => (some e, s)
      | none =>
        match s.turn with
        | c :: _ => (some ⟨.bundleIssue, { Args.empty with c := c }⟩, s)
        | [] =>
          match s.active.findSome? s.cellAfter with
          | some e => (some e, s)
          | none => (none, s.tick)

/-- The ordered channel in which a message travels, as a list of numbers: returns and censuses of a stream to its producer
(R85), and what one context of a class, or a cell's engines and barrier operations, send to another package (R287, R336).
None: any order may come about. -/
def Event.channel (e : Event) : Option (List Nat) :=
  let a := e.args
  match e.instr with
  | .returnArrival => some [1, a.c, a.stream.toNat]
  | .censusArrival => some [1, a.c, a.ck.stream.toNat]
  | .chunkHopCheck =>
    if a.flag then some [1, a.c, a.stream.toNat] else if a.ck.census then some [1, a.c, a.ck.stream.toNat] else none
  | .packetInject =>
    match a.pk.body with
    | .request r => some [2, r.cell, r.ctx, r.oc, r.addr.toNat / 2 ^ 43]
    | .ret stream _ _ => some [3, a.pk.dst.toNat, a.pk.die.toNat, a.pk.cell.toNat, stream.toNat]
    | .chunk ck =>
      if ck.census then some [3, a.pk.dst.toNat, a.pk.die.toNat, a.pk.cell.toNat, ck.stream.toNat] else none
    | _ => none
  | _ => none

/-- The message in flight that comes when the k-th of them is delivered: the first of its ordered channel. -/
def State.firstOf (s : State) (k : Nat) : Nat :=
  match s.agenda[k]? with
  | none => k
  | some e =>
    match e.channel with
    | none => k
    | some ch => ((List.range k).find? fun i => ((s.agenda[i]?).bind Event.channel) == some ch).getD k

/-- The next move: the first of `sched`, else the default order. A delivery of a message that is not in flight changes
nothing else. Log entry 7, DESIGN CHOICE. Log entry 8, DESIGN CHOICE. -/
def State.nextMove (s : State) : Option Event × State :=
  match s.sched with
  | [] => s.defaultMove
  | a :: rest =>
    let s := { s with sched := rest }
    match a with
    | .event e => (some e, s)
    | .deliver k => (s.agenda[s.firstOf k]?, { s with agenda := s.agenda.eraseIdx (s.firstOf k) })
    | .issue c => (some ⟨.bundleIssue, { Args.empty with c := c }⟩, s)
    | .tick => (none, s.tick)
    | .perform c x seq part => (none, s.performPart c x seq part)
    | .lag b => (none, s.setLag b)
    | .describe f => (none, s.describe f)
    | .migrated => (none, s.migrated)

end Sys2Proof.Machine
end

