-- ==== Sys2Proof/Machine/Dispatch.lean ====
section
/-! DEFINITION. The meaning of every row of the opcode table: one arm per constructor of `Instr`, each a direct call. -/

namespace Sys2Proof.Machine
open Sys2Proof

def exec (i : Instr) (s : State) : Host.Outcome State Fault Refusal :=
  match i with
  | .add d a b m => Sys2Proof.Machine.execAdd d a b m s
  | .sub d a b m => Sys2Proof.Machine.execSub d a b m s
  | .mul d a b m => Sys2Proof.Machine.execMul d a b m s
  | .mulhs d a b m => Sys2Proof.Machine.execMulhs d a b m s
  | .mulhu d a b m => Sys2Proof.Machine.execMulhu d a b m s
  | .and d a b m => Sys2Proof.Machine.execAnd d a b m s
  | .or d a b m => Sys2Proof.Machine.execOr d a b m s
  | .xor d a b m => Sys2Proof.Machine.execXor d a b m s
  | .andn d a b m => Sys2Proof.Machine.execAndn d a b m s
  | .orn d a b m => Sys2Proof.Machine.execOrn d a b m s
  | .shl d a b m => Sys2Proof.Machine.execShl d a b m s
  | .shrl d a b m => Sys2Proof.Machine.execShrl d a b m s
  | .shra d a b m => Sys2Proof.Machine.execShra d a b m s
  | .rotl d a b m => Sys2Proof.Machine.execRotl d a b m s
  | .min d a b m => Sys2Proof.Machine.execMin d a b m s
  | .max d a b m => Sys2Proof.Machine.execMax d a b m s
  | .minu d a b m => Sys2Proof.Machine.execMinu d a b m s
  | .maxu d a b m => Sys2Proof.Machine.execMaxu d a b m s
  | .clz d a m => Sys2Proof.Machine.execClz d a m s
  | .ctz d a m => Sys2Proof.Machine.execCtz d a m s
  | .popc d a m => Sys2Proof.Machine.execPopc d a m s
  | .bswap d a m => Sys2Proof.Machine.execBswap d a m s
  | .extz d a b => Sys2Proof.Machine.execExtz d a b s
  | .exts d a b => Sys2Proof.Machine.execExts d a b s
  | .ins d a b => Sys2Proof.Machine.execIns d a b s
  | .addi d a im => Sys2Proof.Machine.execAddi d a im s
  | .andi d a im => Sys2Proof.Machine.execAndi d a im s
  | .ori d a im => Sys2Proof.Machine.execOri d a im s
  | .xori d a im => Sys2Proof.Machine.execXori d a im s
  | .shli d a im => Sys2Proof.Machine.execShli d a im s
  | .shrli d a im => Sys2Proof.Machine.execShrli d a im s
  | .shrai d a im => Sys2Proof.Machine.execShrai d a im s
  | .ldi d im => Sys2Proof.Machine.execLdi d im s
  | .ldis d im => Sys2Proof.Machine.execLdis d im s
  | .cmpEq k a b => Sys2Proof.Machine.execCmpEq k a b s
  | .cmpNe k a b => Sys2Proof.Machine.execCmpNe k a b s
  | .cmpLt k a b => Sys2Proof.Machine.execCmpLt k a b s
  | .cmpLe k a b => Sys2Proof.Machine.execCmpLe k a b s
  | .cmpGt k a b => Sys2Proof.Machine.execCmpGt k a b s
  | .cmpGe k a b => Sys2Proof.Machine.execCmpGe k a b s
  | .cmpLtu k a b => Sys2Proof.Machine.execCmpLtu k a b s
  | .cmpLeu k a b => Sys2Proof.Machine.execCmpLeu k a b s
  | .cmpGtu k a b => Sys2Proof.Machine.execCmpGtu k a b s
  | .cmpGeu k a b => Sys2Proof.Machine.execCmpGeu k a b s
  | .pand k a b => Sys2Proof.Machine.execPand k a b s
  | .por k a b => Sys2Proof.Machine.execPor k a b s
  | .pxor k a b => Sys2Proof.Machine.execPxor k a b s
  | .pandn k a b => Sys2Proof.Machine.execPandn k a b s
  | .cmpiEq k a im => Sys2Proof.Machine.execCmpiEq k a im s
  | .cmpiNe k a im => Sys2Proof.Machine.execCmpiNe k a im s
  | .cmpiLt k a im => Sys2Proof.Machine.execCmpiLt k a im s
  | .cmpiLe k a im => Sys2Proof.Machine.execCmpiLe k a im s
  | .cmpiGt k a im => Sys2Proof.Machine.execCmpiGt k a im s
  | .cmpiGe k a im => Sys2Proof.Machine.execCmpiGe k a im s
  | .cmpiLtu k a im => Sys2Proof.Machine.execCmpiLtu k a im s
  | .cmpiLeu k a im => Sys2Proof.Machine.execCmpiLeu k a im s
  | .cmpiGtu k a im => Sys2Proof.Machine.execCmpiGtu k a im s
  | .cmpiGeu k a im => Sys2Proof.Machine.execCmpiGeu k a im s
  | .br im => Sys2Proof.Machine.execBr im s
  | .call im => Sys2Proof.Machine.execCall im s
  | .brx a => Sys2Proof.Machine.execBrx a s
  | .callx a => Sys2Proof.Machine.execCallx a s
  | .loop a n => Sys2Proof.Machine.execLoop a n s
  | .brloop im => Sys2Proof.Machine.execBrloop im s
  | .trap im => Sys2Proof.Machine.execTrap im s
  | .waitt a => Sys2Proof.Machine.execWaitt a s
  | .waitev a => Sys2Proof.Machine.execWaitev a s
  | .bkpt im => Sys2Proof.Machine.execBkpt im s
  | .xlt d a b => Sys2Proof.Machine.execXlt d a b s
  | .xwait m => Sys2Proof.Machine.execXwait m s
  | .xpoll k e => Sys2Proof.Machine.execXpoll k e s
  | .csrr d c => Sys2Proof.Machine.execCsrr d c s
  | .csrw d c => Sys2Proof.Machine.execCsrw d c s
  | .csrs d c => Sys2Proof.Machine.execCsrs d c s
  | .csrc d c => Sys2Proof.Machine.execCsrc d c s
  | .rdtime d => Sys2Proof.Machine.execRdtime d s
  | .rdcyc d => Sys2Proof.Machine.execRdcyc d s
  | .ctrstart n => Sys2Proof.Machine.execCtrstart n s
  | .ctrstop n => Sys2Proof.Machine.execCtrstop n s
  | .tmark a im => Sys2Proof.Machine.execTmark a im s
  | .powreq u => Sys2Proof.Machine.execPowreq u s
  | .powrel u => Sys2Proof.Machine.execPowrel u s
  | .mvpq c q a => Sys2Proof.Machine.execMvpq c q a s
  | .mvqp d c q => Sys2Proof.Machine.execMvqp d c q s
  | .ld d a o z f => Sys2Proof.Machine.execLd d a o z f s
  | .ldz d a o z f => Sys2Proof.Machine.execLdz d a o z f s
  | .st d a o z f => Sys2Proof.Machine.execSt d a o z f s
  | .vld v a o x => Sys2Proof.Machine.execVld v a o x s
  | .vldSequenced v sr o => Sys2Proof.Machine.execVldSequenced v sr o s
  | .vst v a o x => Sys2Proof.Machine.execVst v a o x s
  | .vldc v a o c f => Sys2Proof.Machine.execVldc v a o c f s
  | .vstc v a o c f => Sys2Proof.Machine.execVstc v a o c f s
  | .vldq v a o q f => Sys2Proof.Machine.execVldq v a o q f s
  | .vstq v a o q f => Sys2Proof.Machine.execVstq v a o q f s
  | .lds d a o z f => Sys2Proof.Machine.execLds d a o z f s
  | .ldse d a o z f => Sys2Proof.Machine.execLdse d a o z f s
  | .stf d a o z f => Sys2Proof.Machine.execStf d a o z f s
  | .sete a o f => Sys2Proof.Machine.execSete a o f s
  | .amoadd d a o z f => Sys2Proof.Machine.execAmoadd d a o z f s
  | .amomin d a o z f => Sys2Proof.Machine.execAmomin d a o z f s
  | .amomax d a o z f => Sys2Proof.Machine.execAmomax d a o z f s
  | .amoand d a o z f => Sys2Proof.Machine.execAmoand d a o z f s
  | .amoor d a o z f => Sys2Proof.Machine.execAmoor d a o z f s
  | .amoxor d a o z f => Sys2Proof.Machine.execAmoxor d a o z f s
  | .amoswap d a o z f => Sys2Proof.Machine.execAmoswap d a o z f s
  | .amocas d a o z f => Sys2Proof.Machine.execAmocas d a o z f s
  | .ldF d a o z f => Sys2Proof.Machine.execLdF d a o z f s
  | .stF d a o z f => Sys2Proof.Machine.execStF d a o z f s
  | .vldF v a o x => Sys2Proof.Machine.execVldF v a o x s
  | .vstF v a o x => Sys2Proof.Machine.execVstF v a o x s
  | .amoaddF d a o z f => Sys2Proof.Machine.execAmoaddF d a o z f s
  | .amominF d a o z f => Sys2Proof.Machine.execAmominF d a o z f s
  | .amomaxF d a o z f => Sys2Proof.Machine.execAmomaxF d a o z f s
  | .amoandF d a o z f => Sys2Proof.Machine.execAmoandF d a o z f s
  | .amoorF d a o z f => Sys2Proof.Machine.execAmoorF d a o z f s
  | .amoxorF d a o z f => Sys2Proof.Machine.execAmoxorF d a o z f s
  | .amoswapF d a o z f => Sys2Proof.Machine.execAmoswapF d a o z f s
  | .amocasF d a o z f => Sys2Proof.Machine.execAmocasF d a o z f s
  | .ldFs d a o z f => Sys2Proof.Machine.execLdFs d a o z f s
  | .stFs d a o z f => Sys2Proof.Machine.execStFs d a o z f s
  | .vldFs v a o x => Sys2Proof.Machine.execVldFs v a o x s
  | .vstFs v a o x => Sys2Proof.Machine.execVstFs v a o x s
  | .amoaddFs d a o z f => Sys2Proof.Machine.execAmoaddFs d a o z f s
  | .amominFs d a o z f => Sys2Proof.Machine.execAmominFs d a o z f s
  | .amomaxFs d a o z f => Sys2Proof.Machine.execAmomaxFs d a o z f s
  | .amoandFs d a o z f => Sys2Proof.Machine.execAmoandFs d a o z f s
  | .amoorFs d a o z f => Sys2Proof.Machine.execAmoorFs d a o z f s
  | .amoxorFs d a o z f => Sys2Proof.Machine.execAmoxorFs d a o z f s
  | .amoswapFs d a o z f => Sys2Proof.Machine.execAmoswapFs d a o z f s
  | .amocasFs d a o z f => Sys2Proof.Machine.execAmocasFs d a o z f s
  | .fence m sr => Sys2Proof.Machine.execFence m sr s
  | .semit p a b => Sys2Proof.Machine.execSemit p a b s
  | .sfree t a => Sys2Proof.Machine.execSfree t a s
  | .sstat d n x => Sys2Proof.Machine.execSstat d n x s
  | .rot d a b => Sys2Proof.Machine.execRot d a b s
  | .ldred a b => Sys2Proof.Machine.execLdred a b s
  | .stmc d a b => Sys2Proof.Machine.execStmc d a b s
  | .arrive a => Sys2Proof.Machine.execArrive a s
  | .arrivex a b => Sys2Proof.Machine.execArrivex a b s
  | .bwait a => Sys2Proof.Machine.execBwait a s
  | .signal a b => Sys2Proof.Machine.execSignal a b s
  | .swait a b => Sys2Proof.Machine.execSwait a b s
  | .binit a b => Sys2Proof.Machine.execBinit a b s
  | .fadd d a b q t => Sys2Proof.Machine.execFadd d a b q t s
  | .fsub d a b q t => Sys2Proof.Machine.execFsub d a b q t s
  | .fmul d a b q t => Sys2Proof.Machine.execFmul d a b q t s
  | .fma d a b q t => Sys2Proof.Machine.execFma d a b q t s
  | .fms d a b q t => Sys2Proof.Machine.execFms d a b q t s
  | .fnma d a b q t => Sys2Proof.Machine.execFnma d a b q t s
  | .fnms d a b q t => Sys2Proof.Machine.execFnms d a b q t s
  | .fmin d a b q t => Sys2Proof.Machine.execFmin d a b q t s
  | .fmax d a b q t => Sys2Proof.Machine.execFmax d a b q t s
  | .fabs d a q t => Sys2Proof.Machine.execFabs d a q t s
  | .fneg d a q t => Sys2Proof.Machine.execFneg d a q t s
  | .frnd d a q t => Sys2Proof.Machine.execFrnd d a q t s
  | .fclass d a q t => Sys2Proof.Machine.execFclass d a q t s
  | .fcmpeq d a n q t => Sys2Proof.Machine.execFcmpeq d a n q t s
  | .fcmpne d a n q t => Sys2Proof.Machine.execFcmpne d a n q t s
  | .fcmplt d a n q t => Sys2Proof.Machine.execFcmplt d a n q t s
  | .fcmple d a n q t => Sys2Proof.Machine.execFcmple d a n q t s
  | .fcmpun d a n q t => Sys2Proof.Machine.execFcmpun d a n q t s
  | .iadd d a b q t => Sys2Proof.Machine.execIadd d a b q t s
  | .isub d a b q t => Sys2Proof.Machine.execIsub d a b q t s
  | .imul d a b q t => Sys2Proof.Machine.execImul d a b q t s
  | .imulh d a b q t => Sys2Proof.Machine.execImulh d a b q t s
  | .imad d a b q t => Sys2Proof.Machine.execImad d a b q t s
  | .imin d a b q t => Sys2Proof.Machine.execImin d a b q t s
  | .imax d a b q t => Sys2Proof.Machine.execImax d a b q t s
  | .iminu d a b q t => Sys2Proof.Machine.execIminu d a b q t s
  | .imaxu d a b q t => Sys2Proof.Machine.execImaxu d a b q t s
  | .iand d a b q t => Sys2Proof.Machine.execIand d a b q t s
  | .ior d a b q t => Sys2Proof.Machine.execIor d a b q t s
  | .ixor d a b q t => Sys2Proof.Machine.execIxor d a b q t s
  | .ishl d a b q t => Sys2Proof.Machine.execIshl d a b q t s
  | .ishrl d a b q t => Sys2Proof.Machine.execIshrl d a b q t s
  | .ishra d a b q t => Sys2Proof.Machine.execIshra d a b q t s
  | .iabs d a q t => Sys2Proof.Machine.execIabs d a q t s
  | .ipopc d a q t => Sys2Proof.Machine.execIpopc d a q t s
  | .iclz d a q t => Sys2Proof.Machine.execIclz d a q t s
  | .icmpeq d a n q t => Sys2Proof.Machine.execIcmpeq d a n q t s
  | .icmplt d a n q t => Sys2Proof.Machine.execIcmplt d a n q t s
  | .icmpltu d a n q t => Sys2Proof.Machine.execIcmpltu d a n q t s
  | .iadds d a b q t => Sys2Proof.Machine.execIadds d a b q t s
  | .isubs d a b q t => Sys2Proof.Machine.execIsubs d a b q t s
  | .clmul d a b q t => Sys2Proof.Machine.execClmul d a b q t s
  | .cvt d a c q => Sys2Proof.Machine.execCvt d a c q s
  | .packb d a f q => Sys2Proof.Machine.execPackb d a f q s
  | .unpkb d a f q => Sys2Proof.Machine.execUnpkb d a f q s
  | .cvtax d a b q => Sys2Proof.Machine.execCvtax d a b q s
  | .cvtxa d a b q => Sys2Proof.Machine.execCvtxa d a b q s
  | .mov d a q => Sys2Proof.Machine.execMov d a q s
  | .movi d im => Sys2Proof.Machine.execMovi d im s
  | .movs d sr => Sys2Proof.Machine.execMovs d sr s
  | .mvls a sr l => Sys2Proof.Machine.execMvls a sr l s
  | .sel d a b q t => Sys2Proof.Machine.execSel d a b q t s
  | .xcl d a q t => Sys2Proof.Machine.execXcl d a q t s
  | .perm d a b q t => Sys2Proof.Machine.execPerm d a b q t s
  | .compress d a n q t => Sys2Proof.Machine.execCompress d a n q t s
  | .expand d a q t => Sys2Proof.Machine.execExpand d a q t s
  | .rsum d a q t => Sys2Proof.Machine.execRsum d a q t s
  | .rmax d a q t => Sys2Proof.Machine.execRmax d a q t s
  | .rmin d a q t => Sys2Proof.Machine.execRmin d a q t s
  | .scan d a q t => Sys2Proof.Machine.execScan d a q t s
  | .xcopy d a c => Sys2Proof.Machine.execXcopy d a c s
  | .xbcast d a c => Sys2Proof.Machine.execXbcast d a c s
  | .lbcast d a l => Sys2Proof.Machine.execLbcast d a l s
  | .qand d a b => Sys2Proof.Machine.execQand d a b s
  | .qor d a b => Sys2Proof.Machine.execQor d a b s
  | .qxor d a b => Sys2Proof.Machine.execQxor d a b s
  | .qandn d a b => Sys2Proof.Machine.execQandn d a b s
  | .qset d a t => Sys2Proof.Machine.execQset d a t s
  | .qpop d a => Sys2Proof.Machine.execQpop d a s
  | .vcfgw a => Sys2Proof.Machine.execVcfgw a s
  | .rcp d a q t => Sys2Proof.Machine.execRcp d a q t s
  | .rsq d a q t => Sys2Proof.Machine.execRsq d a q t s
  | .sqrt d a q t => Sys2Proof.Machine.execSqrt d a q t s
  | .exp2 d a q t => Sys2Proof.Machine.execExp2 d a q t s
  | .log2 d a q t => Sys2Proof.Machine.execLog2 d a q t s
  | .tanh d a q t => Sys2Proof.Machine.execTanh d a q t s
  | .sigm d a q t => Sys2Proof.Machine.execSigm d a q t s
  | .erf d a q t => Sys2Proof.Machine.execErf d a q t s
  | .sin d a q t => Sys2Proof.Machine.execSin d a q t s
  | .cos d a q t => Sys2Proof.Machine.execCos d a q t s
  | .expe d a q t => Sys2Proof.Machine.execExpe d a q t s
  | .gelu d a q t => Sys2Proof.Machine.execGelu d a q t s
  | .mcfg w a => Sys2Proof.Machine.execMcfg w a s
  | .mwload sr m => Sys2Proof.Machine.execMwload sr m s
  | .mmul t sr q n => Sys2Proof.Machine.execMmul t sr q n s
  | .mmac t sr q n => Sys2Proof.Machine.execMmac t sr q n s
  | .mdrain t sr z r f => Sys2Proof.Machine.execMdrain t sr z r f s
  | .mzero t => Sys2Proof.Machine.execMzero t s
  | .mtrn t h => Sys2Proof.Machine.execMtrn t h s
  | .mscale t sr tgt => Sys2Proof.Machine.execMscale t sr tgt s
  | .mchk t x => Sys2Proof.Machine.execMchk t x s
  | .msave t sr r => Sys2Proof.Machine.execMsave t sr r s
  | .mrest t sr => Sys2Proof.Machine.execMrest t sr s
  | .mwait w k => Sys2Proof.Machine.execMwait w k s
  | .copy a b => Sys2Proof.Machine.execCopy a b s
  | .seqdef a b => Sys2Proof.Machine.execSeqdef a b s
  | .grpdef a b => Sys2Proof.Machine.execGrpdef a b s
  | .hpair a b => Sys2Proof.Machine.execHpair a b s
  | .trcfg a b => Sys2Proof.Machine.execTrcfg a b s
  | .enq a b => Sys2Proof.Machine.execEnq a b s
  | .bundleIssue => Sys2Proof.Machine.execBundleIssue s
  | .resultLand => Sys2Proof.Machine.execResultLand s
  | .interlockReturn => Sys2Proof.Machine.execInterlockReturn s
  | .waittWake => Sys2Proof.Machine.execWaittWake s
  | .nop => Sys2Proof.Machine.execNop s
  | .ret => Sys2Proof.Machine.execRet s
  | .eret => Sys2Proof.Machine.execEret s
  | .endt => Sys2Proof.Machine.execEndt s
  | .yield => Sys2Proof.Machine.execYield s
  | .rwflush => Sys2Proof.Machine.execRwflush s
  | .snop => Sys2Proof.Machine.execSnop s
  | .vnop => Sys2Proof.Machine.execVnop s
  | .mwswap => Sys2Proof.Machine.execMwswap s
  | .tarragonIdleClose => Sys2Proof.Machine.execTarragonIdleClose s
  | .matrixOpStart => Sys2Proof.Machine.execMatrixOpStart s
  | .matrixOpComplete => Sys2Proof.Machine.execMatrixOpComplete s
  | .copyh => Sys2Proof.Machine.execCopyh s
  | .fill => Sys2Proof.Machine.execFill s
  | .copyComplete => Sys2Proof.Machine.execCopyComplete s
  | .seqcond => Sys2Proof.Machine.execSeqcond s
  | .seqstop => Sys2Proof.Machine.execSeqstop s
  | .seqUnitFetch => Sys2Proof.Machine.execSeqUnitFetch s
  | .grpabort => Sys2Proof.Machine.execGrpabort s
  | .collExpRecord => Sys2Proof.Machine.execCollExpRecord s
  | .collExponentReturn => Sys2Proof.Machine.execCollExponentReturn s
  | .collRootChunk => Sys2Proof.Machine.execCollRootChunk s
  | .collResult => Sys2Proof.Machine.execCollResult s
  | .collRootTimeout => Sys2Proof.Machine.execCollRootTimeout s
  | .collFailureNotice => Sys2Proof.Machine.execCollFailureNotice s
  | .collMemberTimeout => Sys2Proof.Machine.execCollMemberTimeout s
  | .hpairComplete => Sys2Proof.Machine.execHpairComplete s
  | .hpennant => Sys2Proof.Machine.execHpennant s
  | .hstat => Sys2Proof.Machine.execHstat s
  | .pennantArrival => Sys2Proof.Machine.execPennantArrival s
  | .trflush => Sys2Proof.Machine.execTrflush s
  | .traceRecordWrite => Sys2Proof.Machine.execTraceRecordWrite s
  | .taskStartArrival => Sys2Proof.Machine.execTaskStartArrival s
  | .chunkArrival => Sys2Proof.Machine.execChunkArrival s
  | .chunkHopCheck => Sys2Proof.Machine.execChunkHopCheck s
  | .returnArrival => Sys2Proof.Machine.execReturnArrival s
  | .censusSend => Sys2Proof.Machine.execCensusSend s
  | .censusArrival => Sys2Proof.Machine.execCensusArrival s
  | .refusalArrival => Sys2Proof.Machine.execRefusalArrival s
  | .refusedChunkResend => Sys2Proof.Machine.execRefusedChunkResend s
  | .replayRequestArrival => Sys2Proof.Machine.execReplayRequestArrival s
  | .rotComplete => Sys2Proof.Machine.execRotComplete s
  | .preemptEvict => Sys2Proof.Machine.execPreemptEvict s
  | .taskResume => Sys2Proof.Machine.execTaskResume s
  | .powerGrant => Sys2Proof.Machine.execPowerGrant s
  | .launch => Sys2Proof.Machine.execLaunch s
  | .graphAccept => Sys2Proof.Machine.execGraphAccept s
  | .runNodeBind => Sys2Proof.Machine.execRunNodeBind s
  | .configLoad => Sys2Proof.Machine.execConfigLoad s
  | .configDrop => Sys2Proof.Machine.execConfigDrop s
  | .copyNodeStart => Sys2Proof.Machine.execCopyNodeStart s
  | .waitNode => Sys2Proof.Machine.execWaitNode s
  | .waitNodeTimeout => Sys2Proof.Machine.execWaitNodeTimeout s
  | .condNode => Sys2Proof.Machine.execCondNode s
  | .hringNode => Sys2Proof.Machine.execHringNode s
  | .hringIrqTimer => Sys2Proof.Machine.execHringIrqTimer s
  | .endNode => Sys2Proof.Machine.execEndNode s
  | .dcpSelect => Sys2Proof.Machine.execDcpSelect s
  | .dcpResume => Sys2Proof.Machine.execDcpResume s
  | .dcpStep => Sys2Proof.Machine.execDcpStep s
  | .dcpKill => Sys2Proof.Machine.execDcpKill s
  | .dcpPost => Sys2Proof.Machine.execDcpPost s
  | .trapRecordPost => Sys2Proof.Machine.execTrapRecordPost s
  | .fbPop => Sys2Proof.Machine.execFbPop s
  | .tqPop => Sys2Proof.Machine.execTqPop s
  | .elogPop => Sys2Proof.Machine.execElogPop s
  | .faultRecordPost => Sys2Proof.Machine.execFaultRecordPost s
  | .fbResp => Sys2Proof.Machine.execFbResp s
  | .xltInv => Sys2Proof.Machine.execXltInv s
  | .walkerTranslate => Sys2Proof.Machine.execWalkerTranslate s
  | .quarFree => Sys2Proof.Machine.execQuarFree s
  | .quarantineRelease => Sys2Proof.Machine.execQuarantineRelease s
  | .hostStagingAccess => Sys2Proof.Machine.execHostStagingAccess s
  | .registerWrite => Sys2Proof.Machine.execRegisterWrite s
  | .flitReceive => Sys2Proof.Machine.execFlitReceive s
  | .nackReceive => Sys2Proof.Machine.execNackReceive s
  | .laneLockLoss => Sys2Proof.Machine.execLaneLockLoss s
  | .linkSilenceTimeout => Sys2Proof.Machine.execLinkSilenceTimeout s
  | .retrainAttemptEnd => Sys2Proof.Machine.execRetrainAttemptEnd s
  | .linkEnable => Sys2Proof.Machine.execLinkEnable s
  | .packetInject => Sys2Proof.Machine.execPacketInject s
  | .packetForward => Sys2Proof.Machine.execPacketForward s
  | .e2eDeliver => Sys2Proof.Machine.execE2eDeliver s
  | .e2eAckReceive => Sys2Proof.Machine.execE2eAckReceive s
  | .e2eResendTimeout => Sys2Proof.Machine.execE2eResendTimeout s
  | .remoteRequest => Sys2Proof.Machine.execRemoteRequest s
  | .remoteResponse => Sys2Proof.Machine.execRemoteResponse s
  | .farAccessTimeout => Sys2Proof.Machine.execFarAccessTimeout s
  | .rtDataWrite => Sys2Proof.Machine.execRtDataWrite s
  | .generationSwap => Sys2Proof.Machine.execGenerationSwap s
  | .bootInj => Sys2Proof.Machine.execBootInj s
  | .bootAnnounce => Sys2Proof.Machine.execBootAnnounce s
  | .bootData => Sys2Proof.Machine.execBootData s
  | .bootVerify => Sys2Proof.Machine.execBootVerify s
  | .bootCommit => Sys2Proof.Machine.execBootCommit s
  | .bootReply => Sys2Proof.Machine.execBootReply s
  | .timeExchange => Sys2Proof.Machine.execTimeExchange s
  | .ptpSync => Sys2Proof.Machine.execPtpSync s
  | .ppsEdge => Sys2Proof.Machine.execPpsEdge s
  | .timeHoldover => Sys2Proof.Machine.execTimeHoldover s
  | .powerOverStep => Sys2Proof.Machine.execPowerOverStep s
  | .keyLoad => Sys2Proof.Machine.execKeyLoad s
  | .keyErase => Sys2Proof.Machine.execKeyErase s
  | .keyBindtx => Sys2Proof.Machine.execKeyBindtx s
  | .keyBindrx => Sys2Proof.Machine.execKeyBindrx s
  | .keyRekey => Sys2Proof.Machine.execKeyRekey s
  | .attestation => Sys2Proof.Machine.execAttestation s
  | .hostRingEnable => Sys2Proof.Machine.execHostRingEnable s
  | .hostRingTail => Sys2Proof.Machine.execHostRingTail s
  | .msixUnmask => Sys2Proof.Machine.execMsixUnmask s
  | .eccCorrectable => Sys2Proof.Machine.execEccCorrectable s
  | .eccUncorrectable => Sys2Proof.Machine.execEccUncorrectable s
  | .scrub => Sys2Proof.Machine.execScrub s
  | .shadowCompare => Sys2Proof.Machine.execShadowCompare s
  | .shadowTimeout => Sys2Proof.Machine.execShadowTimeout s
  | .regionKill => Sys2Proof.Machine.execRegionKill s
  | .dieFence => Sys2Proof.Machine.execDieFence s
  | .dcpWatchdogMiss => Sys2Proof.Machine.execDcpWatchdogMiss s
  | .linkRetire => Sys2Proof.Machine.execLinkRetire s
  | .streamReset => Sys2Proof.Machine.execStreamReset s
  | .pkgAdopt => Sys2Proof.Machine.execPkgAdopt s
  | .cmapRowWrite => Sys2Proof.Machine.execCmapRowWrite s
  | .cmapPairMove => Sys2Proof.Machine.execCmapPairMove s
  | .recArm => Sys2Proof.Machine.execRecArm s
  | .rwTableLoad => Sys2Proof.Machine.execRwTableLoad s
  | .rwTableLoadDone => Sys2Proof.Machine.execRwTableLoadDone s
  | .scanGo => Sys2Proof.Machine.execScanGo s
  | .scanDrainDone => Sys2Proof.Machine.execScanDrainDone s
  | .scanSegmentEnd => Sys2Proof.Machine.execScanSegmentEnd s
  | .scanAbort => Sys2Proof.Machine.execScanAbort s
  | .dieReset => Sys2Proof.Machine.execDieReset s
  | .tileTableReadTimeout => Sys2Proof.Machine.execTileTableReadTimeout s
  | .newerAttemptDrop => Sys2Proof.Machine.execNewerAttemptDrop s
  | .engineCommandComplete => Sys2Proof.Machine.execEngineCommandComplete s
  | .packageReset => Sys2Proof.Machine.execPackageReset s
  | .powerMeasurementUpdate => Sys2Proof.Machine.execPowerMeasurementUpdate s
  | .coolantAlarm => Sys2Proof.Machine.execCoolantAlarm s
  | .boundaryRetrainFailed => Sys2Proof.Machine.execBoundaryRetrainFailed s

end Sys2Proof.Machine
end

