-- ==== Sys2Proof/Machine/Step.lean ====
section
/-! DEFINITION. One step of the package: the next move of `State.nextMove`, executed by `exec`. -/

namespace Sys2Proof.Machine
open Sys2Proof

/-- One step: the event that moves next, with what takes part in it, or the advance of the clock.
Log entry 5, DESIGN CHOICE. -/
def step (s : State) : Host.Outcome State Fault Refusal :=
  match s.nextMove with
  | (some e, t) => exec e.instr { t with args := e.args }
  | (none, t) => .next t

/-- The state in which the instruction word `w` is the next to be issued: a bundle of one slot, its header and the word,
stands at the pc of the focus's context, that context is READY and holds the issue slot, no fault or step of it is pending,
and its cell moves next. Every encoded row of the table is one 32-bit slot word. Log entry 5, DESIGN CHOICE. -/
def State.withFetchWord (s : State) (_nbits w : Nat) : State :=
  let c := s.focus.cell
  let x := s.focus.ctx
  let word : W32 := BitVec.ofNat 32 w
  let pc := (s.ctxOf c x).pc
  let s := s.writeN (flat c 2 pc) 4 (encodeHeader (Header.single (tableSlot word))).toNat
  let s := s.writeN (flat c 2 (pc + 4)) 4 word.toNat
  let s := s.modCtxOf c x fun t => { t with
    st := .ready
    hold := .none
    redo := false
    late := []
    stepDone := false
    frozen := false
    frozeAt := none }
  let s := s.modCell c fun k => { k with
    cur := some x
    home := some x
    entering := false
    froze := false
    loading := false
    killed := false
    busyTil := 0 }
  { s with sched := Act.issue c :: s.sched }

end Sys2Proof.Machine
end

