-- ==== Sys2Proof/Safety.lean ====
section
/-! DEFINITION. What a run may rely on: the forms of the state that every operation keeps, and the words in which the
statements say what an instruction writes and what it leaves alone. -/

namespace Sys2Proof.Machine
open Sys2Proof

/-- The canonical form of memory: addresses strictly rising, no entry equal to what an unlisted address reads as. -/
abbrev Memory.wf (m : List Host.Cell) : Bool := Tab.wf memDefault m

/-- A step that gives a next state. -/
def Safe (s : State) : Prop := ∃ t, step s = .next t

/-- An instruction completes: it answers a next state, of which `P` holds. -/
def Completes (i : Instr) (s : State) (P : State → Prop) : Prop := ∃ t, exec i s = .next t ∧ P t

/-! ## Numbers (R138) -/

/-- The low w bits of a register, w as m selects, as an unsigned number. -/
def lowNat (m : BitVec 2) (x : W64) : Nat := x.toNat % 2 ^ widthOf m

/-- The same bits as a signed number. -/
def lowInt (m : BitVec 2) (x : W64) : Int :=
  if 2 ^ (widthOf m - 1) ≤ lowNat m x then (lowNat m x : Int) - 2 ^ widthOf m else lowNat m x

/-- What R138 writes for an exact result `r`: its low w bits, sign-extended for m = 1 and zero-extended otherwise. -/
def resultOf (m : BitVec 2) (r : Int) : W64 :=
  let u := r % 2 ^ widthOf m
  BitVec.ofInt 64 (if m = 1 ∧ 2 ^ 31 ≤ u then u - 2 ^ 32 else u)

/-! ## Writes of the issuing context, with their frames -/

/-- `t` is `s` with `v` written to scalar register `d` by `ws`: s0 keeps reading 0, every other register, predicate and
byte of memory is as before, and so is all else but results in flight to that register and the note that the next cycle's
result for it is written (R121). -/
def WritesScalar (s t : State) (d : BitVec 6) (v : W64) : Prop :=
  (∀ n : BitVec 6, t.ctx.rs n.toNat = if n = d ∧ d ≠ 0 then v else s.ctx.rs n.toNat) ∧
  (∀ a, t.byte a = s.byte a) ∧
  ∃ regs fl rn, t = s.modCtx (fun x => { x with s := regs, land := fl, reachNext := rn }) ∧
    (∀ r ∈ rn, r ∈ s.ctx.reachNext ∨ (r.kind = .scalar ∧ r.reg = d.toNat ∧ r.born = s.now)) ∧
    (∀ r ∈ s.ctx.reachNext, r ∈ rn) ∧
    (∀ e ∈ fl, ∃ o ∈ s.ctx.land, e = { o with seen := e.seen } ∧ (e = o ∨ (o.kind = .scalar ∧ o.reg = d.toNat))) ∧
    ∀ e ∈ s.ctx.land, ¬(e.kind = .scalar ∧ e.reg = d.toNat) → e ∈ fl

/-- `t` is `s` with a result queued for scalar register `d` that holds a reader until it lands `bound` cycles on (R122);
nothing is queued for s0, and nothing else changes. -/
def WritesScalarLate (s t : State) (d : BitVec 6) (v : W64) (bound : Nat) : Prop :=
  if d = 0 then t = s else
  ∃ e : Landing, t = s.modCtx (fun x => { x with land := x.land ++ [e] }) ∧
    e.kind = .scalar ∧ e.reg = d.toNat ∧ e.val.setWidth 64 = v ∧ e.due = s.now + bound ∧ e.held = true ∧
    e.flags = 0 ∧ ∀ a, t.byte a = s.byte a

/-- `t` is `s` with pair `k` written by `wpair`; p0 and p1 keep their values, and nothing else changes but the note that the
next cycle's result for the pair is written (R121). -/
def WritesPair (s t : State) (k : Nat) (c : Bool) : Prop :=
  (∀ n, n < 32 → t.ctx.pr n = if 2 ≤ n ∧ n / 2 = k then (if n % 2 = 0 then c else !c) else s.ctx.pr n) ∧
  (∀ a, t.byte a = s.byte a) ∧
  ∃ p, t = s.modCtx fun x => { x with p := p, reachNext := x.reachNext ++ [⟨.scalar, 0, pairReg k, 1, s.now⟩] }

/-- `t` is `s` after a taken transfer to `a` that is a flush point (R325): the next bundle address, the windows of both
engines with the value of RW_PERM in force for the bundle (R174), and nothing else. -/
def TransfersTo (s t : State) (a : Nat) : Prop :=
  t = s.modCtx fun x => Ctx.closeWith { x with pc := a } s.was.rwPerm

/-! ## Trap entry (R163, R164) -/

/-- The trap CSRs of a stop at (pc, slot) with a cause, information below 2^14 and done slots, beside those before. -/
def TrapCsrs (x y : Ctx) (pc slot cause info : Nat) (done : BitVec 14) : Prop :=
  y.trapPc.toNat = pc % 2 ^ 17 ∧ y.trapSlot.toNat = slot ∧ y.doneMask.toNat = done.toNat ∧
  y.trapCause.toNat = cause + (if x.supervisor then 2 ^ 8 else 0) + info * 2 ^ 16

/-- What no stop changes in a context: every register and predicate. -/
def SameRegisters (x y : Ctx) : Prop :=
  y.s = x.s ∧ y.p = x.p ∧ y.v = x.v ∧ y.q = x.q ∧ y.fpctl = x.fpctl ∧ y.loopState = x.loopState ∧ y.loopExec = x.loopExec

/-- Entry to the handler (R163). -/
def EntersHandler (x y : Ctx) (pc slot cause info : Nat) (done : BitVec 14) : Prop :=
  TrapCsrs x y pc slot cause info done ∧ SameRegisters x y ∧ y.supervisor = true ∧ y.hidden = true ∧
  y.trapVec = x.trapVec &&& ~~~1#64 ∧ y.pc = x.trapVec.toNat % 2 ^ 17 / 4 * 4 ∧ y.st = .ready

/-- Delivery to the DCP (R164). -/
def StopsForDcp (x y : Ctx) (pc slot cause info : Nat) (done : BitVec 14) : Prop :=
  TrapCsrs x y pc slot cause info done ∧ SameRegisters x y ∧ y.supervisor = x.supervisor ∧ y.trapVec = x.trapVec ∧
  y.hidden = x.hidden ∧ y.pc = pc ∧ y.st = .stopped

/-! ## Accesses -/

/-- What no memory access of a context changes in its bank: vector and predicate registers and the modes. -/
def SameModes (x y : Ctx) : Prop :=
  y.p = x.p ∧ y.v = x.v ∧ y.q = x.q ∧ y.supervisor = x.supervisor ∧ y.trapVec = x.trapVec ∧ y.fpctl = x.fpctl ∧
  y.loopState = x.loopState

/-- The flat address that a local form names. -/
def State.localKey (s : State) (ea : W64) : Nat := flatOf (s.localAddr s.focus.cell ea)

/-- The issuing context's local accesses are performed as they issue: the schedule delays none, none waits, and no release
of the context is on its way to its own cell. -/
def State.Prompt (s : State) : Prop :=
  s.lag = false ∧ s.ctx.pend = [] ∧ ∀ w, w ∈ s.ctx.awaits → s.barring s.focus.cell w = false

/-- A local access of memory that R74 allows, that meets no poisoned word, and no value watchpoint of the cell is enabled.
-/
def State.Clear (s : State) (ea : W64) (n align : Nat) (store sync amo : Bool) : Prop :=
  s.localError ea n align store sync amo = none ∧ aSpace ea ≠ 3 ∧ s.localPoison ea n = false ∧
  ∀ w, w < 4 → (s.here.wv.get 0 (4 * w + 1)).getLsbD 0 = false

/-- One that is also performed as it issues (log entry 8). -/
def State.Plain (s : State) (ea : W64) (n align : Nat) (store sync amo : Bool) : Prop :=
  s.Clear ea n align store sync amo ∧ s.Prompt

/-- The `n` bytes from `k` as one little-endian number (R5). -/
def State.numberAt (s : State) (k : Nat) : Nat → Nat
  | 0 => 0
  | n + 1 => s.numberAt k n + (s.byte (k + n)).toNat * 256 ^ n

/-- A number of `n` bytes taken signed. -/
def signedNumber (n v : Nat) : Int := if 2 ^ (8 * n - 1) ≤ v then (v : Int) - 2 ^ (8 * n) else v

/-- `t` holds the number `v` in the `n` bytes from `k`, and every other byte as in `s`. -/
def StoresAt (s t : State) (k n v : Nat) : Prop :=
  (∀ i, i < n → (t.byte (k + i)).toNat = v / 256 ^ i % 256) ∧ ∀ a, ¬(k ≤ a ∧ a < k + n) → t.byte a = s.byte a

/-- An error response's record (R167): the bit of the kind; address and information of the first violation, or MORE. -/
def RecordsViolation (x y : Ctx) (kind : Nat) (addr info : W64) : Prop :=
  y.errSticky.getLsbD kind = true ∧
  (x.errSticky = 0 → y.violAddr = addr ∧ y.violInfo.toNat = info.toNat + kind * 2 ^ 21) ∧
  (x.errSticky ≠ 0 → y.errSticky.getLsbD 7 = true ∧ y.violAddr = x.violAddr ∧ y.violInfo = x.violInfo)

/-- A result queued at the end of a context's results in flight. -/
def Queues (x y : Ctx) (e : Landing) : Prop := y.land = x.land ++ [e]

/-- An interlocked scalar result that issues at `now` and is due `bound` cycles on. -/
def scalarResult (d : BitVec 6) (v : W64) (now bound : Nat) : Landing :=
  ⟨.scalar, 0, d.toNat, v.setWidth 512, 0, 1, 0, 0, now + bound, true, now, 0⟩

/-- The request that a remote operation of ordering class `oc` sends. -/
def State.requestOf (s : State) (op oc : Nat) (sz : BitVec 2) (addr : W64) (data : List Byte) : RemoteReq :=
  ⟨s.pkg.number, s.focus.cell, s.focus.ctx, s.here.nextId, s.here.nextId, oc, BitVec.ofNat 8 op, sz, addr, data,
    s.was.supervisor, checkCode op addr data⟩

/-- A remote operation is on its way: its request is in flight, to a cell of this package or in a packet; its answer is
awaited under the number of the request; a time limit of 64 µs runs; and registers and memory are as before. -/
def Sends (s t : State) (op : Nat) (kind : AwaitKind) (reg : Nat) (sz : BitVec 2) (twin : Bool) (addr : W64)
    (data : List Byte) (oc : Nat) : Prop :=
  let r := s.requestOf op oc sz addr data
  (∃ e, e ∈ t.agenda ∧
    if aPkg addr = s.pkg.number then e.instr = .remoteRequest ∧ e.args.c = aCell addr ∧ e.args.req = r
    else e.instr = .packetInject ∧ e.args.pk.dst = aPkg addr ∧ e.args.pk.body = .request r) ∧
  (∃ w, t.ctx.awaits = s.ctx.awaits ++ [w] ∧ w.id = s.here.nextId ∧ w.kind = kind ∧ w.reg = reg ∧ w.twin = twin ∧
    w.addr = addr ∧ w.oc = oc ∧ w.answer = none) ∧
  (∃ e, e ∈ t.timers ∧ e.1 = s.elapsed + 64000 * 45000 ∧ e.2.instr = .farAccessTimeout) ∧
  t.here.nextId = s.here.nextId + 1 ∧ SameRegisters s.ctx t.ctx ∧ ∀ a, t.byte a = s.byte a

/-! ## Vector operations (R181-R189) -/

/-- Lane `j` of register `r` of cluster `cl` as an operation reads it: under REPLACE an empty lane is CONST. -/
def State.laneIn (s : State) (cl : Nat) (r : BitVec 5) (j : Nat) : W32 :=
  let v := s.was.vr cl r.toNat
  let w := (s.seen.vcfg.get 0 cl).toNat
  if v.emp.getLsbD j = true ∧ w % 4 = 1 then BitVec.ofNat 32 (w / 2 ^ 32) else v.val.extractLsb' (32 * j) 32

/-- An empty lane that the policy does not replace. -/
def State.laneGone (s : State) (cl : Nat) (r : BitVec 5) (j : Nat) : Prop :=
  (s.was.vr cl r.toNat).emp.getLsbD j = true ∧ (s.seen.vcfg.get 0 cl).toNat % 4 ≠ 1

/-- A cluster whose policy is STOP. -/
def State.stopsOnEmpty (s : State) (cl : Nat) : Prop := (s.seen.vcfg.get 0 cl).toNat % 4 = 2

/-- `t` is `s` with one exposed result per cluster queued for a register, to land `bound` cycles on, each as `P` says; all
else, memory included, is as before. -/
def LandsIn (s t : State) (kind : LandKind) (reg bound : Nat) (cls : List Nat) (P : Nat → Landing → Prop) : Prop :=
  ∃ es : List Landing, t = s.modCtx (fun x => { x with land := x.land ++ es }) ∧ es.map Landing.cl = cls ∧
    (∀ e, e ∈ es → e.kind = kind ∧ e.reg = reg ∧ e.due = s.now + bound ∧ e.held = false ∧ e.seen = 0 ∧ P e.cl e) ∧
    ∀ a, t.byte a = s.byte a

/-- A lane-wise operation under mask `q`, of source registers `rs`: in a cluster whose policy is STOP an empty lane inside
the mask stops the slot with INFO 16; under PROPAGATE it is written 0 and empty; every other lane inside the mask gets the
value that `R` relates to the source lanes and is full, and the flags are those of these lanes together. -/
def LaneWise (i : Instr) (s : State) (d : BitVec 5) (bound : Nat) (cls : List Nat) (rs : List (BitVec 5)) (q : BitVec 3)
    (R : List W32 → W32 → Prop) (F : List W32 → Flags) : Prop :=
  let inMask (cl j : Nat) : Prop := j < 16 ∧ (s.was.qr cl q.toNat).getLsbD j = true
  let gone (cl j : Nat) : Prop := ∃ r, r ∈ rs ∧ s.laneGone cl r j
  let xs (cl j : Nat) : List W32 := rs.map fun r => s.laneIn cl r j
  let stops : Prop := ∃ cl, cl ∈ cls ∧ s.stopsOnEmpty cl ∧ ∃ j, inMask cl j ∧ gone cl j
  (stops → Completes i s (· = s.stop 0x02 16)) ∧
  (¬stops → Completes i s fun t => LandsIn s t .vec d.toNat bound cls fun cl e =>
    (∀ j, j < 16 → (e.mask.getLsbD j = true ↔ inMask cl j)) ∧
    (∀ j, inMask cl j →
      (gone cl j → e.val.extractLsb' (32 * j) 32 = 0 ∧ e.emp.getLsbD j = true) ∧
      (¬gone cl j → R (xs cl j) (e.val.extractLsb' (32 * j) 32) ∧ e.emp.getLsbD j = false)) ∧
    ∀ b, e.flags.getLsbD b = true ↔ 8 ≤ b ∧ ∃ j, inMask cl j ∧ ¬gone cl j ∧ (F (xs cl j)).getLsbD (b - 8) = true)

/-- An integer operation on sub-elements of 32, 16 or 8 bits: in each, the result is `g w x y z` modulo 2^w, where x, y and
z are the sub-elements of the source registers (0 where there is none). -/
def IntegerLanes (i : Instr) (s : State) (d : BitVec 5) (rs : List (BitVec 5)) (q : BitVec 3) (t : BitVec 2)
    (g : Nat → Nat → Nat → Nat → Int) : Prop :=
  let w := if t = 0 then 32 else if t = 1 then 16 else 8
  let sub (xs : List W32) (n k : Nat) : Nat := (xs.getD n 0).toNat / 2 ^ (w * k) % 2 ^ w
  LaneWise i s d 4 s.clusters rs q (fun xs r => ∀ k, k < 32 / w →
    ((r.toNat / 2 ^ (w * k) % 2 ^ w : Nat) : Int) = g w (sub xs 0 k) (sub xs 1 k) (sub xs 2 k) % 2 ^ w) fun _ => 0

/-- A w-bit number taken signed. -/
def asSigned (w x : Nat) : Int := if 2 ^ (w - 1) ≤ x then (x : Int) - 2 ^ w else x

/-- A compare into lane predicate `n`: the bit of a lane inside the mask is `c` of the source lanes, and 0 outside it or,
under PROPAGATE, for an empty lane; the whole predicate lands. -/
def LaneCompare (i : Instr) (s : State) (n : BitVec 3) (bound : Nat) (rs : List (BitVec 5)) (q : BitVec 3)
    (c : List W32 → Prop) (F : List W32 → Flags) : Prop :=
  let inMask (cl j : Nat) : Prop := j < 16 ∧ (s.was.qr cl q.toNat).getLsbD j = true
  let gone (cl j : Nat) : Prop := ∃ r, r ∈ rs ∧ s.laneGone cl r j
  let xs (cl j : Nat) : List W32 := rs.map fun r => s.laneIn cl r j
  let stops : Prop := ∃ cl, cl ∈ s.clusters ∧ s.stopsOnEmpty cl ∧ ∃ j, inMask cl j ∧ gone cl j
  (stops → Completes i s (· = s.stop 0x02 16)) ∧
  (¬stops → Completes i s fun t => LandsIn s t .lanePred n.toNat bound s.clusters fun cl e =>
    e.mask = 0xFFFF ∧ (∀ j, j < 16 → (e.val.getLsbD j = true ↔ inMask cl j ∧ ¬gone cl j ∧ c (xs cl j))) ∧
    ∀ b, e.flags.getLsbD b = true ↔ 8 ≤ b ∧ ∃ j, inMask cl j ∧ ¬gone cl j ∧ (F (xs cl j)).getLsbD (b - 8) = true)

/-- A lane-wise operation whose lane j reads the register lanes `src`, each with its own index, under the mask `inMask`;
`also` names a cluster in which it stops as well. -/
def LaneWiseFrom (i : Instr) (s : State) (d : BitVec 5) (bound : Nat) (also : Nat → Prop) (inMask : Nat → Nat → Prop)
    (src : Nat → Nat → List (BitVec 5 × Nat)) (R : List W32 → Nat → W32 → Prop) (F : List W32 → Flags) : Prop :=
  let gone (cl j : Nat) : Prop := ∃ r, r ∈ src cl j ∧ s.laneGone cl r.1 r.2
  let xs (cl j : Nat) : List W32 := (src cl j).map fun r => s.laneIn cl r.1 r.2
  let stops : Prop := ∃ cl, cl ∈ s.clusters ∧ s.stopsOnEmpty cl ∧ (also cl ∨ ∃ j, j < 16 ∧ inMask cl j ∧ gone cl j)
  (stops → Completes i s (· = s.stop 0x02 16)) ∧
  (¬stops → Completes i s fun t => LandsIn s t .vec d.toNat bound s.clusters fun cl e =>
    (∀ j, j < 16 → (e.mask.getLsbD j = true ↔ inMask cl j)) ∧
    (∀ j, j < 16 → inMask cl j →
      (gone cl j → e.val.extractLsb' (32 * j) 32 = 0 ∧ e.emp.getLsbD j = true) ∧
      (¬gone cl j → R (xs cl j) j (e.val.extractLsb' (32 * j) 32) ∧ e.emp.getLsbD j = false)) ∧
    ∀ b, e.flags.getLsbD b = true ↔ 8 ≤ b ∧ ∃ j, j < 16 ∧ inMask cl j ∧ ¬gone cl j ∧ (F (xs cl j)).getLsbD (b - 8) = true)

/-- An operation that makes a whole register of the lanes of `a` that `reads` names: an empty one of them stops the slot
with INFO 16 in a cluster whose policy is STOP; under PROPAGATE every lane of the result is 0 and empty; else the result
is as `P` says, with the flags `F` of the cluster. -/
def WholeWise (i : Instr) (s : State) (d a : BitVec 5) (bound : Nat) (reads : Nat → Nat → Prop)
    (P : Nat → Landing → Prop) (F : Nat → Flags) : Prop :=
  let gone (cl : Nat) : Prop := ∃ j, j < 16 ∧ reads cl j ∧ s.laneGone cl a j
  let stops : Prop := ∃ cl, cl ∈ s.clusters ∧ s.stopsOnEmpty cl ∧ gone cl
  (stops → Completes i s (· = s.stop 0x02 16)) ∧
  (¬stops → Completes i s fun t => LandsIn s t .vec d.toNat bound s.clusters fun cl e =>
    (gone cl → e.val = 0 ∧ e.emp = 0xFFFF ∧ e.mask = 0xFFFF ∧ e.flags = 0) ∧
    (¬gone cl → P cl e ∧ e.emp = 0 ∧ ∀ b, e.flags.getLsbD b = true ↔ 8 ≤ b ∧ (F cl).getLsbD (b - 8) = true))

/-- A movement of lanes: in each cluster, lane j of the destination gets value and empty bit of `f` where it is written. -/
def LaneMove (i : Instr) (s : State) (d : BitVec 5) (bound : Nat) (f : Nat → Nat → Option (W32 × Bool)) : Prop :=
  Completes i s fun t => LandsIn s t .vec d.toNat bound s.clusters fun cl e => e.flags = 0 ∧ ∀ j, j < 16 →
    match f cl j with
    | none => e.mask.getLsbD j = false
    | some v => e.mask.getLsbD j = true ∧ e.val.extractLsb' (32 * j) 32 = v.1 ∧ e.emp.getLsbD j = v.2

/-- A lane of a register with its empty bit. -/
def State.laneOf (s : State) (cl : Nat) (r : BitVec 5) (j : Nat) : W32 × Bool :=
  ((s.was.vr cl r.toNat).val.extractLsb' (32 * j) 32, (s.was.vr cl r.toNat).emp.getLsbD j)

/-! ## Engines -/

/-- `u` is `s` with an operation of the issuing slot at the end of the queue of its matrix engine, `m` before it, after
Tarragon has looked at the queue; without rules it stands as it entered. Nothing but the engine and the context's mark of
its last M entry has changed before that. -/
def State.EntersQueue (s : State) (op tile aux : Nat) (v : W64) (stream : Option Nat) (m : MatEngine) (u : State) : Prop :=
  let e := 9 - s.focus.slot
  ∃ (n : MEntry) (w : State),
    n.ctx = s.focus.ctx ∧ n.op = op ∧ n.t = tile ∧ n.aux.toNat = aux ∧ n.sval = v ∧ n.stream = stream ∧
    n.factor = none ∧ n.origins = [(s.focus.pc, s.focus.slot)] ∧ n.window = s.ctx.window.get 0 e ∧ n.inhibited = false ∧
    n.kept = false ∧ n.supervisor = s.was.supervisor ∧ n.data = [] ∧ n.spans = [] ∧ n.at_ = s.now ∧ n.past = [] ∧
    n.born = [s.now] ∧
    w = (s.modMat s.focus.cell e fun _ => { m with queue := m.queue ++ [n] }).modCtx
      (fun y => { y with lastM := y.lastM.ins e s.now }) ∧
    u = (w.rewrite s.focus.cell s.focus.ctx e).post .matrixOpStart { Args.empty with c := s.focus.cell, e := e } ∧
    (s.here.rwRules = [] → w.rewrite s.focus.cell s.focus.ctx e = w)

end Sys2Proof.Machine
end

