-- ==== Sys2Proof/Certificates/Slice0/Obligations.lean ====
section
/-! DEFINITION. The statements for the provers. -/

section
open Sys2Proof Sys2Proof.Machine

/-- Each of the eighteen register-register operations completes from every state and, at the width that m selects,
writes the result of its row: sums and differences modulo 2^w, the low or the high half of the product, the bitwise
operations, the shifts by the low bits of y, and the smaller or larger operand. MUL, MULHS and MULHU deliver theirs
as an interlocked result after 3 cycles; a write of s0 is discarded, and nothing else changes. (R138, R139) -/
def Obligations.RegisterOperations : Prop :=
  ∀ (s : State) (d a b : BitVec 6) (m : BitVec 2),
    let w := widthOf m
    let x := lowNat m (s.rs a)
    let y := lowNat m (s.rs b)
    let xs := lowInt m (s.rs a)
    let ys := lowInt m (s.rs b)
    let n := y % w
    let wr (r : Int) (t : State) : Prop := WritesScalar s t d (resultOf m r)
    let late (r : Int) (t : State) : Prop := WritesScalarLate s t d (resultOf m r) 3
    Completes (.add d a b m) s (wr (x + y)) ∧
    Completes (.sub d a b m) s (wr (x - y)) ∧
    Completes (.mul d a b m) s (late (x * y)) ∧
    Completes (.mulhs d a b m) s (late (xs * ys / 2 ^ w)) ∧
    Completes (.mulhu d a b m) s (late (x * y / 2 ^ w)) ∧
    Completes (.and d a b m) s (wr (x &&& y : Nat)) ∧
    Completes (.or d a b m) s (wr (x ||| y : Nat)) ∧
    Completes (.xor d a b m) s (wr (x ^^^ y : Nat)) ∧
    Completes (.andn d a b m) s (wr (x &&& (2 ^ w - 1 - y) : Nat)) ∧
    Completes (.orn d a b m) s (wr (x ||| (2 ^ w - 1 - y) : Nat)) ∧
    Completes (.shl d a b m) s (wr (x * 2 ^ n)) ∧
    Completes (.shrl d a b m) s (wr (x / 2 ^ n)) ∧
    Completes (.shra d a b m) s (wr (xs / 2 ^ n)) ∧
    Completes (.rotl d a b m) s (wr (x * 2 ^ n + x / 2 ^ (w - n))) ∧
    Completes (.min d a b m) s (wr (if xs ≤ ys then xs else ys)) ∧
    Completes (.max d a b m) s (wr (if xs ≤ ys then ys else xs)) ∧
    Completes (.minu d a b m) s (wr (if x ≤ y then x else y)) ∧
    Completes (.maxu d a b m) s (wr (if x ≤ y then y else x))

/-- CLZ writes the number r of leading zero bits of x in w bits, which is w for 0; CTZ the number of trailing zero bits,
which is w for 0; POPC the number of one bits; BSWAP the w/8 bytes in reverse order. Each completes from every state
and changes nothing but its destination. (R140) -/
def Obligations.UnaryOperations : Prop :=
  ∀ (s : State) (d a : BitVec 6) (m : BitVec 2),
    let w := widthOf m
    let x := lowNat m (s.rs a)
    let wr (r : Nat) (t : State) : Prop := WritesScalar s t d (resultOf m r)
    (∃ r, r ≤ w ∧ x < 2 ^ (w - r) ∧ (r < w → 2 ^ (w - r - 1) ≤ x) ∧ Completes (.clz d a m) s (wr r)) ∧
    (∃ r, r ≤ w ∧ (∀ i, i < r → x.testBit i = false) ∧ (r < w → x.testBit r = true) ∧ Completes (.ctz d a m) s (wr r)) ∧
    Completes (.popc d a m) s (wr ((List.range w).filter fun i => x.testBit i).length) ∧
    (∃ r, r < 2 ^ w ∧ (∀ i, i < w / 8 → r / 256 ^ i % 256 = x / 256 ^ (w / 8 - 1 - i) % 256) ∧
      Completes (.bswap d a m) s (wr r))

/-- With pos = rs(b)[5:0] and len = rs(b)[14:8], a field that is empty, longer than 64 bits or beyond bit 63 raises
ILLEGAL_SLOT with INFO 1. Any other completes: EXTZ writes the field zero-extended, EXTS sign-extended, and INS the
old destination with the field replaced by the low bits of sa. (R141) -/
def Obligations.FieldOperations : Prop :=
  ∀ (s : State) (d a b : BitVec 6),
    let x := (s.rs a).toNat
    let pos := (s.rs b).toNat % 64
    let len := (s.rs b).toNat / 256 % 128
    let f := x / 2 ^ pos % 2 ^ len
    if len = 0 ∨ 64 < len ∨ 64 < pos + len then
      Completes (.extz d a b) s (· = s.stop 0x02 1) ∧ Completes (.exts d a b) s (· = s.stop 0x02 1) ∧
      Completes (.ins d a b) s (· = s.stop 0x02 1)
    else
      Completes (.extz d a b) s (fun t => WritesScalar s t d (BitVec.ofNat 64 f)) ∧
      Completes (.exts d a b) s (fun t =>
        WritesScalar s t d (BitVec.ofInt 64 (if f < 2 ^ (len - 1) then (f : Int) else (f : Int) - 2 ^ len))) ∧
      ∃ r : W64, (∀ i, i < 64 → r.getLsbD i =
          if pos ≤ i ∧ i < pos + len then (s.rs a).getLsbD (i - pos) else (s.rs d).getLsbD i) ∧
        Completes (.ins d a b) s (fun t => WritesScalar s t d r)

/-- ADDI, ANDI, ORI and XORI work on the sign-extended immediate; the immediate shifts shift by imm8[5:0], SHRAI filling
with bit 63; LDI writes its sign-extended immediate and LDIS shifts the destination left by 14 bits and ORs its
immediate in. Each completes from every state and changes nothing but its destination. (R142, R143) -/
def Obligations.ImmediateOperations : Prop :=
  ∀ (s : State) (d a n : BitVec 6) (i : BitVec 8) (l : BitVec 14),
    let x := s.rs a
    let wr (v : W64) (t : State) : Prop := WritesScalar s t d v
    Completes (.addi d a i) s (wr (BitVec.ofInt 64 (x.toInt + i.toInt))) ∧
    (∃ v : W64, (∀ j, j < 64 → v.getLsbD j = (x.getLsbD j && i.getLsbD (Nat.min j 7))) ∧ Completes (.andi d a i) s (wr v)) ∧
    (∃ v : W64, (∀ j, j < 64 → v.getLsbD j = (x.getLsbD j || i.getLsbD (Nat.min j 7))) ∧ Completes (.ori d a i) s (wr v)) ∧
    (∃ v : W64, (∀ j, j < 64 → v.getLsbD j = xor (x.getLsbD j) (i.getLsbD (Nat.min j 7))) ∧
      Completes (.xori d a i) s (wr v)) ∧
    Completes (.shli d a n) s (wr (BitVec.ofNat 64 (x.toNat * 2 ^ n.toNat))) ∧
    Completes (.shrli d a n) s (wr (BitVec.ofNat 64 (x.toNat / 2 ^ n.toNat))) ∧
    Completes (.shrai d a n) s (wr (BitVec.ofInt 64 (x.toInt / 2 ^ n.toNat))) ∧
    Completes (.ldi d l) s (wr (BitVec.ofInt 64 l.toInt)) ∧
    Completes (.ldis d l) s (wr (BitVec.ofNat 64 ((s.rs d).toNat * 2 ^ 14 + l.toNat)))

/-- Each compare writes pair k with its condition on x = rs(a) and y = rs(b) or the sign-extended immediate, signed or
unsigned in 64 bits, and each predicate operation with its function of two predicates. All complete from every
state; p0 and p1 keep their values, and no other predicate and nothing else changes. (R144, R145) -/
def Obligations.Compares : Prop :=
  ∀ (s : State) (k : BitVec 4) (a b : BitVec 6) (i : BitVec 8) (p q : BitVec 5),
    let x := s.rs a
    let y := s.rs b
    let z : W64 := BitVec.ofInt 64 i.toInt
    let wp (c : Prop) (t : State) : Prop := ∃ v : Bool, (v = true ↔ c) ∧ WritesPair s t k.toNat v
    let u := s.pr p.toNat
    let v := s.pr q.toNat
    (Completes (.cmpEq k a b) s (wp (x.toNat = y.toNat)) ∧ Completes (.cmpNe k a b) s (wp (x.toNat ≠ y.toNat)) ∧
      Completes (.cmpLt k a b) s (wp (x.toInt < y.toInt)) ∧ Completes (.cmpLe k a b) s (wp (x.toInt ≤ y.toInt)) ∧
      Completes (.cmpGt k a b) s (wp (y.toInt < x.toInt)) ∧ Completes (.cmpGe k a b) s (wp (y.toInt ≤ x.toInt)) ∧
      Completes (.cmpLtu k a b) s (wp (x.toNat < y.toNat)) ∧ Completes (.cmpLeu k a b) s (wp (x.toNat ≤ y.toNat)) ∧
      Completes (.cmpGtu k a b) s (wp (y.toNat < x.toNat)) ∧ Completes (.cmpGeu k a b) s (wp (y.toNat ≤ x.toNat))) ∧
    (Completes (.cmpiEq k a i) s (wp (x.toNat = z.toNat)) ∧ Completes (.cmpiNe k a i) s (wp (x.toNat ≠ z.toNat)) ∧
      Completes (.cmpiLt k a i) s (wp (x.toInt < i.toInt)) ∧ Completes (.cmpiLe k a i) s (wp (x.toInt ≤ i.toInt)) ∧
      Completes (.cmpiGt k a i) s (wp (i.toInt < x.toInt)) ∧ Completes (.cmpiGe k a i) s (wp (i.toInt ≤ x.toInt)) ∧
      Completes (.cmpiLtu k a i) s (wp (x.toNat < z.toNat)) ∧ Completes (.cmpiLeu k a i) s (wp (x.toNat ≤ z.toNat)) ∧
      Completes (.cmpiGtu k a i) s (wp (z.toNat < x.toNat)) ∧ Completes (.cmpiGeu k a i) s (wp (z.toNat ≤ x.toNat))) ∧
    Completes (.pand k p q) s (wp (u = true ∧ v = true)) ∧ Completes (.por k p q) s (wp (u = true ∨ v = true)) ∧
    Completes (.pxor k p q) s (wp (u ≠ v)) ∧ Completes (.pandn k p q) s (wp (u = true ∧ v = false))

/-- For a target within 0 to 0x1_FFFC, BR makes pc + 4 × disp20 the next bundle address of the context and CALL does the
same and writes next_pc to s62; both close the Tarragon windows and change nothing else. A target outside makes the
bundle illegal (R117): the slot run by itself stops with ILLEGAL_BUNDLE. (R117, R147) -/
def Obligations.DirectTransfers : Prop :=
  ∀ (s : State) (i : BitVec 20),
    let g : Int := s.focus.pc + 4 * i.toInt
    (0 ≤ g → g ≤ 0x1FFFC →
      Completes (.br i) s (fun t => TransfersTo s t g.toNat) ∧
      Completes (.call i) s fun t =>
        ∃ u, WritesScalar s u 62 (BitVec.ofNat 64 s.focus.next) ∧ TransfersTo u t g.toNat) ∧
    (g < 0 ∨ 0x1FFFC < g → Completes (.br i) s (· = s.stop 0x01 0) ∧ Completes (.call i) s (· = s.stop 0x01 0))

/-- The target is the register as it stood at the end of the previous cycle. If it is a multiple of 4 below 0x2_0000,
BRX and RET (of s62) jump to it, and CALLX writes next_pc to s62 and jumps; otherwise the slot raises ILLEGAL_SLOT
with INFO 2, and neither the jump nor the link write takes place. (R147, R149) -/
def Obligations.IndirectTransfers : Prop :=
  ∀ (s : State) (a : BitVec 6),
    let old (n : BitVec 6) : W64 := ((s.was.stale.find? fun e => e.1 == n.toNat).map Prod.snd).getD (s.rs n)
    let ok (n : BitVec 6) : Prop := (old n).toNat % 4 = 0 ∧ (old n).toNat < 0x20000
    (ok a → Completes (.brx a) s (fun t => TransfersTo s t (old a).toNat) ∧
      Completes (.callx a) s fun t =>
        ∃ u, WritesScalar s u 62 (BitVec.ofNat 64 s.focus.next) ∧ TransfersTo u t (old a).toNat) ∧
    (ok 62 → Completes .ret s fun t => TransfersTo s t (old 62).toNat) ∧
    (¬ok a → Completes (.brx a) s (· = s.stop 0x02 2) ∧ Completes (.callx a) s (· = s.stop 0x02 2)) ∧
    (¬ok 62 → Completes .ret s (· = s.stop 0x02 2))

/-- With rs(a)[63:32] zero, LOOP stores T and N, sets E to 0, makes p16 to p(15 + n) the stage predicates of execution
0, and leaves every other predicate, every register and all memory as they are. Otherwise it raises ILLEGAL_SLOT
with INFO 3. (R154) -/
def Obligations.LoopStart : Prop :=
  ∀ (s : State) (a : BitVec 6) (n : BitVec 5), n.toNat ≤ 16 →
    ((s.rs a).toNat < 2 ^ 32 → Completes (.loop a n) s fun t =>
      (∀ j, j < 32 → t.ctx.pr j = if 16 ≤ j ∧ j < 16 + n.toNat then decide (j = 16 ∧ 0 < (s.rs a).toNat)
        else s.ctx.pr j) ∧
      t.ctx.loopState.toNat = (s.rs a).toNat + n.toNat * 2 ^ 32 ∧ t.ctx.loopExec = 0 ∧
      ∃ p l e, t = s.modCtx fun x => { x with p := p, loopState := l, loopExec := e }) ∧
    (2 ^ 32 ≤ (s.rs a).toNat → Completes (.loop a n) s (· = s.stop 0x02 3))

/-- In a loop of T iterations and N stages in execution E, BRLOOP with a target within the store sets E + 1; if T is
positive and E + 1 is below T + N − 1 it makes p(16 + j) true exactly where j ≤ E + 1 and E + 1 − j < T, and jumps;
otherwise the stage predicates become false and the loop state 0. With no active loop it raises ILLEGAL_SLOT with
INFO 4; a target outside the store makes the bundle illegal. It is no flush point, and nothing else changes. (R152,
R154) -/
def Obligations.LoopBranch : Prop :=
  ∀ (s : State) (i : BitVec 20),
    let T := s.was.loopState.toNat % 2 ^ 32
    let N := s.was.loopState.toNat / 2 ^ 32 % 32
    let E := s.was.loopExec.toNat % 2 ^ 33 + 1
    let g : Int := s.focus.pc + 4 * i.toInt
    let stages (live : Nat → Prop) (t : State) : Prop := ∀ j, j < 32 →
      (16 ≤ j ∧ j < 16 + N → (t.ctx.pr j = true ↔ live (j - 16))) ∧ (¬(16 ≤ j ∧ j < 16 + N) → t.ctx.pr j = s.ctx.pr j)
    N ≤ 16 →
    (N = 0 → Completes (.brloop i) s (· = s.stop 0x02 4)) ∧
    (0 < N → g < 0 ∨ 0x1FFFC < g → Completes (.brloop i) s (· = s.stop 0x01 0)) ∧
    (0 < N → 0 ≤ g → g ≤ 0x1FFFC →
      if 0 < T ∧ E < T + N - 1 then
        Completes (.brloop i) s fun t => stages (fun j => j ≤ E ∧ E - j < T) t ∧ t.ctx.pc = g.toNat ∧
          t.ctx.loopExec.toNat = E ∧ ∃ p e, t = s.modCtx fun x => { x with p := p, loopExec := e, pc := g.toNat }
      else
        Completes (.brloop i) s fun t => stages (fun _ => False) t ∧ t.ctx.loopState = 0 ∧ t.ctx.loopExec = 0 ∧
          ∃ p, t = s.modCtx fun x => { x with p := p, loopState := 0, loopExec := 0 })

/-- For a cause that R161 delivers to TRAP_VEC and V = 1, taking a stop writes TRAP_PC, TRAP_SLOT, DONE_MASK and
TRAP_CAUSE with the mode before, enters supervisor mode with V = 0 at ADDR, and saves no register: every scalar,
vector and predicate register, every byte of memory and every other context is as before. The handler's first bundle
issues no earlier than the third cycle after. (R163) -/
def Obligations.TrapEntry : Prop :=
  ∀ (s : State) (c x pc slot cause info : Nat) (done : BitVec 14),
    cause ∈ [0x01, 0x02, 0x03, 0x04, 0x09, 0x0A, 0x0C] → slot < 16 → info < 2 ^ 14 →
    (s.ctxOf c x).trapVec.getLsbD 0 = true →
    let t := s.takeStop c x pc slot cause info done
    EntersHandler (s.ctxOf c x) (t.ctxOf c x) pc slot cause info done ∧ (t.cell c).busyTil = s.clock c + 3 ∧
    (∀ a, t.byte a = s.byte a) ∧ ∀ c' x', ¬(c' = c ∧ x' = x) → t.ctxOf c' x' = s.ctxOf c' x'

/-- For a cause that R161 delivers to the DCP, or with V = 0, taking a stop writes the same CSR values but keeps MODE
and TRAP_VEC, the context becomes STOPPED and gives up the issue slot, and a trap record is sent to the DCP;
registers, memory and every other context are as before. (R164) -/
def Obligations.StopForDcp : Prop :=
  ∀ (s : State) (c x pc slot cause info : Nat) (done : BitVec 14),
    (cause ∉ [0x01, 0x02, 0x03, 0x04, 0x09, 0x0A, 0x0C] ∨ (s.ctxOf c x).trapVec.getLsbD 0 = false) →
    slot < 16 → cause < 2 ^ 8 → info < 2 ^ 14 →
    let t := s.takeStop c x pc slot cause info done
    StopsForDcp (s.ctxOf c x) (t.ctxOf c x) pc slot cause info done ∧ (t.cell c).cur ≠ some x ∧
    ⟨.trapRecordPost, { Args.empty with die := c / 256, c := c, x := x }⟩ ∈ t.agenda ∧
    (∀ a, t.byte a = s.byte a) ∧ ∀ c' x', ¬(c' = c ∧ x' = x) → t.ctxOf c' x' = s.ctxOf c' x'

/-- A TRAP run by itself enters the handler with cause 0x04, INFO = imm14 and its own slot done where V = 1, and stops
for the DCP with the same where V = 0; BKPT stops for the DCP with cause 0x05, whatever V is. Within a bundle each
hands its stop to the bundle's R160 decision and changes nothing else. (R166, R163, R164) -/
def Obligations.TrapInstructions : Prop :=
  ∀ (s : State) (i : BitVec 14), s.focus.slot < 14 →
    let f := s.focus
    let done : BitVec 14 := BitVec.ofNat 14 (2 ^ f.slot)
    (f.inBundle = false → s.ctx.trapVec.getLsbD 0 = true →
      Completes (.trap i) s fun t => EntersHandler s.ctx t.ctx f.pc f.slot 4 i.toNat done) ∧
    (f.inBundle = false → s.ctx.trapVec.getLsbD 0 = false →
      Completes (.trap i) s fun t => StopsForDcp s.ctx t.ctx f.pc f.slot 4 i.toNat done) ∧
    (f.inBundle = false →
      Completes (.bkpt i) s fun t => StopsForDcp s.ctx t.ctx f.pc f.slot 5 i.toNat done) ∧
    (f.inBundle = true →
      Completes (.trap i) s (· = { s with focus := { f with stops := f.stops ++ [(f.slot, 4, i.toNat)] } }) ∧
      Completes (.bkpt i) s (· = { s with focus := { f with stops := f.stops ++ [(f.slot, 5, i.toNat)] } }))

/-- In supervisor mode ERET sets MODE to PMODE and V to the hidden bit, which it clears; it jumps past the bundle at
TRAP_PC and clears DONE_MASK if that bundle has a present slot and every present slot is done, and else to that
bundle, to issue with only its slots not done. In user mode it raises PRIV. No register, predicate or byte of memory
changes. It acts by the trap CSRs as its bundle finds them; what it does to TRAP_VEC and DONE_MASK is stated for a
bundle that writes neither itself. (R165) -/
def Obligations.ReturnFromTrap : Prop :=
  ∀ (s : State),
    let x := s.ctx
    let w := s.was
    let a := w.trapPc.toNat
    let h := decodeHeader (s.fetch s.focus.cell a)
    let all := h.presence ≠ 0 ∧ ∀ j, j < 14 → h.presence.getLsbD j = true → w.doneMask.getLsbD j = true
    let unwritten := x.trapVec = w.trapVec ∧ x.hidden = w.hidden ∧ x.doneMask = w.doneMask
    (s.was.supervisor = true → Completes .eret s fun t =>
      t.ctx.supervisor = w.trapCause.getLsbD 8 ∧
      (unwritten → t.ctx.trapVec.getLsbD 0 = w.hidden ∧ t.ctx.hidden = false ∧
        (∀ j, 0 < j → t.ctx.trapVec.getLsbD j = w.trapVec.getLsbD j) ∧ (all → t.ctx.doneMask = 0)) ∧
      (all → t.ctx.pc = a + 4 * (1 + h.slots.length) ∧ t.ctx.redo = false) ∧
      (¬all → t.ctx.pc = a ∧ t.ctx.doneMask = x.doneMask ∧ t.ctx.redo = true) ∧
      SameRegisters x t.ctx ∧ (∀ b, t.byte b = s.byte b) ∧
      ∀ c' x', ¬(c' = s.focus.cell ∧ x' = s.focus.ctx) → t.ctxOf c' x' = s.ctxOf c' x') ∧
    (s.was.supervisor = false → Completes .eret s (· = s.stop 0x03 0))

/-- YIELD leaves the context as it is and gives up the issue slot. WAITT does nothing where TIME has reached rs(a) and
else leaves the context WAITING for it. WAITEV does nothing where its mask is empty or an event of it is pending,
leaves the context WAITING on it otherwise, and raises ILLEGAL_SLOT with INFO 5 for reserved mask bits. XWAIT does
nothing while no named engine is busy for the context, and else holds the bundle. None of them changes a register, a
predicate or memory. (R155, R156, R158, R173) -/
def Obligations.Waits : Prop :=
  ∀ (s : State) (a : BitVec 6) (m : BitVec 6),
    let v := s.rs a
    let waits (h : Hold) (t : State) : Prop := t.ctx = { s.ctx with st := .waiting, hold := h } ∧
      t.here.cur = none ∧ ∀ k, t.byte k = s.byte k
    let pending : Prop := ∃ j, j < 11 ∧ v.getLsbD j = true ∧ s.was.evWord.getLsbD j = true
    Completes .yield s (fun t => t.ctx = s.ctx ∧ t.here.cur = none ∧ ∀ k, t.byte k = s.byte k) ∧
    (v.toNat ≤ s.tai.toNat → Completes (.waitt a) s (· = s)) ∧
    (s.tai.toNat < v.toNat → Completes (.waitt a) s (waits (.time v))) ∧
    (2 ^ 11 ≤ v.toNat → Completes (.waitev a) s (· = s.stop 0x02 5)) ∧
    (v.toNat < 2 ^ 11 → v = 0 ∨ pending → Completes (.waitev a) s (· = s)) ∧
    (v.toNat < 2 ^ 11 → ¬(v = 0 ∨ pending) → Completes (.waitev a) s (waits (.event (v.setWidth 11)))) ∧
    ((∀ e, e < 6 → m.getLsbD e = true → s.was.busy.get 0 e = 0) → Completes (.xwait m) s (· = s)) ∧
    ((∃ e, e < 6 ∧ m.getLsbD e = true ∧ s.was.busy.get 0 e ≠ 0) → Completes (.xwait m) s fun t =>
      t.ctx.st = .blocked ∧ t.ctx.hold = .engines m ∧ t.ctx.pc = s.focus.pc ∧ SameRegisters s.ctx t.ctx ∧
      ∀ k, t.byte k = s.byte k)

/-- Where its CSR is not privileged or the context is in supervisor mode, CSRR queues the value of the CSR in the issue
cycle, before any write of its bundle; RDTIME queues TIME, logs it where the recorder records time reads and in
replay takes the logged value, or stops with REPLAY_DIVERGE where the next record is not its own; RDCYC queues the
cycles since die reset, and MVQP the sixteen bits of a lane predicate, no write in flight seen. In user mode CSRR of
a die or package CSR raises PRIV. Nothing else changes. (R126, R174, R175, R180, R465, R468) -/
def Obligations.CsrReads : Prop :=
  ∀ (s : State) (d : BitVec 6) (r : BitVec 12) (cl q : BitVec 3),
    let c := s.focus.cell
    let mode := (s.recCtl c).toNat % 4
    let logs := (s.recCtl c).getLsbD 2 = true
    let now : W64 := BitVec.ofNat 64 (s.time / 45000)
    (s.was.supervisor = true ∨ r.toNat < 0x200 → Completes (.csrr d r) s fun t =>
      WritesScalarLate s t d ((s.putCell c s.seen).csrOf c s.focus.ctx r.toNat) 2) ∧
    (s.was.supervisor = false → 0x200 ≤ r.toNat → Completes (.csrr d r) s (· = s.stop 0x03 0)) ∧
    (¬logs ∨ (mode ≠ 1 ∧ mode ≠ 2) → Completes (.rdtime d) s fun t => WritesScalarLate s t d now 2) ∧
    (logs → mode = 1 → Completes (.rdtime d) s fun t =>
      WritesScalarLate (s.recLog c 3 s.focus.ctx false s.focus.pc s.focus.slot now 0) t d now 2) ∧
    (logs → mode = 2 → match s.replayRecord 3 with
      | some l => Completes (.rdtime d) s fun t =>
        WritesScalarLate (s.recAdvance c) t d (BitVec.ofNat 64 (field l 16 8)) 2
      | none => Completes (.rdtime d) s (· = s.stop 0x10 0)) ∧
    Completes (.rdcyc d) s (fun t =>
      WritesScalarLate s t d (BitVec.ofNat 64 (s.cycle - (s.die (c / 256)).resetAt)) 2) ∧
    Completes (.mvqp d cl q) s fun t => WritesScalarLate s t d
      (((s.seen.ctxs.get s.was (4 + s.focus.ctx)).qr cl.toNat q.toNat).setWidth 64) 2

/-- For each plain context CSR with the mask of its RW fields, CSRW writes the source, CSRS ORs it in and CSRC clears
its bits, reserved fields reading 0; in user mode a CSR that user mode only reads stays as it is. A flag of FPCTL
that lands in the same cycle ends set; with none, FPCTL is such a CSR too. Writing 1 to a bit of ERR_STICKY clears
it, in supervisor mode, and CSRS changes it not. A die or package CSR in user mode raises PRIV. Registers,
predicates and memory are unchanged. (R54, R174, R125, R126) -/
def Obligations.CsrWrites : Prop :=
  ∀ (s : State) (d : BitVec 6) (r : BitVec 12) (mask : W64) (user : Bool),
    let v := s.rs d
    let csr (t : State) : W64 := t.csrOf s.focus.cell s.focus.ctx r.toNat
    let gets (w : W64) (t : State) : Prop := csr t = w &&& mask ∧ t.ctx.s = s.ctx.s ∧ t.ctx.p = s.ctx.p ∧
      t.ctx.v = s.ctx.v ∧ t.ctx.q = s.ctx.q ∧ ∀ a, t.byte a = s.byte a
    (r = 0x010 → ∀ b, b < 64 → s.ctx.hwSet.getLsbD b = true →
      Completes (.csrw d r) s (fun t => t.ctx.fpctl.getLsbD b = true) ∧
      Completes (.csrs d r) s (fun t => t.ctx.fpctl.getLsbD b = true) ∧
      Completes (.csrc d r) s fun t => t.ctx.fpctl.getLsbD b = true) ∧
    (r = 0x013 → s.was.supervisor = true →
      Completes (.csrw d r) s (fun t => t.ctx.errSticky = s.ctx.errSticky &&& ~~~(v &&& 0xFF)) ∧
      Completes (.csrc d r) s (fun t => t.ctx.errSticky = s.ctx.errSticky &&& ~~~(v &&& 0xFF)) ∧
      Completes (.csrs d r) s fun t => t.ctx.errSticky = s.ctx.errSticky) ∧
    ((r = 0x010 → s.ctx.hwSet = 0 ∧ s.ctx.hwNew = 0) → (r.toNat, mask, user) ∈ ([(0x010, 0x1F0F, true), (0x012, 0xFFFFFFFF, true), (0x01C, 0x1FFFFFFFF, true),
        (0x001, 0x3FFF, false), (0x002, 0x3FFF01FF, false), (0x003, 0x1FFFC, false), (0x004, 0xF, false),
        (0x005, 0x1FFFD, false), (0x011, 7, false), (0x014, ~~~0, false), (0x015, 0xFFFFFFFF, false)] :
          List (Nat × W64 × Bool)) →
      (s.was.supervisor = true ∨ user = true →
        Completes (.csrw d r) s (gets v) ∧ Completes (.csrs d r) s (gets (csr s ||| v)) ∧
        Completes (.csrc d r) s (gets (csr s &&& ~~~v))) ∧
      (s.was.supervisor = false → user = false → Completes (.csrw d r) s (fun t => csr t = csr s) ∧
        Completes (.csrs d r) s (fun t => csr t = csr s) ∧ Completes (.csrc d r) s fun t => csr t = csr s)) ∧
    (s.was.supervisor = false → 0x200 ≤ r.toNat → Completes (.csrw d r) s (· = s.stop 0x03 0) ∧
      Completes (.csrs d r) s (· = s.stop 0x03 0) ∧ Completes (.csrc d r) s (· = s.stop 0x03 0))

/-- XPOLL writes its pair from the busy flag of the engine. CTRSTART starts its set at 0; CTRSTOP stops a running set
with its count and leaves a stopped one. TMARK hands the configured trace engine one MARK record, and does nothing
where marks are not traced. RWFLUSH closes the windows of the context on both engines, under the RW_PERM that its
bundle finds. A POWREQ whose own request, named by bundle and slot, is granted issues; one that is not holds its
bundle with its request among those of the die; one that would raise what the context holds and has asked for above
200 units raises ILLEGAL_SLOT with INFO 8, and POWREL returns its units or all that are held. MVPQ writes one lane
predicate. The three NOPs change nothing. (R173, R176, R177, R178, R179, R180) -/
def Obligations.SystemInstructions : Prop :=
  ∀ (s : State) (k : BitVec 4) (e : BitVec 8) (n : BitVec 4) (a : BitVec 6) (u : BitVec 14) (cl q : BitVec 3),
    let c := s.focus.cell
    let tr := (s.cell c).trace
    let key := s.focus.pc * 16 + s.focus.slot
    Completes (.xpoll k e) s (fun t => WritesPair s t k.toNat (decide (s.was.busy.get 0 e.toNat ≠ 0))) ∧
    Completes (.ctrstart n) s (fun t => t.ctx.cap n.toNat = ⟨true, false, 0⟩ ∧ SameRegisters s.ctx t.ctx) ∧
    ((s.ctx.cap n.toNat).running = false → Completes (.ctrstop n) s (· = s)) ∧
    ((s.ctx.cap n.toNat).running = true → Completes (.ctrstop n) s fun t =>
      t.ctx.cap n.toNat = { s.ctx.cap n.toNat with running := false } ∧ SameRegisters s.ctx t.ctx) ∧
    (tr.size = 0 ∨ tr.mask.getLsbD 0 = false → Completes (.tmark a e) s (· = s)) ∧
    (tr.size ≠ 0 → tr.mask.getLsbD 0 = true → tr.pend.length < 64 → Completes (.tmark a e) s fun t =>
      (t.cell c).trace.pend = tr.pend ++
        [s.traceBytes c 1 (some s.focus.ctx) s.focus.pc s.focus.slot (s.rs a) (e.setWidth 64)] ∧ t.ctx = s.ctx) ∧
    Completes .rwflush s (fun t =>
      t = s.modCtx fun x => { x with
        window := (x.window.ins 0 (x.window.get 0 0 + 1)).ins 1 (x.window.get 0 1 + 1)
        rwPermClosed := (x.rwPermClosed.ins 0 s.was.rwPerm).ins 1 s.was.rwPerm }) ∧
    (key ∉ s.was.granted → (∀ r, r ∈ s.was.asked → r.1 ≠ key) →
      200 < s.was.asked.foldl (fun n r => n + r.2) s.was.grant + u.toNat → Completes (.powreq u) s (· = s.stop 0x02 8)) ∧
    (key ∈ s.was.granted → Completes (.powreq u) s fun t =>
      t = s.modCtx fun x => { x with granted := x.granted.erase key }) ∧
    (key ∉ s.was.granted → s.was.asked.foldl (fun n r => n + r.2) s.was.grant + u.toNat ≤ 200 →
      (∀ r, r ∈ s.ctx.asked → r.1 ≠ key) → Completes (.powreq u) s fun t =>
      t.ctx.st = .blocked ∧ t.ctx.hold = .power ∧ t.ctx.asked = s.ctx.asked ++ [(key, u.toNat)] ∧ t.ctx.pc = s.focus.pc ∧
      (t.die (c / 256)).powQueue = (s.die (c / 256)).powQueue ++ [(c, s.focus.ctx, u.toNat)] ∧
      SameRegisters s.ctx t.ctx ∧ ∀ b, t.byte b = s.byte b) ∧
    (s.was.grant = s.ctx.grant → Completes (.powrel u) s fun t =>
      t.ctx.grant = s.ctx.grant - u.toNat ∧ (s.ctx.grant < u.toNat → t.ctx.errSticky.getLsbD 6 = true) ∧
      SameRegisters s.ctx t.ctx ∧ ∀ b, t.byte b = s.byte b) ∧
    (q ≠ 0 → Completes (.mvpq cl q a) s fun t =>
      (∀ cl' q' : BitVec 3, t.ctx.qr cl'.toNat q'.toNat =
        if cl' = cl ∧ q' = q then (s.rs a).setWidth 16 else s.ctx.qr cl'.toNat q'.toNat) ∧
      t.ctx.s = s.ctx.s ∧ t.ctx.p = s.ctx.p ∧ t.ctx.v = s.ctx.v ∧ ∀ b, t.byte b = s.byte b) ∧
    Completes .nop s (· = s) ∧ Completes .snop s (· = s) ∧ Completes .vnop s (· = s)

/-- While a record of the context waits for the full fault buffer, ENDT is held. With no late fault and nothing
outstanding, it retires its task at once: the context becomes FREE and holds no task, its scalar and predicate state
is gone, and its vector registers stay. With results or matrix operations outstanding the context is BLOCKED until
they are in. (R31, R159, R380) -/
def Obligations.TaskEnd : Prop :=
  ∀ (s : State),
    (s.recordHeld s.focus.cell s.focus.ctx 15 = true → Completes .endt s fun t =>
      t.ctx.st = .blocked ∧ t.ctx.hold = .record ∧ t.ctx.pc = s.focus.pc ∧ SameRegisters s.ctx t.ctx ∧
      ∀ b, t.byte b = s.byte b) ∧
    (s.recordHeld s.focus.cell s.focus.ctx 15 = false → s.ctx.late = [] →
    (s.endReady s.focus.cell s.focus.ctx = true → Completes .endt s fun t =>
      t.ctx.st = .free ∧ t.ctx.s = [] ∧ t.ctx.bound = [] ∧ t.ctx.grant = 0 ∧ t.ctx.v = s.ctx.v ∧ t.here.cur ≠ some s.focus.ctx) ∧
    (s.endReady s.focus.cell s.focus.ctx = false → Completes .endt s fun t =>
      t.ctx.st = .blocked ∧ t.ctx.hold = .ending ∧ t.here.cur = none ∧ ∀ b, t.byte b = s.byte b))

/-- With rs(b)[63:48] zero and no record of the context held, XLT adds one awaited translation for sd. For a tensor and
tile of a port-context entry its answer is known, the outcome of R80 with its address or its error value, and is due
in 4 cycles; otherwise the request goes to the walkers of the die. A nonzero rs(b)[63:48] raises ILLEGAL_SLOT with
INFO 6, and while a record of the context waits for the full fault buffer the bundle is held. Registers and memory
are unchanged until the answer is written. (R170, R80) -/
def Obligations.TranslationRequest : Prop :=
  ∀ (s : State) (d a b : BitVec 6),
    let c := s.focus.cell
    let id := s.here.nextId
    let tensor := (s.rs a).toNat % 2 ^ 16
    let hit := ((s.die (c / 256)).tensors.find? fun e => e.1 == tensor).bind fun e =>
      (e.2.layout (xltCoords (s.rs a) (s.rs b))).bind fun l =>
        (s.seen.portEntry tensor l.1).map fun w => entryOut (some w) l.2
    let awaits (t : State) (ans : Option (Nat × Nat × List Byte × W64)) (due : Option Nat) : Prop :=
      (∃ w, w ∈ t.ctx.awaits ∧ w.id = id ∧ w.kind = .xlt ∧ w.reg = d.toNat ∧ w.answer = ans ∧ w.due = due) ∧
      SameRegisters s.ctx t.ctx ∧ ∀ k, t.byte k = s.byte k
    (2 ^ 48 ≤ (s.rs b).toNat → Completes (.xlt d a b) s (· = s.stop 0x02 6)) ∧
    ((s.rs b).toNat < 2 ^ 48 → s.recordHeld c s.focus.ctx 15 = true → Completes (.xlt d a b) s fun t =>
      t.ctx.st = .blocked ∧ t.ctx.hold = .record ∧ t.ctx.pc = s.focus.pc ∧ SameRegisters s.ctx t.ctx ∧
      ∀ k, t.byte k = s.byte k) ∧
    ((s.rs b).toNat < 2 ^ 48 → s.recordHeld c s.focus.ctx 15 = false →
      match hit with
      | some (.ok v) => Completes (.xlt d a b) s fun t => awaits t (some (0, 0, toBytes 8 v.toNat, 0)) (some (s.now + 4))
      | some (.fail n) => Completes (.xlt d a b) s fun t =>
        awaits t (some (n, 0, toBytes 8 (0xFFFFFFFFFFFFFFF0#64 ||| BitVec.ofNat 64 n).toNat, 0)) (some (s.now + 4))
      | none => Completes (.xlt d a b) s fun t => awaits t none none ∧
        ⟨c, s.focus.ctx, id, s.rs a, s.rs b, none, none⟩ ∈ (t.die (c / 256)).walks)

/-- In a memory of canonical form, after a write of n bytes of a number, every byte of the range holds the byte of its
significance, every other byte reads as before, the number read back is the one written modulo 256^n, and memory is
again in canonical form. (R5, R71, R76) -/
def Obligations.MemoryIsBytes : Prop :=
  ∀ (s : State) (k n v : Nat), Memory.wf s.mem = true →
    StoresAt s (s.writeN k n v) k n v ∧ (s.writeN k n v).readN k n = v % 256 ^ n ∧
    Memory.wf (s.writeN k n v).mem = true ∧ (s.writeN k n v).full = s.full

/-- For a local access of memory that R74 allows, that meets no poison and no watchpoint and is performed as it issues,
LD and LDZ queue the little-endian number at ea = rs(a) + off × z for sd, sign- or zero-extended, interlocked with
bound 6, and store nothing; ST stores the low bytes of sd at ea and nothing else: every other byte, every full bit
and every register is as before. One that is not performed as it issues joins the context's accesses that wait, with
its class, place and bytes, and memory is unchanged until it is performed (log entry 8, the model's choice of how
R285 and R286 are played out). (R228, R230, R76) -/
def Obligations.ScalarLoadsAndStores : Prop :=
  ∀ (s : State) (d a : BitVec 6) (o : BitVec 3) (z : BitVec 2) (f : BitVec 3),
    let n := 2 ^ z.toNat
    let ea := s.rs a + BitVec.ofNat 64 (f.toNat * n)
    let k := s.localKey ea
    let waits (op : PendOp) (l : List Byte) (t : State) : Prop :=
      (∃ e, t.ctx.pend = s.ctx.pend ++ [e] ∧ e.oc = o.toNat ∧ e.op = op ∧ e.pieces = [⟨k, l, 0⟩]) ∧
      SameRegisters s.ctx t.ctx ∧ t.full = s.full ∧ ∀ j, t.byte j = s.byte j
    (s.Plain ea n n false false false →
      Completes (.ld d a o z f) s
        (fun t => WritesScalarLate s t d (BitVec.ofInt 64 (signedNumber n (s.numberAt k n))) 6) ∧
      Completes (.ldz d a o z f) s fun t => WritesScalarLate s t d (BitVec.ofNat 64 (s.numberAt k n)) 6) ∧
    (s.Plain ea n n true false false → Memory.wf s.mem = true →
      Completes (.st d a o z f) s fun t => StoresAt s t k n (s.rs d).toNat ∧ t.full = s.full ∧
        SameRegisters s.ctx t.ctx ∧ SameModes s.ctx t.ctx ∧ t.ctx.land = s.ctx.land) ∧
    (s.Clear ea n n false false false → s.prompt o.toNat = false → s.barred s.focus.cell o.toNat s.ctx = [] →
      Completes (.ld d a o z f) s (waits (.read (.scalar true)) (List.replicate n 0)) ∧
      Completes (.ldz d a o z f) s (waits (.read (.scalar false)) (List.replicate n 0))) ∧
    (s.Clear ea n n true false false → s.prompt o.toNat = false →
      Completes (.st d a o z f) s (waits .write (toBytes n (s.rs d).toNat)))

/-- A local load from the CSR window that R74 allows queues the addressed bytes of the CSR as the bundle finds it, LD
with its sign and LDZ with zeros, and an 8-byte store to it acts as a CSRW of the stored value under the mode of the
context, where no earlier access of its class still waits to be performed. Behind a release of its class that is on
its way to the context's own cell the bundle is held (R286, R290; log entry 8). (R230) -/
def Obligations.CsrWindowAccess : Prop :=
  ∀ (s : State) (d a : BitVec 6) (o f : BitVec 3) (z : BitVec 2),
    let n := 2 ^ z.toNat
    let ea := s.rs a + BitVec.ofNat 64 (f.toNat * n)
    let off := aOff (s.localAddr s.focus.cell ea)
    let c := s.focus.cell
    let free : Prop := s.barred c o.toNat s.ctx = []
    let held (t : State) : Prop := t.ctx.st = .blocked ∧ t.ctx.hold = .fence (s.barred c o.toNat s.ctx) ∧
      t.ctx.pc = s.focus.pc ∧ SameRegisters s.ctx t.ctx ∧ ∀ j, t.byte j = s.byte j
    aSpace (s.localAddr c ea) = 3 →
    let found := ((s.putCell c s.seen).csrOf c s.focus.ctx (off / 8)).toNat / 256 ^ (off % 8) % 256 ^ n
    (s.localError ea n n false false false = none → free → (∀ e, e ∈ s.ctx.pend → e.oc ≠ o.toNat) →
      Completes (.ldz d a o z f) s (fun t => WritesScalarLate s t d (BitVec.ofNat 64 found) 6) ∧
      Completes (.ld d a o z f) s fun t => WritesScalarLate s t d (BitVec.ofInt 64 (signedNumber n found)) 6) ∧
    (s.localError ea n n false false false = none → ¬free →
      Completes (.ldz d a o z f) s held ∧ Completes (.ld d a o z f) s held) ∧
    (z = 3 → s.localError ea n n true false false = none → free → s.ctx.pend = [] → Completes (.st d a o z f) s fun t =>
      t = s.csrPut c s.focus.ctx .write (off / 8) (s.rs d) s.was.supervisor) ∧
    (s.localError ea n n true false false = none → ¬free → Completes (.st d a o z f) s held)

/-- On a scratch word that R74 allows: LDS and LDSE are held while it is empty or an earlier waiter asks for it; on a
full word that none asks for they load as LD does, and LDSE sets the bit empty in the same step; STF stores as ST
and sets the bit full, at once where no access of its scope is outstanding and else as a release that travels behind
them; SETE sets it empty. No other full bit and no other byte changes. (R231, R290) -/
def Obligations.SynchronisingAccesses : Prop :=
  ∀ (s : State) (d a : BitVec 6) (o : BitVec 3) (z : BitVec 2) (f : BitVec 3),
    let n := 2 ^ z.toNat
    let ea := s.rs a + BitVec.ofNat 64 (f.toNat * n)
    let k := s.localKey ea
    let w := k / 8 * 8
    let ea8 := s.rs a + BitVec.ofNat 64 (f.toNat * 8)
    let bits (t : State) (b : Bool) (k : Nat) : Prop := ∀ j, t.isFull j = if j / 8 = k / 8 then b else s.isFull j
    let loaded (t : State) : Prop := d ≠ 0 →
      Queues s.ctx t.ctx (scalarResult d (BitVec.ofInt 64 (signedNumber n (s.numberAt k n))) s.now 6)
    let held (t : State) : Prop := t.ctx.st = .blocked ∧ t.ctx.hold = .word w ∧ t.ctx.pc = s.focus.pc ∧
      SameRegisters s.ctx t.ctx ∧ ∀ j, t.byte j = s.byte j
    Tab.wf true s.full = true →
    (s.Plain ea n n false true false → s.isFull k = true → s.wordTaken w = false →
      Completes (.lds d a o z f) s (fun t => loaded t ∧ bits t true k ∧ ∀ j, t.byte j = s.byte j) ∧
      Completes (.ldse d a o z f) s fun t => loaded t ∧ bits t false k ∧ ∀ j, t.byte j = s.byte j) ∧
    (s.localError ea n n false true false = none → s.isFull k = false ∨ s.wordTaken w = true →
      Completes (.lds d a o z f) s held ∧ Completes (.ldse d a o z f) s held) ∧
    (s.Clear ea n n true true false → Memory.wf s.mem = true → s.mustTravel (s.localAddr s.focus.cell ea) = false →
      Completes (.stf d a o z f) s fun t => StoresAt s t k n (s.rs d).toNat ∧ bits t true k ∧ SameRegisters s.ctx t.ctx) ∧
    (s.Clear ea n n true true false → s.mustTravel (s.localAddr s.focus.cell ea) = true →
      Completes (.stf d a o z f) s fun t =>
        Sends s t 0x12 .store 0 z false (s.localAddr s.focus.cell ea) (toBytes 8 (s.rs d).toNat) o.toNat) ∧
    (s.localError ea8 8 8 true true false = none → s.Prompt →
      Completes (.sete a o f) s fun t => bits t false (s.localKey ea8) ∧ (∀ j, t.byte j = s.byte j) ∧ t.ctx = s.ctx)

/-- For a local atomic that R74 and R234 allow, that meets no poison and no watchpoint, is performed as it issues and is
not logged or replayed: the old word is queued for sd, sign-extended, with bound 6, and the word becomes the sum,
the smaller or larger signed value, the bitwise function, the operand, or for CAS s(d+1) if the old word equals sd
and else the old word. Every other byte, every full bit and every other register is as before. While the schedule
delays local accesses, one that the recorder does not log joins the context's accesses that wait, with its operands,
and memory is unchanged until it is performed (log entry 8, the model's choice of how R285 and R286 are played out).
(R234) -/
def Obligations.Atomics : Prop :=
  ∀ (s : State) (d a : BitVec 6) (e : BitVec 5) (o : BitVec 3) (z : BitVec 1) (f : BitVec 3),
    let n := 4 * 2 ^ z.toNat
    let M := 2 ^ (8 * n)
    let ea := s.rs a + BitVec.ofNat 64 (f.toNat * n)
    let k := s.localKey ea
    let old := s.numberAt k n
    let even : BitVec 6 := BitVec.ofNat 6 (2 * e.toNat)
    let odd : BitVec 6 := BitVec.ofNat 6 (2 * e.toNat + 1)
    let x := (s.rs d).toNat % M
    let less := signedNumber n old < signedNumber n x
    let amo (i : Instr) (r : BitVec 6) (new : Nat) : Prop := Completes i s fun t => StoresAt s t k n new ∧
      (r ≠ 0 → Queues s.ctx t.ctx (scalarResult r (BitVec.ofInt 64 (signedNumber n old)) s.now 6)) ∧
      t.full = s.full ∧ SameRegisters s.ctx t.ctx
    let waits (i : Instr) (j : Nat) (u v : W64) : Prop := Completes i s fun t =>
      (∃ e, t.ctx.pend = s.ctx.pend ++ [e] ∧ e.oc = o.toNat ∧ e.op = .amo j n u v none ∧ e.pieces = wordPieces k n) ∧
      SameRegisters s.ctx t.ctx ∧ t.full = s.full ∧ ∀ j, t.byte j = s.byte j
    (s.Clear ea n n true false true → s.lag = true → s.barred s.focus.cell o.toNat s.ctx = [] →
      (s.recCtl s.focus.cell).getLsbD 3 = false →
      let u := s.rs d
      let v := s.rs (d + 1)
      waits (.amoadd d a o z f) 0 u v ∧ waits (.amomin d a o z f) 1 u v ∧ waits (.amomax d a o z f) 2 u v ∧
      waits (.amoand d a o z f) 3 u v ∧ waits (.amoor d a o z f) 4 u v ∧ waits (.amoxor d a o z f) 5 u v ∧
      waits (.amoswap d a o z f) 6 u v ∧ waits (.amocas e a o z f) 7 (s.rs even) (s.rs odd)) ∧
    (s.Plain ea n n true false true → Memory.wf s.mem = true →
    (s.recCtl s.focus.cell).getLsbD 3 = false ∨ ((s.recCtl s.focus.cell).toNat % 4 ≠ 1 ∧
      (s.recCtl s.focus.cell).toNat % 4 ≠ 2) →
    amo (.amoadd d a o z f) d ((old + x) % M) ∧
    amo (.amomin d a o z f) d (if less then old else x) ∧
    amo (.amomax d a o z f) d (if less then x else old) ∧
    amo (.amoand d a o z f) d (old &&& x) ∧
    amo (.amoor d a o z f) d (old ||| x) ∧
    amo (.amoxor d a o z f) d (old ^^^ x) ∧
    amo (.amoswap d a o z f) d x ∧
    amo (.amocas e a o z f) even (if old = (s.rs even).toNat % M then (s.rs odd).toNat % M else old))

/-- For a local vector access of memory that R74 allows, that meets no poison or watchpoint and is performed as it
issues: a load of VLD, VLDC or VLDQ from scratch or the instruction store queues, for every cluster it names, the 64
bytes of that cluster, exposed with bound 8, both lanes of an empty scratch word and every lane that VLDQ's mask
leaves out zero and empty; one from deep store awaits the same bytes for 20 or 24 cycles. VST and VSTC store the
clusters' registers in order, and VSTQ the lanes of its mask that are not empty, and no other byte; no full bit and
no register changes. (R228, R232) -/
def Obligations.VectorLoadsAndStores : Prop :=
  ∀ (s : State) (v : BitVec 5) (a : BitVec 6) (o q cl : BitVec 3) (x : BitVec 5) (f : BitVec 2),
    let lane (ea : W64) (i j : Nat) : BitVec 32 := BitVec.ofNat 32 (s.numberAt (s.localKey ea + 64 * i + 4 * j) 4)
    let word (ea : W64) (i j : Nat) : Bool := aSpace (s.localAddr s.focus.cell ea) == 0 &&
      !s.isFull (s.localKey ea + 64 * i + 8 * (j / 2))
    let loads (i : Instr) (ea : W64) (cls : List Nat) (live : Nat → Nat → Bool) : Prop :=
      s.Plain ea (64 * cls.length) 64 false false false →
      (aSpace ea ≠ 1 → Completes i s fun t =>
        (∃ es : List Landing, t.ctx.land = s.ctx.land ++ es ∧ es.map Landing.cl = cls ∧
          ∀ p, p < cls.length → ∃ e, es[p]? = some e ∧ e.kind = .vec ∧ e.reg = v.toNat ∧ e.due = s.now + 8 ∧
            e.held = false ∧ e.mask = 0xFFFF ∧ ∀ j, j < 16 →
              let out := word ea p j || !live e.cl j
              e.emp.getLsbD j = out ∧
              e.val.extractLsb' (32 * j) 32 = if out then 0 else lane ea p j) ∧
        SameRegisters s.ctx t.ctx ∧ ∀ b, t.byte b = s.byte b) ∧
      (aSpace ea = 1 → Completes i s fun t =>
        (∃ w, t.ctx.awaits = s.ctx.awaits ++ [w] ∧ w.kind = .vload ∧ w.reg = v.toNat ∧
          (∀ n, n < 8 → w.clusters.getLsbD n = decide (n ∈ cls)) ∧
          (∀ n j, n < 8 → j < 16 → w.dead.getLsbD (16 * n + j) = (decide (n ∈ cls) && !live n j)) ∧
          w.due = some (s.now + (if s.focus.cell / 256 % 2 = 1 then 24 else 20)) ∧
          w.answer = some (0, 0, (List.range (64 * cls.length)).map (fun b => s.byte (s.localKey ea + b)), 0)) ∧
        SameRegisters s.ctx t.ctx ∧ ∀ b, t.byte b = s.byte b)
    let stores (i : Instr) (ea : W64) (cls : List Nat) (live : Nat → Nat → Bool) : Prop :=
      s.Plain ea (64 * cls.length) 64 true false false → Memory.wf s.mem = true → Completes i s fun t =>
        (∀ b, t.byte b =
          let p := (b - s.localKey ea) / 64
          let cl := cls.getD p 0
          if s.localKey ea ≤ b ∧ p < cls.length ∧ live cl ((b - s.localKey ea) % 64 / 4) = true then
            (s.was.vr cl v.toNat).val.extractLsb' (8 * ((b - s.localKey ea) % 64)) 8
          else s.byte b) ∧ t.full = s.full ∧ SameRegisters s.ctx t.ctx
    let base (n : Nat) : W64 := s.rs a + BitVec.ofNat 64 n
    loads (.vld v a o x) (base (512 * x.toNat)) (List.range 8) (fun _ _ => true) ∧
    loads (.vldc v a o cl f) (base (64 * f.toNat)) [cl.toNat] (fun _ _ => true) ∧
    loads (.vldq v a o q f) (base (512 * f.toNat)) (List.range 8) (fun n j => (s.was.qr n q.toNat).getLsbD j) ∧
    stores (.vst v a o x) (base (512 * x.toNat)) (List.range 8) (fun _ _ => true) ∧
    stores (.vstc v a o cl f) (base (64 * f.toNat)) [cl.toNat] (fun _ _ => true) ∧
    stores (.vstq v a o q f) (base (512 * f.toNat)) (List.range 8) fun n j =>
      (s.was.qr n q.toNat).getLsbD j && !(s.was.vr n v.toNat).emp.getLsbD j

/-- A far load, store, vector access or atomic, or its status twin, that R74 does not forbid at issue and that is not
replayed, sends one request with its opcode, size, address, data and mode to the cell of the address, in a packet to
another package; its answer is awaited for its destination, with pair 7 for a twin, and is given up after 64 µs.
Registers, predicates and memory are unchanged. (R113, R228, R234, R235, R236, R398) -/
def Obligations.FarForms : Prop :=
  ∀ (s : State) (d a : BitVec 6) (e v : BitVec 5) (o : BitVec 3) (z : BitVec 2) (y : BitVec 1) (f : BitVec 3) (x : BitVec 5),
    let ea := s.rs a + BitVec.ofNat 64 (f.toNat * 2 ^ z.toNat)
    let eb := s.rs a + BitVec.ofNat 64 (f.toNat * (4 * 2 ^ y.toNat))
    let ev := s.rs a + BitVec.ofNat 64 (x.toNat * 512)
    let sy : BitVec 2 := BitVec.ofNat 2 (2 + y.toNat)
    let no : List Byte := List.replicate 8 0
    let reg (r : BitVec 6) : List Byte := toBytes 8 (s.rs r).toNat
    let vec : List Byte := (List.range 512).map fun b =>
      (s.was.vr (b / 64) v.toNat).val.extractLsb' (8 * (b % 64)) 8
    let even : BitVec 6 := BitVec.ofNat 6 (2 * e.toNat)
    let odd : BitVec 6 := BitVec.ofNat 6 (2 * e.toNat + 1)
    let amo (i : Instr) (op : Nat) (twin : Bool) (r : BitVec 6) (data : List Byte) : Prop :=
      Completes i s fun t => Sends s t op .amo r.toNat sy twin eb data o.toNat
    (s.farError ea (2 ^ z.toNat) (2 ^ z.toNat) false false = none →
      Completes (.ldF d a o z f) s (fun t => Sends s t 0x20 .load d.toNat z false ea no o.toNat) ∧
      Completes (.ldFs d a o z f) s fun t => Sends s t 0x40 .load d.toNat z true ea no o.toNat) ∧
    (s.farError ea (2 ^ z.toNat) (2 ^ z.toNat) true false = none →
      Completes (.stF d a o z f) s (fun t => Sends s t 0x21 .store d.toNat z false ea (reg d) o.toNat) ∧
      Completes (.stFs d a o z f) s fun t => Sends s t 0x41 .store d.toNat z true ea (reg d) o.toNat) ∧
    (s.farError ev 512 64 false false = none →
      Completes (.vldF v a o x) s (fun t => Sends s t 0x22 .vload v.toNat 3 false ev no o.toNat) ∧
      Completes (.vldFs v a o x) s fun t => Sends s t 0x42 .vload v.toNat 3 true ev no o.toNat) ∧
    (s.farError ev 512 64 true false = none →
      Completes (.vstF v a o x) s (fun t => Sends s t 0x23 .vstore 0 3 false ev vec o.toNat) ∧
      Completes (.vstFs v a o x) s fun t => Sends s t 0x43 .vstore 0 3 true ev vec o.toNat) ∧
    (s.farError eb (4 * 2 ^ y.toNat) (4 * 2 ^ y.toNat) true true = none → s.replaying s.focus.cell = false →
      amo (.amoaddF d a o y f) 0x28 false d (reg d) ∧ amo (.amominF d a o y f) 0x29 false d (reg d) ∧
      amo (.amomaxF d a o y f) 0x2A false d (reg d) ∧ amo (.amoandF d a o y f) 0x2B false d (reg d) ∧
      amo (.amoorF d a o y f) 0x2C false d (reg d) ∧ amo (.amoxorF d a o y f) 0x2D false d (reg d) ∧
      amo (.amoswapF d a o y f) 0x2E false d (reg d) ∧
      amo (.amocasF e a o y f) 0x2F false even (reg even ++ reg odd) ∧
      amo (.amoaddFs d a o y f) 0x48 true d (reg d) ∧ amo (.amominFs d a o y f) 0x49 true d (reg d) ∧
      amo (.amomaxFs d a o y f) 0x4A true d (reg d) ∧ amo (.amoandFs d a o y f) 0x4B true d (reg d) ∧
      amo (.amoorFs d a o y f) 0x4C true d (reg d) ∧ amo (.amoxorFs d a o y f) 0x4D true d (reg d) ∧
      amo (.amoswapFs d a o y f) 0x4E true d (reg d) ∧
      amo (.amocasFs e a o y f) 0x4F true even (reg even ++ reg odd))

/-- For every kind that R74 gives: a load, a synchronising load and an atomic queue 0 for their destination and do not
wait; a store changes nothing; a vector load queues zero and full lanes; and the violation is recorded in
ERR_STICKY, with its address and information if it is the first and MORE if not. No byte of memory and no full bit
changes, and the task goes on. (R167, R74) -/
def Obligations.ErrorResponses : Prop :=
  ∀ (s : State) (d a : BitVec 6) (o : BitVec 3) (z : BitVec 2) (y : BitVec 1) (f cl : BitVec 3)
      (g : BitVec 2) (e v x : BitVec 5) (k : Nat),
    let n := 2 ^ z.toNat
    let ea := s.rs a + BitVec.ofNat 64 (f.toNat * n)
    let es := s.rs a + BitVec.ofNat 64 (f.toNat * 8)
    let ec := s.rs a + BitVec.ofNat 64 (g.toNat * 64)
    let eq := s.rs a + BitVec.ofNat 64 (g.toNat * 512)
    let even : BitVec 6 := BitVec.ofNat 6 (2 * e.toNat)
    let w := 4 * 2 ^ y.toNat
    let eb := s.rs a + BitVec.ofNat 64 (f.toNat * w)
    let ev := s.rs a + BitVec.ofNat 64 (x.toNat * 512)
    let info (sz : Nat) (vec store : Bool) : W64 := violInfo s.focus.pc s.focus.slot sz vec store false o.toNat
    let recorded (t : State) (e i : W64) : Prop := RecordsViolation s.ctx t.ctx k (s.violAddrOf e false) i ∧
      SameRegisters s.ctx t.ctx ∧ t.full = s.full ∧ ∀ b, t.byte b = s.byte b
    let zero (r : BitVec 6) (t : State) : Prop := r ≠ 0 → Queues s.ctx t.ctx (scalarResult r 0 s.now 6)
    let amo (i : Instr) (r : BitVec 6) : Prop :=
      Completes i s fun t => recorded t eb (info (2 + y.toNat) false true) ∧ zero r t
    let vload (i : Instr) (a : W64) (cls : List Nat) : Prop := Completes i s fun t => recorded t a (info 0 true false) ∧
      t.ctx.land = s.ctx.land ++ cls.map fun c => ⟨.vec, c, v.toNat, 0, 0, 0xFFFF, 0, 0, s.now + 8, false, s.now, 0⟩
    let vstore (i : Instr) (a : W64) : Prop :=
      Completes i s fun t => recorded t a (info 0 true true) ∧ t.ctx.land = s.ctx.land
    s.focus.slot < 14 →
    (s.localError ea n n false false false = some k →
      Completes (.ld d a o z f) s (fun t => recorded t ea (info z.toNat false false) ∧ zero d t) ∧
      Completes (.ldz d a o z f) s fun t => recorded t ea (info z.toNat false false) ∧ zero d t) ∧
    (s.localError ea n n true false false = some k →
      Completes (.st d a o z f) s fun t => recorded t ea (info z.toNat false true) ∧ t.ctx.land = s.ctx.land) ∧
    (s.localError ea n n false true false = some k →
      Completes (.lds d a o z f) s (fun t => recorded t ea (info z.toNat false false) ∧ zero d t) ∧
      Completes (.ldse d a o z f) s fun t => recorded t ea (info z.toNat false false) ∧ zero d t) ∧
    (s.localError ea n n true true false = some k →
      Completes (.stf d a o z f) s fun t => recorded t ea (info z.toNat false true) ∧ t.ctx.land = s.ctx.land) ∧
    (s.localError es 8 8 true true false = some k →
      Completes (.sete a o f) s fun t => recorded t es (info 3 false true) ∧ t.ctx.land = s.ctx.land) ∧
    (s.localError eb w w true false true = some k →
      amo (.amoadd d a o y f) d ∧ amo (.amomin d a o y f) d ∧ amo (.amomax d a o y f) d ∧ amo (.amoand d a o y f) d ∧
      amo (.amoor d a o y f) d ∧ amo (.amoxor d a o y f) d ∧ amo (.amoswap d a o y f) d ∧ amo (.amocas e a o y f) even) ∧
    (s.localError ev 512 64 false false false = some k → vload (.vld v a o x) ev (List.range 8)) ∧
    (s.localError ec 64 64 false false false = some k → vload (.vldc v a o cl g) ec [cl.toNat]) ∧
    (s.localError eq 512 64 false false false = some k → vload (.vldq v a o cl g) eq (List.range 8)) ∧
    (s.localError ev 512 64 true false false = some k → vstore (.vst v a o x) ev) ∧
    (s.localError ec 64 64 true false false = some k → vstore (.vstc v a o cl g) ec) ∧
    (s.localError eq 512 64 true false false = some k → vstore (.vstq v a o cl g) eq)

/-- For a load or store of the issuing context with a zero or its own prefix: a reserved address bit or an end beyond
the space or beyond CSR 0x3FF is ADDR; else a misaligned address is ALIGN; else a synchronising access outside
scratch is SYNC; else a store to the instruction store, a user access that touches a privileged CSR or to the
reserved window of the deep store, or an atomic outside scratch and deep store is PERM; and only then is nothing
wrong. Any other cell's prefix is ADDR. That an access which begins inside its space and ends beyond it is ADDR,
before ALIGN, is the model's choice (log entry 24). (R71, R74, R234) -/
def Obligations.AccessChecks : Prop :=
  ∀ (s : State) (ea : W64) (n align : Nat) (store sync amo : Bool), s.pkg.number.toNat ≤ 992 →
    let c := s.focus.cell
    let own : Prop := ea.toNat / 2 ^ 43 = 0 ∨ ea.toNat / 2 ^ 43 = s.pkg.number.toNat * 2 ^ 11 + c
    let sp := ea.toNat / 2 ^ 41 % 4
    let off := ea.toNat % 2 ^ 26
    let size := if sp = 0 then (if c / 256 % 2 = 1 then 0x100000 else 0x200000) else if sp = 1 then 0x3000000
      else if sp = 2 then 0x20000 else 0x8000
    let badAddr : Prop := ¬own ∨ ea.toNat / 2 ^ 26 % 2 ^ 15 ≠ 0 ∨ size < off + n ∨ (sp = 3 ∧ 0x2000 < off + n)
    let badPerm : Prop := (store = true ∧ sp = 2) ∨ (amo = true ∧ 2 ≤ sp) ∨ (s.was.supervisor = false ∧
      ((sp = 3 ∧ 0x1000 < off + n) ∨ (sp = 1 ∧ 0x2F80000 < off + n)))
    c < 2048 →
    (s.localError ea n align store sync amo = some 0 ↔ badAddr) ∧
    (s.localError ea n align store sync amo = some 1 ↔ ¬badAddr ∧ off % align ≠ 0) ∧
    (s.localError ea n align store sync amo = some 3 ↔ ¬badAddr ∧ off % align = 0 ∧ sync = true ∧ sp ≠ 0) ∧
    (s.localError ea n align store sync amo = some 2 ↔
      ¬badAddr ∧ off % align = 0 ∧ ¬(sync = true ∧ sp ≠ 0) ∧ badPerm) ∧
    (s.localError ea n align store sync amo = none ↔
      ¬badAddr ∧ off % align = 0 ∧ ¬(sync = true ∧ sp ≠ 0) ∧ ¬badPerm)

/-- On an object of the issuing cell that R74 allows, with no access of the context open within its cell and no
watchpoint on the cell: BINIT sets EXPECTED and COUNT and clears PENDING and ERR; ARRIVE and ARRIVEX count one
arrival, the latter with its pending bytes, or set ERR to 1 on COUNT 0; the update that makes COUNT and PENDING zero
reloads COUNT, inverts PHASE and sets both words full. BWAIT completes once the phase has flipped, with pair 7
telling whether ERR is 0; SIGNAL adds to its word and sets it full; SWAIT completes once its word has reached rs(b).
A release on another cell, or behind open accesses, is sent as a request. A forbidden object gets an error response;
a BINIT of no participants or with reserved bits raises INFO 37. A wait on an object of another package completes or
is held as its state there, which is free, says (log entry 22, the model's choice). (R243, R244, R245, R247, R167,
R290) -/
def Obligations.BarriersAndSignals : Prop :=
  ∀ (s : State) (a b : BitVec 6),
    let ea := s.rs a
    let v := s.rs b
    let k := s.localKey ea
    let o := s.barrier k
    let binitOk : Prop := 0 < v.toNat ∧ v.toNat < 2 ^ 24
    let quiet : Prop := s.mustTravel (s.objAddr ea) = false ∧ Memory.wf s.mem = true ∧ Tab.wf true s.full = true ∧
      ∀ n, n < 2 → ((s.cell (k / 2 ^ 43)).ws.get 0 (2 * n + 1)).getLsbD 0 = false
    let flip (n : Barrier) : Prop := n.count = 0 ∧ n.pending = 0 ∧ ¬(o.count = 0 ∧ o.pending = 0)
    let becomes (n : Barrier) (t : State) : Prop :=
      (flip n → t.barrier k = { n with count := n.expected, phase := !n.phase } ∧ t.isFull k = true ∧
        t.isFull (k + 8) = true) ∧
      (¬flip n → t.barrier k = n ∧ t.full = s.full) ∧
      (∀ j, ¬(k ≤ j ∧ j < k + 16) → t.byte j = s.byte j) ∧ SameRegisters s.ctx t.ctx
    let arrive (p : Int) : Barrier :=
      let q := o.pending + p
      let e (x : Nat) : Nat := if o.err = 0 then x else o.err
      if o.count = 0 then { o with err := e 1 }
      else if q < -(2 ^ 47) then { o with count := o.count - 1, pending := -(2 ^ 47), err := e 2 }
      else if 2 ^ 47 ≤ q then { o with count := o.count - 1, pending := 2 ^ 47 - 1, err := e 2 }
      else { o with count := o.count - 1, pending := q }
    let still (t : State) : Prop := SameRegisters s.ctx t.ctx ∧ t.full = s.full ∧ ∀ j, t.byte j = s.byte j
    let refused (e : Nat) (addr : W64) (store : Bool) (t : State) : Prop :=
      s.focus.slot < 14 → RecordsViolation s.ctx t.ctx e (s.violAddrOf addr false) (violInfo s.focus.pc s.focus.slot 3 false store false 0)
    let goes (op : Nat) (w : W64) (i : Instr) : Prop :=
      Completes i s fun t => ∃ u, Sends s u op .store 0 3 false (s.objAddr ea) (toBytes 8 w.toNat) 0 ∧
        (t = u ∨ t = u.closeWindow)
    let waits (h : Hold) (t : State) : Prop := t.ctx.st = .blocked ∧ t.ctx.hold = h ∧ t.ctx.pc = s.focus.pc ∧ still t
    let obj : W64 := BitVec.ofNat 64 (ea.toNat / 2 * 2)
    let open_ : Prop := s.ctx.pend = [] ∧ ∀ w, w ∈ s.ctx.awaits → s.barring s.focus.cell w = false
    (¬binitOk → Completes (.binit a b) s (· = s.stop 0x02 37)) ∧
    (s.objError ea 16 16 = none → quiet →
      (binitOk → Completes (.binit a b) s fun t => becomes
        { o with expected := v.toNat, count := v.toNat, pending := 0, err := 0 } t) ∧
      Completes (.arrive a) s (becomes (arrive 0)) ∧
      (v.toNat < 2 ^ 48 → Completes (.arrivex a b) s
        (becomes (arrive (if v.toNat < 2 ^ 47 then (v.toNat : Int) else (v.toNat : Int) - 2 ^ 48))))) ∧
    (s.objError ea 16 16 = none → s.mustTravel (s.objAddr ea) = true →
      (binitOk → goes 0x3C v (.binit a b)) ∧ goes 0x37 0 (.arrive a) ∧ (v.toNat < 2 ^ 48 → goes 0x38 v (.arrivex a b))) ∧
    (2 ^ 48 ≤ v.toNat → Completes (.arrivex a b) s fun t => refused 0 ea true t ∧ still t) ∧
    (∀ e, s.objError ea 16 16 = some e →
      (binitOk → Completes (.binit a b) s fun t => refused e ea true t ∧ still t) ∧
      (Completes (.arrive a) s fun t => refused e ea true t ∧ still t) ∧
      (v.toNat < 2 ^ 48 → Completes (.arrivex a b) s fun t => refused e ea true t ∧ still t)) ∧
    (open_ → s.objError obj 16 16 = none → aPkg (s.objAddr obj) = s.pkg.number →
      let w := s.barrier (flatOf (s.objAddr obj))
      (w.phase ≠ ea.getLsbD 0 → Completes (.bwait a) s fun t =>
        ∃ u, WritesPair s u 7 (decide (w.err = 0)) ∧ t = u.closeWindow) ∧
      (w.phase = ea.getLsbD 0 →
        Completes (.bwait a) s (waits (.phase (flatOf (s.objAddr obj)) (ea.getLsbD 0))))) ∧
    (open_ → s.objError obj 16 16 = none → aPkg (s.objAddr obj) ≠ s.pkg.number → Completes (.bwait a) s fun t =>
      (t.ctx.st = .blocked ∧ t.ctx.pc = s.focus.pc ∧ still t) ∨
        ∃ u w, WritesPair s.drawn.drawn u 7 w ∧ t = u.closeWindow) ∧
    (∀ e, s.objError obj 16 16 = some e → Completes (.bwait a) s fun t => refused e obj false t ∧
      t.ctx.pr 14 = false ∧ t.ctx.pr 15 = true ∧ t.full = s.full ∧ ∀ j, t.byte j = s.byte j) ∧
    (s.objError ea 8 8 = none →
      (quiet → Completes (.signal a b) s (fun t => StoresAt s t k 8 (s.numberAt k 8 + v.toNat) ∧ t.isFull k = true ∧
        SameRegisters s.ctx t.ctx)) ∧
      (s.mustTravel (s.objAddr ea) = true → goes 0x3A v (.signal a b)) ∧
      (open_ → aPkg (s.objAddr ea) = s.pkg.number →
        (v.toNat ≤ s.numberAt (flatOf (s.objAddr ea)) 8 → Completes (.swait a b) s (· = s)) ∧
        (s.numberAt (flatOf (s.objAddr ea)) 8 < v.toNat →
          Completes (.swait a b) s (waits (.signal (flatOf (s.objAddr ea)) v)))) ∧
      (open_ → aPkg (s.objAddr ea) ≠ s.pkg.number → Completes (.swait a b) s fun t =>
        t = s.drawn.drawn ∨ (t.ctx.st = .blocked ∧ t.ctx.pc = s.focus.pc ∧ still t))) ∧
    (∀ e, s.objError ea 8 8 = some e →
      (Completes (.signal a b) s fun t => refused e ea true t ∧ still t) ∧
      Completes (.swait a b) s fun t => refused e ea false t ∧ still t)

/-- An unconfigured port raises INFO 32, and rs(b) against the port's tag, format or micro-batch count INFO 33. SEMIT is
held while its stream is stopped or it has no free slot or pennant. A payload outside scratch or misaligned gets an
error response, and nothing is sent. Otherwise SEMIT writes header and payload to retain slot NEXT_P mod S and
nothing else in memory, sends the chunk and makes NEXT_P one more; a chunk that a region kill has it emit again
below ACK_P is counted and not sent. SFREE of a slot bound to the task sets its words empty and marks it freed for
the task; a slot that is not the task's, or a nonzero rs(a)[63:6], raises INFO 34. SSTAT queues the snapshot of its
tag or port; the micro-batch of its bit 39 before a renumbered stream's first chunk is the model's choice (log entry
102). Stated for a context whose earlier local accesses are performed and which has no release on its way to its own
cell. (R84, R87, R167, R238, R239, R240, R434) -/
def Obligations.StreamInstructions : Prop :=
  ∀ (s : State) (p n : BitVec 4) (d a b : BitVec 6),
    let c := s.focus.cell
    let off := (s.rs a).toNat
    let w := s.rs b
    let len := w.toNat % 2 ^ 13
    let port := s.seen.port p.toNat
    let mb : BitVec 16 := BitVec.ofNat 16 (w.toNat / 2 ^ 16)
    let stride (pay : Nat) : Nat := (32 + pay + 63) / 64 * 64
    let slot := flat c 0 (port.base + port.nextP.toNat % port.slots * stride port.pay)
    let cpm := max s.here.hal.cpm 1
    let inMb := port.nextP.toNat % cpm
    let bad : Prop := w.getLsbD 15 = true ∨ 2 ^ 48 ≤ w.toNat ∨ port.pay < len ∨
      (w.toNat / 2 ^ 32 % 2 ^ 16 ≠ 0 ∧ port.fmt.toNat ≠ fmtAX) ∨ (port.fmt.toNat = fmtAX ∧ len % 8 ≠ 0) ∨
      (port.halyard = true ∧ (s.here.hal.paired = false ∨ ¬(w.getLsbD 13 = true ↔ inMb = s.here.hal.cpm - 1) ∨
        (port.renumber = false ∧ mb ≠ port.mbBase + BitVec.ofNat 16 (port.nextP.toNat / cpm))))
    let size := if c / 256 % 2 = 1 then 0x100000 else 0x200000
    let still (t : State) : Prop := SameRegisters s.ctx t.ctx ∧ t.full = s.full ∧ ∀ j, t.byte j = s.byte j
    let quiet : Prop := s.ctx.pend = [] ∧ ∀ w, w ∈ s.ctx.awaits → s.barring c w = false
    let errs (kind : Nat) (t : State) : Prop := still t ∧ t.agenda = s.agenda ∧
      (s.focus.slot < 14 → RecordsViolation s.ctx t.ctx kind (s.addrOf c 0 off) (violInfo s.focus.pc s.focus.slot 0 true false false 0))
    let emits (t : State) : Prop := (t.here.port p.toNat).nextP = port.nextP + 1 ∧ SameRegisters s.ctx t.ctx
    let tag := s.here.tag p.toNat
    let ring := tag.base + (s.rs a).toNat * stride tag.pay
    let known := s.seen.tag n.toNat
    let out := s.seen.port n.toNat
    let ahead := (out.nextP - out.ackP).toInt
    (port.slots = 0 → Completes (.semit p a b) s (· = s.stop 0x02 32)) ∧
    (port.slots ≠ 0 → bad → Completes (.semit p a b) s (· = s.stop 0x02 33)) ∧
    (port.slots ≠ 0 → ¬bad → s.emitHeld c p.toNat mb = true → Completes (.semit p a b) s fun t =>
      t.ctx.st = .blocked ∧ t.ctx.hold = .emit p.toNat mb ∧ t.ctx.pc = s.focus.pc ∧ still t) ∧
    (port.slots ≠ 0 → ¬bad → s.emitHeld c p.toNat mb = false → quiet →
      (size < off + len → Completes (.semit p a b) s (errs 0)) ∧
      (off + len ≤ size → off % 8 ≠ 0 → Completes (.semit p a b) s (errs 1)) ∧
      (off + len ≤ size → off % 8 = 0 → s.poisoned (flat c 0 off) len = false → s.here.port p.toNat = port →
        Memory.wf s.mem = true →
        ((port.nextP - port.ackP).toInt < 0 → Completes (.semit p a b) s fun t => emits t ∧ still t ∧
          t.agenda = s.agenda) ∧
        (0 ≤ (port.nextP - port.ackP).toInt → Completes (.semit p a b) s fun t => emits t ∧
          (∀ i, i < len → t.byte (slot + 32 + i) = s.byte (flat c 0 off + i)) ∧
          (∀ j, ¬(slot ≤ j ∧ j < slot + 32 + len) → t.byte j = s.byte j) ∧
          (namePkg port.dest = s.pkg.number → nameCell port.dest / 256 = c / 256 →
            (s.die (c / 256)).shadow = [] → ∃ ck,
            ⟨.chunkArrival, { Args.empty with c := nameCell port.dest, ck := ck }⟩ ∈ t.agenda ∧
            ck.stream = port.stream ∧ ck.tag = port.tag ∧ ck.seq = port.nextP ∧ ck.mb = mb ∧ ck.fmt = port.fmt ∧
            ck.endMb = w.getLsbD 13 ∧ ck.last = w.getLsbD 14 ∧ ck.replay = false ∧ ck.census = false ∧
            ck.attempt = 0 ∧ ck.payload = (List.range len).map fun i => s.byte (flat c 0 off + i))))) ∧
    ((s.rs a).toNat < 64 → (∃ e, e ∈ s.ctx.bound ∧ e.tag = p.toNat ∧ e.slot = (s.rs a).toNat ∧ e.freed = false) →
      s.ctx.pend = [] → s.slotReads ring (stride tag.pay) = [] → Tab.wf true s.full = true → ring % 8 = 0 →
      Completes (.sfree p a) s fun t =>
        (∀ e, e ∈ t.ctx.bound → e.tag = p.toNat → e.slot = (s.rs a).toNat → e.freed = true) ∧
        (((t.here.tag p.toNat).at_ (s.rs a).toNat).use = .freed ∨
          ((t.here.tag p.toNat).at_ (s.rs a).toNat).use = .empty) ∧
        (∀ j, t.isFull j = if flat c 0 ring ≤ j ∧ j < flat c 0 ring + stride tag.pay then false else s.isFull j) ∧
        SameRegisters s.ctx t.ctx ∧ ∀ j, t.byte j = s.byte j) ∧
    (64 ≤ (s.rs a).toNat ∨ (∀ e, e ∈ s.ctx.bound → e.tag = p.toNat → e.slot = (s.rs a).toNat → e.freed = true) →
      Completes (.sfree p a) s (· = s.stop 0x02 34)) ∧
    (known.slots = 0 → Completes (.sstat d n 0) s (· = s.stop 0x02 32)) ∧
    (known.slots ≠ 0 → Completes (.sstat d n 0) s fun t => WritesScalarLate s t d (BitVec.ofNat 64 (known.ackC.toNat +
      (known.ring.filter fun e => e.2.use == .resident).length * 2 ^ 32 +
      (known.slots - (known.expC - known.ackC).toNat) * 2 ^ 47)) 6) ∧
    (out.slots = 0 → Completes (.sstat d n 1) s (· = s.stop 0x02 32)) ∧
    (out.slots ≠ 0 → out.halyard = false → Completes (.sstat d n 1) s fun t =>
      WritesScalarLate s t d (BitVec.ofNat 64 (out.nextP.toNat +
        (if ahead < 0 then out.slots else out.slots - ahead.toNat) * 2 ^ 32 +
        (if out.stopped = true ∨ out.peerLost = true then 2 ^ 40 else 0) + out.slots * 2 ^ 47)) 6) ∧
    (out.slots ≠ 0 → out.halyard = true → Completes (.sstat d n 1) s fun t =>
      WritesScalarLate s t d (BitVec.ofNat 64 (out.nextP.toNat +
        (if ahead < 0 then out.slots else out.slots - ahead.toNat) * 2 ^ 32 +
        (if (out.mbBase + BitVec.ofNat 16 (out.nextP.toNat / max s.seen.hal.cpm 1)) ∈ s.seen.hal.held then 2 ^ 39 else 0) +
        (if out.stopped = true ∨ out.peerLost = true then 2 ^ 40 else 0) + out.slots * 2 ^ 47)) 6)

/-- A FENCE whose masked classes have nothing outstanding in its scope issues: it performs every waiting local access of
those classes, closes the Tarragon windows, drops the translations of its die and changes no register; one with
accesses outstanding is held. An STMC with valid operands sends one 8-byte store-and-fill to every cell of its run
of ring positions; reserved bits, a start outside the ring or a forbidden offset get an error response. A ROT with a
bad length raises INFO 35 and is held while one is in flight; else it sets its destination words empty and records
its rotation with the bytes of its source, and a source or destination outside scratch is an ADDR error response,
whose VIOL_INFO gives SIZE 0 and VEC 1, STORE for the destination (log entry 108, the model's choice). The source
bytes are those at issue and arrive at the end (log entry 26). (R100, R102, R167, R237, R241, R242, R300) -/
def Obligations.FenceMulticastRotate : Prop :=
  ∀ (s : State) (m : BitVec 8) (sc : BitVec 3) (d a b : BitVec 6),
    let c := s.focus.cell
    let still (t : State) : Prop := SameRegisters s.ctx t.ctx ∧ ∀ j, t.byte j = s.byte j
    let errs (kind : Nat) (addr info : W64) (t : State) : Prop :=
      (s.focus.slot < 14 → RecordsViolation s.ctx t.ctx kind addr info) ∧ still t
    let open_ := s.was.awaits.filter fun w => m.getLsbD w.oc && w.kind != .xlt && s.scopeHolds c sc.toNat w.addr
    (open_ = [] → Completes (.fence m sc) s fun t => SameRegisters s.ctx t.ctx ∧
      (∀ e, e < 2 → t.ctx.window.get 0 e = s.ctx.window.get 0 e + 1 ∧ t.ctx.rwPermClosed.get 0 e = s.was.rwPerm) ∧
      (s.ctx.pend = [] → ∀ j, t.byte j = s.byte j) ∧ (m ≠ 0 → 2 ≤ sc.toNat → (t.die (c / 256)).tb = []) ∧
      (s.was.awaits = s.ctx.awaits → m ≠ 0 → ∀ e, e ∈ t.ctx.pend → m.getLsbD e.oc = false)) ∧
    (open_ ≠ [] → Completes (.fence m sc) s fun t => t.ctx.st = .blocked ∧ t.ctx.hold = .fence (open_.map Await.id) ∧
      t.ctx.pc = s.focus.pc ∧ still t) ∧
    (let size := s.seen.regSize
     let start := (s.rs b).toNat % 256
     let n := if (s.rs b).toNat / 256 % 256 = 0 then size else (s.rs b).toNat / 256 % 256
     let off := (s.rs a).toNat % 2 ^ 26
     let info := violInfo s.focus.pc s.focus.slot 3 false true false 0
     let bad : Prop := 2 ^ 26 ≤ (s.rs a).toNat ∨ 2 ^ 16 ≤ (s.rs b).toNat ∨ size ≤ start
     (bad → Completes (.stmc d a b) s (errs 0 (s.addrOf c 0 off) info)) ∧
     (∀ e, ¬bad → s.localError (s.addrOf c 0 off) 8 8 true true false = some e →
       Completes (.stmc d a b) s (errs e (s.addrOf c 0 off) info)) ∧
     (¬bad → s.localError (s.addrOf c 0 off) 8 8 true true false = none →
       Completes (.stmc d a b) s fun t => still t ∧
         (let dests := (List.range (min n size)).map fun i => s.addrOf ((s.ringOf c).getD ((start + i) % size) 0) 0 off
          (t.ctx.awaits.drop s.ctx.awaits.length).map Await.addr = dests ∧
          (t.agenda.drop s.agenda.length).map (fun e => (e.instr, e.args.req.op, e.args.req.addr, e.args.req.data)) =
            dests.map fun g => (Instr.remoteRequest, 0x36#8, g, toBytes 8 (s.rs d).toNat)))) ∧
    (let n := (s.rs d).toNat
     let src := (s.rs a).toNat
     let at_ := (s.rs b).toNat
     let dst := flat c 0 at_
     let info (store : Bool) : W64 := violInfo s.focus.pc s.focus.slot 0 true store false 0
     let turns (data : Option (List Byte)) (t : State) : Prop :=
       ∃ r, t.here.rot = some r ∧ r.data = data ∧ r.src = flat c 0 src ∧ r.dst = at_ ∧ r.len = n ∧ r.ctx = s.focus.ctx ∧
         r.task = s.ctx.task ∧ r.slot = s.focus.slot ∧ r.id = s.here.nextId ∧ t.here.nextId = s.here.nextId + 1 ∧
         ∀ e, e ∈ r.bad ↔ e ∈ s.poison ∧ flat c 0 src < e.1 + 8 ∧ e.1 < flat c 0 src + n
     (n % 512 ≠ 0 ∨ n < 512 ∨ 16384 < n → Completes (.rot d a b) s (· = s.stop 0x02 35)) ∧
     (n % 512 = 0 → 512 ≤ n → n ≤ 16384 → s.here.rot ≠ none → Completes (.rot d a b) s fun t =>
       t.ctx.st = .blocked ∧ t.ctx.hold = .rotate ∧ t.ctx.pc = s.focus.pc ∧ still t) ∧
     (n % 512 = 0 → 512 ≤ n → n ≤ 16384 → s.here.rot = none → s.ctx.pend = [] →
       (∀ w, w ∈ s.ctx.awaits → s.barring c w = false) → Tab.wf true s.full = true →
       (inScratch c src n = true → inScratch c at_ n = true → at_ % 8 = 0 →
         Completes (.rot d a b) s fun t => turns (some ((List.range n).map fun i => s.byte (flat c 0 src + i))) t ∧
           (∀ j, t.isFull j = if dst ≤ j ∧ j < dst + n then false else s.isFull j) ∧ still t ∧ t.ctx = s.ctx) ∧
       (inScratch c src n = false → inScratch c at_ n = true →
         Completes (.rot d a b) s fun t => turns none t ∧ errs 0 (s.addrOf c 0 src) (info false) t) ∧
       (inScratch c src n = true → inScratch c at_ n = false →
         Completes (.rot d a b) s fun t => turns (some ((List.range n).map fun i => s.byte (flat c 0 src + i))) t ∧
           t.full = s.full ∧ errs 0 (s.addrOf c 0 at_) (info true) t)))

/-- Each integer lane operation completes on every cluster of its slot after 4 cycles: in each sub-element of each lane
inside its mask the result is that of R196 or R197 modulo 2^w, empty lanes are treated as the cluster's policy says,
no flag is set, and nothing but the destination register is written. (R182, R183, R184, R189, R196, R197) -/
def Obligations.VectorIntegerOperations : Prop :=
  ∀ (s : State) (d a b : BitVec 5) (q : BitVec 3) (t : BitVec 2),
    let two (i : Instr) (g : Nat → Nat → Nat → Int) : Prop := IntegerLanes i s d [a, b] q t fun w x y _ => g w x y
    let one (i : Instr) (g : Nat → Nat → Int) : Prop := IntegerLanes i s d [a] q t fun w x _ _ => g w x
    let sat (w : Nat) (v : Int) : Int := if 2 ^ (w - 1) ≤ v then 2 ^ (w - 1) - 1 else if v < -(2 ^ (w - 1)) then -(2 ^ (w - 1)) else v
    let S := asSigned
    two (.iadd d a b q t) (fun _ x y => x + y) ∧
    two (.isub d a b q t) (fun _ x y => x - y) ∧
    two (.imul d a b q t) (fun _ x y => x * y) ∧
    two (.imulh d a b q t) (fun w x y => S w x * S w y / 2 ^ w) ∧
    IntegerLanes (.imad d a b q t) s d [a, b, d] q t (fun _ x y z => x * y + z) ∧
    two (.imin d a b q t) (fun w x y => if S w x ≤ S w y then x else y) ∧
    two (.imax d a b q t) (fun w x y => if S w x ≤ S w y then y else x) ∧
    two (.iminu d a b q t) (fun _ x y => if x ≤ y then x else y) ∧
    two (.imaxu d a b q t) (fun _ x y => if x ≤ y then y else x) ∧
    two (.iand d a b q t) (fun _ x y => (x &&& y : Nat)) ∧
    two (.ior d a b q t) (fun _ x y => (x ||| y : Nat)) ∧
    two (.ixor d a b q t) (fun _ x y => (x ^^^ y : Nat)) ∧
    two (.ishl d a b q t) (fun w x y => x * 2 ^ (y % w)) ∧
    two (.ishrl d a b q t) (fun w x y => x / 2 ^ (y % w)) ∧
    two (.ishra d a b q t) (fun w x y => S w x / 2 ^ (y % w)) ∧
    two (.iadds d a b q t) (fun w x y => sat w (S w x + S w y)) ∧
    two (.isubs d a b q t) (fun w x y => sat w (S w x - S w y)) ∧
    two (.clmul d a b q t) (fun w x y =>
      ((List.range w).foldl (fun r k => if y.testBit k then r ^^^ (x <<< k) else r) 0 : Nat)) ∧
    one (.iabs d a q t) (fun w x => if S w x < 0 then -S w x else x) ∧
    one (.ipopc d a q t) (fun w x => ((List.range w).filter fun k => x.testBit k).length) ∧
    one (.iclz d a q t) (fun w x => ((List.range (w + 1)).filter fun r => decide (x < 2 ^ (w - r)) && decide (0 < r)).length)

/-- Each integer compare tests sub-element 0 of the lanes of va and vb, and each floating-point compare the value or
half 0 of each lane in its format with FTZ; the bit of a lane outside the mask is 0; the whole predicate lands after
4 cycles, and NV is set as R195 says. QSET tests a lane against zero and lands after 2 cycles. (R182, R195, R198,
R218) -/
def Obligations.VectorCompares : Prop :=
  ∀ (s : State) (d a : BitVec 5) (n q : BitVec 3) (t : BitVec 2),
    let w := if t = 0 then 32 else if t = 1 then 16 else 8
    let sub (xs : List W32) (k : Nat) : Nat := (xs.getD k 0).toNat % 2 ^ w
    let f := if t = 0 then fp32 else if t = 1 then bf16 else fp16
    let v (xs : List W32) (k : Nat) : FVal :=
      f.operand s.fpc (if t = 0 then (xs.getD k 0).toNat else (xs.getD k 0).toNat % 2 ^ 16)
    let un (xs : List W32) : Prop := (v xs 0).isNaN = true ∨ (v xs 1).isNaN = true
    let is (o : Ordering) (xs : List W32) : Prop := ¬un xs ∧ (v xs 0).cmp (v xs 1) = o
    let quiet (xs : List W32) : Flags := if (v xs 0).isSig || (v xs 1).isSig then fNV else 0
    let loud (xs : List W32) : Flags := if (v xs 0).isNaN || (v xs 1).isNaN then fNV else 0
    LaneCompare (.icmpeq d a n q t) s n 4 [d, a] q (fun xs => sub xs 0 = sub xs 1) (fun _ => 0) ∧
    LaneCompare (.icmplt d a n q t) s n 4 [d, a] q (fun xs => asSigned w (sub xs 0) < asSigned w (sub xs 1)) (fun _ => 0) ∧
    LaneCompare (.icmpltu d a n q t) s n 4 [d, a] q (fun xs => sub xs 0 < sub xs 1) (fun _ => 0) ∧
    LaneCompare (.fcmpeq d a n q t) s n 4 [d, a] q (is .eq) quiet ∧
    LaneCompare (.fcmpne d a n q t) s n 4 [d, a] q (fun xs => ¬is .eq xs) quiet ∧
    LaneCompare (.fcmplt d a n q t) s n 4 [d, a] q (is .lt) loud ∧
    LaneCompare (.fcmple d a n q t) s n 4 [d, a] q (fun xs => is .lt xs ∨ is .eq xs) loud ∧
    LaneCompare (.fcmpun d a n q t) s n 4 [d, a] q un quiet ∧
    LaneCompare (.qset n a t) s n 2 [a] 0 (fun xs => (xs.getD 0 0).toNat ≠ 0) fun _ => 0

/-- Each floating-point lane operation completes on every cluster of its slot after 4 cycles. In a lane of one FP32
value, or in each half of a BF16 or FP16 pair on its own, it reads its operands under FTZ, forms the exact sum,
difference, product, fused sum or choice of R56, rounds it once into the format under RM, and ORs the flags of every
lane inside the mask; FABS, FNEG, FRND and FCLASS act as R192 to R194 say. Nothing but the destination register is
written. (R54, R55, R56, R182, R190, R191, R192, R193, R194) -/
def Obligations.VectorFloatOperations : Prop :=
  ∀ (s : State) (d a b : BitVec 5) (q : BitVec 3) (t : BitVec 2),
    let c := s.fpc
    let f := if t = 0 then fp32 else if t = 1 then bf16 else fp16
    let pair (g : List Nat → Nat × Flags) (xs : List W32) (r : W32) : Prop :=
      if t = 0 then r.toNat = (g (xs.map BitVec.toNat)).1 % 2 ^ 32
      else r.toNat % 2 ^ 16 = (g (xs.map fun x => x.toNat % 2 ^ 16)).1 % 2 ^ 16 ∧
        r.toNat / 2 ^ 16 = (g (xs.map fun x => x.toNat / 2 ^ 16)).1 % 2 ^ 16
    let fl (g : List Nat → Nat × Flags) (xs : List W32) : Flags :=
      if t = 0 then (g (xs.map BitVec.toNat)).2
      else (g (xs.map fun x => x.toNat % 2 ^ 16)).2 ||| (g (xs.map fun x => x.toNat / 2 ^ 16)).2
    let op (i : Instr) (rs : List (BitVec 5)) (g : List Nat → Nat × Flags) : Prop :=
      LaneWise i s d 4 s.clusters rs q (pair g) (fl g)
    let v (xs : List Nat) (k : Nat) : FVal := f.operand c (xs.getD k 0)
    let rounds (e : FVal × Flags) : Nat × Flags := ((f.round c e.1).1, (f.round c e.1).2 ||| e.2)
    let fused (sub neg : Bool) (xs : List Nat) : Nat × Flags :=
      let r := FVal.fma c.rm (v xs 0) (v xs 1) (if sub then (v xs 2).neg else v xs 2)
      rounds (if neg then r.1.neg else r.1, r.2)
    op (.fadd d a b q t) [a, b] (fun xs => rounds ((v xs 0).add c.rm (v xs 1))) ∧
    op (.fsub d a b q t) [a, b] (fun xs => rounds ((v xs 0).add c.rm (v xs 1).neg)) ∧
    op (.fmul d a b q t) [a, b] (fun xs => rounds ((v xs 0).mul (v xs 1))) ∧
    op (.fma d a b q t) [a, b, d] (fused false false) ∧
    op (.fms d a b q t) [a, b, d] (fused true false) ∧
    op (.fnma d a b q t) [a, b, d] (fused false true) ∧
    op (.fnms d a b q t) [a, b, d] (fused true true) ∧
    op (.fmin d a b q t) [a, b] (fun xs => rounds ((v xs 0).minmax false (v xs 1))) ∧
    op (.fmax d a b q t) [a, b] (fun xs => rounds ((v xs 0).minmax true (v xs 1))) ∧
    op (.fabs d a q t) [a] (fun xs => opSign true c f xs) ∧
    op (.fneg d a q t) [a] (fun xs => opSign false c f xs) ∧
    op (.frnd d a q t) [a] (fun xs => opRound c f xs) ∧
    op (.fclass d a q t) [a] fun xs => opClass c f xs

/-- In FP32: an arithmetic operation with a NaN operand gives 0x7FC0_0000, with NV exactly where an operand is a
signalling NaN; ∞ − ∞ and ∞ × 0 give it with NV; FMIN and FMAX return the operand that is no NaN and order −0 below
+0; an exact zero sum of opposite signs is +0, and −0 under round-downward; without FTZ, FABS clears and FNEG
inverts the sign bit of every code that is no NaN, without a flag; FCLASS sets exactly one bit. (R55, R56, R190,
R192, R194) -/
def Obligations.FloatingPointCorners : Prop :=
  ∀ (c : FpCtl) (x y : Nat), x < 2 ^ 32 → y < 2 ^ 32 →
    let mag (v : Nat) : Nat := v % 2 ^ 31
    let nan (v : Nat) : Prop := 0x7F800000 < mag v
    let sig (v : Nat) : Prop := nan v ∧ v / 2 ^ 22 % 2 = 0
    (nan x ∨ nan y → ∀ g, g ∈ [opAdd, opSub, opMulF] → (g c fp32 [x, y]).1 = 0x7FC00000 ∧
      ((sig x ∨ sig y) → (g c fp32 [x, y]).2 = fNV) ∧ (¬(sig x ∨ sig y) → (g c fp32 [x, y]).2 = 0)) ∧
    (mag x = 0x7F800000 → y = x → opSub c fp32 [x, y] = (0x7FC00000, fNV)) ∧
    (mag x = 0x7F800000 → mag y = 0 → opMulF c fp32 [x, y] = (0x7FC00000, fNV)) ∧
    (nan x → ¬nan y → c.ftz = false → (opMinMax false c fp32 [x, y]).1 = y ∧ (opMinMax true c fp32 [x, y]).1 = y) ∧
    ((opMinMax false c fp32 [0, 0x80000000]).1 = 0x80000000 ∧ (opMinMax true c fp32 [0x80000000, 0]).1 = 0) ∧
    (¬nan x → mag x < 0x7F800000 → opSub c fp32 [x, x] = (if c.rm = .rdn then 0x80000000 else 0, 0)) ∧
    (¬nan x → c.ftz = false → opSign true c fp32 [x] = (mag x, 0) ∧
      opSign false c fp32 [x] = (if x < 2 ^ 31 then x + 2 ^ 31 else x - 2 ^ 31, 0)) ∧
    ∃ k, k < 10 ∧ (opClass c fp32 [x]).1 = 2 ^ k

/-- For FP32, FP16, BF16, E4M3 and E5M2 and a nonzero magnitude m × 2^e, the code under round-toward-zero has a value no
larger than it, whose next code's value is larger; round-upward of a positive value gives that code or the next, the
next exactly when the result is inexact; and each mode's result is inexact exactly when no code of unbounded
exponent has the value. (R44, R53, R57) -/
def Obligations.RoundingIsDirected : Prop :=
  ∀ (f : Fmt) (m : Nat) (e : Int), f ∈ [fp32, fp16, bf16, e4m3, e5m2] → 0 < m →
    let below (a b : Nat × Int) : Prop := a.1 * 2 ^ (a.2 - min a.2 b.2).toNat < b.1 * 2 ^ (b.2 - min a.2 b.2).toNat
    let z := f.code .rtz false m e
    let u := f.code .rup false m e
    ¬below (m, e) (f.mag z.1) ∧ below (m, e) (f.mag (z.1 + 1)) ∧
    (z.2.1 = true ↔ below (f.mag z.1) (m, e)) ∧
    (z.2.1 = false → u.1 = z.1) ∧ (z.2.1 = true → u.1 = z.1 + 1) ∧
    ∀ rm, (f.code rm false m e).2.1 = z.2.1 ∧ ((f.code rm false m e).1 = z.1 ∨ (f.code rm false m e).1 = z.1 + 1)

/-- MOV copies lanes inside the mask; MOVI and MOVS fill every lane; SEL chooses by its selector; XCL writes CONST into
empty lanes; COMPRESS packs the selected lanes to the bottom and writes its predicate, EXPAND spreads them; XCOPY,
XBCAST and LBCAST copy from the named cluster and lane. PERM takes each lane's source from its index lane. Each
completes on every cluster of its slot, after the bound of R122, and writes nothing else. (R187, R205, R207, R208,
R209, R210, R211, R214, R215, R216) -/
def Obligations.LaneMovements : Prop :=
  ∀ (s : State) (d a b : BitVec 5) (n q c : BitVec 3) (t : BitVec 2) (i : BitVec 10) (r : BitVec 6) (l : BitVec 4),
    let m (cl j : Nat) : Bool := (s.was.qr cl q.toNat).getLsbD j
    let rank (cl j : Nat) : Nat := ((List.range j).filter fun k => m cl k).length
    let const (cl : Nat) : W32 := BitVec.ofNat 32 ((s.seen.vcfg.get 0 cl).toNat / 2 ^ 32)
    let packed (cl j : Nat) : Option (W32 × Bool) :=
      match (List.range 16).find? fun k => m cl k && rank cl k == j with
      | some k => some (s.laneOf cl a k)
      | none => some (0, false)
    LaneMove (.mov d a q) s d 4 (fun cl j => if m cl j then some (s.laneOf cl a j) else none) ∧
    LaneMove (.movi d i) s d 4 (fun _ _ => some (BitVec.ofInt 32 i.toInt, false)) ∧
    LaneMove (.movs d r) s d 4 (fun _ _ => some (BitVec.ofNat 32 (s.rs r).toNat, false)) ∧
    LaneMove (.sel d a b q t) s d 4 (fun cl j => some (if m cl j then s.laneOf cl a j else s.laneOf cl b j)) ∧
    LaneMove (.xcl d a q t) s d 3 (fun cl j => if m cl j then
      some (if (s.laneOf cl a j).2 then const cl else (s.laneOf cl a j).1, false) else none) ∧
    LaneMove (.expand d a q t) s d 4 (fun cl j => some (if m cl j then s.laneOf cl a (rank cl j) else (0, false))) ∧
    LaneMove (.xcopy d a c) s d 6 (fun _ j => some (s.laneOf c.toNat a j)) ∧
    LaneMove (.xbcast d a c) s d 8 (fun cl _ => some (s.laneOf c.toNat a cl)) ∧
    LaneMove (.lbcast d a l) s d 3 (fun cl _ => some (s.laneOf cl a l.toNat)) ∧
    ((∀ cl, cl ∈ s.clusters → ∀ j, j < 16 → m cl j = true → ¬s.laneGone cl b j) →
      LaneMove (.perm d a b q t) s d 3 fun cl j =>
        let x := (s.laneIn cl b j).toNat
        if m cl j then some (if 2 ^ 31 ≤ x then (0, false) else s.laneOf cl a (x % 16)) else none) ∧
    Completes (.compress d a n q t) s fun u => ∃ v, LandsIn s v .vec d.toNat 4 s.clusters (fun cl e => e.mask = 0xFFFF ∧
        ∀ j, j < 16 → packed cl j = some (e.val.extractLsb' (32 * j) 32, e.emp.getLsbD j)) ∧
      LandsIn v u .lanePred n.toNat 4 s.clusters fun cl e => e.mask = 0xFFFF ∧ e.val.toNat = 2 ^ rank cl 16 - 1

/-- QAND, QOR, QXOR and QANDN land the logic of two lane predicates after 2 cycles, QPOP the number of set bits in every
lane. MVLS lands a lane, zero-extended, in its scalar register after 3 cycles, exposed, and discards it for s0;
under STOP an empty lane raises INFO 16. VCFGW gives the cluster's VCFGn the two lanes from the second cycle on.
(R206, R217, R219, R220) -/
def Obligations.LanePredicatesAndScalars : Prop :=
  ∀ (s : State) (x y z : BitVec 3) (d a : BitVec 5) (r : BitVec 6) (l : BitVec 4),
    let bit (q : BitVec 3) (cl j : Nat) : Bool := (s.was.qr cl q.toNat).getLsbD j
    let logic (i : Instr) (f : Bool → Bool → Bool) : Prop :=
      Completes i s fun t => LandsIn s t .lanePred x.toNat 2 s.clusters fun cl e =>
        e.mask = 0xFFFF ∧ ∀ j, j < 16 → e.val.getLsbD j = f (bit y cl j) (bit z cl j)
    logic (.qand x y z) and ∧ logic (.qor x y z) or ∧ logic (.qxor x y z) xor ∧ logic (.qandn x y z) (fun u v => u && !v) ∧
    LaneMove (.qpop d y) s d 2 (fun cl _ => some (BitVec.ofNat 32 ((List.range 16).filter fun j => bit y cl j).length, false)) ∧
    ((∃ cl, cl ∈ s.clusters ∧ s.stopsOnEmpty cl ∧ s.laneGone cl a l.toNat) →
      Completes (.mvls a r l) s (· = s.stop 0x02 16)) ∧
    (¬(∃ cl, cl ∈ s.clusters ∧ s.stopsOnEmpty cl ∧ s.laneGone cl a l.toNat) → r ≠ 0 →
      Completes (.mvls a r l) s fun t => ∃ es : List Landing,
        t = s.modCtx (fun u => { u with land := u.land ++ es }) ∧ es.length = s.clusters.length ∧
        ∀ (k : Nat) (e : Landing) (cl : Nat), es[k]? = some e → s.clusters[k]? = some cl → e.kind = .scalar ∧ e.reg = r.toNat ∧ e.due = s.now + 3 ∧
          e.held = false ∧ e.val.toNat = (s.laneIn cl a l.toNat).toNat) ∧
    (r = 0 → ¬(∃ cl, cl ∈ s.clusters ∧ s.stopsOnEmpty cl ∧ s.laneGone cl a l.toNat) → Completes (.mvls a r l) s (· = s)) ∧
    Completes (.vcfgw a) s fun t => t = s.modHere fun k => { k with
      vland := k.vland ++ s.clusters.map fun cl => (s.now + 2, cl, (s.was.vr cl a.toNat).val.setWidth 64) }

/-- Each reduction of a register of FP32 values or of BF16 or FP16 pairs, each half position on its own, lands in every
lane the result of the pairwise tree over its 16 lanes, excluded lanes entering as -0, -infinity and +infinity; SCAN
lands the Hillis-Steele sums, its lane 0 as the addition reads it. RSUM, RMAX and RMIN take 6 cycles and SCAN 8,
with the flags of every step. An empty lane inside the mask stops the slot under STOP and makes the whole result
empty under PROPAGATE. (R64, R65, R182, R189, R212, R213) -/
def Obligations.Reductions : Prop :=
  ∀ (s : State) (d a : BitVec 5) (q : BitVec 3) (t : BitVec 2),
    let m (cl j : Nat) : Bool := (s.was.qr cl q.toNat).getLsbD j
    let fm := if t = 0 then fp32 else if t = 1 then bf16 else fp16
    let part (h : Nat) (x : W32) : Nat := if t = 0 then x.toNat else x.toNat / 65536 ^ h % 65536
    let input (dflt cl h j : Nat) : Nat × Flags := (if m cl j then part h (s.laneIn cl a j) else dflt, 0)
    let step (op : FpCtl → Fmt → List Nat → Nat × Flags) (x y : Nat × Flags) : Nat × Flags :=
      ((op s.fpc fm [x.1, y.1]).1, x.2 ||| y.2 ||| (op s.fpc fm [x.1, y.1]).2)
    let tree (op : FpCtl → Fmt → List Nat → Nat × Flags) (v : Nat → Nat × Flags) : Nat × Flags :=
      let p (h : Nat → Nat × Flags) (i : Nat) : Nat × Flags := step op (h (2 * i)) (h (2 * i + 1))
      p (p (p (p v))) 0
    let sums (v : Nat → Nat × Flags) : Nat → Nat × Flags :=
      let p (h : Nat → Nat × Flags) (k i : Nat) : Nat × Flags := if i < k then h i else step opAdd (h (i - k)) (h i)
      p (p (p (p v 1) 2) 4) 8
    let lands (i : Instr) (bound : Nat) (g : Nat → Nat → Nat → Nat × Flags) : Prop :=
      WholeWise i s d a bound (fun cl j => m cl j = true)
        (fun cl e => e.mask = 0xFFFF ∧ ∀ j, j < 16 → e.val.extractLsb' (32 * j) 32 =
          BitVec.ofNat 32 (if t = 0 then (g cl 0 j).1 else (g cl 0 j).1 + (g cl 1 j).1 * 65536))
        (fun cl => (List.range 16).foldl (fun f j => f ||| (g cl 0 j).2 ||| (if t = 0 then 0 else (g cl 1 j).2)) 0)
    lands (.rsum d a q t) 6 (fun cl h _ => tree opAdd (input (fm.signed true 0) cl h)) ∧
    lands (.rmax d a q t) 6 (fun cl h _ => tree (opMinMax true) (input (fm.signed true (fm.inf.getD 0)) cl h)) ∧
    lands (.rmin d a q t) 6 (fun cl h _ => tree (opMinMax false) (input (fm.signed false (fm.inf.getD 0)) cl h)) ∧
    lands (.scan d a q t) 8 fun cl h j =>
      let r := sums (input (fm.signed true 0) cl h) j
      if j = 0 then ((fm.round .exact (fm.operand s.fpc r.1)).1, r.2) else r

/-- Each conversion completes for every register content, code, mask and empty-lane policy. CVT lands in every lane
inside its mask the conversion its code names; the narrowing codes replace one half or byte of vd and keep the rest,
and then an empty lane of vd counts as one read. CVTAX and CVTXA convert the eight elements that H selects, each
with the exponent of its lane of vb. PACKB writes a whole register: the element codes, the two scale codes, and
zeros. UNPKB writes inside its mask each element times its block scale. PACKB and UNPKB, whose codes are 6, 7 and 8,
stop or give a whole empty register where an empty lane is read. (R182, R189, R199, R200, R201, R202, R203, R204) -/
def Obligations.Conversions : Prop :=
  ∀ (s : State) (d a b k : BitVec 5) (q : BitVec 3),
    let c := s.fpc
    let n := k.toNat
    let m (cl j : Nat) : Prop := (s.was.qr cl q.toNat).getLsbD j = true
    let fld (w i y : Nat) : Nat := y / 2 ^ (w * i) % 2 ^ w
    let keeps : Bool := (decide (4 ≤ n) && decide (n ≤ 7)) || (decide (0x0C ≤ n) && decide (n ≤ 0x13)) || decide (0x1C ≤ n)
    let x (xs : List W32) (i : Nat) : Nat := (xs.getD i 0).toNat
    let put (w i old v r : Nat) : Prop := fld w i r = v % 2 ^ w ∧
      ∀ j, j < 32 → (j < w * i ∨ w * (i + 1) ≤ j) → r.testBit j = old.testBit j
    let gives (xs : List W32) (r : Nat) : Prop :=
      let y := x xs 0
      let old := x xs 1
      let v := fp32.operand c y
      (n = 0 → asSigned 32 r = (v.toSigned c.rm 32).1) ∧ (n = 1 → asSigned 32 r = (v.toSigned .rtz 32).1) ∧
      (n = 2 → r = (fp32.round c (ofInt (asSigned 32 y))).1) ∧ (n = 3 → r = (fp32.round c (ofInt y)).1) ∧
      (4 ≤ n → n ≤ 5 → put 16 (n - 4) old (bf16.narrow16 c v).1 r) ∧
      (6 ≤ n → n ≤ 7 → put 16 (n - 6) old (fp16.narrow16 c v).1 r) ∧
      (8 ≤ n → n ≤ 9 → r = (fp32.round .exact (bf16.operand c (fld 16 (n - 8) y))).1) ∧
      (0x0A ≤ n → n ≤ 0x0B → r = (fp32.round .exact (fp16.operand c (fld 16 (n - 0x0A) y))).1) ∧
      (0x0C ≤ n → n ≤ 0x0F → put 8 (n - 0x0C) old (e4m3.narrow c v).1 r) ∧
      (0x10 ≤ n → n ≤ 0x13 → put 8 (n - 0x10) old (e5m2.narrow c v).1 r) ∧
      (0x14 ≤ n → n ≤ 0x17 → r = (fp32.round .exact (e4m3.value (fld 8 (n - 0x14) y))).1) ∧
      (0x18 ≤ n → n ≤ 0x1B → r = (fp32.round .exact (e5m2.value (fld 8 (n - 0x18) y))).1) ∧
      (0x1C ≤ n → put 8 (n - 0x1C) old (wrapTo 8 (v.toSigned c.rm 8).1) r)
    let half (cl : Nat) : Nat := (s.laneIn cl b 0).toNat / 2 ^ 16 % 2
    let E (xs : List W32) (i : Nat) : Int := asSigned 16 (x xs i % 2 ^ 16)
    let ax (xs : List W32) : Int × Flags := toAx (E xs 1) (fp32.value (x xs 0))
    let xa (xs : List W32) : Nat × Flags := ofAx (E xs 2) (asSigned 64 (x xs 0 + x xs 1 * 2 ^ 32))
    LaneWise (.cvt d a k q) s d 4 s.clusters (if keeps then [a, d] else [a]) q (fun xs r => gives xs r.toNat)
      (fun xs => (cvtLane c n (x xs 0) (x xs 1)).2) ∧
    LaneWiseFrom (.cvtax d a b q) s d 4 (fun _ => False) m
      (fun cl j => [(a, 8 * half cl + j / 2), (b, j), (b, 0)])
      (fun xs j r => r.toNat = if j % 2 = 0 then wrapTo 64 (ax xs).1 % 2 ^ 32 else wrapTo 64 (ax xs).1 / 2 ^ 32 % 2 ^ 32)
      (fun xs => (ax xs).2) ∧
    LaneWiseFrom (.cvtxa d a b q) s d 4 (fun cl => s.laneGone cl b 0 ∧ ∃ j, j < 16 ∧ m cl j)
      (fun cl j => m cl j ∧ j / 8 = half cl)
      (fun _ j => [(a, 2 * (j % 8)), (a, 2 * (j % 8) + 1), (b, j), (b, 0)])
      (fun xs _ r => r.toNat = (xa xs).1 % 2 ^ 32) (fun xs => (xa xs).2) ∧
    (k.toNat ∈ [6, 7, 8] →
      let wide := if n = 8 then 4 else 6
      let sl := if n = 8 then 2 else 3
      let blk (cl h : Nat) : List Nat × Nat × Flags := packBlock c n ((List.range 8).map fun i =>
        if (s.was.qr cl q.toNat).getLsbD (8 * h + i) then fp32.operand c (s.laneIn cl a (8 * h + i)).toNat else .fin false 0 0)
      WholeWise (.packb d a k q) s d a 6 m
        (fun cl e => e.mask = 0xFFFF ∧ e.val.toNat / 2 ^ (32 * sl) = (blk cl 0).2.1 + (blk cl 1).2.1 * 256 ∧
          ∀ i, i < 16 → fld wide i e.val.toNat = (blk cl (i / 8)).1.getD (i % 8) 0 % 2 ^ wide)
        (fun cl => (blk cl 0).2.2 ||| (blk cl 1).2.2) ∧
      WholeWise (.unpkb d a k q) s d a 6 (fun _ j => j ≤ sl)
        (fun cl e => ∀ j, j < 16 → (e.mask.getLsbD j = true ↔ m cl j) ∧ (m cl j →
          (e.val.extractLsb' (32 * j) 32).toNat = unpackElem n (lanes fun i => s.laneIn cl a i) j % 2 ^ 32))
        (fun _ => 0))

/-- Each F operation, of every type, completes in all eight clusters with each cluster's mask and policy, after 16
cycles, and the cell notes its issue; under STOP an empty lane inside a mask stops it with INFO 16. On an FP32 lane:
a NaN gives the canonical NaN with NV exactly when it signals; RCP of a zero is an infinity of its sign with DZ and
of an infinity a zero of its sign; the roots and the logarithm of a negative number are NaN with NV; SQRT of a zero
is that zero; 2^0 and e^0 and cos 0 are 1, and the sigmoid of 0 is 0.5; the odd functions keep a zero; SIN and COS
of an infinity are NaN with NV. (R181, R182, R189, R221, R222, R223) -/
def Obligations.SpecialFunctions : Prop :=
  ∀ (s : State) (d a : BitVec 5) (q : BitVec 3) (t : BitVec 2),
    let c := s.fpc
    let fns : List (Instr × SpecFn) := [(.rcp d a q t, .rcp), (.rsq d a q t, .rsq), (.sqrt d a q t, .sqrt),
      (.exp2 d a q t, .exp2), (.log2 d a q t, .log2), (.tanh d a q t, .tanh), (.sigm d a q t, .sigm), (.erf d a q t, .erf),
      (.sin d a q t, .sin), (.cos d a q t, .cos), (.expe d a q t, .expe), (.gelu d a q t, .gelu)]
    let fm := if t = 0 then fp32 else if t = 1 then bf16 else fp16
    let on (f : SpecFn) (x : Nat) : Nat × Flags := opSpecial f t c fm [x]
    let val (f : SpecFn) (x : W32) : Nat :=
      if t = 0 then (on f x.toNat).1 % 2 ^ 32
      else (on f (x.toNat % 2 ^ 16)).1 % 2 ^ 16 + (on f (x.toNat / 2 ^ 16)).1 % 2 ^ 16 * 2 ^ 16
    let fl (f : SpecFn) (x : W32) : Flags :=
      if t = 0 then (on f x.toNat).2 else (on f (x.toNat % 2 ^ 16)).2 ||| (on f (x.toNat / 2 ^ 16)).2
    let m (cl j : Nat) : Prop := j < 16 ∧ (s.was.qr cl q.toNat).getLsbD j = true
    let stops : Prop := ∃ cl, cl < 8 ∧ s.stopsOnEmpty cl ∧ ∃ j, m cl j ∧ s.laneGone cl a j
    let noted (u : State) : State := u.modHere fun k => { k with lastF := some s.now }
    let g (f : SpecFn) (x : Nat) : Nat × Flags := opSpecial f 0 c fp32 [x]
    (∀ p, p ∈ fns →
      (stops → Completes p.1 s (· = noted (s.stop 0x02 16))) ∧
      (¬stops → Completes p.1 s fun v => ∃ u, v = noted u ∧
        LandsIn s u .vec d.toNat 16 (List.range 8) fun cl e =>
          (∀ j, j < 16 → (e.mask.getLsbD j = true ↔ m cl j)) ∧
          (∀ j, m cl j →
            (s.laneGone cl a j → e.val.extractLsb' (32 * j) 32 = 0 ∧ e.emp.getLsbD j = true) ∧
            (¬s.laneGone cl a j → e.emp.getLsbD j = false ∧
              (e.val.extractLsb' (32 * j) 32).toNat = val p.2 (s.laneIn cl a j))) ∧
          ∀ b, e.flags.getLsbD b = true ↔ 8 ≤ b ∧ ∃ j, m cl j ∧ ¬s.laneGone cl a j ∧
            (fl p.2 (s.laneIn cl a j)).getLsbD (b - 8) = true)) ∧
    (∀ x, x < 2 ^ 32 → 0x7F800000 < x % 2 ^ 31 → ∀ f, g f x = (0x7FC00000, if x / 2 ^ 22 % 2 = 0 then fNV else 0)) ∧
    g .rcp 0 = (0x7F800000, fDZ) ∧ g .rcp 0x80000000 = (0xFF800000, fDZ) ∧ g .rcp 0x7F800000 = (0, 0) ∧
    g .rcp 0xFF800000 = (0x80000000, 0) ∧ g .rsq 0x80000000 = (0xFF800000, fDZ) ∧ g .sqrt 0x80000000 = (0x80000000, 0) ∧
    g .log2 0 = (0xFF800000, fDZ) ∧ g .log2 0x3F800000 = (0, 0) ∧ g .exp2 0 = (0x3F800000, 0) ∧
    g .expe 0x80000000 = (0x3F800000, 0) ∧ g .cos 0 = (0x3F800000, 0) ∧ g .sigm 0 = (0x3F000000, 0) ∧
    g .tanh 0x80000000 = (0x80000000, 0) ∧ g .sin 0x7F800000 = (0x7FC00000, fNV) ∧ g .gelu 0xFF800000 = (0x80000000, 0) ∧
    (∀ x, 0x80800000 ≤ x → x ≤ 0xFF800000 → ∀ f, f ∈ [.rsq, .sqrt, .log2] → g f x = (0x7FC00000, fNV))

/-- A queued M operation holds its bundle while eight operations wait in the queue of the engine its slot selects; else
it enters at the end, with the tile, auxiliary bits, the value of its register at issue and its origin, and Tarragon
looks at the queue. Before that it stops with INFO 38 where the tile is owned by another context (or not owned, for
operations other than MZERO, MMUL and MREST), INFO 39 or 40 without a pair, weights or rows, INFO 42 on a stream of
another target. An operation that takes a tile cancels the releases of its context's earlier operations on it; a
tile or weight buffers that an evicted task holds are claimed first, and where there is none no claim changes
anything. MCFG, MCHK and MWAIT stay in place while what they wait for is queued or running, and act in their issue
cycle. (R249, R250, R251, R252, R253, R254, R255, R257, R258, R260, R261) -/
def Obligations.MatrixInstructions : Prop :=
  ∀ (s : State) (t : BitVec 3) (r : BitVec 6) (q z rel h w1 : BitVec 1) (n : BitVec 7) (f a w : BitVec 4) (g : BitVec 2)
      (k : BitVec 8),
    let c := s.focus.cell
    let en := 9 - s.focus.slot
    let m := s.here.mat en
    let x := s.focus.ctx
    let own : Prop := (m.tile t.toNat).owner = some x
    let free : Prop := ∀ y, (m.tile t.toNat).owner = some y → y = x ∨ 4 ≤ y
    let ill (i : Instr) (info : Nat) : Prop := Completes i s (· = s.stop 0x02 info)
    let stays (i : Instr) : Prop := Completes i s (· = s.modCtx fun y => { y with pc := s.focus.pc })
    let enters (b : State) (i : Instr) (op tile aux : Nat) (v : W64) (st : Option Nat) (m' : MatEngine) : Prop :=
      (8 ≤ m.queue.length → Completes i s (· = s.block (.matrix en))) ∧
      (m.queue.length < 8 → Completes i s (b.EntersQueue op tile aux v st m'))
    let claimed : State := s.claimTile c en t.toNat
    let weights : State := s.claimWeights c en
    let keep (e : MEntry) : MEntry := if e.ctx = x ∧ e.tile = some t.toNat then { e with kept := true } else e
    let taken : MatEngine := { (claimed.here.mat en).putTile t.toNat (fun u => { u with owner := some x }) with
      queue := m.queue.map keep, originals := m.originals.map keep, running := m.running.map fun u => (keep u.1, u.2) }
    let defined (st : BitVec 6) (target : Nat) : Prop := ∃ u, s.here.seq st.toNat = some u ∧ u.target = target
    let rows (p : BitVec 4 × BitVec 4) : Nat := if p.1 = 3 ∨ p.2 = 3 then 32 else if p.1 = 8 ∧ p.2 = 8 then 128 else 64
    let mul (i : Instr) (op : Nat) (may : Prop) (b : State) (m' : MatEngine) : Prop :=
      let ready : Prop := m.swapped = true ∧ ∃ p, m.pair = some p ∧ n.toNat + 1 ≤ rows p
      (¬may → ill i 38) ∧ (may → ¬ready → ill i 40) ∧
      (may → ready → (q = 1 → ¬defined r 2 → ill i 42) ∧
        (q = 1 → defined r 2 → enters b i op t.toNat (n.toNat + 128) 0 (some r.toNat) m') ∧
        (q = 0 → enters b i op t.toNat n.toNat (s.rs r) none m'))
    let owned (i : Instr) (op aux : Nat) (v : W64) : Prop :=
      (¬own → ill i 38) ∧ (own → enters s i op t.toNat aux v none m)
    let on (e : MEntry) : Prop := e ∈ m.queue ∨ ∃ u, u ∈ m.running ∧ u.1 = e
    -- MCFG
    (¬(m.queue = [] ∧ m.running = []) → stays (.mcfg w a)) ∧
    (m.queue = [] → m.running = [] →
      let ok : Prop := (3 ≤ a.toNat ∧ a.toNat ≤ 8 ∧ 3 ≤ w.toNat ∧ w.toNat ≤ 8) ∨ (a = 9 ∧ w = 9);
      (¬ok → ill (.mcfg w a) 39) ∧
      (ok → Completes (.mcfg w a) s (· = (weights.modMat c en fun e => { e with pair := some (a, w) }).closeWindow))) ∧
    -- weights
    (m.pair = none → ill (.mwload r q) 39) ∧
    (m.pair ≠ none →
      (q = 1 → ¬defined r 1 → ill (.mwload r q) 42) ∧
      (q = 1 → defined r 1 →
        enters weights (.mwload r q) 2 0 1 0 (some r.toNat) { (weights.here.mat en) with loaded := true }) ∧
      (q = 0 → enters weights (.mwload r q) 2 0 0 (s.rs r) none { (weights.here.mat en) with loaded := true })) ∧
    (m.pair = none ∨ m.loaded = false → ill .mwswap 40) ∧
    (m.pair ≠ none → m.loaded = true → enters s .mwswap 3 0 0 0 none { m with loaded := false, swapped := true }) ∧
    (m.aside = false → weights = s) ∧
    -- products
    mul (.mmul t r q n) 4 free claimed taken ∧ mul (.mmac t r q n) 5 own s m ∧
    -- tiles
    owned (.mdrain t r z rel f) 6 (f.toNat + 16 * rel.toNat + 32 * z.toNat) (s.rs r) ∧
    (¬free → ill (.mzero t) 38) ∧ (free → enters claimed (.mzero t) 7 t.toNat 0 0 none taken) ∧
    owned (.mtrn t h) 8 h.toNat 0 ∧
    (g = 1 → enters s (.mscale t r g) 9 0 1 (s.rs r) none m) ∧ (g ≠ 1 → owned (.mscale t r g) 9 g.toNat (s.rs r)) ∧
    owned (.msave t r rel) 11 rel.toNat (s.rs r) ∧
    (¬free → ill (.mrest t r) 38) ∧ (free → enters claimed (.mrest t r) 12 t.toNat 0 (s.rs r) none taken) ∧
    ((∀ y, (m.tile t.toNat).owner = some y → y < 4) → claimed = s) ∧
    -- waits
    (let held : Prop := ∃ e, on e ∧ (match e.tile with | some u => k.getLsbD u = true | none => w1 = 1);
      (held → stays (.mwait w1 k)) ∧ (¬held → Completes (.mwait w1 k) s (· = s))) ∧
    (let held : Prop := ∃ e, on e ∧ e.tile = some t.toNat;
      (held → stays (.mchk t h)) ∧ (¬held → ¬own → ill (.mchk t h) 38) ∧
      (¬held → own → (m.tile t.toNat).firstBad = none → Completes (.mchk t h) s fun u =>
        if h = 1 then WritesPair s u 7 true else u = s) ∧
      (∀ row, ¬held → own → (m.tile t.toNat).firstBad = some row → Completes (.mchk t h) s fun u =>
        if h = 1 then WritesPair s u 7 false else u = s.stop 0x0A row))

/-- MATRIX_OP_START: nothing starts in a freeze cycle, nor while the engine is busy, save an MMUL or MMAC after one that
has fed its last row, nor in the cycle of issue. Else the head of the queue leaves it and runs, with the bytes its
source, no word of it poisoned, held as it started, to complete after the cycles of its operation.
MATRIX_OP_COMPLETE: before that cycle nothing happens; then MWLOAD fills the shadow buffer, MWSWAP makes it active,
MZERO leaves every element +0, RU 0 and row scales 1.0, MMUL and MMAC leave RU and the transpose flags of R255, MTRN
transposes its square and toggles its flag, MDRAIN stores the elements in its format and nothing else, and a
released tile that no later operation kept is free. A load of the rule table closes every window, takes COUNT + 4
cycles, and leaves the valid rules that pass its checks; the idle close is that of one engine. (R249, R250, R251,
R254, R255, R256, R257, R309, R323, R325) -/
def Obligations.MatrixEngineSteps : Prop :=
  ∀ (s : State),
    let c := s.args.c
    let n := s.args.e
    let m := (s.cell c).mat n
    let now := s.clock c
    let ks := if c / 256 % 2 = 1 then 1 else 0
    let may (e : MEntry) : Prop := (s.cell c).froze = false ∧ e.at_ < now ∧ (m.running = [] ∨ ((e.op = 4 ∨ e.op = 5) ∧
      ∀ u, u ∈ m.running → (u.1.op = 4 ∨ u.1.op = 5) ∧ u.2.1 < now))
    let cycles (e : MEntry) : Nat := if e.op = 7 then 4 else if e.op = 3 then 2 else if e.op = 6 then
      ((m.tile e.t).ru * 64 * (fmtBits (e.aux.toNat % 16) / 8) + 511) / 512 + 24
      else if e.op = 11 ∨ e.op = 12 then 93 else 36
    let runs (e : MEntry) (rest : List MEntry) (data : List Byte) (spans : List (Nat × Nat)) (cyc : Nat) (t : State) : State :=
      t.modMat c n fun u => { u with
        queue := rest
        originals := if rest = [] then [] else u.originals
        running := u.running ++ [({ e with data := data, spans := spans }, now + cyc - 25, now + cyc)] }
    -- starts
    (m.queue = [] → Completes .matrixOpStart s (· = s)) ∧
    (∀ e rest, m.queue = e :: rest →
      (¬may e → Completes .matrixOpStart s (· = s)) ∧
      (may e → e.op ∈ [3, 6, 7, 8, 9, 11] → Completes .matrixOpStart s (· = runs e rest [] [] (cycles e) s)) ∧
      (∀ p, may e → e.op = 4 ∨ e.op = 5 → e.stream = none → e.past = [] → m.pair = some p →
        let k := engineK c
        let r := e.aux.toNat % 128 + 1
        let per := if p.1 = 3 ∨ p.2 = 3 then 4 else if p.1 = 8 ∧ p.2 = 8 then 1 else 2
        let n := rowBytes k p.1.toNat * r
        let key := flatOf (s.localAddr c e.sval)
        s.matError c e n 8 false = none → s.poisoned key n = false →
        Completes .matrixOpStart s (· = runs e rest (s.readBytes key n) [(key, n)] (r * per + 24) (s.modCtxOf c e.ctx fun x => x.count 9 r))) ∧
      (∀ p, may e → e.op = 2 → e.stream = none → e.past = [] → m.pair = some p →
        let b := imageBytes (engineK c) p.2.toNat + checkBytes (engineK c)
        let per := if aSpace (s.localAddr c e.sval) = 1 then (if ks = 1 then 256 else 1024) else 512
        let key := flatOf (s.localAddr c e.sval)
        s.matError c e b 64 false = none → s.poisoned key b = false →
        Completes .matrixOpStart s (· = runs e rest (s.readBytes key b) [(key, b)] ((b + per - 1) / per + 16) s))) ∧
    -- completions
    (m.running = [] → Completes .matrixOpComplete s (· = s)) ∧
    (∀ e feed due rest, m.running = (e, feed, due) :: rest →
      (now < due → Completes .matrixOpComplete s (· = s)) ∧
      (due ≤ now → Completes .matrixOpComplete s fun t =>
        let u := (t.cell c).mat n
        let v := m.tile e.t
        u.running = rest ∧ u.queue = m.queue ∧ (⟨.matrixOpStart, { Args.empty with c := c, e := n }⟩ : Event) ∈ t.agenda ∧
        (e.op ∈ [2, 3, 4, 5, 7, 8, 9] → ∀ a, t.byte a = s.byte a) ∧
        (e.op = 2 → ∀ p, m.pair = some p → u.shadow = some ⟨p.2.setWidth 8, e.data⟩ ∧ u.active = m.active) ∧
        (e.op = 3 → u.active = m.shadow) ∧
        (e.op = 4 → m.active ≠ none → (u.tile e.t).ru = e.aux.toNat % 128 + 1 ∧ (u.tile e.t).flip0 = false ∧
          (u.tile e.t).flip1 = false ∧ (u.tile e.t).owner = v.owner) ∧
        (e.op = 5 → m.active ≠ none → (u.tile e.t).ru = max v.ru (e.aux.toNat % 128 + 1) ∧ (u.tile e.t).flip0 = v.flip0 ∧
          (u.tile e.t).flip1 = v.flip1 ∧ (u.tile e.t).scale = v.scale) ∧
        (e.op = 7 → (u.tile e.t).owner = v.owner ∧ (u.tile e.t).ru = 0 ∧ ∀ i, i < 8192 → (u.tile e.t).elem i = 0 ∧
          (u.tile e.t).rowScale (i / 64) = 0x3F80 ∧ (u.tile e.t).sum (i / 64) = some (0, 0)) ∧
        (e.op = 8 → (u.tile e.t).flip0 = (v.flip0 != (e.aux.toNat % 2 == 0)) ∧
          (u.tile e.t).flip1 = (v.flip1 != (e.aux.toNat % 2 == 1)) ∧
          ∀ i j, i < 64 → j < 64 →
            (u.tile e.t).elem ((64 * (e.aux.toNat % 2) + i) * 64 + j) = v.elem ((64 * (e.aux.toNat % 2) + j) * 64 + i) ∧
            (u.tile e.t).elem ((64 * (1 - e.aux.toNat % 2) + i) * 64 + j) = v.elem ((64 * (1 - e.aux.toNat % 2) + i) * 64 + j)) ∧
        (e.op = 6 →
          let bytes := v.drained (e.aux.toNat % 16)
          let dst := flatOf (s.localAddr c e.sval)
          ((e.aux.toNat / 16 % 2 = 1 ∧ e.kept = false) → (u.tile e.t).owner = none) ∧
          (¬(e.aux.toNat / 16 % 2 = 1 ∧ e.kept = false) → (u.tile e.t).owner = v.owner) ∧
          (e.aux.toNat / 32 % 2 = 1 → (u.tile e.t).ru = 0 ∧ ∀ i, i < 8192 → (u.tile e.t).elem i = 0) ∧
          (Memory.wf s.mem = true → s.matError c e bytes.length 64 true = none → ∀ a, t.byte a =
            if dst ≤ a ∧ a < dst + bytes.length then bytes.getD (a - dst) 0 else s.byte a) ∧
          (∀ k, s.matError c e bytes.length 64 true = some k → ∀ a, t.byte a = s.byte a)))) ∧
    -- Tarragon
    ((s.cell c).rwLoad ≠ none → Completes .rwTableLoad s (· = s)) ∧
    ((s.cell c).rwLoad = none → Completes .rwTableLoad s fun t =>
      let w := (t.cell c).rwTable
      let cnt := s.args.v.toNat / 2 ^ 17 % 2 ^ 7
      w.toNat / 16 % 2 ^ 13 = s.args.v.toNat / 16 % 2 ^ 13 ∧ w.toNat / 2 ^ 17 % 2 ^ 7 = min cnt 64 ∧
      (t.cell c).rwLoad = some (now + min cnt 64 + 4, w) ∧
      t.alarms = s.alarms ++ [(s.cycle + (min cnt 64 + 4), ⟨.rwTableLoadDone, { Args.empty with c := c }⟩)] ∧
      (∀ x, x < 4 → t.ctxOf c x = (s.ctxOf c x).closeWindow) ∧ ∀ a, t.byte a = s.byte a) ∧
    ((s.cell c).rwLoad = none → Completes .rwTableLoadDone s (· = s)) ∧
    (∀ due w, (s.cell c).rwLoad = some (due, w) →
      let addr := w.toNat / 16 % 2 ^ 13 * 16
      let cnt := w.toNat / 2 ^ 17 % 2 ^ 7
      Completes .rwTableLoadDone s fun t =>
        (t.cell c).rwLoad = none ∧ (0x20000 < addr + 16 * cnt → (t.cell c).rwRules = []) ∧
        (addr + 16 * cnt ≤ 0x20000 → ∀ i r, (i, r) ∈ (t.cell c).rwRules ↔ i < cnt ∧
          r = BitVec.ofNat 128 (s.readN (flat c 2 (addr + 16 * i)) 16) ∧ r.getLsbD 0 = true ∧ ruleRejected r = false) ∧
        ∀ a, t.byte a = s.byte a) ∧
    Completes .tarragonIdleClose s fun t =>
      let y := s.ctxOf c s.args.x
      let z := t.ctxOf c s.args.x
      z.rwPermClosed.get 0 n = y.rwPerm ∧ z.window.get 0 n = y.window.get 0 n + 1 ∧
      (∀ e, e ≠ n → z.rwPermClosed.get 0 e = y.rwPermClosed.get 0 e ∧ z.window.get 0 e = y.window.get 0 e) ∧
      SameRegisters y z ∧ (∀ a, t.byte a = s.byte a) ∧ ∀ e, (t.cell c).mat e = (s.cell c).mat e

/-- An XCMD whose engine's queue is full is held, and a condition token waits for room in the token queue of its stream.
Else, with a code the engine defines and good words, it takes a queue entry: the command stands at the end of the
engine's queue with context, task, priority, mode and both words, the engine's count of unfinished commands of the
task is one more, the engine looks at its queue, and no register or memory byte changes. A code the engine does not
define raises INFO 7, and any breach in the words INFO 43. (R172, R173, R263, R267, R270, R275) -/
def Obligations.EngineCommands : Prop :=
  ∀ (s : State) (a b : BitVec 6),
    let c := s.focus.cell
    let scratch := if c / 256 % 2 = 1 then 0x100000 else 0x200000
    let place (w : W64) (n align : Nat) : Prop := w.toNat % align = 0 ∧ w.toNat + n ≤ scratch
    let done (e : Nat) (w0 w1 : W64) (t : State) : Prop :=
      t.here.queue e = s.here.queue e ++
        [⟨s.here.nextId, s.focus.ctx, s.ctx.task, s.was.prio.toNat, s.was.supervisor, w0, w1, none, none⟩] ∧
      t.here.nextId = s.here.nextId + 1 ∧
      t.ctx.busy.get 0 e = s.ctx.busy.get 0 e + 1 ∧ SameRegisters s.ctx t.ctx ∧ (∀ j, t.byte j = s.byte j) ∧
      t.agenda = s.agenda ++ [⟨if e = 0 then .copyComplete else .engineCommandComplete, { Args.empty with c := c, e := e }⟩]
    let cmd (i : Instr) (e : Nat) (w0 w1 : W64) : Prop :=
      let depth := if e = 0 then 16 else if e = 3 ∨ e = 4 then 4 else 8
      let last := if e = 2 ∨ e = 4 then 2 else if e = 5 then 1 else 3
      let code := w0.toNat % 256
      let tokens : Prop := e = 1 ∧ code = 2 ∧ 8 ≤ s.here.tokensHeld (w0.toNat / 256 % 16)
      let valid : Prop :=
        (e = 0 ∧ w0.toNat < 256 ∧ place w1 32 32) ∨
        (e = 1 ∧ w0 = 1 ∧ place w1 64 64) ∨
        (e = 1 ∧ code = 2 ∧ w0.toNat < 16 * 256 ∧ w1.toNat < 2) ∨ (e = 1 ∧ code = 3 ∧ w0.toNat < 16 * 256) ∨
        (e = 2 ∧ w0 = 1 ∧ place w1 16 8) ∨ (e = 2 ∧ code = 2 ∧ w0.toNat < 256 * 256) ∨
        (e = 3 ∧ code = 1 ∧ w0 &&& 0xFFF7FF = w0 ∧ s.hpairOk c w0 w1 = true) ∨ (e = 3 ∧ w0 = 2 ∧ w1 = 0) ∨
        (e = 3 ∧ w0 = 3 ∧ place w1 32 32) ∨ (e = 4 ∧ w0 = 2 ∧ (w1 = 0 ∨ s.objError w1 8 8 = none)) ∨
        (e = 4 ∧ code = 1 ∧ w0.toNat < 2 ^ 40 ∧ w0.toNat / 2 ^ 16 ≠ 0 ∧ aSpace w1 = 1 ∧
          s.accessFault ⟨w1, 4096 * (w0.toNat / 2 ^ 16), 4096, true, false, false, true, true⟩ = none) ∨
        (e = 5 ∧ code = 1 ∧ w0 &&& 0xFFFF03FF = w0 ∧ (s.was.supervisor = true ∨ s.was.prio.toNat ≤ w0.toNat / 256 % 4))
      (depth ≤ (s.here.queue e).length → Completes i s (· = s.block (.engine e))) ∧
      ((s.here.queue e).length < depth →
        (tokens → Completes i s (· = s.block (.tokens (w0.toNat / 256 % 16)))) ∧
        (¬tokens → code = 0 ∨ last < code → Completes i s (· = s.stop 0x02 7)) ∧
        (¬tokens → ¬(code = 0 ∨ last < code) → valid → Completes i s (done e w0 w1)) ∧
        (¬tokens → ¬(code = 0 ∨ last < code) → ¬valid → Completes i s (· = s.stop 0x02 43)))
    let x := s.rs s.args.a
    let y := s.rs s.args.b
    cmd (.copy a b) 0 (s.rs a) (s.rs b) ∧ cmd .copyh 0 x y ∧ cmd .fill 0 x y ∧
    cmd (.seqdef a b) 1 (s.rs a) (s.rs b) ∧ cmd .seqcond 1 x y ∧ cmd .seqstop 1 x y ∧
    cmd (.grpdef a b) 2 (s.rs a) (s.rs b) ∧ cmd .grpabort 2 x y ∧
    cmd (.hpair a b) 3 (s.rs a) (s.rs b) ∧ cmd .hpennant 3 x y ∧ cmd .hstat 3 x y ∧
    cmd (.trcfg a b) 4 (s.rs a) (s.rs b) ∧ cmd .trflush 4 x y ∧ cmd (.enq a b) 5 (s.rs a) (s.rs b)

/-- COPY_COMPLETE runs the first command, whose context has none suspended, while no record of the cell waits for the
fault buffer; with none it does nothing. A FILL of LEN bytes at an address of this package's memory, on no fenced
die, that R74 allows repeats its 8-byte pattern there, a COPY moves the bytes of its source as they stood before, a
COPYH those between host memory and the package, no source word poisoned, and every other byte stays, where the
descriptor names no barrier; the command leaves the queue. FB_RESP takes the suspended command that holds its fault
number: with an error the command ends, else it runs as at its start. An engine's subtraction that no earlier
request of its context precedes takes the bytes off PENDING of its barrier object, saturating, and the update that
makes COUNT and PENDING zero flips it. (R244, R263, R264, R265, R336, R379) -/
def Obligations.CopyCompletes : Prop :=
  ∀ (s : State),
    let c := s.args.c
    let word (l : List Byte) (i n : Nat) : Nat := ofBytes ((l.drop i).take n)
    let moves (i : Instr) (m : Cmd) (l : List Byte) (P : State → Prop) : Prop :=
      let code := m.w0.toNat % 256
      let n := word l 16 4
      let src := BitVec.ofNat 64 (word l 0 8)
      let dst := BitVec.ofNat 64 (word l 8 8)
      let allowed (w : W64) (store : Bool) : Prop :=
        s.engineFault ⟨w, n, 1, store, false, false, true, m.supervisor⟩ = none ∧ aPkg w = s.pkg.number ∧ aSpace w ≠ 3
      let flags := word l 20 4
      let ends (f : Nat → Byte) : Prop := Completes i s fun t => P t ∧
        ∀ j, t.byte j = if flatOf dst ≤ j ∧ j < flatOf dst + n then f (j - flatOf dst) else s.byte j
      Memory.wf s.mem = true → m.node = none → 0 < n → word l 24 8 = 0 →
      (code = 3 → flags = 0 → allowed dst true → ends fun j => BitVec.ofNat 8 (src.toNat / 256 ^ (j % 8))) ∧
      (code = 1 → flags = 0 → allowed dst true → allowed src false → ends fun j => s.byte (flatOf src + j)) ∧
      (code = 2 → flags = 4 → allowed dst true → ends fun j => (s.hostRead src.toNat n).getD j 0) ∧
      (code = 2 → flags = 8 → allowed src false → (∀ j, j < n → s.poisoned (wordOf (flatOf src + j)) 8 = false) → Completes i s fun t => P t ∧ (∀ j, t.byte j = s.byte j) ∧
        t.hostMem = (s.hostWrite dst.toNat (s.readBytes (flatOf src) n)).hostMem)
    (s.nextCopy c = none → Completes .copyComplete s (· = s)) ∧
    ((∀ x, x < 5 → s.recordHeld c x 0 = false) → ∀ m rest, (s.cell c).queue 0 = m :: rest →
      (∀ r, r ∈ (s.cell c).copies → r.cmd.ctx ≠ m.ctx) → s.nextCopy c = some m) ∧
    (∀ m, s.nextCopy c = some m →
      moves .copyComplete m (m.desc.getD (s.readBytes (flat c 0 (m.w1.toNat % 2 ^ 26)) 32)) fun t =>
        (t.cell c).queue 0 = ((s.cell c).queue 0).erase m) ∧
    (let held := s.cells.findSome? fun e => if e.1 / 256 = s.args.die then
        (e.2.copies.find? fun r => r.fid == s.args.n).map fun r => (e.1, r) else none
     (held = none → Completes .fbResp s (· = s)) ∧
     ∀ k r, held = some (k, r) →
       let freed := s.modCell k fun u => { u with copies := u.copies.filter fun q => q.fid != s.args.n }
       (s.args.flag = true → Completes .fbResp s (· = (freed.copyEnds k r.cmd r.desc 4).pokeCopies k)) ∧
       (s.args.flag = false → Completes .fbResp s (· = (freed.runCopy k r.cmd r.desc).pokeCopies k) ∧
         moves .fbResp r.cmd r.desc fun t => ∀ q, q ∈ (t.cell k).copies → q.fid ≠ s.args.n)) ∧
    (∀ (k : W64) (x id n : Nat), aPkg k = s.pkg.number → s.fencedAt k = false → Memory.wf s.mem = true → (∀ r, s.behind r = false) →
      (∀ j, j < 2 → ((s.cell (flatOf k / 2 ^ 43)).ws.get 0 (2 * j + 1)).getLsbD 0 = false) →
      let o := s.barrier (flatOf k)
      let t := s.engineSub c x id k n 0
      let p := o.pending - n
      let u : Barrier := if p < -(2 ^ 47) then { o with pending := -(2 ^ 47), err := if o.err = 0 then 2 else o.err }
        else { o with pending := p }
      t.barrier (flatOf k) = (if u.count = 0 ∧ u.pending = 0 ∧ ¬(o.count = 0 ∧ o.pending = 0) then
        { u with count := u.expected, phase := !u.phase } else u) ∧
      ∀ j, ¬(flatOf k ≤ j ∧ j < flatOf k + 16) → t.byte j = s.byte j)

/-- A sequenced VLD of a stream not defined for VLD raises INFO 42; else its destination waits for the next unit in all
eight clusters, and no register or byte changes: where no load is ahead of it, a unit that is fetched and released
is handed over, and past the end every lane is empty. SEQ_UNIT_FETCH adds the next unit to a stream that may fetch,
or has it wait for a walk on a change of tile, or stops it with the outcome of its translation.
ENGINE_COMMAND_COMPLETE: SEQDEF defines its stream, SEQCOND gives its token, SEQSTOP ends its stream, GRPDEF defines
its group, GRPABORT raises the attempt number, HPAIR starts pairing for 16 cycles, HPENNANT sends the issued
pennants again to a die that is not fenced, HSTAT writes its 32 bytes, TRCFG sets the trace engine, TRFLUSH empties
it, and an ENQ is taken or waits for room; each completed command leaves its queue and its task's count.
HPAIR_COMPLETE pairs; a new pennant is held once, and a duplicate counted; a trace record is written to its place in
the ring. (R233, R263, R266, R267, R269, R270, R271, R273, R274, R275, R355, R459) -/
def Obligations.SequencerAndCommands : Prop :=
  ∀ (s : State) (v : BitVec 5) (n : BitVec 4) (o : BitVec 3),
    let c := s.args.c
    let still (t : State) : Prop := ∀ j, t.byte j = s.byte j
    -- sequenced loads
    ((∀ q, s.here.seq n.toNat = some q → q.target ≠ 0) → Completes (.vldSequenced v n o) s (· = s.stop 0x02 42)) ∧
    (∀ q, s.here.seq n.toNat = some q → q.target = 0 → Completes (.vldSequenced v n o) s fun t =>
      SameRegisters s.ctx t.ctx ∧ still t ∧ t.here.nextId = s.here.nextId + 1 ∧
      ∃ w, w ∈ t.ctx.awaits ∧ w.id = s.here.nextId ∧ w.kind = .vload ∧ w.reg = v.toNat ∧ w.clusters = 0xFF ∧
        (∀ u rest, q.waiting = [] → q.queue = u :: rest → (q.cond = false ∨ u.outer < q.released) →
          w.answer = some (0, 0, u.data ++ zeros (512 - u.data.length), 0) ∧
          ∀ j, j < 128 → (w.dead.getLsbD j = true ↔ u.data.length ≤ 4 * j)) ∧
        (q.waiting = [] → q.queue = [] →
          (q.stopped.isSome = true ∨ q.units ≤ q.emitted ∨ (q.ended = true ∧ q.mayFetch = false ∧ q.walk = none)) →
          w.answer = some (0, 0, zeros 512, 0) ∧ w.dead = BitVec.allOnes 128)) ∧
    -- unit fetches
    ((s.cell c).froze = true → Completes .seqUnitFetch s fun t =>
      t = { s with alarms := s.alarms ++ [(s.cycle + 1, ⟨.seqUnitFetch, s.args⟩)] }) ∧
    ((s.cell c).froze = false →
      ((s.cell c).seq s.args.n = none → Completes .seqUnitFetch s (· = s)) ∧
      ∀ q, (s.cell c).seq s.args.n = some q → q.waiting = [] →
        let k := q.emitted * q.unit
        let m := min q.unit (q.total - k)
        let at_ := (s.seqTranslate c s.args.n q (q.coords k)).1
        let got := (s.gather c s.args.n q (s.seqElemBytes c q) (k + q.got) (m - q.got)).1
        let l := q.part ++ got.2.1
        let miss := s.seqMiss c q (q.coords k)
        let walks (n : Nat) (l : List Byte) : Prop := Completes .seqUnitFetch s fun t =>
          ∃ r, (t.cell c).seq s.args.n = some r ∧ r.queue = q.queue ∧ r.emitted = q.emitted ∧ r.stopped = q.stopped ∧
            r.walk.isSome = true ∧ r.got = n ∧ r.part = l
        let adds (u : SeqUnit) : Prop := Completes .seqUnitFetch s fun t =>
          ∃ r, (t.cell c).seq s.args.n = some r ∧ r.queue = q.queue ++ [u] ∧ r.emitted = q.emitted + 1 ∧ r.stopped = none
        let halts (e : Nat) : Prop := Completes .seqUnitFetch s fun t =>
          ∃ r, (t.cell c).seq s.args.n = some r ∧ r.queue = q.queue ∧ r.emitted = q.emitted ∧ r.stopped = some e
        (q.mayFetch = false → Completes .seqUnitFetch s (· = s)) ∧
        (q.mayFetch = true → q.target ≠ 0 → miss ≠ none → walks q.got q.part) ∧
        (q.mayFetch = true → q.target ≠ 0 → miss = none → ∀ a, at_ = .ok a → adds ⟨some a, 0, [], q.outerOf (k + m - 1)⟩) ∧
        (q.mayFetch = true → q.target ≠ 0 → miss = none → ∀ e, at_ = .fail e → halts e) ∧
        (q.mayFetch = true → q.target = 0 → got.2.2 = .whole → adds ⟨none, l.length, l, q.outerOf (k + m - 1)⟩) ∧
        (q.mayFetch = true → q.target = 0 → ∀ tile, got.2.2 = .walk tile → walks (q.got + got.1) l) ∧
        (q.mayFetch = true → q.target = 0 → ∀ e, got.2.2 = .fail e → halts e)) ∧
    -- the other engines' commands
    ((s.cell c).queue s.args.e = [] → Completes .engineCommandComplete s (· = s)) ∧
    (∀ m rest, (s.cell c).queue s.args.e = m :: rest →
      let code := m.w0.toNat % 256
      let run (P : State → Prop) : Prop := Completes .engineCommandComplete s P
      let left (t : State) : Prop := (t.cell c).queue s.args.e = rest ∧
        (m.ctx < 4 → (s.ctxOf c m.ctx).task = m.task →
          (t.ctxOf c m.ctx).busy.get 0 s.args.e = (s.ctxOf c m.ctx).busy.get 0 s.args.e - 1)
      (s.args.e = 1 → (∃ x, x < 4 ∧ s.recordHeld c x 1 = true) → run (· = s)) ∧
      (s.args.e = 1 → (∀ x, x < 4 → s.recordHeld c x 1 = false) →
        (let l := s.readBytes (flat c 0 (m.w1.toNat % 2 ^ 26)) 64
         let d := (l.headD 0).toNat
         let t' := ((s.die (c / 256)).tensors.find? fun e => e.1 == field l 4 2).map Prod.snd
         let others := ((s.cell c).seqs.filter fun e => e.1 != d).foldl (fun k e => k + e.2.loops.length) 0
         code = 1 → seqDescOk t' others l = true → run fun t => left t ∧ still t ∧
           ∃ q, (t.cell c).seq d = some q ∧ q.target = field l 2 1 ∧ q.cond = (field l 3 1 == 1) ∧ q.tensor.toNat = field l 4 2 ∧
             q.unit = field l 56 4 ∧ q.loops = descLoops l ∧ q.base = (List.range 4).map (fun i => field l (8 + 4 * i) 4) ∧
             q.emitted = 0 ∧ q.queue = [] ∧ q.ended = false ∧ q.stopped = none) ∧
        (code = 2 → ∀ q, (s.cell c).seq (m.w0.toNat / 256 % 16) = some q → q.cond = true → q.tokens = [] → q.ended = false →
          q.waiting = [] → run fun t => left t ∧ ∃ r, (t.cell c).seq (m.w0.toNat / 256 % 16) = some r ∧
            (m.w1.getLsbD 0 = true → r.released = q.released + 1 ∧ r.ended = false) ∧
            (m.w1.getLsbD 0 = false → r.released = q.released ∧ r.ended = true)) ∧
        (code = 3 → run fun t => left t ∧
          ∀ q, (t.cell c).seq (m.w0.toNat / 256 % 16) = some q → q.ended = true ∧ q.queue = [])) ∧
      (s.args.e = 2 → code = 1 →
        let off := m.w1.toNat % 2 ^ 26
        let l := s.readBytes (flat c 0 off) 272
        let members : List (BitVec 32) := (List.range (field l 1 1)).map fun i => BitVec.ofNat 32 (field l (16 + 4 * i) 4)
        let g := (l.headD 0).toNat
        grpDescOk (s.cellName c) c off l members = true → (∀ d, (s.cell c).group g = some d → d.run = none) →
        run fun t => left t ∧ ∃ d, (t.cell c).group g = some d ∧ d.nmem = field l 1 1 ∧ d.members = members ∧ d.run = none ∧
          d.infmt.toNat = field l 2 1 ∧ d.barrier.toNat = field l 8 8) ∧
      (s.args.e = 2 → code = 2 → (∀ d, (s.cell c).group (m.w0.toNat / 256 % 256) = some d → d.run = none) →
        run fun t => left t ∧ still t ∧
          ∀ d, (s.cell c).group (m.w0.toNat / 256 % 256) = some d →
            (t.cell c).group (m.w0.toNat / 256 % 256) = some { d with attempt := d.attempt + 1 }) ∧
      (s.args.e = 3 → (s.cell c).hal.pairing ≠ none → run (· = s)) ∧
      (s.args.e = 3 → (s.cell c).hal.pairing = none →
        (code = 1 → run fun t => (t.cell c).queue 3 = rest ∧ (t.cell c).hal.pairing = some m ∧
          t.alarms = s.alarms ++ [(s.cycle + 16, ⟨.hpairComplete, { Args.empty with c := c }⟩)]) ∧
        (code = 2 → s.pkg.fenced.getLsbD ((if c / 256 % 2 = 1 then c - 256 else c + 256) / 256) = false →
          run fun t => left t ∧ still t ∧ (t.cell c).hal = (s.cell c).hal ∧
          t.agenda = s.agenda ++ ((List.range (s.cell c).hal.n).filter fun i => (s.cell c).hal.slots.get 0 i == 1).map fun i =>
            ⟨.pennantArrival, { Args.empty with
              c := if c / 256 % 2 = 1 then c - 256 else c + 256, n := ((s.cell c).hal.slotMb.get 0 i).toNat }⟩) ∧
        (code = 3 → Memory.wf s.mem = true → run fun t => left t ∧
          (∀ i, i < 32 → some (t.byte (flat c 0 (m.w1.toNat % 2 ^ 26) + i)) = (hstatBytes (s.cell c))[i]?) ∧
          ∀ j, ¬(flat c 0 (m.w1.toNat % 2 ^ 26) ≤ j ∧ j < flat c 0 (m.w1.toNat % 2 ^ 26) + 32) → t.byte j = s.byte j)) ∧
      (s.args.e = 4 → code = 1 → run fun t => left t ∧ still t ∧
        (t.cell c).trace.mask.toNat = m.w0.toNat / 256 % 256 ∧ (t.cell c).trace.size = m.w0.toNat / 2 ^ 16 % 2 ^ 24 ∧
        (t.cell c).trace.base = m.w1 ∧ (t.cell c).trace.pend = []) ∧
      (s.args.e = 4 → code = 2 → m.w1 = 0 → (s.cell c).trace.pend.length ≤ 65 → run fun t => left t ∧
        (t.cell c).trace.pend = []) ∧
      (s.args.e = 5 → (∃ x, x < 4 ∧ s.recordHeld c x 5 = true) → run (· = s)) ∧
      (s.args.e = 5 → (∀ x, x < 4 → s.recordHeld c x 5 = false) →
        let ahead := s.modCell c fun k => { k with engines := k.engines.ins 5 rest }
        (ahead.enqTake c m = none → run (· = s)) ∧
        ∀ u, ahead.enqTake c m = some u → run fun t => t = u.cmdDone c 5 m)) ∧
    -- pairing and pennants
    ((s.cell c).hal.pairing = none → Completes .hpairComplete s (· = s)) ∧
    (∀ m, (s.cell c).hal.pairing = some m →
      Completes .hpairComplete s fun t => (t.cell c).hal.paired = true ∧ (t.cell c).hal.pairing = none ∧
        (t.cell c).hal.itag = m.w0.toNat / 2 ^ 12 % 16 ∧ (t.cell c).hal.oport = m.w0.toNat / 2 ^ 16 % 16 ∧
        (t.cell c).hal.cpm = m.w0.toNat / 2 ^ 20 % 16 + 1 ∧ (t.cell c).hal.n = m.w0.toNat / 2 ^ 8 % 8 ∧
        (t.cell c).hal.nextPennant.toNat = m.w0.toNat / 2 ^ 8 % 8 - 1 ∧ still t) ∧
    ((s.cell c).hal.paired = false → Completes .pennantArrival s fun t => t = s.modCell c fun k =>
      { k with hal := { k.hal with early := (k.hal.early ++ [BitVec.ofNat 16 s.args.n]).take 4 } }) ∧
    ((s.cell c).hal.paired = true →
      let h := (s.cell c).hal
      let p := BitVec.ofNat 16 s.args.n
      let next := ((s.cell c).port h.oport).mbBase + BitVec.ofNat 16 (((s.cell c).port h.oport).nextP.toNat / max h.cpm 1)
      let old : Prop := p ∈ h.held ∨ 2 ^ 15 ≤ (p - next).toNat
      (old → Completes .pennantArrival s fun t => (t.cell c).hal = { h with dups := min (h.dups + 1) 0xFFFF } ∧ still t) ∧
      (¬old → Completes .pennantArrival s fun t => (t.cell c).hal = { h with held := h.held ++ [p] } ∧ still t)) ∧
    -- trace records
    ((s.cell c).trace.pend = [] → Completes .traceRecordWrite s (· = s)) ∧
    (∀ r rest, (s.cell c).trace.pend = r :: rest →
      let t0 := (s.cell c).trace
      let dst := t0.base + BitVec.ofNat 64 (32 * (t0.pos % max (t0.size * 128) 1))
      Completes .traceRecordWrite s fun t =>
        (t.cell c).trace.pos = t0.pos + 1 ∧ (t.cell c).trace.wraps = 0 ∧
        (t0.wraps = 0 → (t.cell c).trace.pend = rest) ∧
        (t0.wraps ≠ 0 → ∃ lost, (t.cell c).trace.pend = rest ++ [lost]) ∧
        (Memory.wf s.mem = true → aPkg dst = s.pkg.number → s.fencedAt dst = false → ∀ j, t.byte j =
          if flatOf dst ≤ j ∧ j < flatOf dst + r.length then r.getD (j - flatOf dst) 0 else s.byte j))

/-- LDRED with bad operands raises INFO 36, and one whose group is busy on the cell is held; one whose source or
destination R74 refuses draws an error response and starts nothing; a good one records count, destination and the
contribution as read in the issue cycle, and changes no byte. A message of an older attempt is dropped, and one of a
newer attempt held. An exponent return moves its section on, or writes NaNs for a contribution that is not finite; a
verified result is written rounded and one that fails its check is asked for again; a failure notice or an expired
timer ends the run. The root keeps records until it has all, then sends E; it keeps chunks until it has all, then
sends the sums; differing counts end the collective with 8, and an expired timer with 5. (R248, R268, R337, R338,
R339, R340, R439) -/
def Obligations.Collectives : Prop :=
  ∀ (s : State) (a b : BitVec 6),
    let c := s.args.c
    let die := s.args.die
    let still (t : State) : Prop := ∀ j, t.byte j = s.byte j
    (let f := s.focus.cell
     let w := (s.rs b).toNat
     let n := w % 2 ^ 13
     let g := w / 2 ^ 16 % 256
     let dst := w / 2 ^ 32 % 2 ^ 26
     let off := (s.rs a).toNat
     let size := if f / 256 % 2 = 1 then 0x100000 else 0x200000
     let bad : Prop := n = 0 ∨ 4096 < n ∨ w / 2 ^ 13 % 8 ≠ 0 ∨ w / 2 ^ 24 % 256 ≠ 0 ∨ w / 2 ^ 58 ≠ 0 ∨ s.here.group g = none
     (bad → Completes (.ldred a b) s (· = s.stop 0x02 36)) ∧
     ∀ d, ¬bad → s.here.group g = some d →
       let eb := if d.infmt = 1 then 4 else 2
       let info (store : Bool) := violInfo s.focus.pc s.focus.slot 0 true store false 0
       let errs (k : Nat) (o : Nat) (store : Bool) : Prop := Completes (.ldred a b) s fun t => still t ∧
         t.here.group g = some d ∧ RecordsViolation s.ctx t.ctx k (s.addrOf f 0 o) (info store)
       (d.run ≠ none → Completes (.ldred a b) s (· = s.block (.group g))) ∧
       (d.run = none →
         (size < off + n * eb → errs 0 off false) ∧
         (off + n * eb ≤ size → size < dst + 4 * n → errs 0 dst true) ∧
         (off + n * eb ≤ size → dst + 4 * n ≤ size → off % 8 ≠ 0 → errs 1 off false) ∧
         (off + n * eb ≤ size → dst + 4 * n ≤ size → off % 8 = 0 → dst % 8 ≠ 0 → errs 1 dst true) ∧
         (off + n * eb ≤ size → dst + 4 * n ≤ size → off % 8 = 0 → dst % 8 = 0 →
           s.poisoned (flat f 0 off) (n * eb) = false → s.ctx.pend = [] → (∀ w, w ∈ s.ctx.awaits → s.barring f w = false) →
           Completes (.ldred a b) s fun t => still t ∧ t.ctx = s.ctx ∧
             ∃ r, t.here.group g = some { d with run := some r } ∧ r.ctx = s.focus.ctx ∧ r.count = n ∧ r.dst = dst ∧
               r.src.length = n ∧ r.sects.length = (n + 511) / 512 ∧
               ∀ i, i < n → (r.src.getD i 0).toNat =
                 if d.infmt = 1 then s.numberAt (flat f 0 (off + 4 * i)) 4 else s.numberAt (flat f 0 (off + 2 * i)) 2 * 65536))) ∧
    Completes .newerAttemptDrop s (fun t => still t ∧
      (t.die die).collHeld = (s.die die).collHeld.filter fun e =>
        !(e.args.coll == s.args.coll && e.args.c == s.args.c && e.args.size == s.args.size)) ∧
    -- the member's engine
    (∀ root g at_ k e nf, s.args.coll = .exponent root g at_ k e nf →
      (ingress (s.attemptOf c g) at_ = .drop → Completes .collExponentReturn s (· = s)) ∧
      (ingress (s.attemptOf c g) at_ = .hold → Completes .collExponentReturn s fun t => still t ∧
        (t.die (c / 256)).collHeld = (s.die (c / 256)).collHeld ++ [⟨.collExponentReturn, { s.args with size := s.elapsed }⟩]) ∧
      ∀ d r q, ingress (s.attemptOf c g) at_ = .accept → s.runSect c g k 0 = some (d, r, q) →
        (nf = false → Completes .collExponentReturn s fun t => still t ∧
          ∃ d' r' q', t.runSect c g k 1 = some (d', r', q') ∧ q'.e = e ∧ q'.sentAt = s.elapsed) ∧
        (nf = true → Memory.wf s.mem = true → (∃ u, u ∈ r.sects ∧ u.1 ≠ k ∧ u.2.stage ≠ 2) →
          Completes .collExponentReturn s fun t => (∀ i, i < (r.sect k).length →
              t.numberAt (flat c 0 (r.dst + 2048 * k) + 4 * i) 4 = 0x7FC00000) ∧
            ∀ j, ¬(flat c 0 (r.dst + 2048 * k) ≤ j ∧ j < flat c 0 (r.dst + 2048 * k) + 4 * (r.sect k).length) →
              t.byte j = s.byte j)) ∧
    (∀ g at_ k ck d r q, s.args.coll = .result g at_ k ck → ingress (s.attemptOf c g) at_ = .accept →
      s.runSect c g k 1 = some (d, r, q) →
      (burgeeOk ck = true → ck.payload.length = 8 * (r.sect k).length → Memory.wf s.mem = true →
        (∃ u, u ∈ r.sects ∧ u.1 ≠ k ∧ u.2.stage ≠ 2) → Completes .collResult s fun t =>
          (∀ i, i < (r.sect k).length → t.numberAt (flat c 0 (r.dst + 2048 * k) + 4 * i) 4 =
            (ofAx q.e (signed64 (ofBytes ((ck.payload.drop (8 * i)).take 8)))).1 % 2 ^ 32) ∧
          ∀ j, ¬(flat c 0 (r.dst + 2048 * k) ≤ j ∧ j < flat c 0 (r.dst + 2048 * k) + 4 * (r.sect k).length) →
            t.byte j = s.byte j) ∧
      (burgeeOk ck = true → ck.payload.length = 8 * (r.sect k).length →
        (∀ u, u ∈ r.sects.ins k { r.sects.get ⟨0, 0, 0⟩ k with stage := 2 } → u.2.stage = 2) → Completes .collResult s fun t =>
          (t.cell c).group g = some { d with run := none }) ∧
      (¬(burgeeOk ck = true ∧ ck.payload.length = 8 * (r.sect k).length) → 2 ≤ ck.attempt.toNat →
        Completes .collResult s fun t => (t.cell c).group g = some { d with run := none }) ∧
      (¬(burgeeOk ck = true ∧ ck.payload.length = 8 * (r.sect k).length) → ck.attempt.toNat < 2 →
        Completes .collResult s fun t => still t ∧ (t.cell c).group g = (s.cell c).group g)) ∧
    (∀ g at_ err, s.args.coll = .failure g at_ err →
      (ingress (s.attemptOf c g) at_ = .drop → Completes .collFailureNotice s (· = s)) ∧
      (ingress (s.attemptOf c g) at_ = .accept → Completes .collFailureNotice s fun t => t = s.ldredFails c g err ∧
        ∀ d, (s.cell c).group g = some d → (t.cell c).group g = some { d with run := none })) ∧
    (let run := ((s.cell c).group s.args.group).bind Group.run
     (run = none → Completes .collMemberTimeout s (· = s)) ∧
     ∀ r, run = some r →
       ((∀ u, u ∈ r.sects → u.2.stage < 2 → s.elapsed < u.2.sentAt + 200000 * 45000) → Completes .collMemberTimeout s (· = s)) ∧
       ((∃ u, u ∈ r.sects ∧ u.2.stage < 2 ∧ u.2.sentAt + 200000 * 45000 ≤ s.elapsed) →
         Completes .collMemberTimeout s fun t => t = s.ldredFails c s.args.group 5 ∧
           ∀ d, (s.cell c).group s.args.group = some d → (t.cell c).group s.args.group = some { d with run := none })) ∧
    -- the root
    (∀ root src g at_ m nm k n x nf, s.args.coll = .expRecord root src g at_ m nm k n x nf →
      let key := nameCell root % 256 * 256 + g
      let q := s.coll die key at_
      let home := die * 256 + nameCell root % 256
      let recs := (q.sect k).recs ++ [(m, src, n, x, nf)]
      (ingress (s.attemptOf home g) at_ = .drop → Completes .collExpRecord s (· = s)) ∧
      (ingress (s.attemptOf home g) at_ = .accept → q.failed = none → (∀ r, r ∈ (q.sect k).recs → r.1 ≠ m) →
        ((∃ r, r ∈ (q.sect k).recs ∧ r.2.2.1 ≠ n) → Completes .collExpRecord s fun t =>
          (t.coll die key at_).failed = some 8 ∧ still t) ∧
        ((∀ r, r ∈ (q.sect k).recs → r.2.2.1 = n) → recs.length < nm → Completes .collExpRecord s fun t =>
          ((t.coll die key at_).sect k).recs = recs ∧ (t.coll die key at_).failed = none ∧ t.agenda = s.agenda ∧ still t) ∧
        ((∀ r, r ∈ (q.sect k).recs → r.2.2.1 = n) → nm ≤ recs.length → (∀ r, r ∈ recs → r.2.2.2.2 = false) →
          Completes .collExpRecord s fun t =>
            ((t.coll die key at_).sect k).e = some (collExponent nm recs, false) ∧ still t ∧
            t.agenda.length = s.agenda.length + (recs.filter fun r =>
              namePkg r.2.1 != s.pkg.number || !s.pkg.fenced.getLsbD (nameCell r.2.1 / 256)).length))) ∧
    (∀ root src g at_ m nm k ck, s.args.coll = .input root src g at_ m nm k ck →
      let key := nameCell root % 256 * 256 + g
      let q := s.coll die key at_
      let chunks := (q.sect k).chunks ++ [(m, ck)]
      let sums := collSums (((chunks.map Prod.snd).headD Chunk.empty).payload.length / 8) (chunks.map Prod.snd)
      ingress (s.attemptOf (die * 256 + nameCell root % 256) g) at_ = .accept → q.failed = none →
      (burgeeOk ck = true → (q.sect k).e ≠ none → (∀ e, e ∈ (q.sect k).chunks → e.1 ≠ m) →
        (chunks.length < nm → Completes .collRootChunk s fun t =>
          ((t.coll die key at_).sect k).chunks = chunks ∧ still t) ∧
        (nm ≤ chunks.length → s.args.n = 0 →
          (reductionCheck (chunks.map Prod.snd) sums).1 = (reductionCheck (chunks.map Prod.snd) sums).2 →
          Completes .collRootChunk s fun t => still t ∧ ∃ r, ((t.coll die key at_).sect k).result = some r ∧
            r.payload = sums.flatMap fun x => toBytes 8 (wrapTo 64 x))) ∧
      (burgeeOk ck = false → 2 ≤ ck.attempt.toNat → Completes .collRootChunk s fun t =>
        (t.coll die key at_).failed = some 7 ∧ still t)) ∧
    (∀ q, ((s.die die).colls.find? fun e => e.1 == s.args.group) = some (s.args.group, q) →
      let late : Prop := q.attempt = s.args.attempt ∧ q.failed = none ∧ (q.sect s.args.sect).recs ≠ [] ∧
        (q.sect s.args.sect).due ≤ s.elapsed
      (¬late → Completes .collRootTimeout s (· = s)) ∧
      (late → Completes .collRootTimeout s fun t => (t.coll die s.args.group s.args.attempt).failed = some 5 ∧ still t))

/-- A chunk whose residue fails a hop check is dropped, logged on its die and asked for again from its producer; a
passing one takes the point's identity and goes on, to the cell input where it is on the cell's die. A cell input
that accepts a chunk writes its header and payload, and nothing else, into its ring slot, which becomes resident
when its number is the next expected one; a rejected, second or too early chunk writes no byte. A return below the
port's limit sets ACK_P, one above stops the stream; a census that passes its check repairs ACK_P; a refusal names
the chunks to be resent; a replay request resends a retained chunk with the next attempt, and a third sending is a
channel error; on a stopped stream none of them releases or resends a slot. That a census showing two conditions is
a channel error first, and that a chunk resent after a refusal keeps ATTEMPT, are the model's choices (log entry
104). A consumer sends a census at 64 chunks or 10 µs. A rotation writes each cell's destination with the bytes that
its predecessor's source held when that cell issued it. (R86, R88, R89, R90, R91, R92, R93, R97, R101, R102, R288,
R424) -/
def Obligations.StreamEvents : Prop :=
  ∀ (s : State),
    let a := s.args
    let c := a.c
    let k := s.cell c
    let ck := a.ck
    -- a hop check
    (a.flag = true → Completes .chunkHopCheck s (· = s.returnOnward a.die c a.stream a.ack)) ∧
    (a.flag = false → a.slot = 1 → (∀ x, collChunk a.coll = some x → burgeeOk x = true) →
      Completes .chunkHopCheck s (· = s.collOnward a.die c (collHopped a.coll (s.hopWord a.die a.n a.k)))) ∧
    (a.flag = false → a.slot ≠ 1 → burgeeOk ck = true →
      let ck' := { ck with hop := s.hopWord a.die a.n a.k }
      Completes .chunkHopCheck s fun t => t = s.chunkOnward a.die c ck' ∧
        (c / 256 = a.die → ck.census = false → (∀ e, e ∈ (s.die a.die).shadow → e.1 ≠ ck.stream) →
          t = s.post .chunkArrival { Args.empty with c := c, ck := ck' })) ∧
    (a.flag = false → a.slot ≠ 1 → a.k ≠ 2 → burgeeOk ck = false → namePkg ck.origin = s.pkg.number →
      s.pkg.fenced.getLsbD (dieOf (nameCell ck.origin)) = false →
      Completes .chunkHopCheck s fun t => t.cells = s.cells ∧ t.mem = s.mem ∧
        t.agenda = s.agenda ++ [⟨.replayRequestArrival, { Args.empty with
          c := nameCell ck.origin, stream := ck.stream, seq := ck.seq, attempt := ck.attempt.toNat }⟩] ∧
        (t.die a.die).elog = (s.die a.die).elog.push 128 [s.tai, elogWord1 3 a.n 0 a.k (burgeeSub ck),
          BitVec.ofNat 64 (ck.stream.toNat + ck.attempt.toNat * 2 ^ 16 + ck.seq.toNat * 2 ^ 32),
          BitVec.ofNat 64 (ck.hop.toNat + (s.hopWord a.die a.n a.k).toNat * 2 ^ 32)]) ∧
    -- the cell input
    (∀ h, s.shelved c ck.stream = some h →
      (inputFault h.was ck = none →
        Completes .chunkArrival s (· = s.refuse c (h.was.tag ck.tag.toNat) ck.origin ck.seq)) ∧
      (∀ sub, inputFault h.was ck = some sub → Completes .chunkArrival s fun t => t.mem = s.mem)) ∧
    (s.shelved c ck.stream = none →
      let n := ck.tag.toNat
      let g := k.tag n
      let sl := g.slotOf ck.seq
      let base := flat c 0 (g.slotOff sl)
      let known : State := if g.halyard = true ∧ k.hal.base = none then
        (s.modCell c fun k => { k with hal := k.hal.rebase ck }).nextPennant c else s
      let past : Prop := ∃ d, g.dropTo = some d ∧ (d - ck.mb).toNat < 32768
      (∀ sub, inputFault k ck = some sub → Completes .chunkArrival s fun t => t.mem = s.mem ∧ (t.cell c).tags = k.tags) ∧
      (inputFault k ck = none → past → Completes .chunkArrival s fun t => t = known.dropCompleted c n ck ∧ t.mem = s.mem) ∧
      (inputFault k ck = none → ¬past →
        (seqDiff ck.seq g.expC < 0 → 0 ≤ seqDiff ck.seq g.ackC → Completes .chunkArrival s (· = known)) ∧
        (seqDiff ck.seq g.expC < 0 → seqDiff ck.seq g.ackC < 0 → Completes .chunkArrival s (· = known.sendReturn c n)) ∧
        (0 ≤ seqDiff ck.seq g.expC → (g.slots : Int) ≤ seqDiff ck.seq g.ackC →
          Completes .chunkArrival s (· = known.refuse c g ck.origin ck.seq)) ∧
        (0 ≤ seqDiff ck.seq g.expC → seqDiff ck.seq g.ackC < g.slots →
          ((g.at_ sl).use = .arrived → (g.at_ sl).seq = ck.seq → Completes .chunkArrival s (· = known)) ∧
          (((g.at_ sl).use ≠ .arrived ∨ (g.at_ sl).seq ≠ ck.seq) → Memory.wf s.mem = true →
            Completes .chunkArrival s fun t =>
              (∀ i b, (headerBytes { ck with hop := s.hopWord (dieOf c) (c % 256) 1 } ++ ck.payload)[i]? = some b →
                t.byte (base + i) = b) ∧
              (∀ j, ¬(base ≤ j ∧ j < base + 32 + ck.payload.length) → t.byte j = s.byte j) ∧
              (ck.seq = g.expC → (((t.cell c).tag n).at_ sl).use = .resident ∧ (((t.cell c).tag n).at_ sl).mb = ck.mb))))) ∧
    -- returns, refusals, replays
    (k.portOf a.stream = none → (∀ h, h ∈ (s.die (c / 256)).shelf → h.cell = c → h.was.portOf a.stream = none) →
      Completes .returnArrival s (· = s) ∧ Completes .refusalArrival s (· = s) ∧
      Completes .replayRequestArrival s (· = s)) ∧
    (∀ p, k.portOf a.stream = some p →
      let q := k.port p
      let n := BitVec.ofNat 32 a.n
      (q.stopped = true → Completes .returnArrival s (· = s) ∧ Completes .replayRequestArrival s (· = s)) ∧
      (q.stopped = false →
        (0 < seqDiff a.ack q.limit → Completes .returnArrival s fun t =>
          (t.cell c).port p = { q with stopped := true } ∧ t.mem = s.mem) ∧
        (seqDiff a.ack q.limit ≤ 0 → seqDiff a.ack q.ackP ≤ 0 → Completes .returnArrival s (· = s)) ∧
        (seqDiff a.ack q.limit ≤ 0 → 0 < seqDiff a.ack q.ackP → Completes .returnArrival s fun t =>
          (t.cell c).port p = { q with ackP := a.ack, resendOk := true } ∧ t.mem = s.mem ∧
          ∀ e, e ∈ (t.cell c).ctxs → e.2.evPend.getLsbD 6 = true) ∧
        (0 < seqDiff a.ack q.limit → Completes .refusalArrival s fun t =>
          (t.cell c).port p = { q with stopped := true } ∧ t.mem = s.mem) ∧
        (seqDiff a.seq q.ackP < 0 ∨ 0 ≤ seqDiff a.seq q.nextP → Completes .replayRequestArrival s (· = s)) ∧
        (0 ≤ seqDiff a.seq q.ackP → seqDiff a.seq q.nextP < 0 →
          (2 ≤ a.attempt → Completes .replayRequestArrival s fun t =>
            (t.cell c).port p = { q with stopped := true } ∧ t.mem = s.mem) ∧
          (a.attempt < 2 → Completes .replayRequestArrival s fun t => t = s.resend c p a.seq (a.attempt + 1) ∧ t.mem = s.mem ∧
            (t.cell c).port p = if q.peerLost = true then q
              else if s.poisoned (flat c 0 (q.slotOff a.seq)) (32 + q.pay) = true then { q with stopped := true, lost := true }
              else { q with attempts := q.attempts.ins (q.slotOf a.seq) (a.attempt + 1) }))) ∧
      (q.stopped = true ∨ seqDiff a.ack q.limit ≤ 0 →
        let q1 := if q.stopped = true then q else { q with ackP := a.ack }
        (0 ≤ seqDiff n q.nextP → Completes .refusalArrival s fun t => (t.cell c).port p = q1 ∧ t.mem = s.mem) ∧
        (seqDiff n q.nextP < 0 → Completes .refusalArrival s fun t =>
          (t.cell c).port p = { q1 with unsent := some (q.firstUnsent n), resendOk := false, refusedAt := s.elapsed } ∧
          t.timers = s.timers ++ [(s.elapsed + 10000 * 45000, ⟨.refusedChunkResend, { Args.empty with c := c, stream := q.stream }⟩)] ∧
          t.mem = s.mem))) ∧
    -- a census at its producer
    (let port := (k.portOf ck.stream).map fun p => k.port p
     let ack := BitVec.ofNat 32 (field ck.payload 0 4)
     let exp := BitVec.ofNat 32 (field ck.payload 4 4)
     (∀ sub, censusFault port ck = some sub →
       (port ≠ none ∨ ∀ h, h ∈ (s.die (c / 256)).shelf → h.cell = c → h.was.portOf ck.stream = none) → Completes .censusArrival s fun t => t.mem = s.mem ∧ (t.cell c).ports = k.ports) ∧
     ∀ p, censusFault port ck = none → k.portOf ck.stream = some p →
      let q := k.port p
      let clash : Prop := 0 < seqDiff exp q.limit ∨ 0 < seqDiff ack exp ∨ field ck.payload 10 2 ≠ q.slots
      (q.stopped = true → Completes .censusArrival s (· = s)) ∧
      (q.stopped = false → clash → Completes .censusArrival s fun t =>
        (t.cell c).port p = { q with stopped := true } ∧ t.mem = s.mem) ∧
      (q.stopped = false → ¬clash → Completes .censusArrival s fun t =>
        (t.cell c).port p = { q with resendOk := true, ackP := ack } ∧ t.mem = s.mem)) ∧
    (∀ p, k.portOf a.stream = some p →
     let q := k.port p
     (q.unsent = none → Completes .refusedChunkResend s (· = s)) ∧
     ∀ n, q.unsent = some n →
       ((q.resendOk = false ∧ s.elapsed < q.refusedAt + 10000 * 45000) ∨ (q.slots : Int) ≤ seqDiff n q.ackP →
         Completes .refusedChunkResend s (· = s)) ∧
       (q.peerLost = true ∨ q.stopped = true → Completes .refusedChunkResend s (· = s)) ∧
       (q.peerLost = false → q.stopped = false → q.resendOk = true ∨ q.refusedAt + 10000 * 45000 ≤ s.elapsed →
         seqDiff n q.ackP < q.slots → Completes .refusedChunkResend s fun t => t.mem = s.mem ∧
           ((t.cell c).port p).unsent = (if n + 1 = q.nextP then none else some (n + 1)) ∧
           ((t.cell c).port p).nextP = q.nextP ∧ ((t.cell c).port p).ackP = q.ackP)) ∧
    -- the census of a consumer
    (∀ n, k.tagOf a.stream = some n →
     let g := k.tag n
     (g.slots = 0 ∨ (g.since < 64 ∧ s.elapsed < g.censusAt + 10000 * 45000) → Completes .censusSend s (· = s)) ∧
     (g.slots ≠ 0 → g.peerLost = true → 64 ≤ g.since ∨ g.censusAt + 10000 * 45000 ≤ s.elapsed →
       Completes .censusSend s fun t => t = s.startTag c n ∧ t.agenda = s.agenda) ∧
     (g.slots ≠ 0 → g.peerLost = false → 64 ≤ g.since ∨ g.censusAt + 10000 * 45000 ≤ s.elapsed →
       Completes .censusSend s fun t => t.mem = s.mem ∧
         (t.cell c).tag n = { g with since := 0, censusAt := s.elapsed, serial := g.serial + 1 } ∧
         t.timers = s.timers ++
           [(s.elapsed + 10000 * 45000, ⟨.censusSend, { Args.empty with c := c, tag := n, stream := g.stream }⟩)])) ∧
    -- rotation
    (∀ (rot : Nat → Rotation),
      let ring := s.ringOf (a.die * 256 + a.origin)
      let fits (m : Nat) : Prop := (rot m).dst + (rot m).len ≤ spaceSize m 0
      let at_ (m : Nat) : Nat := flat m 0 (rot m).dst
      ring.Nodup → Memory.wf s.mem = true →
      (∀ m, m ∈ ring → (s.cell m).rot = some (rot m) ∧ ∀ l, (rot m).data = some l → l.length = (rot m).len) →
      ((∀ m m', m ∈ ring → m' ∈ ring → (rot m).len = (rot m').len) → Completes .rotComplete s fun t =>
        (∀ i, i < ring.length →
          let me := ring.getD i 0
          let pred := ring.getD ((i + ring.length - 1) % ring.length) 0
          (t.cell me).rot = none ∧ (fits me →
            ∀ j, j < (rot me).len → t.byte (at_ me + j) = ((rot pred).data.map fun l => l.getD j 0).getD 0)) ∧
        ∀ j, (∀ m, m ∈ ring → fits m → ¬(at_ m ≤ j ∧ j < at_ m + (rot m).len)) → t.byte j = s.byte j) ∧
      ((∃ m m', m ∈ ring ∧ m' ∈ ring ∧ (rot m).len ≠ (rot m').len) → Completes .rotComplete s fun t => ∀ m, m ∈ ring →
        (t.cell m).rot = none ∧
        ((s.ctxOf m (rot m).ctx).task = (rot m).task → (t.ctxOf m (rot m).ctx).errSticky.getLsbD 5 = true) ∧
        (fits m → ∀ j, j < (rot m).len → t.byte (at_ m + j) = 0)))

/-- RESULT_LAND writes the elements of a due result's mask that no later-issued result has reached in the cycle, and ORs
its flags into FPCTL; of two due results of one register the later-issued one stands; a VCFG write comes into force.
A remote request behind an earlier one of its class waits; one whose check code is wrong, whose die is fenced or
that R74 forbids performs nothing and is answered with CHECK, UNREACHABLE or the code of R236; a load answers with
the bytes, a store writes them and no others, an atomic answers the old value and stores the new. The first answer
or the time limit fills the waiting operation, and INTERLOCK_RETURN then writes its register, pair 7 of a twin,
where no later-issued write of them has come in the cycle, or the error response. WAITT_WAKE makes a waiting context
READY once TIME has reached its operand. (R121, R149, R167, R220, R235, R236, R287, R304, R398, R441) -/
def Obligations.LandingsAndRemote : Prop :=
  ∀ (s : State),
    let a := s.args
    let c := a.c
    let x := s.ctxOf c a.x
    let now := s.clock c
    -- landing
    (∀ e, x.land = [e] → e.due ≤ now → e.held = true ∨ x.frozeAt = none → e.src = 0 → Completes .resultLand s fun t =>
      let y := t.ctxOf c a.x
      let live (j : Nat) : Bool := e.mask.getLsbD j &&
        x.reached.all fun r => !(r.kind == e.kind && r.cl == e.cl && r.reg == e.reg && decide (e.born < r.born) && r.mask.getLsbD j)
      y.land = [] ∧ y.fpctl = x.fpctl ||| e.flags ∧ t.mem = s.mem ∧
      (e.kind = .vec → (∀ n, n ≠ vkey e.cl e.reg → y.v.get VReg.zero n = x.v.get VReg.zero n) ∧
        y.s = x.s ∧ y.q = x.q ∧ ∀ j, j < 16 →
          (y.vr e.cl e.reg).val.extractLsb' (32 * j) 32 =
            (if live j then e.val else (x.vr e.cl e.reg).val).extractLsb' (32 * j) 32 ∧
          (y.vr e.cl e.reg).emp.getLsbD j = (if live j then e.emp else (x.vr e.cl e.reg).emp).getLsbD j) ∧
      (e.kind = .lanePred → 0 < e.reg → e.reg < 8 → y.s = x.s ∧ y.v = x.v ∧ ∀ j, j < 16 →
        (y.qr e.cl e.reg).getLsbD j = if live j then e.val.getLsbD j else (x.qr e.cl e.reg).getLsbD j) ∧
      (e.kind = .scalar → e.mask = 1 → y.v = x.v ∧ y.q = x.q ∧
        ∀ n, y.rs n = if n = e.reg ∧ n ≠ 0 ∧ live 0 then e.val.setWidth 64 else x.rs n)) ∧
    (∀ e f, x.land = [e, f] → e.due = f.due → f.due ≤ now → x.frozeAt = none → e.src = 0 → f.src = 0 → x.reached = [] →
      e.kind = .scalar → f.kind = .scalar → e.cl = f.cl → e.mask = 1 → f.mask = 1 → e.reg = f.reg → f.reg ≠ 0 → e.born ≠ f.born →
      Completes .resultLand s fun t =>
        (t.ctxOf c a.x).rs f.reg = (if e.born < f.born then f else e).val.setWidth 64) ∧
    (∀ d cl v, x.land = [] → (s.cell c).vland = [(d, cl, v)] → d ≤ now → Completes .resultLand s fun t =>
      (t.cell c).vland = [] ∧ ∀ n, (t.cell c).vcfg.get 0 n = if n = cl then vcfgStored v else (s.cell c).vcfg.get 0 n) ∧
    (∀ v, x.st = .waiting → x.hold = .time v →
      (s.tai.toNat < v.toNat → Completes .waittWake s fun t => t.ctxOf c a.x = x) ∧
      (v.toNat ≤ s.tai.toNat → Completes .waittWake s fun t =>
        t.ctxOf c a.x = { x with st := .ready, hold := .none } ∧ t.mem = s.mem)) ∧
    -- at the target
    (let r := a.req
     let key := flatOf r.addr
     let n := szBytes r.sz
     let answers (status : Nat) (sync : Bool) (data : List Byte) (t : State) : Prop :=
       t.agenda = (s.respond r (reqAnswer r status sync data 0)).agenda
     let nothing (t : State) : Prop := t.mem = s.mem ∧ t.cells = s.cells
     (s.behind r = true → Completes .remoteRequest s (· = s.post .remoteRequest a)) ∧
     (s.behind r = false → s.mustWait r = true → Completes .remoteRequest s fun t =>
       t = { s with alarms := s.alarms ++ [(s.cycle + 1, ⟨.remoteRequest, a⟩)] }) ∧
     (s.behind r = false → remoteOp r.op.toNat = none → Completes .remoteRequest s fun t =>
       answers 5 false (zeros 8) t ∧ nothing t) ∧
     ∀ o, remoteOp r.op.toNat = some o → s.behind r = false → s.mustWait r = false → (s.ctxOf r.cell r.ctx).pend = [] →
       let fenced := s.pkg.fenced.getLsbD (dieOf (aCell r.addr))
       (fenced = true → Completes .remoteRequest s fun t => answers 4 false (zeros 8) t ∧ nothing t) ∧
       (fenced = false → checkCode r.op.toNat r.addr r.data ≠ r.check →
         Completes .remoteRequest s fun t => answers 5 false (zeros 8) t ∧ nothing t) ∧
       (fenced = false → checkCode r.op.toNat r.addr r.data = r.check →
         (∀ k, s.remoteError o r = some k → Completes .remoteRequest s fun t =>
           answers (if k = kAddr then 1 else if k = kAlign then 2 else 3) (k == kSync) (zeros 8) t ∧ nothing t) ∧
         (s.remoteError o r = none → s.remotePoison o r = true → Completes .remoteRequest s fun t =>
           answers 6 false (zeros 8) t ∧ nothing t) ∧
         (s.remoteError o r = none → s.remotePoison o r = false → aSpace r.addr ≠ 3 → Memory.wf s.mem = true →
           let puts (l : List Byte) (t : State) : Prop := (∀ i b, i < n → l[i]? = some b → t.byte (key + i) = b) ∧
             ∀ j, ¬(key ≤ j ∧ j < key + n) → t.byte j = s.byte j
           (o = .load → Completes .remoteRequest s fun t =>
             answers 0 false (s.readBytes key n ++ zeros (8 - n)) t ∧ nothing t) ∧
           (o = .store → Completes .remoteRequest s fun t => answers 0 false (zeros 8) t ∧ puts r.data t) ∧
           (o = .storeFull → Completes .remoteRequest s fun t => puts r.data t ∧ t.isFull key = true) ∧
           ∀ f, o = .amo f → Completes .remoteRequest s fun t =>
             answers 0 false (s.readBytes key n ++ zeros (8 - n)) t ∧
             puts (toBytes n (f.apply n (BitVec.ofNat 64 (ofBytes (s.readBytes key n)))
               (BitVec.ofNat 64 (ofBytes (r.data.take 8))) (BitVec.ofNat 64 (field r.data 8 8))).toNat) t))) ∧
    -- back at the issuing cell
    (let r := a.resp
     let ok := r.check = checkCode r.op.toNat r.addr r.data
     (s.awaited r.cell r.ctx r.id = none → Completes .remoteResponse s
       (· = s.engineAnswered r.cell r.id (r.check == checkCode r.op.toNat r.addr r.data && r.status == 0))) ∧
     ∀ w, (s.ctxOf r.cell r.ctx).awaits = [w] → w.id = r.id → w.kind ≠ .xlt →
       let filled (st kind : Nat) (t : State) : Prop :=
         (t.ctxOf r.cell r.ctx).awaits = [{ w with answer := some (st, kind, r.data, r.empties) }] ∧ t.mem = s.mem ∧
         t.agenda = s.agenda ++ [⟨.interlockReturn, { Args.empty with c := r.cell, x := r.ctx, id := r.id }⟩]
       (w.answer ≠ none → Completes .remoteResponse s (· = s)) ∧
       (w.answer = none → ok → Completes .remoteResponse s (filled r.status (kindOfStatus r.status r.sync))) ∧
       (w.answer = none → ¬ok → Completes .remoteResponse s (filled 5 kRemote))) ∧
    (s.awaited c a.x a.id = none → Completes .farAccessTimeout s
      (· = s.engineAnswered c a.id false)) ∧
    (∀ w, x.awaits = [w] → w.id = a.id →
      (w.answer ≠ none → Completes .farAccessTimeout s (· = s)) ∧
      (w.answer = none → Completes .farAccessTimeout s fun t =>
        (t.ctxOf c a.x).awaits = [{ w with answer := some (4, kRemote, [], 0) }] ∧ t.mem = s.mem) ∧
      (x.pend = [] → (∀ v, v ∈ (s.cell c).saved → v.bank.pend = []) →
        (w.answer = none → Completes .interlockReturn s (· = s)) ∧
        (∀ st kind data em, w.answer = some (st, kind, data, em) → w.kind = .load ∨ w.kind = .store ∨ w.kind = .amo →
          Completes .interlockReturn s fun t =>
            let y := t.ctxOf c a.x
            let late : Prop := ∃ r, r ∈ x.reached ∧ r.kind = .scalar ∧ r.cl = 0 ∧ r.reg = w.reg ∧ w.born < r.born ∧
              r.mask.getLsbD 0 = true
            y.awaits = [] ∧ (w.kind ≠ .amo ∨ s.recording c = false → t.mem = s.mem) ∧ (∀ n, n ≠ w.reg ∨ w.kind = .store ∨ n = 0 ∨ late → y.rs n = x.rs n) ∧
            (w.kind ≠ .store → w.reg ≠ 0 → ¬late →
              (st = 0 → y.rs w.reg = extend (w.signed || w.kind == .amo) (szBytes w.sz) (data.take (szBytes w.sz))) ∧
              (st ≠ 0 → y.rs w.reg = if w.twin then failWord st else 0)) ∧
            let pairLate : Prop := ∃ r, r ∈ x.reached ∧ r.kind = .scalar ∧ r.cl = 0 ∧ r.reg = pairReg 7 ∧ w.born < r.born ∧
              r.mask.getLsbD 0 = true
            (w.twin = true → y.errSticky = x.errSticky ∧ (pairLate → y.p = x.p) ∧
              (¬pairLate → y.pr 14 = (st == 0) ∧ y.pr 15 = (st != 0))) ∧
            (w.twin = false → st = 0 → y.p = x.p ∧ y.errSticky = x.errSticky) ∧
            (w.twin = false → st ≠ 0 → kind < 7 → w.info.toNat / 2 ^ 21 % 8 = 0 → RecordsViolation x y kind w.addr w.info))))

/-- A step executes the event that moves next with what takes part in it, and otherwise advances the clock; with nothing
in flight and nothing due the cell whose turn it is issues. A word that decodes as a slot's instruction is run by
that instruction's meaning. Where a READY context in supervisor mode or with an instruction that is not privileged
presents a bundle of one slot, and no interlock, hold, stop, breakpoint, poisoned word or freeze cycle stands in its
way, the cell's turn (the form bundleIssue) completes, and the step whose move it is with it: it advances the pc
past the bundle's two words and then executes the decoded instruction, if its guard is true: apart from capture
counters the context's bank is as the instruction leaves it, and so are memory, full bits, dies, links and the
clock. (R16, R104, R105, R109, R119) -/
def Obligations.StepRunsDecoded : Prop :=
  ∀ (s : State),
    (∀ e t, s.nextMove = (some e, t) → step s = exec e.instr { t with args := e.args }) ∧
    (∀ t, s.nextMove = (none, t) → step s = .next t) ∧
    (∀ c rest, s.sched = [] → s.agenda = [] → s.timerDue = none → s.alarmDue = none → s.active.findSome? s.cellDue = none →
      s.turn = c :: rest → s.nextMove = (some ⟨.bundleIssue, { Args.empty with c := c }⟩, s)) ∧
    (∀ n w i, decodeSlot n w = .ok i → ∀ t, execSlot i t = exec i t) ∧
    ∀ (c x n : Nat) (i : Instr),
      let now : State := { s with args := { Args.empty with c := c } }
      let s2 : State := { now with turn := s.turn.erase c }
      let k := s2.cell c
      let s3 : State := s2.modCell c fun k => { k with home := some x, switched := false }
      let y := k.ctx x
      let pc := y.pc
      let h := decodeHeader (s2.fetch c pc)
      let w := s2.fetch c (pc + 4)
      let runs := y.pr (guardOf w)
      let ops : List SlotOp := if runs then [⟨n, guardOf w, i⟩] else []
      let base : State := { s3 with focus := ⟨c, x, n, pc, pc + 8, h.vb, true, []⟩, snap := some (s3.cell c) }
      let f : State :=
        (base.modCtx fun y => { y with st := .ready, hold := .none, pc := pc + 8, redo := false }).modHere fun k =>
          { k with cur := some x, last := some x, entering := false }
      -- the context holds the issue slot of a cell that is free to issue
      k.cur = some x → k.runnable x = true → k.busyTil ≤ s2.clock c → k.loading = false → k.froze = false →
      -- its bundle is one legal slot, which nothing stops
      h.slots = [n] → h.bad = false → pc + 8 ≤ 0x20000 → decodeSlot n w = .ok i →
      firstOffence pc h.vb [(n, w)] [] false = none →
      (y.supervisor = true ∨ i.privileged = false) → s2.poison = [] → s2.replayEnded c = false →
      (∀ m, m < 8 → (k.bps.get 0 m).getLsbD 0 = false) → y.stepping = false → y.stepDone = false → y.late = [] →
      y.redo = false → y.caps = [] → y.brConflict.toNat < 2 ^ 32 →
      -- nothing holds it
      y.awaits = [] → y.land = [] → (k.lastF = none ∨ i.special = false) → (runs = true → base.matrixStall i = none) →
      k.freezes s2.cycle (bundleWeight (isC c) h.vb ops) = false →
      Completes .bundleIssue now fun t =>
        (∀ r, r.nextMove = (some ⟨.bundleIssue, { Args.empty with c := c }⟩, s) → step r = .next t) ∧
        ∃ u, (if runs then exec i f else .next f) = .next u ∧
          (u.focus = f.focus → u.heldNow = false → u.ctx.brConflict.toNat < 2 ^ 32 → u.ctx.stepping = false →
            (∃ caps, t.ctxOf c x = { u.ctxOf c x with caps := caps }) ∧
            t.mem = u.mem ∧ t.full = u.full ∧ t.poison = u.poison ∧ t.dies = u.dies ∧ t.pkg = u.pkg ∧ t.timers = u.timers ∧
            t.alarms = u.alarms ∧ t.cycle = u.cycle ∧ t.time = u.time)

/-- An eligible arrival handler, or a RUN task, starts on the one FREE context: READY at the entry, with mode, FPCTL and
RW_PERM from the handler, s61 from its stacks, every other scalar register 0, the vector registers as they were, and
its four arguments; without a configuration nothing starts. Where no context is FREE, a start asks for the eviction
of the victim of R38 if that runs at a lower priority. A request to evict takes no task that has issued ENDT; it
comes again after WAIT cycles, a trap entry or a freeze cycle, freezes fetch, takes the task's queued matrix
operations, waits for its running ones, and then keeps registers, results in flight, pc and state in a save record
and the save area, and frees the context. A resume brings them back. The oldest power request is granted whole once
the pool has room. Who is eligible with carried slots, the order of starts and resumes, and what is captured at the
freeze are as log entries 106, 48 and 51 choose. (R24, R25, R28, R29, R38, R39, R41, R42, R178, R262, R407) -/
def Obligations.TaskEvents : Prop :=
  ∀ (s : State),
    let a := s.args
    let c := a.c
    let k := s.cell c
    let started (old y : Ctx) (x h : Nat) (e : Handler) (disp : Bool) (prio : Nat) (args : List W64) : Prop :=
      y.st = .ready ∧ y.hold = .none ∧ y.pc = e.entry ∧ y.handler.toNat = h % 16 ∧ y.supervisor = e.supervisor ∧
      y.disp = disp ∧ y.prio.toNat = prio % 4 ∧ y.fpctl = e.fpctl0 &&& 0xF ∧ y.rwPerm = e.rwperm0 ∧ y.p = 1 ∧ y.q = [] ∧
      y.v = old.v ∧ (∀ n, n ≠ 61 → y.rs n = 0) ∧
      y.rs 61 = (if e.stackBase = 0 ∧ e.stackSize = 0 then 0 else e.stackBase + BitVec.ofNat 64 (x + 1) * e.stackSize) ∧
      ∀ i, i < 4 → y.taskArg.get 0 i = args.getD i 0
    let open_ : Prop := k.loaded = true ∧ k.killed = false ∧ s.underLoad c = false ∧ (s.die (dieOf c)).shelf = []
    let eligible := k.handlers.find? fun e => k.eligible e.1 e.2
    -- starts
    (k.loaded = false ∨ k.killed = true ∨ s.underLoad c = true → Completes .taskStartArrival s (· = s)) ∧
    (∀ x h e, open_ → k.frees = [x] → s.replaying c = false → k.started ≤ s.cycle → k.saved = [] →
      (k.runs = [] → eligible = some (h, e) → Completes .taskStartArrival s fun t =>
        let d := e.inputs.headD (0, 1, false)
        let r := (k.tag d.1).at_ ((k.tag d.1).fresh.headD 0)
        started (s.ctxOf c x) (t.ctxOf c x) x h e false k.startPrio.toNat
          [r.seq.setWidth 64, BitVec.ofNat 64 (r.mb.toNat + r.attempt.toNat * 2 ^ 16 + r.flags.toNat * 2 ^ 24), e.arg2, e.arg3] ∧
        (t.ctxOf c x).node = none) ∧
      (∀ g n p args, k.runs = [(g, n, h, p, args)] → (k.handlers.find? fun e => e.1 == h) = some (h, e) → k.holding h < e.maxctx →
        Completes .taskStartArrival s fun t =>
          started (s.ctxOf c x) (t.ctxOf c x) x h e true p args ∧ (t.ctxOf c x).node = some (g, n) ∧ (t.cell c).runs = [])) ∧
    (∀ x h e g n p args, open_ → k.frees = [] → k.runs = [(g, n, h, p, args)] → eligible = none →
      (k.handlers.find? fun e => e.1 == h) = some (h, e) → k.holding h < e.maxctx → k.victim = some x →
      (s.ctxOf c x).st ≠ .free → (s.ctxOf c x).hold ≠ .ending → (∀ y, y < 4 → (s.ctxOf c y).frozen = false) →
      (p < (s.ctxOf c x).prio.toNat → s.spillRoom (dieOf c) (3 * k.tilesOf [x]) = true → Completes .taskStartArrival s fun t =>
        t.cells = s.cells ∧ t.mem = s.mem ∧
        t.agenda = s.agenda ++ [⟨.preemptEvict, { Args.empty with c := c, x := x, n := (s.ctxOf c x).task + 1 }⟩]) ∧
      ((s.ctxOf c x).prio.toNat ≤ p → Completes .taskStartArrival s (· = s))) ∧
    -- eviction
    (let y := s.ctxOf c a.x
     let again := s.afterCycles 1 .preemptEvict a
     let goes : Prop := y.st ≠ .free ∧ y.hold ≠ .ending ∧ k.killed = false ∧ y.dead = false ∧ (a.n = 0 ∨ a.n = y.task + 1)
     (¬goes → Completes .preemptEvict s (· = s)) ∧
     (goes → y.frozen = false → s.freezeWaits c a.x = true → Completes .preemptEvict s (· = again)) ∧
     (goes → y.pend = [] → y.frozen = false → s.freezeWaits c a.x = false → s.evictWaits c a.x = true →
       Completes .preemptEvict s fun t =>
         let z := t.ctxOf c a.x
         z.frozen = true ∧ z.frozeAt = some (s.clock c) ∧ z.st = y.st ∧ z.pc = y.pc ∧ z.land = y.land ∧ SameRegisters y z ∧
         z.parked = y.parked ++ k.queuedOf a.x ∧ t.mem = s.mem ∧ t.alarms = again.alarms ∧
         ∀ e, e < 2 → ∀ m, m ∈ ((t.cell c).mat e).queue → m.ctx ≠ a.x) ∧
     (goes → y.pend = [] → y.frozen = true → s.evictWaits c a.x = true → Completes .preemptEvict s (· = again)) ∧
     (goes → y.pend = [] → (y.frozen = false → s.freezeWaits c a.x = false) → s.evictWaits c a.x = false → y.back = none →
       Completes .preemptEvict s fun t =>
         (t.ctxOf c a.x).st = .free ∧ ∃ v, (t.cell c).saved = k.saved ++ [v] ∧ v.num = a.x ∧ v.bank.st = y.st ∧
           v.bank.pc = y.pc ∧ v.bank.preempted = true ∧ v.bank.grant = y.grant ∧ v.bank.awaits = y.awaits ∧
           (y.land = [] → SameRegisters y v.bank) ∧ t.mem = (s.writeBytes v.area (saveBytes v.bank a.x)).mem)) ∧
    -- resume
    (k.saved = [] → Completes .taskResume s (· = s)) ∧
    (∀ v, k.saved = [v] → v.num = a.x → k.mayResume v = true →
      let bad : Prop := s.poisoned v.area 0x8000 = true ∨
        ∃ f, f ∈ v.claims.flatMap (fun t => t.2.2) ∧ s.poisoned (flatOf (s.spillFrame (dieOf c) f)) 0x4000 = true
      (bad → Completes .taskResume s (· = s.askKill c 5)) ∧
      (¬bad → v.bank.order = none → Completes .taskResume s fun t =>
        let z := t.ctxOf c a.x
        (t.cell c).saved = [] ∧ SameRegisters v.bank z ∧ z.pc = v.bank.pc ∧ z.task = v.bank.task ∧
        z.land = (if v.bank.grant = 0 then v.bank.land.map fun e => { e with due := e.due + s.clock c } else v.bank.land) ∧
        (v.bank.grant = 0 → (v.bank.st = .stopped → z.st = .stopped) ∧
          (v.bank.st = .ready ∨ v.bank.st = .blocked → z.st = .ready ∧ z.hold = .none)) ∧
        (v.bank.grant ≠ 0 → z.st = .waiting ∧ z.hold = .power ∧
          (t.die (dieOf c)).powQueue = (s.die (dieOf c)).powQueue ++ [(c, v.num, v.bank.grant)]))) ∧
    -- power
    (let d := s.die a.die
     (d.powQueue = [] → Completes .powerGrant s (· = s)) ∧
     ∀ c x u rest, d.powQueue = (c, x, u) :: rest →
       (d.pool < d.powUsed + u → Completes .powerGrant s (· = s)) ∧
       (d.powUsed + u ≤ d.pool → Completes .powerGrant s fun t =>
         let y := s.ctxOf c x
         let z := t.ctxOf c x
         (t.die a.die).powUsed = d.powUsed + u ∧ (t.die a.die).powQueue = rest ∧
         z.grant = y.grant + u ∧ z.evPend.getLsbD 10 = true ∧ SameRegisters y z ∧ t.mem = s.mem ∧
         (y.back = none → z.st = y.st ∧ z.land = y.land ∧ ∃ key, z.granted = y.granted ++ [key] ∧
           ∀ q, (y.asked.find? fun q => q.2 == u) = some q → key = q.1) ∧
         ∀ st h, y.back = some (st, h) → z.st = st ∧ z.hold = h ∧ z.back = none ∧
           z.land = y.land.map fun e => { e with due := e.due + s.clock c }))

/-- A launch with reserved bits set or a full queue is discarded and counted; a launch waits for room, is rejected with
its record, or takes the next entries of the dependence table, its nodes without dependences READY. Of the READY RUN
nodes that can bind, the one R356 puts first does: it starts and gives every cell of its region its task, or asks
for the load of its configuration; one that cannot stays READY. A configuration load waits until its cells have
drained and then writes every cell, or fails; a region is dropped only if R482 lets it. COPY, WAIT, COND, HRING and
END nodes start, wait, decide and end as R352 to R354 say. (R345, R350, R351, R352, R353, R354, R356, R357, R358,
R412, R415, R482) -/
def Obligations.GraphEvents : Prop :=
  ∀ (s : State),
    let a := s.args
    let k := a.k
    let n := a.n
    let g := s.gnode k n
    -- launches
    (let v := a.v
     let bad : Prop := 16 ≤ s.pkg.launches.length ∨ v &&& 0xFFFF0000F000003F ≠ 0
     (bad → Completes .launch s (· = { s with pkg := { s.pkg with lost := true, lostCnt := min (s.pkg.lostCnt + 1) 255 } })) ∧
     (¬bad → Completes .launch s (· = { s with
       pkg := { s.pkg with launches := s.pkg.launches ++ [v] }, agenda := s.agenda ++ [⟨.graphAccept, Args.empty⟩] }))) ∧
    (s.pkg.launches = [] → Completes .graphAccept s (· = s)) ∧
    (∀ w rest, s.pkg.launches = w :: rest →
      let o := w.toNat % 2 ^ 26
      let h := s.stagingRead o 64
      let nodes := (List.range (field h 4 2 % 513)).map fun i => s.stagingRead (o + 64 + 64 * i) 64
      let compl := field h 8 8
      (s.pkg.judge nodes (headerOk h) = .wait → Completes .graphAccept s (· = s)) ∧
      (s.pkg.judge nodes (headerOk h) = .reject → Completes .graphAccept s fun t => t.pkg.launches = rest ∧
        t.pkg.graphs = s.pkg.graphs ∧ (compl ≠ 0 → field h 6 1 % 2 = 0 → ∀ i, i < 16 → t.hostMem.get 0 (compl + i) =
          (complRecord (w.toNat / 2 ^ 32 % 2 ^ 16) 2 0xFFFF s.tai.toNat).getD i 0)) ∧
      (s.pkg.judge nodes (headerOk h) = .take → (∃ l, l ∈ nodes ∧ field l 2 2 = 0) → Completes .graphAccept s fun t =>
        t.pkg.launches = rest ∧ t.pkg.nextGraph = s.pkg.nextGraph + 1 ∧ ∀ i l, nodes[i]? = some l →
          (t.gnode s.pkg.nextGraph i).bytes = l ∧
          (t.gnode s.pkg.nextGraph i).st = if field l 2 2 = 0 then .ready else .loaded)) ∧
    -- RUN nodes
    (let s1 := s.modPkg fun p => { p with spillWait := s.readyRuns.any fun e => s.nodeChoice e.1 e.2 == .spill }
     (g.st ≠ .ready ∨ g.type ≠ 1 → Completes .runNodeBind s (· = s)) ∧
     (g.st = .ready → g.type = 1 →
       (∀ i m, (s.nodeChoice k n).acts = true → s.firstRun = some (i, m) → (i, m) ≠ (k, n) → Completes .runNodeBind s (· =
         (s.post .runNodeBind { Args.empty with k := i, n := m }).post .runNodeBind a)) ∧
       (∀ o r, s.nodeChoice k n = .start o ∨ s.nodeChoice k n = .evict o → s.firstRun = some (k, n) →
         ((s.die g.die).regions.find? fun r => r.origin == o) = some r →
         let cells := regionCells g.die r.origin r.w r.h
         cells.Nodup → Completes .runNodeBind s fun t =>
           (t.gnode k n).st = .running ∧ (t.gnode k n).region = some (g.die, o) ∧ (t.gnode k n).left = cells ∧
           (∀ c, c ∈ cells → (t.cell c).runs = (s.cell c).runs ++
             [(k, n, g.handler, s.nodePrio k n, (List.range 4).map fun i => BitVec.ofNat 64 (field g.bytes (16 + 8 * i) 8))]) ∧
           ∀ c, c ∈ cells → (⟨.taskStartArrival, { Args.empty with c := c }⟩ : Event) ∈ t.agenda) ∧
       (∀ o l, s.nodeChoice k n = .load o → s.firstRun = some (k, n) →
         let image : W64 := BitVec.ofNat 64 (field g.bytes 8 8)
         (s.readImage g.die image).1 = some l → Completes .runNodeBind s fun t =>
           (t.gnode k n).st = .running ∧ t.cells = s.cells ∧
           (t.die g.die).loads = (s.die g.die).loads ++ [⟨o, imgW l, imgH l, image, some (k, n), s.nodePrio k n⟩] ∧
           (⟨.configLoad, { Args.empty with die := g.die, origin := o }⟩ : Event) ∈ t.agenda) ∧
       (s.nodeChoice k n = .fail → s.firstRun = some (k, n) → Completes .runNodeBind s (· =
         (s1.nodeStarts k n).nodeDone k n false)) ∧
       (∀ o, s.nodeChoice k n = .reject o → s.firstRun = some (k, n) → Completes .runNodeBind s fun t =>
         (t.gnode k n).st = .running ∧ t.cells = s.cells ∧
         (t.die g.die).loads = (s.die g.die).loads ++
           [⟨o, 1, 1, BitVec.ofNat 64 (field g.bytes 8 8), some (k, n), s.nodePrio k n⟩] ∧
         (⟨.configLoad, { Args.empty with die := g.die, origin := o }⟩ : Event) ∈ t.agenda) ∧
       (s.nodeChoice k n = .wait ∨ s.nodeChoice k n = .spill → Completes .runNodeBind s (· =
         s1.after 1000000 .runNodeBind a)))) ∧
    -- configurations
    (let d := a.die
     (((s.die d).loads.find? fun l => l.origin == a.origin) = none → Completes .configLoad s (· = s)) ∧
     (∀ ld, ((s.die d).loads.find? fun l => l.origin == a.origin) = some ld →
       (∀ c, c ∈ s.touched d ld.origin ld.w ld.h → s.drained c = false → Completes .configLoad s (· =
         s.afterCycles 1 .configLoad a)) ∧
       ((∀ c, c ∈ s.touched d ld.origin ld.w ld.h → s.drained c = true) →
         let r := (s.modDie d fun k => { k with loads := k.loads.erase ld }).readImage d ld.image
         (∀ l, ld.node = none → r.1 = some l → Completes .configLoad s (· = r.2.bringBack d ld l)) ∧
         (∀ i m, ld.node = some (i, m) → r.1 = none → Completes .configLoad s (· =
           (r.2.clearFor d ld.origin ld.w ld.h []).nodeDone i m false)) ∧
         ∀ l i m, ld.node = some (i, m) → r.1 = some l →
           let u := r.2.clearFor d ld.origin ld.w ld.h (claimedPages (imgAlloc l))
           let good : Prop := imgOk d l = true ∧ tensorsClash (u.die d).tensors l = false ∧ imgW l = ld.w ∧ imgH l = ld.h ∧
            ∀ c, c ∈ regionCells d ld.origin ld.w ld.h → (u.die d).absent (c % 256) = false
           (good → Completes .configLoad s (· = (u.writeConfig d ld.origin ld.prio ld.image l).bindRegion i m d ld.origin)) ∧
           (¬good → Completes .configLoad s (· = u.nodeDone i m false)))) ∧
     (∀ origin prio image l p c, (regionCells d origin (imgW l) (imgH l)).Nodup →
       (regionCells d origin (imgW l) (imgH l))[p]? = some c →
       let q := (s.writeConfig d origin prio image l).cell c
       q.loaded = true ∧ q.ringPos.toNat = p % 2 ^ 64 ∧ q.handlers = imgHandlerList l ∧ q.saved = [] ∧ q.runs = []) ∧
     (∀ r, ((s.die d).regions.find? fun r => r.origin == a.origin) = some r →
       (s.mayDrop d r = false → Completes .configDrop s (· = s.pokeRuns.pokeShelf d)) ∧
       (s.mayDrop d r = true → Completes .configDrop s fun t => t.mem = s.mem ∧
         (∀ q, q ∈ (t.die d).regions → q.origin ≠ a.origin) ∧
         ∀ c, c ∈ regionCells d r.origin r.w r.h → (t.cell c).loaded = false))) ∧
    -- the other nodes
    (g.type = 2 → g.st = .ready →
      let l := slice g.bytes 8 32
      let c := s.copyCell l
      (((s.cell c).queue 0).length < 16 → Completes .copyNodeStart s fun t => (t.gnode k n).st = .running ∧
        ∃ m, (t.cell c).queue 0 = (s.cell c).queue 0 ++ [m] ∧ m.desc = some l ∧ m.node = some (k, n) ∧
          m.w0.toNat = (if dSrcHost l = true ∨ dDstHost l = true then 2 else 1)) ∧
      (16 ≤ ((s.cell c).queue 0).length → Completes .copyNodeStart s (· =
        (s.nodeStarts k n).afterCycles 1 .copyNodeStart a))) ∧
    (g.type = 3 → g.st = .ready →
      let wait := field g.bytes 32 8
      let s1 := if wait = 0 then s.nodeStarts k n else (s.nodeStarts k n).after wait .waitNodeTimeout a
      let w : W64 := BitVec.ofNat 64 (field g.bytes 8 8)
      let bar := field g.bytes 16 1 = 0
      let b := Barrier.ofBytes (s.readBytes (flatOf w) 16)
      let size := if bar then 16 else 8
      let bad := s.engineFault ⟨w, size, size, false, true, false, false, true⟩
      let holds : Prop := if bar then b.phase ≠ (field g.bytes 17 1 == 1)
        else field g.bytes 24 8 ≤ ofBytes (s.readBytes (flatOf w) 8)
      (bad ≠ none → Completes .waitNode s (· = s1.nodeDone k n false)) ∧
      (bad = none → aPkg w = s.pkg.number →
        (holds → Completes .waitNode s (· = s1.nodeDone k n (!decide bar || b.err == 0))) ∧
        (¬holds → Completes .waitNode s fun t => t = s1.afterCycles 1 .waitNode a ∧ (t.gnode k n).st = .running))) ∧
    (g.type = 3 → g.st = .running →
      (g.startAt + field g.bytes 32 8 * 45000 ≤ s.elapsed → Completes .waitNodeTimeout s (· = s.nodeDone k n false)) ∧
      (s.elapsed < g.startAt + field g.bytes 32 8 * 45000 → Completes .waitNodeTimeout s (· = s))) ∧
    (g.type = 4 → g.st = .ready → a.flag = false →
      let w : W64 := BitVec.ofNat 64 (field g.bytes 8 8)
      let key := flatOf w
      let old : W64 := BitVec.ofNat 64 (ofBytes (s.readBytes key 8))
      let inc : W64 := (BitVec.ofNat 16 (field g.bytes 22 2)).signExtend 64
      let holds := condHolds (field g.bytes 16 1) (old &&& BitVec.ofNat 64 (field g.bytes 32 8)) (BitVec.ofNat 64 (field g.bytes 24 8))
      let yes := field g.bytes 4 1 % 16
      let chosen := if holds then (List.range yes).map g.succ
        else (List.range (field g.bytes 4 1 / 16)).map fun i => g.succ (yes + i)
      let bad := s.engineFault ⟨w, 8, 8, field g.bytes 22 2 != 0, false, field g.bytes 22 2 != 0, true, true⟩
      (bad ≠ none → Completes .condNode s (· = (s.nodeStarts k n).nodeEnds k n false .done [])) ∧
      (bad = none → aPkg w = s.pkg.number → aSpace w ≠ 3 → field g.bytes 17 1 = 0 →
        (inc = 0 → Completes .condNode s (· = (s.nodeStarts k n).nodeEnds k n true .done chosen)) ∧
        (inc ≠ 0 → Completes .condNode s (· =
          ((s.nodeStarts k n).writeN key 8 (old + inc).toNat).nodeEnds k n true .done chosen)))) ∧
    (g.type = 5 → g.st = .ready →
      let ring := field g.bytes 8 1
      let w : W64 := BitVec.ofNat 64 (field g.bytes 16 8)
      let bad : Prop := 16 ≤ ring ∨ (s.pkg.ring ring).en = false ∨ w.toNat % 64 ≠ 0 ∨ s.readableAt w 64 = false
      (bad → Completes .hringNode s (· = (s.nodeStarts k n).nodeDone k n false)) ∧
      (¬bad → aPkg w = s.pkg.number → Completes .hringNode s (· =
        (s.nodeStarts k n).ringPut ring ⟨s.readBytes (flatOf w) 64, some (k, n)⟩))) ∧
    (let r := s.pkg.ring n
     let due : Prop := r.n ≤ r.c ∨ (r.t ≠ 0 ∧ 1 ≤ r.c ∧ r.t0 + r.t * 1000 * 45000 ≤ s.time)
     (¬due → Completes .hringIrqTimer s (· = s)) ∧
     (due → Completes .hringIrqTimer s fun t => (t.pkg.ring n).c = 0 ∧ (t.pkg.ring n).irqs = min (r.irqs + 1) 0xFFFFFFFF ∧
       (s.pkg.masked r.vector = true → t.pkg.pending = s.pkg.pending ||| BitVec.ofNat 32 (2 ^ r.vector) ∧
         t.hostMem = s.hostMem))) ∧
    (s.graph k = none → Completes .endNode s (· = s)) ∧
    (∀ q, s.graph k = some q → g.type = 6 → g.st = .ready →
      let others : Prop := ∃ i m, q.nodes[i]? = some m ∧ i ≠ n ∧ m.st = .running
      (others → Completes .endNode s (· = s.nodeStarts k n)) ∧
      (¬others → Completes .endNode s (· =
        ((((s.nodeStarts k n).modNode k n fun m => { m with st := .done }).modGraph k Graph.cancel).pokeEnds k).settleGraph k)))

/-- A popped queue loses its oldest entry and takes a held record; a held fault record is posted when an entry is free;
a stopped context posts its trap record. SELECT names a context; RESUME and STEP return a stopped context and are
refused for another that is not evicted; KILL ends a DISPATCH task and turns to the region for an ARRIVAL one; POST
sets EV_PEND.POST; GO clears and ERR says whether the command was refused. A walker answers the oldest request
within 1,500 cycles, XLT_INV drops the copies of a tensor, QUAR_FREE and the release move frames in order, and the
host's writes reach the staging window, the rings, MSI-X and BAR0. (R80, R342, R344, R369, R370, R371, R372, R376,
R377, R380, R382, R411) -/
def Obligations.DispatcherEvents : Prop :=
  ∀ (s : State),
    let a := s.args
    let c := a.c
    let d := s.die a.die
    let x := s.ctxOf c a.x
    -- DCP commands
    (let done (t : State) (err : Bool) : Prop :=
       let w := (t.die a.die).csr.get 0 0x20D
       w.getLsbD 13 = false ∧ w.getLsbD 14 = err
     let live : Prop := x.back = none ∧ ¬(x.st = .stopped ∧ x.trapCause.toNat % 256 = 0x0B)
     let resumed (step : Bool) (t : State) : Prop :=
       done t false ∧ (t.ctxOf c a.x).st = .ready ∧ (t.ctxOf c a.x).stepping = step ∧ SameRegisters x (t.ctxOf c a.x) ∧
       (t.ctxOf c a.x).supervisor = x.trapCause.getLsbD 8
     let refused (t : State) : Prop := done t true ∧ t.cells = s.cells
     Completes .dcpSelect s (fun t => done t false ∧ (t.die a.die).selected.get 0 (c % 256) = a.x) ∧
     (live → x.st = .stopped → Completes .dcpResume s (resumed false) ∧ Completes .dcpStep s (resumed true)) ∧
     (x.st ≠ .stopped → x.back = none → s.evictedOf c a.x = none → Completes .dcpResume s refused ∧ Completes .dcpStep s refused) ∧
     (x.st = .stopped → x.back = none → ¬live → Completes .dcpResume s refused ∧ Completes .dcpStep s refused ∧ Completes .dcpKill s refused ∧
       Completes .dcpPost s refused) ∧
     (live → x.st ≠ .free → x.disp = true → Completes .dcpKill s fun t => done t false ∧ (t.ctxOf c a.x).st = .free) ∧
     (live → x.st ≠ .free → x.disp = false → (s.cell c).loaded = true → Completes .dcpKill s fun t => refused t ∧
       ∃ e, e ∈ t.agenda ∧ e.instr = .regionKill ∧ e.args.die = dieOf c ∧ e.args.origin = (s.cell c).regionId.toNat % 256) ∧
     (live → x.st ≠ .free → Completes .dcpPost s fun t => done t false ∧ (t.ctxOf c a.x).evPend = x.evPend ||| 0x100 ∧
       SameRegisters x (t.ctxOf c a.x))) ∧
    -- record queues
    (let popped (q r : LogQueue) : Prop :=
       (q.items = [] → r = q) ∧
       (∀ h rest, q.items = h :: rest → q.held = [] → r = { q with items := rest }) ∧
       (∀ h rest k ks, q.items = h :: rest → q.held = k :: ks → r = { q with items := rest ++ [k], held := ks })
     Completes .fbPop s (fun t => popped d.faults (t.die a.die).faults ∧ t.mem = s.mem) ∧
     Completes .tqPop s (fun t => popped d.traps (t.die a.die).traps ∧ t.mem = s.mem) ∧
     Completes .elogPop s (fun t => popped d.elog (t.die a.die).elog ∧ t.mem = s.mem) ∧
     (∀ h hs, d.faults.held = h :: hs → Completes .faultRecordPost s fun t => (t.die a.die).faults =
       if d.faults.items.length < 256 then { d.faults with items := d.faults.items ++ [h], held := hs } else d.faults) ∧
     (x.st ≠ .stopped → Completes .trapRecordPost s (· = s)) ∧
     (x.st = .stopped → x.trapCause.toNat % 256 ≠ 0x0A → Completes .trapRecordPost s fun t =>
       (t.die (dieOf c)).traps = (s.die (dieOf c)).traps.push 64 (s.trapRecord c a.x) ∧ t.cells = s.cells ∧ t.mem = s.mem)) ∧
    -- translation
    (let w := d.csr.get 0 0x210
     Completes .xltInv s fun t =>
       (∀ p, p ∈ (t.die a.die).tb ↔ p ∈ d.tb ∧ ¬(w.getLsbD 16 = true ∨ p.1 / 2 ^ 64 = w.toNat % 2 ^ 16)) ∧
       ((t.die a.die).csr.get 0 0x210).getLsbD 17 = false ∧ t.mem = s.mem) ∧
    (∀ w q, a.flag = false → d.walks = [w] → w.ends = none → w.stream = none → dieOf w.cell = a.die → (s.ctxOf w.cell w.ctx).awaits = [q] → q.id = w.id →
      (∀ e, (d.tensors.find? fun e => e.1 == w.a.toNat % 2 ^ 16) = some e → aPkg e.2.table = s.pkg.number) →
      Completes .walkerTranslate s fun t => ∃ due, s.clock w.cell < due ∧ due ≤ s.clock w.cell + 1500 ∧
        (t.ctxOf w.cell w.ctx).awaits = [{ q with
          answer := some (xltAnswer (s.translate w.cell w.ctx 15 (w.a.toNat % 2 ^ 16) (xltCoords w.a w.b)).1)
          due := some due }]) ∧
    ((∀ q, q ∈ x.awaits → q.id ≠ a.id) → (∀ b, b ∈ s.away c → ∀ q, q ∈ b.awaits → q.id ≠ a.id) → Completes .tileTableReadTimeout s (· = s)) ∧
    (∀ q w, x.awaits = [q] → q.id = a.id → q.kind = .xlt → q.answer = none →
      ((s.die (dieOf c)).walks.find? fun w => w.cell == c && w.ctx == a.x && w.id == a.id) = some w →
      Completes .tileTableReadTimeout s fun t => ∃ due, (t.ctxOf c a.x).awaits =
        [{ q with answer := some (xltAnswer (.fail xBadEntry)), due := some due }]) ∧
    -- quarantine
    (a.v.toNat % 2 ^ 14 ≠ 0 → Completes .quarFree s (· = s)) ∧
    (a.v.toNat % 2 ^ 14 = 0 → d.quar.length < 256 → Completes .quarFree s fun t =>
      (t.die a.die).quar = d.quar ++ [⟨a.v, d.epoch, s.openAccesses a.die⟩] ∧ t.mem = s.mem) ∧
    (d.quar = [] → Completes .quarantineRelease s (· = s)) ∧
    (∀ q rest, d.quar = q :: rest →
      ((∃ e, e ∈ q.open_ ∧ e ∈ s.openAccesses a.die) → Completes .quarantineRelease s fun t => t.dies = s.dies) ∧
      ((∀ e, e ∈ q.open_ → e ∉ s.openAccesses a.die) → d.quarHeld = [] → Completes .quarantineRelease s fun t =>
        (t.die a.die).quar = rest ∧ (t.die a.die).epoch = (d.epoch + 1) % 2 ^ 16 ∧
        ∀ i, i ∈ (t.die a.die).spill ↔ i ∈ d.spill ∧ s.spillFrame a.die i ≠ q.frame)) ∧
    -- the host
    (a.flag = false → Completes .hostStagingAccess s (· = s)) ∧
    (a.flag = true → a.off + a.bytes.length ≤ 2 ^ 26 → Memory.wf s.mem = true → Completes .hostStagingAccess s fun t =>
      (∀ i b, a.bytes[i]? = some b → t.byte (stagingKey (a.off + i)) = b) ∧ t.full = s.full ∧
      ∀ j, (∀ i, i < a.bytes.length → j ≠ stagingKey (a.off + i)) → t.byte j = s.byte j) ∧
    (a.sp ≠ .bar0 → a.off % a.size ≠ 0 → a.size ≠ 0 → Completes .registerWrite s (· = s)) ∧
    (a.sp = .bar0 → a.off = 0x100 → a.size = 8 → Completes .registerWrite s (· =
      { s with agenda := s.agenda ++ [⟨.launch, { Args.empty with v := a.v }⟩] })) ∧
    (a.sp = .bar0 → a.off = 0x210 → a.size = 8 → Completes .registerWrite s (· =
      { s with pkg := { s.pkg with bootReply := a.v &&& 0x1F } })) ∧
    (∀ k, a.sp = .cellCsr k → a.size = 8 → a.off % 8 = 0 → Completes .registerWrite s (· = s.selectedWrite k a.off 8 a.v)) ∧
    (∀ m, a.sp = .memory m → a.size = 8 → a.off % 8 = 0 → Completes .registerWrite s (· =
      s.firmwareStore m (toBytes 8 a.v.toNat))) ∧
    (a.n < 16 → Completes .hostRingEnable s fun t =>
      t.pkg.ring a.n = { s.pkg.ring a.n with en := true, head := 0, tail := 0 } ∧ t.mem = s.mem ∧
      ∀ m, m ≠ a.n → t.pkg.ring m = s.pkg.ring m) ∧
    (a.n < 16 → (s.pkg.ring a.n).waiting = [] → Completes .hostRingTail s fun t =>
      t.pkg.ring a.n = { s.pkg.ring a.n with tail := BitVec.ofNat 32 a.v.toNat } ∧ t.hostMem = s.hostMem) ∧
    (a.n < 32 → Completes .msixUnmask s fun t => t.pkg.masked a.n = false ∧ t.pkg.pending.getLsbD a.n = false ∧
      (s.pkg.pending.getLsbD a.n = false → t.hostMem = s.hostMem) ∧
      (s.pkg.pending.getLsbD a.n = true → ∀ i, i < 4 →
        t.hostMem.get 0 ((s.pkg.msixWord (4 * a.n)).toNat + (s.pkg.msixWord (4 * a.n + 1)).toNat * 2 ^ 32 + i) =
          BitVec.ofNat 8 ((s.pkg.msixWord (4 * a.n + 2)).toNat / 256 ^ i)))

/-- An UP port accepts a flit whose CRC matches and whose LSEQ is the expected one, and sends an acknowledgement and,
with a packet's last flit, the credit of its buffers; any other flit is refused with a negative acknowledgement
naming the expected number, and so is a packet whose tag fails, from its first flit on. The form of a credit and
when a protected packet's flits are acknowledged are the model's choice (log entries 63 and 64). A negative
acknowledgement that comes in, and the end of a retrain, put the held flits from the named number on the wire again.
Sixteen negative acknowledgements within 1 microsecond, silence or a lost lane start a retrain; the third failed
attempt makes the port FAILED, drops what waits and counts it; a peer that is not the described one leaves it DOWN
and MISWIRED. A packet is numbered and stored until acknowledged, waits for a full store, is forwarded by the table
of its generation, its chunk verified on the way to the port's die, or dropped and counted, and is delivered in ESEQ
order; a duplicate is acknowledged and dropped. A resend is tried three further times. The routing table that a
retirement prepares is the model's choice (log entry 109). (R386, R387, R388, R391, R392, R393, R394, R395, R396,
R397, R428, R440) -/
def Obligations.LinkEvents : Prop :=
  ∀ (s : State),
    let a := s.args
    let l := s.pkg.link a.p
    let trains (t : State) : Prop := (t.pkg.link a.p).state = .training ∧ (t.pkg.link a.p).attempts = 1 ∧
      (t.pkg.link a.p).retry = l.retry ∧ (t.pkg.link a.p).expect = l.expect ∧
      ∃ e, e ∈ t.timers ∧ e.1 = s.elapsed + 4000 * 45000 ∧ e.2.instr = .retrainAttemptEnd
    -- flits
    (l.state ≠ .up → Completes .flitReceive s (· = s) ∧ Completes .nackReceive s (· = s) ∧
      Completes .laneLockLoss s (· = s) ∧ Completes .linkSilenceTimeout s (· = s)) ∧
    (l.state = .up →
      let f := a.flit
      let refused (expect : BitVec 12) (t : State) : Prop := (t.pkg.link a.p).expect = expect ∧
        (t.pkg.link a.p).wire = l.wire ++ [ctrlFlit (.nak expect)] ∧ t.agenda = s.agenda
      (f.crc ≠ flitCrc f → Completes .flitReceive s (refused l.expect)) ∧
      (f.crc = flitCrc f → f.ctrl = none → f.lseq ≠ l.expect → Completes .flitReceive s (refused l.expect)) ∧
      (f.crc = flitCrc f → f.ctrl = none → f.lseq = l.expect → f.packet = none → f.eop = false →
        Completes .flitReceive s fun t => (t.pkg.link a.p).expect = l.expect + 1 ∧ (t.pkg.link a.p).rx = l.rxWith f ∧
        (t.pkg.link a.p).wire = l.wire ++ (if l.rxKey = none then [ctrlFlit (.ack f.lseq)] else []) ∧
        t.agenda = s.agenda) ∧
      (∀ pk, f.crc = flitCrc f → f.ctrl = none → f.lseq = l.expect → f.packet = some pk → f.eop = true →
        let taken (t : State) : Prop := (t.pkg.link a.p).expect = l.expect + 1 ∧ (t.pkg.link a.p).wire = l.wire ++
          [ctrlFlit (.ack f.lseq), ctrlFlit (.credit f.vc (l.freed.get 0 f.vc.toNat + (l.rxWith f).length / 232))]
        (s.rxTagOk a.p pk f = false → Completes .flitReceive s (refused (l.rxFrom f))) ∧
        (s.rxTagOk a.p pk f = true → 9 < pk.kind.toNat → Completes .flitReceive s fun t =>
          taken t ∧ t.pkg.errors = s.pkg.errors + 1 ∧ t.agenda = s.agenda) ∧
        (s.rxTagOk a.p pk f = true → s.pkg.bunting a.p = true → pk.kind ≠ 7 → Completes .flitReceive s fun t =>
          taken t ∧ t.pkg.errors = s.pkg.errors + 1 ∧ t.agenda = s.agenda) ∧
        (s.rxTagOk a.p pk f = true → s.pkg.bunting a.p = false → pk.kind.toNat < 10 → pk.kind ≠ 0 →
          let goes (b : Body) (t : State) : Prop := taken t ∧ t.agenda = s.agenda ++
            [⟨.packetForward, { Args.empty with pk := { pk with hop := pk.hop + 1, body := b } }⟩]
          (∀ r, pk.body = .request r → Completes .flitReceive s (goes (.request r))) ∧
          (∀ r, pk.body = .response r → Completes .flitReceive s (goes (.response r))) ∧
          ∀ ck, pk.body = .chunk ck → burgeeOk ck = true → Completes .flitReceive s
            (goes (.chunk { ck with hop := s.hopWord (portDie a.p) a.p 2 })))) ∧
      ((l.naks.filter fun t => decide (s.elapsed < t + 1000 * 45000)).length < 15 → Completes .nackReceive s fun t =>
        (t.pkg.link a.p).state = .up ∧ (t.pkg.link a.p).replays = min (l.replays + 1) 0xFFFF ∧
        (t.pkg.link a.p).wire = l.wire ++ l.heldFrom a.lseq) ∧
      (15 ≤ (l.naks.filter fun t => decide (s.elapsed < t + 1000 * 45000)).length → Completes .nackReceive s trains) ∧
      Completes .laneLockLoss s trains ∧
      (s.elapsed < l.heard + 1000 * 45000 → Completes .linkSilenceTimeout s (· = s)) ∧
      (l.heard + 1000 * 45000 ≤ s.elapsed → Completes .linkSilenceTimeout s trains)) ∧
    -- retrains
    (l.state ≠ .training → Completes .retrainAttemptEnd s (· = s)) ∧
    (l.state = .training → a.n = 0 →
      let peer : BitVec 10 := BitVec.ofNat 10 a.src
      let wrong := !s.pkg.bunting a.p && (s.pkg.fabric.peerOf a.p).any fun q => q != peer
      (a.flag = false → l.attempts < 3 → Completes .retrainAttemptEnd s fun t =>
        t.pkg.link a.p = { l with attempts := l.attempts + 1 }) ∧
      (a.flag = false → 3 ≤ l.attempts → Completes .retrainAttemptEnd s fun t =>
        t.pkg.link a.p = { l with state := .failed, retry := [], queue := [] } ∧
        t.pkg.dropFail = s.pkg.dropFail + l.queue.length) ∧
      (a.flag = true → wrong = true → Completes .retrainAttemptEnd s fun t =>
        t.pkg.link a.p = { l with state := .down, peer := peer, peerPort := a.dst, miswired := true }) ∧
      (a.flag = true → wrong = false → l.queue = [] → Completes .retrainAttemptEnd s fun t => t.pkg.link a.p =
        { l.trained a.lseq s.elapsed with peer := peer, peerPort := a.dst, asym := a.int })) ∧
    ((l.trained a.lseq s.elapsed).state = .up ∧ (l.trained a.lseq s.elapsed).retry = l.heldFrom a.lseq ∧
      (l.trained a.lseq s.elapsed).wire = l.wire ++ l.heldFrom a.lseq ++ l.owed.toList.map ctrlFlit ∧
      (l.heldFrom a.lseq = [] → (l.trained a.lseq s.elapsed).next = a.lseq)) ∧
    (l.en = a.flag → Completes .linkEnable s (· = s)) ∧
    (l.en = true → a.flag = false → Completes .linkEnable s fun t => t.pkg.link a.p = { l with en := false, state := .down }) ∧
    (l.en = false → a.flag = true → Completes .linkEnable s fun t => trains t ∧ (t.pkg.link a.p).en = true) ∧
    Completes .linkRetire s (· = { s with
      pkg := { s.pkg with retired := s.pkg.retired ||| 1#32 <<< a.p }.prepared
      agenda := s.agenda ++ [⟨.linkEnable, { Args.empty with p := a.p, flag := false }⟩] }) ∧
    Completes .boundaryRetrainFailed s (· =
      { s with agenda := s.agenda ++ [⟨.dieFence, { Args.empty with die := a.die, n := 4 }⟩] }) ∧
    -- packets
    (let pk := a.pk
     let s0 := s.settleBody pk.body
     let e := s0.pkg.peer pk.dst pk.ch
     (pk.kind = 6 → Completes .packetInject s fun t => t.pkg.store = s.pkg.store ∧ t.pkg.e2e = s.pkg.e2e) ∧
     (pk.kind ≠ 6 → s.requestWaits pk.body = true → Completes .packetInject s (· = s.afterCycles 1 .packetInject a)) ∧
     (pk.kind ≠ 6 → s.requestWaits pk.body = false → 16384 ≤ s0.pkg.store.length ∨ s0.pkg.outbox ≠ [] →
       Completes .packetInject s (· = { s0 with pkg := { s0.pkg with outbox := s0.pkg.outbox ++ [pk] } })) ∧
     (pk.kind ≠ 6 → s.requestWaits pk.body = false → s0.pkg.store.length < 16384 → s0.pkg.outbox = [] →
       Completes .packetInject s fun t =>
       t.pkg.store = s0.pkg.store ++
         [⟨s0.pkg.stamped { pk with src := s0.pkg.srcNumber, eseq := e.next, eack := e.expect }, s0.elapsed, 1⟩] ∧
       (t.pkg.peer pk.dst pk.ch).next = e.next + 1 ∧ (t.pkg.peer pk.dst pk.ch).expect = e.expect) ∧
     ((∀ k, k < 2 → s.pkg.genValid k = false ∨ s.pkg.gen k ≠ pk.gen.toNat) → Completes .packetForward s (· =
       { s with pkg := { s.pkg with dropGen := s.pkg.dropGen + 1 } })) ∧
     (∀ k, ([0, 1].find? fun k => s.pkg.genValid k && s.pkg.gen k == pk.gen.toNat) = some k → pk.nonmin = false →
       s.pkg.isMe pk.inter = false →
       (s.pkg.isMe pk.dst = true → Completes .packetForward s (· =
         { s with agenda := s.agenda ++ [⟨.e2eDeliver, { Args.empty with pk := pk }⟩] })) ∧
       (s.pkg.isMe pk.dst = false →
         let r := s.pkg.route k pk.dst.toNat
         let port := routePort r pk.src pk.dst pk.ch
         let bad : Prop := routeValid r = false ∨ 3 < pk.hop ∨ (s.pkg.link port).state = .failed
         (bad → Completes .packetForward s (· = { s with pkg := { s.pkg with dropFail := s.pkg.dropFail + 1 } })) ∧
         (¬bad → s.pkg.bunting port = true → pk.kind ≠ 7 → verifiedChunk pk.body = none → Completes .packetForward s (· =
           { s with pkg := { s.pkg with dropFail := s.pkg.dropFail + 1 } })) ∧
         (¬bad → s.pkg.bunting port = false → (s.pkg.link port).state ≠ .up → verifiedChunk pk.body = none → Completes .packetForward s fun t =>
           (t.pkg.link port).queue = (s.pkg.link port).queue ++ [(vcOf pk, pk)] ∧ t.pkg.dropFail = s.pkg.dropFail) ∧
         -- a chunk passes the points on the way to the port's die
         (∀ ck, ¬bad → s.pkg.bunting port = false → (s.pkg.link port).state ≠ .up → pk.body = .chunk ck →
           let pts := pathPoints 4 (hopDie ck.hop) (portDie port * 256 + nameCell ck.origin % 256)
           let goes (q : Packet) (t : State) : Prop :=
             (t.pkg.link port).queue = (s.pkg.link port).queue ++ [(vcOf pk, q)] ∧ t.pkg.dropFail = s.pkg.dropFail
           (pts = [] → Completes .packetForward s (goes pk)) ∧
           (pts ≠ [] → (∃ q, q ∈ pts ∧ s.pkg.fenced.getLsbD q.1 = true) → Completes .packetForward s (· = s)) ∧
           ((∀ q, q ∈ pts → s.pkg.fenced.getLsbD q.1 = false) → burgeeOk ck = true →
             ∀ l, pts.getLast? = some l → Completes .packetForward s
               (goes { pk with body := .chunk { ck with hop := s.hopWord l.1 l.2.1 l.2.2 } })) ∧
           ((∀ q, q ∈ pts → s.pkg.fenced.getLsbD q.1 = false) → burgeeOk ck = false →
             ∀ q rest, pts = q :: rest → Completes .packetForward s (· =
               s.failChunk q.1 q.2.1 0 q.2.2 (burgeeSub ck) none ck)))))) ∧
    (let pk := a.pk
     let e := s.pkg.peer pk.src pk.ch
     let n := seqDiff pk.eseq e.expect
     let seen (t : State) : E2e := t.pkg.peer pk.src pk.ch
     (pk.kind = 6 → n ≤ 0 → Completes .e2eDeliver s fun t => seen t = { e with heard := s.elapsed }) ∧
     (pk.kind = 6 → 0 < n → e.early = [] → Completes .e2eDeliver s fun t =>
       seen t = { e with heard := s.elapsed, expect := pk.eseq }) ∧
     (pk.kind ≠ 6 →
       (n < 0 ∨ 64 ≤ n → Completes .e2eDeliver s fun t => seen t = { e with heard := s.elapsed } ∧ t.mem = s.mem) ∧
       (n = 0 → e.early = [] → Completes .e2eDeliver s fun t => seen t = { e with heard := s.elapsed, expect := e.expect + 1 } ∧
         (∀ r, pk.body = .request r → (⟨.remoteRequest, { Args.empty with c := aCell r.addr, req := r }⟩ : Event) ∈ t.agenda) ∧
         ∀ r, pk.body = .response r → s.fencedCell r.cell = false → (⟨.remoteResponse, { Args.empty with resp := r }⟩ : Event) ∈ t.agenda) ∧
       (0 < n → n < 64 → (∀ q, q ∈ e.early → q.eseq ≠ pk.eseq) → Completes .e2eDeliver s fun t =>
         seen t = { e with heard := s.elapsed, early := e.early ++ [pk] } ∧ t.mem = s.mem))) ∧
    (s.pkg.outbox = [] → Completes .e2eAckReceive s fun t => ∀ x, x ∈ t.pkg.store ↔ x ∈ s.pkg.store ∧
      ¬(x.pk.dst.toNat = a.src ∧ x.pk.ch = a.flag ∧ seqDiff x.pk.eseq a.ack < 0)) ∧
    (let mine (x : Sent) : Bool := x.pk.dst.toNat == a.dst && x.pk.ch == a.flag && x.pk.eseq == a.seq
     (s.pkg.store.find? mine = none → Completes .e2eResendTimeout s (· = s)) ∧
     ∀ x, s.pkg.store.find? mine = some x →
       (x.tries < 4 → Completes .e2eResendTimeout s fun t => t.pkg.store =
         s.pkg.store.map fun y => if mine y then { y with
           pk := s.pkg.stamped { x.pk with eack := (s.pkg.peer x.pk.dst x.pk.ch).expect }, tries := y.tries + 1 } else y) ∧
       (4 ≤ x.tries → s.pkg.outbox = [] → Completes .e2eResendTimeout s fun t => ∀ y, y ∈ t.pkg.store → mine y = false)) ∧
    -- routing tables
    (let w := s.pkg.rtCtl
     let due : Prop := w.getLsbD 14 = true ∧ (s.pkg.csr.get 0 0x314).toNat * 45000 ≤ s.time
     (¬due → Completes .generationSwap s (· = s)) ∧
     (due → Completes .generationSwap s fun t => t.pkg.rtCtl.getLsbD 14 = false ∧
       t.pkg.rtCtl.getLsbD 13 = !w.getLsbD 13 ∧ t.pkg.window = false ∧ t.pkg.routes = s.pkg.routes)) ∧
    (let w := s.pkg.csr.get 0 0x311
     let slot := w.toNat / 2 ^ 10 % 2
     (s.pkg.genValid slot = true → Completes .rtDataWrite s (· = s)) ∧
     (s.pkg.genValid slot = false → Tab.wf 0 s.pkg.routes = true → Completes .rtDataWrite s fun t =>
       t.pkg.route slot (w.toNat % 1024) = a.v &&& 0x00FFFFFFFFFF1FFF ∧
       ∀ k, k ≠ slot * 1024 + w.toNat % 1024 → t.pkg.routes.get 0 k = s.pkg.routes.get 0 k))

/-- A word written to BOOT_INJ enters the queue or is dropped. A manifest whose every byte is held is ANNOUNCED when
magic, serial and signature are good, else the boot FAILED; a DATA packet of its serial writes its payload into this
package's frame; VERIFY goes on when every share hashes right, and fails the boot after a third failure; COMMIT
needs every share good, and at the root every package ready. TIME behind at its first lock steps forward, and is
slewed otherwise; a lost source ends in holdover, in which TIME drifts by at most 100 ns in a second (the model's
choice of when, log entry 70). Over the power limit every configured cell's base limit falls by 256 per step.
KEY_CMD ends with GO 0 and ERR; a binding takes effect at once without a key and at the switch otherwise. The
attestation report is delivered byte by byte. (R401, R402, R403, R404, R406, R408, R409, R410, R474, R476, R477,
R478) -/
def Obligations.BootTimePowerKeys : Prop :=
  ∀ (s : State),
    let a := s.args
    let b := s.pkg.boot
    let l := a.bytes
    -- boot
    (a.flag = false → s.injBad a.v = true → Completes .bootInj s (· =
      { s with pkg := { s.pkg with boot := { b with drop := true } } })) ∧
    (a.flag = false → s.injBad a.v = false → Completes .bootInj s (· =
      { s with pkg := { s.pkg with boot := { b with queue := b.queue ++ [a.v] } },
               agenda := s.agenda ++ [⟨.bootInj, { Args.empty with flag := true }⟩] })) ∧
    (a.flag = true → b.queue = [] → Completes .bootInj s (· = s)) ∧
    (∀ v q, a.flag = true → b.queue = v :: q → Completes .bootInj s (· =
      State.injTake { s with pkg := { s.pkg with boot := { b with queue := q } } } v)) ∧
    (bootOk l = false → Completes .bootAnnounce s (· = s) ∧ Completes .bootData s (· = s) ∧ Completes .bootVerify s (· = s) ∧
      (a.n ≠ 1 → Completes .bootCommit s (· = s)) ∧ Completes .bootReply s (· = s)) ∧
    (bootOk l = true → b.segs = [] → b.segSerial = bSerial l → b.segDirect = a.flag → bOffset l = 0 → bLast l = true →
      (b.serial ≠ bSerial l ∨ b.st = .idle ∨ b.st = .failed ∨ a.flag = true) → Completes .bootAnnounce s fun t =>
        let ok := manifestOk (bPayload l) && field (bPayload l) 4 4 == (bSerial l).toNat
        t.pkg.boot.man = (if ok then bPayload l else []) ∧ t.pkg.boot.serial = bSerial l ∧ t.pkg.boot.sigOk = ok ∧
        t.pkg.boot.st = (if ok then .announced else .failed) ∧ t.mem = s.mem) ∧
    (bootOk l = true → bSerial l ≠ b.serial → Completes .bootData s (· = s) ∧ Completes .bootVerify s (· = s) ∧
      (a.n ≠ 1 → Completes .bootCommit s (· = s))) ∧
    (a.n = 1 → b.stores = [] ∨ b.st ≠ .verifying ∨ b.serial.toNat ≠ a.id → Completes .bootCommit s (· = s)) ∧
    (a.n = 1 → b.stores ≠ [] → b.st = .verifying → b.serial.toNat = a.id →
      ((∃ w, w ∈ b.stores ∧ w ∈ s.pkg.writes) → Completes .bootCommit s (· = s.afterCycles 1 .bootCommit { Args.empty with n := 1, id := a.id })) ∧
      ((∀ w, w ∈ b.stores → w ∉ s.pkg.writes) → Completes .bootCommit s fun t => t.pkg.boot.st = .committed ∧ t.mem = s.mem)) ∧
    (bootOk l = true → bSerial l = b.serial →
      (s.pkg.placeable = false → Completes .bootData s fun t => t.pkg.boot = b ∧ t.mem = s.mem) ∧
      (∀ e, b.sigOk = true → s.pkg.placeable = true → bEntries l = [e] → aPkg e = s.pkg.number → s.frameOk e (bOffset l + bLength l) = true →
        b.st = .announced ∨ b.st = .loading → (bLast l && bEnc l) = false → Memory.wf s.mem = true →
        Completes .bootData s fun t =>
          let k := flatOf (e + BitVec.ofNat 64 (bOffset l))
          t.pkg.boot.st = .loading ∧ (∀ i x, (bPayload l)[i]? = some x → t.byte (k + i) = x) ∧
          ∀ j, ¬(k ≤ j ∧ j < k + (bPayload l).length) → t.byte j = s.byte j) ∧
      (let own := mine b.man s.pkg.number
       (b.st ≠ .announced → b.st ≠ .loading → Completes .bootVerify s fun t => t.pkg.boot = b ∧ t.mem = s.mem) ∧
       (b.st = .announced ∨ b.st = .loading → Completes .bootVerify s fun t => t.mem = s.mem ∧
         ((∀ i, i ∈ own → s.shareGood i = true) → t.pkg.boot.st = .verifying ∧ t.pkg.boot.bad = []) ∧
         ((∃ i, i ∈ own ∧ s.shareGood i = false ∧ 2 ≤ b.fails.get 0 i) → t.pkg.boot.st = .failed))) ∧
      (let root : Prop := s.pkg.number = s.pkg.fabric.root ∧ a.flag = false
       let near : Prop := ∀ i, i ∈ mine b.man s.pkg.number → ∀ d, mTensor b.man (mShare b.man i).tensor = some d →
         ∀ k, k < (mShare b.man i).count → aPkg (d.table + BitVec.ofNat 64 (8 * ((mShare b.man i).first + k))) = s.pkg.number
       (a.n ≠ 1 → root → (∃ q, q ∈ s.pkg.fabric.packages ∧ q ∉ b.ready) → Completes .bootCommit s (· = s)) ∧
       (a.n ≠ 1 → ¬root → b.st = .verifying → b.bad = [] → b.stores = [] → near → Completes .bootCommit s fun t =>
         t.pkg.boot.st = .committed) ∧
       (a.n ≠ 1 → ¬root → b.st ≠ .verifying ∨ b.bad ≠ [] → Completes .bootCommit s fun t => t.pkg.boot = b ∧ t.mem = s.mem)) ∧
      (s.pkg.number ≠ s.pkg.fabric.root → Completes .bootReply s (· = s)) ∧
      (s.pkg.number = s.pkg.fabric.root → b.direct = false → s.pkg.bootReply.getLsbD 4 = false → bType l = 6 →
        Completes .bootReply s fun t => t.mem = s.mem ∧
          (BitVec.ofNat 10 a.src ∈ t.pkg.boot.ready ↔ field (bPayload l) 0 1 = 3 ∧ field (bPayload l) 2 2 = 0))) ∧
    -- time
    (let t0 := s.pkg.time
     (∀ source port stratum (offset : Int),
       let t := s.measured source port stratum offset
       t.pkg.time.source = source ∧ t.pkg.time.offset = offset ∧ t.pkg.time.once = true ∧ t.pkg.time.holdover = false ∧
       (t0.once = false → offset < 0 → t.time = s.time + (-offset * 45000).toNat ∧ t.pkg.time.slew = 0 ∧
         t.pkg.time.locked = true ∧ t.elapsed = s.elapsed) ∧
       (t0.once = true ∨ 0 ≤ offset → t.time = s.time ∧ t.pkg.time.slew = -offset * 45000 ∧
         (t.pkg.time.locked = true ↔ -8 ≤ offset ∧ offset ≤ 8))) ∧
     Completes .ptpSync s (· = s.measured 1 0 0 a.int) ∧
     ((s.pkg.link a.p).state ≠ .up → Completes .timeExchange s (· = s)) ∧
     ((s.pkg.link a.p).state = .up →
       let s1 := s.modLink a.p fun l => { l with stratum := a.n }
       (a.flag = true → a.n ≠ (s.pkg.link a.p).retrains → Completes .timeExchange s (· = s)) ∧
       (a.flag = true → a.n = (s.pkg.link a.p).retrains → Completes .timeExchange s fun t => t.pkg.time = t0 ∧
         (t.pkg.link a.p).wire = (s.pkg.link a.p).wire ++ [ctrlFlit (.stamp s.tai t0.reported)]) ∧
       (a.flag = false → t0.above 3 = true ∨ s1.pkg.bestPort ≠ some a.p → Completes .timeExchange s (· = s1)) ∧
       (a.flag = false → t0.above 3 = false → s1.pkg.bestPort = some a.p → Completes .timeExchange s fun t =>
         t.pkg.time = (s1.measured 3 a.p (a.n + 1) a.int).pkg.time ∧ t.time = (s1.measured 3 a.p (a.n + 1) a.int).time)) ∧
     (t0.ppsIn = false ∨ t0.secLive = false → Completes .ppsEdge s (· = s)) ∧
     (t0.ppsIn = true → t0.secLive = true → t0.above 2 = true → Completes .ppsEdge s fun t =>
       t.pkg.time = { t0 with sec := t0.sec + 1 } ∧ t.time = s.time) ∧
     (t0.ppsIn = true → t0.secLive = true → t0.above 2 = false → Completes .ppsEdge s fun t =>
       t.pkg.time.source = 2 ∧ t.pkg.time.sec = t0.sec + 1 ∧
       t.pkg.time.offset = ((s.time / 45000 : Nat) : Int) - t0.sec.toNat * 1000000000) ∧
     (a.n ≠ 1 → t0.source = 0 ∨ t0.source ≠ a.k ∨ t0.holdover = true → Completes .timeHoldover s (· = s)) ∧
     (a.n = 1 → t0.holdover = false → Completes .timeHoldover s (· = s)) ∧
     ((a.n = 1 ∧ t0.holdover = true) ∨ (a.n ≠ 1 ∧ t0.source ≠ 0 ∧ t0.source = a.k ∧ t0.holdover = false ∧
         (t0.source ≠ 3 ∨ t0.heard + 3 * stampInterval * 45000 ≤ s.elapsed)) →
       Completes .timeHoldover s fun t => t.mem = s.mem ∧ t.time = s.time ∧ t.pkg.time.locked = false ∧
         t.pkg.time.holdover = true ∧ t.pkg.time.source = t0.source ∧
         -100 * 45000 ≤ t.pkg.time.slew ∧ t.pkg.time.slew ≤ 100 * 45000)) ∧
    -- power
    (s.pkg.overLimit = false → Completes .powerOverStep s (· = s)) ∧
    (s.pkg.overLimit = true → Completes .powerOverStep s fun t => ∀ c, (s.cell c).loaded = true →
      (t.cell c).curBase.toNat = (s.cell c).curBase.toNat - 256) ∧
    Completes .powerMeasurementUpdate s (fun t => t.pkg.measured = a.n ∧
      (t.pkg.overLimit = true ↔ s.pkg.plimit < a.n)) ∧
    Completes .coolantAlarm s (· = { s with pkg := { s.pkg with coolAlm := a.flag } }) ∧
    -- keys
    (let done (t : State) (err : Bool) : Prop :=
       let w := t.pkg.csr.get 0 0x360
       w.getLsbD 23 = false ∧ w.getLsbD 24 = err
     let key := (s.pkg.key 0).bind fun k => unwrapKey k.bytes (s.md0Read a.src 40)
     let lp := s.pkg.link a.p
     (a.slot = 0 ∨ 2 < a.usage → Completes .keyLoad s fun t => done t true ∧ t.pkg.keys = s.pkg.keys) ∧
     (a.slot ≠ 0 → a.usage ≤ 2 → Completes .keyLoad s fun t =>
       match key with
       | some k => done t false ∧ t.pkg.key a.slot = some ⟨a.usage, k⟩
       | none => done t true ∧ t.pkg.keys = s.pkg.keys) ∧
     Completes .keyErase s (fun t => done t false ∧ t.pkg.key a.slot = none) ∧
     (s.pkg.bindable a.slot = false → Completes .keyBindtx s (fun t => done t true ∧ t.pkg.links = s.pkg.links) ∧
       Completes .keyBindrx s fun t => done t true ∧ t.pkg.links = s.pkg.links) ∧
     (s.pkg.bindable a.slot = true →
       Completes .keyBindtx s (fun t => done t false ∧ t.pkg.link a.p =
         if lp.txKey = none then { lp with txKey := some a.slot } else { lp with txNext := some a.slot }) ∧
       Completes .keyBindrx s fun t => done t false ∧ t.pkg.link a.p =
         if lp.rxKey = none then { lp with rxKey := some a.slot } else { lp with rxNext := some a.slot }) ∧
     (lp.txNext = none → Completes .keyRekey s fun t => done t false ∧ t.pkg.link a.p = lp) ∧
     (∀ k, lp.txNext = some k → Completes .keyRekey s fun t => done t false ∧ t.pkg.link a.p =
       { lp with txKey := some k, txNext := none, txEpoch := lp.txEpoch + 1, txCounter := 0,
                 owed := if lp.state = .up then none else some (.keySwitch (lp.txEpoch + 1)),
                 wire := if lp.state = .up then lp.wire ++ [ctrlFlit (.keySwitch (lp.txEpoch + 1))] else lp.wire })) ∧
    -- attestation
    (let body := s.reportBody (s.md0Read a.src 64)
     let report := body ++ signature (sha3 body)
     let place (i : Nat) : Nat := flat ((a.dst + i) / 0x200000) 0 ((a.dst + i) % 0x200000)
     a.dst + report.length ≤ 256 * 0x200000 → Memory.wf s.mem = true → Completes .attestation s fun t =>
       (∀ i x, report[i]? = some x → t.byte (place i) = x) ∧
       ∀ j, (∀ i, i < report.length → j ≠ place i) → t.byte j = s.byte j)

/-- A corrected error is counted and logged at most once a millisecond; an uncorrectable one poisons its word, or stops
the consumer with UE_CONSUMED and asks for the kill of its region. A kill halts every cell of the region, logs it
once, and at the third within 100 ms takes the cells out of service. A fence adds the dies that fall with the die.
Equal chunks of both copies go on once, unequal ones are a mismatch. A stream reset restarts its numbers at 0; a
number is adopted with no window open and no region loaded; a map write that would revive a column is refused; a
refused GO of the scan test sets ERR only, an abort ends it with RESULT 3; a reset puts the reset values back.
(R420, R421, R430, R432, R437, R440, R445, R447, R467, R470, R471, R480) -/
def Obligations.ReliabilityEvents : Prop :=
  ∀ (s : State),
    let a := s.args
    let c := a.c
    let d := s.die a.die
    let entry (i : Instr) (x : Args) (t : State) : Prop := t = { s with agenda := s.agenda ++ [⟨i, x⟩] }
    -- errors
    (d.eccCe < 0xFFFFFFFF → Completes .eccCorrectable s fun t => (t.die a.die).eccCe = d.eccCe + 1 ∧ t.mem = s.mem ∧
      (∀ last n, (d.ce.find? fun e => e.1 == a.store) = some (a.store, last, n) → s.elapsed < last + 1000000 * 45000 →
        (t.die a.die).elog = d.elog) ∧
      ((d.ce.find? fun e => e.1 == a.store) = none → d.elog.items.length < 128 → (t.die a.die).elog.items = d.elog.items ++
        [[s.tai, elogWord1 1 (if a.store ≤ 4 then c % 256 else 0) (if a.store = 5 then a.v.toNat % 32 else 0) 0 a.store, a.v, 0]])) ∧
    (a.flag = true → a.store ≠ 4 → (s.ctxOf c a.x).st ≠ .free → (s.cell c).loaded = true → Completes .eccUncorrectable s fun t =>
      (t.ctxOf c a.x).st = .stopped ∧ (t.ctxOf c a.x).trapCause.toNat % 256 = 0x0B ∧ t.mem = s.mem ∧
      ∃ e, e ∈ t.agenda ∧ e.instr = .regionKill ∧ e.args.die = dieOf c ∧ e.args.origin = (s.cell c).regionId.toNat % 256) ∧
    (a.flag = false → a.store ≤ 2 → Tab.wf false s.poison = true → Completes .eccUncorrectable s fun t =>
      t.mem = s.mem ∧ ∀ k, t.poison.get false k = if k = wordOf a.v.toNat then true else s.poison.get false k) ∧
    (a.flag = false → a.store = 5 →
      let p := a.v.toNat % 32
      let i := a.v.toNat / 2 ^ 16 % 2 ^ 16
      (a.e = 0 → Completes .eccUncorrectable s fun t => (t.pkg.link p).queue = (s.pkg.link p).queue.eraseIdx i ∧
        t.mem = s.mem ∧ t.poison = s.poison) ∧
      (2 ≤ a.e → Completes .eccUncorrectable s fun t => t.pkg.store = s.pkg.store.eraseIdx i ∧ t.mem = s.mem ∧
        t.poison = s.poison)) ∧
    (a.flag = false → 5 < a.store → Completes .eccUncorrectable s fun t =>
      t.agenda = s.agenda ++ [⟨.dieFence, { Args.empty with die := dieOf c, n := 0 }⟩]) ∧
    (s.poisoned (wordOf a.v.toNat) 8 = false → Completes .scrub s (· = s)) ∧
    (s.poisoned (wordOf a.v.toNat) 8 = true → Tab.wf false s.poison = true → Completes .scrub s fun t =>
      t.mem = s.mem ∧ ∀ k, t.poison.get false k = if k = wordOf a.v.toNat then true else s.poison.get false k) ∧
    -- kills and fences
    (s.shelfKilled a.die a.k = none → ((s.die a.die).regions.find? fun r => r.origin == a.origin) = none →
      Completes .regionKill s (· = s)) ∧
    (∀ r, s.shelfKilled a.die a.k = none → (d.regions.find? fun r => r.origin == a.origin) = some r → a.flag = false →
      let cells := regionCells a.die r.origin r.w r.h
      let named : Prop := (s.cell (a.die * 256 + r.origin)).regionId.toNat / 2 ^ 16 % 2 ^ 32 = a.k
      (¬named → Completes .regionKill s (· = s)) ∧
      (named → (∃ m, m ∈ cells ∧ (s.cell m).killed = true) → a.n ≠ 0 → a.n ≠ 3 → Completes .regionKill s (· = s)) ∧
      (named → (∀ m, m ∈ cells → (s.cell m).killed = false) → Completes .regionKill s fun t =>
        (∀ m, m ∈ cells → (t.cell m).killed = true ∧ (t.cell m).cur = none ∧ (∀ n e, e ∈ (t.cell m).queue n → e.ctx = 4)) ∧
        (∀ e, e ∈ s.agenda → e ∈ t.agenda) ∧ ⟨.regionKill, { a with flag := true }⟩ ∈ t.agenda ∧ t.mem = s.mem)) ∧
    (∀ r, s.shelfKilled a.die a.k = none → (d.regions.find? fun r => r.origin == a.origin) = some r → a.flag = true →
      let cells := regionCells a.die r.origin r.w r.h
      let waits : Prop := (∃ m, m ∈ cells ∧ s.stillRuns m = true) ∨ ∀ m, m ∈ cells → (s.cell m).rot ≠ none
      (waits → Completes .regionKill s (· = s.afterCycles 1 .regionKill a)) ∧
      (¬waits → Completes .regionKill s (· = s.killRegion a.die r))) ∧
    (s.pkg.fenced.getLsbD a.die = true → Completes .dieFence s (· = s)) ∧
    (s.pkg.fenced.getLsbD a.die = false → a.n ≤ 4 → Completes .dieFence s fun t =>
      t.pkg.fenced = s.pkg.fenced ||| fencedWith a.die ∧ t.pkg.fenceCause = a.n) ∧
    Completes .dcpWatchdogMiss s (entry .dieFence { Args.empty with die := a.die, n := 2 }) ∧
    -- comparators
    (((s.die a.die).shadow.find? fun e => e.1 == a.ck.stream) = none →
      Completes .shadowCompare s (entry .chunkArrival { Args.empty with c := c, ck := a.ck })) ∧
    (∀ q, d.shadow = [q] → q.1 = a.ck.stream → burgeeOk a.ck = true → a.flag = true →
      (q.2.1 = [] → (∃ e, e ∈ q.2.2 ∧ e.2.seq = a.ck.seq) → Completes .shadowCompare s (· = s)) ∧
      (q.2.1 = [] → (∀ e, e ∈ q.2.2 → e.2.seq ≠ a.ck.seq) → 8 ≤ q.2.2.length → Completes .shadowCompare s (· =
        s.afterCycles 1 .shadowCompare a)) ∧
      (q.2.1 = [] → (∀ e, e ∈ q.2.2 → e.2.seq ≠ a.ck.seq) → q.2.2.length < 8 → Completes .shadowCompare s fun t => (t.die a.die).shadow = [(q.1, [], q.2.2 ++ [(c, a.ck)])] ∧
        t.agenda = s.agenda ∧
        t.timers = s.timers ++ [(s.elapsed + 100000 * 45000, ⟨.shadowTimeout, { Args.empty with
          die := a.die, stream := a.ck.stream, seq := a.ck.seq }⟩)]) ∧
      (∀ m w, q.2.1 = [(m, w)] → w.seq = a.ck.seq → headersEqual w a.ck = true → w.payload = a.ck.payload → q.2.2 = [] →
        Completes .shadowCompare s fun t => (t.die a.die).shadow = [(q.1, [], [])] ∧ t.agenda = s.agenda ++
          [⟨.chunkArrival, { Args.empty with c := m, ck := { w with hop := s.hopWord a.die 0 5 } }⟩]) ∧
      (∀ m w, q.2.1 = [(m, w)] → w.seq = a.ck.seq → w.payload ≠ a.ck.payload → Completes .shadowCompare s fun t =>
        (q.1, a.ck.seq) ∈ (t.die a.die).mismatched ∧ t.mem = s.mem)) ∧
    (∀ q, d.shadow = [q] → q.1 = a.stream →
      (((q.2.1 ++ q.2.2).find? fun e => e.2.seq == a.seq) = none → Completes .shadowTimeout s (· = s)) ∧
      ((∃ e, e ∈ q.2.1 ++ q.2.2 ∧ e.2.seq = a.seq) → Completes .shadowTimeout s fun t =>
        (q.1, a.seq) ∈ (t.die a.die).mismatched ∧ t.mem = s.mem)) ∧
    -- streams, numbers, maps
    (∀ p, s.cells = [(c, s.cell c)] → d.shelf = [] → dieOf c = a.die → (s.cell c).portOf a.stream = some p →
      (s.cell c).tagOf a.stream = none →
      let q := (s.cell c).port p
      q.nextP = q.ackP → Completes .streamReset s fun t =>
        ((t.cell c).port p).nextP = 0 ∧ ((t.cell c).port p).ackP = 0 ∧ ((t.cell c).port p).stopped = false ∧
        ((t.die a.die).csr.get 0 0x236).getLsbD 16 = false ∧ ((t.die a.die).csr.get 0 0x236).getLsbD 17 = false) ∧
    (s.cells = [] → d.shelf = [] → Completes .streamReset s fun t => ((t.die a.die).csr.get 0 0x236).getLsbD 16 = false ∧
      ((t.die a.die).csr.get 0 0x236).getLsbD 17 = true) ∧
    ((s.pkg.window = true ∨ ∃ e, e ∈ s.dies ∧ e.2.regions ≠ []) → Completes .pkgAdopt s (· = s)) ∧
    (s.pkg.window = false → (∀ e, e ∈ s.dies → e.2.regions = []) → Completes .pkgAdopt s (· =
      { s with pkg := { s.pkg with former := s.pkg.number, number := BitVec.ofNat 10 a.n, window := true } })) ∧
    (let low := a.die / 2 * 2
     (s.mapRefused a.die a.row (a.v &&& 0x3FF) = true → Completes .cmapRowWrite s fun t =>
       ((t.die low).cmapRow a.row).getLsbD 12 = true ∧
       ((t.die low).cmapRow a.row).toNat % 2 ^ 12 = ((s.die low).cmapRow a.row).toNat % 2 ^ 12) ∧
     (s.mapRefused a.die a.row (a.v &&& 0x3FF) = false → Completes .cmapRowWrite s fun t =>
       ((t.die low).cmapRow a.row).toNat % 2 ^ 10 = a.v.toNat % 2 ^ 10 ∧ ((t.die low).cmapRow a.row).getLsbD 11 = true ∧
       (t.die (low + 1)).cmapRow a.row = (t.die low).cmapRow a.row) ∧
     (a.n = 0 → Completes .cmapPairMove s fun t => ((t.die low).cmapRow a.row).getLsbD 11 = false ∧ t.mem = s.mem) ∧
     (a.n ≠ 0 → Completes .cmapPairMove s fun t => t.dies = s.dies)) ∧
    Completes .recArm s (fun t => t.mem = s.mem ∧ ∀ e, e ∈ s.cells → dieOf e.1 = a.die → ∃ k, (e.1, k) ∈ t.cells ∧
      k = { e.2 with recStat := 0 }) ∧
    -- the scan test
    (let w := s.scanCtl a.die
     let cell := w.toNat % 256
     let refused : Prop := w.getLsbD 15 = true ∨ w.getLsbD 16 = true ∨ d.absent (a.v.toNat % 256) = true ∨
       (a.v.getLsbD 9 = true ∧ a.v.toNat % 256 ∉ d.aborted)
     (refused → Completes .scanGo s fun t => (s.cells = t.cells ∧ (t.die a.die).aborted = d.aborted ∧
       (t.scanCtl a.die).getLsbD 17 = true ∧ (t.scanCtl a.die).toNat % 2 ^ 17 = w.toNat % 2 ^ 17)) ∧
     (¬refused → Completes .scanGo s fun t => (t.scanCtl a.die).toNat % 256 = a.v.toNat % 256 ∧
       (t.scanCtl a.die).getLsbD 16 = true ∧ (t.die a.die).oos (a.v.toNat % 256) = true ∧
       t.agenda = s.agenda ++ [⟨.scanDrainDone, { Args.empty with die := a.die }⟩]) ∧
     (w.getLsbD 16 = false → Completes .scanDrainDone s (· = s)) ∧
     (w.getLsbD 16 = true → s.scanDrained a.die cell = true → Completes .scanDrainDone s fun t =>
       (t.scanCtl a.die).getLsbD 15 = true ∧ (t.scanCtl a.die).getLsbD 16 = false ∧
       ∃ e, e ∈ t.timers ∧ e.1 = s.elapsed + 25000 * 45000 ∧ e.2.instr = .scanSegmentEnd) ∧
     (w.getLsbD 15 = false → Completes .scanSegmentEnd s (· = s)) ∧
     (w.getLsbD 15 = true → a.n = 0 →
       (w.toNat / 2 ^ 10 % 8 < 7 → Completes .scanSegmentEnd s fun t =>
         (t.scanCtl a.die).toNat / 2 ^ 10 % 8 = w.toNat / 2 ^ 10 % 8 + 1 ∧ (t.scanCtl a.die).getLsbD 15 = true) ∧
       (w.toNat / 2 ^ 10 % 8 = 7 → Completes .scanSegmentEnd s fun t => (t.scanCtl a.die).getLsbD 15 = false ∧
         ((t.scanCtl a.die).toNat / 2 ^ 13 % 4 = 1 ∨ (t.scanCtl a.die).toNat / 2 ^ 13 % 4 = 2))) ∧
     (w.getLsbD 15 = false → w.getLsbD 16 = false → Completes .scanAbort s (· = s)) ∧
     (w.getLsbD 15 = true ∨ w.getLsbD 16 = true → Completes .scanAbort s fun t =>
       (t.scanCtl a.die).getLsbD 15 = false ∧ (t.scanCtl a.die).getLsbD 16 = false ∧
       (t.scanCtl a.die).toNat / 2 ^ 13 % 4 = 3 ∧ (t.die a.die).oos cell = false ∧ cell ∈ (t.die a.die).aborted)) ∧
    -- resets
    Completes .dieReset s (fun t => t.mem = s.mem ∧ (∀ e, e ∈ t.cells ↔ e ∈ s.cells ∧ dieOf e.1 ≠ a.die) ∧
      t.die a.die = { Die.reset with cmap := d.fuse, fuse := d.fuse, spares := d.spares, resetAt := s.cycle }) ∧
    Completes .packageReset s (fun t => t.mem = s.mem ∧ t.cells = [] ∧ t.cycle = 0 ∧ t.time = 0 ∧ t.pkg.graphs = [] ∧
      t.pkg.launches = [] ∧ t.pkg.fenced = 0 ∧ t.pkg.number = s.pkg.number ∧ t.agenda = [] ∧ t.timers = [])

/-- After reset no task is bound to any context and none has a switch cost before it, memory is in canonical form and
lists nothing, and every scratch word is full. The registers to which the spec gives a reset value hold it:
CUR_LIMIT, POW_GRANT, FREEZE_CNT and the region registers of a cell without a configuration; FAULT_CTL, TRAPQ_CTL
and ELOG_CTL with IE 1, DIE_POOL, SCAN_CTL, ECC_COUNT and TQ and FB entries of a die; LINK_STATUS with EN 1, RT_CTL
with NMTHRESH 64, SWAP_AT, TIME_STATUS with STRATUM 3, PKG_PLIMIT, BOOT_STATUS and DIE_FENCE of the package; and the
launch queue is empty. The values that the model chose where the spec gives none (log entries 1 and 2) are not
claimed. (R18, R76, R310, R311, R312, R346, R370, R388, R394, R405, R406, R407) -/
def Obligations.ResetState : Prop :=
  let s := State.reset
  Memory.wf s.mem = true ∧ s.mem = [] ∧ (∀ k, s.isFull k = true) ∧
  (∀ c x, (s.ctxOf c x).st = .free ∧ (s.ctxOf c x).grant = 0) ∧
  (∀ c, (s.cell c).last = none ∧ (s.cell c).cur = none ∧
    s.cellCsr c 0x110 = 2560#64 ||| (2560#64 <<< 16) ∧ s.cellCsr c 0x111 = 0 ∧ s.cellCsr c 0x112 = 0 ∧
    ∀ a, 0x101 ≤ a → a ≤ 0x105 → s.cellCsr c a = 0) ∧
  (∀ d, s.dieCsr d 0x200 = 1#64 <<< 11 ∧ s.dieCsr d 0x208 = 1#64 <<< 11 ∧ s.dieCsr d 0x230 = 1#64 <<< 11 ∧
    s.dieCsr d 0x228 = 8192 ∧ s.dieCsr d 0x251 = 1#64 <<< 18 ∧ s.dieCsr d 0x235 = 0) ∧
  (∀ n, n < 32 → s.pkgCsr (0x320 + n) = 1#64 <<< 4) ∧
  s.pkgCsr 0x310 = 64#64 <<< 16 ∧ s.pkgCsr 0x314 = 0 ∧ s.pkgCsr 0x340 = 3#64 <<< 9 ∧ s.pkgCsr 0x341 = 0 ∧
  s.pkgCsr 0x350 = 3600 ∧ s.pkgCsr 0x368 = 0 ∧ s.pkgCsr 0x301 = 0 ∧ s.pkg.launches = [] ∧ s.pkg.graphs = []

/-- Instruction words that the spec writes out beside their assembly decode, in their slots, to those instructions: LDI
and LDIS, BR and CALL, MVPQ, CVT in two forms, COMPRESS, SIGM, MMUL, MMAC, MCHK and MDRAIN; and a header word gives
its present slots. (R143, R151, R180, R200, R210, R221, R262) -/
def Obligations.SpecWordsDecode : Prop :=
  decodeSlot slotA 0x0271404B#32 = .ok (.ldi 5#6 75#14) ∧
  decodeSlot slotA 0x02814184#32 = .ok (.ldis 5#6 388#14) ∧
  decodeSlot slotA 0x25000040#32 = .ok (.br 64#20) ∧ guardOf 0x25000040#32 = 4 ∧
  decodeSlot slotA 0x05100080#32 = .ok (.call 128#20) ∧
  decodeSlot slotA 0x07C4C600#32 = .ok (.mvpq 2#3 3#3 6#6) ∧
  decodeSlot slotV0 0x04018480#32 = .ok (.cvt 3#5 1#5 4#5 0#3) ∧
  decodeSlot slotV0 0x040188A0#32 = .ok (.cvt 3#5 2#5 5#5 0#3) ∧
  decodeSlot 5 0x0572848C#32 = .ok (.compress 5#5 1#5 4#3 3#3 0#2) ∧
  decodeSlot slotF 0x0074A001#32 = .ok (.sigm 9#5 8#5 0#3 1#2) ∧
  decodeSlot slotM0 0x0040403F#32 = .ok (.mmul 0#3 8#6 0#1 63#7) ∧
  decodeSlot slotM0 0x0050483F#32 = .ok (.mmac 0#3 9#6 0#1 63#7) ∧
  decodeSlot slotM0 0x00A00001#32 = .ok (.mchk 0#3 1#1) ∧
  decodeSlot slotM0 0x00605013#32 = .ok (.mdrain 0#3 10#6 0#1 1#1 3#4) ∧
  (decodeHeader 0x00800000#32).slots = [5] ∧ (decodeHeader 0x02018000#32).slots = [7] ∧
  (decodeHeader 0x02018000#32).wait = 3#3 ∧ (decodeHeader 0x10000000#32).slots = [slotF]

/-- Every well-formed instruction that has an encoding decodes from its word, under every guard, in some slot to itself,
with every operand at every value; and every word that a slot accepts is the encoding of the instruction it stands
for, so no bit of a word is dropped and no two words of a slot under one guard mean the same instruction. The form
is the model's own: the spec gives the fields of each word. (R109, R110, R111, R112, R113, R114, R115, R116, R117) -/
def Obligations.EncodeDecode : Prop :=
  (∀ (g : BitVec 5) (i : Instr) (w : W32), i.WellFormed → encode g i = some w →
    guardOf w = g.toNat ∧ ∃ n, n < 14 ∧ decodeSlot n w = .ok i) ∧
  ∀ (n : Nat) (w : W32) (i : Instr), decodeSlot n w = .ok i → i.WellFormed ∧ encode (w.extractLsb' 27 5) i = some w

/-- In every state whose memory is in canonical form (addresses strictly rising, no listed byte equal to what an
unlisted address reads as), a step that answers a next state leaves memory in canonical form, so that equal memories
stay equal data whatever the package does: instructions, engines, matrix drains, streams, copies, packets, loads,
evictions and resets. (R5, R71, R76) -/
def Obligations.StepKeepsMemory : Prop :=
  ∀ s t : State, Memory.wf s.mem = true → step s = .next t → Memory.wf t.mem = true

end
end

