-- ==== Sys2Proof/Laws/Bytes.lean ====
section
/-! SUPPORT. Lengths of what goes out in bytes: digests, the signature, the attestation report, packet headers and flits. -/

namespace Sys2Proof.Machine
open Sys2Proof

@[simp] theorem toBytes_length (n v : Nat) : (toBytes n v).length = n := by
  induction n generalizing v with
  | zero => rfl
  | succ n ih => simp [toBytes, ih]

@[simp] theorem zeros_length (n : Nat) : (zeros n).length = n := List.length_replicate

/-- A digest is 64 bytes. -/
@[simp] theorem sha3_length (l : List Byte) : (sha3 l).length = 64 := by
  simp only [sha3, List.length_flatMap, toBytes_length]
  rfl

/-- The signature fills its 4,627 bytes. -/
@[simp] theorem signature_length (digest : List Byte) : (signature digest).length = 4627 := by
  simp [signature]

/-- The signed part of a report is 384 bytes (R410). -/
theorem reportBody_length (s : State) (nonce : List Byte) (h : nonce.length = 64) : (s.reportBody nonce).length = 384 := by
  simp only [State.reportBody, List.length_append, toBytes_length, zeros_length, sha3_length, h]
  split <;> simp

/-- The header of a packet is 32 bytes (R384). -/
theorem packetHeader_length (pk : Packet) (n : Nat) : (packetHeader pk n).length = 32 := by
  simp only [packetHeader, List.length_append, toBytes_length]

/-- A flit of a packet holds 232 bytes of it, or fewer and zeros (R383). -/
theorem packetFlits_body (pk : Packet) (l : List Byte) (n : BitVec 12) (f : Flit) (h : f ∈ packetFlits pk l n) :
    f.body.length = 232 := by
  simp only [packetFlits, List.mem_map] at h
  obtain ⟨i, -, rfl⟩ := h
  simp only [flitSealed, List.length_append, zeros_length]
  have := List.length_take_le 232 (l.drop (232 * i))
  omega

end Sys2Proof.Machine
end

