-- ==== Sys2Proof/Laws/Tab.lean ====
section
/-! SUPPORT. What the sparse tables do: reading after a write, and that every operation keeps the canonical form. -/

namespace Sys2Proof.Tab
open Sys2Proof
variable {α : Type}

theorem get_ins (d : α) (t : Tab α) (k j : Nat) (a : α) :
    get d (ins t k a) j = if j = k then a else get d t j := by
  induction t with
  | nil =>
    simp only [ins, get]
    by_cases h : k = j
    · simp [h]
    · simp [h, Ne.symm h]
  | cons e t ih =>
    obtain ⟨i, b⟩ := e
    simp only [ins]
    by_cases h1 : i = k
    · subst h1
      by_cases h2 : i = j
      · simp [get, h2]
      · simp [get, h2, Ne.symm h2]
    · by_cases h2 : k < i
      · simp only [h1, h2, if_false, if_true, get]
        by_cases h3 : k = j
        · simp [h3]
        · by_cases h4 : j < k
          · have h5 : i ≠ j := by omega
            have h6 : j < i := by omega
            simp [h3, Ne.symm h3, h4, h5, h6]
          · simp [h3, Ne.symm h3, h4]
      · simp only [h1, h2, if_false, get, ih]
        by_cases h3 : i = j
        · have h4 : j ≠ k := by omega
          simp [h3, h4]
        · by_cases h4 : j < i
          · have h5 : j ≠ k := by omega
            simp [h3, h4, h5]
          · simp [h3, h4]

theorem get_of_above (d : α) (t : Tab α) (k j : Nat) (h : above k t = true) (hj : j ≤ k) : get d t j = d := by
  cases t with
  | nil => rfl
  | cons e t =>
    obtain ⟨i, b⟩ := e
    simp only [above, decide_eq_true_eq] at h
    have h1 : i ≠ j := by omega
    have h2 : j < i := by omega
    simp [get, h1, h2]

theorem above_mono {t : Tab α} {k j : Nat} (h : above k t = true) (hj : j ≤ k) : above j t = true := by
  cases t with
  | nil => rfl
  | cons e t => simp only [above, decide_eq_true_eq] at *; omega

variable [DecidableEq α]

theorem wf_cons (d : α) (k : Nat) (a : α) (t : Tab α) :
    wf d ((k, a) :: t) = true ↔ above k t = true ∧ a ≠ d ∧ wf d t = true := by
  simp only [wf, Bool.and_eq_true, decide_eq_true_eq, and_assoc]

theorem get_del {d : α} {t : Tab α} (h : wf d t = true) (k j : Nat) :
    get d (del t k) j = if j = k then d else get d t j := by
  induction t with
  | nil => simp [del, get]
  | cons e t ih =>
    obtain ⟨i, b⟩ := e
    obtain ⟨ha, -, ht⟩ := (wf_cons ..).1 h
    simp only [del]
    by_cases h1 : i = k
    · subst h1
      simp only [if_true, get]
      by_cases h2 : j = i
      · subst h2; simpa using get_of_above d t j j ha le_rfl
      · by_cases h3 : j < i
        · simp [h2, Ne.symm h2, h3, get_of_above d t i j ha (le_of_lt h3)]
        · simp [h2, Ne.symm h2, h3]
    · by_cases h2 : k < i
      · simp only [h1, h2, if_false, if_true, get]
        by_cases h3 : j = k
        · subst h3; simp [h1, h2]
        · simp [h3]
      · simp only [h1, h2, if_false, get, ih ht]
        by_cases h3 : i = j
        · have h4 : j ≠ k := by omega
          simp [h3, h4]
        · by_cases h4 : j < i
          · simp [h3, h4]
          · simp [h3, h4]

theorem get_set {d : α} {t : Tab α} (h : wf d t = true) (k j : Nat) (a : α) :
    get d (set d t k a) j = if j = k then a else get d t j := by
  unfold set
  split
  · rename_i ha
    rw [get_del h, ha]
  · exact get_ins d t k j a

omit [DecidableEq α] in
theorem above_ins {t : Tab α} {k j : Nat} {a : α} (h : above j t = true) (hk : j < k) :
    above j (ins t k a) = true := by
  cases t with
  | nil => simpa [ins, above] using hk
  | cons e t =>
    obtain ⟨i, b⟩ := e
    simp only [above, decide_eq_true_eq] at h
    simp only [ins]
    split
    · simpa [above] using hk
    · split
      · simpa [above] using hk
      · simpa [above] using h

theorem above_del {d : α} {t : Tab α} {k j : Nat} (hw : wf d t = true) (h : above j t = true) :
    above j (del t k) = true := by
  cases t with
  | nil => rfl
  | cons e t =>
    obtain ⟨i, b⟩ := e
    obtain ⟨ha, -, -⟩ := (wf_cons ..).1 hw
    simp only [above, decide_eq_true_eq] at h
    simp only [del]
    split
    · exact above_mono ha (le_of_lt h)
    · split
      · simpa [above] using h
      · simpa [above] using h

theorem wf_ins {d : α} {t : Tab α} (h : wf d t = true) (k : Nat) {a : α} (ha : a ≠ d) :
    wf d (ins t k a) = true := by
  induction t with
  | nil => simp [ins, wf, above, ha]
  | cons e t ih =>
    obtain ⟨i, b⟩ := e
    obtain ⟨h1, h2, h3⟩ := (wf_cons ..).1 h
    simp only [ins]
    split
    · rename_i hi
      subst hi
      exact (wf_cons ..).2 ⟨h1, ha, h3⟩
    · split
      · rename_i hk
        exact (wf_cons ..).2 ⟨by simpa [above] using hk, ha, h⟩
      · rename_i hi hk
        exact (wf_cons ..).2 ⟨above_ins h1 (by omega), h2, ih h3⟩

theorem wf_del {d : α} {t : Tab α} (h : wf d t = true) (k : Nat) : wf d (del t k) = true := by
  induction t with
  | nil => rfl
  | cons e t ih =>
    obtain ⟨i, b⟩ := e
    obtain ⟨h1, h2, h3⟩ := (wf_cons ..).1 h
    simp only [del]
    split
    · exact h3
    · split
      · exact h
      · exact (wf_cons ..).2 ⟨above_del h3 h1, h2, ih h3⟩

theorem wf_set {d : α} {t : Tab α} (h : wf d t = true) (k : Nat) (a : α) : wf d (set d t k a) = true := by
  unfold set
  split
  · exact wf_del h k
  · exact wf_ins h k ‹_›

theorem above_filter {d : α} (p : Nat × α → Bool) {t : Tab α} {k : Nat} (hw : wf d t = true) (h : above k t = true) :
    above k (t.filter p) = true := by
  induction t with
  | nil => rfl
  | cons e t ih =>
    obtain ⟨i, b⟩ := e
    obtain ⟨h1, -, h3⟩ := (wf_cons ..).1 hw
    simp only [above, decide_eq_true_eq] at h
    simp only [List.filter]
    split
    · simpa [above] using h
    · exact ih h3 (above_mono h1 (le_of_lt h))

theorem wf_filter {d : α} (p : Nat × α → Bool) {t : Tab α} (h : wf d t = true) : wf d (t.filter p) = true := by
  induction t with
  | nil => rfl
  | cons e t ih =>
    obtain ⟨i, b⟩ := e
    obtain ⟨h1, h2, h3⟩ := (wf_cons ..).1 h
    simp only [List.filter]
    split
    · exact (wf_cons ..).2 ⟨above_filter p h3 h1, h2, ih h3⟩
    · exact ih h3

omit [DecidableEq α] in
theorem ins_ins (t : Tab α) (k : Nat) (a b : α) : ins (ins t k a) k b = ins t k b := by
  induction t with
  | nil => simp [ins]
  | cons e t ih =>
    obtain ⟨i, c⟩ := e
    by_cases h1 : i = k
    · simp [ins, h1]
    · by_cases h2 : k < i
      · simp [ins, h1, h2]
      · simp [ins, h1, h2, ih]

end Sys2Proof.Tab
end

