-- ==== Sys2Proof/Laws/State.lean ====
section
/-! SUPPORT. Fields of the state under each named update, and reading cells, contexts and dies back. -/

namespace Sys2Proof.Machine
open Sys2Proof

/-! ## Fields -/

@[simp] theorem State.putCell_cycle (s : State) (c : Nat) (k : Cell) : (s.putCell c k).cycle = s.cycle := rfl
@[simp] theorem State.putCell_time (s : State) (c : Nat) (k : Cell) : (s.putCell c k).time = s.time := rfl
@[simp] theorem State.putCell_mem (s : State) (c : Nat) (k : Cell) : (s.putCell c k).mem = s.mem := rfl
@[simp] theorem State.putCell_full (s : State) (c : Nat) (k : Cell) : (s.putCell c k).full = s.full := rfl
@[simp] theorem State.putCell_poison (s : State) (c : Nat) (k : Cell) : (s.putCell c k).poison = s.poison := rfl
@[simp] theorem State.putCell_dies (s : State) (c : Nat) (k : Cell) : (s.putCell c k).dies = s.dies := rfl
@[simp] theorem State.putCell_pkg (s : State) (c : Nat) (k : Cell) : (s.putCell c k).pkg = s.pkg := rfl
@[simp] theorem State.putCell_hostMem (s : State) (c : Nat) (k : Cell) : (s.putCell c k).hostMem = s.hostMem := rfl
@[simp] theorem State.putCell_focus (s : State) (c : Nat) (k : Cell) : (s.putCell c k).focus = s.focus := rfl
@[simp] theorem State.putCell_snap (s : State) (c : Nat) (k : Cell) : (s.putCell c k).snap = s.snap := rfl
@[simp] theorem State.putCell_args (s : State) (c : Nat) (k : Cell) : (s.putCell c k).args = s.args := rfl
@[simp] theorem State.putCell_sched (s : State) (c : Nat) (k : Cell) : (s.putCell c k).sched = s.sched := rfl
@[simp] theorem State.putCell_agenda (s : State) (c : Nat) (k : Cell) : (s.putCell c k).agenda = s.agenda := rfl
@[simp] theorem State.putCell_timers (s : State) (c : Nat) (k : Cell) : (s.putCell c k).timers = s.timers := rfl
@[simp] theorem State.putCell_alarms (s : State) (c : Nat) (k : Cell) : (s.putCell c k).alarms = s.alarms := rfl
@[simp] theorem State.putCell_turn (s : State) (c : Nat) (k : Cell) : (s.putCell c k).turn = s.turn := rfl
@[simp] theorem State.putCell_lag (s : State) (c : Nat) (k : Cell) : (s.putCell c k).lag = s.lag := rfl
@[simp] theorem State.putCell_unseen (s : State) (c : Nat) (k : Cell) : (s.putCell c k).unseen = s.unseen := rfl
@[simp] theorem State.putCell_draws (s : State) (c : Nat) (k : Cell) : (s.putCell c k).draws = s.draws := rfl
@[simp] theorem State.modCell_cycle (s : State) (c : Nat) (f : Cell → Cell) : (s.modCell c f).cycle = s.cycle := rfl
@[simp] theorem State.modCell_time (s : State) (c : Nat) (f : Cell → Cell) : (s.modCell c f).time = s.time := rfl
@[simp] theorem State.modCell_mem (s : State) (c : Nat) (f : Cell → Cell) : (s.modCell c f).mem = s.mem := rfl
@[simp] theorem State.modCell_full (s : State) (c : Nat) (f : Cell → Cell) : (s.modCell c f).full = s.full := rfl
@[simp] theorem State.modCell_poison (s : State) (c : Nat) (f : Cell → Cell) : (s.modCell c f).poison = s.poison := rfl
@[simp] theorem State.modCell_dies (s : State) (c : Nat) (f : Cell → Cell) : (s.modCell c f).dies = s.dies := rfl
@[simp] theorem State.modCell_pkg (s : State) (c : Nat) (f : Cell → Cell) : (s.modCell c f).pkg = s.pkg := rfl
@[simp] theorem State.modCell_hostMem (s : State) (c : Nat) (f : Cell → Cell) : (s.modCell c f).hostMem = s.hostMem := rfl
@[simp] theorem State.modCell_focus (s : State) (c : Nat) (f : Cell → Cell) : (s.modCell c f).focus = s.focus := rfl
@[simp] theorem State.modCell_snap (s : State) (c : Nat) (f : Cell → Cell) : (s.modCell c f).snap = s.snap := rfl
@[simp] theorem State.modCell_args (s : State) (c : Nat) (f : Cell → Cell) : (s.modCell c f).args = s.args := rfl
@[simp] theorem State.modCell_sched (s : State) (c : Nat) (f : Cell → Cell) : (s.modCell c f).sched = s.sched := rfl
@[simp] theorem State.modCell_agenda (s : State) (c : Nat) (f : Cell → Cell) : (s.modCell c f).agenda = s.agenda := rfl
@[simp] theorem State.modCell_timers (s : State) (c : Nat) (f : Cell → Cell) : (s.modCell c f).timers = s.timers := rfl
@[simp] theorem State.modCell_alarms (s : State) (c : Nat) (f : Cell → Cell) : (s.modCell c f).alarms = s.alarms := rfl
@[simp] theorem State.modCell_turn (s : State) (c : Nat) (f : Cell → Cell) : (s.modCell c f).turn = s.turn := rfl
@[simp] theorem State.modCell_lag (s : State) (c : Nat) (f : Cell → Cell) : (s.modCell c f).lag = s.lag := rfl
@[simp] theorem State.modCell_unseen (s : State) (c : Nat) (f : Cell → Cell) : (s.modCell c f).unseen = s.unseen := rfl
@[simp] theorem State.modCell_draws (s : State) (c : Nat) (f : Cell → Cell) : (s.modCell c f).draws = s.draws := rfl
@[simp] theorem State.modCtxOf_cycle (s : State) (c x : Nat) (f : Ctx → Ctx) : (s.modCtxOf c x f).cycle = s.cycle := rfl
@[simp] theorem State.modCtxOf_time (s : State) (c x : Nat) (f : Ctx → Ctx) : (s.modCtxOf c x f).time = s.time := rfl
@[simp] theorem State.modCtxOf_mem (s : State) (c x : Nat) (f : Ctx → Ctx) : (s.modCtxOf c x f).mem = s.mem := rfl
@[simp] theorem State.modCtxOf_full (s : State) (c x : Nat) (f : Ctx → Ctx) : (s.modCtxOf c x f).full = s.full := rfl
@[simp] theorem State.modCtxOf_poison (s : State) (c x : Nat) (f : Ctx → Ctx) : (s.modCtxOf c x f).poison = s.poison := rfl
@[simp] theorem State.modCtxOf_dies (s : State) (c x : Nat) (f : Ctx → Ctx) : (s.modCtxOf c x f).dies = s.dies := rfl
@[simp] theorem State.modCtxOf_pkg (s : State) (c x : Nat) (f : Ctx → Ctx) : (s.modCtxOf c x f).pkg = s.pkg := rfl
@[simp] theorem State.modCtxOf_hostMem (s : State) (c x : Nat) (f : Ctx → Ctx) : (s.modCtxOf c x f).hostMem = s.hostMem := rfl
@[simp] theorem State.modCtxOf_focus (s : State) (c x : Nat) (f : Ctx → Ctx) : (s.modCtxOf c x f).focus = s.focus := rfl
@[simp] theorem State.modCtxOf_snap (s : State) (c x : Nat) (f : Ctx → Ctx) : (s.modCtxOf c x f).snap = s.snap := rfl
@[simp] theorem State.modCtxOf_args (s : State) (c x : Nat) (f : Ctx → Ctx) : (s.modCtxOf c x f).args = s.args := rfl
@[simp] theorem State.modCtxOf_sched (s : State) (c x : Nat) (f : Ctx → Ctx) : (s.modCtxOf c x f).sched = s.sched := rfl
@[simp] theorem State.modCtxOf_agenda (s : State) (c x : Nat) (f : Ctx → Ctx) : (s.modCtxOf c x f).agenda = s.agenda := rfl
@[simp] theorem State.modCtxOf_timers (s : State) (c x : Nat) (f : Ctx → Ctx) : (s.modCtxOf c x f).timers = s.timers := rfl
@[simp] theorem State.modCtxOf_alarms (s : State) (c x : Nat) (f : Ctx → Ctx) : (s.modCtxOf c x f).alarms = s.alarms := rfl
@[simp] theorem State.modCtxOf_turn (s : State) (c x : Nat) (f : Ctx → Ctx) : (s.modCtxOf c x f).turn = s.turn := rfl
@[simp] theorem State.modCtxOf_lag (s : State) (c x : Nat) (f : Ctx → Ctx) : (s.modCtxOf c x f).lag = s.lag := rfl
@[simp] theorem State.modCtxOf_unseen (s : State) (c x : Nat) (f : Ctx → Ctx) : (s.modCtxOf c x f).unseen = s.unseen := rfl
@[simp] theorem State.modCtxOf_draws (s : State) (c x : Nat) (f : Ctx → Ctx) : (s.modCtxOf c x f).draws = s.draws := rfl
@[simp] theorem State.modHere_cycle (s : State) (f : Cell → Cell) : (s.modHere f).cycle = s.cycle := rfl
@[simp] theorem State.modHere_time (s : State) (f : Cell → Cell) : (s.modHere f).time = s.time := rfl
@[simp] theorem State.modHere_mem (s : State) (f : Cell → Cell) : (s.modHere f).mem = s.mem := rfl
@[simp] theorem State.modHere_full (s : State) (f : Cell → Cell) : (s.modHere f).full = s.full := rfl
@[simp] theorem State.modHere_poison (s : State) (f : Cell → Cell) : (s.modHere f).poison = s.poison := rfl
@[simp] theorem State.modHere_dies (s : State) (f : Cell → Cell) : (s.modHere f).dies = s.dies := rfl
@[simp] theorem State.modHere_pkg (s : State) (f : Cell → Cell) : (s.modHere f).pkg = s.pkg := rfl
@[simp] theorem State.modHere_hostMem (s : State) (f : Cell → Cell) : (s.modHere f).hostMem = s.hostMem := rfl
@[simp] theorem State.modHere_focus (s : State) (f : Cell → Cell) : (s.modHere f).focus = s.focus := rfl
@[simp] theorem State.modHere_snap (s : State) (f : Cell → Cell) : (s.modHere f).snap = s.snap := rfl
@[simp] theorem State.modHere_args (s : State) (f : Cell → Cell) : (s.modHere f).args = s.args := rfl
@[simp] theorem State.modHere_sched (s : State) (f : Cell → Cell) : (s.modHere f).sched = s.sched := rfl
@[simp] theorem State.modHere_agenda (s : State) (f : Cell → Cell) : (s.modHere f).agenda = s.agenda := rfl
@[simp] theorem State.modHere_timers (s : State) (f : Cell → Cell) : (s.modHere f).timers = s.timers := rfl
@[simp] theorem State.modHere_alarms (s : State) (f : Cell → Cell) : (s.modHere f).alarms = s.alarms := rfl
@[simp] theorem State.modHere_turn (s : State) (f : Cell → Cell) : (s.modHere f).turn = s.turn := rfl
@[simp] theorem State.modHere_lag (s : State) (f : Cell → Cell) : (s.modHere f).lag = s.lag := rfl
@[simp] theorem State.modHere_unseen (s : State) (f : Cell → Cell) : (s.modHere f).unseen = s.unseen := rfl
@[simp] theorem State.modHere_draws (s : State) (f : Cell → Cell) : (s.modHere f).draws = s.draws := rfl
@[simp] theorem State.modCtx_cycle (s : State) (f : Ctx → Ctx) : (s.modCtx f).cycle = s.cycle := rfl
@[simp] theorem State.modCtx_time (s : State) (f : Ctx → Ctx) : (s.modCtx f).time = s.time := rfl
@[simp] theorem State.modCtx_mem (s : State) (f : Ctx → Ctx) : (s.modCtx f).mem = s.mem := rfl
@[simp] theorem State.modCtx_full (s : State) (f : Ctx → Ctx) : (s.modCtx f).full = s.full := rfl
@[simp] theorem State.modCtx_poison (s : State) (f : Ctx → Ctx) : (s.modCtx f).poison = s.poison := rfl
@[simp] theorem State.modCtx_dies (s : State) (f : Ctx → Ctx) : (s.modCtx f).dies = s.dies := rfl
@[simp] theorem State.modCtx_pkg (s : State) (f : Ctx → Ctx) : (s.modCtx f).pkg = s.pkg := rfl
@[simp] theorem State.modCtx_hostMem (s : State) (f : Ctx → Ctx) : (s.modCtx f).hostMem = s.hostMem := rfl
@[simp] theorem State.modCtx_focus (s : State) (f : Ctx → Ctx) : (s.modCtx f).focus = s.focus := rfl
@[simp] theorem State.modCtx_snap (s : State) (f : Ctx → Ctx) : (s.modCtx f).snap = s.snap := rfl
@[simp] theorem State.modCtx_args (s : State) (f : Ctx → Ctx) : (s.modCtx f).args = s.args := rfl
@[simp] theorem State.modCtx_sched (s : State) (f : Ctx → Ctx) : (s.modCtx f).sched = s.sched := rfl
@[simp] theorem State.modCtx_agenda (s : State) (f : Ctx → Ctx) : (s.modCtx f).agenda = s.agenda := rfl
@[simp] theorem State.modCtx_timers (s : State) (f : Ctx → Ctx) : (s.modCtx f).timers = s.timers := rfl
@[simp] theorem State.modCtx_alarms (s : State) (f : Ctx → Ctx) : (s.modCtx f).alarms = s.alarms := rfl
@[simp] theorem State.modCtx_turn (s : State) (f : Ctx → Ctx) : (s.modCtx f).turn = s.turn := rfl
@[simp] theorem State.modCtx_lag (s : State) (f : Ctx → Ctx) : (s.modCtx f).lag = s.lag := rfl
@[simp] theorem State.modCtx_unseen (s : State) (f : Ctx → Ctx) : (s.modCtx f).unseen = s.unseen := rfl
@[simp] theorem State.modCtx_draws (s : State) (f : Ctx → Ctx) : (s.modCtx f).draws = s.draws := rfl
@[simp] theorem State.drawn_cycle (s : State) : (s.drawn).cycle = s.cycle := rfl
@[simp] theorem State.drawn_time (s : State) : (s.drawn).time = s.time := rfl
@[simp] theorem State.drawn_cells (s : State) : (s.drawn).cells = s.cells := rfl
@[simp] theorem State.drawn_mem (s : State) : (s.drawn).mem = s.mem := rfl
@[simp] theorem State.drawn_full (s : State) : (s.drawn).full = s.full := rfl
@[simp] theorem State.drawn_poison (s : State) : (s.drawn).poison = s.poison := rfl
@[simp] theorem State.drawn_dies (s : State) : (s.drawn).dies = s.dies := rfl
@[simp] theorem State.drawn_pkg (s : State) : (s.drawn).pkg = s.pkg := rfl
@[simp] theorem State.drawn_hostMem (s : State) : (s.drawn).hostMem = s.hostMem := rfl
@[simp] theorem State.drawn_focus (s : State) : (s.drawn).focus = s.focus := rfl
@[simp] theorem State.drawn_snap (s : State) : (s.drawn).snap = s.snap := rfl
@[simp] theorem State.drawn_args (s : State) : (s.drawn).args = s.args := rfl
@[simp] theorem State.drawn_sched (s : State) : (s.drawn).sched = s.sched := rfl
@[simp] theorem State.drawn_agenda (s : State) : (s.drawn).agenda = s.agenda := rfl
@[simp] theorem State.drawn_timers (s : State) : (s.drawn).timers = s.timers := rfl
@[simp] theorem State.drawn_alarms (s : State) : (s.drawn).alarms = s.alarms := rfl
@[simp] theorem State.drawn_turn (s : State) : (s.drawn).turn = s.turn := rfl
@[simp] theorem State.drawn_lag (s : State) : (s.drawn).lag = s.lag := rfl
@[simp] theorem State.drawn_unseen (s : State) : (s.drawn).unseen = s.unseen := rfl
@[simp] theorem State.post_cycle (s : State) (i : Instr) (a : Args) : (s.post i a).cycle = s.cycle := rfl
@[simp] theorem State.post_time (s : State) (i : Instr) (a : Args) : (s.post i a).time = s.time := rfl
@[simp] theorem State.post_cells (s : State) (i : Instr) (a : Args) : (s.post i a).cells = s.cells := rfl
@[simp] theorem State.post_mem (s : State) (i : Instr) (a : Args) : (s.post i a).mem = s.mem := rfl
@[simp] theorem State.post_full (s : State) (i : Instr) (a : Args) : (s.post i a).full = s.full := rfl
@[simp] theorem State.post_poison (s : State) (i : Instr) (a : Args) : (s.post i a).poison = s.poison := rfl
@[simp] theorem State.post_dies (s : State) (i : Instr) (a : Args) : (s.post i a).dies = s.dies := rfl
@[simp] theorem State.post_pkg (s : State) (i : Instr) (a : Args) : (s.post i a).pkg = s.pkg := rfl
@[simp] theorem State.post_hostMem (s : State) (i : Instr) (a : Args) : (s.post i a).hostMem = s.hostMem := rfl
@[simp] theorem State.post_focus (s : State) (i : Instr) (a : Args) : (s.post i a).focus = s.focus := rfl
@[simp] theorem State.post_snap (s : State) (i : Instr) (a : Args) : (s.post i a).snap = s.snap := rfl
@[simp] theorem State.post_args (s : State) (i : Instr) (a : Args) : (s.post i a).args = s.args := rfl
@[simp] theorem State.post_sched (s : State) (i : Instr) (a : Args) : (s.post i a).sched = s.sched := rfl
@[simp] theorem State.post_timers (s : State) (i : Instr) (a : Args) : (s.post i a).timers = s.timers := rfl
@[simp] theorem State.post_alarms (s : State) (i : Instr) (a : Args) : (s.post i a).alarms = s.alarms := rfl
@[simp] theorem State.post_turn (s : State) (i : Instr) (a : Args) : (s.post i a).turn = s.turn := rfl
@[simp] theorem State.post_lag (s : State) (i : Instr) (a : Args) : (s.post i a).lag = s.lag := rfl
@[simp] theorem State.post_unseen (s : State) (i : Instr) (a : Args) : (s.post i a).unseen = s.unseen := rfl
@[simp] theorem State.post_draws (s : State) (i : Instr) (a : Args) : (s.post i a).draws = s.draws := rfl
@[simp] theorem State.after_cycle (s : State) (dt : Nat) (i : Instr) (a : Args) : (s.after dt i a).cycle = s.cycle := rfl
@[simp] theorem State.after_time (s : State) (dt : Nat) (i : Instr) (a : Args) : (s.after dt i a).time = s.time := rfl
@[simp] theorem State.after_cells (s : State) (dt : Nat) (i : Instr) (a : Args) : (s.after dt i a).cells = s.cells := rfl
@[simp] theorem State.after_mem (s : State) (dt : Nat) (i : Instr) (a : Args) : (s.after dt i a).mem = s.mem := rfl
@[simp] theorem State.after_full (s : State) (dt : Nat) (i : Instr) (a : Args) : (s.after dt i a).full = s.full := rfl
@[simp] theorem State.after_poison (s : State) (dt : Nat) (i : Instr) (a : Args) : (s.after dt i a).poison = s.poison := rfl
@[simp] theorem State.after_dies (s : State) (dt : Nat) (i : Instr) (a : Args) : (s.after dt i a).dies = s.dies := rfl
@[simp] theorem State.after_pkg (s : State) (dt : Nat) (i : Instr) (a : Args) : (s.after dt i a).pkg = s.pkg := rfl
@[simp] theorem State.after_hostMem (s : State) (dt : Nat) (i : Instr) (a : Args) : (s.after dt i a).hostMem = s.hostMem := rfl
@[simp] theorem State.after_focus (s : State) (dt : Nat) (i : Instr) (a : Args) : (s.after dt i a).focus = s.focus := rfl
@[simp] theorem State.after_snap (s : State) (dt : Nat) (i : Instr) (a : Args) : (s.after dt i a).snap = s.snap := rfl
@[simp] theorem State.after_args (s : State) (dt : Nat) (i : Instr) (a : Args) : (s.after dt i a).args = s.args := rfl
@[simp] theorem State.after_sched (s : State) (dt : Nat) (i : Instr) (a : Args) : (s.after dt i a).sched = s.sched := rfl
@[simp] theorem State.after_agenda (s : State) (dt : Nat) (i : Instr) (a : Args) : (s.after dt i a).agenda = s.agenda := rfl
@[simp] theorem State.after_alarms (s : State) (dt : Nat) (i : Instr) (a : Args) : (s.after dt i a).alarms = s.alarms := rfl
@[simp] theorem State.after_turn (s : State) (dt : Nat) (i : Instr) (a : Args) : (s.after dt i a).turn = s.turn := rfl
@[simp] theorem State.after_lag (s : State) (dt : Nat) (i : Instr) (a : Args) : (s.after dt i a).lag = s.lag := rfl
@[simp] theorem State.after_unseen (s : State) (dt : Nat) (i : Instr) (a : Args) : (s.after dt i a).unseen = s.unseen := rfl
@[simp] theorem State.after_draws (s : State) (dt : Nat) (i : Instr) (a : Args) : (s.after dt i a).draws = s.draws := rfl
@[simp] theorem State.afterCycles_cycle (s : State) (n : Nat) (i : Instr) (a : Args) : (s.afterCycles n i a).cycle = s.cycle := rfl
@[simp] theorem State.afterCycles_time (s : State) (n : Nat) (i : Instr) (a : Args) : (s.afterCycles n i a).time = s.time := rfl
@[simp] theorem State.afterCycles_cells (s : State) (n : Nat) (i : Instr) (a : Args) : (s.afterCycles n i a).cells = s.cells := rfl
@[simp] theorem State.afterCycles_mem (s : State) (n : Nat) (i : Instr) (a : Args) : (s.afterCycles n i a).mem = s.mem := rfl
@[simp] theorem State.afterCycles_full (s : State) (n : Nat) (i : Instr) (a : Args) : (s.afterCycles n i a).full = s.full := rfl
@[simp] theorem State.afterCycles_poison (s : State) (n : Nat) (i : Instr) (a : Args) : (s.afterCycles n i a).poison = s.poison := rfl
@[simp] theorem State.afterCycles_dies (s : State) (n : Nat) (i : Instr) (a : Args) : (s.afterCycles n i a).dies = s.dies := rfl
@[simp] theorem State.afterCycles_pkg (s : State) (n : Nat) (i : Instr) (a : Args) : (s.afterCycles n i a).pkg = s.pkg := rfl
@[simp] theorem State.afterCycles_hostMem (s : State) (n : Nat) (i : Instr) (a : Args) : (s.afterCycles n i a).hostMem = s.hostMem := rfl
@[simp] theorem State.afterCycles_focus (s : State) (n : Nat) (i : Instr) (a : Args) : (s.afterCycles n i a).focus = s.focus := rfl
@[simp] theorem State.afterCycles_snap (s : State) (n : Nat) (i : Instr) (a : Args) : (s.afterCycles n i a).snap = s.snap := rfl
@[simp] theorem State.afterCycles_args (s : State) (n : Nat) (i : Instr) (a : Args) : (s.afterCycles n i a).args = s.args := rfl
@[simp] theorem State.afterCycles_sched (s : State) (n : Nat) (i : Instr) (a : Args) : (s.afterCycles n i a).sched = s.sched := rfl
@[simp] theorem State.afterCycles_agenda (s : State) (n : Nat) (i : Instr) (a : Args) : (s.afterCycles n i a).agenda = s.agenda := rfl
@[simp] theorem State.afterCycles_timers (s : State) (n : Nat) (i : Instr) (a : Args) : (s.afterCycles n i a).timers = s.timers := rfl
@[simp] theorem State.afterCycles_turn (s : State) (n : Nat) (i : Instr) (a : Args) : (s.afterCycles n i a).turn = s.turn := rfl
@[simp] theorem State.afterCycles_lag (s : State) (n : Nat) (i : Instr) (a : Args) : (s.afterCycles n i a).lag = s.lag := rfl
@[simp] theorem State.afterCycles_unseen (s : State) (n : Nat) (i : Instr) (a : Args) : (s.afterCycles n i a).unseen = s.unseen := rfl
@[simp] theorem State.afterCycles_draws (s : State) (n : Nat) (i : Instr) (a : Args) : (s.afterCycles n i a).draws = s.draws := rfl
@[simp] theorem State.modDie_cycle (s : State) (d : Nat) (f : Die → Die) : (s.modDie d f).cycle = s.cycle := rfl
@[simp] theorem State.modDie_time (s : State) (d : Nat) (f : Die → Die) : (s.modDie d f).time = s.time := rfl
@[simp] theorem State.modDie_cells (s : State) (d : Nat) (f : Die → Die) : (s.modDie d f).cells = s.cells := rfl
@[simp] theorem State.modDie_mem (s : State) (d : Nat) (f : Die → Die) : (s.modDie d f).mem = s.mem := rfl
@[simp] theorem State.modDie_full (s : State) (d : Nat) (f : Die → Die) : (s.modDie d f).full = s.full := rfl
@[simp] theorem State.modDie_poison (s : State) (d : Nat) (f : Die → Die) : (s.modDie d f).poison = s.poison := rfl
@[simp] theorem State.modDie_pkg (s : State) (d : Nat) (f : Die → Die) : (s.modDie d f).pkg = s.pkg := rfl
@[simp] theorem State.modDie_hostMem (s : State) (d : Nat) (f : Die → Die) : (s.modDie d f).hostMem = s.hostMem := rfl
@[simp] theorem State.modDie_focus (s : State) (d : Nat) (f : Die → Die) : (s.modDie d f).focus = s.focus := rfl
@[simp] theorem State.modDie_snap (s : State) (d : Nat) (f : Die → Die) : (s.modDie d f).snap = s.snap := rfl
@[simp] theorem State.modDie_args (s : State) (d : Nat) (f : Die → Die) : (s.modDie d f).args = s.args := rfl
@[simp] theorem State.modDie_sched (s : State) (d : Nat) (f : Die → Die) : (s.modDie d f).sched = s.sched := rfl
@[simp] theorem State.modDie_agenda (s : State) (d : Nat) (f : Die → Die) : (s.modDie d f).agenda = s.agenda := rfl
@[simp] theorem State.modDie_timers (s : State) (d : Nat) (f : Die → Die) : (s.modDie d f).timers = s.timers := rfl
@[simp] theorem State.modDie_alarms (s : State) (d : Nat) (f : Die → Die) : (s.modDie d f).alarms = s.alarms := rfl
@[simp] theorem State.modDie_turn (s : State) (d : Nat) (f : Die → Die) : (s.modDie d f).turn = s.turn := rfl
@[simp] theorem State.modDie_lag (s : State) (d : Nat) (f : Die → Die) : (s.modDie d f).lag = s.lag := rfl
@[simp] theorem State.modDie_unseen (s : State) (d : Nat) (f : Die → Die) : (s.modDie d f).unseen = s.unseen := rfl
@[simp] theorem State.modDie_draws (s : State) (d : Nat) (f : Die → Die) : (s.modDie d f).draws = s.draws := rfl
@[simp] theorem State.modPkg_cycle (s : State) (f : Pkg → Pkg) : (s.modPkg f).cycle = s.cycle := rfl
@[simp] theorem State.modPkg_time (s : State) (f : Pkg → Pkg) : (s.modPkg f).time = s.time := rfl
@[simp] theorem State.modPkg_cells (s : State) (f : Pkg → Pkg) : (s.modPkg f).cells = s.cells := rfl
@[simp] theorem State.modPkg_mem (s : State) (f : Pkg → Pkg) : (s.modPkg f).mem = s.mem := rfl
@[simp] theorem State.modPkg_full (s : State) (f : Pkg → Pkg) : (s.modPkg f).full = s.full := rfl
@[simp] theorem State.modPkg_poison (s : State) (f : Pkg → Pkg) : (s.modPkg f).poison = s.poison := rfl
@[simp] theorem State.modPkg_dies (s : State) (f : Pkg → Pkg) : (s.modPkg f).dies = s.dies := rfl
@[simp] theorem State.modPkg_hostMem (s : State) (f : Pkg → Pkg) : (s.modPkg f).hostMem = s.hostMem := rfl
@[simp] theorem State.modPkg_focus (s : State) (f : Pkg → Pkg) : (s.modPkg f).focus = s.focus := rfl
@[simp] theorem State.modPkg_snap (s : State) (f : Pkg → Pkg) : (s.modPkg f).snap = s.snap := rfl
@[simp] theorem State.modPkg_args (s : State) (f : Pkg → Pkg) : (s.modPkg f).args = s.args := rfl
@[simp] theorem State.modPkg_sched (s : State) (f : Pkg → Pkg) : (s.modPkg f).sched = s.sched := rfl
@[simp] theorem State.modPkg_agenda (s : State) (f : Pkg → Pkg) : (s.modPkg f).agenda = s.agenda := rfl
@[simp] theorem State.modPkg_timers (s : State) (f : Pkg → Pkg) : (s.modPkg f).timers = s.timers := rfl
@[simp] theorem State.modPkg_alarms (s : State) (f : Pkg → Pkg) : (s.modPkg f).alarms = s.alarms := rfl
@[simp] theorem State.modPkg_turn (s : State) (f : Pkg → Pkg) : (s.modPkg f).turn = s.turn := rfl
@[simp] theorem State.modPkg_lag (s : State) (f : Pkg → Pkg) : (s.modPkg f).lag = s.lag := rfl
@[simp] theorem State.modPkg_unseen (s : State) (f : Pkg → Pkg) : (s.modPkg f).unseen = s.unseen := rfl
@[simp] theorem State.modPkg_draws (s : State) (f : Pkg → Pkg) : (s.modPkg f).draws = s.draws := rfl
@[simp] theorem State.setByte_cycle (s : State) (k : Nat) (b : Byte) : (s.setByte k b).cycle = s.cycle := rfl
@[simp] theorem State.setByte_time (s : State) (k : Nat) (b : Byte) : (s.setByte k b).time = s.time := rfl
@[simp] theorem State.setByte_cells (s : State) (k : Nat) (b : Byte) : (s.setByte k b).cells = s.cells := rfl
@[simp] theorem State.setByte_full (s : State) (k : Nat) (b : Byte) : (s.setByte k b).full = s.full := rfl
@[simp] theorem State.setByte_poison (s : State) (k : Nat) (b : Byte) : (s.setByte k b).poison = s.poison := rfl
@[simp] theorem State.setByte_dies (s : State) (k : Nat) (b : Byte) : (s.setByte k b).dies = s.dies := rfl
@[simp] theorem State.setByte_pkg (s : State) (k : Nat) (b : Byte) : (s.setByte k b).pkg = s.pkg := rfl
@[simp] theorem State.setByte_hostMem (s : State) (k : Nat) (b : Byte) : (s.setByte k b).hostMem = s.hostMem := rfl
@[simp] theorem State.setByte_focus (s : State) (k : Nat) (b : Byte) : (s.setByte k b).focus = s.focus := rfl
@[simp] theorem State.setByte_snap (s : State) (k : Nat) (b : Byte) : (s.setByte k b).snap = s.snap := rfl
@[simp] theorem State.setByte_args (s : State) (k : Nat) (b : Byte) : (s.setByte k b).args = s.args := rfl
@[simp] theorem State.setByte_sched (s : State) (k : Nat) (b : Byte) : (s.setByte k b).sched = s.sched := rfl
@[simp] theorem State.setByte_agenda (s : State) (k : Nat) (b : Byte) : (s.setByte k b).agenda = s.agenda := rfl
@[simp] theorem State.setByte_timers (s : State) (k : Nat) (b : Byte) : (s.setByte k b).timers = s.timers := rfl
@[simp] theorem State.setByte_alarms (s : State) (k : Nat) (b : Byte) : (s.setByte k b).alarms = s.alarms := rfl
@[simp] theorem State.setByte_turn (s : State) (k : Nat) (b : Byte) : (s.setByte k b).turn = s.turn := rfl
@[simp] theorem State.setByte_lag (s : State) (k : Nat) (b : Byte) : (s.setByte k b).lag = s.lag := rfl
@[simp] theorem State.setByte_unseen (s : State) (k : Nat) (b : Byte) : (s.setByte k b).unseen = s.unseen := rfl
@[simp] theorem State.setByte_draws (s : State) (k : Nat) (b : Byte) : (s.setByte k b).draws = s.draws := rfl
@[simp] theorem State.setFull_cycle (s : State) (k : Nat) (b : Bool) : (s.setFull k b).cycle = s.cycle := rfl
@[simp] theorem State.setFull_time (s : State) (k : Nat) (b : Bool) : (s.setFull k b).time = s.time := rfl
@[simp] theorem State.setFull_cells (s : State) (k : Nat) (b : Bool) : (s.setFull k b).cells = s.cells := rfl
@[simp] theorem State.setFull_mem (s : State) (k : Nat) (b : Bool) : (s.setFull k b).mem = s.mem := rfl
@[simp] theorem State.setFull_poison (s : State) (k : Nat) (b : Bool) : (s.setFull k b).poison = s.poison := rfl
@[simp] theorem State.setFull_dies (s : State) (k : Nat) (b : Bool) : (s.setFull k b).dies = s.dies := rfl
@[simp] theorem State.setFull_pkg (s : State) (k : Nat) (b : Bool) : (s.setFull k b).pkg = s.pkg := rfl
@[simp] theorem State.setFull_hostMem (s : State) (k : Nat) (b : Bool) : (s.setFull k b).hostMem = s.hostMem := rfl
@[simp] theorem State.setFull_focus (s : State) (k : Nat) (b : Bool) : (s.setFull k b).focus = s.focus := rfl
@[simp] theorem State.setFull_snap (s : State) (k : Nat) (b : Bool) : (s.setFull k b).snap = s.snap := rfl
@[simp] theorem State.setFull_args (s : State) (k : Nat) (b : Bool) : (s.setFull k b).args = s.args := rfl
@[simp] theorem State.setFull_sched (s : State) (k : Nat) (b : Bool) : (s.setFull k b).sched = s.sched := rfl
@[simp] theorem State.setFull_agenda (s : State) (k : Nat) (b : Bool) : (s.setFull k b).agenda = s.agenda := rfl
@[simp] theorem State.setFull_timers (s : State) (k : Nat) (b : Bool) : (s.setFull k b).timers = s.timers := rfl
@[simp] theorem State.setFull_alarms (s : State) (k : Nat) (b : Bool) : (s.setFull k b).alarms = s.alarms := rfl
@[simp] theorem State.setFull_turn (s : State) (k : Nat) (b : Bool) : (s.setFull k b).turn = s.turn := rfl
@[simp] theorem State.setFull_lag (s : State) (k : Nat) (b : Bool) : (s.setFull k b).lag = s.lag := rfl
@[simp] theorem State.setFull_unseen (s : State) (k : Nat) (b : Bool) : (s.setFull k b).unseen = s.unseen := rfl
@[simp] theorem State.setFull_draws (s : State) (k : Nat) (b : Bool) : (s.setFull k b).draws = s.draws := rfl
@[simp] theorem State.ws_cycle (s : State) (n : BitVec 6) (v : W64) : (s.ws n v).cycle = s.cycle := rfl
@[simp] theorem State.ws_time (s : State) (n : BitVec 6) (v : W64) : (s.ws n v).time = s.time := rfl
@[simp] theorem State.ws_mem (s : State) (n : BitVec 6) (v : W64) : (s.ws n v).mem = s.mem := rfl
@[simp] theorem State.ws_full (s : State) (n : BitVec 6) (v : W64) : (s.ws n v).full = s.full := rfl
@[simp] theorem State.ws_poison (s : State) (n : BitVec 6) (v : W64) : (s.ws n v).poison = s.poison := rfl
@[simp] theorem State.ws_dies (s : State) (n : BitVec 6) (v : W64) : (s.ws n v).dies = s.dies := rfl
@[simp] theorem State.ws_pkg (s : State) (n : BitVec 6) (v : W64) : (s.ws n v).pkg = s.pkg := rfl
@[simp] theorem State.ws_hostMem (s : State) (n : BitVec 6) (v : W64) : (s.ws n v).hostMem = s.hostMem := rfl
@[simp] theorem State.ws_focus (s : State) (n : BitVec 6) (v : W64) : (s.ws n v).focus = s.focus := rfl
@[simp] theorem State.ws_snap (s : State) (n : BitVec 6) (v : W64) : (s.ws n v).snap = s.snap := rfl
@[simp] theorem State.ws_args (s : State) (n : BitVec 6) (v : W64) : (s.ws n v).args = s.args := rfl
@[simp] theorem State.ws_sched (s : State) (n : BitVec 6) (v : W64) : (s.ws n v).sched = s.sched := rfl
@[simp] theorem State.ws_agenda (s : State) (n : BitVec 6) (v : W64) : (s.ws n v).agenda = s.agenda := rfl
@[simp] theorem State.ws_timers (s : State) (n : BitVec 6) (v : W64) : (s.ws n v).timers = s.timers := rfl
@[simp] theorem State.ws_alarms (s : State) (n : BitVec 6) (v : W64) : (s.ws n v).alarms = s.alarms := rfl
@[simp] theorem State.ws_turn (s : State) (n : BitVec 6) (v : W64) : (s.ws n v).turn = s.turn := rfl
@[simp] theorem State.ws_lag (s : State) (n : BitVec 6) (v : W64) : (s.ws n v).lag = s.lag := rfl
@[simp] theorem State.ws_unseen (s : State) (n : BitVec 6) (v : W64) : (s.ws n v).unseen = s.unseen := rfl
@[simp] theorem State.ws_draws (s : State) (n : BitVec 6) (v : W64) : (s.ws n v).draws = s.draws := rfl
@[simp] theorem State.wpair_cycle (s : State) (k : Nat) (b : Bool) : (s.wpair k b).cycle = s.cycle := rfl
@[simp] theorem State.wpair_time (s : State) (k : Nat) (b : Bool) : (s.wpair k b).time = s.time := rfl
@[simp] theorem State.wpair_mem (s : State) (k : Nat) (b : Bool) : (s.wpair k b).mem = s.mem := rfl
@[simp] theorem State.wpair_full (s : State) (k : Nat) (b : Bool) : (s.wpair k b).full = s.full := rfl
@[simp] theorem State.wpair_poison (s : State) (k : Nat) (b : Bool) : (s.wpair k b).poison = s.poison := rfl
@[simp] theorem State.wpair_dies (s : State) (k : Nat) (b : Bool) : (s.wpair k b).dies = s.dies := rfl
@[simp] theorem State.wpair_pkg (s : State) (k : Nat) (b : Bool) : (s.wpair k b).pkg = s.pkg := rfl
@[simp] theorem State.wpair_hostMem (s : State) (k : Nat) (b : Bool) : (s.wpair k b).hostMem = s.hostMem := rfl
@[simp] theorem State.wpair_focus (s : State) (k : Nat) (b : Bool) : (s.wpair k b).focus = s.focus := rfl
@[simp] theorem State.wpair_snap (s : State) (k : Nat) (b : Bool) : (s.wpair k b).snap = s.snap := rfl
@[simp] theorem State.wpair_args (s : State) (k : Nat) (b : Bool) : (s.wpair k b).args = s.args := rfl
@[simp] theorem State.wpair_sched (s : State) (k : Nat) (b : Bool) : (s.wpair k b).sched = s.sched := rfl
@[simp] theorem State.wpair_agenda (s : State) (k : Nat) (b : Bool) : (s.wpair k b).agenda = s.agenda := rfl
@[simp] theorem State.wpair_timers (s : State) (k : Nat) (b : Bool) : (s.wpair k b).timers = s.timers := rfl
@[simp] theorem State.wpair_alarms (s : State) (k : Nat) (b : Bool) : (s.wpair k b).alarms = s.alarms := rfl
@[simp] theorem State.wpair_turn (s : State) (k : Nat) (b : Bool) : (s.wpair k b).turn = s.turn := rfl
@[simp] theorem State.wpair_lag (s : State) (k : Nat) (b : Bool) : (s.wpair k b).lag = s.lag := rfl
@[simp] theorem State.wpair_unseen (s : State) (k : Nat) (b : Bool) : (s.wpair k b).unseen = s.unseen := rfl
@[simp] theorem State.wpair_draws (s : State) (k : Nat) (b : Bool) : (s.wpair k b).draws = s.draws := rfl
@[simp] theorem State.jump_cycle (s : State) (t : Nat) : (s.jump t).cycle = s.cycle := rfl
@[simp] theorem State.jump_time (s : State) (t : Nat) : (s.jump t).time = s.time := rfl
@[simp] theorem State.jump_mem (s : State) (t : Nat) : (s.jump t).mem = s.mem := rfl
@[simp] theorem State.jump_full (s : State) (t : Nat) : (s.jump t).full = s.full := rfl
@[simp] theorem State.jump_poison (s : State) (t : Nat) : (s.jump t).poison = s.poison := rfl
@[simp] theorem State.jump_dies (s : State) (t : Nat) : (s.jump t).dies = s.dies := rfl
@[simp] theorem State.jump_pkg (s : State) (t : Nat) : (s.jump t).pkg = s.pkg := rfl
@[simp] theorem State.jump_hostMem (s : State) (t : Nat) : (s.jump t).hostMem = s.hostMem := rfl
@[simp] theorem State.jump_focus (s : State) (t : Nat) : (s.jump t).focus = s.focus := rfl
@[simp] theorem State.jump_snap (s : State) (t : Nat) : (s.jump t).snap = s.snap := rfl
@[simp] theorem State.jump_args (s : State) (t : Nat) : (s.jump t).args = s.args := rfl
@[simp] theorem State.jump_sched (s : State) (t : Nat) : (s.jump t).sched = s.sched := rfl
@[simp] theorem State.jump_agenda (s : State) (t : Nat) : (s.jump t).agenda = s.agenda := rfl
@[simp] theorem State.jump_timers (s : State) (t : Nat) : (s.jump t).timers = s.timers := rfl
@[simp] theorem State.jump_alarms (s : State) (t : Nat) : (s.jump t).alarms = s.alarms := rfl
@[simp] theorem State.jump_turn (s : State) (t : Nat) : (s.jump t).turn = s.turn := rfl
@[simp] theorem State.jump_lag (s : State) (t : Nat) : (s.jump t).lag = s.lag := rfl
@[simp] theorem State.jump_unseen (s : State) (t : Nat) : (s.jump t).unseen = s.unseen := rfl
@[simp] theorem State.jump_draws (s : State) (t : Nat) : (s.jump t).draws = s.draws := rfl
@[simp] theorem State.violateOf_cycle (s : State) (c x kind : Nat) (a i : W64) : (s.violateOf c x kind a i).cycle = s.cycle := rfl
@[simp] theorem State.violateOf_time (s : State) (c x kind : Nat) (a i : W64) : (s.violateOf c x kind a i).time = s.time := rfl
@[simp] theorem State.violateOf_mem (s : State) (c x kind : Nat) (a i : W64) : (s.violateOf c x kind a i).mem = s.mem := rfl
@[simp] theorem State.violateOf_full (s : State) (c x kind : Nat) (a i : W64) : (s.violateOf c x kind a i).full = s.full := rfl
@[simp] theorem State.violateOf_poison (s : State) (c x kind : Nat) (a i : W64) : (s.violateOf c x kind a i).poison = s.poison := rfl
@[simp] theorem State.violateOf_dies (s : State) (c x kind : Nat) (a i : W64) : (s.violateOf c x kind a i).dies = s.dies := rfl
@[simp] theorem State.violateOf_pkg (s : State) (c x kind : Nat) (a i : W64) : (s.violateOf c x kind a i).pkg = s.pkg := rfl
@[simp] theorem State.violateOf_hostMem (s : State) (c x kind : Nat) (a i : W64) : (s.violateOf c x kind a i).hostMem = s.hostMem := rfl
@[simp] theorem State.violateOf_focus (s : State) (c x kind : Nat) (a i : W64) : (s.violateOf c x kind a i).focus = s.focus := rfl
@[simp] theorem State.violateOf_snap (s : State) (c x kind : Nat) (a i : W64) : (s.violateOf c x kind a i).snap = s.snap := rfl
@[simp] theorem State.violateOf_args (s : State) (c x kind : Nat) (a i : W64) : (s.violateOf c x kind a i).args = s.args := rfl
@[simp] theorem State.violateOf_sched (s : State) (c x kind : Nat) (a i : W64) : (s.violateOf c x kind a i).sched = s.sched := rfl
@[simp] theorem State.violateOf_agenda (s : State) (c x kind : Nat) (a i : W64) : (s.violateOf c x kind a i).agenda = s.agenda := rfl
@[simp] theorem State.violateOf_timers (s : State) (c x kind : Nat) (a i : W64) : (s.violateOf c x kind a i).timers = s.timers := rfl
@[simp] theorem State.violateOf_alarms (s : State) (c x kind : Nat) (a i : W64) : (s.violateOf c x kind a i).alarms = s.alarms := rfl
@[simp] theorem State.violateOf_turn (s : State) (c x kind : Nat) (a i : W64) : (s.violateOf c x kind a i).turn = s.turn := rfl
@[simp] theorem State.violateOf_lag (s : State) (c x kind : Nat) (a i : W64) : (s.violateOf c x kind a i).lag = s.lag := rfl
@[simp] theorem State.violateOf_unseen (s : State) (c x kind : Nat) (a i : W64) : (s.violateOf c x kind a i).unseen = s.unseen := rfl
@[simp] theorem State.violateOf_draws (s : State) (c x kind : Nat) (a i : W64) : (s.violateOf c x kind a i).draws = s.draws := rfl
@[simp] theorem State.closeWindow_cycle (s : State) : (s.closeWindow).cycle = s.cycle := rfl
@[simp] theorem State.closeWindow_time (s : State) : (s.closeWindow).time = s.time := rfl
@[simp] theorem State.closeWindow_mem (s : State) : (s.closeWindow).mem = s.mem := rfl
@[simp] theorem State.closeWindow_full (s : State) : (s.closeWindow).full = s.full := rfl
@[simp] theorem State.closeWindow_poison (s : State) : (s.closeWindow).poison = s.poison := rfl
@[simp] theorem State.closeWindow_dies (s : State) : (s.closeWindow).dies = s.dies := rfl
@[simp] theorem State.closeWindow_pkg (s : State) : (s.closeWindow).pkg = s.pkg := rfl
@[simp] theorem State.closeWindow_hostMem (s : State) : (s.closeWindow).hostMem = s.hostMem := rfl
@[simp] theorem State.closeWindow_focus (s : State) : (s.closeWindow).focus = s.focus := rfl
@[simp] theorem State.closeWindow_snap (s : State) : (s.closeWindow).snap = s.snap := rfl
@[simp] theorem State.closeWindow_args (s : State) : (s.closeWindow).args = s.args := rfl
@[simp] theorem State.closeWindow_sched (s : State) : (s.closeWindow).sched = s.sched := rfl
@[simp] theorem State.closeWindow_agenda (s : State) : (s.closeWindow).agenda = s.agenda := rfl
@[simp] theorem State.closeWindow_timers (s : State) : (s.closeWindow).timers = s.timers := rfl
@[simp] theorem State.closeWindow_alarms (s : State) : (s.closeWindow).alarms = s.alarms := rfl
@[simp] theorem State.closeWindow_turn (s : State) : (s.closeWindow).turn = s.turn := rfl
@[simp] theorem State.closeWindow_lag (s : State) : (s.closeWindow).lag = s.lag := rfl
@[simp] theorem State.closeWindow_unseen (s : State) : (s.closeWindow).unseen = s.unseen := rfl
@[simp] theorem State.closeWindow_draws (s : State) : (s.closeWindow).draws = s.draws := rfl
@[simp] theorem State.giveUp_cycle (s : State) : (s.giveUp).cycle = s.cycle := rfl
@[simp] theorem State.giveUp_time (s : State) : (s.giveUp).time = s.time := rfl
@[simp] theorem State.giveUp_mem (s : State) : (s.giveUp).mem = s.mem := rfl
@[simp] theorem State.giveUp_full (s : State) : (s.giveUp).full = s.full := rfl
@[simp] theorem State.giveUp_poison (s : State) : (s.giveUp).poison = s.poison := rfl
@[simp] theorem State.giveUp_dies (s : State) : (s.giveUp).dies = s.dies := rfl
@[simp] theorem State.giveUp_pkg (s : State) : (s.giveUp).pkg = s.pkg := rfl
@[simp] theorem State.giveUp_hostMem (s : State) : (s.giveUp).hostMem = s.hostMem := rfl
@[simp] theorem State.giveUp_focus (s : State) : (s.giveUp).focus = s.focus := rfl
@[simp] theorem State.giveUp_snap (s : State) : (s.giveUp).snap = s.snap := rfl
@[simp] theorem State.giveUp_args (s : State) : (s.giveUp).args = s.args := rfl
@[simp] theorem State.giveUp_sched (s : State) : (s.giveUp).sched = s.sched := rfl
@[simp] theorem State.giveUp_agenda (s : State) : (s.giveUp).agenda = s.agenda := rfl
@[simp] theorem State.giveUp_timers (s : State) : (s.giveUp).timers = s.timers := rfl
@[simp] theorem State.giveUp_alarms (s : State) : (s.giveUp).alarms = s.alarms := rfl
@[simp] theorem State.giveUp_turn (s : State) : (s.giveUp).turn = s.turn := rfl
@[simp] theorem State.giveUp_lag (s : State) : (s.giveUp).lag = s.lag := rfl
@[simp] theorem State.giveUp_unseen (s : State) : (s.giveUp).unseen = s.unseen := rfl
@[simp] theorem State.giveUp_draws (s : State) : (s.giveUp).draws = s.draws := rfl
@[simp] theorem State.block_cycle (s : State) (h : Hold) : (s.block h).cycle = s.cycle := rfl
@[simp] theorem State.block_time (s : State) (h : Hold) : (s.block h).time = s.time := rfl
@[simp] theorem State.block_mem (s : State) (h : Hold) : (s.block h).mem = s.mem := rfl
@[simp] theorem State.block_full (s : State) (h : Hold) : (s.block h).full = s.full := rfl
@[simp] theorem State.block_poison (s : State) (h : Hold) : (s.block h).poison = s.poison := rfl
@[simp] theorem State.block_dies (s : State) (h : Hold) : (s.block h).dies = s.dies := rfl
@[simp] theorem State.block_pkg (s : State) (h : Hold) : (s.block h).pkg = s.pkg := rfl
@[simp] theorem State.block_hostMem (s : State) (h : Hold) : (s.block h).hostMem = s.hostMem := rfl
@[simp] theorem State.block_focus (s : State) (h : Hold) : (s.block h).focus = s.focus := rfl
@[simp] theorem State.block_snap (s : State) (h : Hold) : (s.block h).snap = s.snap := rfl
@[simp] theorem State.block_args (s : State) (h : Hold) : (s.block h).args = s.args := rfl
@[simp] theorem State.block_sched (s : State) (h : Hold) : (s.block h).sched = s.sched := rfl
@[simp] theorem State.block_agenda (s : State) (h : Hold) : (s.block h).agenda = s.agenda := rfl
@[simp] theorem State.block_timers (s : State) (h : Hold) : (s.block h).timers = s.timers := rfl
@[simp] theorem State.block_alarms (s : State) (h : Hold) : (s.block h).alarms = s.alarms := rfl
@[simp] theorem State.block_turn (s : State) (h : Hold) : (s.block h).turn = s.turn := rfl
@[simp] theorem State.block_lag (s : State) (h : Hold) : (s.block h).lag = s.lag := rfl
@[simp] theorem State.block_unseen (s : State) (h : Hold) : (s.block h).unseen = s.unseen := rfl
@[simp] theorem State.block_draws (s : State) (h : Hold) : (s.block h).draws = s.draws := rfl
@[simp] theorem State.waitFor_cycle (s : State) (h : Hold) : (s.waitFor h).cycle = s.cycle := rfl
@[simp] theorem State.waitFor_time (s : State) (h : Hold) : (s.waitFor h).time = s.time := rfl
@[simp] theorem State.waitFor_mem (s : State) (h : Hold) : (s.waitFor h).mem = s.mem := rfl
@[simp] theorem State.waitFor_full (s : State) (h : Hold) : (s.waitFor h).full = s.full := rfl
@[simp] theorem State.waitFor_poison (s : State) (h : Hold) : (s.waitFor h).poison = s.poison := rfl
@[simp] theorem State.waitFor_dies (s : State) (h : Hold) : (s.waitFor h).dies = s.dies := rfl
@[simp] theorem State.waitFor_pkg (s : State) (h : Hold) : (s.waitFor h).pkg = s.pkg := rfl
@[simp] theorem State.waitFor_hostMem (s : State) (h : Hold) : (s.waitFor h).hostMem = s.hostMem := rfl
@[simp] theorem State.waitFor_focus (s : State) (h : Hold) : (s.waitFor h).focus = s.focus := rfl
@[simp] theorem State.waitFor_snap (s : State) (h : Hold) : (s.waitFor h).snap = s.snap := rfl
@[simp] theorem State.waitFor_args (s : State) (h : Hold) : (s.waitFor h).args = s.args := rfl
@[simp] theorem State.waitFor_sched (s : State) (h : Hold) : (s.waitFor h).sched = s.sched := rfl
@[simp] theorem State.waitFor_agenda (s : State) (h : Hold) : (s.waitFor h).agenda = s.agenda := rfl
@[simp] theorem State.waitFor_timers (s : State) (h : Hold) : (s.waitFor h).timers = s.timers := rfl
@[simp] theorem State.waitFor_alarms (s : State) (h : Hold) : (s.waitFor h).alarms = s.alarms := rfl
@[simp] theorem State.waitFor_turn (s : State) (h : Hold) : (s.waitFor h).turn = s.turn := rfl
@[simp] theorem State.waitFor_lag (s : State) (h : Hold) : (s.waitFor h).lag = s.lag := rfl
@[simp] theorem State.waitFor_unseen (s : State) (h : Hold) : (s.waitFor h).unseen = s.unseen := rfl
@[simp] theorem State.waitFor_draws (s : State) (h : Hold) : (s.waitFor h).draws = s.draws := rfl
@[simp] theorem State.clearPoison_cycle (s : State) (k n : Nat) : (s.clearPoison k n).cycle = s.cycle := rfl
@[simp] theorem State.clearPoison_time (s : State) (k n : Nat) : (s.clearPoison k n).time = s.time := rfl
@[simp] theorem State.clearPoison_cells (s : State) (k n : Nat) : (s.clearPoison k n).cells = s.cells := rfl
@[simp] theorem State.clearPoison_mem (s : State) (k n : Nat) : (s.clearPoison k n).mem = s.mem := rfl
@[simp] theorem State.clearPoison_full (s : State) (k n : Nat) : (s.clearPoison k n).full = s.full := rfl
@[simp] theorem State.clearPoison_dies (s : State) (k n : Nat) : (s.clearPoison k n).dies = s.dies := rfl
@[simp] theorem State.clearPoison_pkg (s : State) (k n : Nat) : (s.clearPoison k n).pkg = s.pkg := rfl
@[simp] theorem State.clearPoison_hostMem (s : State) (k n : Nat) : (s.clearPoison k n).hostMem = s.hostMem := rfl
@[simp] theorem State.clearPoison_focus (s : State) (k n : Nat) : (s.clearPoison k n).focus = s.focus := rfl
@[simp] theorem State.clearPoison_snap (s : State) (k n : Nat) : (s.clearPoison k n).snap = s.snap := rfl
@[simp] theorem State.clearPoison_args (s : State) (k n : Nat) : (s.clearPoison k n).args = s.args := rfl
@[simp] theorem State.clearPoison_sched (s : State) (k n : Nat) : (s.clearPoison k n).sched = s.sched := rfl
@[simp] theorem State.clearPoison_agenda (s : State) (k n : Nat) : (s.clearPoison k n).agenda = s.agenda := rfl
@[simp] theorem State.clearPoison_timers (s : State) (k n : Nat) : (s.clearPoison k n).timers = s.timers := rfl
@[simp] theorem State.clearPoison_alarms (s : State) (k n : Nat) : (s.clearPoison k n).alarms = s.alarms := rfl
@[simp] theorem State.clearPoison_turn (s : State) (k n : Nat) : (s.clearPoison k n).turn = s.turn := rfl
@[simp] theorem State.clearPoison_lag (s : State) (k n : Nat) : (s.clearPoison k n).lag = s.lag := rfl
@[simp] theorem State.clearPoison_unseen (s : State) (k n : Nat) : (s.clearPoison k n).unseen = s.unseen := rfl
@[simp] theorem State.clearPoison_draws (s : State) (k n : Nat) : (s.clearPoison k n).draws = s.draws := rfl
@[simp] theorem State.hostWrite_cycle (s : State) (a : Nat) (l : List Byte) : (s.hostWrite a l).cycle = s.cycle := rfl
@[simp] theorem State.hostWrite_time (s : State) (a : Nat) (l : List Byte) : (s.hostWrite a l).time = s.time := rfl
@[simp] theorem State.hostWrite_cells (s : State) (a : Nat) (l : List Byte) : (s.hostWrite a l).cells = s.cells := rfl
@[simp] theorem State.hostWrite_mem (s : State) (a : Nat) (l : List Byte) : (s.hostWrite a l).mem = s.mem := rfl
@[simp] theorem State.hostWrite_full (s : State) (a : Nat) (l : List Byte) : (s.hostWrite a l).full = s.full := rfl
@[simp] theorem State.hostWrite_poison (s : State) (a : Nat) (l : List Byte) : (s.hostWrite a l).poison = s.poison := rfl
@[simp] theorem State.hostWrite_dies (s : State) (a : Nat) (l : List Byte) : (s.hostWrite a l).dies = s.dies := rfl
@[simp] theorem State.hostWrite_pkg (s : State) (a : Nat) (l : List Byte) : (s.hostWrite a l).pkg = s.pkg := rfl
@[simp] theorem State.hostWrite_focus (s : State) (a : Nat) (l : List Byte) : (s.hostWrite a l).focus = s.focus := rfl
@[simp] theorem State.hostWrite_snap (s : State) (a : Nat) (l : List Byte) : (s.hostWrite a l).snap = s.snap := rfl
@[simp] theorem State.hostWrite_args (s : State) (a : Nat) (l : List Byte) : (s.hostWrite a l).args = s.args := rfl
@[simp] theorem State.hostWrite_sched (s : State) (a : Nat) (l : List Byte) : (s.hostWrite a l).sched = s.sched := rfl
@[simp] theorem State.hostWrite_agenda (s : State) (a : Nat) (l : List Byte) : (s.hostWrite a l).agenda = s.agenda := rfl
@[simp] theorem State.hostWrite_timers (s : State) (a : Nat) (l : List Byte) : (s.hostWrite a l).timers = s.timers := rfl
@[simp] theorem State.hostWrite_alarms (s : State) (a : Nat) (l : List Byte) : (s.hostWrite a l).alarms = s.alarms := rfl
@[simp] theorem State.hostWrite_turn (s : State) (a : Nat) (l : List Byte) : (s.hostWrite a l).turn = s.turn := rfl
@[simp] theorem State.hostWrite_lag (s : State) (a : Nat) (l : List Byte) : (s.hostWrite a l).lag = s.lag := rfl
@[simp] theorem State.hostWrite_unseen (s : State) (a : Nat) (l : List Byte) : (s.hostWrite a l).unseen = s.unseen := rfl
@[simp] theorem State.hostWrite_draws (s : State) (a : Nat) (l : List Byte) : (s.hostWrite a l).draws = s.draws := rfl

/-! ## Reading back -/

@[simp] theorem State.cell_putCell (s : State) (c j : Nat) (k : Cell) :
    (s.putCell c k).cell j = if j = c then k else s.cell j := Tab.get_ins ..

@[simp] theorem State.cell_modCell (s : State) (c j : Nat) (f : Cell → Cell) :
    (s.modCell c f).cell j = if j = c then f (s.cell c) else s.cell j := Tab.get_ins ..

@[simp] theorem Cell.ctx_putCtx (k : Cell) (x y : Nat) (t : Ctx) :
    (k.putCtx x t).ctx y = if y = x then t else k.ctx y := Tab.get_ins ..

theorem State.ctxOf_modCtxOf (s : State) (c x j y : Nat) (f : Ctx → Ctx) :
    (s.modCtxOf c x f).ctxOf j y = if j = c ∧ y = x then f (s.ctxOf c x) else s.ctxOf j y := by
  unfold State.ctxOf State.modCtxOf
  rw [State.cell_modCell]
  by_cases h : j = c
  · subst h; by_cases h2 : y = x <;> simp [h2]
  · simp [h]

@[simp] theorem State.ctxOf_modCtxOf_same (s : State) (c x : Nat) (f : Ctx → Ctx) :
    (s.modCtxOf c x f).ctxOf c x = f (s.ctxOf c x) := by simp [State.ctxOf_modCtxOf]

@[simp] theorem State.ctx_modCtx (s : State) (f : Ctx → Ctx) : (s.modCtx f).ctx = f s.ctx :=
  State.ctxOf_modCtxOf_same s _ _ f

@[simp] theorem State.here_modHere (s : State) (f : Cell → Cell) : (s.modHere f).here = f s.here := by
  simp [State.here, State.modHere]

@[simp] theorem State.die_modDie (s : State) (d j : Nat) (f : Die → Die) :
    (s.modDie d f).die j = if j = d then f (s.die d) else s.die j := Tab.get_ins ..

theorem Cell.putCtx_putCtx (k : Cell) (x : Nat) (a b : Ctx) : (k.putCtx x a).putCtx x b = k.putCtx x b := by
  simp [Cell.putCtx, Tab.ins_ins]

theorem State.modCell_modCell (s : State) (c : Nat) (f g : Cell → Cell) :
    (s.modCell c f).modCell c g = s.modCell c fun k => g (f k) := by
  simp [State.modCell, State.putCell, State.cell, Tab.get_ins, Tab.ins_ins]

theorem State.modCtxOf_modCtxOf (s : State) (c x : Nat) (f g : Ctx → Ctx) :
    (s.modCtxOf c x f).modCtxOf c x g = s.modCtxOf c x fun t => g (f t) := by
  unfold State.modCtxOf
  rw [State.modCell_modCell]
  simp [Cell.putCtx_putCtx]

/-- Two updates of the issuing context are one. -/
theorem State.modCtx_modCtx (s : State) (f g : Ctx → Ctx) : (s.modCtx f).modCtx g = s.modCtx fun t => g (f t) :=
  State.modCtxOf_modCtxOf s _ _ f g

/-- The slots of a bundle read the snapshot, which no write of the bundle changes. -/
theorem State.was_modCtx {s : State} {k : Cell} (h : s.snap = some k) (f : Ctx → Ctx) :
    (s.modCtx f).was = s.was := by
  simp [State.was, State.seen, h]

end Sys2Proof.Machine
end

