-- ==== Sys2Proof/Laws/Memory.lean ====
section
/-! SUPPORT. Memory: reading after a write, and that every memory operation keeps the canonical form. -/

namespace Sys2Proof.Machine
open Sys2Proof

/-! ## One byte -/

theorem State.byte_setByte {s : State} (h : Memory.wf s.mem = true) (k j : Nat) (b : Byte) :
    (s.setByte k b).byte j = if j = k then b else s.byte j :=
  Tab.get_set h k j b

theorem State.wf_setByte {s : State} (h : Memory.wf s.mem = true) (k : Nat) (b : Byte) :
    Memory.wf (s.setByte k b).mem = true :=
  Tab.wf_set h k b

/-! ## Several bytes -/

theorem State.wf_writeBytes {s : State} (h : Memory.wf s.mem = true) (k : Nat) (l : List Byte) :
    Memory.wf (s.writeBytes k l).mem = true := by
  induction l generalizing s k with
  | nil => exact h
  | cons b t ih => exact ih (s.wf_setByte h k b) (k + 1)

theorem State.byte_writeBytes {s : State} (h : Memory.wf s.mem = true) (k j : Nat) (l : List Byte) :
    (s.writeBytes k l).byte j = if k ≤ j then (l[j - k]?).getD (s.byte j) else s.byte j := by
  induction l generalizing s k with
  | nil => simp [State.writeBytes]
  | cons b t ih =>
    rw [State.writeBytes, ih (s.wf_setByte h k b), s.byte_setByte h]
    by_cases h1 : j = k
    · subst h1; simp
    · by_cases h2 : k ≤ j
      · have h3 : k + 1 ≤ j := by omega
        have h4 : j - k = (j - (k + 1)) + 1 := by omega
        simp [h1, h2, h3, h4]
      · have h3 : ¬k + 1 ≤ j := by omega
        simp [h1, h2, h3]

theorem State.wf_writeN {s : State} (h : Memory.wf s.mem = true) (k n v : Nat) :
    Memory.wf (s.writeN k n v).mem = true := by
  induction n generalizing s k v with
  | zero => exact h
  | succ n ih => exact ih (s.wf_setByte h k _) (k + 1) _

theorem State.byte_writeN {s : State} (h : Memory.wf s.mem = true) (k n v j : Nat) :
    (s.writeN k n v).byte j =
      if k ≤ j ∧ j < k + n then BitVec.ofNat 8 (v / 256 ^ (j - k)) else s.byte j := by
  induction n generalizing s k v with
  | zero => have : ¬(k ≤ j ∧ j < k + 0) := by omega
            rw [if_neg this]; rfl
  | succ n ih =>
    rw [State.writeN, ih (s.wf_setByte h k _), s.byte_setByte h]
    by_cases h1 : j = k
    · subst h1; simp
    · by_cases h2 : k ≤ j ∧ j < k + (n + 1)
      · have h3 : k + 1 ≤ j ∧ j < k + 1 + n := by omega
        have h4 : j - k = (j - (k + 1)) + 1 := by omega
        simp only [h1, h2, h3, h4, if_true, and_self, Nat.div_div_eq_div_mul]
        rw [pow_succ, Nat.mul_comm]
      · have h3 : ¬(k + 1 ≤ j ∧ j < k + 1 + n) := by omega
        rw [if_neg h3, if_neg h1, if_neg h2]

/-- What reading the bytes at a place depends on. -/
theorem State.readN_congr (s t : State) (k n : Nat) (h : ∀ i, i < n → t.byte (k + i) = s.byte (k + i)) :
    t.readN k n = s.readN k n := by
  induction n generalizing k with
  | zero => rfl
  | succ n ih =>
    have h0 := h 0 (by omega)
    rw [Nat.add_zero] at h0
    rw [State.readN, State.readN, h0, ih (k + 1)]
    · intro i hi
      have := h (i + 1) (by omega)
      rwa [show k + (i + 1) = k + 1 + i by omega] at this

theorem State.readN_lt (s : State) (k n : Nat) : s.readN k n < 256 ^ n := by
  induction n generalizing k with
  | zero => simp [State.readN]
  | succ n ih =>
    have h1 := ih (k + 1)
    have h2 := (s.byte k).isLt
    rw [State.readN, pow_succ]
    omega

/-- A read after a write of the same bytes gives the value written. -/
theorem State.readN_writeN {s : State} (h : Memory.wf s.mem = true) (k n v : Nat) :
    (s.writeN k n v).readN k n = v % 256 ^ n := by
  suffices H : ∀ (t : State) (k n v : Nat), (∀ i, i < n → t.byte (k + i) = BitVec.ofNat 8 (v / 256 ^ i)) →
      t.readN k n = v % 256 ^ n by
    refine H _ k n v fun i hi => ?_
    rw [s.byte_writeN h]
    have : k ≤ k + i ∧ k + i < k + n := by omega
    simp [this]
  intro t k n
  induction n generalizing k with
  | zero => intro v _; simp [State.readN, Nat.mod_one]
  | succ n ih =>
    intro v hv
    have h1 := ih (k + 1) (v / 256) fun i hi => by
      have := hv (i + 1) (by omega)
      rw [show k + (i + 1) = k + 1 + i by omega] at this
      rw [this, Nat.div_div_eq_div_mul, pow_succ, Nat.mul_comm]
    have h0 := hv 0 (by omega)
    simp only [Nat.add_zero, pow_zero, Nat.div_one] at h0
    have h2 : v % 256 ^ (n + 1) = v % 256 + 256 * (v / 256 % 256 ^ n) := by rw [Nat.pow_succ', Nat.mod_mul]
    rw [State.readN, h1, h0, BitVec.toNat_ofNat, h2]

/-! ## Full bits, poison and engines -/

/-- A fold of updates keeps what each of them keeps. -/
theorem foldl_keep {α β : Type} (P : β → Prop) (f : β → α → β) (h : ∀ b a, P b → P (f b a)) (l : List α) (b : β)
    (hb : P b) : P (l.foldl f b) := by
  induction l generalizing b with
  | nil => exact hb
  | cons a t ih => exact ih (f b a) (h b a hb)

@[simp] theorem State.setFullRange_mem (s : State) (k n : Nat) (b : Bool) : (s.setFullRange k n b).mem = s.mem := by
  unfold State.setFullRange
  split
  · rfl
  · exact foldl_keep (fun t : State => t.mem = s.mem) _ (fun t i ht => by simpa using ht) _ s rfl

theorem State.wf_engineWrite {s : State} (h : Memory.wf s.mem = true) (k : Nat) (l : List Byte) :
    Memory.wf (s.engineWrite k l).mem = true := by
  unfold State.engineWrite
  simp only
  split
  · simpa using s.wf_writeBytes h k l
  · simpa using s.wf_writeBytes h k l

theorem State.wf_globalWrite {s : State} (h : Memory.wf s.mem = true) (a : W64) (l : List Byte) :
    Memory.wf (s.globalWrite a l).mem = true := by
  unfold State.globalWrite
  split
  · simpa [State.engineReq, State.injectReq, State.post] using h
  · split
    · exact h
    · exact s.wf_engineWrite h _ l

/-- What an engine's write leaves in memory. -/
theorem State.byte_engineWrite (s : State) (k j : Nat) (l : List Byte) :
    (s.engineWrite k l).byte j = (s.writeBytes k l).byte j := by
  unfold State.engineWrite
  simp only
  split
  · simp [State.byte]
  · simp [State.byte]

theorem State.reset_mem_wf : Memory.wf State.reset.mem = true := rfl

end Sys2Proof.Machine
end

