-- ==== Sys2Proof/Laws/Ops.lean ====
section
/-! SUPPORT. What the shared operations can do, once each: register and predicate writes, results in flight, holds, error
responses, taking an exception and returning from one. -/

namespace Sys2Proof.Machine
open Sys2Proof

/-! ## Registers -/

theorem Ctx.rs_ws (x : Ctx) (now n j : Nat) (v : W64) :
    (x.ws now n v).rs j = if j = n ∧ n ≠ 0 then v else x.rs j := by
  unfold Ctx.ws Ctx.rs
  by_cases h : n = 0
  · simp [h]
  · simp only [h, if_false, Tab.get_ins]
    by_cases h1 : j = 0
    · subst h1; simp [Ne.symm h]
    · by_cases h2 : j = n
      · simp [h2, h]
      · simp [h1, h2]

theorem mem_dropOlder (kind : LandKind) (cl reg due : Nat) (l : List Landing) (e : Landing) :
    e ∈ dropOlder kind cl reg due l ↔ e ∈ l ∧ ¬(e.kind = kind ∧ e.cl = cl ∧ e.reg = reg ∧ e.due ≤ due) := by
  simp only [dropOlder, List.mem_filter, Bool.not_eq_true', Bool.and_eq_false_iff, beq_eq_false_iff_ne,
    decide_eq_false_iff_not]
  tauto

/-- What a read has seen new is all that `unseeOn` changes, and only of the results for the destination. -/
theorem mem_unseeOn {kind : LandKind} {cl reg : Nat} {m : BitVec 16} {l : List Landing} {e : Landing}
    (h : e ∈ unseeOn kind cl reg m l) :
    ∃ o ∈ l, e = { o with seen := e.seen } ∧ (e = o ∨ (o.kind = kind ∧ o.cl = cl ∧ o.reg = reg)) := by
  obtain ⟨o, ho, rfl⟩ := List.mem_map.1 h
  refine ⟨o, ho, ?_⟩
  split
  · rename_i hc
    simp only [Bool.and_eq_true, beq_iff_eq] at hc
    exact ⟨rfl, .inr ⟨hc.1.1, hc.1.2, hc.2⟩⟩
  · exact ⟨rfl, .inl rfl⟩

theorem unseeOn_other {kind : LandKind} {cl reg : Nat} {m : BitVec 16} {l : List Landing} {e : Landing} (h : e ∈ l)
    (hn : ¬(e.kind = kind ∧ e.cl = cl ∧ e.reg = reg)) : e ∈ unseeOn kind cl reg m l := by
  refine List.mem_map.2 ⟨e, h, ?_⟩
  rw [if_neg]
  simp only [Bool.and_eq_true, beq_iff_eq]
  exact fun hc => hn ⟨hc.1.1, hc.1.2, hc.2⟩

/-- A write of s0 changes nothing. -/
theorem Ctx.ws_zero (x : Ctx) (now : Nat) (v : W64) : x.ws now 0 v = x := rfl

/-- A scalar write changes the register, results in flight to it, and nothing else. -/
theorem State.ws_writes (s : State) (d : BitVec 6) (v : W64) : WritesScalar s (s.ws d v) d v := by
  refine ⟨fun n => ?_, fun a => rfl, ?_⟩
  · rw [State.ws, State.ctx_modCtx, Ctx.rs_ws]
    have h1 : n.toNat = d.toNat ↔ n = d := BitVec.toNat_inj
    have h2 : d.toNat ≠ 0 ↔ d ≠ 0 := by
      rw [not_iff_not]; exact ⟨fun h => BitVec.eq_of_toNat_eq h, fun h => by simp [h]⟩
    simp only [h1, h2]
  · by_cases hd : d.toNat = 0
    · refine ⟨s.ctx.s, s.ctx.land, s.ctx.reachNext, ?_, fun e h => .inl h, fun e h => h,
        fun e h => ⟨e, h, rfl, .inl rfl⟩, fun e h _ => h⟩
      unfold State.ws State.modCtx State.modCtxOf State.modCell Cell.putCtx State.ctx State.here
      simp only [hd, Ctx.ws_zero]
    · refine ⟨s.ctx.s.ins d.toNat v, unseeOn .scalar 0 d.toNat 1 (dropOlder .scalar 0 d.toNat (s.now + 1) s.ctx.land),
        s.ctx.reachNext ++ [⟨.scalar, 0, d.toNat, 1, s.now⟩], ?_, ?_, fun e h => List.mem_append_left _ h, ?_, ?_⟩
      · unfold State.ws State.modCtx State.modCtxOf State.modCell Cell.putCtx State.ctx State.here Ctx.ws
        simp only [hd, if_false]
      · intro e he
        rcases List.mem_append.1 he with h | h
        · exact .inl h
        · obtain rfl := List.mem_singleton.1 h; exact .inr ⟨rfl, rfl, rfl⟩
      · intro e he
        obtain ⟨o, ho, h, h'⟩ := mem_unseeOn he
        exact ⟨o, ((mem_dropOlder ..).1 ho).1, h, h'.imp_right fun h => ⟨h.1, h.2.2⟩⟩
      · intro e he hn
        exact unseeOn_other ((mem_dropOlder ..).2 ⟨he, fun h => hn ⟨h.1, h.2.2.1⟩⟩) fun h => hn ⟨h.1, h.2.2⟩

theorem State.wsLate_zero (s : State) (v : W64) (b : Nat) : s.wsLate 0 v b = s := rfl

/-- A late scalar result is queued and holds its readers. -/
theorem State.wsLate_writes (s : State) (d : BitVec 6) (v : W64) (b : Nat) : WritesScalarLate s (s.wsLate d v b) d v b := by
  unfold WritesScalarLate State.wsLate
  split
  · rfl
  · refine ⟨_, rfl, rfl, rfl, ?_, rfl, rfl, rfl, fun a => rfl⟩
    simp

theorem Ctx.pr_setP (x : Ctx) (k n : Nat) (b : Bool) (hk : k < 32) (hn : n < 32) :
    (x.setP k b).pr n = if n = k ∧ 2 ≤ k then b else x.pr n := by
  unfold Ctx.setP Ctx.pr
  by_cases h : k < 2
  · have : ¬(n = k ∧ 2 ≤ k) := by omega
    simp [h, this]
  · simp only [h, if_false]
    by_cases h0 : n = 0
    · subst h0; have : ¬(0 = k ∧ 2 ≤ k) := by omega
      simp [this]
    · by_cases h1 : n = 1
      · subst h1; have : ¬(1 = k ∧ 2 ≤ k) := by omega
        simp [this]
      · simp only [h0, h1, if_false]
        have hbit : (BitVec.ofNat 32 (2 ^ k)).getLsbD n = decide (n = k) := by
          rw [BitVec.getLsbD_ofNat, Nat.testBit_two_pow, decide_eq_true hn, Bool.true_and]
          exact decide_eq_decide.2 eq_comm
        have hle : 2 ≤ k := by omega
        cases b
        · rw [if_neg Bool.false_ne_true, BitVec.getLsbD_and, BitVec.getLsbD_not, hbit]
          by_cases hnk : n = k <;> simp [hnk, hle, hk, hn]
        · rw [if_pos rfl, BitVec.getLsbD_or, hbit]
          by_cases hnk : n = k <;> simp [hnk, hle]

/-- `wpair` writes pair `k`, and nothing else; the pair of p0 and p1 keeps its values. -/
theorem State.wpair_writes (s : State) (k : Nat) (hk : k < 16) (c : Bool) : WritesPair s (s.wpair k c) k c := by
  refine ⟨fun n hn => ?_, fun a => rfl, ?_⟩
  · have hr : (s.wpair k c).ctx.pr n = (s.ctx.wpair k c).pr n := by
      rw [State.wpair, State.ctx_modCtx]; rfl
    rw [hr, Ctx.wpair, Ctx.pr_setP _ _ _ _ (by omega) hn, Ctx.pr_setP _ _ _ _ (by omega) hn]
    by_cases h1 : n = 2 * k + 1
    · subst h1
      by_cases h2 : 1 ≤ k
      · have a1 : 2 ≤ 2 * k + 1 := by omega
        have a2 : (2 * k + 1) / 2 = k := by omega
        have a3 : ¬(2 * k + 1) % 2 = 0 := by omega
        simp [a1, a2]
      · have : k = 0 := by omega
        subst this; simp
    · by_cases h2 : n = 2 * k
      · subst h2
        by_cases h3 : 1 ≤ k
        · have a1 : 2 ≤ 2 * k := by omega
          have a2 : 2 * k / 2 = k := by omega
          have a3 : 2 * k % 2 = 0 := by omega
          simp [a1, a2, a3]
        · have : k = 0 := by omega
          subst this; simp
      · have : ¬(2 ≤ n ∧ n / 2 = k) := by omega
        simp [h1, h2, this]
  · refine ⟨(s.ctx.wpair k c).p, ?_⟩
    have hp : s.ctx.wpair k c = { s.ctx with p := (s.ctx.wpair k c).p } := by
      unfold Ctx.wpair Ctx.setP
      split <;> split <;> rfl
    unfold State.wpair State.modCtx State.modCtxOf State.modCell Ctx.wpairNow
    simp only [Cell.putCtx]
    exact congrArg (fun z : Ctx =>
      let z := { z with reachNext := s.ctx.reachNext ++ [⟨.scalar, 0, pairReg k, 1, s.now⟩] }
      s.putCell s.focus.cell { s.here with ctxs := s.here.ctxs.ins s.focus.ctx z }) hp

/-! ## Results in flight -/

theorem State.land_queues (s : State) (kind : LandKind) (cl reg : Nat) (val : BitVec 512) (emp mask : BitVec 16)
    (flags : W64) (bound : Nat) (held : Bool) :
    Queues s.ctx (s.land kind cl reg val emp mask flags bound held).ctx
      ⟨kind, cl, reg, val, emp, mask, 0, flags, s.now + bound, held, s.now, 0⟩ := by
  simp [Queues, State.land]

/-! ## Exceptions (R163-R165) -/

theorem Ctx.recordStop_csrs (x : Ctx) (pc slot cause info : Nat) (done : BitVec 14) (hs : slot < 2 ^ 64)
    (hc : cause < 256) (hi : info < 2 ^ 14) : TrapCsrs x (x.recordStop pc slot cause info done) pc slot cause info done := by
  refine ⟨?_, ?_, ?_, ?_⟩
  · simp only [Ctx.recordStop, BitVec.toNat_ofNat]; omega
  · simp only [Ctx.recordStop, BitVec.toNat_ofNat]; omega
  · have := done.isLt
    simp only [Ctx.recordStop, BitVec.toNat_setWidth]; omega
  · simp only [Ctx.recordStop, BitVec.toNat_ofNat, Nat.mod_eq_of_lt hi]
    cases x.supervisor <;> simp <;> omega

/-- Entry to the handler: what it saves, where it goes, and that no register changes. -/
theorem Ctx.enterVec_enters (x : Ctx) (pc slot cause info : Nat) (done : BitVec 14) (hs : slot < 2 ^ 64)
    (hc : cause < 256) (hi : info < 2 ^ 14) :
    EntersHandler x (x.enterVec x.trapVec pc slot cause info done) pc slot cause info done := by
  refine ⟨x.recordStop_csrs pc slot cause info done hs hc hi, ⟨rfl, rfl, rfl, rfl, rfl, rfl, rfl⟩, rfl, rfl, rfl, ?_, rfl⟩
  simp only [Ctx.enterVec, BitVec.extractLsb'_toNat, Nat.shiftRight_eq_div_pow]
  omega

/-- Delivery to the DCP: the same registers saved, modes and `TRAP_VEC` kept. -/
theorem Ctx.enterDcp_stops (x : Ctx) (pc slot cause info : Nat) (done : BitVec 14) (hs : slot < 2 ^ 64)
    (hc : cause < 256) (hi : info < 2 ^ 14) :
    StopsForDcp x (x.enterDcp pc slot cause info done) pc slot cause info done :=
  ⟨x.recordStop_csrs pc slot cause info done hs hc hi, ⟨rfl, rfl, rfl, rfl, rfl, rfl, rfl⟩, rfl, rfl, rfl, rfl, rfl⟩

@[simp] theorem State.trace_mem (s : State) (c kind : Nat) (x : Option Nat) (pc slot : Nat) (d0 d1 : W64) :
    (s.trace c kind x pc slot d0 d1).mem = s.mem := by
  unfold State.trace
  simp only
  split
  · rfl
  · split <;> rfl

/-- No stop writes memory. -/
@[simp] theorem State.takeStop_mem (s : State) (c x pc slot cause info : Nat) (done : BitVec 14) :
    (s.takeStop c x pc slot cause info done).mem = s.mem := by
  unfold State.takeStop State.takeStopBy
  simp only
  split
  · simp
  · simp

@[simp] theorem State.stop_mem (s : State) (cause info : Nat) : (s.stop cause info).mem = s.mem := by
  unfold State.stop
  split
  · rfl
  · exact s.takeStop_mem ..

/-- A return changes one context and writes no memory. -/
@[simp] theorem State.returnFrom_mem (s : State) (c x : Nat) (w : Ctx) (e : Bool) : (s.returnFrom c x w e).mem = s.mem := rfl

theorem State.returnFrom_cell (s : State) (c x j : Nat) (w : Ctx) (e : Bool) (h : j ≠ c) :
    (s.returnFrom c x w e).cell j = s.cell j := by
  rw [State.returnFrom]
  simp only [State.modCtxOf, State.cell_modCell, if_neg h]

/-! ## Error responses (R167) -/

theorem Ctx.violate_first {x : Ctx} (h : x.errSticky = 0) (kind : Nat) (addr info : W64) :
    (x.violate kind addr info).violAddr = addr ∧
    (x.violate kind addr info).violInfo = info ||| BitVec.ofNat 64 (kind * 2 ^ 21) := by
  rw [Ctx.violate, if_pos h]
  exact ⟨rfl, rfl⟩

theorem Ctx.violate_later {x : Ctx} (h : x.errSticky ≠ 0) (kind : Nat) (addr info : W64) :
    (x.violate kind addr info).violAddr = x.violAddr ∧ (x.violate kind addr info).violInfo = x.violInfo := by
  rw [Ctx.violate, if_neg h]
  exact ⟨rfl, rfl⟩

end Sys2Proof.Machine
end

