-- ==== Sys2Proof/Laws/PerInstr.lean ====
section
/-! SUPPORT. What holds of every instruction as syntax, one lemma per constructor: an encoded word carries its guard in
bits 31:27 (R109), whatever the instruction. -/

namespace Sys2Proof.Laws.Fields
open Sys2Proof

set_option Elab.async false

/-- An encoding carries the guard it was made with. An event has no encoding. -/
def Statement (i : Instr) : Prop := ∀ g w, encode g i = some w → w.extractLsb' 27 5 = g

theorem drop_right {n m : Nat} (x : BitVec n) (y : BitVec m) (k : Nat) (h : k + 5 = n) :
    (x ++ y).extractLsb' (m + k) 5 = x.extractLsb' k 5 := by
  apply BitVec.eq_of_getLsbD_eq
  intro i hi
  have h1 : ¬ m + k + i < m := by omega
  have h2 : m + k + i - m = k + i := by omega
  simp [BitVec.getLsbD_append, h1, h2]

theorem all_bits (g : BitVec 5) : g.extractLsb' 0 5 = g := by simp

theorem shape0 (g : BitVec 5) (x0 : BitVec 7) (x1 : BitVec 6) (x2 : BitVec 6) (x3 : BitVec 6) (x4 : BitVec 2) :
    (g ++ x0 ++ x1 ++ x2 ++ x3 ++ x4 : W32).extractLsb' 27 5 = g :=
  (drop_right _ _ 25 rfl).trans <| (drop_right _ _ 19 rfl).trans <| (drop_right _ _ 13 rfl).trans <| (drop_right _ _ 7 rfl).trans <| (drop_right _ _ 0 rfl).trans <| all_bits g
theorem shape1 (g : BitVec 5) (x0 : BitVec 7) (x1 : BitVec 6) (x2 : BitVec 6) (x3 : BitVec 8) :
    (g ++ x0 ++ x1 ++ x2 ++ x3 : W32).extractLsb' 27 5 = g :=
  (drop_right _ _ 19 rfl).trans <| (drop_right _ _ 13 rfl).trans <| (drop_right _ _ 7 rfl).trans <| (drop_right _ _ 0 rfl).trans <| all_bits g
theorem shape2 (g : BitVec 5) (x0 : BitVec 7) (x1 : BitVec 6) (x2 : BitVec 6) (x3 : BitVec 2) (x4 : BitVec 6) :
    (g ++ x0 ++ x1 ++ x2 ++ x3 ++ x4 : W32).extractLsb' 27 5 = g :=
  (drop_right _ _ 21 rfl).trans <| (drop_right _ _ 19 rfl).trans <| (drop_right _ _ 13 rfl).trans <| (drop_right _ _ 7 rfl).trans <| (drop_right _ _ 0 rfl).trans <| all_bits g
theorem shape3 (g : BitVec 5) (x0 : BitVec 7) (x1 : BitVec 6) (x2 : BitVec 14) :
    (g ++ x0 ++ x1 ++ x2 : W32).extractLsb' 27 5 = g :=
  (drop_right _ _ 13 rfl).trans <| (drop_right _ _ 7 rfl).trans <| (drop_right _ _ 0 rfl).trans <| all_bits g
theorem shape4 (g : BitVec 5) (x0 : BitVec 7) (x1 : BitVec 4) (x2 : BitVec 2) (x3 : BitVec 6) (x4 : BitVec 6) (x5 : BitVec 2) :
    (g ++ x0 ++ x1 ++ x2 ++ x3 ++ x4 ++ x5 : W32).extractLsb' 27 5 = g :=
  (drop_right _ _ 25 rfl).trans <| (drop_right _ _ 19 rfl).trans <| (drop_right _ _ 13 rfl).trans <| (drop_right _ _ 11 rfl).trans <| (drop_right _ _ 7 rfl).trans <| (drop_right _ _ 0 rfl).trans <| all_bits g
theorem shape5 (g : BitVec 5) (x0 : BitVec 7) (x1 : BitVec 4) (x2 : BitVec 3) (x3 : BitVec 5) (x4 : BitVec 1) (x5 : BitVec 5) (x6 : BitVec 2) :
    (g ++ x0 ++ x1 ++ x2 ++ x3 ++ x4 ++ x5 ++ x6 : W32).extractLsb' 27 5 = g :=
  (drop_right _ _ 25 rfl).trans <| (drop_right _ _ 20 rfl).trans <| (drop_right _ _ 19 rfl).trans <| (drop_right _ _ 14 rfl).trans <| (drop_right _ _ 11 rfl).trans <| (drop_right _ _ 7 rfl).trans <| (drop_right _ _ 0 rfl).trans <| all_bits g
theorem shape6 (g : BitVec 5) (x0 : BitVec 7) (x1 : BitVec 4) (x2 : BitVec 2) (x3 : BitVec 6) (x4 : BitVec 8) :
    (g ++ x0 ++ x1 ++ x2 ++ x3 ++ x4 : W32).extractLsb' 27 5 = g :=
  (drop_right _ _ 19 rfl).trans <| (drop_right _ _ 13 rfl).trans <| (drop_right _ _ 11 rfl).trans <| (drop_right _ _ 7 rfl).trans <| (drop_right _ _ 0 rfl).trans <| all_bits g
theorem shape7 (g : BitVec 5) (x0 : BitVec 7) (x1 : BitVec 20) :
    (g ++ x0 ++ x1 : W32).extractLsb' 27 5 = g :=
  (drop_right _ _ 7 rfl).trans <| (drop_right _ _ 0 rfl).trans <| all_bits g
theorem shape8 (g : BitVec 5) (x0 : BitVec 7) (x1 : BitVec 6) (x2 : BitVec 6) (x3 : BitVec 3) (x4 : BitVec 5) :
    (g ++ x0 ++ x1 ++ x2 ++ x3 ++ x4 : W32).extractLsb' 27 5 = g :=
  (drop_right _ _ 22 rfl).trans <| (drop_right _ _ 19 rfl).trans <| (drop_right _ _ 13 rfl).trans <| (drop_right _ _ 7 rfl).trans <| (drop_right _ _ 0 rfl).trans <| all_bits g
theorem shape9 (g : BitVec 5) (x0 : BitVec 7) (x1 : BitVec 14) (x2 : BitVec 6) :
    (g ++ x0 ++ x1 ++ x2 : W32).extractLsb' 27 5 = g :=
  (drop_right _ _ 21 rfl).trans <| (drop_right _ _ 7 rfl).trans <| (drop_right _ _ 0 rfl).trans <| all_bits g
theorem shape10 (g : BitVec 5) (x0 : BitVec 7) (x1 : BitVec 4) (x2 : BitVec 8) (x3 : BitVec 8) :
    (g ++ x0 ++ x1 ++ x2 ++ x3 : W32).extractLsb' 27 5 = g :=
  (drop_right _ _ 19 rfl).trans <| (drop_right _ _ 11 rfl).trans <| (drop_right _ _ 7 rfl).trans <| (drop_right _ _ 0 rfl).trans <| all_bits g
theorem shape11 (g : BitVec 5) (x0 : BitVec 7) (x1 : BitVec 6) (x2 : BitVec 2) (x3 : BitVec 12) :
    (g ++ x0 ++ x1 ++ x2 ++ x3 : W32).extractLsb' 27 5 = g :=
  (drop_right _ _ 15 rfl).trans <| (drop_right _ _ 13 rfl).trans <| (drop_right _ _ 7 rfl).trans <| (drop_right _ _ 0 rfl).trans <| all_bits g
theorem shape12 (g : BitVec 5) (x0 : BitVec 7) (x1 : BitVec 16) (x2 : BitVec 4) :
    (g ++ x0 ++ x1 ++ x2 : W32).extractLsb' 27 5 = g :=
  (drop_right _ _ 23 rfl).trans <| (drop_right _ _ 7 rfl).trans <| (drop_right _ _ 0 rfl).trans <| all_bits g
theorem shape13 (g : BitVec 5) (x0 : BitVec 7) (x1 : BitVec 3) (x2 : BitVec 3) (x3 : BitVec 6) (x4 : BitVec 8) :
    (g ++ x0 ++ x1 ++ x2 ++ x3 ++ x4 : W32).extractLsb' 27 5 = g :=
  (drop_right _ _ 19 rfl).trans <| (drop_right _ _ 13 rfl).trans <| (drop_right _ _ 10 rfl).trans <| (drop_right _ _ 7 rfl).trans <| (drop_right _ _ 0 rfl).trans <| all_bits g
theorem shape14 (g : BitVec 5) (x0 : BitVec 7) (x1 : BitVec 6) (x2 : BitVec 3) (x3 : BitVec 3) (x4 : BitVec 8) :
    (g ++ x0 ++ x1 ++ x2 ++ x3 ++ x4 : W32).extractLsb' 27 5 = g :=
  (drop_right _ _ 19 rfl).trans <| (drop_right _ _ 16 rfl).trans <| (drop_right _ _ 13 rfl).trans <| (drop_right _ _ 7 rfl).trans <| (drop_right _ _ 0 rfl).trans <| all_bits g
theorem shape15 (g : BitVec 5) (x0 : BitVec 7) (x1 : BitVec 6) (x2 : BitVec 6) (x3 : BitVec 3) (x4 : BitVec 2) (x5 : BitVec 3) :
    (g ++ x0 ++ x1 ++ x2 ++ x3 ++ x4 ++ x5 : W32).extractLsb' 27 5 = g :=
  (drop_right _ _ 24 rfl).trans <| (drop_right _ _ 22 rfl).trans <| (drop_right _ _ 19 rfl).trans <| (drop_right _ _ 13 rfl).trans <| (drop_right _ _ 7 rfl).trans <| (drop_right _ _ 0 rfl).trans <| all_bits g
theorem shape16 (g : BitVec 5) (x0 : BitVec 7) (x1 : BitVec 1) (x2 : BitVec 5) (x3 : BitVec 6) (x4 : BitVec 3) (x5 : BitVec 5) :
    (g ++ x0 ++ x1 ++ x2 ++ x3 ++ x4 ++ x5 : W32).extractLsb' 27 5 = g :=
  (drop_right _ _ 22 rfl).trans <| (drop_right _ _ 19 rfl).trans <| (drop_right _ _ 13 rfl).trans <| (drop_right _ _ 8 rfl).trans <| (drop_right _ _ 7 rfl).trans <| (drop_right _ _ 0 rfl).trans <| all_bits g
theorem shape17 (g : BitVec 5) (x0 : BitVec 7) (x1 : BitVec 1) (x2 : BitVec 5) (x3 : BitVec 2) (x4 : BitVec 4) (x5 : BitVec 3) (x6 : BitVec 5) :
    (g ++ x0 ++ x1 ++ x2 ++ x3 ++ x4 ++ x5 ++ x6 : W32).extractLsb' 27 5 = g :=
  (drop_right _ _ 22 rfl).trans <| (drop_right _ _ 19 rfl).trans <| (drop_right _ _ 15 rfl).trans <| (drop_right _ _ 13 rfl).trans <| (drop_right _ _ 8 rfl).trans <| (drop_right _ _ 7 rfl).trans <| (drop_right _ _ 0 rfl).trans <| all_bits g
theorem shape18 (g : BitVec 5) (x0 : BitVec 7) (x1 : BitVec 1) (x2 : BitVec 5) (x3 : BitVec 6) (x4 : BitVec 3) (x5 : BitVec 3) (x6 : BitVec 2) :
    (g ++ x0 ++ x1 ++ x2 ++ x3 ++ x4 ++ x5 ++ x6 : W32).extractLsb' 27 5 = g :=
  (drop_right _ _ 25 rfl).trans <| (drop_right _ _ 22 rfl).trans <| (drop_right _ _ 19 rfl).trans <| (drop_right _ _ 13 rfl).trans <| (drop_right _ _ 8 rfl).trans <| (drop_right _ _ 7 rfl).trans <| (drop_right _ _ 0 rfl).trans <| all_bits g
theorem shape19 (g : BitVec 5) (x0 : BitVec 7) (x1 : BitVec 6) (x2 : BitVec 6) (x3 : BitVec 3) (x4 : BitVec 1) (x5 : BitVec 1) (x6 : BitVec 3) :
    (g ++ x0 ++ x1 ++ x2 ++ x3 ++ x4 ++ x5 ++ x6 : W32).extractLsb' 27 5 = g :=
  (drop_right _ _ 24 rfl).trans <| (drop_right _ _ 23 rfl).trans <| (drop_right _ _ 22 rfl).trans <| (drop_right _ _ 19 rfl).trans <| (drop_right _ _ 13 rfl).trans <| (drop_right _ _ 7 rfl).trans <| (drop_right _ _ 0 rfl).trans <| all_bits g
theorem shape20 (g : BitVec 5) (x0 : BitVec 7) (x1 : BitVec 5) (x2 : BitVec 1) (x3 : BitVec 6) (x4 : BitVec 3) (x5 : BitVec 1) (x6 : BitVec 1) (x7 : BitVec 3) :
    (g ++ x0 ++ x1 ++ x2 ++ x3 ++ x4 ++ x5 ++ x6 ++ x7 : W32).extractLsb' 27 5 = g :=
  (drop_right _ _ 24 rfl).trans <| (drop_right _ _ 23 rfl).trans <| (drop_right _ _ 22 rfl).trans <| (drop_right _ _ 19 rfl).trans <| (drop_right _ _ 13 rfl).trans <| (drop_right _ _ 12 rfl).trans <| (drop_right _ _ 7 rfl).trans <| (drop_right _ _ 0 rfl).trans <| all_bits g
theorem shape21 (g : BitVec 5) (x0 : BitVec 7) (x1 : BitVec 8) (x2 : BitVec 9) (x3 : BitVec 3) :
    (g ++ x0 ++ x1 ++ x2 ++ x3 : W32).extractLsb' 27 5 = g :=
  (drop_right _ _ 24 rfl).trans <| (drop_right _ _ 15 rfl).trans <| (drop_right _ _ 7 rfl).trans <| (drop_right _ _ 0 rfl).trans <| all_bits g
theorem shape22 (g : BitVec 5) (x0 : BitVec 7) (x1 : BitVec 2) (x2 : BitVec 4) (x3 : BitVec 6) (x4 : BitVec 6) (x5 : BitVec 2) :
    (g ++ x0 ++ x1 ++ x2 ++ x3 ++ x4 ++ x5 : W32).extractLsb' 27 5 = g :=
  (drop_right _ _ 25 rfl).trans <| (drop_right _ _ 19 rfl).trans <| (drop_right _ _ 13 rfl).trans <| (drop_right _ _ 9 rfl).trans <| (drop_right _ _ 7 rfl).trans <| (drop_right _ _ 0 rfl).trans <| all_bits g
theorem shape23 (g : BitVec 5) (x0 : BitVec 7) (x1 : BitVec 2) (x2 : BitVec 4) (x3 : BitVec 6) (x4 : BitVec 8) :
    (g ++ x0 ++ x1 ++ x2 ++ x3 ++ x4 : W32).extractLsb' 27 5 = g :=
  (drop_right _ _ 19 rfl).trans <| (drop_right _ _ 13 rfl).trans <| (drop_right _ _ 9 rfl).trans <| (drop_right _ _ 7 rfl).trans <| (drop_right _ _ 0 rfl).trans <| all_bits g
theorem shape24 (g : BitVec 5) (x0 : BitVec 7) (x1 : BitVec 6) (x2 : BitVec 2) (x3 : BitVec 4) (x4 : BitVec 7) (x5 : BitVec 1) :
    (g ++ x0 ++ x1 ++ x2 ++ x3 ++ x4 ++ x5 : W32).extractLsb' 27 5 = g :=
  (drop_right _ _ 26 rfl).trans <| (drop_right _ _ 19 rfl).trans <| (drop_right _ _ 15 rfl).trans <| (drop_right _ _ 13 rfl).trans <| (drop_right _ _ 7 rfl).trans <| (drop_right _ _ 0 rfl).trans <| all_bits g
theorem shape25 (g : BitVec 5) (x0 : BitVec 7) (x1 : BitVec 5) (x2 : BitVec 5) (x3 : BitVec 5) (x4 : BitVec 3) (x5 : BitVec 2) :
    (g ++ x0 ++ x1 ++ x2 ++ x3 ++ x4 ++ x5 : W32).extractLsb' 27 5 = g :=
  (drop_right _ _ 25 rfl).trans <| (drop_right _ _ 22 rfl).trans <| (drop_right _ _ 17 rfl).trans <| (drop_right _ _ 12 rfl).trans <| (drop_right _ _ 7 rfl).trans <| (drop_right _ _ 0 rfl).trans <| all_bits g
theorem shape26 (g : BitVec 5) (x0 : BitVec 7) (x1 : BitVec 5) (x2 : BitVec 5) (x3 : BitVec 2) (x4 : BitVec 3) (x5 : BitVec 3) (x6 : BitVec 2) :
    (g ++ x0 ++ x1 ++ x2 ++ x3 ++ x4 ++ x5 ++ x6 : W32).extractLsb' 27 5 = g :=
  (drop_right _ _ 25 rfl).trans <| (drop_right _ _ 22 rfl).trans <| (drop_right _ _ 19 rfl).trans <| (drop_right _ _ 17 rfl).trans <| (drop_right _ _ 12 rfl).trans <| (drop_right _ _ 7 rfl).trans <| (drop_right _ _ 0 rfl).trans <| all_bits g
theorem shape27 (g : BitVec 5) (x0 : BitVec 7) (x1 : BitVec 5) (x2 : BitVec 5) (x3 : BitVec 10) :
    (g ++ x0 ++ x1 ++ x2 ++ x3 : W32).extractLsb' 27 5 = g :=
  (drop_right _ _ 17 rfl).trans <| (drop_right _ _ 12 rfl).trans <| (drop_right _ _ 7 rfl).trans <| (drop_right _ _ 0 rfl).trans <| all_bits g
theorem shape28 (g : BitVec 5) (x0 : BitVec 7) (x1 : BitVec 5) (x2 : BitVec 9) (x3 : BitVec 6) :
    (g ++ x0 ++ x1 ++ x2 ++ x3 : W32).extractLsb' 27 5 = g :=
  (drop_right _ _ 21 rfl).trans <| (drop_right _ _ 12 rfl).trans <| (drop_right _ _ 7 rfl).trans <| (drop_right _ _ 0 rfl).trans <| all_bits g
theorem shape29 (g : BitVec 5) (x0 : BitVec 7) (x1 : BitVec 5) (x2 : BitVec 5) (x3 : BitVec 6) (x4 : BitVec 4) :
    (g ++ x0 ++ x1 ++ x2 ++ x3 ++ x4 : W32).extractLsb' 27 5 = g :=
  (drop_right _ _ 23 rfl).trans <| (drop_right _ _ 17 rfl).trans <| (drop_right _ _ 12 rfl).trans <| (drop_right _ _ 7 rfl).trans <| (drop_right _ _ 0 rfl).trans <| all_bits g
theorem shape30 (g : BitVec 5) (x0 : BitVec 7) (x1 : BitVec 5) (x2 : BitVec 5) (x3 : BitVec 7) (x4 : BitVec 3) :
    (g ++ x0 ++ x1 ++ x2 ++ x3 ++ x4 : W32).extractLsb' 27 5 = g :=
  (drop_right _ _ 24 rfl).trans <| (drop_right _ _ 17 rfl).trans <| (drop_right _ _ 12 rfl).trans <| (drop_right _ _ 7 rfl).trans <| (drop_right _ _ 0 rfl).trans <| all_bits g
theorem shape31 (g : BitVec 5) (x0 : BitVec 7) (x1 : BitVec 2) (x2 : BitVec 3) (x3 : BitVec 2) (x4 : BitVec 3) (x5 : BitVec 2) (x6 : BitVec 3) (x7 : BitVec 5) :
    (g ++ x0 ++ x1 ++ x2 ++ x3 ++ x4 ++ x5 ++ x6 ++ x7 : W32).extractLsb' 27 5 = g :=
  (drop_right _ _ 22 rfl).trans <| (drop_right _ _ 19 rfl).trans <| (drop_right _ _ 17 rfl).trans <| (drop_right _ _ 14 rfl).trans <| (drop_right _ _ 12 rfl).trans <| (drop_right _ _ 9 rfl).trans <| (drop_right _ _ 7 rfl).trans <| (drop_right _ _ 0 rfl).trans <| all_bits g
theorem shape32 (g : BitVec 5) (x0 : BitVec 7) (x1 : BitVec 2) (x2 : BitVec 3) (x3 : BitVec 5) (x4 : BitVec 8) (x5 : BitVec 2) :
    (g ++ x0 ++ x1 ++ x2 ++ x3 ++ x4 ++ x5 : W32).extractLsb' 27 5 = g :=
  (drop_right _ _ 25 rfl).trans <| (drop_right _ _ 17 rfl).trans <| (drop_right _ _ 12 rfl).trans <| (drop_right _ _ 9 rfl).trans <| (drop_right _ _ 7 rfl).trans <| (drop_right _ _ 0 rfl).trans <| all_bits g
theorem shape33 (g : BitVec 5) (x0 : BitVec 7) (x1 : BitVec 5) (x2 : BitVec 2) (x3 : BitVec 3) (x4 : BitVec 10) :
    (g ++ x0 ++ x1 ++ x2 ++ x3 ++ x4 : W32).extractLsb' 27 5 = g :=
  (drop_right _ _ 17 rfl).trans <| (drop_right _ _ 14 rfl).trans <| (drop_right _ _ 12 rfl).trans <| (drop_right _ _ 7 rfl).trans <| (drop_right _ _ 0 rfl).trans <| all_bits g
theorem shape34 (g : BitVec 5) (x0 : BitVec 7) (x1 : BitVec 12) (x2 : BitVec 4) (x3 : BitVec 4) :
    (g ++ x0 ++ x1 ++ x2 ++ x3 : W32).extractLsb' 27 5 = g :=
  (drop_right _ _ 23 rfl).trans <| (drop_right _ _ 19 rfl).trans <| (drop_right _ _ 7 rfl).trans <| (drop_right _ _ 0 rfl).trans <| all_bits g
theorem shape35 (g : BitVec 5) (x0 : BitVec 7) (x1 : BitVec 3) (x2 : BitVec 6) (x3 : BitVec 10) (x4 : BitVec 1) :
    (g ++ x0 ++ x1 ++ x2 ++ x3 ++ x4 : W32).extractLsb' 27 5 = g :=
  (drop_right _ _ 26 rfl).trans <| (drop_right _ _ 16 rfl).trans <| (drop_right _ _ 10 rfl).trans <| (drop_right _ _ 7 rfl).trans <| (drop_right _ _ 0 rfl).trans <| all_bits g
theorem shape36 (g : BitVec 5) (x0 : BitVec 7) (x1 : BitVec 3) (x2 : BitVec 6) (x3 : BitVec 3) (x4 : BitVec 1) (x5 : BitVec 7) :
    (g ++ x0 ++ x1 ++ x2 ++ x3 ++ x4 ++ x5 : W32).extractLsb' 27 5 = g :=
  (drop_right _ _ 20 rfl).trans <| (drop_right _ _ 19 rfl).trans <| (drop_right _ _ 16 rfl).trans <| (drop_right _ _ 10 rfl).trans <| (drop_right _ _ 7 rfl).trans <| (drop_right _ _ 0 rfl).trans <| all_bits g
theorem shape37 (g : BitVec 5) (x0 : BitVec 7) (x1 : BitVec 3) (x2 : BitVec 6) (x3 : BitVec 5) (x4 : BitVec 1) (x5 : BitVec 1) (x6 : BitVec 4) :
    (g ++ x0 ++ x1 ++ x2 ++ x3 ++ x4 ++ x5 ++ x6 : W32).extractLsb' 27 5 = g :=
  (drop_right _ _ 23 rfl).trans <| (drop_right _ _ 22 rfl).trans <| (drop_right _ _ 21 rfl).trans <| (drop_right _ _ 16 rfl).trans <| (drop_right _ _ 10 rfl).trans <| (drop_right _ _ 7 rfl).trans <| (drop_right _ _ 0 rfl).trans <| all_bits g
theorem shape38 (g : BitVec 5) (x0 : BitVec 7) (x1 : BitVec 3) (x2 : BitVec 17) :
    (g ++ x0 ++ x1 ++ x2 : W32).extractLsb' 27 5 = g :=
  (drop_right _ _ 10 rfl).trans <| (drop_right _ _ 7 rfl).trans <| (drop_right _ _ 0 rfl).trans <| all_bits g
theorem shape39 (g : BitVec 5) (x0 : BitVec 7) (x1 : BitVec 3) (x2 : BitVec 16) (x3 : BitVec 1) :
    (g ++ x0 ++ x1 ++ x2 ++ x3 : W32).extractLsb' 27 5 = g :=
  (drop_right _ _ 26 rfl).trans <| (drop_right _ _ 10 rfl).trans <| (drop_right _ _ 7 rfl).trans <| (drop_right _ _ 0 rfl).trans <| all_bits g
theorem shape40 (g : BitVec 5) (x0 : BitVec 7) (x1 : BitVec 3) (x2 : BitVec 6) (x3 : BitVec 9) (x4 : BitVec 2) :
    (g ++ x0 ++ x1 ++ x2 ++ x3 ++ x4 : W32).extractLsb' 27 5 = g :=
  (drop_right _ _ 25 rfl).trans <| (drop_right _ _ 16 rfl).trans <| (drop_right _ _ 10 rfl).trans <| (drop_right _ _ 7 rfl).trans <| (drop_right _ _ 0 rfl).trans <| all_bits g
theorem shape41 (g : BitVec 5) (x0 : BitVec 7) (x1 : BitVec 3) (x2 : BitVec 6) (x3 : BitVec 11) :
    (g ++ x0 ++ x1 ++ x2 ++ x3 : W32).extractLsb' 27 5 = g :=
  (drop_right _ _ 16 rfl).trans <| (drop_right _ _ 10 rfl).trans <| (drop_right _ _ 7 rfl).trans <| (drop_right _ _ 0 rfl).trans <| all_bits g
theorem shape42 (g : BitVec 5) (x0 : BitVec 7) (x1 : BitVec 11) (x2 : BitVec 1) (x3 : BitVec 8) :
    (g ++ x0 ++ x1 ++ x2 ++ x3 : W32).extractLsb' 27 5 = g :=
  (drop_right _ _ 19 rfl).trans <| (drop_right _ _ 18 rfl).trans <| (drop_right _ _ 7 rfl).trans <| (drop_right _ _ 0 rfl).trans <| all_bits g
theorem add (d : BitVec 6) (a : BitVec 6) (b : BitVec 6) (m : BitVec 2) : Statement (.add d a b m) := by
  intro g w h; cases h; exact shape0 ..
theorem sub (d : BitVec 6) (a : BitVec 6) (b : BitVec 6) (m : BitVec 2) : Statement (.sub d a b m) := by
  intro g w h; cases h; exact shape0 ..
theorem mul (d : BitVec 6) (a : BitVec 6) (b : BitVec 6) (m : BitVec 2) : Statement (.mul d a b m) := by
  intro g w h; cases h; exact shape0 ..
theorem mulhs (d : BitVec 6) (a : BitVec 6) (b : BitVec 6) (m : BitVec 2) : Statement (.mulhs d a b m) := by
  intro g w h; cases h; exact shape0 ..
theorem mulhu (d : BitVec 6) (a : BitVec 6) (b : BitVec 6) (m : BitVec 2) : Statement (.mulhu d a b m) := by
  intro g w h; cases h; exact shape0 ..
theorem and (d : BitVec 6) (a : BitVec 6) (b : BitVec 6) (m : BitVec 2) : Statement (.and d a b m) := by
  intro g w h; cases h; exact shape0 ..
theorem or (d : BitVec 6) (a : BitVec 6) (b : BitVec 6) (m : BitVec 2) : Statement (.or d a b m) := by
  intro g w h; cases h; exact shape0 ..
theorem xor (d : BitVec 6) (a : BitVec 6) (b : BitVec 6) (m : BitVec 2) : Statement (.xor d a b m) := by
  intro g w h; cases h; exact shape0 ..
theorem andn (d : BitVec 6) (a : BitVec 6) (b : BitVec 6) (m : BitVec 2) : Statement (.andn d a b m) := by
  intro g w h; cases h; exact shape0 ..
theorem orn (d : BitVec 6) (a : BitVec 6) (b : BitVec 6) (m : BitVec 2) : Statement (.orn d a b m) := by
  intro g w h; cases h; exact shape0 ..
theorem shl (d : BitVec 6) (a : BitVec 6) (b : BitVec 6) (m : BitVec 2) : Statement (.shl d a b m) := by
  intro g w h; cases h; exact shape0 ..
theorem shrl (d : BitVec 6) (a : BitVec 6) (b : BitVec 6) (m : BitVec 2) : Statement (.shrl d a b m) := by
  intro g w h; cases h; exact shape0 ..
theorem shra (d : BitVec 6) (a : BitVec 6) (b : BitVec 6) (m : BitVec 2) : Statement (.shra d a b m) := by
  intro g w h; cases h; exact shape0 ..
theorem rotl (d : BitVec 6) (a : BitVec 6) (b : BitVec 6) (m : BitVec 2) : Statement (.rotl d a b m) := by
  intro g w h; cases h; exact shape0 ..
theorem min (d : BitVec 6) (a : BitVec 6) (b : BitVec 6) (m : BitVec 2) : Statement (.min d a b m) := by
  intro g w h; cases h; exact shape0 ..
theorem max (d : BitVec 6) (a : BitVec 6) (b : BitVec 6) (m : BitVec 2) : Statement (.max d a b m) := by
  intro g w h; cases h; exact shape0 ..
theorem minu (d : BitVec 6) (a : BitVec 6) (b : BitVec 6) (m : BitVec 2) : Statement (.minu d a b m) := by
  intro g w h; cases h; exact shape0 ..
theorem maxu (d : BitVec 6) (a : BitVec 6) (b : BitVec 6) (m : BitVec 2) : Statement (.maxu d a b m) := by
  intro g w h; cases h; exact shape0 ..
theorem clz (d : BitVec 6) (a : BitVec 6) (m : BitVec 2) : Statement (.clz d a m) := by
  intro g w h; cases h; exact shape0 ..
theorem ctz (d : BitVec 6) (a : BitVec 6) (m : BitVec 2) : Statement (.ctz d a m) := by
  intro g w h; cases h; exact shape0 ..
theorem popc (d : BitVec 6) (a : BitVec 6) (m : BitVec 2) : Statement (.popc d a m) := by
  intro g w h; cases h; exact shape0 ..
theorem bswap (d : BitVec 6) (a : BitVec 6) (m : BitVec 2) : Statement (.bswap d a m) := by
  intro g w h; cases h; exact shape0 ..
theorem extz (d : BitVec 6) (a : BitVec 6) (b : BitVec 6) : Statement (.extz d a b) := by
  intro g w h; cases h; exact shape0 ..
theorem exts (d : BitVec 6) (a : BitVec 6) (b : BitVec 6) : Statement (.exts d a b) := by
  intro g w h; cases h; exact shape0 ..
theorem ins (d : BitVec 6) (a : BitVec 6) (b : BitVec 6) : Statement (.ins d a b) := by
  intro g w h; cases h; exact shape0 ..
theorem addi (d : BitVec 6) (a : BitVec 6) (i : BitVec 8) : Statement (.addi d a i) := by
  intro g w h; cases h; exact shape1 ..
theorem andi (d : BitVec 6) (a : BitVec 6) (i : BitVec 8) : Statement (.andi d a i) := by
  intro g w h; cases h; exact shape1 ..
theorem ori (d : BitVec 6) (a : BitVec 6) (i : BitVec 8) : Statement (.ori d a i) := by
  intro g w h; cases h; exact shape1 ..
theorem xori (d : BitVec 6) (a : BitVec 6) (i : BitVec 8) : Statement (.xori d a i) := by
  intro g w h; cases h; exact shape1 ..
theorem shli (d : BitVec 6) (a : BitVec 6) (i : BitVec 6) : Statement (.shli d a i) := by
  intro g w h; cases h; exact shape2 ..
theorem shrli (d : BitVec 6) (a : BitVec 6) (i : BitVec 6) : Statement (.shrli d a i) := by
  intro g w h; cases h; exact shape2 ..
theorem shrai (d : BitVec 6) (a : BitVec 6) (i : BitVec 6) : Statement (.shrai d a i) := by
  intro g w h; cases h; exact shape2 ..
theorem ldi (d : BitVec 6) (i : BitVec 14) : Statement (.ldi d i) := by
  intro g w h; cases h; exact shape3 ..
theorem ldis (d : BitVec 6) (i : BitVec 14) : Statement (.ldis d i) := by
  intro g w h; cases h; exact shape3 ..
theorem cmpEq (k : BitVec 4) (a : BitVec 6) (b : BitVec 6) : Statement (.cmpEq k a b) := by
  intro g w h; cases h; exact shape4 ..
theorem cmpNe (k : BitVec 4) (a : BitVec 6) (b : BitVec 6) : Statement (.cmpNe k a b) := by
  intro g w h; cases h; exact shape4 ..
theorem cmpLt (k : BitVec 4) (a : BitVec 6) (b : BitVec 6) : Statement (.cmpLt k a b) := by
  intro g w h; cases h; exact shape4 ..
theorem cmpLe (k : BitVec 4) (a : BitVec 6) (b : BitVec 6) : Statement (.cmpLe k a b) := by
  intro g w h; cases h; exact shape4 ..
theorem cmpGt (k : BitVec 4) (a : BitVec 6) (b : BitVec 6) : Statement (.cmpGt k a b) := by
  intro g w h; cases h; exact shape4 ..
theorem cmpGe (k : BitVec 4) (a : BitVec 6) (b : BitVec 6) : Statement (.cmpGe k a b) := by
  intro g w h; cases h; exact shape4 ..
theorem cmpLtu (k : BitVec 4) (a : BitVec 6) (b : BitVec 6) : Statement (.cmpLtu k a b) := by
  intro g w h; cases h; exact shape4 ..
theorem cmpLeu (k : BitVec 4) (a : BitVec 6) (b : BitVec 6) : Statement (.cmpLeu k a b) := by
  intro g w h; cases h; exact shape4 ..
theorem cmpGtu (k : BitVec 4) (a : BitVec 6) (b : BitVec 6) : Statement (.cmpGtu k a b) := by
  intro g w h; cases h; exact shape4 ..
theorem cmpGeu (k : BitVec 4) (a : BitVec 6) (b : BitVec 6) : Statement (.cmpGeu k a b) := by
  intro g w h; cases h; exact shape4 ..
theorem pand (k : BitVec 4) (a : BitVec 5) (b : BitVec 5) : Statement (.pand k a b) := by
  intro g w h; cases h; exact shape5 ..
theorem por (k : BitVec 4) (a : BitVec 5) (b : BitVec 5) : Statement (.por k a b) := by
  intro g w h; cases h; exact shape5 ..
theorem pxor (k : BitVec 4) (a : BitVec 5) (b : BitVec 5) : Statement (.pxor k a b) := by
  intro g w h; cases h; exact shape5 ..
theorem pandn (k : BitVec 4) (a : BitVec 5) (b : BitVec 5) : Statement (.pandn k a b) := by
  intro g w h; cases h; exact shape5 ..
theorem cmpiEq (k : BitVec 4) (a : BitVec 6) (i : BitVec 8) : Statement (.cmpiEq k a i) := by
  intro g w h; cases h; exact shape6 ..
theorem cmpiNe (k : BitVec 4) (a : BitVec 6) (i : BitVec 8) : Statement (.cmpiNe k a i) := by
  intro g w h; cases h; exact shape6 ..
theorem cmpiLt (k : BitVec 4) (a : BitVec 6) (i : BitVec 8) : Statement (.cmpiLt k a i) := by
  intro g w h; cases h; exact shape6 ..
theorem cmpiLe (k : BitVec 4) (a : BitVec 6) (i : BitVec 8) : Statement (.cmpiLe k a i) := by
  intro g w h; cases h; exact shape6 ..
theorem cmpiGt (k : BitVec 4) (a : BitVec 6) (i : BitVec 8) : Statement (.cmpiGt k a i) := by
  intro g w h; cases h; exact shape6 ..
theorem cmpiGe (k : BitVec 4) (a : BitVec 6) (i : BitVec 8) : Statement (.cmpiGe k a i) := by
  intro g w h; cases h; exact shape6 ..
theorem cmpiLtu (k : BitVec 4) (a : BitVec 6) (i : BitVec 8) : Statement (.cmpiLtu k a i) := by
  intro g w h; cases h; exact shape6 ..
theorem cmpiLeu (k : BitVec 4) (a : BitVec 6) (i : BitVec 8) : Statement (.cmpiLeu k a i) := by
  intro g w h; cases h; exact shape6 ..
theorem cmpiGtu (k : BitVec 4) (a : BitVec 6) (i : BitVec 8) : Statement (.cmpiGtu k a i) := by
  intro g w h; cases h; exact shape6 ..
theorem cmpiGeu (k : BitVec 4) (a : BitVec 6) (i : BitVec 8) : Statement (.cmpiGeu k a i) := by
  intro g w h; cases h; exact shape6 ..
theorem br (i : BitVec 20) : Statement (.br i) := by
  intro g w h; cases h; exact shape7 ..
theorem call (i : BitVec 20) : Statement (.call i) := by
  intro g w h; cases h; exact shape7 ..
theorem brx (a : BitVec 6) : Statement (.brx a) := by
  intro g w h; cases h; exact shape1 ..
theorem callx (a : BitVec 6) : Statement (.callx a) := by
  intro g w h; cases h; exact shape1 ..
theorem loop (a : BitVec 6) (n : BitVec 5) : Statement (.loop a n) := by
  intro g w h; cases h; exact shape8 ..
theorem brloop (i : BitVec 20) : Statement (.brloop i) := by
  intro g w h; cases h; exact shape7 ..
theorem trap (i : BitVec 14) : Statement (.trap i) := by
  intro g w h; cases h; exact shape3 ..
theorem waitt (a : BitVec 6) : Statement (.waitt a) := by
  intro g w h; cases h; exact shape1 ..
theorem waitev (a : BitVec 6) : Statement (.waitev a) := by
  intro g w h; cases h; exact shape1 ..
theorem bkpt (i : BitVec 14) : Statement (.bkpt i) := by
  intro g w h; cases h; exact shape3 ..
theorem xlt (d : BitVec 6) (a : BitVec 6) (b : BitVec 6) : Statement (.xlt d a b) := by
  intro g w h; cases h; exact shape0 ..
theorem xwait (m : BitVec 6) : Statement (.xwait m) := by
  intro g w h; cases h; exact shape9 ..
theorem xpoll (k : BitVec 4) (e : BitVec 8) : Statement (.xpoll k e) := by
  intro g w h; cases h; exact shape10 ..
theorem csrr (d : BitVec 6) (c : BitVec 12) : Statement (.csrr d c) := by
  intro g w h; cases h; exact shape11 ..
theorem csrw (d : BitVec 6) (c : BitVec 12) : Statement (.csrw d c) := by
  intro g w h; cases h; exact shape11 ..
theorem csrs (d : BitVec 6) (c : BitVec 12) : Statement (.csrs d c) := by
  intro g w h; cases h; exact shape11 ..
theorem csrc (d : BitVec 6) (c : BitVec 12) : Statement (.csrc d c) := by
  intro g w h; cases h; exact shape11 ..
theorem rdtime (d : BitVec 6) : Statement (.rdtime d) := by
  intro g w h; cases h; exact shape3 ..
theorem rdcyc (d : BitVec 6) : Statement (.rdcyc d) := by
  intro g w h; cases h; exact shape3 ..
theorem ctrstart (n : BitVec 4) : Statement (.ctrstart n) := by
  intro g w h; cases h; exact shape12 ..
theorem ctrstop (n : BitVec 4) : Statement (.ctrstop n) := by
  intro g w h; cases h; exact shape12 ..
theorem tmark (a : BitVec 6) (i : BitVec 8) : Statement (.tmark a i) := by
  intro g w h; cases h; exact shape1 ..
theorem powreq (u : BitVec 14) : Statement (.powreq u) := by
  intro g w h; cases h; exact shape3 ..
theorem powrel (u : BitVec 14) : Statement (.powrel u) := by
  intro g w h; cases h; exact shape3 ..
theorem mvpq (c : BitVec 3) (q : BitVec 3) (a : BitVec 6) : Statement (.mvpq c q a) := by
  intro g w h; cases h; exact shape13 ..
theorem mvqp (d : BitVec 6) (c : BitVec 3) (q : BitVec 3) : Statement (.mvqp d c q) := by
  intro g w h; cases h; exact shape14 ..
theorem ld (d : BitVec 6) (a : BitVec 6) (o : BitVec 3) (z : BitVec 2) (f : BitVec 3) : Statement (.ld d a o z f) := by
  intro g w h; cases h; exact shape15 ..
theorem ldz (d : BitVec 6) (a : BitVec 6) (o : BitVec 3) (z : BitVec 2) (f : BitVec 3) : Statement (.ldz d a o z f) := by
  intro g w h; cases h; exact shape15 ..
theorem st (d : BitVec 6) (a : BitVec 6) (o : BitVec 3) (z : BitVec 2) (f : BitVec 3) : Statement (.st d a o z f) := by
  intro g w h; cases h; exact shape15 ..
theorem vld (v : BitVec 5) (a : BitVec 6) (o : BitVec 3) (x : BitVec 5) : Statement (.vld v a o x) := by
  intro g w h; cases h; exact shape16 ..
theorem vldSequenced (v : BitVec 5) (s : BitVec 4) (o : BitVec 3) : Statement (.vldSequenced v s o) := by
  intro g w h; cases h; exact shape17 ..
theorem vst (v : BitVec 5) (a : BitVec 6) (o : BitVec 3) (x : BitVec 5) : Statement (.vst v a o x) := by
  intro g w h; cases h; exact shape16 ..
theorem vldc (v : BitVec 5) (a : BitVec 6) (o : BitVec 3) (c : BitVec 3) (f : BitVec 2) : Statement (.vldc v a o c f) := by
  intro g w h; cases h; exact shape18 ..
theorem vstc (v : BitVec 5) (a : BitVec 6) (o : BitVec 3) (c : BitVec 3) (f : BitVec 2) : Statement (.vstc v a o c f) := by
  intro g w h; cases h; exact shape18 ..
theorem vldq (v : BitVec 5) (a : BitVec 6) (o : BitVec 3) (q : BitVec 3) (f : BitVec 2) : Statement (.vldq v a o q f) := by
  intro g w h; cases h; exact shape18 ..
theorem vstq (v : BitVec 5) (a : BitVec 6) (o : BitVec 3) (q : BitVec 3) (f : BitVec 2) : Statement (.vstq v a o q f) := by
  intro g w h; cases h; exact shape18 ..
theorem lds (d : BitVec 6) (a : BitVec 6) (o : BitVec 3) (z : BitVec 2) (f : BitVec 3) : Statement (.lds d a o z f) := by
  intro g w h; cases h; exact shape15 ..
theorem ldse (d : BitVec 6) (a : BitVec 6) (o : BitVec 3) (z : BitVec 2) (f : BitVec 3) : Statement (.ldse d a o z f) := by
  intro g w h; cases h; exact shape15 ..
theorem stf (d : BitVec 6) (a : BitVec 6) (o : BitVec 3) (z : BitVec 2) (f : BitVec 3) : Statement (.stf d a o z f) := by
  intro g w h; cases h; exact shape15 ..
theorem sete (a : BitVec 6) (o : BitVec 3) (f : BitVec 3) : Statement (.sete a o f) := by
  intro g w h; cases h; exact shape15 ..
theorem amoadd (d : BitVec 6) (a : BitVec 6) (o : BitVec 3) (z : BitVec 1) (f : BitVec 3) : Statement (.amoadd d a o z f) := by
  intro g w h; cases h; exact shape19 ..
theorem amomin (d : BitVec 6) (a : BitVec 6) (o : BitVec 3) (z : BitVec 1) (f : BitVec 3) : Statement (.amomin d a o z f) := by
  intro g w h; cases h; exact shape19 ..
theorem amomax (d : BitVec 6) (a : BitVec 6) (o : BitVec 3) (z : BitVec 1) (f : BitVec 3) : Statement (.amomax d a o z f) := by
  intro g w h; cases h; exact shape19 ..
theorem amoand (d : BitVec 6) (a : BitVec 6) (o : BitVec 3) (z : BitVec 1) (f : BitVec 3) : Statement (.amoand d a o z f) := by
  intro g w h; cases h; exact shape19 ..
theorem amoor (d : BitVec 6) (a : BitVec 6) (o : BitVec 3) (z : BitVec 1) (f : BitVec 3) : Statement (.amoor d a o z f) := by
  intro g w h; cases h; exact shape19 ..
theorem amoxor (d : BitVec 6) (a : BitVec 6) (o : BitVec 3) (z : BitVec 1) (f : BitVec 3) : Statement (.amoxor d a o z f) := by
  intro g w h; cases h; exact shape19 ..
theorem amoswap (d : BitVec 6) (a : BitVec 6) (o : BitVec 3) (z : BitVec 1) (f : BitVec 3) : Statement (.amoswap d a o z f) := by
  intro g w h; cases h; exact shape19 ..
theorem amocas (d : BitVec 5) (a : BitVec 6) (o : BitVec 3) (z : BitVec 1) (f : BitVec 3) : Statement (.amocas d a o z f) := by
  intro g w h; cases h; exact shape20 ..
theorem ldF (d : BitVec 6) (a : BitVec 6) (o : BitVec 3) (z : BitVec 2) (f : BitVec 3) : Statement (.ldF d a o z f) := by
  intro g w h; cases h; exact shape15 ..
theorem stF (d : BitVec 6) (a : BitVec 6) (o : BitVec 3) (z : BitVec 2) (f : BitVec 3) : Statement (.stF d a o z f) := by
  intro g w h; cases h; exact shape15 ..
theorem vldF (v : BitVec 5) (a : BitVec 6) (o : BitVec 3) (x : BitVec 5) : Statement (.vldF v a o x) := by
  intro g w h; cases h; exact shape16 ..
theorem vstF (v : BitVec 5) (a : BitVec 6) (o : BitVec 3) (x : BitVec 5) : Statement (.vstF v a o x) := by
  intro g w h; cases h; exact shape16 ..
theorem amoaddF (d : BitVec 6) (a : BitVec 6) (o : BitVec 3) (z : BitVec 1) (f : BitVec 3) : Statement (.amoaddF d a o z f) := by
  intro g w h; cases h; exact shape19 ..
theorem amominF (d : BitVec 6) (a : BitVec 6) (o : BitVec 3) (z : BitVec 1) (f : BitVec 3) : Statement (.amominF d a o z f) := by
  intro g w h; cases h; exact shape19 ..
theorem amomaxF (d : BitVec 6) (a : BitVec 6) (o : BitVec 3) (z : BitVec 1) (f : BitVec 3) : Statement (.amomaxF d a o z f) := by
  intro g w h; cases h; exact shape19 ..
theorem amoandF (d : BitVec 6) (a : BitVec 6) (o : BitVec 3) (z : BitVec 1) (f : BitVec 3) : Statement (.amoandF d a o z f) := by
  intro g w h; cases h; exact shape19 ..
theorem amoorF (d : BitVec 6) (a : BitVec 6) (o : BitVec 3) (z : BitVec 1) (f : BitVec 3) : Statement (.amoorF d a o z f) := by
  intro g w h; cases h; exact shape19 ..
theorem amoxorF (d : BitVec 6) (a : BitVec 6) (o : BitVec 3) (z : BitVec 1) (f : BitVec 3) : Statement (.amoxorF d a o z f) := by
  intro g w h; cases h; exact shape19 ..
theorem amoswapF (d : BitVec 6) (a : BitVec 6) (o : BitVec 3) (z : BitVec 1) (f : BitVec 3) : Statement (.amoswapF d a o z f) := by
  intro g w h; cases h; exact shape19 ..
theorem amocasF (d : BitVec 5) (a : BitVec 6) (o : BitVec 3) (z : BitVec 1) (f : BitVec 3) : Statement (.amocasF d a o z f) := by
  intro g w h; cases h; exact shape20 ..
theorem ldFs (d : BitVec 6) (a : BitVec 6) (o : BitVec 3) (z : BitVec 2) (f : BitVec 3) : Statement (.ldFs d a o z f) := by
  intro g w h; cases h; exact shape15 ..
theorem stFs (d : BitVec 6) (a : BitVec 6) (o : BitVec 3) (z : BitVec 2) (f : BitVec 3) : Statement (.stFs d a o z f) := by
  intro g w h; cases h; exact shape15 ..
theorem vldFs (v : BitVec 5) (a : BitVec 6) (o : BitVec 3) (x : BitVec 5) : Statement (.vldFs v a o x) := by
  intro g w h; cases h; exact shape16 ..
theorem vstFs (v : BitVec 5) (a : BitVec 6) (o : BitVec 3) (x : BitVec 5) : Statement (.vstFs v a o x) := by
  intro g w h; cases h; exact shape16 ..
theorem amoaddFs (d : BitVec 6) (a : BitVec 6) (o : BitVec 3) (z : BitVec 1) (f : BitVec 3) : Statement (.amoaddFs d a o z f) := by
  intro g w h; cases h; exact shape19 ..
theorem amominFs (d : BitVec 6) (a : BitVec 6) (o : BitVec 3) (z : BitVec 1) (f : BitVec 3) : Statement (.amominFs d a o z f) := by
  intro g w h; cases h; exact shape19 ..
theorem amomaxFs (d : BitVec 6) (a : BitVec 6) (o : BitVec 3) (z : BitVec 1) (f : BitVec 3) : Statement (.amomaxFs d a o z f) := by
  intro g w h; cases h; exact shape19 ..
theorem amoandFs (d : BitVec 6) (a : BitVec 6) (o : BitVec 3) (z : BitVec 1) (f : BitVec 3) : Statement (.amoandFs d a o z f) := by
  intro g w h; cases h; exact shape19 ..
theorem amoorFs (d : BitVec 6) (a : BitVec 6) (o : BitVec 3) (z : BitVec 1) (f : BitVec 3) : Statement (.amoorFs d a o z f) := by
  intro g w h; cases h; exact shape19 ..
theorem amoxorFs (d : BitVec 6) (a : BitVec 6) (o : BitVec 3) (z : BitVec 1) (f : BitVec 3) : Statement (.amoxorFs d a o z f) := by
  intro g w h; cases h; exact shape19 ..
theorem amoswapFs (d : BitVec 6) (a : BitVec 6) (o : BitVec 3) (z : BitVec 1) (f : BitVec 3) : Statement (.amoswapFs d a o z f) := by
  intro g w h; cases h; exact shape19 ..
theorem amocasFs (d : BitVec 5) (a : BitVec 6) (o : BitVec 3) (z : BitVec 1) (f : BitVec 3) : Statement (.amocasFs d a o z f) := by
  intro g w h; cases h; exact shape20 ..
theorem fence (m : BitVec 8) (s : BitVec 3) : Statement (.fence m s) := by
  intro g w h; cases h; exact shape21 ..
theorem semit (p : BitVec 4) (a : BitVec 6) (b : BitVec 6) : Statement (.semit p a b) := by
  intro g w h; cases h; exact shape22 ..
theorem sfree (t : BitVec 4) (a : BitVec 6) : Statement (.sfree t a) := by
  intro g w h; cases h; exact shape23 ..
theorem sstat (d : BitVec 6) (n : BitVec 4) (x : BitVec 1) : Statement (.sstat d n x) := by
  intro g w h; cases h; exact shape24 ..
theorem rot (d : BitVec 6) (a : BitVec 6) (b : BitVec 6) : Statement (.rot d a b) := by
  intro g w h; cases h; exact shape0 ..
theorem ldred (a : BitVec 6) (b : BitVec 6) : Statement (.ldred a b) := by
  intro g w h; cases h; exact shape0 ..
theorem stmc (d : BitVec 6) (a : BitVec 6) (b : BitVec 6) : Statement (.stmc d a b) := by
  intro g w h; cases h; exact shape0 ..
theorem arrive (a : BitVec 6) : Statement (.arrive a) := by
  intro g w h; cases h; exact shape1 ..
theorem arrivex (a : BitVec 6) (b : BitVec 6) : Statement (.arrivex a b) := by
  intro g w h; cases h; exact shape0 ..
theorem bwait (a : BitVec 6) : Statement (.bwait a) := by
  intro g w h; cases h; exact shape1 ..
theorem signal (a : BitVec 6) (b : BitVec 6) : Statement (.signal a b) := by
  intro g w h; cases h; exact shape0 ..
theorem swait (a : BitVec 6) (b : BitVec 6) : Statement (.swait a b) := by
  intro g w h; cases h; exact shape0 ..
theorem binit (a : BitVec 6) (b : BitVec 6) : Statement (.binit a b) := by
  intro g w h; cases h; exact shape0 ..
theorem fadd (d : BitVec 5) (a : BitVec 5) (b : BitVec 5) (q : BitVec 3) (t : BitVec 2) : Statement (.fadd d a b q t) := by
  intro g w h; cases h; exact shape25 ..
theorem fsub (d : BitVec 5) (a : BitVec 5) (b : BitVec 5) (q : BitVec 3) (t : BitVec 2) : Statement (.fsub d a b q t) := by
  intro g w h; cases h; exact shape25 ..
theorem fmul (d : BitVec 5) (a : BitVec 5) (b : BitVec 5) (q : BitVec 3) (t : BitVec 2) : Statement (.fmul d a b q t) := by
  intro g w h; cases h; exact shape25 ..
theorem fma (d : BitVec 5) (a : BitVec 5) (b : BitVec 5) (q : BitVec 3) (t : BitVec 2) : Statement (.fma d a b q t) := by
  intro g w h; cases h; exact shape25 ..
theorem fms (d : BitVec 5) (a : BitVec 5) (b : BitVec 5) (q : BitVec 3) (t : BitVec 2) : Statement (.fms d a b q t) := by
  intro g w h; cases h; exact shape25 ..
theorem fnma (d : BitVec 5) (a : BitVec 5) (b : BitVec 5) (q : BitVec 3) (t : BitVec 2) : Statement (.fnma d a b q t) := by
  intro g w h; cases h; exact shape25 ..
theorem fnms (d : BitVec 5) (a : BitVec 5) (b : BitVec 5) (q : BitVec 3) (t : BitVec 2) : Statement (.fnms d a b q t) := by
  intro g w h; cases h; exact shape25 ..
theorem fmin (d : BitVec 5) (a : BitVec 5) (b : BitVec 5) (q : BitVec 3) (t : BitVec 2) : Statement (.fmin d a b q t) := by
  intro g w h; cases h; exact shape25 ..
theorem fmax (d : BitVec 5) (a : BitVec 5) (b : BitVec 5) (q : BitVec 3) (t : BitVec 2) : Statement (.fmax d a b q t) := by
  intro g w h; cases h; exact shape25 ..
theorem fabs (d : BitVec 5) (a : BitVec 5) (q : BitVec 3) (t : BitVec 2) : Statement (.fabs d a q t) := by
  intro g w h; cases h; exact shape25 ..
theorem fneg (d : BitVec 5) (a : BitVec 5) (q : BitVec 3) (t : BitVec 2) : Statement (.fneg d a q t) := by
  intro g w h; cases h; exact shape25 ..
theorem frnd (d : BitVec 5) (a : BitVec 5) (q : BitVec 3) (t : BitVec 2) : Statement (.frnd d a q t) := by
  intro g w h; cases h; exact shape25 ..
theorem fclass (d : BitVec 5) (a : BitVec 5) (q : BitVec 3) (t : BitVec 2) : Statement (.fclass d a q t) := by
  intro g w h; cases h; exact shape25 ..
theorem fcmpeq (d : BitVec 5) (a : BitVec 5) (n : BitVec 3) (q : BitVec 3) (t : BitVec 2) : Statement (.fcmpeq d a n q t) := by
  intro g w h; cases h; exact shape26 ..
theorem fcmpne (d : BitVec 5) (a : BitVec 5) (n : BitVec 3) (q : BitVec 3) (t : BitVec 2) : Statement (.fcmpne d a n q t) := by
  intro g w h; cases h; exact shape26 ..
theorem fcmplt (d : BitVec 5) (a : BitVec 5) (n : BitVec 3) (q : BitVec 3) (t : BitVec 2) : Statement (.fcmplt d a n q t) := by
  intro g w h; cases h; exact shape26 ..
theorem fcmple (d : BitVec 5) (a : BitVec 5) (n : BitVec 3) (q : BitVec 3) (t : BitVec 2) : Statement (.fcmple d a n q t) := by
  intro g w h; cases h; exact shape26 ..
theorem fcmpun (d : BitVec 5) (a : BitVec 5) (n : BitVec 3) (q : BitVec 3) (t : BitVec 2) : Statement (.fcmpun d a n q t) := by
  intro g w h; cases h; exact shape26 ..
theorem iadd (d : BitVec 5) (a : BitVec 5) (b : BitVec 5) (q : BitVec 3) (t : BitVec 2) : Statement (.iadd d a b q t) := by
  intro g w h; cases h; exact shape25 ..
theorem isub (d : BitVec 5) (a : BitVec 5) (b : BitVec 5) (q : BitVec 3) (t : BitVec 2) : Statement (.isub d a b q t) := by
  intro g w h; cases h; exact shape25 ..
theorem imul (d : BitVec 5) (a : BitVec 5) (b : BitVec 5) (q : BitVec 3) (t : BitVec 2) : Statement (.imul d a b q t) := by
  intro g w h; cases h; exact shape25 ..
theorem imulh (d : BitVec 5) (a : BitVec 5) (b : BitVec 5) (q : BitVec 3) (t : BitVec 2) : Statement (.imulh d a b q t) := by
  intro g w h; cases h; exact shape25 ..
theorem imad (d : BitVec 5) (a : BitVec 5) (b : BitVec 5) (q : BitVec 3) (t : BitVec 2) : Statement (.imad d a b q t) := by
  intro g w h; cases h; exact shape25 ..
theorem imin (d : BitVec 5) (a : BitVec 5) (b : BitVec 5) (q : BitVec 3) (t : BitVec 2) : Statement (.imin d a b q t) := by
  intro g w h; cases h; exact shape25 ..
theorem imax (d : BitVec 5) (a : BitVec 5) (b : BitVec 5) (q : BitVec 3) (t : BitVec 2) : Statement (.imax d a b q t) := by
  intro g w h; cases h; exact shape25 ..
theorem iminu (d : BitVec 5) (a : BitVec 5) (b : BitVec 5) (q : BitVec 3) (t : BitVec 2) : Statement (.iminu d a b q t) := by
  intro g w h; cases h; exact shape25 ..
theorem imaxu (d : BitVec 5) (a : BitVec 5) (b : BitVec 5) (q : BitVec 3) (t : BitVec 2) : Statement (.imaxu d a b q t) := by
  intro g w h; cases h; exact shape25 ..
theorem iand (d : BitVec 5) (a : BitVec 5) (b : BitVec 5) (q : BitVec 3) (t : BitVec 2) : Statement (.iand d a b q t) := by
  intro g w h; cases h; exact shape25 ..
theorem ior (d : BitVec 5) (a : BitVec 5) (b : BitVec 5) (q : BitVec 3) (t : BitVec 2) : Statement (.ior d a b q t) := by
  intro g w h; cases h; exact shape25 ..
theorem ixor (d : BitVec 5) (a : BitVec 5) (b : BitVec 5) (q : BitVec 3) (t : BitVec 2) : Statement (.ixor d a b q t) := by
  intro g w h; cases h; exact shape25 ..
theorem ishl (d : BitVec 5) (a : BitVec 5) (b : BitVec 5) (q : BitVec 3) (t : BitVec 2) : Statement (.ishl d a b q t) := by
  intro g w h; cases h; exact shape25 ..
theorem ishrl (d : BitVec 5) (a : BitVec 5) (b : BitVec 5) (q : BitVec 3) (t : BitVec 2) : Statement (.ishrl d a b q t) := by
  intro g w h; cases h; exact shape25 ..
theorem ishra (d : BitVec 5) (a : BitVec 5) (b : BitVec 5) (q : BitVec 3) (t : BitVec 2) : Statement (.ishra d a b q t) := by
  intro g w h; cases h; exact shape25 ..
theorem iabs (d : BitVec 5) (a : BitVec 5) (q : BitVec 3) (t : BitVec 2) : Statement (.iabs d a q t) := by
  intro g w h; cases h; exact shape25 ..
theorem ipopc (d : BitVec 5) (a : BitVec 5) (q : BitVec 3) (t : BitVec 2) : Statement (.ipopc d a q t) := by
  intro g w h; cases h; exact shape25 ..
theorem iclz (d : BitVec 5) (a : BitVec 5) (q : BitVec 3) (t : BitVec 2) : Statement (.iclz d a q t) := by
  intro g w h; cases h; exact shape25 ..
theorem icmpeq (d : BitVec 5) (a : BitVec 5) (n : BitVec 3) (q : BitVec 3) (t : BitVec 2) : Statement (.icmpeq d a n q t) := by
  intro g w h; cases h; exact shape26 ..
theorem icmplt (d : BitVec 5) (a : BitVec 5) (n : BitVec 3) (q : BitVec 3) (t : BitVec 2) : Statement (.icmplt d a n q t) := by
  intro g w h; cases h; exact shape26 ..
theorem icmpltu (d : BitVec 5) (a : BitVec 5) (n : BitVec 3) (q : BitVec 3) (t : BitVec 2) : Statement (.icmpltu d a n q t) := by
  intro g w h; cases h; exact shape26 ..
theorem iadds (d : BitVec 5) (a : BitVec 5) (b : BitVec 5) (q : BitVec 3) (t : BitVec 2) : Statement (.iadds d a b q t) := by
  intro g w h; cases h; exact shape25 ..
theorem isubs (d : BitVec 5) (a : BitVec 5) (b : BitVec 5) (q : BitVec 3) (t : BitVec 2) : Statement (.isubs d a b q t) := by
  intro g w h; cases h; exact shape25 ..
theorem clmul (d : BitVec 5) (a : BitVec 5) (b : BitVec 5) (q : BitVec 3) (t : BitVec 2) : Statement (.clmul d a b q t) := by
  intro g w h; cases h; exact shape25 ..
theorem cvt (d : BitVec 5) (a : BitVec 5) (c : BitVec 5) (q : BitVec 3) : Statement (.cvt d a c q) := by
  intro g w h; cases h; exact shape25 ..
theorem packb (d : BitVec 5) (a : BitVec 5) (f : BitVec 5) (q : BitVec 3) : Statement (.packb d a f q) := by
  intro g w h; cases h; exact shape25 ..
theorem unpkb (d : BitVec 5) (a : BitVec 5) (f : BitVec 5) (q : BitVec 3) : Statement (.unpkb d a f q) := by
  intro g w h; cases h; exact shape25 ..
theorem cvtax (d : BitVec 5) (a : BitVec 5) (b : BitVec 5) (q : BitVec 3) : Statement (.cvtax d a b q) := by
  intro g w h; cases h; exact shape25 ..
theorem cvtxa (d : BitVec 5) (a : BitVec 5) (b : BitVec 5) (q : BitVec 3) : Statement (.cvtxa d a b q) := by
  intro g w h; cases h; exact shape25 ..
theorem mov (d : BitVec 5) (a : BitVec 5) (q : BitVec 3) : Statement (.mov d a q) := by
  intro g w h; cases h; exact shape25 ..
theorem movi (d : BitVec 5) (i : BitVec 10) : Statement (.movi d i) := by
  intro g w h; cases h; exact shape27 ..
theorem movs (d : BitVec 5) (s : BitVec 6) : Statement (.movs d s) := by
  intro g w h; cases h; exact shape28 ..
theorem mvls (a : BitVec 5) (s : BitVec 6) (l : BitVec 4) : Statement (.mvls a s l) := by
  intro g w h; cases h; exact shape29 ..
theorem sel (d : BitVec 5) (a : BitVec 5) (b : BitVec 5) (q : BitVec 3) (t : BitVec 2) : Statement (.sel d a b q t) := by
  intro g w h; cases h; exact shape25 ..
theorem xcl (d : BitVec 5) (a : BitVec 5) (q : BitVec 3) (t : BitVec 2) : Statement (.xcl d a q t) := by
  intro g w h; cases h; exact shape25 ..
theorem perm (d : BitVec 5) (a : BitVec 5) (b : BitVec 5) (q : BitVec 3) (t : BitVec 2) : Statement (.perm d a b q t) := by
  intro g w h; cases h; exact shape25 ..
theorem compress (d : BitVec 5) (a : BitVec 5) (n : BitVec 3) (q : BitVec 3) (t : BitVec 2) : Statement (.compress d a n q t) := by
  intro g w h; cases h; exact shape26 ..
theorem expand (d : BitVec 5) (a : BitVec 5) (q : BitVec 3) (t : BitVec 2) : Statement (.expand d a q t) := by
  intro g w h; cases h; exact shape25 ..
theorem rsum (d : BitVec 5) (a : BitVec 5) (q : BitVec 3) (t : BitVec 2) : Statement (.rsum d a q t) := by
  intro g w h; cases h; exact shape25 ..
theorem rmax (d : BitVec 5) (a : BitVec 5) (q : BitVec 3) (t : BitVec 2) : Statement (.rmax d a q t) := by
  intro g w h; cases h; exact shape25 ..
theorem rmin (d : BitVec 5) (a : BitVec 5) (q : BitVec 3) (t : BitVec 2) : Statement (.rmin d a q t) := by
  intro g w h; cases h; exact shape25 ..
theorem scan (d : BitVec 5) (a : BitVec 5) (q : BitVec 3) (t : BitVec 2) : Statement (.scan d a q t) := by
  intro g w h; cases h; exact shape25 ..
theorem xcopy (d : BitVec 5) (a : BitVec 5) (c : BitVec 3) : Statement (.xcopy d a c) := by
  intro g w h; cases h; exact shape30 ..
theorem xbcast (d : BitVec 5) (a : BitVec 5) (c : BitVec 3) : Statement (.xbcast d a c) := by
  intro g w h; cases h; exact shape30 ..
theorem lbcast (d : BitVec 5) (a : BitVec 5) (l : BitVec 4) : Statement (.lbcast d a l) := by
  intro g w h; cases h; exact shape29 ..
theorem qand (d : BitVec 3) (a : BitVec 3) (b : BitVec 3) : Statement (.qand d a b) := by
  intro g w h; cases h; exact shape31 ..
theorem qor (d : BitVec 3) (a : BitVec 3) (b : BitVec 3) : Statement (.qor d a b) := by
  intro g w h; cases h; exact shape31 ..
theorem qxor (d : BitVec 3) (a : BitVec 3) (b : BitVec 3) : Statement (.qxor d a b) := by
  intro g w h; cases h; exact shape31 ..
theorem qandn (d : BitVec 3) (a : BitVec 3) (b : BitVec 3) : Statement (.qandn d a b) := by
  intro g w h; cases h; exact shape31 ..
theorem qset (d : BitVec 3) (a : BitVec 5) (t : BitVec 2) : Statement (.qset d a t) := by
  intro g w h; cases h; exact shape32 ..
theorem qpop (d : BitVec 5) (a : BitVec 3) : Statement (.qpop d a) := by
  intro g w h; cases h; exact shape33 ..
theorem vcfgw (a : BitVec 5) : Statement (.vcfgw a) := by
  intro g w h; cases h; exact shape27 ..
theorem rcp (d : BitVec 5) (a : BitVec 5) (q : BitVec 3) (t : BitVec 2) : Statement (.rcp d a q t) := by
  intro g w h; cases h; exact shape25 ..
theorem rsq (d : BitVec 5) (a : BitVec 5) (q : BitVec 3) (t : BitVec 2) : Statement (.rsq d a q t) := by
  intro g w h; cases h; exact shape25 ..
theorem sqrt (d : BitVec 5) (a : BitVec 5) (q : BitVec 3) (t : BitVec 2) : Statement (.sqrt d a q t) := by
  intro g w h; cases h; exact shape25 ..
theorem exp2 (d : BitVec 5) (a : BitVec 5) (q : BitVec 3) (t : BitVec 2) : Statement (.exp2 d a q t) := by
  intro g w h; cases h; exact shape25 ..
theorem log2 (d : BitVec 5) (a : BitVec 5) (q : BitVec 3) (t : BitVec 2) : Statement (.log2 d a q t) := by
  intro g w h; cases h; exact shape25 ..
theorem tanh (d : BitVec 5) (a : BitVec 5) (q : BitVec 3) (t : BitVec 2) : Statement (.tanh d a q t) := by
  intro g w h; cases h; exact shape25 ..
theorem sigm (d : BitVec 5) (a : BitVec 5) (q : BitVec 3) (t : BitVec 2) : Statement (.sigm d a q t) := by
  intro g w h; cases h; exact shape25 ..
theorem erf (d : BitVec 5) (a : BitVec 5) (q : BitVec 3) (t : BitVec 2) : Statement (.erf d a q t) := by
  intro g w h; cases h; exact shape25 ..
theorem sin (d : BitVec 5) (a : BitVec 5) (q : BitVec 3) (t : BitVec 2) : Statement (.sin d a q t) := by
  intro g w h; cases h; exact shape25 ..
theorem cos (d : BitVec 5) (a : BitVec 5) (q : BitVec 3) (t : BitVec 2) : Statement (.cos d a q t) := by
  intro g w h; cases h; exact shape25 ..
theorem expe (d : BitVec 5) (a : BitVec 5) (q : BitVec 3) (t : BitVec 2) : Statement (.expe d a q t) := by
  intro g w h; cases h; exact shape25 ..
theorem gelu (d : BitVec 5) (a : BitVec 5) (q : BitVec 3) (t : BitVec 2) : Statement (.gelu d a q t) := by
  intro g w h; cases h; exact shape25 ..
theorem mcfg (w : BitVec 4) (a : BitVec 4) : Statement (.mcfg w a) := by
  intro g w h; cases h; exact shape34 ..
theorem mwload (s : BitVec 6) (m : BitVec 1) : Statement (.mwload s m) := by
  intro g w h; cases h; exact shape35 ..
theorem mmul (t : BitVec 3) (s : BitVec 6) (q : BitVec 1) (n : BitVec 7) : Statement (.mmul t s q n) := by
  intro g w h; cases h; exact shape36 ..
theorem mmac (t : BitVec 3) (s : BitVec 6) (q : BitVec 1) (n : BitVec 7) : Statement (.mmac t s q n) := by
  intro g w h; cases h; exact shape36 ..
theorem mdrain (t : BitVec 3) (s : BitVec 6) (z : BitVec 1) (r : BitVec 1) (f : BitVec 4) : Statement (.mdrain t s z r f) := by
  intro g w h; cases h; exact shape37 ..
theorem mzero (t : BitVec 3) : Statement (.mzero t) := by
  intro g w h; cases h; exact shape38 ..
theorem mtrn (t : BitVec 3) (h : BitVec 1) : Statement (.mtrn t h) := by
  intro g w h; cases h; exact shape39 ..
theorem mscale (t : BitVec 3) (s : BitVec 6) (tgt : BitVec 2) : Statement (.mscale t s tgt) := by
  intro g w h; cases h; exact shape40 ..
theorem mchk (t : BitVec 3) (x : BitVec 1) : Statement (.mchk t x) := by
  intro g w h; cases h; exact shape39 ..
theorem msave (t : BitVec 3) (s : BitVec 6) (r : BitVec 1) : Statement (.msave t s r) := by
  intro g w h; cases h; exact shape35 ..
theorem mrest (t : BitVec 3) (s : BitVec 6) : Statement (.mrest t s) := by
  intro g w h; cases h; exact shape41 ..
theorem mwait (w : BitVec 1) (k : BitVec 8) : Statement (.mwait w k) := by
  intro g w h; cases h; exact shape42 ..
theorem copy (a : BitVec 6) (b : BitVec 6) : Statement (.copy a b) := by
  intro g w h; cases h; exact shape0 ..
theorem seqdef (a : BitVec 6) (b : BitVec 6) : Statement (.seqdef a b) := by
  intro g w h; cases h; exact shape0 ..
theorem grpdef (a : BitVec 6) (b : BitVec 6) : Statement (.grpdef a b) := by
  intro g w h; cases h; exact shape0 ..
theorem hpair (a : BitVec 6) (b : BitVec 6) : Statement (.hpair a b) := by
  intro g w h; cases h; exact shape0 ..
theorem trcfg (a : BitVec 6) (b : BitVec 6) : Statement (.trcfg a b) := by
  intro g w h; cases h; exact shape0 ..
theorem enq (a : BitVec 6) (b : BitVec 6) : Statement (.enq a b) := by
  intro g w h; cases h; exact shape0 ..
theorem bundleIssue : Statement .bundleIssue := fun _ _ h => nomatch h
theorem resultLand : Statement .resultLand := fun _ _ h => nomatch h
theorem interlockReturn : Statement .interlockReturn := fun _ _ h => nomatch h
theorem waittWake : Statement .waittWake := fun _ _ h => nomatch h
theorem nop : Statement (.nop) := by
  intro g w h; cases h; exact shape7 ..
theorem ret : Statement (.ret) := by
  intro g w h; cases h; exact shape7 ..
theorem eret : Statement (.eret) := by
  intro g w h; cases h; exact shape7 ..
theorem endt : Statement (.endt) := by
  intro g w h; cases h; exact shape7 ..
theorem yield : Statement (.yield) := by
  intro g w h; cases h; exact shape7 ..
theorem rwflush : Statement (.rwflush) := by
  intro g w h; cases h; exact shape7 ..
theorem snop : Statement (.snop) := by
  intro g w h; cases h; exact shape7 ..
theorem vnop : Statement (.vnop) := by
  intro g w h; cases h; exact shape7 ..
theorem mwswap : Statement (.mwswap) := by
  intro g w h; cases h; exact shape7 ..
theorem tarragonIdleClose : Statement .tarragonIdleClose := fun _ _ h => nomatch h
theorem matrixOpStart : Statement .matrixOpStart := fun _ _ h => nomatch h
theorem matrixOpComplete : Statement .matrixOpComplete := fun _ _ h => nomatch h
theorem copyh : Statement .copyh := fun _ _ h => nomatch h
theorem fill : Statement .fill := fun _ _ h => nomatch h
theorem copyComplete : Statement .copyComplete := fun _ _ h => nomatch h
theorem seqcond : Statement .seqcond := fun _ _ h => nomatch h
theorem seqstop : Statement .seqstop := fun _ _ h => nomatch h
theorem seqUnitFetch : Statement .seqUnitFetch := fun _ _ h => nomatch h
theorem grpabort : Statement .grpabort := fun _ _ h => nomatch h
theorem collExpRecord : Statement .collExpRecord := fun _ _ h => nomatch h
theorem collExponentReturn : Statement .collExponentReturn := fun _ _ h => nomatch h
theorem collRootChunk : Statement .collRootChunk := fun _ _ h => nomatch h
theorem collResult : Statement .collResult := fun _ _ h => nomatch h
theorem collRootTimeout : Statement .collRootTimeout := fun _ _ h => nomatch h
theorem collFailureNotice : Statement .collFailureNotice := fun _ _ h => nomatch h
theorem collMemberTimeout : Statement .collMemberTimeout := fun _ _ h => nomatch h
theorem hpairComplete : Statement .hpairComplete := fun _ _ h => nomatch h
theorem hpennant : Statement .hpennant := fun _ _ h => nomatch h
theorem hstat : Statement .hstat := fun _ _ h => nomatch h
theorem pennantArrival : Statement .pennantArrival := fun _ _ h => nomatch h
theorem trflush : Statement .trflush := fun _ _ h => nomatch h
theorem traceRecordWrite : Statement .traceRecordWrite := fun _ _ h => nomatch h
theorem taskStartArrival : Statement .taskStartArrival := fun _ _ h => nomatch h
theorem chunkArrival : Statement .chunkArrival := fun _ _ h => nomatch h
theorem chunkHopCheck : Statement .chunkHopCheck := fun _ _ h => nomatch h
theorem returnArrival : Statement .returnArrival := fun _ _ h => nomatch h
theorem censusSend : Statement .censusSend := fun _ _ h => nomatch h
theorem censusArrival : Statement .censusArrival := fun _ _ h => nomatch h
theorem refusalArrival : Statement .refusalArrival := fun _ _ h => nomatch h
theorem refusedChunkResend : Statement .refusedChunkResend := fun _ _ h => nomatch h
theorem replayRequestArrival : Statement .replayRequestArrival := fun _ _ h => nomatch h
theorem rotComplete : Statement .rotComplete := fun _ _ h => nomatch h
theorem preemptEvict : Statement .preemptEvict := fun _ _ h => nomatch h
theorem taskResume : Statement .taskResume := fun _ _ h => nomatch h
theorem powerGrant : Statement .powerGrant := fun _ _ h => nomatch h
theorem launch : Statement .launch := fun _ _ h => nomatch h
theorem graphAccept : Statement .graphAccept := fun _ _ h => nomatch h
theorem runNodeBind : Statement .runNodeBind := fun _ _ h => nomatch h
theorem configLoad : Statement .configLoad := fun _ _ h => nomatch h
theorem configDrop : Statement .configDrop := fun _ _ h => nomatch h
theorem copyNodeStart : Statement .copyNodeStart := fun _ _ h => nomatch h
theorem waitNode : Statement .waitNode := fun _ _ h => nomatch h
theorem waitNodeTimeout : Statement .waitNodeTimeout := fun _ _ h => nomatch h
theorem condNode : Statement .condNode := fun _ _ h => nomatch h
theorem hringNode : Statement .hringNode := fun _ _ h => nomatch h
theorem hringIrqTimer : Statement .hringIrqTimer := fun _ _ h => nomatch h
theorem endNode : Statement .endNode := fun _ _ h => nomatch h
theorem dcpSelect : Statement .dcpSelect := fun _ _ h => nomatch h
theorem dcpResume : Statement .dcpResume := fun _ _ h => nomatch h
theorem dcpStep : Statement .dcpStep := fun _ _ h => nomatch h
theorem dcpKill : Statement .dcpKill := fun _ _ h => nomatch h
theorem dcpPost : Statement .dcpPost := fun _ _ h => nomatch h
theorem trapRecordPost : Statement .trapRecordPost := fun _ _ h => nomatch h
theorem fbPop : Statement .fbPop := fun _ _ h => nomatch h
theorem tqPop : Statement .tqPop := fun _ _ h => nomatch h
theorem elogPop : Statement .elogPop := fun _ _ h => nomatch h
theorem faultRecordPost : Statement .faultRecordPost := fun _ _ h => nomatch h
theorem fbResp : Statement .fbResp := fun _ _ h => nomatch h
theorem xltInv : Statement .xltInv := fun _ _ h => nomatch h
theorem walkerTranslate : Statement .walkerTranslate := fun _ _ h => nomatch h
theorem quarFree : Statement .quarFree := fun _ _ h => nomatch h
theorem quarantineRelease : Statement .quarantineRelease := fun _ _ h => nomatch h
theorem hostStagingAccess : Statement .hostStagingAccess := fun _ _ h => nomatch h
theorem registerWrite : Statement .registerWrite := fun _ _ h => nomatch h
theorem flitReceive : Statement .flitReceive := fun _ _ h => nomatch h
theorem nackReceive : Statement .nackReceive := fun _ _ h => nomatch h
theorem laneLockLoss : Statement .laneLockLoss := fun _ _ h => nomatch h
theorem linkSilenceTimeout : Statement .linkSilenceTimeout := fun _ _ h => nomatch h
theorem retrainAttemptEnd : Statement .retrainAttemptEnd := fun _ _ h => nomatch h
theorem linkEnable : Statement .linkEnable := fun _ _ h => nomatch h
theorem packetInject : Statement .packetInject := fun _ _ h => nomatch h
theorem packetForward : Statement .packetForward := fun _ _ h => nomatch h
theorem e2eDeliver : Statement .e2eDeliver := fun _ _ h => nomatch h
theorem e2eAckReceive : Statement .e2eAckReceive := fun _ _ h => nomatch h
theorem e2eResendTimeout : Statement .e2eResendTimeout := fun _ _ h => nomatch h
theorem remoteRequest : Statement .remoteRequest := fun _ _ h => nomatch h
theorem remoteResponse : Statement .remoteResponse := fun _ _ h => nomatch h
theorem farAccessTimeout : Statement .farAccessTimeout := fun _ _ h => nomatch h
theorem rtDataWrite : Statement .rtDataWrite := fun _ _ h => nomatch h
theorem generationSwap : Statement .generationSwap := fun _ _ h => nomatch h
theorem bootInj : Statement .bootInj := fun _ _ h => nomatch h
theorem bootAnnounce : Statement .bootAnnounce := fun _ _ h => nomatch h
theorem bootData : Statement .bootData := fun _ _ h => nomatch h
theorem bootVerify : Statement .bootVerify := fun _ _ h => nomatch h
theorem bootCommit : Statement .bootCommit := fun _ _ h => nomatch h
theorem bootReply : Statement .bootReply := fun _ _ h => nomatch h
theorem timeExchange : Statement .timeExchange := fun _ _ h => nomatch h
theorem ptpSync : Statement .ptpSync := fun _ _ h => nomatch h
theorem ppsEdge : Statement .ppsEdge := fun _ _ h => nomatch h
theorem timeHoldover : Statement .timeHoldover := fun _ _ h => nomatch h
theorem powerOverStep : Statement .powerOverStep := fun _ _ h => nomatch h
theorem keyLoad : Statement .keyLoad := fun _ _ h => nomatch h
theorem keyErase : Statement .keyErase := fun _ _ h => nomatch h
theorem keyBindtx : Statement .keyBindtx := fun _ _ h => nomatch h
theorem keyBindrx : Statement .keyBindrx := fun _ _ h => nomatch h
theorem keyRekey : Statement .keyRekey := fun _ _ h => nomatch h
theorem attestation : Statement .attestation := fun _ _ h => nomatch h
theorem hostRingEnable : Statement .hostRingEnable := fun _ _ h => nomatch h
theorem hostRingTail : Statement .hostRingTail := fun _ _ h => nomatch h
theorem msixUnmask : Statement .msixUnmask := fun _ _ h => nomatch h
theorem eccCorrectable : Statement .eccCorrectable := fun _ _ h => nomatch h
theorem eccUncorrectable : Statement .eccUncorrectable := fun _ _ h => nomatch h
theorem scrub : Statement .scrub := fun _ _ h => nomatch h
theorem shadowCompare : Statement .shadowCompare := fun _ _ h => nomatch h
theorem shadowTimeout : Statement .shadowTimeout := fun _ _ h => nomatch h
theorem regionKill : Statement .regionKill := fun _ _ h => nomatch h
theorem dieFence : Statement .dieFence := fun _ _ h => nomatch h
theorem dcpWatchdogMiss : Statement .dcpWatchdogMiss := fun _ _ h => nomatch h
theorem linkRetire : Statement .linkRetire := fun _ _ h => nomatch h
theorem streamReset : Statement .streamReset := fun _ _ h => nomatch h
theorem pkgAdopt : Statement .pkgAdopt := fun _ _ h => nomatch h
theorem cmapRowWrite : Statement .cmapRowWrite := fun _ _ h => nomatch h
theorem cmapPairMove : Statement .cmapPairMove := fun _ _ h => nomatch h
theorem recArm : Statement .recArm := fun _ _ h => nomatch h
theorem rwTableLoad : Statement .rwTableLoad := fun _ _ h => nomatch h
theorem rwTableLoadDone : Statement .rwTableLoadDone := fun _ _ h => nomatch h
theorem scanGo : Statement .scanGo := fun _ _ h => nomatch h
theorem scanDrainDone : Statement .scanDrainDone := fun _ _ h => nomatch h
theorem scanSegmentEnd : Statement .scanSegmentEnd := fun _ _ h => nomatch h
theorem scanAbort : Statement .scanAbort := fun _ _ h => nomatch h
theorem dieReset : Statement .dieReset := fun _ _ h => nomatch h
theorem tileTableReadTimeout : Statement .tileTableReadTimeout := fun _ _ h => nomatch h
theorem newerAttemptDrop : Statement .newerAttemptDrop := fun _ _ h => nomatch h
theorem engineCommandComplete : Statement .engineCommandComplete := fun _ _ h => nomatch h
theorem packageReset : Statement .packageReset := fun _ _ h => nomatch h
theorem powerMeasurementUpdate : Statement .powerMeasurementUpdate := fun _ _ h => nomatch h
theorem coolantAlarm : Statement .coolantAlarm := fun _ _ h => nomatch h
theorem boundaryRetrainFailed : Statement .boundaryRetrainFailed := fun _ _ h => nomatch h

end Sys2Proof.Laws.Fields
end

