-- ==== Sys2Proof/Tests/Slice0.lean ====
section
/-! SUPPORT. Tests: words of the opcode table decode, ill-formed terms are refused, worked examples of the spec come out,
and for each statement states and operands that meet its hypotheses. -/

namespace Sys2Proof.Tests
open Sys2Proof Sys2Proof.Machine

set_option Elab.async false

/-! ## Decoding: words built field by field from the encodings of the opcode table -/

theorem test_decode_scalar_1 :
    decodeSlot slotA 0b00101000000100000110110101000000#32 = .ok (.add 1#6 45#6 16#6 0#2) ∧
    decodeSlot slotA 0b01100000001000010000001010010101#32 = .ok (.sub 4#6 2#6 37#6 1#2) ∧
    decodeSlot slotA 0b10011000001100011101011111101010#32 = .ok (.mul 7#6 23#6 58#6 2#2) ∧
    decodeSlot slotA 0b11010000010000101010110000111100#32 = .ok (.mulhs 10#6 44#6 15#6 0#2) ∧
    decodeSlot slotA 0b00001000010100110100000110010001#32 = .ok (.mulhu 13#6 1#6 36#6 1#2) ∧
    decodeSlot slotA 0b01000000011001000001011011100110#32 = .ok (.and 16#6 22#6 57#6 2#2) ∧
    decodeSlot slotA 0b01111000011101001110101100111000#32 = .ok (.or 19#6 43#6 14#6 0#2) ∧
    decodeSlot slotA 0b10110000100001011000000010001101#32 = .ok (.xor 22#6 0#6 35#6 1#2) ∧
    decodeSlot slotA 0b11101000100101100101010111100010#32 = .ok (.andn 25#6 21#6 56#6 2#2) ∧
    decodeSlot slotA 0b00100000101001110010101000110100#32 = .ok (.orn 28#6 42#6 13#6 0#2) ∧
    decodeSlot slotA 0b01011000101101111111111110001001#32 = .ok (.shl 31#6 63#6 34#6 1#2) ∧
    decodeSlot slotA 0b10010000110010001001010011011110#32 = .ok (.shrl 34#6 20#6 55#6 2#2) ∧
    decodeSlot slotA 0b11001000110110010110100100110000#32 = .ok (.shra 37#6 41#6 12#6 0#2) ∧
    decodeSlot slotA 0b00000000111010100011111010000101#32 = .ok (.rotl 40#6 62#6 33#6 1#2) ∧
    decodeSlot slotA 0b00111000111110101101001111011010#32 = .ok (.min 43#6 19#6 54#6 2#2) ∧
    decodeSlot slotA 0b01110001000010111010100000101100#32 = .ok (.max 46#6 40#6 11#6 0#2) := by decide

theorem test_decode_scalar_2 :
    decodeSlot slotA 0b10101001000111000111110110000001#32 = .ok (.minu 49#6 61#6 32#6 1#2) ∧
    decodeSlot slotA 0b11100001001011010001001011010110#32 = .ok (.maxu 52#6 18#6 53#6 2#2) ∧
    decodeSlot slotA 0b00011001001111011110011100000000#32 = .ok (.clz 55#6 39#6 0#2) ∧
    decodeSlot slotA 0b01010001010011101011110000000001#32 = .ok (.ctz 58#6 60#6 1#2) ∧
    decodeSlot slotA 0b10001001010111110101000100000010#32 = .ok (.popc 61#6 17#6 2#2) ∧
    decodeSlot slotA 0b11000001011000000110011000000000#32 = .ok (.bswap 1#6 38#6 0#2) ∧
    decodeSlot slotA 0b11111001011100001111101101111000#32 = .ok (.extz 3#6 59#6 30#6) ∧
    decodeSlot slotA 0b00110001100000011001000011001100#32 = .ok (.exts 6#6 16#6 51#6) ∧
    decodeSlot slotA 0b01101001100100100110010100100000#32 = .ok (.ins 9#6 37#6 8#6) ∧
    decodeSlot slotA 0b10100010000000110011101001011101#32 = .ok (.addi 12#6 58#6 93#8) ∧
    decodeSlot slotA 0b11011010000100111100111101110010#32 = .ok (.andi 15#6 15#6 114#8) ∧
    decodeSlot slotA 0b00010010001001001010010010000111#32 = .ok (.ori 18#6 36#6 135#8) ∧
    decodeSlot slotA 0b01001010001101010111100110011100#32 = .ok (.xori 21#6 57#6 156#8) ∧
    decodeSlot slotA 0b10000010010001100000111000110001#32 = .ok (.shli 24#6 14#6 49#6) ∧
    decodeSlot slotA 0b10111010010101101110001100000110#32 = .ok (.shrli 27#6 35#6 6#6) ∧
    decodeSlot slotA 0b11110010011001111011100000011011#32 = .ok (.shrai 30#6 56#6 27#6) := by decide

theorem test_decode_scalar_3 :
    decodeSlot slotA 0b00101010011110000100001011001101#32 = .ok (.ldi 33#6 717#14) ∧
    decodeSlot slotA 0b01100010100010010000001011100010#32 = .ok (.ldis 36#6 738#14) ∧
    decodeSlot slotA 0b10011011000001110011011101101000#32 = .ok (.cmpEq 7#4 55#6 26#6) ∧
    decodeSlot slotA 0b11010011000110100000110010111100#32 = .ok (.cmpNe 10#4 12#6 47#6) ∧
    decodeSlot slotA 0b00001011001011010010000100010000#32 = .ok (.cmpLt 13#4 33#6 4#6) ∧
    decodeSlot slotA 0b01000011001100010011011001100100#32 = .ok (.cmpLe 1#4 54#6 25#6) ∧
    decodeSlot slotA 0b01111011010000110000101110111000#32 = .ok (.cmpGt 3#4 11#6 46#6) ∧
    decodeSlot slotA 0b10110011010101100010000000101000#32 = .ok (.cmpGe 6#4 32#6 10#6) ∧
    decodeSlot slotA 0b11101011011010010011010101100000#32 = .ok (.cmpLtu 9#4 53#6 24#6) ∧
    decodeSlot slotA 0b00100011011111000000101010110100#32 = .ok (.cmpLeu 12#4 10#6 45#6) ∧
    decodeSlot slotA 0b01011011100011110001111100001000#32 = .ok (.cmpGtu 15#4 31#6 2#6) ∧
    decodeSlot slotA 0b10010011100100100011010001011100#32 = .ok (.cmpGeu 2#4 52#6 23#6) ∧
    decodeSlot slotA 0b11001011110001010000100100110000#32 = .ok (.pand 5#4 9#5 12#5) ∧
    decodeSlot slotA 0b00000011110110000001111000000100#32 = .ok (.por 8#4 30#5 1#5) ∧
    decodeSlot slotA 0b00111011111010110001001101011000#32 = .ok (.pxor 11#4 19#5 22#5) ∧
    decodeSlot slotA 0b01110011111111100000100000101100#32 = .ok (.pandn 14#4 8#5 11#5) := by decide

theorem test_decode_scalar_4 :
    decodeSlot slotA 0b10101100000000010001110101000000#32 = .ok (.cmpiEq 1#4 29#6 64#8) ∧
    decodeSlot slotA 0b11100100000101000011001001010101#32 = .ok (.cmpiNe 4#4 50#6 85#8) ∧
    decodeSlot slotA 0b00011100001001110000011101101010#32 = .ok (.cmpiLt 7#4 7#6 106#8) ∧
    decodeSlot slotA 0b01010100001110100001110001111111#32 = .ok (.cmpiLe 10#4 28#6 127#8) ∧
    decodeSlot slotA 0b10001100010011010011000110010100#32 = .ok (.cmpiGt 13#4 49#6 148#8) ∧
    decodeSlot slotA 0b11000100010100010000011010101001#32 = .ok (.cmpiGe 1#4 6#6 169#8) ∧
    decodeSlot slotA 0b11111100011000110001101110111110#32 = .ok (.cmpiLtu 3#4 27#6 190#8) ∧
    decodeSlot slotA 0b00110100011101100011000011010011#32 = .ok (.cmpiLeu 6#4 48#6 211#8) ∧
    decodeSlot slotA 0b01101100100010010000010111101000#32 = .ok (.cmpiGtu 9#4 5#6 232#8) ∧
    decodeSlot slotA 0b10100100100111000001101011111101#32 = .ok (.cmpiGeu 12#4 26#6 253#8) ∧
    decodeSlot slotA 0b11011101000000000000000010101111#32 = .ok (.br 175#20) ∧
    decodeSlot slotA 0b00010101000100000000000010110010#32 = .ok (.call 178#20) ∧
    decodeSlot slotA 0b01001101001000000011010100000000#32 = .ok (.brx 53#6) ∧
    decodeSlot slotA 0b10000101001100000011100000000000#32 = .ok (.callx 56#6) ∧
    decodeSlot slotA 0b10111101010100000011101100000011#32 = .ok (.loop 59#6 3#5) ∧
    decodeSlot slotA 0b11110101011000000000000010111110#32 = .ok (.brloop 190#20) := by decide

theorem test_decode_scalar_5 :
    decodeSlot slotA 0b00101101011100000000000011000001#32 = .ok (.trap 193#14) ∧
    decodeSlot slotA 0b01100101101100000000010000000000#32 = .ok (.waitt 4#6) ∧
    decodeSlot slotA 0b10011101110000000000011100000000#32 = .ok (.waitev 7#6) ∧
    decodeSlot slotA 0b11010101110100000000000011001010#32 = .ok (.bkpt 202#14) ∧
    decodeSlot slotB 0b00001110000000110100000110010000#32 = .ok (.xlt 13#6 1#6 36#6) ∧
    decodeSlot slotB 0b01000110001000000000000000010000#32 = .ok (.xwait 16#6) ∧
    decodeSlot slotB 0b01111110001100110000000000000010#32 = .ok (.xpoll 3#4 2#8) ∧
    decodeSlot slotA 0b10110111000001011000001010010100#32 = .ok (.csrr 22#6 660#12) ∧
    decodeSlot slotA 0b11101111000101100100001010011011#32 = .ok (.csrw 25#6 667#12) ∧
    decodeSlot slotA 0b00100111001001110000001010100010#32 = .ok (.csrs 28#6 674#12) ∧
    decodeSlot slotA 0b01011111001101111100001010101001#32 = .ok (.csrc 31#6 681#12) ∧
    decodeSlot slotA 0b10010111010010001000000000000000#32 = .ok (.rdtime 34#6) ∧
    decodeSlot slotA 0b11001111010110010100000000000000#32 = .ok (.rdcyc 37#6) ∧
    decodeSlot slotA 0b00000111011000000000000000001000#32 = .ok (.ctrstart 8#4) ∧
    decodeSlot slotA 0b00111111011100000000000000001011#32 = .ok (.ctrstop 11#4) ∧
    decodeSlot slotA 0b01110111100000000010111010101000#32 = .ok (.tmark 46#6 168#8) := by decide

theorem test_decode_scalar_6 :
    decodeSlot slotA 0b10101111100100000000000011110001#32 = .ok (.powreq 241#14) ∧
    decodeSlot slotA 0b11100111101000000000000011110100#32 = .ok (.powrel 244#14) ∧
    decodeSlot slotA 0b00011111110011110000101000000000#32 = .ok (.mvpq 7#3 4#3 10#6) ∧
    decodeSlot slotA 0b01010111110111101011110000000000#32 = .ok (.mvqp 58#6 7#3 4#3) ∧
    decodeSlot slotB 0b00000110000100000000100001111000#32 = .ok (.copy 8#6 30#6) ∧
    decodeSlot slotB 0b00111110000100010000101111001100#32 = .ok (.seqdef 11#6 51#6) ∧
    decodeSlot slotB 0b01110110000100100000111000100000#32 = .ok (.grpdef 14#6 8#6) ∧
    decodeSlot slotB 0b10101110000100110001000101110100#32 = .ok (.hpair 17#6 29#6) ∧
    decodeSlot slotB 0b11100110000101000001010011001000#32 = .ok (.trcfg 20#6 50#6) ∧
    decodeSlot slotB 0b00011110000101010001011100011100#32 = .ok (.enq 23#6 7#6) ∧
    decodeSlot slotA 0b00110000000000000000000000000000#32 = .ok (.nop) ∧
    decodeSlot slotA 0b01101101010000000000000000000000#32 = .ok (.ret) ∧
    decodeSlot slotA 0b10100101100000000000000000000000#32 = .ok (.eret) ∧
    decodeSlot slotA 0b11011101100100000000000000000000#32 = .ok (.endt) ∧
    decodeSlot slotA 0b00010101101000000000000000000000#32 = .ok (.yield) ∧
    decodeSlot slotA 0b01001111101100000000000000000000#32 = .ok (.rwflush) := by decide

theorem test_decode_memory_1 :
    decodeSlot slotS 0b10001000000111110101000111110001#32 = .ok (.ld 61#6 17#6 7#3 2#2 1#3) ∧
    decodeSlot slotS 0b11000000001000000110011001010100#32 = .ok (.ldz 1#6 38#6 2#3 2#2 4#3) ∧
    decodeSlot slotS 0b11111000001100001111101110110111#32 = .ok (.st 3#6 59#6 5#3 2#2 7#3) ∧
    decodeSlot slotS 0b00110000010000011001000000110110#32 = .ok (.vld 6#5 16#6 1#3 22#5) ∧
    decodeSlot slotS 0b01101000010010100100111001100000#32 = .ok (.vldSequenced 9#5 14#4 3#3) ∧
    decodeSlot slotS 0b10100000010100110011101011000000#32 = .ok (.vst 12#5 58#6 6#3 0#5) ∧
    decodeSlot slotS 0b11011000011000111100111100111001#32 = .ok (.vldc 15#5 15#6 1#3 6#3 1#2) ∧
    decodeSlot slotS 0b00010000011101001010010010000101#32 = .ok (.vstc 18#5 36#6 4#3 1#3 1#2) ∧
    decodeSlot slotS 0b01001000100001010111100111110001#32 = .ok (.vldq 21#5 57#6 7#3 4#3 1#2) ∧
    decodeSlot slotS 0b10000000100101100000111001011101#32 = .ok (.vstq 24#5 14#6 2#3 7#3 1#2) ∧
    decodeSlot slotS 0b10111001000001101110001110110111#32 = .ok (.lds 27#6 35#6 5#3 2#2 7#3) ∧
    decodeSlot slotS 0b11110001000101111011100000110010#32 = .ok (.ldse 30#6 56#6 1#3 2#2 2#3) ∧
    decodeSlot slotS 0b00101001001010000100110101110101#32 = .ok (.stf 33#6 13#6 3#3 2#2 5#3) ∧
    decodeSlot slotS 0b01100001001100000010010000111110#32 = .ok (.sete 36#6 1#3 6#3) ∧
    decodeSlot slotS 0b10011001100010011111011100111011#32 = .ok (.amoadd 39#6 55#6 1#3 1#1 3#3) ∧
    decodeSlot slotS 0b11010001100110101000110010011110#32 = .ok (.amomin 42#6 12#6 4#3 1#1 6#3) := by decide

theorem test_decode_memory_2 :
    decodeSlot slotS 0b00001001101010110110000111111001#32 = .ok (.amomax 45#6 33#6 7#3 1#1 1#3) ∧
    decodeSlot slotS 0b01000001101111000011011001011100#32 = .ok (.amoand 48#6 54#6 2#3 1#1 4#3) ∧
    decodeSlot slotS 0b01111001110011001100101110111111#32 = .ok (.amoor 51#6 11#6 5#3 1#1 7#3) ∧
    decodeSlot slotS 0b10110001110111011010000000111010#32 = .ok (.amoxor 54#6 32#6 1#3 1#1 2#3) ∧
    decodeSlot slotS 0b11101001111011100111010101111101#32 = .ok (.amoswap 57#6 53#6 3#3 1#1 5#3) ∧
    decodeSlot slotS 0b00100001111101001000101011011001#32 = .ok (.amocas 9#5 10#6 6#3 1#1 1#3) ∧
    decodeSlot slotS 0b01011010000011111101111100110011#32 = .ok (.ldF 63#6 31#6 1#3 2#2 3#3) ∧
    decodeSlot slotS 0b10010010000100001011010010010110#32 = .ok (.stF 2#6 52#6 4#3 2#2 6#3) ∧
    decodeSlot slotS 0b11001010001000010100100111101111#32 = .ok (.vldF 5#5 9#6 7#3 15#5) ∧
    decodeSlot slotS 0b00000010001100100001111001000100#32 = .ok (.vstF 8#5 30#6 2#3 4#5) ∧
    decodeSlot slotS 0b00111010100000101111001110111111#32 = .ok (.amoaddF 11#6 51#6 5#3 1#1 7#3) ∧
    decodeSlot slotS 0b01110010100100111000100000111010#32 = .ok (.amominF 14#6 8#6 1#3 1#1 2#3) ∧
    decodeSlot slotS 0b10101010101001000101110101111101#32 = .ok (.amomaxF 17#6 29#6 3#3 1#1 5#3) ∧
    decodeSlot slotS 0b11100010101101010011001011011001#32 = .ok (.amoandF 20#6 50#6 6#3 1#1 1#3) ∧
    decodeSlot slotS 0b00011010110001011100011100111011#32 = .ok (.amoorF 23#6 7#6 1#3 1#1 3#3) ∧
    decodeSlot slotS 0b01010010110101101001110010011110#32 = .ok (.amoxorF 26#6 28#6 4#3 1#1 6#3) := by decide

theorem test_decode_memory_3 :
    decodeSlot slotS 0b10001010111001110111000111111001#32 = .ok (.amoswapF 29#6 49#6 7#3 1#1 1#3) ∧
    decodeSlot slotS 0b11000010111101001000011001011100#32 = .ok (.amocasF 9#5 6#6 2#3 1#1 4#3) ∧
    decodeSlot slotS 0b11111100000010001101101110110111#32 = .ok (.ldFs 35#6 27#6 5#3 2#2 7#3) ∧
    decodeSlot slotS 0b00110100000110011011000000110010#32 = .ok (.stFs 38#6 48#6 1#3 2#2 2#3) ∧
    decodeSlot slotS 0b01101100001000100100010101101011#32 = .ok (.vldFs 9#5 5#6 3#3 11#5) ∧
    decodeSlot slotS 0b10100100001100110001101011000000#32 = .ok (.vstFs 12#5 26#6 6#3 0#5) ∧
    decodeSlot slotS 0b11011100100010111110111100111011#32 = .ok (.amoaddFs 47#6 47#6 1#3 1#1 3#3) ∧
    decodeSlot slotS 0b00010100100111001000010010011110#32 = .ok (.amominFs 50#6 4#6 4#3 1#1 6#3) ∧
    decodeSlot slotS 0b01001100101011010101100111111001#32 = .ok (.amomaxFs 53#6 25#6 7#3 1#1 1#3) ∧
    decodeSlot slotS 0b10000100101111100010111001011100#32 = .ok (.amoandFs 56#6 46#6 2#3 1#1 4#3) ∧
    decodeSlot slotS 0b10111100110011101100101010111111#32 = .ok (.amoorFs 59#6 10#6 5#3 1#1 7#3) ∧
    decodeSlot slotS 0b11110100110111111001100000111010#32 = .ok (.amoxorFs 62#6 24#6 1#3 1#1 2#3) ∧
    decodeSlot slotS 0b00101100111000000110110101111101#32 = .ok (.amoswapFs 1#6 45#6 3#3 1#1 5#3) ∧
    decodeSlot slotS 0b01100100111101001000001011011001#32 = .ok (.amocasFs 9#5 2#6 6#3 1#1 1#3) ∧
    decodeSlot slotS 0b10011011000010000111000000000010#32 = .ok (.fence 135#8 2#3) ∧
    decodeSlot slotS 0b11010011000100101010110000111100#32 = .ok (.semit 10#4 44#6 15#6) := by decide

theorem test_decode_memory_4 :
    decodeSlot slotS 0b00001011001000110100000100000000#32 = .ok (.sfree 13#4 1#6) ∧
    decodeSlot slotS 0b01000011001101000000010100000001#32 = .ok (.sstat 16#6 5#4 1#1) ∧
    decodeSlot slotS 0b01111011010001001110101100111000#32 = .ok (.rot 19#6 43#6 14#6) ∧
    decodeSlot slotS 0b10110011010100000001011000000000#32 = .ok (.ldred 22#6 0#6) ∧
    decodeSlot slotS 0b11101011011001100101010111100000#32 = .ok (.stmc 25#6 21#6 56#6) ∧
    decodeSlot slotS 0b00100011011100000001110000000000#32 = .ok (.arrive 28#6) ∧
    decodeSlot slotS 0b01011011100000000001111111111100#32 = .ok (.arrivex 31#6 63#6) ∧
    decodeSlot slotS 0b10010011100100000010001000000000#32 = .ok (.bwait 34#6) ∧
    decodeSlot slotS 0b11001011101000000010010110100100#32 = .ok (.signal 37#6 41#6) ∧
    decodeSlot slotS 0b00000011101100000010100011111000#32 = .ok (.swait 40#6 62#6) ∧
    decodeSlot slotS 0b00111011110000000010101101001100#32 = .ok (.binit 43#6 19#6) ∧
    decodeSlot slotS 0b10000000000000000000000000000000#32 = .ok (.snop) := by decide

theorem test_decode_vector_1 :
    decodeSlot slotV0 0b01110000000101110010000101110110#32 = .ok (.fadd 14#5 8#5 11#5 5#3 2#2) ∧
    decodeSlot slotV0 0b10101000001010001111010000000100#32 = .ok (.fsub 17#5 29#5 0#5 1#3 0#2) ∧
    decodeSlot slotV0 0b11100000001110100100101010101101#32 = .ok (.fmul 20#5 18#5 21#5 3#3 1#2) ∧
    decodeSlot slotV0 0b00011000010010111001110101011010#32 = .ok (.fma 23#5 7#5 10#5 6#3 2#2) ∧
    decodeSlot slotV0 0b01010000010111010111001111100100#32 = .ok (.fms 26#5 28#5 31#5 1#3 0#2) ∧
    decodeSlot slotV0 0b10001000011011101100011010010001#32 = .ok (.fnma 29#5 17#5 20#5 4#3 1#2) ∧
    decodeSlot slotV0 0b11000000011100001001100100111110#32 = .ok (.fnms 1#5 6#5 9#5 7#3 2#2) ∧
    decodeSlot slotV0 0b11111000100000011110111111001000#32 = .ok (.fmin 3#5 27#5 30#5 2#3 0#2) ∧
    decodeSlot slotV0 0b00110000100100110100001001110101#32 = .ok (.fmax 6#5 16#5 19#5 5#3 1#2) ∧
    decodeSlot slotV0 0b01101000101001001001010000001110#32 = .ok (.fabs 9#5 5#5 3#3 2#2) ∧
    decodeSlot slotV0 0b10100000101101100110100000011000#32 = .ok (.fneg 12#5 26#5 6#3 0#2) ∧
    decodeSlot slotV0 0b11011000110001111011110000000101#32 = .ok (.frnd 15#5 15#5 1#3 1#2) ∧
    decodeSlot slotV0 0b00010000110110010001000000010010#32 = .ok (.fclass 18#5 4#5 4#3 2#2) ∧
    decodeSlot slotV0 0b01001001000010101110010011110000#32 = .ok (.fcmpeq 21#5 25#5 7#3 4#3 0#2) ∧
    decodeSlot slotV0 0b10000001000111000011100001011101#32 = .ok (.fcmpne 24#5 14#5 2#3 7#3 1#2) ∧
    decodeSlot slotV0 0b10111001001011011010100010101010#32 = .ok (.fcmplt 27#5 10#5 5#3 2#3 2#2) := by decide

theorem test_decode_vector_2 :
    decodeSlot slotV0 0b11110001001111110110000000110100#32 = .ok (.fcmple 30#5 24#5 1#3 5#3 0#2) ∧
    decodeSlot slotV0 0b00101001010000001011010001100101#32 = .ok (.fcmpun 1#5 13#5 3#3 1#3 1#2) ∧
    decodeSlot slotV0 0b01100010000000100000100010101110#32 = .ok (.iadd 4#5 2#5 5#5 3#3 2#2) ∧
    decodeSlot slotV0 0b10011010000100111101111101011000#32 = .ok (.isub 7#5 23#5 26#5 6#3 0#2) ∧
    decodeSlot slotV0 0b11010010001001010011000111100101#32 = .ok (.imul 10#5 12#5 15#5 1#3 1#2) ∧
    decodeSlot slotV0 0b00001010001101101000010010010010#32 = .ok (.imulh 13#5 1#5 4#5 4#3 2#2) ∧
    decodeSlot slotV0 0b01000010010010000101101100111100#32 = .ok (.imad 16#5 22#5 25#5 7#3 0#2) ∧
    decodeSlot slotV0 0b01111010010110011010110111001001#32 = .ok (.imin 19#5 11#5 14#5 2#3 1#2) ∧
    decodeSlot slotV0 0b10110010011010110000000101010110#32 = .ok (.imax 22#5 0#5 10#5 5#3 2#2) ∧
    decodeSlot slotV0 0b11101010011111001101011100000100#32 = .ok (.iminu 25#5 21#5 24#5 1#3 0#2) ∧
    decodeSlot slotV0 0b00100010100011100010100110101101#32 = .ok (.imaxu 28#5 10#5 13#5 3#3 1#2) ∧
    decodeSlot slotV0 0b01011010100111111111110001011010#32 = .ok (.iand 31#5 31#5 2#5 6#3 2#2) ∧
    decodeSlot slotV0 0b10010010101000010101001011100100#32 = .ok (.ior 2#5 20#5 23#5 1#3 0#2) ∧
    decodeSlot slotV0 0b11001010101100101010010110010001#32 = .ok (.ixor 5#5 9#5 12#5 4#3 1#2) ∧
    decodeSlot slotV0 0b00000010110001000111100000111110#32 = .ok (.ishl 8#5 30#5 1#5 7#3 2#2) ∧
    decodeSlot slotV0 0b00111010110101011100111011001000#32 = .ok (.ishrl 11#5 19#5 22#5 2#3 0#2) := by decide

theorem test_decode_vector_3 :
    decodeSlot slotV0 0b01110010111001110010000101110101#32 = .ok (.ishra 14#5 8#5 11#5 5#3 1#2) ∧
    decodeSlot slotV0 0b10101010111110001111010000001110#32 = .ok (.iabs 17#5 29#5 3#3 2#2) ∧
    decodeSlot slotV0 0b11100011000010100100100000011000#32 = .ok (.ipopc 20#5 18#5 6#3 0#2) ∧
    decodeSlot slotV0 0b00011011000110111001110000000101#32 = .ok (.iclz 23#5 7#5 1#3 1#2) ∧
    decodeSlot slotV0 0b01010011001011010111000010000110#32 = .ok (.icmpeq 26#5 28#5 4#3 1#3 2#2) ∧
    decodeSlot slotV0 0b10001011001111101100010011110000#32 = .ok (.icmplt 29#5 17#5 7#3 4#3 0#2) ∧
    decodeSlot slotV0 0b11000011010000001001100001011101#32 = .ok (.icmpltu 1#5 6#5 2#3 7#3 1#2) ∧
    decodeSlot slotV0 0b11111011010100011110111111001010#32 = .ok (.iadds 3#5 27#5 30#5 2#3 2#2) ∧
    decodeSlot slotV0 0b00110011011000110100001001110100#32 = .ok (.isubs 6#5 16#5 19#5 5#3 0#2) ∧
    decodeSlot slotV0 0b01101011011101001001010100000101#32 = .ok (.clmul 9#5 5#5 8#5 1#3 1#2) ∧
    decodeSlot slotV0 0b10100100000001100110100010001100#32 = .ok (.cvt 12#5 26#5 4#5 3#3) ∧
    decodeSlot slotV0 0b11011100000101111011110011111000#32 = .ok (.packb 15#5 15#5 7#5 6#3) ∧
    decodeSlot slotV0 0b00010100001010010001000011100100#32 = .ok (.unpkb 18#5 4#5 7#5 1#3) ∧
    decodeSlot slotV0 0b01001100001110101110011110010000#32 = .ok (.cvtax 21#5 25#5 28#5 4#3) ∧
    decodeSlot slotV0 0b10000100010011000011101000111100#32 = .ok (.cvtxa 24#5 14#5 17#5 7#3) ∧
    decodeSlot slotV0 0b10111101000011011010100000010100#32 = .ok (.mov 27#5 10#5 5#3) := by decide

theorem test_decode_vector_4 :
    decodeSlot slotV0 0b11110101000111110000001111011000#32 = .ok (.movi 30#5 984#10) ∧
    decodeSlot slotV0 0b00101101001000001000000000101101#32 = .ok (.movs 1#5 45#6) ∧
    decodeSlot slotV0 0b01100101001100000001000000101110#32 = .ok (.mvls 4#5 2#6 14#4) ∧
    decodeSlot slotV0 0b10011101010000111101111101011010#32 = .ok (.sel 7#5 23#5 26#5 6#3 2#2) ∧
    decodeSlot slotV0 0b11010101010101010011000000010000#32 = .ok (.xcl 10#5 12#5 4#3 0#2) ∧
    decodeSlot slotV0 0b00001101011001101000010010010001#32 = .ok (.perm 13#5 1#5 4#5 4#3 1#2) ∧
    decodeSlot slotV0 0b01000101011110000101100001011110#32 = .ok (.compress 16#5 22#5 2#3 7#3 2#2) ∧
    decodeSlot slotV0 0b01111101100010011010110000010100#32 = .ok (.expand 19#5 11#5 5#3 0#2) ∧
    decodeSlot slotV0 0b10110101100110110000000000000101#32 = .ok (.rsum 22#5 0#5 1#3 1#2) ∧
    decodeSlot slotV0 0b11101101101011001101010000001110#32 = .ok (.rmax 25#5 21#5 3#3 2#2) ∧
    decodeSlot slotV0 0b00100101101111100010100000011000#32 = .ok (.rmin 28#5 10#5 6#3 0#2) ∧
    decodeSlot slotV0 0b01011101110011111111110000000101#32 = .ok (.scan 31#5 31#5 1#3 1#2) ∧
    decodeSlot slotV0 0b10010101110100010101000000000100#32 = .ok (.xcopy 2#5 20#5 4#3) ∧
    decodeSlot slotV0 0b11001101111000101010010000000111#32 = .ok (.xbcast 5#5 9#5 7#3) ∧
    decodeSlot slotV0 0b00000101111101000111100000000010#32 = .ok (.lbcast 8#5 30#5 2#4) ∧
    decodeSlot slotV0 0b00111110000000011000010010100000#32 = .ok (.qand 3#3 1#3 5#3) := by decide

theorem test_decode_vector_5 :
    decodeSlot slotV0 0b01110110000100110000110000100000#32 = .ok (.qor 6#3 3#3 1#3) ∧
    decodeSlot slotV0 0b10101110001000001001100001100000#32 = .ok (.qxor 1#3 6#3 3#3) ∧
    decodeSlot slotV0 0b11100110001100100000010011000000#32 = .ok (.qandn 4#3 1#3 6#3) ∧
    decodeSlot slotV0 0b00011110010000111001110000000000#32 = .ok (.qset 7#3 7#5 0#2) ∧
    decodeSlot slotV0 0b01010110010111010001110000000000#32 = .ok (.qpop 26#5 7#3) ∧
    decodeSlot slotV0 0b10001110011000000111010000000000#32 = .ok (.vcfgw 29#5) ∧
    decodeSlot slotV0 0b10111000000000000000000000000000#32 = .ok (.vnop) := by decide

theorem test_decode_special_1 :
    decodeSlot slotF 0b11000000000100001001100000001000#32 = .ok (.rcp 1#5 6#5 2#3 0#2) ∧
    decodeSlot slotF 0b11111000001000011110110000010101#32 = .ok (.rsq 3#5 27#5 5#3 1#2) ∧
    decodeSlot slotF 0b00110000001100110100000000000110#32 = .ok (.sqrt 6#5 16#5 1#3 2#2) ∧
    decodeSlot slotF 0b01101000010001001001010000001100#32 = .ok (.exp2 9#5 5#5 3#3 0#2) ∧
    decodeSlot slotF 0b10100000010101100110100000011001#32 = .ok (.log2 12#5 26#5 6#3 1#2) ∧
    decodeSlot slotF 0b11011000011001111011110000000110#32 = .ok (.tanh 15#5 15#5 1#3 2#2) ∧
    decodeSlot slotF 0b00010000011110010001000000010000#32 = .ok (.sigm 18#5 4#5 4#3 0#2) ∧
    decodeSlot slotF 0b01001000100010101110010000011101#32 = .ok (.erf 21#5 25#5 7#3 1#2) ∧
    decodeSlot slotF 0b10000000100111000011100000001010#32 = .ok (.sin 24#5 14#5 2#3 2#2) ∧
    decodeSlot slotF 0b10111000101011011010100000010100#32 = .ok (.cos 27#5 10#5 5#3 0#2) ∧
    decodeSlot slotF 0b11110000101111110110000000000101#32 = .ok (.expe 30#5 24#5 1#3 1#2) ∧
    decodeSlot slotF 0b00101000110000001011010000001110#32 = .ok (.gelu 1#5 13#5 3#3 2#2) := by decide

theorem test_decode_matrix_1 :
    decodeSlot slotM0 0b01100000000100000000000001001001#32 = .ok (.mcfg 4#4 9#4) ∧
    decodeSlot slotM0 0b10011000001000000101100000000001#32 = .ok (.mwload 11#6 1#1) ∧
    decodeSlot slotM0 0b11010000010001000101100010010010#32 = .ok (.mmul 2#3 11#6 1#1 18#7) ∧
    decodeSlot slotM0 0b00001000010110100101100010100111#32 = .ok (.mmac 5#3 11#6 1#1 39#7) ∧
    decodeSlot slotM0 0b01000000011000111011000000110011#32 = .ok (.mdrain 1#3 54#6 1#1 1#1 3#4) ∧
    decodeSlot slotM0 0b01111000011101100000000000000000#32 = .ok (.mzero 3#3) ∧
    decodeSlot slotM0 0b10110000100011000000000000000001#32 = .ok (.mtrn 6#3 1#1) ∧
    decodeSlot slotM0 0b11101000100100011010100000000001#32 = .ok (.mscale 0#3 53#6 1#2) ∧
    decodeSlot slotM0 0b00100000101010000000000000000001#32 = .ok (.mchk 4#3 1#1) ∧
    decodeSlot slotM0 0b01011000101111101111100000000001#32 = .ok (.msave 7#3 31#6 1#1) ∧
    decodeSlot slotM0 0b10010000110001011010000000000000#32 = .ok (.mrest 2#3 52#6) ∧
    decodeSlot slotM0 0b11001000110100000000000110001001#32 = .ok (.mwait 1#1 137#8) ∧
    decodeSlot slotM0 0b11110000001100000000000000000000#32 = .ok (.mwswap) := by decide


/-! ## Well-formedness: each check refuses a term -/

theorem test_ill_formed_1 :
    (.add 1#6 45#6 16#6 3#2 : Instr).wf = false ∧
    (.sub 4#6 2#6 37#6 3#2 : Instr).wf = false ∧
    (.mul 7#6 23#6 58#6 3#2 : Instr).wf = false ∧
    (.mulhs 10#6 44#6 15#6 3#2 : Instr).wf = false ∧
    (.mulhu 13#6 1#6 36#6 3#2 : Instr).wf = false ∧
    (.and 16#6 22#6 57#6 3#2 : Instr).wf = false ∧
    (.or 19#6 43#6 14#6 3#2 : Instr).wf = false ∧
    (.xor 22#6 0#6 35#6 3#2 : Instr).wf = false ∧
    (.andn 25#6 21#6 56#6 3#2 : Instr).wf = false ∧
    (.orn 28#6 42#6 13#6 3#2 : Instr).wf = false ∧
    (.shl 31#6 63#6 34#6 3#2 : Instr).wf = false ∧
    (.shrl 34#6 20#6 55#6 3#2 : Instr).wf = false ∧
    (.shra 37#6 41#6 12#6 3#2 : Instr).wf = false ∧
    (.rotl 40#6 62#6 33#6 3#2 : Instr).wf = false ∧
    (.min 43#6 19#6 54#6 3#2 : Instr).wf = false ∧
    (.max 46#6 40#6 11#6 3#2 : Instr).wf = false ∧
    (.minu 49#6 61#6 32#6 3#2 : Instr).wf = false ∧
    (.maxu 52#6 18#6 53#6 3#2 : Instr).wf = false ∧
    (.clz 55#6 39#6 3#2 : Instr).wf = false ∧
    (.ctz 58#6 60#6 3#2 : Instr).wf = false ∧
    (.popc 61#6 17#6 3#2 : Instr).wf = false ∧
    (.bswap 1#6 38#6 3#2 : Instr).wf = false ∧
    (.cmpEq 0#4 55#6 26#6 : Instr).wf = false ∧
    (.cmpNe 0#4 12#6 47#6 : Instr).wf = false := by decide

theorem test_ill_formed_2 :
    (.cmpLt 0#4 33#6 4#6 : Instr).wf = false ∧
    (.cmpLe 0#4 54#6 25#6 : Instr).wf = false ∧
    (.cmpGt 0#4 11#6 46#6 : Instr).wf = false ∧
    (.cmpGe 0#4 32#6 10#6 : Instr).wf = false ∧
    (.cmpLtu 0#4 53#6 24#6 : Instr).wf = false ∧
    (.cmpLeu 0#4 10#6 45#6 : Instr).wf = false ∧
    (.cmpGtu 0#4 31#6 2#6 : Instr).wf = false ∧
    (.cmpGeu 0#4 52#6 23#6 : Instr).wf = false ∧
    (.pand 0#4 9#5 12#5 : Instr).wf = false ∧
    (.por 0#4 30#5 1#5 : Instr).wf = false ∧
    (.pxor 0#4 19#5 22#5 : Instr).wf = false ∧
    (.pandn 0#4 8#5 11#5 : Instr).wf = false ∧
    (.cmpiEq 0#4 29#6 64#8 : Instr).wf = false ∧
    (.cmpiNe 0#4 50#6 85#8 : Instr).wf = false ∧
    (.cmpiLt 0#4 7#6 106#8 : Instr).wf = false ∧
    (.cmpiLe 0#4 28#6 127#8 : Instr).wf = false ∧
    (.cmpiGt 0#4 49#6 148#8 : Instr).wf = false ∧
    (.cmpiGe 0#4 6#6 169#8 : Instr).wf = false ∧
    (.cmpiLtu 0#4 27#6 190#8 : Instr).wf = false ∧
    (.cmpiLeu 0#4 48#6 211#8 : Instr).wf = false ∧
    (.cmpiGtu 0#4 5#6 232#8 : Instr).wf = false ∧
    (.cmpiGeu 0#4 26#6 253#8 : Instr).wf = false ∧
    (.loop 59#6 17#5 : Instr).wf = false ∧
    (.loop 59#6 0#5 : Instr).wf = false := by decide

theorem test_ill_formed_3 :
    (.xpoll 0#4 2#8 : Instr).wf = false ∧
    (.xpoll 3#4 6#8 : Instr).wf = false ∧
    (.csrr 22#6 1024#12 : Instr).wf = false ∧
    (.csrw 25#6 1024#12 : Instr).wf = false ∧
    (.csrs 28#6 1024#12 : Instr).wf = false ∧
    (.csrc 31#6 1024#12 : Instr).wf = false ∧
    (.powreq 0#14 : Instr).wf = false ∧
    (.powrel 0#14 : Instr).wf = false ∧
    (.mvpq 7#3 0#3 10#6 : Instr).wf = false ∧
    (.amocas 31#5 10#6 6#3 1#1 1#3 : Instr).wf = false ∧
    (.amocasF 31#5 6#6 2#3 1#1 4#3 : Instr).wf = false ∧
    (.amocasFs 31#5 2#6 6#3 1#1 1#3 : Instr).wf = false ∧
    (.fence 135#8 5#3 : Instr).wf = false ∧
    (.fadd 14#5 8#5 11#5 5#3 3#2 : Instr).wf = false ∧
    (.fsub 17#5 29#5 0#5 1#3 3#2 : Instr).wf = false ∧
    (.fmul 20#5 18#5 21#5 3#3 3#2 : Instr).wf = false ∧
    (.fma 23#5 7#5 10#5 6#3 3#2 : Instr).wf = false ∧
    (.fms 26#5 28#5 31#5 1#3 3#2 : Instr).wf = false ∧
    (.fnma 29#5 17#5 20#5 4#3 3#2 : Instr).wf = false ∧
    (.fnms 1#5 6#5 9#5 7#3 3#2 : Instr).wf = false ∧
    (.fmin 3#5 27#5 30#5 2#3 3#2 : Instr).wf = false ∧
    (.fmax 6#5 16#5 19#5 5#3 3#2 : Instr).wf = false ∧
    (.fabs 9#5 5#5 3#3 3#2 : Instr).wf = false ∧
    (.fneg 12#5 26#5 6#3 3#2 : Instr).wf = false := by decide

theorem test_ill_formed_4 :
    (.frnd 15#5 15#5 1#3 3#2 : Instr).wf = false ∧
    (.fclass 18#5 4#5 4#3 3#2 : Instr).wf = false ∧
    (.fcmpeq 21#5 25#5 7#3 4#3 3#2 : Instr).wf = false ∧
    (.fcmpeq 21#5 25#5 0#3 4#3 0#2 : Instr).wf = false ∧
    (.fcmpne 24#5 14#5 2#3 7#3 3#2 : Instr).wf = false ∧
    (.fcmpne 24#5 14#5 0#3 7#3 1#2 : Instr).wf = false ∧
    (.fcmplt 27#5 10#5 5#3 2#3 3#2 : Instr).wf = false ∧
    (.fcmplt 27#5 10#5 0#3 2#3 2#2 : Instr).wf = false ∧
    (.fcmple 30#5 24#5 1#3 5#3 3#2 : Instr).wf = false ∧
    (.fcmple 30#5 24#5 0#3 5#3 0#2 : Instr).wf = false ∧
    (.fcmpun 1#5 13#5 3#3 1#3 3#2 : Instr).wf = false ∧
    (.fcmpun 1#5 13#5 0#3 1#3 1#2 : Instr).wf = false ∧
    (.iadd 4#5 2#5 5#5 3#3 3#2 : Instr).wf = false ∧
    (.isub 7#5 23#5 26#5 6#3 3#2 : Instr).wf = false ∧
    (.imul 10#5 12#5 15#5 1#3 3#2 : Instr).wf = false ∧
    (.imulh 13#5 1#5 4#5 4#3 3#2 : Instr).wf = false ∧
    (.imad 16#5 22#5 25#5 7#3 3#2 : Instr).wf = false ∧
    (.imin 19#5 11#5 14#5 2#3 3#2 : Instr).wf = false ∧
    (.imax 22#5 0#5 10#5 5#3 3#2 : Instr).wf = false ∧
    (.iminu 25#5 21#5 24#5 1#3 3#2 : Instr).wf = false ∧
    (.imaxu 28#5 10#5 13#5 3#3 3#2 : Instr).wf = false ∧
    (.iand 31#5 31#5 2#5 6#3 3#2 : Instr).wf = false ∧
    (.ior 2#5 20#5 23#5 1#3 3#2 : Instr).wf = false ∧
    (.ixor 5#5 9#5 12#5 4#3 3#2 : Instr).wf = false := by decide

theorem test_ill_formed_5 :
    (.ishl 8#5 30#5 1#5 7#3 3#2 : Instr).wf = false ∧
    (.ishrl 11#5 19#5 22#5 2#3 3#2 : Instr).wf = false ∧
    (.ishra 14#5 8#5 11#5 5#3 3#2 : Instr).wf = false ∧
    (.iabs 17#5 29#5 3#3 3#2 : Instr).wf = false ∧
    (.ipopc 20#5 18#5 6#3 3#2 : Instr).wf = false ∧
    (.iclz 23#5 7#5 1#3 3#2 : Instr).wf = false ∧
    (.icmpeq 26#5 28#5 4#3 1#3 3#2 : Instr).wf = false ∧
    (.icmpeq 26#5 28#5 0#3 1#3 2#2 : Instr).wf = false ∧
    (.icmplt 29#5 17#5 7#3 4#3 3#2 : Instr).wf = false ∧
    (.icmplt 29#5 17#5 0#3 4#3 0#2 : Instr).wf = false ∧
    (.icmpltu 1#5 6#5 2#3 7#3 3#2 : Instr).wf = false ∧
    (.icmpltu 1#5 6#5 0#3 7#3 1#2 : Instr).wf = false ∧
    (.iadds 3#5 27#5 30#5 2#3 3#2 : Instr).wf = false ∧
    (.isubs 6#5 16#5 19#5 5#3 3#2 : Instr).wf = false ∧
    (.clmul 9#5 5#5 8#5 1#3 3#2 : Instr).wf = false ∧
    (.packb 15#5 15#5 5#5 6#3 : Instr).wf = false ∧
    (.unpkb 18#5 4#5 5#5 1#3 : Instr).wf = false ∧
    (.sel 7#5 23#5 26#5 6#3 3#2 : Instr).wf = false ∧
    (.xcl 10#5 12#5 4#3 3#2 : Instr).wf = false ∧
    (.perm 13#5 1#5 4#5 4#3 3#2 : Instr).wf = false ∧
    (.compress 16#5 22#5 2#3 7#3 3#2 : Instr).wf = false ∧
    (.compress 16#5 22#5 0#3 7#3 2#2 : Instr).wf = false ∧
    (.expand 19#5 11#5 5#3 3#2 : Instr).wf = false ∧
    (.rsum 22#5 0#5 1#3 3#2 : Instr).wf = false := by decide

theorem test_ill_formed_6 :
    (.rmax 25#5 21#5 3#3 3#2 : Instr).wf = false ∧
    (.rmin 28#5 10#5 6#3 3#2 : Instr).wf = false ∧
    (.scan 31#5 31#5 1#3 3#2 : Instr).wf = false ∧
    (.qand 0#3 1#3 5#3 : Instr).wf = false ∧
    (.qor 0#3 3#3 1#3 : Instr).wf = false ∧
    (.qxor 0#3 6#3 3#3 : Instr).wf = false ∧
    (.qandn 0#3 1#3 6#3 : Instr).wf = false ∧
    (.qset 7#3 7#5 3#2 : Instr).wf = false ∧
    (.qset 0#3 7#5 0#2 : Instr).wf = false ∧
    (.rcp 1#5 6#5 2#3 3#2 : Instr).wf = false ∧
    (.rsq 3#5 27#5 5#3 3#2 : Instr).wf = false ∧
    (.sqrt 6#5 16#5 1#3 3#2 : Instr).wf = false ∧
    (.exp2 9#5 5#5 3#3 3#2 : Instr).wf = false ∧
    (.log2 12#5 26#5 6#3 3#2 : Instr).wf = false ∧
    (.tanh 15#5 15#5 1#3 3#2 : Instr).wf = false ∧
    (.sigm 18#5 4#5 4#3 3#2 : Instr).wf = false ∧
    (.erf 21#5 25#5 7#3 3#2 : Instr).wf = false ∧
    (.sin 24#5 14#5 2#3 3#2 : Instr).wf = false ∧
    (.cos 27#5 10#5 5#3 3#2 : Instr).wf = false ∧
    (.expe 30#5 24#5 1#3 3#2 : Instr).wf = false ∧
    (.gelu 1#5 13#5 3#3 3#2 : Instr).wf = false ∧
    (.mwload 16#6 1#1 : Instr).wf = false ∧
    (.mmul 2#3 16#6 1#1 18#7 : Instr).wf = false ∧
    (.mmac 5#3 16#6 1#1 39#7 : Instr).wf = false := by decide

theorem test_ill_formed_7 :
    (.mdrain 1#3 54#6 1#1 1#1 6#4 : Instr).wf = false ∧
    (.mdrain 1#3 54#6 1#1 1#1 0#4 : Instr).wf = false ∧
    (.mscale 0#3 53#6 3#2 : Instr).wf = false ∧
    (.mscale 1#3 53#6 1#2 : Instr).wf = false := by decide


/-! ## States for the tests -/

/-- Reset with an update of context 0 of cell 0, which the focus names. -/
def here (f : Ctx → Ctx) : State := State.reset.modCtx f

/-- A task of a context in supervisor mode with the given scalar registers. -/
def regs (l : List (Nat × W64)) : State := here fun x => { x with st := .ready, supervisor := true, s := l }

/-- The same in user mode. -/
def user (l : List (Nat × W64)) : State := here fun x => { x with st := .ready, s := l }

/-- The same on a C-cell. -/
def onC (l : List (Nat × W64)) : State :=
  ({ State.reset with focus := { Focus.reset with cell := 256 } } : State).modCtx fun x =>
    { x with st := .ready, supervisor := true, s := l }

/-! ## Witnesses: states and operands that meet the hypotheses of each clause -/

theorem witness_FieldOperations :
    ((regs [(2, 0x838)]).rs 2).toNat % 64 + ((regs [(2, 0x838)]).rs 2).toNat / 256 % 128 = 64 ∧
    64 < ((regs [(2, 0x839)]).rs 2).toNat % 64 + ((regs [(2, 0x839)]).rs 2).toNat / 256 % 128 ∧
    ((regs []).rs 2).toNat / 256 % 128 = 0 := by decide

theorem witness_DirectTransfers :
    (0 ≤ ((regs []).focus.pc : Int) + 4 * (0x7FFF#20).toInt ∧ ((regs []).focus.pc : Int) + 4 * (0x7FFF#20).toInt ≤ 0x1FFFC) ∧
    0 ≤ ((regs []).focus.pc : Int) + 4 * (0#20).toInt := by decide

theorem witness_IndirectTransfers :
    (((regs [(5, 0x1FFFC)]).rs 5).toNat % 4 = 0 ∧ ((regs [(5, 0x1FFFC)]).rs 5).toNat < 0x20000) ∧
    (((regs [(62, 0)]).rs 62).toNat % 4 = 0 ∧ ((regs [(62, 0)]).rs 62).toNat < 0x20000) ∧
    ¬((regs [(5, 0x20000)]).rs 5).toNat < 0x20000 ∧ ¬((regs [(62, 2)]).rs 62).toNat % 4 = 0 ∧
    (regs [(5, 0x1FFFC)]).was.stale = [] := by decide

theorem witness_LoopStart :
    (16#5).toNat ≤ 16 ∧ ((regs [(3, 0xFFFFFFFF)]).rs 3).toNat < 2 ^ 32 ∧
    2 ^ 32 ≤ ((regs [(3, 0x100000000)]).rs 3).toNat := by decide

theorem witness_LoopBranch :
    let none_ := regs []
    let runs := here fun x => { x with loopState := 3 + 16 * 2 ^ 32 }
    let ends := here fun x => { x with loopState := 3 + 1 * 2 ^ 32, loopExec := 2 }
    none_.was.loopState.toNat / 2 ^ 32 % 32 = 0 ∧
    (runs.was.loopState.toNat / 2 ^ 32 % 32 = 16 ∧ 0 < runs.was.loopState.toNat % 2 ^ 32 ∧
      runs.was.loopExec.toNat + 1 < runs.was.loopState.toNat % 2 ^ 32 + 16 - 1) ∧
    (ends.was.loopState.toNat / 2 ^ 32 % 32 = 1 ∧
      ¬(ends.was.loopExec.toNat % 2 ^ 33 + 1 < ends.was.loopState.toNat % 2 ^ 32 + 1 - 1)) ∧
    0 ≤ (runs.focus.pc : Int) + 4 * (0x7FFF#20).toInt ∧ (runs.focus.pc : Int) + 4 * (0x7FFF#20).toInt ≤ 0x1FFFC := by decide

theorem witness_TrapEntry :
    let s := here fun x => { x with trapVec := 0x101 }
    0x0C ∈ [0x01, 0x02, 0x03, 0x04, 0x09, 0x0A, 0x0C] ∧ 15 < 16 ∧ 2 ^ 14 - 1 < 2 ^ 14 ∧
    (s.ctxOf 0 0).trapVec.getLsbD 0 = true := by decide

theorem witness_StopForDcp :
    (0xFF ∉ [0x01, 0x02, 0x03, 0x04, 0x09, 0x0A, 0x0C] ∧ 0xFF < 2 ^ 8) ∧ (State.reset.ctxOf 0 0).trapVec.getLsbD 0 = false ∧
    15 < 16 ∧ 2 ^ 14 - 1 < 2 ^ 14 := by decide

theorem witness_TrapInstructions :
    let s := here fun x => { x with trapVec := 0x101 }
    let t := { State.reset with focus := { Focus.reset with inBundle := true } }
    s.focus.slot < 14 ∧ s.focus.inBundle = false ∧ s.ctx.trapVec.getLsbD 0 = true ∧ t.focus.slot < 14 ∧
    t.focus.inBundle = true := by decide

theorem witness_ReturnFromTrap :
    let s := (here fun x => { x with supervisor := true, trapPc := 0x40, doneMask := 0x2000 }).writeN (flat 0 2 0x40) 4 0x80000000
    let h := decodeHeader (s.fetch s.focus.cell s.was.trapPc.toNat)
    s.was.supervisor = true ∧ (h.presence ≠ 0 ∧ ∀ j, j < 14 → h.presence.getLsbD j = true → s.was.doneMask.getLsbD j = true) ∧
    (s.ctx.trapVec = s.was.trapVec ∧ s.ctx.hidden = s.was.hidden ∧ s.ctx.doneMask = s.was.doneMask) ∧
    (decodeHeader ((regs []).fetch 0 0)).presence = 0 ∧ (user []).was.supervisor = false := by decide

theorem witness_Waits :
    let busy := here fun x => { x with busy := [(5, 1)] }
    let posted := here fun x => { x with s := [(1, 0x500)], evPend := 0x100 }
    ((regs [(1, 0)]).rs 1).toNat ≤ (regs [(1, 0)]).tai.toNat ∧ (regs [(1, 1)]).tai.toNat < ((regs [(1, 1)]).rs 1).toNat ∧
    2 ^ 11 ≤ ((regs [(1, 2048)]).rs 1).toNat ∧ (regs []).rs 1 = 0 ∧
    (posted.rs 1).toNat < 2 ^ 11 ∧ (∃ j, j < 11 ∧ (posted.rs 1).getLsbD j = true ∧ posted.was.evWord.getLsbD j = true) ∧
    (((regs [(1, 256)]).rs 1).toNat < 2 ^ 11 ∧ (regs [(1, 256)]).rs 1 ≠ 0 ∧
      ¬∃ j, j < 11 ∧ ((regs [(1, 256)]).rs 1).getLsbD j = true ∧ (regs [(1, 256)]).was.evWord.getLsbD j = true) ∧
    (∀ e, e < 6 → (0x3F#6).getLsbD e = true → (regs []).was.busy.get 0 e = 0) ∧
    (∃ e, e < 6 ∧ (0x20#6).getLsbD e = true ∧ busy.was.busy.get 0 e ≠ 0) := by decide

/-- Die 0 with its `REC_CTL` at the given value. -/
def recorder (v : W64) : State := State.reset.modDie 0 fun d => { d with csr := d.csr.ins 0x250 v }

theorem witness_CsrReads :
    (regs []).was.supervisor = true ∧ ((user []).was.supervisor = false ∧ (0x1FF#12).toNat < 0x200 ∧ 0x200 ≤ (0x200#12).toNat) ∧
    (State.reset.recCtl 0).getLsbD 2 = false ∧
    (((recorder 5).recCtl 0).getLsbD 2 = true ∧ ((recorder 5).recCtl 0).toNat % 4 = 1) ∧
    (((recorder 6).recCtl 0).getLsbD 2 = true ∧ ((recorder 6).recCtl 0).toNat % 4 = 2 ∧ ((recorder 6).replayRecord 3) = none ∧
      ((((recorder 6).writeN (recKey 0 0 + 8) 1 3).writeN (recKey 0 0 + 12) 4 (13 * 2 ^ 17)).replayRecord 3).isSome = true) := by decide

theorem witness_CsrWrites :
    ((0x010#12).toNat, 0x1F0F#64, true) ∈ ([(0x010, 0x1F0F, true)] : List (Nat × W64 × Bool)) ∧
    ((0x015#12).toNat, 0xFFFFFFFF#64, false) ∈ ([(0x015, 0xFFFFFFFF, false)] : List (Nat × W64 × Bool)) ∧
    (regs []).was.supervisor = true ∧ (user []).was.supervisor = false ∧ 0x200 ≤ (0x200#12).toNat ∧
    ((regs []).ctx.hwSet = 0 ∧ (regs []).ctx.hwNew = 0) ∧
    (here fun x => { x with hwSet := 0x100 }).ctx.hwSet.getLsbD 8 = true := by decide

theorem witness_SystemInstructions :
    let runs := here fun x => { x with caps := [(3, ⟨true, false, 7⟩)] }
    let traces := State.reset.modCell 0 fun k => { k with trace := { Trace.reset with size := 1, mask := 1 } }
    let given := here fun x => { x with granted := [3], grant := 200 }
    let asked := here fun x => { x with asked := [(3, 50)] }
    (State.reset.ctx.cap 3).running = false ∧ (runs.ctx.cap 3).running = true ∧ (State.reset.cell 0).trace.size = 0 ∧
    ((traces.cell 0).trace.size ≠ 0 ∧ (traces.cell 0).trace.mask.getLsbD 0 = true ∧ (traces.cell 0).trace.pend.length < 64) ∧
    (4 ∉ given.was.granted ∧ (∀ r, r ∈ asked.was.asked → r.1 ≠ 4) ∧
      200 < asked.was.asked.foldl (fun n r => n + r.2) asked.was.grant + (151#14).toNat) ∧ 3 ∈ given.was.granted ∧
    ((∀ r, r ∈ State.reset.ctx.asked → r.1 ≠ State.reset.powKey) ∧
      asked.was.asked.foldl (fun n r => n + r.2) asked.was.grant + (150#14).toNat ≤ 200) ∧
    given.was.grant = given.ctx.grant ∧ (7#3 : BitVec 3) ≠ 0 := by decide

theorem witness_TaskEnd :
    let late := here fun x => { x with st := .ready, land := [scalarResult 5 1 0 6] }
    (State.reset.recordHeld 0 0 15 = false ∧ State.reset.ctx.late = [] ∧ (regs []).endReady 0 0 = true) ∧
    (State.reset.modDie 0 fun d => { d with faults := { LogQueue.reset with held := [[0, 15 * 2 ^ 18]] } }).recordHeld 0 0 15 = true ∧
    late.recordHeld 0 0 15 = false ∧ late.ctx.late = [] ∧ late.endReady 0 0 = false := by decide

/-! ## Behaviour: worked examples of the spec, one step each -/

def val {α : Type} (o : Host.Outcome State Fault Refusal) (f : State → α) : Option α :=
  match o with
  | .next t => some (f t)
  | _ => none
/-- The issuing slot of the focus, as within a bundle. -/
def inSlot (n : Nat) (s : State) : State := { s with focus := { s.focus with slot := n } }
/-- A vector value from its lanes, lane 0 first. -/
def lanesOf (l : List Nat) : BitVec 512 := BitVec.ofNat 512 (l.reverse.foldl (fun a x => a * 2 ^ 32 + x) 0)
/-- Vector registers of cluster 0, all lanes full, with lane lists. -/
def vecs (n cl : Nat) (l : List (Nat × List Nat)) (q : Tab (BitVec 16)) : State :=
  inSlot n (here fun x => { x with v := l.map fun e => (vkey cl e.1, ⟨lanesOf e.2, 0⟩), q := q })
/-- The values in flight to vector registers: the newest first. -/
def lastLand (t : State) : BitVec 512 := (t.ctx.land.getLast?.map Landing.val).getD 0

/-- The example after R143: an LDI and an LDIS load 0x0012_C184 into s5. -/
theorem test_ldi_ldis :
    (val (exec (.ldi 5 0x4B) (regs [])) fun t => val (exec (.ldis 5 0x184) t) fun u => u.rs 5) = some (some 0x12C184) := by decide
/-- The example after R166: the target 0x602 is misaligned, so slot B stops with INFO 2 in the bundle at 0x400. -/
theorem test_brx_misaligned :
    let s := { (here fun x => { x with s := [(9, 0x602)], trapVec := 0x1001 }) with
      focus := { Focus.reset with slot := 12, inBundle := true, pc := 0x400, next := 0x40C } }
    (val (exec (.brx 9) s) fun t => (t.focus.stops, t.ctx.pc)) = some ([(12, 2, 2)], 0) := by decide
/-- The same stop outside a bundle enters the trap handler in supervisor mode. -/
theorem test_trap_entry :
    let s := { (here fun x => { x with s := [(9, 0x602)], trapVec := 0x1001 }) with
      focus := { Focus.reset with slot := 12, inBundle := false, pc := 0x400, next := 0x40C } }
    (val (exec (.brx 9) s) fun t => (t.ctx.trapCause, t.ctx.trapPc, t.ctx.trapSlot)) = some (0x20002, 0x400, 12) := by decide
/-- The example after R151: the CALL at 0x100 of a bundle of 12 bytes links 0x10C. -/
theorem test_call_links :
    let s := { (regs []) with focus := { Focus.reset with slot := 12, pc := 0x100, next := 0x10C } }
    (val (exec (.call 0x80) s) fun t => (t.rs 62, t.ctx.pc)) = some (0x10C, 0x300) := by decide
/-- The example after R200: half 0 of v3 from v1 = 1 + 2^-8 rounds to 1.0, a tie to even. -/
theorem test_cvt_half0 :
    (val (exec (.cvt 3 1 4 0) (vecs slotV0 0 [(1, [0x3F808000])] [])) fun t => (lastLand t).toNat % 2 ^ 32) = some 0x3F80 := by
  decide +kernel
/-- Half 1 keeps half 0. -/
theorem test_cvt_half1 :
    (val (exec (.cvt 3 2 5 0) (vecs slotV0 0 [(2, [0xC0200000]), (3, [0x3F80])] [])) fun t => (lastLand t).toNat % 2 ^ 32)
      = some 0xC0203F80 := by decide +kernel
/-- The example after R59: PACKB of eight FP32 values to E2M1. -/
theorem test_packb :
    let v := [0x3F666666, 0xC02CCCCD, 0x40800000, 0x41200000, 0x3DCCCCCD, 0xBECCCCCD, 0x40533333, 0]
    (val (exec (.packb 3 1 8 0) (vecs slotV0 0 [(1, v)] [])) fun t => (lastLand t).toNat % 2 ^ 32)  = some 0x048074B1 := by decide +kernel
/-- The example after R210: COMPRESS of lanes 2, 4, 5, 9 and 11. -/
theorem test_compress :
    (val (exec (.compress 5 1 4 3 0) (vecs 5 2 [(1, (List.range 16).map (10 + ·))] [(19, 0x0A34)])) fun t =>
      t.ctx.land.map fun e => (e.val.toNat, e.reg)) = some [((lanesOf [12, 14, 15, 19, 21]).toNat, 5), (0x1F, 4)] := by decide +kernel
/-- The example after R80: the tile of (130, 35) and the address found through entry 7. -/
theorem test_xlt_layout :
    let t : Tensor := ⟨3, 0, false, [300, 40, 1, 1], [6, 5, 0, 0], 0, []⟩
    t.layout [130, 35, 0, 0] = some (7, 0x184) := by decide +kernel
/-- The examples after R100: a raw burgee and an AX burgee. -/
theorem test_burgee_raw :
    burgeeOf false (List.replicate 8 0xFF ++ toBytes 8 5 ++ toBytes 4 3) = 0xF := by decide +kernel
theorem test_burgee_ax :
    burgeeOf true (toBytes 8 5 ++ toBytes 8 (2 ^ 64 - 3)) = 0x2000000000000002 := by decide +kernel
/-- The example after R70: 1.5 with E = 5 is 0x0300_0000_0000_0000 in AX64. -/
theorem test_ax64 : (toAx 5 (fp32.value 0x3FC00000)).1 = 0x0300000000000000 := by decide +kernel
/-- The example after R13: cell 53 of a region of 4 × 3 at 34 has POS 4, and POS 5 is cell 52. -/
theorem test_ring_order : (regionCells 0 34 4 3) = [34, 35, 36, 37, 53, 52, 51, 50, 66, 67, 68, 69] := by decide

/-- A sequencer stream that has not started. -/
def stream : SeqStream := ⟨0, false, 0, [0, 0, 0, 0], [⟨4, 0, 1⟩], 64, 0, 0, [], [], 0, false, none, [], none, none, 0, [], none⟩

theorem witness_TranslationRequest :
    2 ^ 48 ≤ ((regs [(2, 0x1000000000000)]).rs 2).toNat ∧ ((regs [(2, 0xFFFFFFFFFFFF)]).rs 2).toNat < 2 ^ 48 ∧
    (regs []).recordHeld 0 0 15 = false ∧
    (State.reset.modDie 0 fun d => { d with faults := { LogQueue.reset with held := [[0, 15 * 2 ^ 18]] } }).recordHeld 0 0 15 = true ∧
    (let s := (regs [(1, 5)]).modDie 0 fun d => { d with tensors := [(5, ⟨3, 0, false, [300, 40, 1, 1], [6, 5, 0, 0], 0, []⟩)] }
     let k := s.modCell 0 fun k => { k with seqs := [(0, { stream with tensor := 5, entry := some (0, 0x8000000000000001) })] }
     let hit (s : State) : Bool := (((s.die 0).tensors.find? fun e => e.1 == (s.rs 1).toNat % 2 ^ 16).bind fun e =>
       (e.2.layout (xltCoords (s.rs 1) (s.rs 2))).bind fun l => (s.seen.portEntry 5 l.1).map fun w => entryOut (some w) l.2).isSome
     hit s = false ∧ hit k = true) := by decide

theorem witness_MemoryIsBytes : Memory.wf (State.reset.writeN 0x10 3 0x30201).mem = true := by decide

/-- A context with a store of class 1 that waits, and one with a release of class 0 on its way to its own cell. -/
def waiting1 : State := { (here fun x => { x with st := .ready, pend := [⟨1, 1, .write, [⟨0, [1], 0⟩]⟩] }) with lag := true }
def releasing : State := here fun x => { x with awaits := [⟨0, .store, 0, 0xFF, 0, 3, true, false, 0x40, 0, 0, none, none, false, 0⟩] }

theorem witness_ScalarLoadsAndStores :
    (regs []).Plain 0x1FFFF8 8 8 false false false ∧ (regs []).Plain 0x20002FFFFFF 1 1 true false false ∧
    Memory.wf (regs []).mem = true ∧
    waiting1.Clear 0x1FFFF8 8 8 false false false ∧ waiting1.prompt 0 = false ∧ waiting1.prompt 1 = false ∧
    waiting1.barred 0 0 waiting1.ctx = [] ∧ releasing.barred 0 0 releasing.ctx ≠ [] := by
  unfold State.Plain State.Clear State.Prompt; decide

theorem witness_CsrWindowAccess :
    let s := regs [(1, 0x60000001FF8)]
    aSpace (s.localAddr 0 (s.rs 1)) = 3 ∧ s.localError (s.rs 1) 8 8 false false false = none ∧
    s.localError (s.rs 1) 8 8 true false false = none ∧ (s.barred 0 3 s.ctx = [] ∧ s.ctx.pend = []) ∧
    (let h := here fun x => { x with supervisor := true, awaits := releasing.ctx.awaits }
     h.localError (s.rs 1) 8 8 false false false = none ∧ h.barred 0 0 h.ctx ≠ []) := by decide

/-- Scratch word 0x40 of cell 0 empty. -/
def emptied : State := (regs [(1, 0x40)]).setFull 0x40 false

theorem witness_SynchronisingAccesses :
    Tab.wf true emptied.full = true ∧ Memory.wf emptied.mem = true ∧
    (emptied.Plain 0x1FFFF8 8 8 false true false ∧ emptied.isFull 0x1FFFF8 = true ∧ emptied.wordTaken 0x1FFFF8 = false) ∧
    (emptied.localError 0x40 8 8 false true false = none ∧ emptied.isFull 0x40 = false) ∧
    (emptied.Clear 0x40 1 1 true true false ∧ emptied.mustTravel (emptied.localAddr 0 0x40) = false) ∧
    (waiting1.Clear 0x40 1 1 true true false ∧ waiting1.mustTravel (waiting1.localAddr 0 0x40) = true) ∧
    emptied.localError 0x40 8 8 true true false = none ∧ emptied.Prompt ∧
    (here fun x => x).wordTaken 0x40 = false ∧
    (State.reset.modCell 0 fun k => k.putCtx 1 { Ctx.reset with hold := .word 0x40 }).wordTaken 0x40 = false ∧
    ({ (State.reset.modCell 0 fun k => k.putCtx 1 { Ctx.reset with hold := .word 0x40 }) with cycle := 1 }).wordTaken 0x40 = true := by
  unfold State.Plain State.Clear State.Prompt; decide

theorem witness_Atomics :
    (regs []).Plain 0x1FFFFC 4 4 true false true ∧ Memory.wf (regs []).mem = true ∧ ((regs []).recCtl 0).getLsbD 3 = false ∧
    ((recorder 8).Plain 0 8 8 true false true ∧ ((recorder 8).recCtl 0).getLsbD 3 = true ∧
      ((recorder 8).recCtl 0).toNat % 4 ≠ 1 ∧ ((recorder 8).recCtl 0).toNat % 4 ≠ 2) ∧
    (waiting1.Clear 0x40 8 8 true false true ∧ waiting1.lag = true ∧ waiting1.barred 0 1 waiting1.ctx = [] ∧
      (waiting1.recCtl 0).getLsbD 3 = false) := by
  unfold State.Plain State.Clear State.Prompt; decide

theorem witness_VectorLoadsAndStores :
    ((regs []).Plain 0x1FFE00 512 64 false false false ∧ aSpace 0x1FFE00 ≠ 1) ∧
    ((regs []).Plain 0x20000000000 64 64 false false false ∧ aSpace 0x20000000000 = 1) ∧
    (regs []).Plain 0x1FFE00 512 64 true false false := by
  unfold State.Plain State.Clear State.Prompt; decide

theorem witness_FarForms :
    let s := regs []
    s.farError 0x80000000000 1 1 false false = none ∧ s.farError 0x80000000000 8 8 true false = none ∧
    s.farError 0x800000FFE00 512 64 false false = none ∧ s.farError 0x80000000000 512 64 true false = none ∧
    s.farError 0x80000000000 8 8 true true = none ∧ s.replaying s.focus.cell = false := by decide

theorem witness_ErrorResponses :
    let s := regs []
    s.focus.slot < 14 ∧ s.localError 0x1FFFFC 8 8 false false false = some 0 ∧ s.localError 0x4 8 8 true false false = some 1 ∧
    s.localError 0x20000000000 8 8 false true false = some 3 ∧ s.localError 0x40000000000 8 8 true false true = some 2 ∧
    s.localError 0x8 512 64 false false false = some 1 := by decide

theorem witness_AccessChecks :
    let s := user []
    s.pkg.number.toNat ≤ 992 ∧ s.focus.cell < 2048 ∧
    (0x60000002000#64).toNat % 2 ^ 26 = 0x2000 ∧ s.localError 0x60000002000 8 8 false false false = some 0 ∧
    s.localError 0x60000001001 8 8 false false false = some 1 ∧ s.localError 0x60000001000 8 8 false true false = some 3 ∧
    s.localError 0x60000001000 8 8 false false false = some 2 ∧ s.localError 0x60000000FF8 8 8 false false false = none := by
  decide

/-- Barrier 0x100 of cell 0 with one arrival to come, signal word 0x140 at 5. -/
def objects : State := ((regs []).writeN 0x100 8 (1 + 4 * 2 ^ 24)).writeN 0x140 8 5

theorem witness_BarriersAndSignals :
    let s := objects
    (s.mustTravel 0x100 = false ∧ Memory.wf s.mem = true ∧ Tab.wf true s.full = true ∧
      ∀ n, n < 2 → ((s.cell 0).ws.get 0 (2 * n + 1)).getLsbD 0 = false) ∧
    s.objError 0x100 16 16 = none ∧ (0 < (0xFFFFFF#64).toNat ∧ (0xFFFFFF#64).toNat < 2 ^ 24) ∧
    (0xFFFFFFFFFFFF#64).toNat < 2 ^ 48 ∧ aPkg (s.objAddr 0x100) = s.pkg.number ∧
    (s.barrier 0x100).phase = (0x100#64).getLsbD 0 ∧ (s.barrier 0x100).phase ≠ (0x101#64).getLsbD 0 ∧
    s.objError 0x140 8 8 = none ∧ (5#64).toNat ≤ s.numberAt 0x140 8 ∧ s.numberAt 0x140 8 < (6#64).toNat ∧
    (s.ctx.pend = [] ∧ ∀ w, w ∈ s.ctx.awaits → s.barring 0 w = false) ∧
    (2 ^ 48 ≤ (0x1000000000000#64).toNat ∧ s.objError 0x104 16 16 = some 1 ∧ s.objError 0x144 8 8 = some 1) ∧
    (s.objError 0x80000000100 16 16 = none ∧ s.mustTravel (s.objAddr 0x80000000100) = true ∧
      aPkg (s.objAddr 0x80000000100) = s.pkg.number) ∧
    (s.objError 0x40000000000100 16 16 = none ∧ s.objError 0x40000000000100 8 8 = none ∧
      aPkg (s.objAddr 0x40000000000100) ≠ s.pkg.number) := by decide

/-- A port of two slots for payloads of up to 64 bytes, a tag of two slots, and an input slot held by the task. -/
def streaming : State := (regs [(1, 0x1000), (2, 64), (3, 1)]).modCell 0 fun k => { (k.putCtx 0 { k.ctx 0 with
    bound := [⟨0, 2, 1, false⟩] }) with
  ports := [(3, { PortSt.reset with slots := 2, pay := 64, base := 0x2000 })]
  tags := [(2, { TagSt.reset with slots := 2, pay := 64, base := 0x3000 })] }

/-- The same for a halyard port whose micro-batch 0 holds pennant 0, and with the port stopped. -/
def haPort (stopped : Bool) : State := streaming.modCell 0 fun k => { k with
  hal := { Halyard.reset with paired := true, cpm := 1, held := [0] }
  ports := [(3, { (k.port 3) with halyard := true, stopped := stopped })] }

theorem witness_StreamInstructions :
    let s := streaming
    let port := s.seen.port 3
    ((regs []).seen.port 3).slots = 0 ∧
    (port.slots ≠ 0 ∧ ((s.rs 2).getLsbD 15 = false ∧ (s.rs 2).toNat < 2 ^ 48 ∧ (s.rs 2).toNat % 2 ^ 13 ≤ port.pay ∧
        (s.rs 2).toNat / 2 ^ 32 = 0 ∧ port.fmt.toNat ≠ fmtAX ∧ port.halyard = false) ∧
      s.emitHeld 0 3 0 = false ∧ (s.ctx.pend = [] ∧ ∀ w, w ∈ s.ctx.awaits → s.barring 0 w = false) ∧
      (s.rs 1).toNat + 64 ≤ 0x200000 ∧ (s.rs 1).toNat % 8 = 0 ∧ s.poisoned (flat 0 0 0x1000) 64 = false ∧
      s.here.port 3 = port ∧ 0 ≤ (port.nextP - port.ackP).toInt ∧ Memory.wf s.mem = true ∧
      namePkg port.dest = s.pkg.number ∧ nameCell port.dest / 256 = 0 ∧ (s.die 0).shadow = []) ∧
    (0x200000 < 0x1FFFF8 + 64 ∧ 0x1004 % 8 ≠ 0 ∧ (0x8000#64).getLsbD 15 = true) ∧
    ((streaming.modCell 0 fun k => { k with ports := [(3, { k.port 3 with ackP := 1 })] }).seen.port 3).nextP.toInt - 1 < 0 ∧
    ((haPort true).emitHeld 0 3 0 = true ∧ (haPort false).emitHeld 0 3 0 = false ∧
      ((haPort false).seen.port 3).halyard = true ∧ ((haPort false).seen.port 3).slots ≠ 0) ∧
    ((∃ e, e ∈ s.ctx.bound ∧ e.tag = 2 ∧ e.slot = (s.rs 3).toNat ∧ e.freed = false) ∧ (s.rs 3).toNat < 64 ∧
      s.slotReads (0x3000 + 128) 128 = [] ∧ (s.here.tag 2).base + (s.rs 3).toNat * 128 = 0x3000 + 128 ∧
      Tab.wf true s.full = true) ∧
    (∀ e, e ∈ s.ctx.bound → e.tag = 2 → e.slot = (s.rs 2).toNat % 64 → e.freed = true) ∧
    ((regs []).seen.tag 2).slots = 0 ∧
    (s.seen.tag 2).slots ≠ 0 := by
  decide

/-- A cell of a region of two cells. -/
def region2 : State := ((regs [(1, 0x200), (2, 0x4000), (3, 0x4001), (4, 512)]).modCell 0 fun k =>
    { k with regionSize := 2 }).modCell 1 fun k => { k with regionSize := 2 }

/-- A far load of class 1 in flight for register 5. -/
def farLoad : Await := ⟨0, .load, 5, 0, 0, 3, true, false, 0x80000000000, 1, 0, none, none, false, 0⟩

theorem witness_FenceMulticastRotate :
    let s := region2
    let f := here fun x => { x with awaits := [farLoad] }
    (f.was.awaits.filter fun w => (2#8).getLsbD w.oc && w.kind != .xlt && f.scopeHolds 0 4 w.addr) ≠ [] ∧
    (s.was.awaits.filter fun w => (0xFF#8).getLsbD w.oc && w.kind != .xlt && s.scopeHolds 0 4 w.addr) = [] ∧
    s.seen.regSize = 2 ∧ (s.rs 1).toNat < 2 ^ 16 ∧ (s.rs 1).toNat % 256 < s.seen.regSize ∧ (s.rs 2).toNat < 2 ^ 26 ∧
    s.localError (s.addrOf 0 0 0x4000) 8 8 true true false = none ∧
    (s.rs 3).toNat % 512 ≠ 0 ∧
    ((s.rs 4).toNat % 512 = 0 ∧ 512 ≤ (s.rs 4).toNat ∧ (s.rs 4).toNat ≤ 16384 ∧ s.here.rot = none ∧
      inScratch 0 (s.rs 2).toNat 512 = true ∧ inScratch 0 0x1FFE00 512 = true ∧ inScratch 0 0x1FFE08 512 = false ∧
      Tab.wf true s.full = true ∧ s.ctx.pend = [] ∧ ∀ w, w ∈ s.ctx.awaits → s.barring 0 w = false) ∧
    (s.modCell 0 fun k => { k with rot := some ⟨0, [], none, 0, 512, 0, 0, 4, 0⟩ }).here.rot ≠ none ∧
    s.localError (s.addrOf 0 0 0x4004) 8 8 true true false = some 1 ∧ s.seen.regSize ≤ (s.rs 1).toNat % 256 + 2 := by decide

/-- Cluster 0 under STOP with lane 0 of v5 empty; every other lane is full. -/
def stopping : State := (here fun x => { x with v := [(5, ⟨0, 1⟩)] }).modCell 0 fun k => { k with vcfg := [(0, 2)] }
/-- The same lane under PROPAGATE. -/
def passing : State := here fun x => { x with v := [(5, ⟨0, 1⟩)] }

/-- The two cases of every lane-wise operation and compare: an empty lane inside the mask of a STOP cluster, and none. -/
theorem witness_lanes :
    (∃ cl, cl ∈ stopping.clusters ∧ stopping.stopsOnEmpty cl ∧
      ∃ j, (j < 16 ∧ (stopping.was.qr cl (0#3).toNat).getLsbD j = true) ∧ ∃ r, r ∈ [5#5, 6#5] ∧ stopping.laneGone cl r j) ∧
    ¬(∃ cl, cl ∈ passing.clusters ∧ passing.stopsOnEmpty cl ∧
      ∃ j, (j < 16 ∧ (passing.was.qr cl (0#3).toNat).getLsbD j = true) ∧ ∃ r, r ∈ [5#5, 6#5] ∧ passing.laneGone cl r j) := by
  refine ⟨⟨0, by decide, ?_, 0, by decide, 5, by decide, ?_⟩, ?_⟩
  · unfold State.stopsOnEmpty; decide
  · unfold State.laneGone; decide
  · rintro ⟨cl, h1, h2, -⟩
    revert cl
    unfold State.stopsOnEmpty
    decide

theorem witness_FloatingPointCorners :
    (0xFFFFFFFF < 2 ^ 32 ∧ 0x7F800000 < 0xFFFFFFFF % 2 ^ 31) ∧ (0x7F800001 / 2 ^ 22 % 2 = 0 ∧ 0x7F800000 < 0x7F800001 % 2 ^ 31) ∧
    0xFF800000 % 2 ^ 31 = 0x7F800000 ∧ 0x80000000 % 2 ^ 31 = 0 ∧ ¬0x7F800000 < 0xFF7FFFFF % 2 ^ 31 ∧
    0xFF7FFFFF % 2 ^ 31 < 0x7F800000 ∧ (⟨.rne, false, false⟩ : FpCtl).ftz = false ∧
    ∀ g, g ∈ [opAdd, opSub, opMulF] → (g ⟨.rne, false, false⟩ fp32 [0x7F800001, 0]).1 = 0x7FC00000 := by decide

theorem witness_RoundingIsDirected :
    e5m2 ∈ [fp32, fp16, bf16, e4m3, e5m2] ∧ 0 < 1 ∧ (e5m2.code .rtz false 1 0).2.1 = false ∧ (e5m2.code .rtz false 0x1FFF 0).2.1 = true := by
  decide

theorem witness_LaneMovements :
    (∀ cl, cl ∈ passing.clusters → ∀ j, j < 16 → (passing.was.qr cl (0#3).toNat).getLsbD j = true → ¬passing.laneGone cl 6 j) := by
  unfold State.laneGone; decide

theorem witness_LanePredicatesAndScalars :
    (∃ cl, cl ∈ stopping.clusters ∧ stopping.stopsOnEmpty cl ∧ stopping.laneGone cl 5 (0#4).toNat) ∧
    ¬(∃ cl, cl ∈ stopping.clusters ∧ stopping.stopsOnEmpty cl ∧ stopping.laneGone cl 5 (15#4).toNat) ∧ (63#6 : BitVec 6) ≠ 0 := by
  refine ⟨⟨0, by decide, ?_, ?_⟩, ?_, by decide⟩
  · unfold State.stopsOnEmpty; decide
  · unfold State.laneGone; decide
  · unfold State.laneGone State.stopsOnEmpty; decide

theorem witness_Reductions :
    ∀ cl, cl ∈ passing.clusters → ∀ j, j < 16 → (passing.was.qr cl (0#3).toNat).getLsbD j = true → ¬passing.laneGone cl 6 j := by
  unfold State.laneGone; decide

theorem witness_Conversions :
    (∀ r, r ∈ [6#5, 7#5, 8#5] → ∀ cl, cl ∈ passing.clusters → ∀ j, j < 16 → ¬passing.laneGone cl r j) ∧
    (6#5).toNat ∈ [6, 7, 8] ∧ ¬((4 ≤ (9#5).toNat ∧ (9#5).toNat ≤ 7) ∨ (0x0C ≤ (9#5).toNat ∧ (9#5).toNat ≤ 0x13) ∨ 0x1C ≤ (9#5).toNat) := by
  unfold State.laneGone; decide

theorem witness_SpecialFunctions :
    (¬∃ cl, cl < 8 ∧ passing.stopsOnEmpty cl ∧ ∃ j, j < 16 ∧ (passing.was.qr cl (0#3).toNat).getLsbD j = true ∧ passing.laneGone cl 5 j) ∧
    (0xFFFFFFFF < 2 ^ 32 ∧ 0x7F800000 < 0xFFFFFFFF % 2 ^ 31) ∧ 0x80800000 ≤ 0xFF800000 := by
  refine ⟨?_, by decide, by decide⟩
  rintro ⟨cl, h1, h2, -⟩
  revert cl
  unfold State.stopsOnEmpty
  decide

/-! ### The matrix engine -/

/-- Engine 0 of cell 0, with the M0 slot in focus. -/
def matrix (m : MatEngine) : State :=
  ({ State.reset with focus := { Focus.reset with slot := 9 }, args := { Args.empty with c := 0, e := 0 } } : State).modCell 0 fun k =>
    { k with mats := [(0, m)], seqs := [(1, ⟨2, false, 0, [], [], 64, 0, 0, [], [], 0, false, none, [], none, none, 0, [], none⟩),
      (2, ⟨1, false, 0, [], [], 64, 0, 0, [], [], 0, false, none, [], none, none, 0, [], none⟩)] }

/-- An operation of context 0 in the queue. -/
def queued (op t : Nat) (aux : BitVec 11) : MEntry := ⟨0, op, t, aux, 0, none, none, [(0, 9)], 0, false, false, false, [], 0, [], [], []⟩

/-- Tile 0 owned by context 0, tile 1 by context 1, tile 2 owned with a row whose checksum does not pass. -/
def loaded : MatEngine := { MatEngine.reset with
  pair := some (8, 8), loaded := true, swapped := true
  tiles := [(0, { Tile.reset with owner := some 0 }), (1, { Tile.reset with owner := some 1 }),
    (2, { Tile.reset with owner := some 0, ru := 1, acc := [(0, 0x3F800000)] }), (3, { Tile.reset with owner := some 7 })] }

theorem witness_MatrixInstructions :
    let s := matrix loaded
    let m := s.here.mat (9 - s.focus.slot)
    let full := ((matrix { loaded with queue := List.replicate 8 (queued 7 0 0) }).here.mat 0)
    m.queue.length < 8 ∧ 8 ≤ full.queue.length ∧ (m.tile 0).owner = some 0 ∧ (m.tile 1).owner ≠ some 0 ∧
    (m.tile 1).owner = some 1 ∧ (m.tile 5).owner = none ∧ (m.tile 3).owner = some 7 ∧ m.aside = false ∧
    (m.queue = [] ∧ m.running = []) ∧ ¬(full.queue = [] ∧ full.running = []) ∧
    ((3 ≤ (8#4).toNat ∧ (8#4).toNat ≤ 8) ∧ ¬(9 ≤ (8#4).toNat)) ∧
    (MatEngine.reset.pair = none ∧ MatEngine.reset.loaded = false) ∧ (m.pair ≠ none ∧ m.loaded = true) ∧
    (m.swapped = true ∧ ∃ p, m.pair = some p ∧ (127#7).toNat + 1 ≤ 128 ∧ p = (8, 8)) ∧ MatEngine.reset.swapped = false ∧
    (∃ u, s.here.seq 1 = some u ∧ u.target = 2) ∧ (∃ u, s.here.seq 2 = some u ∧ u.target = 1) ∧ s.here.seq 15 = none ∧
    (m.tile 0).firstBad = none ∧ (m.tile 2).firstBad = some 0 ∧ (full.queue.any fun e => e.tile == some 0) = true := by
  refine ⟨by decide, by decide, by decide, by decide, by decide, by decide, by decide, rfl, by decide, fun h => List.cons_ne_nil _ _ h.1, by decide, by decide, by decide,
    ⟨rfl, _, rfl, by decide, rfl⟩, rfl, ⟨_, rfl, rfl⟩, ⟨_, rfl, rfl⟩, rfl, by decide, by decide +kernel, by decide +kernel⟩

theorem witness_MatrixEngineSteps :
    let idle := matrix { loaded with queue := [queued 7 0 0] }
    let later : State := { idle with cycle := 5 }
    let frozen : State := later.modCell 0 fun k => { k with froze := true }
    let feeds : State := { matrix { loaded with queue := [queued 4 0 127], running := [(queued 4 0 0, 2, 27)] } with cycle := 5 }
    let loads : State := { matrix { loaded with queue := [queued 2 0 0] } with cycle := 5 }
    let ends : State := { matrix { loaded with running := [(queued 6 0 16, 5, 5)] } with cycle := 5 }
    let mult : State := { matrix { loaded with running := [(queued 4 0 127, 5, 5)], active := some ⟨8, []⟩ } with cycle := 5 }
    let table : State := { State.reset with cells := [(0, { Cell.reset with rwLoad := some (9, 0x20000#64 + 0x20000) })] }
    let past : State := { State.reset with cells := [(0, { Cell.reset with rwLoad := some (9, 0x5FFF0) })] }
    ((matrix loaded).cell 0).mat 0 = loaded ∧ loaded.queue = [] ∧ loaded.running = [] ∧
    (((idle.cell 0).mat 0).queue = [queued 7 0 0] ∧ ¬((queued 7 0 0).at_ < idle.clock 0)) ∧
    ((frozen.cell 0).froze = true ∧ (later.cell 0).froze = false ∧ (queued 7 0 0).at_ < later.clock 0 ∧
      ((later.cell 0).mat 0).running = []) ∧
    ((feeds.cell 0).froze = false ∧ (∀ u, u ∈ ((feeds.cell 0).mat 0).running → u.1.op = 4 ∧ u.2.1 < feeds.clock 0) ∧
      feeds.matError 0 (queued 4 0 127) (rowBytes 64 8 * 128) 8 false = none ∧
      feeds.poisoned (flatOf (feeds.localAddr 0 0)) (rowBytes 64 8 * 128) = false) ∧
    (((loads.cell 0).mat 0).pair = some (8, 8) ∧
      loads.matError 0 (queued 2 0 0) (imageBytes (engineK 0) 8 + checkBytes (engineK 0)) 64 false = none ∧
      loads.poisoned (flatOf (loads.localAddr 0 0)) (imageBytes (engineK 0) 8 + checkBytes (engineK 0)) = false) ∧
    (((ends.cell 0).mat 0).running = [(queued 6 0 16, 5, 5)] ∧ 5 ≤ ends.clock 0 ∧ ¬5 ≤ (matrix loaded).clock 0 ∧
      ends.matError 0 (queued 6 0 16) 64 64 true = none ∧
      ends.matError 0 { queued 6 0 16 with sval := 4 } 64 64 true = some 1 ∧ Memory.wf ends.mem = true) ∧
    ((mult.cell 0).mat 0).active ≠ none ∧
    ((State.reset.cell 0).rwLoad = none ∧ (table.cell 0).rwLoad = some (9, 0x40000) ∧
      0x40000 / 16 % 2 ^ 13 * 16 + 16 * (0x40000 / 2 ^ 17 % 2 ^ 7) ≤ 0x20000 ∧
      (past.cell 0).rwLoad = some (9, 0x5FFF0) ∧ 0x20000 < 0x5FFF0 / 16 % 2 ^ 13 * 16 + 16 * (0x5FFF0 / 2 ^ 17 % 2 ^ 7)) := by
  decide +kernel

/-! ### Engines, streams and collectives -/

/-- A copy command of context 0 whose descriptor stands at 0x100, and an engine command. -/
def command (w0 w1 : W64) : Cmd := ⟨0, 0, 0, 0, true, w0, w1, none, none⟩

/-- A cell that is the bonded half of a pair, with a tag and a port for it, and a supervisor task with four operands. -/
def engines (l : List (Nat × List Cmd)) : State :=
  (regs [(1, 3), (2, 0x100), (3, 0x1000201), (4, 2)]).modCell 0 fun k => { k with
    engines := l, stageId := 2 ^ 32
    tags := [(0, { TagSt.reset with slots := 2, pay := 64 })]
    ports := [(0, { PortSt.reset with slots := 2, pay := 64, dest := State.reset.cellName (bonded 0) })] }

theorem witness_EngineCommands :
    let s := engines []
    let full := engines [(0, List.replicate 16 (command 1 0)), (3, List.replicate 4 (command 2 0))]
    let tok := engines [(1, List.replicate 7 (command 0x102 1))]
    let tok8 := tok.modCell 0 fun k => { k with seqs := [(1, { stream with released := 1 })] }
    (16 ≤ (full.here.queue 0).length ∧ 4 ≤ (full.here.queue 3).length) ∧ (s.here.queue 0).length < 16 ∧
    (tok.here.tokensHeld 1 = 7 ∧ 8 ≤ tok8.here.tokensHeld (((0x102#64).toNat / 256) % 16) ∧ (tok8.here.queue 1).length < 8) ∧
    ((3#64).toNat % 256 = 3 ∧ (0x1FFFE0#64).toNat % 32 = 0 ∧ (0x1FFFE0#64).toNat + 32 ≤ 0x200000) ∧
    ((0xF02#64).toNat % 256 = 2 ∧ (0xF02#64).toNat < 16 * 256 ∧ (1#64).toNat < 2) ∧
    ((0xFF02#64).toNat % 256 = 2 ∧ (0xFF02#64).toNat < 256 * 256) ∧
    ((0x201#64).toNat % 256 = 1 ∧ 0x201#64 &&& 0xFFF7FF = 0x201 ∧ s.hpairOk 0 0x201 0 = true) ∧
    ((0x10001#64).toNat % 256 = 1 ∧ (0x10001#64).toNat < 2 ^ 40 ∧ (0x10001#64).toNat / 2 ^ 16 ≠ 0 ∧ aSpace 0x20000000000 = 1 ∧
      s.accessFault ⟨0x20000000000, 4096, 4096, true, false, false, true, true⟩ = none) ∧
    (0x10301#64 &&& 0xFFFF03FF = 0x10301 ∧ s.was.supervisor = true) ∧
    ((2#64).toNat % 256 = 2 ∧ s.accessFault ⟨0x40, 8, 8, true, true, false, false, true⟩ = none) ∧ (4#64).toNat % 256 > 3 ∧ (0x104#64).toNat % 8 ≠ 0 := by decide +kernel

/-- A FILL of 16 bytes at scratch 0x400 of cell 0, with its descriptor in memory. -/
def copying (code : W64) : State :=
  (((engines [(0, [command code 0x100])]).writeN 0x100 8 0x300).writeN 0x108 8 0x400).writeN 0x110 4 16

theorem witness_CopyCompletes :
    let s := copying 3
    let m := command 3 0x100
    let c := copying 1
    let r : CopyRun := ⟨command 1 0, [], 7⟩
    let f : State := { State.reset with
      cells := [(0, { Cell.reset with copies := [r] })], args := { Args.empty with die := 0, n := 7, flag := true } }
    State.reset.nextCopy 0 = none ∧ (s.nextCopy 0 = some m ∧ c.nextCopy 0 = some (command 1 0x100)) ∧ m.node = none ∧
    (∀ x, x < 5 → s.recordHeld 0 x 0 = false) ∧ Memory.wf s.mem = true ∧
    (let l := s.readBytes (flat 0 0 0x100) 32
     0 < ofBytes ((l.drop 16).take 4) ∧ ofBytes ((l.drop 20).take 4) = 0 ∧ ofBytes ((l.drop 24).take 8) = 0 ∧
     s.engineFault ⟨BitVec.ofNat 64 (ofBytes ((l.drop 8).take 8)), 16, 1, true, false, false, true, true⟩ = none ∧
     s.engineFault ⟨BitVec.ofNat 64 (ofBytes ((l.drop 0).take 8)), 16, 1, false, false, false, true, true⟩ = none ∧
     aPkg (BitVec.ofNat 64 (ofBytes ((l.drop 8).take 8))) = s.pkg.number ∧ aSpace (BitVec.ofNat 64 (ofBytes ((l.drop 8).take 8))) ≠ 3) ∧
    (let h := ((copying 2).writeN 0x114 4 4).readBytes (flat 0 0 0x100) 32
     let g := ((copying 2).writeN 0x114 4 8).readBytes (flat 0 0 0x100) 32
     ofBytes ((h.drop 20).take 4) = 4 ∧ ofBytes ((g.drop 20).take 4) = 8) ∧
    (s.agenda = [] ∧ s.flying = []) ∧
    (∀ j, j < 2 → ((s.cell (flatOf 0x400 / 2 ^ 43)).ws.get 0 (2 * j + 1)).getLsbD 0 = false) ∧
    (f.cells = [(0, { Cell.reset with copies := [r] })] ∧ r.fid = f.args.n ∧ r.cmd.node = none ∧ f.args.flag = true) ∧
    ∀ e, e ∈ s.cells → e.1 / 256 = s.args.die → ∀ r, r ∈ e.2.copies → r.fid ≠ s.args.n := by decide +kernel

/-- A stream for loads with one unit waiting, one that has ended, and the engines' commands at the head of their queues. -/
def sequenced : State := (engines [(1, [command 0x103 0]), (2, [command 0x502 0]), (3, [command 0x201 0]), (4, [command 0x10101 0x20000000000])]).modCell 0
  fun k => { k with
    seqs := [(1, ⟨0, false, 0, [], [], 512, 1, 0, [⟨some 0, 4, [1, 2, 3, 4], 0⟩], [], 0, false, none, [], none, none, 0, [], none⟩),
      (2, ⟨0, false, 0, [], [], 512, 1, 1, [], [], 0, true, none, [], none, none, 0, [], none⟩),
      (3, ⟨1, false, 0, [], [], 512, 0, 0, [], [], 0, false, none, [], none, none, 0, [], none⟩)]
    groups := [(5, ⟨1, 1, 0, 0, [0], 7, none⟩)] }

theorem witness_SequencerAndCommands :
    let s := sequenced
    let q1 : SeqStream := ⟨0, false, 0, [], [], 512, 1, 0, [⟨some 0, 4, [1, 2, 3, 4], 0⟩], [], 0, false, none, [], none, none, 0, [], none⟩
    let p := { engines [(3, [command 3 0x100])] with args := { Args.empty with e := 3, n := 9 } }
    let pairing := p.modCell 0 fun k => { k with hal := { k.hal with pairing := some (command 0x201 0) } }
    let paired := p.modCell 0 fun k => { k with hal := { k.hal with paired := true, held := [9] } }
    let traced := p.modCell 0 fun k => { k with trace := { k.trace with pend := [[1]] } }
    let cold := s.modCell 0 fun k => { k with froze := true }
    let def_ := ((sequenced.writeN 0x40 4 0x10100).writeN (0x40 + 24) 4 4).writeN (0x40 + 56) 4 64
    let grp := ((s.writeN 0x40 4 0x10205).writeN 0x44 4 0).writeN 0x54 4 1
    let cond := s.modCell 0 fun k => { k with seqs := [(1, { stream with cond := true })] }
    let fetching := s.modCell 0 fun k => { k with seqs := [(4, { stream with target := 1 }), (5, stream)] }
    let wrapped := traced.modCell 0 fun k => { k with trace := { k.trace with wraps := 1 } }
    let enq := engines [(5, [command 1 0x1000]), (1, [command 0x103 0])]
    (s.here.seq 15 = none ∧ s.here.seq 3 ≠ none ∧ (s.here.seq 3).map SeqStream.target = some 1) ∧
    (s.here.seq 1 = some q1 ∧ q1.target = 0 ∧ q1.waiting = [] ∧ q1.queue ≠ [] ∧ q1.cond = false) ∧
    ((s.here.seq 2).map (fun q => (q.target, q.waiting, q.queue, q.ended)) = some (0, [], [], true)) ∧
    (s.here.seq 2).map SeqStream.mayFetch = some false ∧ (s.cell 0).queue 0 = [] ∧
    ((cold.cell 0).froze = true ∧ (s.cell 0).froze = false ∧ ((fetching.cell 0).seq 4).map SeqStream.mayFetch = some true ∧
      ((fetching.cell 0).seq 5).map SeqStream.mayFetch = some true) ∧
    seqDescOk none 0 (def_.readBytes 0x40 64) = true ∧
    ((cond.cell 0).seq 1).map (fun q => (q.cond, q.tokens, q.ended, q.waiting)) = some (true, [], false, []) ∧
    (let l := grp.readBytes 0x40 272
     grpDescOk (grp.cellName 0) 0 0x40 l ((List.range (field l 1 1)).map fun i => BitVec.ofNat 32 (field l (16 + 4 * i) 4)) = true ∧
       (l.headD 0).toNat = 5) ∧
    ((wrapped.cell 0).trace.wraps ≠ 0 ∧ (wrapped.cell 0).trace.pend.length ≤ 65) ∧
    ((enq.modCell 0 fun k => { k with engines := k.engines.ins 5 [] }).enqTake 0 (command 1 0x1000)).isSome = true ∧
    ((State.reset.modDie 0 fun d => { d with faults := { LogQueue.reset with held := [[0, 2 ^ 18]] } }).recordHeld 0 0 1 = true) ∧
    ((s.cell 0).queue 1 = [command 0x103 0] ∧ ∀ x, x < 4 → s.recordHeld 0 x 1 = false) ∧
    ((s.cell 0).queue 2 = [command 0x502 0] ∧ (s.cell 0).group 5 = some ⟨1, 1, 0, 0, [0], 7, none⟩) ∧
    ((s.cell 0).queue 3 = [command 0x201 0] ∧ (s.cell 0).hal.pairing = none) ∧
    ((p.cell 0).queue 3 = [command 3 0x100] ∧ Memory.wf p.mem = true) ∧ (s.cell 0).queue 4 = [command 0x10101 0x20000000000] ∧
    (pairing.cell 0).hal.pairing = some (command 0x201 0) ∧ ((p.cell 0).hal.paired = false ∧ (p.cell 0).hal.early.length < 4) ∧
    ((paired.cell 0).hal.paired = true ∧ BitVec.ofNat 16 p.args.n ∈ (paired.cell 0).hal.held) ∧ (p.cell 0).trace.pend = [] ∧
    ((traced.cell 0).trace.pend = [[1]] ∧ (traced.cell 0).trace.wraps = 0) := by
  refine ⟨?_, ?_, ?_, ?_, ?_, ?_, ?_, ?_, ?_, ?_, ?_, ?_, ?_⟩ <;> decide +kernel

/-- A stream on a change of tile, with and without the entry that a walker reads. -/
theorem witness_SequencerAndCommands_walks :
    let s := State.reset.modDie 0 fun d => { d with tensors := [(0, ⟨3, 0, false, [300, 40, 1, 1], [6, 5, 0, 0], 0, []⟩)] }
    let q : SeqStream := { stream with loops := [⟨1, 0, 1⟩], unit := 1 }
    let e : SeqStream := { q with entry := some (0, 0x1) }
    (q.mayFetch = true ∧ s.seqMiss 0 q (q.coords 0) = some 0 ∧ (s.gather 0 1 q 4 (0 + q.got) (1 - q.got)).1.2.2 = .walk 0) ∧
    (let u := s.modCell 0 fun k => { k with seqs := [(1, e)] }
     u.seqMiss 0 e (e.coords 0) = none ∧ (u.seqTranslate 0 1 e (e.coords 0)).1 = .ok 0 ∧
      (u.gather 0 1 e 4 (0 + e.got) (1 - e.got)).1.2.2 = .whole) ∧
    (let f : SeqStream := { q with entry := some (0, 0x0) }
     (s.seqTranslate 0 1 f (f.coords 0)).1 = .fail 1 ∧ (s.gather 0 1 f 4 0 1).1.2.2 = .fail 1) := by
  refine ⟨?_, ?_, ?_⟩ <;> decide +kernel

/-- A group of one member whose run has a section before its exponent and one that waits for its result. -/
def grouped (run : Option Ldred) : State := (regs [(1, 0x100), (2, 0x40000050001), (3, 0)]).modCell 0 fun k => { k with
  groups := [(5, ⟨1, 1, 0, 0, [0], 7, run⟩)] }
def running2 : Ldred := ⟨0, 0, 0, 513, 0x400, List.replicate 513 0, [(0, ⟨0, 0, 0⟩), (1, ⟨1, 0, 0⟩)]⟩
/-- A chunk of one AX64 element 0, whose residue is that of its payload. -/
def chunkAx : Chunk := { Chunk.empty with payload := zeros 8, burgee := 1#64 <<< 61 }

theorem witness_Collectives :
    let s := grouped none
    let r := grouped (some running2)
    let late := { r with time := 200000 * 45000 }
    let w := (s.rs 2).toNat
    let root := State.reset.modDie 0 fun d => { d with colls := [(5, ⟨0, [(0, ⟨[(1, 0, 4, 0, false)], some (0, false), [], 0, none⟩)], none⟩)] }
    (s.rs 3).toNat % 2 ^ 13 = 0 ∧
    (w % 2 ^ 13 = 1 ∧ w / 2 ^ 13 % 8 = 0 ∧ w / 2 ^ 24 % 256 = 0 ∧ w / 2 ^ 58 = 0 ∧ s.here.group (w / 2 ^ 16 % 256) ≠ none) ∧
    (r.here.group 5).bind Group.run ≠ none ∧ ((s.here.group 5).bind Group.run = none ∧
      (s.rs 1).toNat + 4 ≤ 0x200000 ∧ w / 2 ^ 32 % 2 ^ 26 + 4 ≤ 0x200000 ∧ (s.rs 1).toNat % 8 = 0 ∧
      w / 2 ^ 32 % 2 ^ 26 % 8 = 0 ∧ s.poisoned (flat 0 0 0x100) 4 = false ∧ s.ctx.pend = [] ∧
      ∀ v, v ∈ s.ctx.awaits → s.barring 0 v = false) ∧
    (0x200000 < 0x200000 + 4 ∧ 0x3FFFFF8 + 4 > 0x200000 ∧ 0x104 % 8 ≠ 0) ∧
    (∀ u, u ∈ (Tab.ins [(1, (⟨1, 0, 0⟩ : LSect))] 1 ⟨2, 0, 0⟩) → u.2.stage = 2) ∧
    (burgeeOk { chunkAx with burgee := 0 } = true ∧ burgeeOk { chunkAx with burgee := 1 } = false ∧
      (2#8).toNat ≥ 2 ∧ (1#8).toNat < 2) ∧ ingress (r.attemptOf 0 5) 8 = .hold ∧
    (ingress (r.attemptOf 0 5) 7 = .accept ∧ ingress (r.attemptOf 0 5) 6 = .drop) ∧
    ((r.runSect 0 5 0 0).isSome = true ∧ (r.runSect 0 5 1 1).isSome = true) ∧
    (∃ u, u ∈ running2.sects ∧ u.1 ≠ 0 ∧ u.2.stage ≠ 2) ∧
    (burgeeOk chunkAx = true ∧ chunkAx.payload.length = 8 * (running2.sect 1).length ∧ ∃ u, u ∈ running2.sects ∧ u.1 ≠ 1 ∧ u.2.stage ≠ 2) ∧
    (∀ u, u ∈ running2.sects → u.2.stage < 2 → r.time < u.2.sentAt + 200000 * 45000) ∧
    (∃ u, u ∈ running2.sects ∧ u.2.stage < 2 ∧ u.2.sentAt + 200000 * 45000 ≤ late.time) ∧
    ((root.coll 0 5 0).failed = none ∧ (∀ e, e ∈ ((root.coll 0 5 0).sect 0).recs → e.1 ≠ 2 ∧ e.2.2.1 = 4) ∧
      ((root.coll 0 5 0).sect 0).recs ≠ [] ∧ ((root.coll 0 5 0).sect 0).recs.length + 1 < 3) ∧
    (((root.coll 0 5 0).sect 0).e ≠ none ∧ ((root.coll 0 5 0).sect 0).chunks.length + 1 < 2) ∧
    (State.reset.die 0).colls = [] ∧ ((root.die 0).colls.map Prod.fst = [5] ∧ ((root.coll 0 5 0).sect 0).due ≤ root.time) := by
  decide +kernel

/-- A consumer tag that holds one chunk as its newest, and a port with one chunk in flight, each of stream 9. -/
def linked : State := { (State.reset.modCell 0 fun k => { k with
    tags := [(2, { TagSt.reset with slots := 2, pay := 64, fmt := 1, stream := 9, base := 0x3000, expC := 1 })]
    ports := [(3, { PortSt.reset with stream := 9, slots := 2, pay := 64, nextP := 2 })] }) with
  args := { Args.empty with stream := 9, ck := { Chunk.empty with stream := 9, tag := 2, fmt := 1 } } }
/-- A census of stream 9 with the given ACK_C, EXP_C and S. -/
def census (ack exp n : Nat) : Chunk :=
  let l := toBytes 4 ack ++ toBytes 4 exp ++ toBytes 2 0 ++ toBytes 2 n ++ toBytes 4 1
  { Chunk.empty with stream := 9, census := true, length := 16, payload := l, burgee := burgeeOf false l }

theorem witness_StreamEvents :
    let s := linked
    let k := s.cell 0
    let q := k.port 3
    let g := k.tag 2
    let bad : Chunk := { Chunk.empty with burgee := 1 }
    let away := (s.modDie 0 fun d => { d with shelf := [⟨0, 0, 0, k, [], [], [], []⟩] })
    let drop : TagSt := { g with dropTo := some 5 }
    let ring : State := { State.reset with cells := [(0, { Cell.reset with regionSize := 1, rot := some ⟨0, [], some (zeros 512), 0x400, 512, 0, 0, 4, 0⟩ })] }
    let ring2 : State := { State.reset with cells := [
      (0, { Cell.reset with regionId := 0x100, regionSize := 2, rot := some ⟨0, [], some (zeros 512), 0x400, 512, 0, 0, 4, 0⟩ }),
      (1, { Cell.reset with regionId := 0x100, regionSize := 2, rot := some ⟨0, [], none, 0x400, 1024, 0, 0, 4, 0⟩ })] }
    (burgeeOk s.args.ck = true ∧ burgeeOk bad = false ∧ namePkg bad.origin = s.pkg.number ∧
      s.pkg.fenced.getLsbD (dieOf (nameCell bad.origin)) = false) ∧
    (s.shelved 0 9 = none ∧ (away.shelved 0 9).isSome = true ∧ (inputFault k bad).isSome = true ∧
      inputFault k s.args.ck = none ∧ g.dropTo = none ∧ drop.dropTo = some 5 ∧ (5#16 - s.args.ck.mb).toNat < 32768) ∧
    (seqDiff 0 g.expC < 0 ∧ 0 ≤ seqDiff 0 g.ackC ∧ seqDiff 0xFFFFFFFF g.expC < 0 ∧ seqDiff 0xFFFFFFFF g.ackC < 0) ∧
    (0 ≤ seqDiff 2 g.expC ∧ (g.slots : Int) ≤ seqDiff 2 g.ackC) ∧
    (0 ≤ seqDiff 1 g.expC ∧ seqDiff 1 g.ackC < g.slots ∧ (g.at_ (g.slotOf 1)).use ≠ .arrived) ∧
    (k.portOf 8 = none ∧ k.portOf 9 = some 3 ∧ k.tagOf 9 = some 2 ∧ (s.die 0).shelf = [] ∧
      s.poisoned (flat 0 0 (q.slotOff 0)) (32 + q.pay) = false ∧
      ({ s with poison := [(flat 0 0 (q.slotOff 0) / 8 * 8, true)] } : State).poisoned (flat 0 0 (q.slotOff 0)) (32 + q.pay) = true) ∧ (q.stopped = false ∧ ({ q with stopped := true } : PortSt).stopped = true) ∧
    (0 < seqDiff 3 q.limit ∧ seqDiff 2 q.limit ≤ 0 ∧ 0 < seqDiff 2 q.ackP ∧ seqDiff 0 q.ackP ≤ 0) ∧
    (0 ≤ seqDiff (BitVec.ofNat 32 2) q.nextP ∧ seqDiff (BitVec.ofNat 32 1) q.nextP < 0) ∧
    (seqDiff 0xFFFFFFFF q.ackP < 0 ∧ 0 ≤ seqDiff 2 q.nextP ∧ 0 ≤ seqDiff 1 q.ackP ∧ seqDiff 1 q.nextP < 0) ∧
    (censusFault (some q) (census 1 2 2) = none ∧ (censusFault (some q) bad).isSome = true ∧
      0 < seqDiff 3 q.limit ∧ ¬0 < seqDiff 2 q.limit ∧ 0 < seqDiff 2 1 ∧ ¬0 < seqDiff 1 2 ∧
      field (census 1 2 2).payload 10 2 = q.slots ∧ field (census 1 2 3).payload 10 2 ≠ q.slots) ∧
    (q.unsent = none ∧ q.peerLost = false ∧ seqDiff 1 q.ackP < q.slots ∧ (q.slots : Int) ≤ seqDiff 2 q.ackP ∧
      q.resendOk = false ∧ s.time < q.refusedAt + 10000 * 45000) ∧
    ((k.tag 5).slots = 0 ∧ g.slots ≠ 0 ∧ g.peerLost = false ∧ ({ g with peerLost := true } : TagSt).peerLost = true ∧ g.since < 64 ∧ s.time < g.censusAt + 10000 * 45000 ∧
      g.censusAt + 10000 * 45000 ≤ 10000 * 45000) ∧
    ((ring.ringOf 0).Nodup ∧ Memory.wf ring.mem = true ∧ ∀ m, m ∈ ring.ringOf 0 →
      (ring.cell m).rot = some ⟨0, [], some (zeros 512), 0x400, 512, 0, 0, 4, 0⟩ ∧ 0x400 + 512 ≤ spaceSize m 0) ∧ (zeros 512).length = 512 ∧
    ((ring2.ringOf 0) = [0, 1] ∧ (ring2.cell 0).rot.map Rotation.len ≠ (ring2.cell 1).rot.map Rotation.len) := by
  refine ⟨?_, ?_, ?_, ?_, ?_, ?_, ?_, ?_, ?_, ?_, ?_⟩ <;> decide +kernel

/-- A landing of one element at counted cycle 0. -/
def lands (k : LandKind) (reg : Nat) : Landing := ⟨k, 0, reg, 7, 0, 1, 0, 0, 0, false, 0, 0⟩
/-- A far load of context 0 into s5, by number 3. -/
def far : Await := ⟨3, .load, 5, 0, 0, 3, false, false, 0x8000, 0, 0, none, none, false, 0⟩
def asks (op : BitVec 8) (addr : W64) (data : List Byte) : RemoteReq :=
  ⟨0, 0, 0, 3, 3, 0, op, 3, addr, data, true, checkCode op.toNat addr data⟩

theorem witness_LandingsAndRemote :
    let land (l : List Landing) := here fun x => { x with land := l }
    let cfg : State := State.reset.modCell 0 fun k => { k with vland := [(0, 1, 5)] }
    let waits := here fun x => { x with st := .waiting, hold := .time 5 }
    let wakes : State := { here (fun x => { x with st := .waiting, hold := .time 5 }) with time := 6 * 45000 }
    let gone (w : Await) := here fun x => { x with st := .blocked, hold := .awaits [3], awaits := [w] }
    let ok := asks 0x20 0x100 []
    let st := asks 0x21 0x108 (toBytes 8 5)
    let early : State := { State.reset with agenda := [⟨.remoteRequest, { Args.empty with req := { asks 0x21 0x140 [] with id := 2 } }⟩] }
    let poisoned : State := { State.reset with poison := [(0x100, true)] }
    (∀ k, k ∈ [LandKind.vec, .lanePred, .scalar] → (land [lands k 1]).ctx.land = [lands k 1] ∧ (lands k 1).due ≤ (land []).clock 0) ∧
    (let e := lands .scalar 1
     let f := { lands .scalar 1 with born := 1 }
     let s : State := { land [e, f] with cycle := 1 }
     s.ctx.land = [e, f] ∧ e.due = f.due ∧ f.due ≤ s.clock 0 ∧ s.ctx.frozeAt = none ∧ e.src = 0 ∧ s.ctx.reached = [] ∧
       e.kind = .scalar ∧ e.mask = 1 ∧ e.born ≠ f.born) ∧
    (cfg.ctx.land = [] ∧ (cfg.cell 0).vland = [(0, 1, 5)] ∧ 0 ≤ cfg.clock 0) ∧
    (waits.ctx.hold = .time 5 ∧ waits.tai.toNat < (5#64).toNat) ∧ (wakes.ctx.hold = .time 5 ∧ (5#64).toNat ≤ wakes.tai.toNat) ∧
    (ok.pkg = State.reset.pkg.number ∧ remoteOp 0xFF = none ∧ remoteOp ok.op.toNat = some .load ∧
      State.reset.behind ok = false ∧ early.behind ok = true ∧ State.reset.mustWait ok = false ∧
      (State.reset.ctxOf 0 0).pend = [] ∧ State.reset.pkg.fenced.getLsbD 0 = false ∧
      (1#8).getLsbD (dieOf (aCell ok.addr)) = true ∧ checkCode 0x20 0x100 [] ≠ (asks 0x20 0x108 []).check ∧
      State.reset.remoteError .load (asks 0x20 0x101 []) = some kAlign ∧ State.reset.remoteError .load ok = none ∧
      poisoned.remotePoison .load ok = true ∧ State.reset.remotePoison .load ok = false ∧
      aSpace ok.addr ≠ 3 ∧ Memory.wf State.reset.mem = true) ∧
    (remoteOp st.op.toNat = some .store ∧ State.reset.remoteError .store st = none ∧ szBytes st.sz ≤ st.data.length) ∧
    (State.reset.awaited 0 0 3 = none ∧ (gone far).ctx.awaits = [far] ∧ far.kind ≠ .xlt ∧
      (gone { far with answer := some (0, 0, [], 0) }).ctx.awaits.map Await.answer = [some (0, 0, [], 0)]) ∧
    (reqAnswer ok 0 false [] 0).check = checkCode 0x20 0x100 [] ∧
    (reqAnswer ok 0 false [] 0).check ≠ checkCode 0x21 0x100 [] := by
  refine ⟨?_, ?_, ?_, ?_, ?_, ?_, ?_, ?_, ?_, ?_⟩ <;> decide +kernel

/-- A cell whose context 0 is READY in supervisor mode at 0, with the bundle of one A slot (R143's first word). -/
def ready : State := (regs []).withFetchWord 32 0x0271404B

theorem witness_StepRunsDecoded_moves :
    let e : Event := ⟨.launch, Args.empty⟩
    let s : State := { State.reset with agenda := [e] }
    s.nextMove.1 = some e ∧ State.reset.nextMove.1 = none ∧
    (let t : State := { State.reset with turn := [0] }
     t.sched = [] ∧ t.agenda = [] ∧ t.timerDue = none ∧ t.alarmDue = none ∧ t.active.findSome? t.cellDue = none ∧ t.turn = [0]) ∧
    decodeSlot slotA 0x0271404B = .ok (.ldi 5 75) := by decide +kernel

theorem witness_StepRunsDecoded_issue :
    let s2 : State := { ready with args := { Args.empty with c := 0 }, turn := ready.turn.erase 0 }
    let k := s2.cell 0
    let y := k.ctx 0
    let h := decodeHeader (s2.fetch 0 y.pc)
    let w := s2.fetch 0 (y.pc + 4)
    let s3 : State := s2.modCell 0 fun k => { k with home := some 0, switched := false }
    let base : State := { s3 with focus := ⟨0, 0, slotA, y.pc, y.pc + 8, h.vb, true, []⟩, snap := some (s3.cell 0) }
    let f : State :=
      (base.modCtx fun y => { y with st := .ready, hold := .none, pc := y.pc + 8, redo := false }).modHere fun k =>
        { k with cur := some 0, last := some 0, entering := false }
    ready.nextMove.1 = some ⟨.bundleIssue, { Args.empty with c := 0 }⟩ ∧
    (k.cur = some 0 ∧ k.runnable 0 = true ∧ k.busyTil ≤ s2.clock 0 ∧ k.loading = false ∧ k.froze = false) ∧
    (h.slots = [slotA] ∧ h.bad = false ∧ y.pc + 8 ≤ 0x20000 ∧ decodeSlot slotA w = .ok (.ldi 5 75) ∧
      firstOffence y.pc h.vb [(slotA, w)] [] false = none) ∧
    (y.supervisor = true ∧ s2.poison = [] ∧ s2.replayEnded 0 = false ∧ (∀ m, m < 8 → (k.bps.get 0 m).getLsbD 0 = false) ∧
      y.stepping = false ∧ y.stepDone = false ∧ y.late = [] ∧ y.redo = false ∧ y.caps = [] ∧ y.brConflict.toNat < 2 ^ 32) ∧
    (y.awaits = [] ∧ y.land = [] ∧ k.lastF = none ∧ y.pr (guardOf w) = true ∧ base.matrixStall (.ldi 5 75) = none ∧
      k.freezes s2.cycle (bundleWeight (isC 0) h.vb [⟨slotA, guardOf w, .ldi 5 75⟩]) = false) ∧
    (∃ u, exec (.ldi 5 75) f = .next u ∧ u.focus = f.focus ∧ u.heldNow = false ∧ u.ctx.brConflict.toNat < 2 ^ 32 ∧
      u.ctx.stepping = false) := by
  refine ⟨?_, ?_, ?_, ?_, ?_, ⟨_, rfl, ?_⟩⟩ <;> decide +kernel

/-- A loaded cell with the handlers given, and tag 0 holding one resident chunk. -/
def resident (hs : Tab Handler) : State := State.reset.modCell 0 fun k => { k with
  loaded := true
  handlers := hs
  tags := [(0, { TagSt.reset with slots := 1, pay := 64, fmt := 1, stream := 9, expC := 1, ring := [(0, ⟨.resident, 0, 0, 0, 0⟩)] })] }
/-- The cell with three of its contexts taken, so that one is FREE. -/
def one (s : State) : State :=
  [1, 2, 3].foldl (fun t x => t.modCtxOf 0 x fun y => { y with st := .ready }) s
def arrivals : Tab Handler := [(1, ⟨0, true, [(0, 1, false)], 1, false, 0, 0, 0, 0, 0, 0⟩)]
def runHandler : Handler := ⟨0, false, [], 1, false, 0, 0, 0, 0, 0, 0⟩
def save (st : CtxState) : Saved := ⟨0, { Ctx.reset with st := st, preempted := true }, flat 0 1 0x2F80000, [], []⟩

theorem witness_TaskEvents :
    let s := one (resident arrivals)
    let r : State := (one (resident [(2, runHandler)])).modCell 0 fun k => { k with runs := [(0, 1, 2, 1, [5])] }
    let none_ : State := (r.modCtxOf 0 0 fun y => { y with st := .ready, prio := 3 }).modCell 0 fun k =>
      { k with mats := [], tags := [] }
    let live := here fun y => { y with st := .ready }
    let frozen := here fun y => { y with st := .ready, frozen := true, frozeAt := some 0 }
    let entry : State := (live.modCell 0 fun k => { k with busyTil := 4, last := some 0 })
    let works : State := live.modCell 0 fun k => { k with
      mats := [(0, { MatEngine.reset with running := [(⟨0, 7, 0, 0, 0, none, none, [], 0, false, false, false, [], 0, [], [], []⟩, 2, 4)] })] }
    let held (st : CtxState) (g : Nat) : State := State.reset.modCell 0 fun k => { k with
      saved := [{ save st with bank := { (save st).bank with grant := g } }] }
    let bad : State := { held .ready 0 with poison := [(flat 0 1 0x2F80000, true)] }
    let pool (n : W64) : State := State.reset.modDie 0 fun d => { d with powQueue := [(0, 1, 5)], csr := d.csr.ins 0x228 n }
    ((State.reset.cell 0).loaded = false) ∧
    ((s.cell 0).loaded = true ∧ (s.cell 0).killed = false ∧ (s.cell 0).frees = [0] ∧ s.underLoad 0 = false ∧ (s.die 0).shelf = [] ∧
      s.replaying 0 = false ∧ (s.cell 0).started ≤ s.cycle ∧ (s.cell 0).saved = [] ∧ (s.cell 0).runs = [] ∧
      ((s.cell 0).handlers.find? fun e => (s.cell 0).eligible e.1 e.2) = arrivals.head?) ∧
    ((r.cell 0).frees = [0] ∧ (r.cell 0).runs = [(0, 1, 2, 1, [5])] ∧
      ((r.cell 0).handlers.find? fun e => e.1 == 2) = some (2, runHandler) ∧ (r.cell 0).holding 2 < runHandler.maxctx) ∧
    ((none_.cell 0).frees = [] ∧ ((none_.cell 0).handlers.find? fun e => (none_.cell 0).eligible e.1 e.2) = none ∧
      (none_.cell 0).holding 2 < runHandler.maxctx ∧ (none_.cell 0).victim = some 0 ∧ 1 < (none_.ctxOf 0 0).prio.toNat ∧
      none_.spillRoom 0 (3 * (none_.cell 0).tilesOf [0]) = true ∧ (none_.ctxOf 0 0).hold ≠ .ending ∧
      ∀ y, y < 4 → (none_.ctxOf 0 y).frozen = false) ∧
    ((State.reset.ctxOf 0 0).st = .free ∧ (live.ctxOf 0 0).st ≠ .free ∧ (live.ctxOf 0 0).hold ≠ .ending ∧
      (live.cell 0).killed = false ∧ live.args.n = 0 ∧ (live.ctxOf 0 0).pend = []) ∧
    (entry.freezeWaits 0 0 = true ∧ live.freezeWaits 0 0 = false ∧ live.evictWaits 0 0 = false ∧ works.freezeWaits 0 0 = false ∧
      works.evictWaits 0 0 = true) ∧
    ((live.ctxOf 0 0).frozen = false ∧ (frozen.ctxOf 0 0).frozen = true ∧ (live.ctxOf 0 0).back = none ∧ (live.ctxOf 0 0).dead = false) ∧
    (∀ st, st ∈ [CtxState.ready, .stopped, .blocked] → ((held st 0).cell 0).saved = [save st] ∧ (save st).num = 0 ∧
      ((held st 0).cell 0).mayResume (save st) = true ∧ (held st 0).poisoned (save st).area 0x8000 = false ∧
      (save st).bank.grant = 0 ∧ (save st).claims = [] ∧ (save st).bank.order = none) ∧
    ((held .ready 3).cell 0).saved.map (fun v => v.bank.grant) = [3] ∧
    bad.poisoned (save .ready).area 0x8000 = true ∧
    (((pool 8192).die 0).powQueue = [(0, 1, 5)] ∧ ((pool 8192).die 0).powUsed + 5 ≤ ((pool 8192).die 0).pool ∧
      ((pool 1).die 0).pool < ((pool 1).die 0).powUsed + 5) := by
  refine ⟨?_, ?_, ?_, ?_, ?_, ?_, ?_, ?_, ?_, ?_, ?_⟩ <;> decide +kernel

/-- An image of one 1×1 configuration: a header, one RUN handler with entry 0, and a text section of four bytes. -/
def image1 : List Byte :=
  [0x43, 0x4E, 0x46, 0x47, 0, 0, 0, 0, 1, 0, 0, 0, 0, 0, 0, 0, 4] ++ zeros 47 ++ [3] ++ zeros 63 ++ zeros 64
/-- A node of 64 bytes, of which the first are given and the rest are 0. -/
def nodeBytes (l : List Byte) : List Byte := l ++ zeros (64 - l.length)
/-- The only graph of the table: node 0 with these bytes and state, and an END node. -/
def graph1 (st : NodeSt) (l : List Byte) (s : State) : State := { s with pkg := { s.pkg with
  graphs := [(0, ⟨7, 1, 0, false, [{ GNode.reset with bytes := nodeBytes l, st := st }, { GNode.reset with bytes := nodeBytes [6], st := .loaded }], none⟩)] } }
/-- The image at the start of cell 0's deep store, whose address is 2^41. -/
def imaged : State := State.reset.writeBytes (flat 0 1 0) image1
def runNode : List Byte := [1, 2] ++ zeros 11 ++ [2]
/-- The configuration of that image on cell 0. -/
def holds1 : State := (imaged.modDie 0 fun d => { d with regions := [⟨0, 1, 1, 1#64 <<< 41, []⟩] }).modCell 0 fun k =>
  { k with loaded := true, regionSize := 0 }
def headerBytes : List Byte := [0x47, 0x52, 0x50, 0x48, 1] ++ zeros 3 ++ [0, 1]
def launched (l : List Byte) : State :=
  { State.reset.writeBytes (stagingKey 0) l with pkg := { Pkg.reset with launches := [5#64 <<< 32] } }

theorem witness_GraphEvents_launch :
    let s := launched (headerBytes ++ zeros 54 ++ nodeBytes [6])
    let h := s.stagingRead 0 64
    let nodes := (List.range (field h 4 2 % 513)).map fun i => s.stagingRead (0 + 64 + 64 * i) 64
    let bad := launched ([0] ++ headerBytes)
    let full : Pkg := { s.pkg with graphs := (List.range 4096).map fun i => (i, ⟨0, 0, 0, false, [GNode.reset], none⟩) }
    (({ Args.empty with v := 1 } : Args).v &&& 0xFFFF0000F000003F ≠ 0 ∧ (64#64 &&& 0xFFFF0000F000003F = 0) ∧
      ¬16 ≤ State.reset.pkg.launches.length) ∧ State.reset.pkg.launches = [] ∧
    (s.pkg.launches = [5#64 <<< 32] ∧ s.pkg.judge nodes (headerOk h) = .take ∧ (∃ l, l ∈ nodes ∧ field l 2 2 = 0)) ∧
    (bad.pkg.judge [] (headerOk (bad.stagingRead 0 64)) = .reject) ∧ full.judge nodes (headerOk h) = .wait := by
  refine ⟨?_, ?_, ?_, ?_, ?_⟩ <;> decide +kernel

theorem witness_GraphEvents_run :
    let s := graph1 .ready runNode holds1
    let loads := graph1 .ready runNode imaged
    let fails := graph1 .ready ([1] ++ zeros 12 ++ [2]) State.reset
    let rejects := graph1 .ready runNode State.reset
    let busy := ([0, 1, 2, 3].foldl (fun t x => t.modCtxOf 0 x fun y => { y with st := .ready, prio := 0 }) s)
    (State.reset.gnode 0 0).st ≠ .ready ∧ ((s.gnode 0 0).st = .ready ∧ (s.gnode 0 0).type = 1 ∧
      s.nodeChoice 0 0 = .start 0 ∧ ((s.die 0).regions.find? fun r => r.origin == 0) = some ⟨0, 1, 1, 1#64 <<< 41, []⟩ ∧
      (regionCells 0 0 1 1).Nodup ∧ (s.nodeChoice 0 0).acts = true ∧ s.firstRun = some (0, 0)) ∧ busy.nodeChoice 0 0 = .wait ∧
    (loads.nodeChoice 0 0 = .load 0 ∧ loads.firstRun = some (0, 0) ∧
      (loads.readImage 0 (BitVec.ofNat 64 (field (loads.gnode 0 0).bytes 8 8))).1 = some image1) ∧
    (fails.nodeChoice 0 0 = .fail ∧ fails.firstRun = some (0, 0)) ∧
    (rejects.nodeChoice 0 0 = .reject 0 ∧ rejects.firstRun = some (0, 0)) := by
  refine ⟨?_, ?_, ?_, ?_, ?_, ?_⟩ <;> decide +kernel

theorem witness_GraphEvents_load :
    let ld : Load := ⟨0, 1, 1, 1#64 <<< 41, some (0, 0), 1⟩
    let s := imaged.modDie 0 fun d => { d with loads := [ld] }
    let busy := s.modCtxOf 0 0 fun y => { y with st := .ready }
    let s0 := s.modDie 0 fun k => { k with loads := k.loads.erase ld }
    let s1 := s0.clearFor 0 0 1 1 (claimedPages (imgAlloc image1))
    (State.reset.die 0).loads = [] ∧ (((s.die 0).loads.find? fun l => l.origin == 0) = some ld) ∧
    (0 ∈ busy.touched 0 0 1 1 ∧ busy.drained 0 = false) ∧ (∀ c, c ∈ s.touched 0 0 1 1 → s.drained c = true) ∧
    (aPkg ld.image = s.pkg.number ∧ (s0.readImage 0 ld.image).1 = some image1 ∧ imgOk 0 image1 = true ∧
      tensorsClash (s1.die 0).tensors image1 = false ∧ imgW image1 = 1 ∧ imgH image1 = 1 ∧
      ∀ c, c ∈ regionCells 0 ld.origin ld.w ld.h → (s1.die 0).absent (c % 256) = false) ∧
    ((regionCells 0 0 (imgW image1) (imgH image1)).Nodup ∧ (regionCells 0 0 (imgW image1) (imgH image1))[0]? = some 0) ∧
    (holds1.mayDrop 0 ⟨0, 1, 1, 1#64 <<< 41, []⟩ = false) := by
  refine ⟨?_, ?_, ?_, ?_, ?_, ?_, ?_⟩ <;> decide +kernel

theorem witness_GraphEvents_nodes :
    let copy := graph1 .ready [2] State.reset
    let wait (t : Byte) (l : List Byte) := graph1 .ready ([3] ++ zeros 7 ++ [0, 1] ++ zeros 6 ++ [t, 0] ++ zeros 6 ++ l) State.reset
    let cond (inc : Byte) (addr : Byte) := graph1 .ready ([4] ++ zeros 7 ++ [addr, 1] ++ zeros 12 ++ [inc]) State.reset
    let ring (en : Bool) := graph1 .ready ([5] ++ zeros 15 ++ [0, 0, 0, 0, 0, 2])
      { State.reset with pkg := { Pkg.reset with rings := [(0, { Ring.reset with en := en })] } }
    let run := graph1 .running ([3] ++ zeros 31 ++ [5]) State.reset
    let late : State := { run with time := 5 * 45000 }
    let ended (st : NodeSt) : State := { State.reset with pkg := { Pkg.reset with graphs := [(0,
      ⟨7, 1, 0, false, [{ GNode.reset with bytes := nodeBytes [1], st := st }, { GNode.reset with bytes := nodeBytes [6], st := .ready }], none⟩)] } }
    ((copy.gnode 0 0).type = 2 ∧ (copy.gnode 0 0).st = .ready ∧ ((copy.cell (copy.copyCell (slice (copy.gnode 0 0).bytes 8 32))).queue 0).length < 16) ∧
    (let s := wait 1 []
     (s.gnode 0 0).type = 3 ∧ field (s.gnode 0 0).bytes 32 8 = 0 ∧ field (s.gnode 0 0).bytes 16 1 = 1 ∧
      s.engineFault ⟨0x100, 8, 8, false, true, false, false, true⟩ = none ∧
      field (s.gnode 0 0).bytes 24 8 ≤ ofBytes (s.readBytes (flatOf 0x100) 8)) ∧
    (let s := wait 1 [5]
     (s.gnode 0 0).st = .ready ∧ ofBytes (s.readBytes (flatOf 0x100) 8) < field (s.gnode 0 0).bytes 24 8) ∧
    (wait 1 []).engineFault ⟨0x104, 8, 8, false, true, false, false, true⟩ ≠ none ∧
    ((run.gnode 0 0).st = .running ∧ (run.gnode 0 0).type = 3 ∧
      run.elapsed < (run.gnode 0 0).startAt + field (run.gnode 0 0).bytes 32 8 * 45000 ∧
      (late.gnode 0 0).startAt + field (late.gnode 0 0).bytes 32 8 * 45000 ≤ late.elapsed) ∧
    (∀ i, i ∈ [0, 1] → ∀ a, a ∈ [0, 1] →
      let s := cond i a
      let w : W64 := BitVec.ofNat 64 (field (s.gnode 0 0).bytes 8 8)
      (s.gnode 0 0).type = 4 ∧ (s.gnode 0 0).st = .ready ∧ s.args.flag = false ∧ aPkg w = s.pkg.number ∧ field (s.gnode 0 0).bytes 17 1 = 0 ∧
      (field (s.gnode 0 0).bytes 22 2 = 0 ↔ i = 0) ∧ ((s.engineFault ⟨w, 8, 8, i != 0, false, i != 0, true, true⟩).isNone ↔ a = 0) ∧ aSpace w ≠ 3) ∧
    (∀ en, en ∈ [true, false] →
      let s := ring en
      let w : W64 := BitVec.ofNat 64 (field (s.gnode 0 0).bytes 16 8)
      (s.gnode 0 0).type = 5 ∧ (s.gnode 0 0).st = .ready ∧ (s.pkg.ring 0).en = en ∧ w.toNat % 64 = 0 ∧
      s.readableAt w 64 = true ∧ aPkg w = s.pkg.number) ∧
    (Ring.reset.c < Ring.reset.n ∧ { Ring.reset with c := 1 }.n ≤ { Ring.reset with c := 1 }.c) ∧
    (State.reset.graph 0 = none ∧ (∀ st, st ∈ [NodeSt.done, .running] → ((ended st).gnode 0 1).type = 6 ∧
      ((ended st).gnode 0 1).st = .ready ∧ ((ended st).gnode 0 0).st = st ∧ ((ended st).gnode 0 0).type = 1)) := by
  refine ⟨?_, ?_, ?_, ?_, ?_, ?_, ?_, ?_⟩ <;> decide +kernel

theorem witness_GraphEvents_drop :
    let out := holds1.modDie 0 fun d => { d with csr := d.csr.set 0 0x258 1 }
    out.mayDrop 0 ⟨0, 1, 1, 1#64 <<< 41, []⟩ = true ∧
    ((out.die 0).regions.find? fun r => r.origin == 0) = some ⟨0, 1, 1, 1#64 <<< 41, []⟩ := by decide +kernel

theorem witness_DispatcherEvents :
    let stop (cause : W64) (st : CtxState) (disp : Bool) := here fun x => { x with st := st, trapCause := cause, disp := disp }
    let live (s : State) : Bool := !(s.ctx.st == .stopped && s.ctx.trapCause.toNat % 256 == 0x0B)
    let q : LogQueue := { LogQueue.reset with items := [[1]] }
    let full : LogQueue := { LogQueue.reset with items := [[1]], held := [[2]] }
    let walk : Walk := ⟨0, 0, 3, 5, 0, none, none⟩
    let x := (here fun x => { x with awaits := [{ far with kind := .xlt }] }).modDie 0 fun d => { d with walks := [walk] }
    let quar (held : Bool) := State.reset.modDie 0 fun d => { d with quar := [⟨0, 0, if held then [(0, 3)] else []⟩] }
    let far1 := (here fun x => { x with awaits := [far] }).modDie 0 fun d => { d with quar := [⟨0, 0, [(0, 3)]⟩] }
    (live (stop 0 .stopped false) = true ∧ live (stop 0x0B .stopped false) = false ∧ live (stop 0 .ready true) = true ∧
      (stop 0 .ready true).ctx.st ≠ .stopped ∧ (stop 0 .ready true).ctx.back = none ∧ (stop 0 .ready true).evictedOf 0 0 = none ∧
      (stop 0 .ready true).ctx.st ≠ .free ∧ (stop 0 .ready true).ctx.disp = true ∧ (stop 0 .stopped false).ctx.disp = false ∧
      (((stop 0 .stopped false).modCell 0 fun k => { k with loaded := true }).cell 0).loaded = true) ∧
    (LogQueue.reset.items = [] ∧ q.items = [[1]] ∧ q.held = [] ∧ full.held = [[2]] ∧
      (stop 0 .stopped false).ctx.trapCause.toNat % 256 ≠ 0x0A) ∧
    ((x.die 0).walks = [walk] ∧ walk.ends = none ∧ walk.stream = none ∧ x.args.flag = false ∧ State.reset.away 0 = [] ∧ dieOf walk.cell = 0 ∧
      (x.ctxOf 0 0).awaits = [{ far with kind := .xlt }] ∧ far.id = walk.id ∧
      ((x.die 0).tensors.find? fun e => e.1 == walk.a.toNat % 2 ^ 16) = none ∧ far.answer = none ∧
      ((x.die 0).walks.find? fun w => w.cell == 0 && w.ctx == 0 && w.id == 3) = some walk ∧ State.reset.ctx.awaits = []) ∧
    ((0x4001#64).toNat % 2 ^ 14 ≠ 0 ∧ (0x4000#64).toNat % 2 ^ 14 = 0 ∧ (State.reset.die 0).quar.length < 256 ∧
      (State.reset.die 0).quar = []) ∧
    (((far1.die 0).quar = [⟨0, 0, [(0, 3)]⟩] ∧ (0, 3) ∈ far1.openAccesses 0) ∧ (((quar true).die 0).quar = [⟨0, 0, [(0, 3)]⟩] ∧
      (0, 3) ∉ (quar true).openAccesses 0 ∧ ((quar true).die 0).quarHeld = [])) ∧
    (0x3FFFFFF + [5#8].length ≤ 2 ^ 26 ∧ 0x201 % 8 ≠ 0 ∧ 0x3FF8 % 8 = 0) ∧
    ((State.reset.pkg.ring 15).waiting = []) ∧
    (({ Pkg.reset with pending := 1#32 <<< 31 } : Pkg).pending.getLsbD 31 = true ∧ Pkg.reset.pending.getLsbD 0 = false) := by
  refine ⟨?_, ?_, ?_, ?_, ?_, ?_, ?_, ?_⟩ <;> decide +kernel

/-- A port in a state, of a package whose routing slot 0 is generation 1 and leads package 5 to port 0. -/
def port (f : LinkPort → LinkPort) : State := { State.reset with pkg := { Pkg.reset with
  links := [(0, f { LinkPort.reset with state := .up })]
  csr := [(0x310, 0x11)] } }
def packet5 : Packet := { Packet.empty with dst := 5, gen := 1, inter := 7 }

/-- A port whose packets are protected by the key of slot 1. -/
def keyed : State :=
  let s := port fun l => { l with rxKey := some 1 }
  { s with pkg := { s.pkg with keys := [(1, ⟨0, [7]⟩)] } }

/-- The flit of a packet of a reserved kind, as it comes in at a port without a key. -/
def flit10 : Flit :=
  let pk : Packet := { Packet.empty with kind := 10 }
  flitSealed ⟨0, 0, true, true, none, packetBytes pk none 0 0 ++ zeros 200, 0, [], some pk⟩

/-- Bytes that are no packet's header match none. -/
theorem witness_LinkEvents_tag :
    keyed.rxTagOk 0 Packet.empty { flit10 with body := [] } = false ∧ (keyed.pkg.link 0).state = .up := by decide +kernel

theorem witness_LinkEvents_flits :
    let up := port id
    let down := port fun l => { l with state := .down }
    let naks := port fun l => { l with naks := List.replicate 15 0 }
    let late : State := { up with time := 1000 * 45000 }
    (down.pkg.link 0).state ≠ .up ∧ (up.pkg.link 0).state = .up ∧ (∀ f, (flitSealed f).crc = flitCrc (flitSealed f)) ∧ flit10.ctrl = none ∧
    flit10.lseq = (up.pkg.link 0).expect ∧ (5#12) ≠ (up.pkg.link 0).expect ∧ flit10.eop = true ∧
    (∃ pk, flit10.packet = some pk ∧ up.rxTagOk 0 pk flit10 = true ∧ 9 < pk.kind.toNat) ∧
    ((up.pkg.link 0).naks.filter fun t => decide (up.elapsed < t + 1000 * 45000)).length < 15 ∧
    15 ≤ ((naks.pkg.link 0).naks.filter fun t => decide (naks.elapsed < t + 1000 * 45000)).length ∧
    up.elapsed < (up.pkg.link 0).heard + 1000 * 45000 ∧ (late.pkg.link 0).heard + 1000 * 45000 ≤ late.elapsed := by
  refine ⟨by decide, by decide, fun _ => rfl, by decide +kernel, by decide +kernel, by decide, by decide +kernel,
    ⟨_, rfl, by decide +kernel, by decide⟩, ?_⟩
  decide +kernel

/-- A packet for this package, accepted by the port; a chunk on its way to package 5 from cell 2, before the points of the port's
die. -/
theorem witness_LinkEvents_chunks :
    let up := port id
    let routed : State := { port (fun l => { l with state := .down }) with
      pkg := { (port fun l => { l with state := .down }).pkg with routes := [(5, 0x1000)] } }
    let ck (h : BitVec 32) (n : BitVec 32) : Chunk := { Chunk.empty with hop := h, origin := n }
    let here := ck (State.reset.hopWord 0 2 1) (State.reset.cellName 2)
    let away := ck (State.reset.hopWord 5 2 1) (State.reset.cellName (5 * 256 + 2))
    let wrong := { away with burgee := 1 }
    ({ packet5 with kind := 2 }.kind.toNat < 10 ∧ { packet5 with kind := 2 }.kind ≠ 0 ∧ up.pkg.bunting 0 = false ∧
      burgeeOk here = true ∧ verifiedChunk packet5.body = none) ∧
    (routed.pkg.isMe 5 = false ∧ routeValid (routed.pkg.route 0 5) = true ∧
      (routed.pkg.link (routePort (routed.pkg.route 0 5) 0 5 false)).state = .down) ∧
    (pathPoints 4 (hopDie here.hop) (portDie 0 * 256 + nameCell here.origin % 256) = [] ∧
      pathPoints 4 (hopDie away.hop) (portDie 0 * 256 + nameCell away.origin % 256) ≠ [] ∧
      (∀ q, q ∈ pathPoints 4 (hopDie away.hop) (portDie 0 * 256 + nameCell away.origin % 256) →
        routed.pkg.fenced.getLsbD q.1 = false) ∧ burgeeOk away = true ∧ burgeeOk wrong = false) := by
  refine ⟨?_, ?_, ?_⟩ <;> decide +kernel

theorem witness_LinkEvents_crc : ∃ f : Flit, f.crc ≠ flitCrc f :=
  have e (f : Flit) : (⟨f.lseq, f.vc, f.sop, f.eop, f.ctrl, f.body, flitCrc f + 1, f.fec, f.packet⟩ : Flit).crc ≠
      flitCrc ⟨f.lseq, f.vc, f.sop, f.eop, f.ctrl, f.body, flitCrc f + 1, f.fec, f.packet⟩ := by
    show flitCrc f + 1 ≠ flitCrc f
    generalize flitCrc f = x
    bv_omega
  ⟨_, e flit10⟩

/-- A port 31 without an edge is the bunting port. -/
theorem witness_LinkEvents_bunting :
    let s : State := { State.reset with pkg := { Pkg.reset with fabric := ⟨2, true, [1], 1, [], 0, [], []⟩ } }
    let early : State := { State.reset with agenda := [⟨.remoteRequest, { Args.empty with req := { asks 0x21 0x140 [] with id := 2 } }⟩] }
    s.pkg.bunting 31 = true ∧ s.pkg.bunting 0 = false ∧ ({ packet5 with kind := 2 }).kind ≠ 7 ∧
    early.requestWaits (.request (asks 0x20 0x100 [])) = true ∧ State.reset.requestWaits (.request (asks 0x20 0x100 [])) = false ∧
    State.reset.fencedCell 0 = false ∧ 0 < seqDiff 5 (State.reset.pkg.peer 5 false).expect ∧ seqDiff 0 (State.reset.pkg.peer 5 false).expect ≤ 0 := by
  decide +kernel

theorem witness_LinkEvents_training :
    let t (n : Nat) := port fun l => { l with state := .training, attempts := n }
    let wired : State := { t 1 with pkg := { (t 1).pkg with fabric := ⟨31, false, [3], 1, [], 0, [], []⟩ } }
    ((t 1).pkg.link 0).state = .training ∧ ((t 1).pkg.link 0).attempts < 3 ∧ 3 ≤ ((t 3).pkg.link 0).attempts ∧
    ((!wired.pkg.bunting 0 && (wired.pkg.fabric.peerOf 0).any fun q => q != 4) = true) ∧
    ((!wired.pkg.bunting 0 && (wired.pkg.fabric.peerOf 0).any fun q => q != 3) = false) ∧
    ((t 1).pkg.link 0).queue = [] ∧ ((t 1).pkg.link 0).en = true ∧ ((port fun l => { l with en := false }).pkg.link 0).en = false := by
  decide +kernel

theorem witness_LinkEvents_packets :
    let routed : State := { port (fun l => { l with state := .down }) with
      pkg := { (port fun l => { l with state := .down }).pkg with routes := [(5, 0x1000)] } }
    let stored : State := { State.reset with pkg := { Pkg.reset with store := [⟨{ packet5 with kind := 2 }, 0, 4⟩] } }
    let held : State := { State.reset with pkg := { Pkg.reset with outbox := [packet5] } }
    let due : State := { State.reset with pkg := { Pkg.reset with csr := [(0x310, 1#64 <<< 14)] } }
    let e := State.reset.pkg.peer 5 false
    (packet5.kind ≠ 6 ∧ { packet5 with kind := 6 }.kind = 6 ∧ State.reset.pkg.store.length < 16384 ∧ State.reset.pkg.outbox = [] ∧
      held.pkg.outbox ≠ []) ∧
    (∀ k, k < 2 → State.reset.pkg.genValid k = false ∨ State.reset.pkg.gen k ≠ packet5.gen.toNat) ∧
    ((seqDiff 0xFFFFFFFF e.expect < 0 ∧ 64 ≤ seqDiff 64 e.expect ∧ seqDiff 0 e.expect = 0 ∧ 0 < seqDiff 63 e.expect ∧
      seqDiff 63 e.expect < 64) ∧ e.early = []) ∧
    ((stored.pkg.store.find? fun x => x.pk.dst.toNat == 5 && x.pk.ch == false && x.pk.eseq == 0) =
      some ⟨{ packet5 with kind := 2 }, 0, 4⟩ ∧ (State.reset.pkg.store.find? fun _ => true) = none ∧ stored.pkg.outbox = []) ∧
    (State.reset.pkg.rtCtl.getLsbD 14 = false ∧ due.pkg.rtCtl.getLsbD 14 = true ∧
      (due.pkg.csr.get 0 0x314).toNat * 45000 ≤ due.time) ∧
    (State.reset.pkg.genValid 0 = false ∧ Tab.wf 0 State.reset.pkg.routes = true) ∧
    (([0, 1].find? fun k => routed.pkg.genValid k && routed.pkg.gen k == packet5.gen.toNat) = some 0 ∧
      packet5.nonmin = false ∧ routed.pkg.isMe packet5.inter = false ∧ routed.pkg.isMe 0 = true ∧
      routed.pkg.isMe packet5.dst = false ∧ routeValid (routed.pkg.route 0 5) = true ∧
      packet5.hop ≤ 3 ∧
      (routed.pkg.link (routePort (routed.pkg.route 0 5) 0 5 false)).state = .down ∧ routeValid (routed.pkg.route 0 6) = false) := by
  refine ⟨?_, ?_, ?_, ?_, ?_, ?_, ?_⟩ <;> decide +kernel

/-- A boot packet's 32 bytes of header, of a type, for SERIAL 0, with one entry or none, and without payload. -/
def bootPacket (type : Byte) (last : Byte) (es : List Byte) : List Byte :=
  [0x42, 0x55, 0x4E, 0x54, 0, 0, 0, 0, type, BitVec.ofNat 8 (es.length / 8), 0, 0, 0, 0, last, 0] ++ zeros 16 ++ es
def booting (f : Boot → Boot) : State := { State.reset with pkg := { Pkg.reset with boot := f Boot.reset } }
/-- A manifest with one share, of a package, whose tensor the manifest does not describe. -/
def badShare : List Byte := [0x4D, 0x4E, 0x46, 0x54] ++ zeros 4 ++ [0, 0, 1, 0] ++ zeros 200

theorem witness_BootTimePowerKeys_boot :
    let man := bootPacket 1 1 []
    let data := bootPacket 2 0 [0, 0, 0, 0, 0, 0, 0, 0]
    let reply := bootPacket 6 0 []
    let inj : State := State.reset.writeBytes (stagingKey 0) man
    let word : W64 := 32#64 <<< 32
    let loading := booting fun b => { b with st := .loading, sigOk := true, man := [] }
    let shares := booting fun b => { b with st := .loading, man := badShare, fails := [(0, 2)] }
    let verifying := booting fun b => { b with st := .verifying }
    let other (f : Boot → Boot) : State := { State.reset with pkg := { Pkg.reset with
      boot := f Boot.reset, fabric := ⟨31, false, [], 1, [1], 1, [], []⟩ } }
    let root : State := { State.reset with pkg := { Pkg.reset with fabric := ⟨31, false, [], 1, [3], 0, [], []⟩ } }
    (inj.injBad word = false ∧ inj.injBad 0 = true ∧ State.reset.pkg.boot.queue = []) ∧
    (bootOk [] = false ∧ bootOk man = true ∧ bSerial man = 0 ∧ bOffset man = 0 ∧ bLast man = true ∧ Boot.reset.segs = [] ∧
      Boot.reset.st = .idle ∧ bootOk data = true ∧ bootOk reply = true ∧ bType reply = 6) ∧
    (bSerial (man.take 4 ++ [1] ++ man.drop 5) ≠ Boot.reset.serial ∧ bootOk (man.take 4 ++ [1] ++ man.drop 5) = true) ∧
    (loading.pkg.boot.sigOk = true ∧ bEntries data = [0] ∧ aPkg 0 = loading.pkg.number ∧ loading.frameOk 0 (bOffset data + bLength data) = true ∧
      (bLast data && bEnc data) = false ∧ loading.pkg.placeable = true ∧ Memory.wf loading.mem = true) ∧
    (State.reset.pkg.boot.st ≠ .announced ∧ mine [] 0 = [] ∧ mine badShare 0 = [0] ∧ shares.shareGood 0 = false ∧
      2 ≤ shares.pkg.boot.fails.get 0 0) ∧
    (root.pkg.number = root.pkg.fabric.root ∧ (∃ q, q ∈ root.pkg.fabric.packages ∧ q ∉ root.pkg.boot.ready) ∧
      root.pkg.boot.direct = false ∧ root.pkg.bootReply.getLsbD 4 = false ∧
      (other id).pkg.number ≠ (other id).pkg.fabric.root) ∧
    (let stored := booting fun b => { b with st := .verifying, stores := [7] }
     stored.pkg.boot.stores ≠ [] ∧ (∀ w, w ∈ stored.pkg.boot.stores → w ∉ stored.pkg.writes) ∧
      ({ Pkg.reset with fabric := ⟨31, false, [3], 1, [], 0, [], []⟩ } : Pkg).placeable = false ∧
      (∀ i, i ∈ mine [] 0 → False) ∧ verifying.pkg.boot.stores = []) ∧
    (verifying.pkg.boot.st = .verifying ∧ verifying.pkg.boot.bad = [] ∧
      ¬((other id).pkg.number = (other id).pkg.fabric.root ∧ false = false)) := by
  refine ⟨?_, ?_, ?_, ?_, ?_, ?_, ?_, ?_⟩ <;> decide +kernel

theorem witness_BootTimePowerKeys_rest :
    let timed (f : TimeSt → TimeSt) : State := { State.reset with pkg := { Pkg.reset with time := f TimeSt.reset } }
    let up : State := { State.reset with pkg := { Pkg.reset with links := [(0, { LinkPort.reset with state := .up, stratum := 1 })] } }
    let down : State := State.reset
    let s1 := up.modLink 0 fun l => { l with stratum := 1 }
    let far1 := up.modLink 0 fun l => { l with stratum := 9 }
    let key : State := { State.reset with pkg := { Pkg.reset with keys := [(3, ⟨0, []⟩)] } }
    (TimeSt.reset.once = false ∧ (-5 : Int) < 0 ∧ (timed fun t => { t with once := true }).pkg.time.once = true) ∧
    ((down.pkg.link 0).state ≠ .up ∧ (up.pkg.link 0).state = .up ∧ up.pkg.time.above 3 = false ∧ s1.pkg.bestPort = some 0 ∧
      (timed fun t => { t with source := 1, once := true }).pkg.time.above 3 = true ∧ State.reset.pkg.bestPort ≠ some 0) ∧
    (TimeSt.reset.ppsIn = false ∧ (let t := (timed fun t => { t with ppsIn := true, secLive := true }).pkg.time
      t.ppsIn = true ∧ t.secLive = true ∧ t.above 2 = false) ∧
      (timed fun t => { t with ppsIn := true, secLive := true, source := 1, once := true }).pkg.time.above 2 = true) ∧
    (TimeSt.reset.source = 0 ∧ (let t := (timed fun t => { t with source := 1 }).pkg.time
      t.source ≠ 0 ∧ t.holdover = false ∧ t.source ≠ 3) ∧
      (timed fun t => { t with holdover := true }).pkg.time.holdover = true ∧ { Args.empty with n := 1 }.n = 1) ∧
    (State.reset.pkg.overLimit = false ∧ ({ Pkg.reset with overLimit := true } : Pkg).overLimit = true ∧
      (holds1.cell 0).loaded = true) ∧
    (key.pkg.bindable 3 = true ∧ key.pkg.bindable 4 = false ∧ (key.pkg.link 0).txNext = none ∧
      ({ LinkPort.reset with txNext := some 3 } : LinkPort).txNext = some 3) ∧
    (far1.pkg.link 0).stratum = 9 := by
  refine ⟨?_, ?_, ?_, ?_, ?_, ?_, ?_⟩ <;> decide +kernel

/-- The report of 5,011 bytes fits where it is delivered at the start of the window. -/
theorem witness_BootTimePowerKeys_attestation :
    let s := State.reset
    let body := s.reportBody (s.md0Read 0 64)
    0 + (body ++ signature (sha3 body)).length ≤ 256 * 0x200000 ∧ Memory.wf s.mem = true := by
  intro s body
  have h : body.length = 384 := reportBody_length s _ (by decide)
  exact ⟨by rw [List.length_append, h, signature_length]; decide, by decide⟩

theorem witness_ReliabilityEvents_errors :
    let ce (t : Nat) := State.reset.modDie 0 fun d => { d with ce := [(2, (t, 0))] }
    let run := (here fun x => { x with st := .ready }).modCell 0 fun k => { k with loaded := true }
    let turning := (holds1.modCell 0 fun k => { k with killed := true, mats := [(0, { MatEngine.reset with running := [(queued 7 0 0, 2, 4)] })] })
    let killed := (holds1.modCell 0 fun k => { k with killed := true })
    ((State.reset.die 0).eccCe < 0xFFFFFFFF ∧ ((ce 0).die 0).ce.find? (fun e => e.1 == 2) = some (2, (0, 0)) ∧
      (ce 0).elapsed < 0 + 1000000 * 45000 ∧ (State.reset.die 0).ce.find? (fun e => e.1 == 2) = none ∧
      (State.reset.die 0).elog.items.length < 128) ∧
    ((run.ctxOf 0 0).st ≠ .free ∧ (run.cell 0).loaded = true ∧ Tab.wf false State.reset.poison = true ∧ State.reset.poisoned (wordOf 0) 8 = false ∧
      ({ State.reset with poison := [(0, true)] } : State).poisoned (wordOf 0) 8 = true ∧ Tab.wf false [(0, true)] = true) ∧
    ((State.reset.die 0).regions = [] ∧ ((holds1.die 0).regions.find? fun r => r.origin == 0) = some ⟨0, 1, 1, 1#64 <<< 41, []⟩ ∧
      (∀ m, m ∈ regionCells 0 0 1 1 → (holds1.cell m).killed = false) ∧ (killed.cell 0).killed = true ∧ 0 ∈ regionCells 0 0 1 1 ∧
      (∃ m, m ∈ regionCells 0 0 1 1 ∧ turning.stillRuns m = true) ∧ holds1.stillRuns 0 = false ∧
      holds1.shelfKilled 0 0 = none ∧ (holds1.cell (0 * 256 + 0)).regionId.toNat / 2 ^ 16 % 2 ^ 32 = 0 ∧ (holds1.cell 0).rot = none) ∧
    ((1#8).getLsbD 0 = true ∧ State.reset.pkg.fenced.getLsbD 0 = false) := by
  refine ⟨?_, ?_, ?_, ?_⟩ <;> decide +kernel

theorem witness_ReliabilityEvents_comparators :
    let ck : Chunk := { Chunk.empty with stream := 9 }
    let sh (p : List (Nat × Chunk)) := State.reset.modDie 0 fun d => { d with shadow := [(9, p, [])] }
    ((State.reset.die 0).shadow.find? fun e => e.1 == ck.stream) = none ∧ burgeeOk ck = true ∧
    ((sh []).die 0).shadow = [(9, [], [])] ∧ ((sh [(4, ck)]).die 0).shadow = [(9, [(4, ck)], [])] ∧
    headersEqual ck { ck with hop := 3 } = true ∧ { ck with payload := [1] }.payload ≠ ck.payload ∧
    (([(4, ck)] ++ []).find? fun e : Nat × Chunk => e.2.seq == 5) = none ∧ (∃ e : Nat × Chunk, e ∈ [(4, ck)] ++ [] ∧ e.2.seq = 0) ∧
    (∀ e : Nat × Chunk, e ∈ List.replicate 8 (4, { ck with seq := 5 }) → e.2.seq ≠ ck.seq) := by
  refine ⟨?_, ?_, ?_, ?_, ?_, ?_, ?_, ?_, ?_⟩ <;> decide +kernel

theorem witness_ReliabilityEvents_rest :
    let s : State := { State.reset with cells := [(0, { Cell.reset with ports := [(3, { PortSt.reset with stream := 9, slots := 1 })] })] }
    let scan (w : W64) := State.reset.modDie 0 fun d => { d with csr := d.csr.set 0 0x251 w }
    let moving := State.reset.modDie 0 fun d => { d with cmap := d.cmap.ins 2 0xBFF }
    (s.cells = [(0, s.cell 0)] ∧ dieOf 0 = 0 ∧ (s.cell 0).portOf 9 = some 3 ∧ (s.cell 0).tagOf 9 = none ∧
      ((s.cell 0).port 3).nextP = ((s.cell 0).port 3).ackP) ∧ State.reset.cells = [] ∧
    (State.reset.pkg.window = false ∧ State.reset.dies = [] ∧ (∃ e : Nat × Die, e ∈ holds1.dies ∧ e.2.regions ≠ [])) ∧
    (moving.mapRefused 0 2 0x3FF = true ∧ State.reset.mapRefused 0 2 0x3E5 = false) ∧
    ((scan 0x8000).scanCtl 0).getLsbD 15 = true ∧ ((scan 0x10000).scanCtl 0).getLsbD 16 = true ∧
    (¬(((scan 0).scanCtl 0).getLsbD 15 = true ∨ ((scan 0).scanCtl 0).getLsbD 16 = true ∨ (State.reset.die 0).absent 5 = true ∨
      (5#64).getLsbD 9 = true)) ∧
    (scan 0x10000).scanDrained 0 0 = true ∧ ((scan 0x9C00).scanCtl 0).toNat / 2 ^ 10 % 8 = 7 ∧
    ((scan 0x9C00).scanCtl 0).getLsbD 15 = true ∧ ((scan 0x8000).scanCtl 0).toNat / 2 ^ 10 % 8 < 7 := by
  refine ⟨?_, ?_, ?_, ?_, ?_, ?_, ?_, ?_, ?_, ?_⟩ <;> decide +kernel

theorem witness_EncodeDecode :
    (Instr.ldi 5#6 75#14).WellFormed ∧ encode 0 (.ldi 5#6 75#14) = some 0x0271404B ∧
    decodeSlot slotA 0x0271404B = .ok (.ldi 5 75) ∧ decodeSlot slotM0 0x00605013 = .ok (.mdrain 0 10 0 1 3) := by
  decide +kernel

theorem witness_StepKeepsMemory : Memory.wf ready.mem = true ∧ ready.mem ≠ [] ∧ ∃ t, step ready = .next t :=
  ⟨by decide +kernel, by decide +kernel, _, rfl⟩

end Sys2Proof.Tests
end

section
/-! Memory as bytes: what a write of several bytes leaves. -/

namespace Sys2Proof.Machine
open Sys2Proof

theorem State.full_writeN (s : State) (k n v : Nat) : (s.writeN k n v).full = s.full := by
  induction n generalizing s k v with
  | zero => rfl
  | succ n ih => exact ih (s.setByte k (BitVec.ofNat 8 v)) (k + 1) (v / 256)

theorem storesAt_writeN {s : State} (h : Memory.wf s.mem = true) (k n v : Nat) :
    StoresAt s (s.writeN k n v) k n v := by
  refine ⟨fun i hi => ?_, fun a ha => ?_⟩
  · have hin : k ≤ k + i ∧ k + i < k + n := by omega
    rw [s.byte_writeN h, if_pos hin, Nat.add_sub_cancel_left, BitVec.toNat_ofNat]
  · rw [s.byte_writeN h, if_neg ha]

/-- Settles O20: the rules of `writeN` and `readN`, each by induction on the number of bytes. -/
theorem memoryIsBytes : Obligations.MemoryIsBytes := fun s k n v h =>
  ⟨storesAt_writeN h k n v, s.readN_writeN h k n v, s.wf_writeN h k n v, s.full_writeN k n v⟩

end Sys2Proof.Machine
end

section
/-! What every step keeps of memory: one lemma per function of the model that answers a state, in the order of the
model's files, each named after its function. A lemma stated for every `P` says that its function leaves memory
unchanged (take `P` to be equality with the memory before); one stated for `CanonMem` is about a function that may
write memory, and it rests on the rules of `setByte`, `writeN` and `writeBytes`. -/

namespace Sys2Proof.Machine
open Sys2Proof

/-- The memory of the state has the property `P`. -/
def MemSat (P : List Host.Cell → Prop) (s : State) : Prop := P s.mem

/-- Memory in canonical form. -/
abbrev CanonMem (m : List Host.Cell) : Prop := Memory.wf m = true

/-- The state an outcome answers, if it answers one, has memory with the property `P`. -/
def OutSat (P : List Host.Cell → Prop) (o : Out) : Prop := ∀ t, o = .next t → MemSat P t

/-- The state that presenting a bundle leaves, whatever came of it. -/
def Issue.after : Issue → State
  | .stopped t => t
  | .place t _ => t
  | .held t => t
  | .issued t _ _ => t

namespace MemSat
variable {P : List Host.Cell → Prop} {s t : State}

/-! ## Choices, folds and plain updates -/

theorem ite {c : Prop} [Decidable c] (hs : MemSat P s) (ht : MemSat P t) : MemSat P (if c then s else t) := by
  split
  · exact hs
  · exact ht

theorem foldl {α : Type} {f : State → α → State} {l : List α} (h : MemSat P s)
    (hf : ∀ t a, MemSat P t → MemSat P (f t a)) : MemSat P (l.foldl f s) :=
  foldl_keep (MemSat P) f hf l s h

theorem ite_fst {α : Type} {c : Prop} [Decidable c] {p q : State × α} (hp : MemSat P p.1) (hq : MemSat P q.1) :
    MemSat P (if c then p else q).1 := by
  split
  · exact hp
  · exact hq

theorem ite_snd {α : Type} {c : Prop} [Decidable c] {p q : α × State} (hp : MemSat P p.2) (hq : MemSat P q.2) :
    MemSat P (if c then p else q).2 := by
  split
  · exact hp
  · exact hq

theorem foldl_fst {α β : Type} {f : State × β → α → State × β} {l : List α} {p : State × β} (h : MemSat P p.1)
    (hf : ∀ q a, MemSat P q.1 → MemSat P (f q a).1) : MemSat P (l.foldl f p).1 :=
  foldl_keep (fun q => MemSat P q.1) f hf l p h

theorem foldl_snd {α β : Type} {f : β × State → α → β × State} {l : List α} {p : β × State} (h : MemSat P p.2)
    (hf : ∀ q a, MemSat P q.2 → MemSat P (f q a).2) : MemSat P (l.foldl f p).2 :=
  foldl_keep (fun q => MemSat P q.2) f hf l p h

/-- What follows a choice that may be absent. -/
theorem elim {α : Type} {o : Option α} {f : α → State} (h : MemSat P s) (hf : ∀ a, MemSat P (f a)) :
    MemSat P (o.elim s f) := by
  cases o with
  | none => exact h
  | some a => exact hf a

theorem of_snd {α : Type} {p : α × State} {a : α} (h : MemSat P p.2) (e : p = (a, t)) : MemSat P t := by
  rw [e] at h
  exact h

theorem withPoison {p} (h : MemSat P s) : MemSat P { s with poison := p } := h

theorem withDraws {n} (h : MemSat P s) : MemSat P { s with draws := n } := h

theorem withArgs {a} (h : MemSat P s) : MemSat P { s with args := a } := h

theorem next (h : MemSat P s) : OutSat P (.next s) := by
  intro t e
  cases e
  exact h

theorem ite_issue {c : Prop} [Decidable c] {p q : Issue} (hp : MemSat P p.after) (hq : MemSat P q.after) :
    MemSat P (if c then p else q).after := by
  split
  · exact hp
  · exact hq

/-! ## Ops -/

theorem putCell {c k} (h : MemSat P s) : MemSat P (s.putCell c k) := h

theorem modCell {c f} (h : MemSat P s) : MemSat P (s.modCell c f) := h.putCell

theorem modCtxOf {c x f} (h : MemSat P s) : MemSat P (s.modCtxOf c x f) := h.modCell

theorem modHere {f} (h : MemSat P s) : MemSat P (s.modHere f) := h.modCell

theorem modCtx {f} (h : MemSat P s) : MemSat P (s.modCtx f) := h.modCtxOf

theorem drawn (h : MemSat P s) : MemSat P s.drawn := h

theorem post {i a} (h : MemSat P s) : MemSat P (s.post i a) := h

theorem after {dt i a} (h : MemSat P s) : MemSat P (s.after dt i a) := h

theorem afterCycles {n i a} (h : MemSat P s) : MemSat P (s.afterCycles n i a) := h

theorem modDie {d f} (h : MemSat P s) : MemSat P (s.modDie d f) := h

theorem modPkg {f} (h : MemSat P s) : MemSat P (s.modPkg f) := h

theorem ws {n v} (h : MemSat P s) : MemSat P (s.ws n v) := h.modCtx

theorem wsLate {n v bound} (h : MemSat P s) : MemSat P (s.wsLate n v bound) := .ite h h.modCtx

theorem wpair {k c} (h : MemSat P s) : MemSat P (s.wpair k c) := h.modCtx

theorem jump {t} (h : MemSat P s) : MemSat P (s.jump t) := h.modCtx

theorem land {kind cl reg val emp mask flags bound held} (h : MemSat P s) :
    MemSat P (s.land kind cl reg val emp mask flags bound held) :=
  h.modCtx

/-- One of the three functions that write memory itself; the rest write through them. -/
theorem setByte {k b} (h : MemSat CanonMem s) : MemSat CanonMem (s.setByte k b) := s.wf_setByte h k b

theorem writeN {k n v} (h : MemSat CanonMem s) : MemSat CanonMem (s.writeN k n v) := s.wf_writeN h k n v

theorem writeBytes {k l} (h : MemSat CanonMem s) : MemSat CanonMem (s.writeBytes k l) := s.wf_writeBytes h k l

theorem setFull {k b} (h : MemSat P s) : MemSat P (s.setFull k b) := h

theorem setFullRange {k n b} (h : MemSat P s) : MemSat P (s.setFullRange k n b) :=
  .ite h (h.foldl fun _ _ ht => ht.setFull)

theorem clearPoison {key n} (h : MemSat P s) : MemSat P (s.clearPoison key n) := h

theorem overwrite {k l} (h : MemSat CanonMem s) : MemSat CanonMem (s.overwrite k l) := h.writeBytes.clearPoison

theorem carryPoison {src dst n poison} (h : MemSat P s) : MemSat P (s.carryPoison src dst n poison) :=
  h.foldl fun _ _ ht => .ite ht ht

theorem engineWrite {k l} (h : MemSat CanonMem s) : MemSat CanonMem (s.engineWrite k l) :=
  .ite h.writeBytes.clearPoison.setFullRange h.writeBytes.clearPoison

theorem injectReq {r} (h : MemSat P s) : MemSat P (s.injectReq r) := h.post

theorem engineReq {c id op a l} (h : MemSat P s) : MemSat P (s.engineReq c id op a l) := h.injectReq

theorem awaitedWrite {a op l} (h : MemSat P s) : MemSat P (s.awaitedWrite a op l).2 :=
  h.modCell.modPkg.engineReq.after

theorem globalWrite {a l} (h : MemSat CanonMem s) : MemSat CanonMem (s.globalWrite a l) :=
  .ite h.engineReq (.ite h h.engineWrite)

theorem hostWrite {a l} (h : MemSat P s) : MemSat P (s.hostWrite a l) := h

theorem violate {kind addr info} (h : MemSat P s) : MemSat P (s.violate kind addr info) := h.modCtx

theorem violateOf {c x kind addr info} (h : MemSat P s) : MemSat P (s.violateOf c x kind addr info) :=
  h.modCtxOf

theorem block {g} (h : MemSat P s) : MemSat P (s.block g) := h.modCtx.modHere

theorem giveUp (h : MemSat P s) : MemSat P s.giveUp := h.modHere

theorem waitFor {g} (h : MemSat P s) : MemSat P (s.waitFor g) := h.modCtx.giveUp

theorem closeWindow (h : MemSat P s) : MemSat P s.closeWindow := h.modCtx

theorem trace {c kind x pc slot d0 d1} (h : MemSat P s) : MemSat P (s.trace c kind x pc slot d0 d1) :=
  .ite h (.ite h.modCell h.modCell.post)

theorem takeStopBy {w c x pc slot cause info done} (h : MemSat P s) :
    MemSat P (s.takeStopBy w c x pc slot cause info done) :=
  .ite h.modCtxOf.trace.modCtxOf.modCell h.modCtxOf.trace.modCtxOf.modCell.post

theorem takeStop {c x pc slot cause info done} (h : MemSat P s) : MemSat P (s.takeStop c x pc slot cause info done) :=
  h.takeStopBy

theorem stop {cause info} (h : MemSat P s) : MemSat P (s.stop cause info) := .ite h h.takeStop

theorem illegal {info} (h : MemSat P s) : MemSat P (s.illegal info) := h.stop

theorem returnFrom {c x w eret} (h : MemSat P s) : MemSat P (s.returnFrom c x w eret) := h.modCtxOf

/-! ## Scalar -/

theorem cmp {c k a b} (h : MemSat P s) : MemSat P (s.cmp c k a b) := h.wpair

theorem cmpi {c k a i} (h : MemSat P s) : MemSat P (s.cmpi c k a i) := h.wpair

theorem pop {f k a b} (h : MemSat P s) : MemSat P (s.pop f k a b) := h.wpair

/-! ## Control -/

theorem transfer {t} (h : MemSat P s) : MemSat P (s.transfer t) := h.closeWindow.jump

theorem indirect {t link} (h : MemSat P s) : MemSat P (s.indirect t link) :=
  .ite (.transfer (.ite h.ws h)) h.illegal

theorem askPower {u} (h : MemSat P s) : MemSat P (s.askPower u) := .ite h h.modCtx.modDie.post

theorem releaseUnits {c x n} (h : MemSat P s) : MemSat P (s.releaseUnits c x n) :=
  .ite h (.ite h.modCtxOf.modDie h.modCtxOf.modDie.post)

/-! ## Csr -/

theorem startTableLoad {c} (h : MemSat P s) : MemSat P (s.startTableLoad c) := h.modCell.afterCycles

theorem writeRwTable {c o v} (h : MemSat P s) : MemSat P (s.writeRwTable c o v) :=
  .ite h (.ite h.modCell.startTableLoad h.modCell)

theorem cellCsrWrite {c o a v sup} (h : MemSat P s) : MemSat P (s.cellCsrWrite c o a v sup) :=
  .ite h.modCell <| .ite h.modCell <| .ite h <| .ite h.modCell <| .ite h.modCell <| .ite h.writeRwTable <|
    .ite h.modCell <| .ite h.modCell <| .ite h.modCell <| .ite h.modCell h

/-! ## DieCsr -/

theorem dieRw {d o a v mask} (h : MemSat P s) : MemSat P (s.dieRw d o a v mask) := h.modDie

theorem pkgRw {o a v mask} (h : MemSat P s) : MemSat P (s.pkgRw o a v mask) := h.modPkg

theorem writeDcpCmd {d o v} (h : MemSat P s) : MemSat P (s.writeDcpCmd d o v) := by
  unfold State.writeDcpCmd
  refine .ite h.dieRw ?_
  dsimp only
  split
  · exact h.dieRw.modDie.post
  · exact h.dieRw.modDie

theorem writeScanCtl {d o v} (h : MemSat P s) : MemSat P (s.writeScanCtl d o v) :=
  .ite (.post (.ite h.modDie (.ite h h.modDie))) (.ite h.modDie (.ite h h.modDie))

theorem dieCsrWrite {d o a v} (h : MemSat P s) : MemSat P (s.dieCsrWrite d o a v) := by
  unfold State.dieCsrWrite
  dsimp only
  split
  · exact .ite h.modDie.post h.modDie
  · exact .ite h.modDie.post h.modDie
  · exact .ite h.modDie.post h.modDie
  · exact h.post
  · exact h.writeDcpCmd
  · exact .ite h.dieRw.modDie.post h.dieRw
  · exact h.post
  · exact h.dieRw
  · exact h.dieRw
  · exact h.modDie.post
  · exact .ite h.dieRw.modDie.post h.dieRw
  · exact .ite h.modDie.post h.modDie
  · exact h.writeScanCtl
  · exact h.dieRw
  · exact .ite h.post (.ite (h.dieRw.post.foldl fun _ _ ht => ht.post) h)

theorem writeRtCtl {o v} (h : MemSat P s) : MemSat P (s.writeRtCtl o v) := .ite h h.modPkg

theorem writeKeyCmd {o v} (h : MemSat P s) : MemSat P (s.writeKeyCmd o v) := by
  unfold State.writeKeyCmd
  refine .ite h.pkgRw ?_
  dsimp only
  split
  · exact h.pkgRw.modPkg.post
  · exact h.pkgRw.modPkg

theorem setPools (h : MemSat P s) : MemSat P s.setPools := h.foldl fun _ _ ht => ht.modDie.post

theorem pkgCsrWrite {o a v} (h : MemSat P s) : MemSat P (s.pkgCsrWrite o a v) := by
  unfold State.pkgCsrWrite
  split
  · exact h.foldl fun _ _ ht => .ite ht.post ht
  · exact .ite h.modPkg.post h.modPkg
  · exact h.writeRtCtl
  · exact h.pkgRw
  · exact h.post
  · exact .ite h h.pkgRw
  · exact h.modPkg
  · exact h.modPkg
  · exact h.modPkg.setPools
  · exact h.writeKeyCmd
  · exact .ite (.ite h h.post) h

theorem csrPut {c x o a v sup} (h : MemSat P s) : MemSat P (s.csrPut c x o a v sup) :=
  .ite h.modCtxOf (.ite h.cellCsrWrite (.ite h (.ite h.dieCsrWrite h.pkgCsrWrite)))

theorem csrExec {o d c} (h : MemSat P s) : MemSat P (s.csrExec o d c) := .ite h.stop h.csrPut

theorem windowStore {c x off l sup} (h : MemSat P s) : MemSat P (s.windowStore c x off l sup) := h.csrPut

/-! ## Recorder -/

theorem recHorizon {c} (h : MemSat CanonMem s) : MemSat CanonMem (s.recHorizon c) := by
  refine .modCell (.foldl h.overwrite fun t i ht => ?_)
  split
  · exact ht.overwrite
  · exact ht

theorem recLog {c kind b9 fail pc slot d0 d1} (h : MemSat CanonMem s) :
    MemSat CanonMem (s.recLog c kind b9 fail pc slot d0 d1) :=
  .ite h (.ite h.overwrite.modCell h.recHorizon)

theorem recAdvance {c} (h : MemSat P s) : MemSat P (s.recAdvance c) := h.modCell

theorem execRdtime_keeps {d} (h : MemSat CanonMem s) : OutSat CanonMem (execRdtime d s) := by
  unfold execRdtime
  refine .next <| .ite h.wsLate <| .ite ?_ (.ite h.recLog.wsLate h.wsLate)
  split
  · exact h.recAdvance.wsLate
  · exact h.stop

/-! ## Trace -/

theorem traceWriteOne {c} (h : MemSat CanonMem s) : MemSat CanonMem (s.traceWriteOne c) := by
  unfold State.traceWriteOne
  dsimp only
  split
  · exact h
  · exact .ite h.globalWrite.modCell h.globalWrite.modCell.modCell.post

theorem stopCap {c x n pc slot} (h : MemSat P s) : MemSat P (s.stopCap c x n pc slot) := .ite h h.modCtxOf.trace

/-! ## ErrorLog -/

theorem logError {d src w1 w2 w3} (h : MemSat P s) : MemSat P (s.logError d src w1 w2 w3) := by
  unfold State.logError
  dsimp only
  split
  · exact h.modDie.trace
  · exact h.modDie

theorem logCell {c kind sub w2 w3} (h : MemSat P s) : MemSat P (s.logCell c kind sub w2 w3) := h.logError

theorem askKillOf {c id trigger} (h : MemSat P s) : MemSat P (s.askKillOf c id trigger) := h.post

theorem askKill {c trigger} (h : MemSat P s) : MemSat P (s.askKill c trigger) := .ite h.askKillOf h

theorem logConsumed {c x pc slot key} (h : MemSat P s) : MemSat P (s.logConsumed c x pc slot key) :=
  h.modDie.logCell

theorem consume {key} (h : MemSat P s) : MemSat P (s.consume key) := h.logConsumed.stop.askKill

/-! ## SaveArea -/

theorem saveDelta {area old new} (h : MemSat CanonMem s) : MemSat CanonMem (s.saveDelta area old new) :=
  h.foldl fun _ _ ht => ht.setByte

theorem swapPages {c pages} (h : MemSat CanonMem s) : MemSat CanonMem (s.swapPages c pages) :=
  h.foldl fun _ _ ht => ht.writeBytes.writeBytes.withPoison

theorem putFull {c l} (h : MemSat P s) : MemSat P (s.putFull c l) := h

/-- `f` runs between two swaps of the pages of a shelved cell, so memory is canonical where it starts. -/
theorem onShelf {g f} (h : MemSat CanonMem s) (hf : ∀ t, MemSat CanonMem t → MemSat CanonMem (f t)) :
    MemSat CanonMem (s.onShelf g f) :=
  .modDie (.putCell (.putFull (.swapPages (hf _ h.modDie.putCell.putFull.swapPages))))

theorem modSavedOf {c sel f} (h : MemSat CanonMem s) : MemSat CanonMem (s.modSavedOf c sel f) :=
  .ite (.modCell (h.foldl fun _ _ ht => .ite ht.saveDelta ht)) (h.foldl fun _ _ ht => .ite ht.saveDelta ht)

theorem modAway {c sel f} (h : MemSat CanonMem s) : MemSat CanonMem (s.modAway c sel f) :=
  h.modSavedOf.foldl fun _ _ ht => ht.onShelf fun _ ht1 => ht1.modSavedOf

theorem modBank {c x id f} (h : MemSat CanonMem s) : MemSat CanonMem (s.modBank c x id f) :=
  .ite h.modCtxOf h.modAway

theorem modTask {c x task f} (h : MemSat CanonMem s) : MemSat CanonMem (s.modTask c x task f) :=
  .ite h.modCtxOf h.modAway

/-! ## Tables -/

theorem noteTable {c x oc key n} (h : MemSat P s) : MemSat P (s.noteTable c x oc key n) := .ite h h

/-! ## Memory -/

theorem engineSees {c x key l} (h : MemSat P s) : MemSat P (s.engineSees c x key l) :=
  .ite h (h.foldl fun _ _ ht => ht)

theorem storeBytes {c x oc key l} (h : MemSat CanonMem s) : MemSat CanonMem (s.storeBytes c x oc key l) :=
  h.noteTable.writeBytes.clearPoison.engineSees

theorem settlePart {c x b e p} (h : MemSat CanonMem s) : MemSat CanonMem (s.settlePart c x b e p).1 := by
  unfold State.settlePart
  split
  · exact h.storeBytes
  · exact h.setFull
  · exact h
  · split
    · exact .ite h.storeBytes.recLog h.storeBytes
    · exact h.storeBytes

theorem settleList {c x b l} (h : MemSat CanonMem s) : MemSat CanonMem (s.settleList c x b l).1 :=
  .foldl_fst h fun _ _ hr => .foldl_fst hr fun _ _ hr1 => hr1.settlePart

theorem settleBank {c x b f} (h : MemSat CanonMem s) : MemSat CanonMem (s.settleBank c x b f).1 := h.settleList

theorem settle {c x f} (h : MemSat CanonMem s) : MemSat CanonMem (s.settle c x f) :=
  .ite h h.settleBank.modCtxOf

theorem settleSeq {c x seq} (h : MemSat CanonMem s) : MemSat CanonMem (s.settleSeq c x seq) := by
  unfold State.settleSeq
  split
  · exact h
  · exact h.settle

theorem performPart {c x seq part} (h : MemSat CanonMem s) : MemSat CanonMem (s.performPart c x seq part) := by
  unfold State.performPart
  split
  · exact h
  · refine .ite h ?_
    dsimp only
    split
    · exact h.settle
    · exact h.settle.settlePart.modCtxOf

theorem setLag {b} (h : MemSat CanonMem s) : MemSat CanonMem (s.setLag b) :=
  .ite h (.foldl h fun _ _ ht => ht.foldl fun _ _ ht1 => ht1.settle)

theorem delay {oc op ps} (h : MemSat P s) : MemSat P (s.delay oc op ps) := h.modHere.modCtx

theorem settleAway {c v} (h : MemSat CanonMem s) : MemSat CanonMem (s.settleAway c v) :=
  .ite h h.settleBank.modCell

theorem settleClass {oc} (h : MemSat CanonMem s) : MemSat CanonMem (s.settleClass oc) := h.settle

theorem storeLocal {oc ps} (h : MemSat CanonMem s) : MemSat CanonMem (s.storeLocal oc ps) :=
  .ite (h.foldl fun _ _ ht => ht.storeBytes) h.delay

theorem behindRelease {oc f} (h : MemSat P s) (hf : ∀ t, MemSat P t → MemSat P (f t)) :
    MemSat P (s.behindRelease oc f) :=
  .ite (hf _ h) h.block

theorem behindReleases {f} (h : MemSat CanonMem s) (hf : ∀ t, MemSat CanonMem t → MemSat CanonMem (f t)) :
    MemSat CanonMem (s.behindReleases f) :=
  .ite h.block (hf _ h.settle)

theorem windowOrder {oc store f} (h : MemSat CanonMem s) (hf : ∀ t, MemSat CanonMem t → MemSat CanonMem (f t)) :
    MemSat CanonMem (s.windowOrder oc store f) :=
  h.behindRelease fun _ ht => hf _ (.ite ht.settleClass ht)

theorem awaitOp {d oc key op n} (h : MemSat P s) : MemSat P (s.awaitOp d oc key op n) :=
  .ite h.delay h.delay.modCtx

theorem awaitLate {d oc signed key n} (h : MemSat P s) : MemSat P (s.awaitLate d oc signed key n) := h.awaitOp

theorem loadLocal {d ea oc signed n} (h : MemSat CanonMem s) : MemSat CanonMem (s.loadLocal d ea oc signed n) :=
  .ite (h.windowOrder fun _ ht => ht.wsLate) (h.behindRelease fun _ ht => .ite ht.wsLate ht.awaitLate)

theorem load {signed d a oc z f} (h : MemSat CanonMem s) : MemSat CanonMem (s.load signed d a oc z f) := by
  unfold State.load
  dsimp only
  split
  · exact h.violate.wsLate
  · exact .ite h.consume h.loadLocal

theorem localWrite {ea oc ps commit} (h : MemSat CanonMem s)
    (hcommit : ∀ t, MemSat CanonMem t → MemSat CanonMem (commit t)) :
    MemSat CanonMem (s.localWrite ea oc ps commit) := by
  unfold State.localWrite
  refine .ite (h.windowOrder fun _ ht => ht.foldl fun _ _ ht1 => ht1.windowStore) <| .ite h.stop ?_
  split
  · exact h.consume
  · exact hcommit _ h

theorem execSt_keeps {d a o z f} (h : MemSat CanonMem s) : OutSat CanonMem (execSt d a o z f s) := by
  unfold execSt
  refine .next ?_
  dsimp only
  split
  · exact h.violate
  · exact h.localWrite fun _ ht => ht.storeLocal

theorem syncLoad {take d a oc z f} (h : MemSat CanonMem s) : MemSat CanonMem (s.syncLoad take d a oc z f) := by
  unfold State.syncLoad
  dsimp only
  split
  · exact h.violate.wsLate
  · exact .ite h.block <| .ite h.consume <| h.behindRelease fun _ ht =>
      .ite ht.settleClass.block (.wsLate (.ite ht.settleClass.setFull ht.settleClass))

theorem landVec {cl v val emp} (h : MemSat P s) : MemSat P (s.landVec cl v val emp) := h.land

theorem vload {v cls ea oc dead} (h : MemSat CanonMem s) : MemSat CanonMem (s.vload v cls ea oc dead) := by
  unfold State.vload
  dsimp only
  split
  · exact h.violate.foldl fun _ _ ht => ht.land
  · exact .ite (h.windowOrder fun _ ht => ht.foldl fun _ _ ht1 => ht1.landVec) <| .ite h.consume <|
      h.behindRelease fun _ ht => .ite (.modCtx (.ite ht.modHere ht.delay)) <|
      .foldl (.ite ht.modHere ht.delay) fun _ _ ht1 => ht1.modCtx

theorem vstore {v cls ea oc live} (h : MemSat CanonMem s) : MemSat CanonMem (s.vstore v cls ea oc live) := by
  unfold State.vstore
  dsimp only
  split
  · exact h.violate
  · exact h.localWrite fun _ ht => ht.storeLocal

theorem amo {op d a oc z f} (h : MemSat CanonMem s) : MemSat CanonMem (s.amo op d a oc z f) := by
  unfold State.amo
  dsimp only
  split
  · exact h.violate.wsLate
  · refine .ite ?_ <| .ite h.consume <| h.behindRelease fun _ ht =>
      .localWrite (.ite ht ht.settleClass) fun _ ht1 => .ite ht1.awaitOp <|
      .ite ht1.storeBytes.wsLate.recLog ht1.storeBytes.wsLate
    split
    · exact h.recAdvance.wsLate
    · exact h.stop

theorem sendReq {r} (h : MemSat P s) : MemSat P (s.sendReq r) := .ite h.post h.injectReq

theorem sendFrom {base op kind reg sz twin addr data oc info} (h : MemSat P s) :
    MemSat P (s.sendFrom base op kind reg sz twin addr data oc info) :=
  h.modHere.modCtx.after.sendReq

theorem sendRemote {op kind reg sz twin addr data oc info} (h : MemSat P s) :
    MemSat P (s.sendRemote op kind reg sz twin addr data oc info) :=
  h.sendFrom

theorem execStf_keeps {d a o z f} (h : MemSat CanonMem s) : OutSat CanonMem (execStf d a o z f s) := by
  unfold execStf
  refine .next ?_
  dsimp only
  split
  · exact h.violate
  · exact h.localWrite fun _ ht => .ite ht.sendRemote ht.storeBytes.setFull

theorem execSete_keeps {a o f} (h : MemSat P s) : OutSat P (execSete a o f s) := by
  unfold execSete
  refine .next ?_
  dsimp only
  split
  · exact h.violate
  · exact .ite h.setFull h.delay

theorem farRefused {kind twin writes d ea info} (h : MemSat P s) : MemSat P (s.farRefused kind twin writes d ea info) :=
  .ite (.ite h.wpair.ws h.wpair) (.ite h.violate.ws h.violate)

theorem farScalar {op kind twin d a oc z f data} (h : MemSat P s) :
    MemSat P (s.farScalar op kind twin d a oc z f data) := by
  unfold State.farScalar
  dsimp only
  split
  · exact h.farRefused
  · exact h.sendRemote

theorem farAmo {op twin d a oc z f} (h : MemSat P s) : MemSat P (s.farAmo op twin d a oc z f) := by
  unfold State.farAmo
  refine .ite ?_ h.farScalar
  split
  · exact .ite h.recAdvance.ws.wpair h.recAdvance.ws
  · exact h.stop

theorem farVload {op twin v a oc x} (h : MemSat P s) : MemSat P (s.farVload op twin v a oc x) := by
  unfold State.farVload
  dsimp only
  split
  · exact .modCtx (.ite h.wpair h.violate)
  · exact h.sendRemote

theorem farVstore {op twin v a oc x} (h : MemSat P s) : MemSat P (s.farVstore op twin v a oc x) := by
  unfold State.farVstore
  dsimp only
  split
  · exact .ite h.wpair h.violate
  · exact h.sendRemote

theorem dropTranslations {sc} (h : MemSat P s) : MemSat P (s.dropTranslations sc) := h

theorem showTables {m sc} (h : MemSat P s) : MemSat P (s.showTables m sc) := h

theorem execFence_keeps {m sc} (h : MemSat CanonMem s) : OutSat CanonMem (execFence m sc s) :=
  .next (.ite h.block (.ite h.closeWindow h.settle.showTables.dropTranslations.closeWindow))

/-! ## Sync -/

theorem putBarrier {key b n} (h : MemSat CanonMem s) : MemSat CanonMem (s.putBarrier key b n) :=
  .ite h.writeN.writeN.setFull.setFull h.writeN.writeN

theorem observe {key hits} (h : MemSat P s) : MemSat P (s.observe key hits) :=
  h.foldl fun _ _ ht => ht.modCell.trace

theorem updateBarrier {key actor arrival f} (h : MemSat CanonMem s) :
    MemSat CanonMem (s.updateBarrier key actor arrival f).1 :=
  .ite_fst h.putBarrier.observe h

theorem subtract {key n err} (h : MemSat CanonMem s) : MemSat CanonMem (s.subtract key n err) := h.updateBarrier

theorem engineSub {c x id addr n err} (h : MemSat CanonMem s) : MemSat CanonMem (s.engineSub c x id addr n err) :=
  .ite h (.ite h.subtract h.sendReq)

theorem barrierOp {op ea data arrival f} (h : MemSat CanonMem s) :
    MemSat CanonMem (s.barrierOp op ea data arrival f) := by
  unfold State.barrierOp
  split
  · exact h.violate
  · exact .ite h.sendRemote (.ite h.updateBarrier h.stop)

theorem lookedAt {a} (h : MemSat P s) : MemSat P (s.lookedAt a) := .ite h h.drawn.drawn

theorem execBwait_keeps {a} (h : MemSat CanonMem s) : OutSat CanonMem (execBwait a s) := by
  unfold execBwait
  refine .next ?_
  split
  · exact h.violate.wpair.closeWindow
  · exact h.behindRelease fun _ ht =>
      .ite ht.settleClass.lookedAt.block ht.settleClass.lookedAt.wpair.closeWindow

theorem addSignal {key v} (h : MemSat CanonMem s) : MemSat CanonMem (s.addSignal key v) := h.writeN.setFull

theorem engineAdd {addr v} (h : MemSat CanonMem s) : MemSat CanonMem (s.engineAdd addr v) :=
  .ite h.engineReq (.ite h h.addSignal.observe)

theorem execSignal_keeps {a b} (h : MemSat CanonMem s) : OutSat CanonMem (execSignal a b s) := by
  unfold execSignal
  refine .next ?_
  dsimp only
  split
  · exact h.violate
  · exact .ite h.sendRemote (.ite h.addSignal.observe h.stop)

theorem execSwait_keeps {a b} (h : MemSat CanonMem s) : OutSat CanonMem (execSwait a b s) := by
  unfold execSwait
  refine .next ?_
  split
  · exact h.violate
  · exact h.behindRelease fun _ ht => .ite ht.settleClass.lookedAt.block ht.settleClass.lookedAt

theorem execStmc_keeps {d a b} (h : MemSat P s) : OutSat P (execStmc d a b s) := by
  unfold execStmc
  refine .next <| .ite h.violate ?_
  split
  · exact h.violate
  · exact h.foldl fun _ _ ht => ht.sendFrom

theorem execRot_keeps {d a b} (h : MemSat CanonMem s) : OutSat CanonMem (execRot d a b s) := by
  refine .next <| .ite h.illegal <| .ite h.block <| h.behindReleases fun t ht => ?_
  extract_lets src dst data s1 s2 s3 ring big dmax
  have h1 : MemSat CanonMem s1 := .ite ht ht.violate
  have h2 : MemSat CanonMem s2 := .ite h1.setFullRange h1.violate
  exact .ite h2.modHere.afterCycles h2.modHere

theorem execRotComplete_keeps (h : MemSat CanonMem s) : OutSat CanonMem (execRotComplete s) := by
  refine .next (.foldl (.foldl h fun t i ht => ?_) fun t r ht => ?_)
  · dsimp only
    split
    · exact .ite ht (.ite ht.engineWrite.carryPoison ht.engineWrite)
    · exact ht
  · exact .ite ht.modCell ht.modCell.modTask

/-! ## Tarragon -/

theorem rewrite {c x e} (h : MemSat P s) : MemSat P (s.rewrite c x e) := by
  unfold State.rewrite
  refine .ite h ?_
  dsimp only
  split
  · exact h
  · exact h.modCell

theorem execRwTableLoadDone_keeps (h : MemSat P s) : OutSat P (execRwTableLoadDone s) := by
  unfold execRwTableLoadDone
  refine .next ?_
  dsimp only
  split
  · exact h
  · exact .ite h.modCell h.modCell

/-! ## Layout -/

theorem globalRead {a n} (h : MemSat P s) : MemSat P (s.globalRead a n).2 := .ite_snd h h

theorem placeRead {a n} (h : MemSat P s) : MemSat P (s.placeRead a n).2 := .ite_snd h h.globalRead

theorem windowRun {c sup n off l} (h : MemSat P s) : MemSat P (s.windowRun c sup n off l) := by
  induction n generalizing s off l with
  | zero => exact h
  | succ n ih => exact .ite h (ih h.windowStore)

theorem placeStore {a l sup} (h : MemSat CanonMem s) : MemSat CanonMem (s.placeStore a l sup) :=
  .ite h (.ite h.windowRun h.globalWrite)

theorem postFault {c x kind src held tensor w2 w3} (h : MemSat P s) :
    MemSat P (s.postFault c x kind src held tensor w2 w3) :=
  h.modDie

theorem tableEntry {t tile} (h : MemSat P s) : MemSat P (s.tableEntry t tile).2 := .ite_snd h (.ite_snd h h)

theorem edgeEntry {die tensor t tile} (h : MemSat P s) : MemSat P (s.edgeEntry die tensor t tile).2 := by
  unfold State.edgeEntry
  split
  · exact h
  · dsimp only
    split
    · exact h.tableEntry.modDie
    · exact h.tableEntry

theorem translate {c x src tensor cs} (h : MemSat P s) : MemSat P (s.translate c x src tensor cs).2 := by
  unfold State.translate
  split
  · exact h.postFault
  · split
    · exact h
    · exact .ite h.tableEntry.postFault h.tableEntry

theorem xltDone {c x id o due} (h : MemSat CanonMem s) : MemSat CanonMem (s.xltDone c x id o due) := h.modBank

theorem execXlt_keeps {d a b} (h : MemSat CanonMem s) : OutSat CanonMem (execXlt d a b s) := by
  unfold execXlt
  refine .next <| .ite h.illegal <| .ite h.block ?_
  dsimp only
  split
  · exact .modCtx (.xltDone (.ite h.modHere.modCtx.postFault h.modHere.modCtx))
  · exact h.modHere.modCtx.modDie.post

theorem walkXlt {w table bound} (h : MemSat CanonMem s) : MemSat CanonMem (s.walkXlt w table bound) := by
  unfold State.walkXlt
  dsimp only
  split
  · exact h.post.after
  · exact h.translate.xltDone

theorem seqWalked {c n id tile} (h : MemSat P s) : MemSat P (s.seqWalked c n id tile) := by
  unfold State.seqWalked
  split
  · exact h
  · refine .post ?_
    split
    · refine .modCell ?_
      split
      · exact h.tableEntry
      · exact h
    · refine .postFault <| .modCell ?_
      split
      · exact h.tableEntry
      · exact h

theorem execWalkerTranslate_keeps (h : MemSat CanonMem s) : OutSat CanonMem (execWalkerTranslate s) := by
  unfold execWalkerTranslate
  refine .next <| .ite h.seqWalked <| .ite (.ite h.modDie.afterCycles h.modDie) ?_
  split
  · exact h.modDie
  · dsimp only
    split
    · exact h.modDie.modDie.afterCycles
    · exact h.modDie.modDie.walkXlt

theorem walkEntry {c x id e} (h : MemSat CanonMem s) : MemSat CanonMem (s.walkEntry c x id e) := by
  unfold State.walkEntry
  dsimp only
  split
  · exact h
  · split
    · exact h.modDie.post.xltDone
    · exact .xltDone (.ite h.modDie.post.postFault h.modDie.post)

theorem dropTensor {d tensor} (h : MemSat P s) : MemSat P (s.dropTensor d tensor) := h

theorem tablesFresh {d id} (h : MemSat P s) : MemSat P (s.tablesFresh d id) := h

/-! ## Sequencer -/

theorem modSeq {c n f} (h : MemSat P s) : MemSat P (s.modSeq c n f) := h.modCell

theorem seqWalk {c n tile} (h : MemSat P s) : MemSat P (s.seqWalk c n tile) := h.modCell.modSeq.modDie.post

theorem seqTranslate {c n q cs} (h : MemSat P s) : MemSat P (s.seqTranslate c n q cs).2 := by
  unfold State.seqTranslate
  extract_lets tensor held
  split
  · exact h.postFault
  · split
    · exact h
    · extract_lets r o s1
      have hr : MemSat P r.2 := by
        dsimp only [r]
        generalize held = v
        cases v with
        | some => exact .ite_snd h (.ite_snd h.edgeEntry h.tableEntry)
        | none => exact .ite_snd h.edgeEntry h.tableEntry
      have h1 : MemSat P s1 := by
        dsimp only [s1]
        generalize r.1 = v
        cases v with
        | some => exact hr.modSeq
        | none => exact hr
      exact .ite h1.postFault h1

theorem gather {c n q eb k m} (h : MemSat P s) : MemSat P (s.gather c n q eb k m).2 := by
  induction m generalizing s k with
  | zero => exact h
  | succ m ih =>
    unfold State.gather
    split
    · exact h
    · dsimp only
      split
      · exact h.seqTranslate
      · exact ih (MemSat.ite_snd h.seqTranslate h.seqTranslate.globalRead)

theorem seqFetch {c n} (h : MemSat P s) : MemSat P (s.seqFetch c n) := by
  unfold State.seqFetch
  split
  · exact h
  · refine .ite h <| .ite ?_ ?_
    · dsimp only
      split
      · exact h.gather.modSeq
      · exact h.gather.modSeq.seqWalk
      · exact h.gather.modSeq.modCell
    · split
      · exact h.seqWalk
      · dsimp only
        split
        · exact h.seqTranslate.modSeq
        · exact h.seqTranslate.modSeq.modCell

theorem seqAnswer {c x id l} (h : MemSat CanonMem s) : MemSat CanonMem (s.seqAnswer c x id l) := h.modBank

theorem seqServe {c n m} (h : MemSat CanonMem s) : MemSat CanonMem (s.seqServe c n m) := by
  induction m generalizing s with
  | zero => exact h
  | succ m ih =>
    unfold State.seqServe
    split
    · exact h
    · split
      · exact h
      · split
        · exact ih h.modSeq.seqAnswer
        · exact .ite (ih h.modSeq.seqAnswer) h

theorem seqPoke {c n} (h : MemSat P s) : MemSat P (s.seqPoke c n) := by
  unfold State.seqPoke
  split
  · exact .ite h.post h
  · exact h

theorem execVldSequenced_keeps {v n o} (h : MemSat CanonMem s) : OutSat CanonMem (execVldSequenced v n o s) := by
  unfold execVldSequenced
  refine .next ?_
  dsimp only
  split
  · exact h.illegal
  · exact .ite h.illegal h.modHere.modCtx.modSeq.seqServe.seqPoke

/-! ## Spill -/

theorem takeFrames {d n} (h : MemSat P s) : MemSat P (s.takeFrames d n).2 := h.modDie

theorem spillBytes {d frames l} (h : MemSat CanonMem s) : MemSat CanonMem (s.spillBytes d frames l) :=
  h.foldl fun _ _ ht => ht.globalWrite

theorem freeFramesOf {d l} (h : MemSat P s) : MemSat P (s.freeFramesOf d l) := h.foldl fun _ _ ht => ht.post

theorem modTaskAway {c task f} (h : MemSat P s) : MemSat P (s.modTaskAway c task f) := h.modCell.modDie

/-! ## Streams -/

theorem modTag {c t f} (h : MemSat P s) : MemSat P (s.modTag c t f) := h.modCell

theorem modPort {c p f} (h : MemSat P s) : MemSat P (s.modPort c p f) := h.modCell

/-- `f` is what is done at the port; it runs with the shelved cell swapped in where the port is shelved. -/
theorem atPort {c stream f} (h : MemSat CanonMem s) (hf : ∀ t a1, MemSat CanonMem t → MemSat CanonMem (f t a1)) :
    MemSat CanonMem (s.atPort c stream f) := by
  unfold State.atPort
  split
  · exact hf _ _ h
  · split
    · exact h.onShelf fun _ ht => .elim ht fun _ => hf _ _ ht
    · exact h

theorem atTag {c stream f} (h : MemSat CanonMem s) (hf : ∀ t a1, MemSat CanonMem t → MemSat CanonMem (f t a1)) :
    MemSat CanonMem (s.atTag c stream f) := by
  unfold State.atTag
  split
  · exact hf _ _ h
  · split
    · exact h.onShelf fun _ ht => .elim ht fun _ => hf _ _ ht
    · exact h

theorem raiseEvent {c bit} (h : MemSat CanonMem s) : MemSat CanonMem (s.raiseEvent c bit) := h.modAway.modCell

theorem sendTo {dest i a kind b} (h : MemSat P s) : MemSat P (s.sendTo dest i a kind b) :=
  .ite (.ite h h.post) h.post

theorem chunkOnward {d c ck} (h : MemSat P s) : MemSat P (s.chunkOnward d c ck) := by
  unfold State.chunkOnward
  split
  · exact .ite h h.post
  · refine .ite h.post ?_
    split <;> exact h.post

theorem returnOnward {d c stream ack} (h : MemSat P s) : MemSat P (s.returnOnward d c stream ack) := by
  unfold State.returnOnward
  dsimp only
  split
  · exact .ite h h.post
  · exact h.post

theorem sendChunk {c dest ck} (h : MemSat P s) : MemSat P (s.sendChunk c dest ck) := .ite h.chunkOnward h.sendTo

theorem blame {p} (h : MemSat P s) : MemSat P (s.blame p) := .ite h.modPkg h.modPkg.post

theorem countFix {t} (h : MemSat P s) : MemSat P (s.countFix t) := .ite h.modPkg (.ite h.modPkg h.modPkg.blame)

theorem failChunk {die point port kind sub src ck} (h : MemSat P s) :
    MemSat P (s.failChunk die point port kind sub src ck) :=
  .sendTo (.ite h.logError.blame h.logError)

theorem channelError {c p sub seq} (h : MemSat P s) : MemSat P (s.channelError c p sub seq) := by
  unfold State.channelError
  refine .ite h.modPort.logCell.askKill ?_
  split
  · exact h.modPort.logCell.askKill.askKillOf
  · exact h.modPort.logCell.askKill.askKill

theorem emitChunk {c x p w pay} (h : MemSat CanonMem s) : MemSat CanonMem (s.emitChunk c x p w pay) := by
  unfold State.emitChunk
  extract_lets t ck s1 sent s2 s3 s4
  have h2 : MemSat CanonMem s2 := .ite h h.modCtxOf.overwrite.sendChunk.modCell
  exact .modCtxOf (.ite h2.modPort.modCell h2.modPort)

theorem sendReturn {c t} (h : MemSat P s) : MemSat P (s.sendReturn c t) :=
  .ite h (h.foldl fun _ _ ht => .ite ht.returnOnward ht.sendTo)

theorem haFreed {c g m} (h : MemSat P s) : MemSat P (s.haFreed c g m) := h.modCell

theorem sendPennant {c m} (h : MemSat P s) : MemSat P (s.sendPennant c m) := .ite h h.post

theorem issuePennant {c} (h : MemSat P s) : MemSat P (s.issuePennant c) := h.modCell.sendPennant

theorem nextPennant {c} (h : MemSat P s) : MemSat P (s.nextPennant c) := .ite h.issuePennant h

theorem freeSlot {c t slot} (h : MemSat P s) : MemSat P (s.freeSlot c t slot) := by
  unfold State.freeSlot
  extract_lets g r s1 g1 g2 s2 s3
  have h2 : MemSat P s2 := h.setFullRange.modTag
  have h3 : MemSat P s3 := .ite h2.haFreed.nextPennant h2
  exact .ite h3 h3.sendReturn

theorem settleTag {c t n} (h : MemSat CanonMem s) : MemSat CanonMem (s.settleTag c t n) := by
  induction n generalizing s with
  | zero => exact h
  | succ n ih =>
    unfold State.settleTag
    extract_lets g sl r s1 s2 s3 s4 _ s5
    have h4 : MemSat CanonMem s4 := .ite h.setFullRange.modTag.raiseEvent.modCell h.setFullRange.modTag.raiseEvent
    have h5 : MemSat CanonMem s5 := .ite h4.post h4
    exact .ite (ih h.modTag) (.ite (ih h5.post) h)

theorem refuseFor {g origin n} (h : MemSat P s) : MemSat P (s.refuseFor g origin n) := .ite h h.sendTo

theorem refuse {c g origin n} (h : MemSat P s) : MemSat P (s.refuse c g origin n) :=
  h.foldl fun _ _ ht => ht.refuseFor

theorem dropCompleted {c t ck} (h : MemSat CanonMem s) : MemSat CanonMem (s.dropCompleted c t ck) :=
  .ite (.ite h.sendReturn h) <| .ite h.refuse <|
    .ite h.modTag.settleTag.modTag h.modTag.settleTag.modTag.sendReturn

theorem execChunkArrival_keeps (h : MemSat CanonMem s) : OutSat CanonMem (execChunkArrival s) := by
  refine .next ?_
  extract_lets c ck away k t g s1 sl r ck' s2 s3 s4
  have h1 : MemSat CanonMem s1 := .ite h.modCell.nextPennant h
  have h3 : MemSat CanonMem s3 := h1.overwrite.modTag
  split
  · exact h.failChunk
  · exact .ite h1.refuse <| .ite h1.dropCompleted <| .ite (.ite h1.sendReturn h1) <| .ite h1.refuse <|
      .ite h1 (.settleTag (.ite h3.modCell h3))

theorem pokeResend {c p} (h : MemSat P s) : MemSat P (s.pokeResend c p) := .ite h.post h

theorem takeReturn {c p ack} (h : MemSat CanonMem s) : MemSat CanonMem (s.takeReturn c p ack) :=
  .ite h (.ite h.channelError (.ite h h.modPort.raiseEvent.pokeResend))

theorem startTag {c t} (h : MemSat P s) : MemSat P (s.startTag c t) := h.modTag.after

theorem sendCensus {c t} (h : MemSat P s) : MemSat P (s.sendCensus c t) :=
  .ite h (.ite h.startTag (.startTag (h.modTag.foldl fun _ _ ht => ht.sendChunk)))

theorem fixAck {c p ack} (h : MemSat CanonMem s) : MemSat CanonMem (s.fixAck c p ack) :=
  h.modPort.logCell.countFix.raiseEvent

theorem takeCensus {c p pay} (h : MemSat CanonMem s) : MemSat CanonMem (s.takeCensus c p pay) :=
  .ite h (.ite h.channelError (.pokeResend (.ite h.modPort h.modPort.fixAck)))

theorem execCensusArrival_keeps (h : MemSat CanonMem s) : OutSat CanonMem (execCensusArrival s) :=
  .next (.ite (.elim h fun _ => h.failChunk) (h.atPort fun _ _ ht => .elim ht.takeCensus fun _ => ht.failChunk))

theorem takeRefusal {c p n ack} (h : MemSat CanonMem s) : MemSat CanonMem (s.takeRefusal c p n ack) :=
  .ite h.channelError (.ite (.ite h h.fixAck) (.after (.modPort (.ite h h.fixAck))))

theorem retainError {c p n} (h : MemSat P s) : MemSat P (s.retainError c p n) := h.modPort.logCell

theorem resend {c p n attempt} (h : MemSat P s) : MemSat P (s.resend c p n attempt) :=
  .ite h (.ite h.retainError h.modPort.sendChunk.modCell)

theorem resendRefused {c p} (h : MemSat P s) : MemSat P (s.resendRefused c p) := by
  unfold State.resendRefused
  dsimp only
  split
  · exact h
  · exact .ite h (.ite (.pokeResend (.modPort (.ite h h.resend))) h)

theorem takeReplay {c p n attempt} (h : MemSat P s) : MemSat P (s.takeReplay c p n attempt) :=
  .ite h (.ite h.channelError h.resend)

/-! ## Matrix -/

theorem modMat {c e f} (h : MemSat P s) : MemSat P (s.modMat c e f) := h.modCell

theorem claimTile {c e t} (h : MemSat CanonMem s) : MemSat CanonMem (s.claimTile c e t) := by
  unfold State.claimTile
  dsimp only
  split
  · exact h
  · exact .ite h h.takeFrames.withDraws.spillBytes.modTaskAway.modMat

theorem claimWeights {c e} (h : MemSat CanonMem s) : MemSat CanonMem (s.claimWeights c e) :=
  .ite h (.modMat (.modDie (.foldl_snd h fun _ _ hr => hr.takeFrames.spillBytes)))

theorem enqueueM {op t aux sval stream f} (h : MemSat P s) (hf : ∀ t, MemSat P t → MemSat P (f t)) :
    MemSat P (s.enqueueM op t aux sval stream f) :=
  .ite h.block (.post (.rewrite (.modCtx (.modMat (hf _ h)))))

theorem stay (h : MemSat P s) : MemSat P s.stay := h.modCtx

theorem execMwload_keeps {r m} (h : MemSat CanonMem s) : OutSat CanonMem (execMwload r m s) :=
  .next (.ite h.illegal (.ite h.illegal (h.enqueueM fun _ ht => ht.claimWeights.modMat)))

theorem takeTile {t} (h : MemSat CanonMem s) : MemSat CanonMem (s.takeTile t) := h.claimTile.modMat

theorem multiply {op t r q n} (h : MemSat CanonMem s) : MemSat CanonMem (s.multiply op t r q n) := by
  unfold State.multiply
  refine .ite h.illegal ?_
  split
  · exact h.illegal
  · exact .ite h.illegal (.ite h.illegal (h.enqueueM fun _ ht => .ite ht.takeTile ht))

theorem ownedOp {op t aux sval} (h : MemSat P s) : MemSat P (s.ownedOp op t aux sval) :=
  .ite h.illegal (h.enqueueM fun _ ht => ht)

theorem execMchk_keeps {t x} (h : MemSat P s) : OutSat P (execMchk t x s) := by
  unfold execMchk
  refine .next <| .ite h.stay <| .ite h.illegal ?_
  split
  · exact .ite h.wpair h
  · exact .ite h.wpair h.stop

theorem matViolate {c e kind a store} (h : MemSat P s) : MemSat P (s.matViolate c e kind a store) := h.violateOf

theorem matSource {c e n align addrs} (h : MemSat P s) : MemSat P (s.matSource c e n align addrs).2 := by
  unfold State.matSource
  split
  · exact h.matViolate
  · exact h

/-- A tile address a sequencer gives may have it fetch; memory is as before. -/
theorem unitAddr {c q r} (h : MemSat P s) (e : s.unitAddr c q = some r) : MemSat P r.2 := by
  unfold State.unitAddr at e
  split at e
  · cases e; exact h
  · dsimp only at e
    split at e
    · cases e
    · split at e
      · cases e; exact MemSat.ite h.seqFetch h
      · split at e
        · cases e; exact MemSat.ite h.seqFetch h
        · cases e

theorem unitAddrs {c q m r} (h : MemSat P s) (e : s.unitAddrs c q m = some r) : MemSat P r.2 := by
  induction m generalizing s r with
  | zero => cases e; exact h
  | succ m ih =>
    unfold State.unitAddrs at e
    split at e
    · cases e
    · next p hp =>
      obtain ⟨u, hu, rfl⟩ := Option.map_eq_some_iff.1 e
      exact ih (h.unitAddr hp) (r := u) hu

theorem unitBytes {c e n align us} (h : MemSat P s) : MemSat P (s.unitBytes c e n align us).2 := by
  unfold State.unitBytes
  refine .ite_snd h.matSource <| .foldl_snd h.matSource fun r a hr => ?_
  dsimp only
  split <;> exact hr

/-- The data of a matrix operation, when its operands are there. -/
theorem matData {c m e r} (h : MemSat P s) (hr : s.matData c m e = some r) : MemSat P r.after := by
  unfold State.matData at hr
  dsimp only at hr
  split at hr
  · split at hr
    · cases hr; exact h.matSource
    · obtain ⟨us, hu, rfl⟩ := Option.map_eq_some_iff.1 hr
      exact (h.unitAddrs hu).unitBytes
  · split at hr
    · split at hr
      · cases hr; exact h.matSource
      · obtain ⟨us, hu, rfl⟩ := Option.map_eq_some_iff.1 hr
        exact (h.unitAddrs hu).unitBytes
    · split at hr
      · cases hr; exact h.matSource
      · cases hr; exact h

theorem matStart {c n} (h : MemSat P s) : MemSat P (s.matStart c n) := by
  refine .ite h ?_
  split
  · exact h
  · split
    · exact h
    · next hr =>
      have hs := h.matData hr
      split
      · exact hs.logConsumed.modMat.modCtxOf
      · refine .modMat (.ite (.modCtxOf ?_) ?_)
        all_goals
          refine .ite ?_ hs
          split
          · exact hs
          · exact hs.modMat.modCtxOf

theorem matWrite {c e l} (h : MemSat CanonMem s) : MemSat CanonMem (s.matWrite c e l) := by
  unfold State.matWrite
  split
  · exact h.matViolate
  · exact h.engineWrite

theorem releaseTile {c n e} (h : MemSat P s) : MemSat P (s.releaseTile c n e) := .ite h h.modMat

theorem matEffect {c n e} (h : MemSat CanonMem s) : MemSat CanonMem (s.matEffect c n e) := by
  unfold State.matEffect
  refine .ite h.modMat <| .ite h.modMat <| .ite ?_ ?_
  · split <;> exact h
  · refine .ite (.ite (.releaseTile (.ite h.matWrite.modMat h.matWrite)) (.ite h.matWrite.modMat h.matWrite)) <|
      .ite h.modMat <| .ite h.modMat <|
      .ite ?_ (.ite (.ite (.releaseTile h.matWrite) h.matWrite) (.ite h.modMat h))
    split <;> exact h.modMat

theorem matComplete {c n} (h : MemSat CanonMem s) : MemSat CanonMem (s.matComplete c n) := by
  unfold State.matComplete
  dsimp only
  split
  · exact .ite h h.modMat.matEffect.post
  · exact h

theorem execSemit_keeps {p a b} (h : MemSat CanonMem s) : OutSat CanonMem (execSemit p a b s) := by
  refine .next <| .ite h.illegal <| .ite h.illegal <| .ite h.block <| h.behindReleases fun t ht => ?_
  extract_lets s1 addr
  have h1 : MemSat CanonMem s1 := .ite ht.closeWindow ht
  exact .ite h1.violate <| .ite h1.violate <| .ite h1.consume h1.emitChunk

theorem entryError {c n} (h : MemSat P s) : MemSat P (s.entryError c n) := by
  unfold State.entryError
  dsimp only
  split
  · exact h
  · exact .ite h.modMat.modCtxOf h.modMat.modCtxOf

theorem bufferError {c n} (h : MemSat P s) : MemSat P (s.bufferError c n) := by
  unfold State.bufferError
  split
  · exact h
  · exact h.modMat.modCtxOf

/-! ## Lanes -/

theorem vexec {d bound cls f} (h : MemSat P s) : MemSat P (s.vexec d bound cls f) :=
  .ite h.illegal (h.foldl fun _ _ ht => ht.land)

theorem qexec {q bound cls f} (h : MemSat P s) : MemSat P (s.qexec q bound cls f) :=
  .ite h.illegal (h.foldl fun _ _ ht => ht.land)

/-! ## Vector -/

theorem flop {d rs q t g} (h : MemSat P s) : MemSat P (s.flop d rs q t g) := h.vexec

theorem fcmp {k a b n q t} (h : MemSat P s) : MemSat P (s.fcmp k a b n q t) := h.qexec

theorem ilop {d rs q t g} (h : MemSat P s) : MemSat P (s.ilop d rs q t g) := h.vexec

theorem icmp {a b n q t g} (h : MemSat P s) : MemSat P (s.icmp a b n q t g) := h.qexec

theorem mvlsOf {r v} (h : MemSat P s) : MemSat P (s.mvlsOf r v) := .ite h h.land

theorem reduceLanes {d a q t dflt g} (h : MemSat P s) : MemSat P (s.reduceLanes d a q t dflt g) := h.vexec

theorem qlogic {d f} (h : MemSat P s) : MemSat P (s.qlogic d f) := h.foldl fun _ _ ht => ht.land

/-! ## Graph -/

theorem modGraph {k f} (h : MemSat P s) : MemSat P (s.modGraph k f) := h.modPkg

theorem modNode {k n f} (h : MemSat P s) : MemSat P (s.modNode k n f) := h.modGraph

theorem promote {k n} (h : MemSat P s) : MemSat P (s.promote k n) :=
  .ite (.ite h.modNode.post.post h.modNode.post) h

theorem writeCompl {addr dev tag status node} (h : MemSat CanonMem s) :
    MemSat CanonMem (s.writeCompl addr dev tag status node) :=
  .ite h (.ite h.globalWrite h.hostWrite)

theorem pokeLaunches (h : MemSat P s) : MemSat P s.pokeLaunches :=
  h.post.foldl fun _ _ ht => ht.foldl fun _ _ ht1 => ht1.post

theorem settleGraph {k} (h : MemSat CanonMem s) : MemSat CanonMem (s.settleGraph k) := by
  unfold State.settleGraph
  split
  · exact h
  · split
    · exact h
    · exact h.modPkg.writeCompl.pokeLaunches

theorem pokeEnds {k} (h : MemSat P s) : MemSat P (s.pokeEnds k) := by
  unfold State.pokeEnds
  split
  · exact h
  · exact h.foldl fun _ _ ht => .ite ht.post ht

theorem nodeEnds {k n ok st succs armed} (h : MemSat CanonMem s) :
    MemSat CanonMem (s.nodeEnds k n ok st succs armed) := by
  unfold State.nodeEnds
  extract_lets g s1 s2 t s3
  have h2 : MemSat CanonMem s2 := .ite h.modNode h.modNode.modGraph
  have ht : MemSat CanonMem t := .pokeEnds (h2.foldl fun _ _ hu => hu.modNode)
  exact .ite h <| .settleGraph <| .ite (ht.foldl fun _ _ hu => hu.promote) h2.modGraph.pokeEnds

theorem nodeDone {k n ok} (h : MemSat CanonMem s) : MemSat CanonMem (s.nodeDone k n ok) := h.nodeEnds

/-! ## Copy -/

theorem modQueue {c e f} (h : MemSat P s) : MemSat P (s.modQueue c e f) := h.modCell

theorem cmdDone {c e m} (h : MemSat CanonMem s) : MemSat CanonMem (s.cmdDone c e m) := .ite h.modTask h

theorem logDescriptor {c e addr} (h : MemSat P s) : MemSat P (s.logDescriptor c e addr) := h.logCell

theorem tilePlace {c x w len} (h : MemSat P s) : MemSat P (s.tilePlace c x w len).2 := by
  unfold State.tilePlace
  dsimp only
  split
  · exact h.postFault
  · refine .ite_snd h ?_
    split
    · exact h.tableEntry
    · exact .ite_snd h.tableEntry h.tableEntry.postFault

theorem place {c m store host tile w len} (h : MemSat P s) : MemSat P (s.place c m store host tile w len).2 := by
  refine .ite_snd h (.ite_snd ?_ ?_)
  · dsimp only
    split
    · exact .ite_snd h.tilePlace h.tilePlace
    · exact h.tilePlace
  · exact MemSat.ite_snd (p := (_, s)) (q := (_, s)) h h

theorem placeBytes {p n} (h : MemSat P s) : MemSat P (s.placeBytes p n).2 := by
  unfold State.placeBytes
  split
  · exact h
  · exact h.placeRead
  · exact h

theorem placeWrite {p l sup} (h : MemSat CanonMem s) : MemSat CanonMem (s.placeWrite p l sup) := by
  unfold State.placeWrite
  split
  · exact h.hostWrite
  · exact h.placeStore
  · exact h

theorem copyEnds {c m l err} (h : MemSat CanonMem s) : MemSat CanonMem (s.copyEnds c m l err) := by
  unfold State.copyEnds
  dsimp only
  split
  · exact .nodeDone (.cmdDone (.ite h.logDescriptor (.ite h.engineSub h)))
  · exact .cmdDone (.ite h.logDescriptor (.ite h.engineSub h))

theorem suspend {c m l tensor tile} (h : MemSat P s) : MemSat P (s.suspend c m l tensor tile) :=
  h.modDie.postFault.modCell

theorem writeReq {c id a bad l} (h : MemSat P s) : MemSat P (s.writeReq c id a bad l) :=
  .ite h.engineReq h.engineReq

theorem copyAbroad {c m l a bad data} (h : MemSat P s) : MemSat P (s.copyAbroad c m l a bad data) :=
  h.modCell.foldl fun _ _ ht => ht.writeReq.after

theorem pokeCopies {c} (h : MemSat P s) : MemSat P (s.pokeCopies c) := h.foldl fun _ _ ht => ht.post

theorem writeAnswered {c id ok} (h : MemSat CanonMem s) : MemSat CanonMem (s.writeAnswered c id ok) := by
  unfold State.writeAnswered
  split
  · exact h
  · exact .ite h.modCell h.modCell.copyEnds.pokeCopies

theorem runCopy {c m l} (h : MemSat CanonMem s) : MemSat CanonMem (s.runCopy c m l) := by
  unfold State.runCopy
  extract_lets code n src dst b s1 s2
  have hs : MemSat CanonMem src.2 := .ite_snd h h.place
  have hd : MemSat CanonMem dst.2 := hs.place
  have hb : MemSat CanonMem b.2 := .ite_snd hd hd.placeBytes
  refine .ite h.copyEnds ?_
  split
  · exact hs.suspend
  · exact hs.copyEnds
  · split
    · exact hd.suspend
    · exact hd.copyEnds
    · split
      · refine .ite hb.copyAbroad (.copyEnds ?_)
        split
        · exact .ite hb.placeWrite.carryPoison hb.placeWrite
        · exact hb.placeWrite
      · exact .copyEnds hb.placeWrite.withDraws

theorem execCopyComplete_keeps (h : MemSat CanonMem s) : OutSat CanonMem (execCopyComplete s) := by
  unfold execCopyComplete
  refine .next ?_
  dsimp only
  split
  · exact h
  · split <;> exact h.modQueue.runCopy

theorem execFbResp_keeps (h : MemSat CanonMem s) : OutSat CanonMem (execFbResp s) := by
  unfold execFbResp
  refine .next ?_
  dsimp only
  split
  · exact h
  · exact .pokeCopies (.ite h.modCell.copyEnds h.modCell.runCopy)

/-! ## Collective -/

theorem modGroup {c g f} (h : MemSat P s) : MemSat P (s.modGroup c g f) := h.modCell

theorem holdColl {die group e} (h : MemSat P s) : MemSat P (s.holdColl die group e) := h.modDie.after

theorem releaseHeld {die} (h : MemSat P s) : MemSat P (s.releaseHeld die) := h

theorem collOnward {d c m} (h : MemSat P s) : MemSat P (s.collOnward d c m) := by
  unfold State.collOnward
  dsimp only
  split
  · exact .ite h h.post
  · exact h.post

theorem sendColl {dest i m} (h : MemSat P s) : MemSat P (s.sendColl dest i m) := by
  unfold State.sendColl
  split
  · exact .ite h.collOnward h.sendTo
  · exact h.sendTo

theorem memberTimer {c g} (h : MemSat P s) : MemSat P (s.memberTimer c g) := h.after

theorem sendRecords {c g d r} (h : MemSat P s) : MemSat P (s.sendRecords c g d r) :=
  h.foldl fun _ _ ht => ht.sendColl.memberTimer

theorem writeSect {c r k l} (h : MemSat CanonMem s) : MemSat CanonMem (s.writeSect c r k l) := h.engineWrite

theorem sectDone {c g k} (h : MemSat CanonMem s) : MemSat CanonMem (s.sectDone c g k) := by
  unfold State.sectDone
  dsimp only
  split
  · split
    · exact .ite h.modGroup.modGroup.engineSub h.modGroup
    · exact h.modGroup
  · exact h.modGroup

theorem ldredFails {c g err} (h : MemSat CanonMem s) : MemSat CanonMem (s.ldredFails c g err) := by
  unfold State.ldredFails
  split
  · exact h
  · split
    · exact h
    · exact .engineSub (.modGroup (h.foldl fun _ _ ht => .ite ht ht.writeSect))

theorem execLdred_keeps {a b} (h : MemSat CanonMem s) : OutSat CanonMem (execLdred a b s) := by
  unfold execLdred
  refine .next <| .ite h.illegal <| .ite h.block ?_
  split
  · exact h
  · exact .ite h.violate <| .ite h.violate <| .ite h.violate <| .ite h.violate <| .ite h.consume <|
      h.behindReleases fun _ ht => ht.modHere.modGroup.sendRecords

theorem memberIngress {g a f} (h : MemSat P s) (hf : ∀ t, MemSat P t → MemSat P (f t)) :
    MemSat P (s.memberIngress g a f) := by
  unfold State.memberIngress
  dsimp only
  split
  · exact hf _ h
  · exact h
  · exact h.holdColl

theorem sendInput {c g k d r e attempt} (h : MemSat P s) : MemSat P (s.sendInput c g k d r e attempt) :=
  h.modGroup.sendColl.memberTimer

theorem execCollExponentReturn_keeps (h : MemSat CanonMem s) : OutSat CanonMem (execCollExponentReturn s) := by
  unfold execCollExponentReturn
  refine .next ?_
  dsimp only
  split
  · refine h.memberIngress ?_
    intro t ht
    split
    · exact ht
    · exact .ite ht.writeSect.sectDone ht.sendInput
  · refine h.memberIngress ?_
    intro t ht
    split
    · exact ht
    · exact ht.sendInput
  · exact h

theorem execCollResult_keeps (h : MemSat CanonMem s) : OutSat CanonMem (execCollResult s) := by
  unfold execCollResult
  refine .next ?_
  dsimp only
  split
  · refine h.memberIngress ?_
    intro t ht
    split
    · exact ht
    · exact .ite ht.writeSect.sectDone (.ite ht.logError.ldredFails ht.logError.sendColl)
  · exact h

theorem execCollFailureNotice_keeps (h : MemSat CanonMem s) : OutSat CanonMem (execCollFailureNotice s) := by
  unfold execCollFailureNotice
  refine .next ?_
  split
  · exact h.memberIngress fun _ ht => ht.ldredFails
  · exact h

theorem execCollMemberTimeout_keeps (h : MemSat CanonMem s) : OutSat CanonMem (execCollMemberTimeout s) := by
  unfold execCollMemberTimeout
  refine .next ?_
  dsimp only
  split
  · exact h
  · exact .ite h.ldredFails h

theorem putColl {die key q} (h : MemSat P s) : MemSat P (s.putColl die key q) := h.modDie

theorem collFails {die key g q err} (h : MemSat P s) : MemSat P (s.collFails die key g q err) :=
  h.putColl.foldl fun _ _ ht => ht.sendColl

theorem rootIngress {root src g a i f} (h : MemSat P s) (hf : ∀ t a1, MemSat P t → MemSat P (f t a1)) :
    MemSat P (s.rootIngress root src g a i f) := by
  unfold State.rootIngress
  dsimp only
  split
  · exact h
  · exact h.holdColl
  · split
    · exact h.sendColl
    · exact hf _ _ h

theorem rootTimer {die key a k q t} (h : MemSat P s) : MemSat P (s.rootTimer die key a k q t) := h.putColl.after

theorem execCollExpRecord_keeps (h : MemSat P s) : OutSat P (execCollExpRecord s) := by
  unfold execCollExpRecord
  refine .next ?_
  split
  · exact h.rootIngress fun _ _ ht => .ite ht <| .ite ht.collFails <| .ite (.ite ht.rootTimer ht.putColl) <|
      ht.rootTimer.foldl fun _ _ ht1 => ht1.sendColl
  · exact h

theorem logReduction {die g k n r} (h : MemSat P s) : MemSat P (s.logReduction die g k n r) :=
  h.foldl fun _ _ ht => ht.logError.drawn

theorem reduce {die root g a k q t} (h : MemSat P s) : MemSat P (s.reduce die root g a k q t) :=
  .ite h.logReduction.collFails.post (h.logReduction.putColl.foldl fun _ _ ht => ht.sendColl)

theorem collPointFails {die point port kind dest m} (h : MemSat P s) :
    MemSat P (s.collPointFails die point port kind dest m) := by
  unfold State.collPointFails
  extract_lets log
  have hlog : ∀ ck, MemSat P (log ck) := fun _ => .ite h.logError.blame h.logError
  split
  · exact .ite (hlog _).sendColl (hlog _).sendColl
  · exact .ite (hlog _).sendColl (hlog _).sendColl
  · exact h

theorem execChunkHopCheck_keeps (h : MemSat P s) : OutSat P (execChunkHopCheck s) :=
  .next (.ite h.returnOnward (.ite (.ite h.collOnward h.collPointFails) (.ite h.chunkOnward h.failChunk)))

theorem execCollRootChunk_keeps (h : MemSat P s) : OutSat P (execCollRootChunk s) := by
  unfold execCollRootChunk
  refine .next ?_
  dsimp only
  split
  · exact h.rootIngress fun _ _ ht => .ite (.ite ht.logError.collFails ht.logError.sendColl) <| .ite ht <|
      .ite ht.putColl ht.reduce
  · refine h.rootIngress ?_
    intro t _ ht
    split
    · exact ht.sendColl
    · exact ht
  · exact h.rootIngress fun _ _ ht => ht.collFails
  · exact h.rootIngress fun _ _ ht => ht.collFails
  · exact h

theorem execCollRootTimeout_keeps (h : MemSat P s) : OutSat P (execCollRootTimeout s) := by
  unfold execCollRootTimeout
  refine .next ?_
  dsimp only
  split
  · exact h
  · exact .ite h.collFails h

/-! ## Launch -/

theorem acceptGraph {tag prio compl dev nodes} (h : MemSat CanonMem s) :
    MemSat CanonMem (s.acceptGraph tag prio compl dev nodes) :=
  .settleGraph (h.modPkg.foldl fun _ _ ht => ht.promote)

theorem execGraphAccept_keeps (h : MemSat CanonMem s) : OutSat CanonMem (execGraphAccept s) := by
  unfold execGraphAccept
  refine .next ?_
  split
  · exact h
  · dsimp only
    split
    · exact .writeCompl (.ite h.modPkg h.modPkg.post)
    · exact h
    · exact .acceptGraph (.ite h.modPkg h.modPkg.post)

theorem enqFault {c m} (h : MemSat P s) : MemSat P (s.enqFault c m) := h.postFault

theorem enqTake {c m} (h : MemSat CanonMem s) (e : s.enqTake c m = some t) : MemSat CanonMem t := by
  unfold State.enqTake at e
  dsimp only at e
  split at e
  · cases e; exact h.enqFault
  · split at e
    · split at e
      · cases e
      · cases e; exact h.placeRead.placeRead.acceptGraph
      · split at e
        · cases e; exact h.placeRead.placeRead.enqFault
        · cases e; exact h.placeRead.placeRead.writeCompl
    · split at e
      · cases e
      · cases e; exact h.placeRead.acceptGraph
      · cases e; exact h.placeRead.enqFault

/-! ## Engines -/

theorem xcmd {e a b} (h : MemSat P s) : MemSat P (s.xcmd e a b) := by
  unfold State.xcmd
  dsimp only
  split
  · exact h.block
  · exact .ite h.illegal (.ite h.illegal h.modHere.modQueue.modCtx.post)

theorem seqDef {c m} (h : MemSat P s) : MemSat P (s.seqDef c m) := .ite h.logDescriptor h.modCell.seqPoke

theorem seqCommand {c m} (h : MemSat CanonMem s) : MemSat CanonMem (s.seqCommand c m) := by
  unfold State.seqCommand
  dsimp only
  split
  · exact h.seqDef
  · split
    · exact .ite h.modSeq.seqServe.seqPoke h
    · exact h
  · exact h.modSeq.seqServe

theorem grpDef {c m} (h : MemSat CanonMem s) : MemSat CanonMem (s.grpDef c m) :=
  .ite h.ldredFails.modCell.logDescriptor h.ldredFails.modCell

theorem collCommand {c m} (h : MemSat CanonMem s) : MemSat CanonMem (s.collCommand c m) := by
  unfold State.collCommand
  split
  · exact h.grpDef
  · exact h.ldredFails.modGroup.releaseHeld

theorem takePennant {c m} (h : MemSat CanonMem s) : MemSat CanonMem (s.takePennant c m) := h.raiseEvent.modCell

theorem execHpairComplete_keeps (h : MemSat CanonMem s) : OutSat CanonMem (execHpairComplete s) := by
  unfold execHpairComplete
  refine .next ?_
  dsimp only
  split
  · exact h
  · refine .foldl (.cmdDone (.foldl ?_ fun _ _ ht => ht.takePennant)) fun _ _ ht => ht.post
    exact h.modCell.foldl fun _ _ ht => ht.issuePennant

theorem halCommand {c m} (h : MemSat CanonMem s) : MemSat CanonMem (s.halCommand c m) := by
  unfold State.halCommand
  split
  · exact h.foldl fun _ _ ht => .ite ht.sendPennant ht
  · exact h.engineWrite

theorem traceCommand {c m} (h : MemSat CanonMem s) : MemSat CanonMem (s.traceCommand c m) := by
  unfold State.traceCommand
  split
  · exact h.modCell
  · exact .ite (h.foldl fun _ _ ht => ht.traceWriteOne) (.engineAdd (h.foldl fun _ _ ht => ht.traceWriteOne))

theorem execEngineCommandComplete_keeps (h : MemSat CanonMem s) : OutSat CanonMem (execEngineCommandComplete s) := by
  unfold execEngineCommandComplete
  refine .next ?_
  dsimp only
  split
  · exact h
  · split
    · exact .ite h h.modQueue.seqCommand.cmdDone
    · exact h.modQueue.collCommand.cmdDone
    · exact .ite h (.ite h.modQueue.modCell.afterCycles h.modQueue.halCommand.cmdDone)
    · exact h.modQueue.traceCommand.cmdDone
    · refine .ite h ?_
      split
      · next e => exact (h.modQueue.enqTake e).cmdDone
      · exact h
    · exact h

/-! ## Tasks -/

theorem bindInput {c x g i d} (h : MemSat P s) : MemSat P (s.bindInput c x g i d) :=
  .ite h.modTag.modCtxOf (h.modTag.modCtxOf.foldl fun _ _ ht => .ite ht.modCell.nextPennant ht)

theorem recStart {c x g e args slots} (h : MemSat CanonMem s) : MemSat CanonMem (s.recStart c x g e args slots) :=
  .ite h.recAdvance (.ite h.recLog h)

theorem startTask {c x g e disp prio args slots carried node} (h : MemSat P s) :
    MemSat P (s.startTask c x g e disp prio args slots carried node) :=
  h.modCell.modCtxOf.trace

theorem pickCtx {c l} (h : MemSat P s) : MemSat P (s.pickCtx c l).2 := by
  unfold State.pickCtx
  refine .ite_snd h ?_
  split
  · exact h
  · exact h.drawn

theorem startRun {c r} (h : MemSat CanonMem s) : MemSat CanonMem (s.startRun c r) := by
  unfold State.startRun
  dsimp only
  split
  · exact h
  · exact .ite h h.pickCtx.modCell.modCtxOf.recStart.startTask

theorem startArrival {c g e} (h : MemSat CanonMem s) : MemSat CanonMem (s.startArrival c g e) :=
  .ite h (.startTask (h.pickCtx.modCtxOf.recStart.foldl fun _ _ ht => ht.bindInput))

theorem askEvict {c xs} (h : MemSat P s) : MemSat P (s.askEvict c xs) := h.foldl fun _ _ ht => .ite ht ht.post

theorem preemptFor {c prio} (h : MemSat P s) : MemSat P (s.preemptFor c prio) := by
  unfold State.preemptFor
  dsimp only
  split
  · exact h
  · exact .ite h (.ite h.askEvict h.after)

theorem execTaskStartArrival_keeps (h : MemSat CanonMem s) : OutSat CanonMem (execTaskStartArrival s) := by
  unfold execTaskStartArrival
  refine .next <| .ite h <| .ite ?_ ?_
  · split
    · exact h.preemptFor
    · exact h.preemptFor
    · exact h.preemptFor
    · exact h
  · refine .ite h.afterCycles ?_
    dsimp only
    split
    · exact h.startRun.afterCycles
    · exact h.startArrival.afterCycles
    · exact h.post.afterCycles
    · exact h

theorem pokeRuns (h : MemSat P s) : MemSat P s.pokeRuns := h.foldl fun _ _ ht => ht.post

theorem taskDone {node c failed} (h : MemSat CanonMem s) : MemSat CanonMem (s.taskDone node c failed) := by
  unfold State.taskDone
  split
  · exact h
  · exact .ite h.modNode.nodeDone h.modNode

theorem orphanDone {c id} (h : MemSat CanonMem s) : MemSat CanonMem (s.orphanDone c id) := by
  unfold State.orphanDone
  dsimp only
  split
  · exact h.modCell
  · exact .ite h.modCell.nodeDone h.modCell

theorem endSlots {c x} (h : MemSat P s) : MemSat P (s.endSlots c x) :=
  h.foldl fun _ _ ht => .ite ht.freeSlot ht.modTag

theorem dropPower {c x} (h : MemSat P s) : MemSat P (s.dropPower c x) :=
  .ite h.modDie.releaseUnits.post h.modDie.releaseUnits

theorem retire {c x failed} (h : MemSat CanonMem s) : MemSat CanonMem (s.retire c x failed) :=
  .post <| .pokeRuns <| .post <| .taskDone <| .modCell <| .modCtxOf <|
    .ite h.modCell.endSlots.dropPower.trace h.modCell.endSlots.dropPower.trace.postFault

theorem tryRetire {c x} (h : MemSat CanonMem s) : MemSat CanonMem (s.tryRetire c x) :=
  .ite h (.ite h.modCtxOf (.ite h.settle.retire h.settle))

theorem execEndt_keeps (h : MemSat CanonMem s) : OutSat CanonMem (execEndt s) :=
  .next (.ite h.block (.tryRetire (.modHere (.modCtx (h.closeWindow.foldl fun _ _ ht => ht.stopCap)))))

theorem resumeCtx {c x step} (h : MemSat P s) : MemSat P (s.resumeCtx c x step) := h.returnFrom.modCtxOf

theorem freezeFetch {c x} (h : MemSat CanonMem s) : MemSat CanonMem (s.freezeFetch c x) := h.settle.modCell

theorem evict {c x} (h : MemSat CanonMem s) : MemSat CanonMem (s.evict c x) :=
  h.modCell.writeBytes.clearPoison.trace.dropPower.modCtxOf.post.pokeRuns

theorem dropSaved {c v} (h : MemSat P s) : MemSat P (s.dropSaved c v) := h.modCell.modDie.freeFramesOf

theorem execPreemptEvict_keeps (h : MemSat CanonMem s) : OutSat CanonMem (execPreemptEvict s) := by
  refine .next <| .ite h <| .ite h.afterCycles ?_
  extract_lets s1
  have h1 : MemSat CanonMem s1 := .ite h.settle h.freezeFetch
  exact .ite h1.afterCycles h1.evict

theorem execTaskResume_keeps (h : MemSat CanonMem s) : OutSat CanonMem (execTaskResume s) := by
  unfold execTaskResume
  refine .next ?_
  extract_lets c k d
  split
  · exact h
  · extract_lets frames s1 s2 s3 s4 s5 s6 s7 s8
    have h2 : MemSat CanonMem s2 := .freeFramesOf (h.foldl fun _ _ ht => .modMat (.ite ht ht.claimTile))
    have h5 : MemSat CanonMem s5 := h2.modCell.modCtxOf.foldl fun _ _ ht => ht.modMat
    have h7 : MemSat CanonMem s7 := .trace (h5.foldl fun _ _ ht => ht.post)
    have h8 : MemSat CanonMem s8 := by
      dsimp only [s8]
      split
      · exact h7.resumeCtx
      · exact h7
    exact .ite h.askKill <| .ite h8 h8.modDie.post

theorem execPowerGrant_keeps (h : MemSat P s) : OutSat P (execPowerGrant s) := by
  unfold execPowerGrant
  refine .next ?_
  dsimp only
  split
  · exact h
  · exact .ite h (.ite h.modDie.modCtxOf h.modDie.modCtxOf.post)

/-! ## Image -/

theorem readImage {die a} (h : MemSat P s) : MemSat P (s.readImage die a).2 :=
  .ite_snd h.globalRead (.ite_snd h.globalRead h.globalRead.globalRead)

theorem writeText {c l} (h : MemSat CanonMem s) : MemSat CanonMem (s.writeText c l) := h.overwrite.overwrite

theorem writeData {c l} (h : MemSat CanonMem s) : MemSat CanonMem (s.writeData c l) := h.overwrite

theorem writeSections {c l} (h : MemSat CanonMem s) : MemSat CanonMem (s.writeSections c l) :=
  h.writeText.writeData

theorem loadFull {c l} (h : MemSat P s) : MemSat P (s.loadFull c l) := .foldl h fun _ _ ht => ht.setFullRange

theorem loadRules {c l} (h : MemSat P s) : MemSat P (s.loadRules c l) := .ite h.modCell h.modCell.startTableLoad

theorem profInterval {c serial} (h : MemSat P s) : MemSat P (s.profInterval c serial) := h.modCell.trace

theorem startCensus {c} (h : MemSat P s) : MemSat P (s.startCensus c) := h.foldl fun _ _ ht => ht.startTag

theorem addShadows {c} (h : MemSat P s) : MemSat P (s.addShadows c) := .ite h (h.foldl fun _ _ ht => ht.modDie)

theorem endWaits {f seq} (h : MemSat P s) : MemSat P (s.endWaits f seq) := h

theorem dropShadows {c} (h : MemSat P s) : MemSat P (s.dropShadows c) :=
  .ite h (h.foldl fun _ _ ht => ht.modDie.endWaits)

theorem dropRegion {d origin} (h : MemSat P s) : MemSat P (s.dropRegion d origin) := by
  unfold State.dropRegion
  split
  · exact h
  · exact .modDie (.foldl (h.foldl fun _ _ ht => ht.dropShadows) fun _ _ ht => ht.modCell)

theorem writeConfig {d origin prio image l} (h : MemSat CanonMem s) :
    MemSat CanonMem (s.writeConfig d origin prio image l) :=
  .modDie <| h.modDie.foldl fun _ _ ht =>
    ht.profInterval.writeSections.loadFull.modCell.loadRules.startCensus.addShadows

/-! ## Quarantine -/

theorem quarantine {d frame} (h : MemSat P s) : MemSat P (s.quarantine d frame) := .ite h.modDie.post h.modDie

theorem execQuarantineRelease_keeps (h : MemSat P s) : OutSat P (execQuarantineRelease s) := by
  unfold execQuarantineRelease
  refine .next ?_
  dsimp only
  split
  · exact h
  · refine .ite h.afterCycles ?_
    split
    · exact h.modDie
    · exact h.modDie.modDie.quarantine

/-! ## Dispatcher -/

theorem nodeStarts {k n} (h : MemSat P s) : MemSat P (s.nodeStarts k n) := h.modNode

theorem bindRegion {k n d origin} (h : MemSat P s) : MemSat P (s.bindRegion k n d origin) := by
  unfold State.bindRegion
  split
  · exact h
  · exact h.modNode.foldl fun _ _ ht => ht.modCell.post

theorem execRunNodeBind_keeps (h : MemSat CanonMem s) : OutSat CanonMem (execRunNodeBind s) := by
  unfold execRunNodeBind
  refine .next <| .ite h <| .ite h.post.post ?_
  dsimp only
  split
  · exact h.modPkg.nodeStarts.nodeDone
  · exact h.modPkg.nodeStarts.bindRegion
  · split
    · exact h.modPkg
    · exact .bindRegion (.nodeStarts (h.modPkg.foldl fun _ _ ht => .ite ht ht.preemptFor))
  · split
    · exact h.modPkg
    · exact .post (.modDie (h.modPkg.nodeStarts.foldl fun _ _ ht => ht.askEvict))
  · exact h.modPkg.nodeStarts.modDie.post
  · exact h.modPkg.after

theorem claimPages {d c pages} (h : MemSat CanonMem s) : MemSat CanonMem (s.claimPages d c pages) :=
  h.foldl fun _ _ ht => .modDie (ht.takeFrames.foldl fun _ _ ht1 => ht1.spillBytes.carryPoison)

theorem shelve {d r} (h : MemSat P s) : MemSat P (s.shelve d r) :=
  .modDie (h.foldl fun _ _ ht => ht.modDie.modCell)

theorem clearFor {d origin w g pages} (h : MemSat CanonMem s) : MemSat CanonMem (s.clearFor d origin w g pages) :=
  .foldl (h.foldl fun _ _ ht => .ite ht.shelve ht.dropRegion) fun _ _ ht => ht.claimPages

theorem bringCell {d g l} (h : MemSat CanonMem s) : MemSat CanonMem (s.bringCell d g l) := by
  unfold State.bringCell
  extract_lets c s1 s2 s3 s4 s5 frames bad s6
  have h2 : MemSat CanonMem s2 := h.writeText.foldl fun _ _ ht => ht.globalRead.overwrite
  have h4 : MemSat CanonMem s4 := h2.putFull.profInterval.foldl fun _ _ ht => .ite ht ht.claimWeights
  have h6 : MemSat CanonMem s6 := h4.modCell.freeFramesOf
  exact .ite h6.askKill h6.post

theorem bringBack {d ld l} (h : MemSat CanonMem s) : MemSat CanonMem (s.bringBack d ld l) :=
  .modDie (h.modDie.clearFor.foldl fun _ _ ht => ht.bringCell)

theorem pokeShelf {d} (h : MemSat P s) : MemSat P (s.pokeShelf d) := by
  unfold State.pokeShelf
  split
  · exact h
  · exact h.modDie.post

theorem execConfigLoad_keeps (h : MemSat CanonMem s) : OutSat CanonMem (execConfigLoad s) := by
  unfold execConfigLoad
  refine .next ?_
  dsimp only
  split
  · exact h
  · refine .ite h.afterCycles ?_
    split
    · exact h.modDie.readImage.bringBack
    · exact h.modDie.readImage
    · exact h.modDie.readImage.clearFor.nodeDone
    · exact .ite h.modDie.readImage.clearFor.nodeDone h.modDie.readImage.clearFor.writeConfig.bindRegion

theorem execConfigDrop_keeps (h : MemSat P s) : OutSat P (execConfigDrop s) := by
  unfold execConfigDrop
  refine .next <| .pokeShelf <| .pokeRuns ?_
  split
  · exact .ite h.dropRegion h
  · exact h

theorem execCopyNodeStart_keeps (h : MemSat P s) : OutSat P (execCopyNodeStart s) := by
  refine .next ?_
  extract_lets k n g s1 l c code m
  have h1 : MemSat P s1 := .ite h.nodeStarts h
  exact .ite h1 <| .ite h1.afterCycles h1.modCell.modQueue.post

theorem waitOutcome {l} (h : MemSat P s) : MemSat P (s.waitOutcome l).2 :=
  .ite_snd h (.ite_snd h.globalRead h.globalRead)

theorem execWaitNode_keeps (h : MemSat CanonMem s) : OutSat CanonMem (execWaitNode s) := by
  refine .next ?_
  extract_lets k n g t s1 r
  have h1 : MemSat CanonMem s1 := .ite (.ite h.nodeStarts h.nodeStarts.after) h
  refine .ite h1 ?_
  split
  · exact h1.waitOutcome.nodeDone
  · exact h1.waitOutcome.afterCycles

theorem condEnds {k n w} (h : MemSat CanonMem s) : MemSat CanonMem (s.condEnds k n w) :=
  .ite h.nodeEnds (.nodeEnds (.ite (h.foldl fun _ _ ht => ht.modNode) h))

theorem execCondNode_keeps (h : MemSat CanonMem s) : OutSat CanonMem (execCondNode s) :=
  .next <| .ite (.ite h (.ite h.afterCycles h.condEnds)) <| .ite h <| .ite h.nodeStarts.nodeEnds <|
    .ite h.nodeStarts.placeRead.condEnds <|
    .ite h.nodeStarts.placeRead.writeN.condEnds h.nodeStarts.placeRead.awaitedWrite.afterCycles

theorem execEndNode_keeps (h : MemSat CanonMem s) : OutSat CanonMem (execEndNode s) := by
  unfold execEndNode
  refine .next ?_
  dsimp only
  split
  · exact h
  · exact .ite (.ite h.nodeStarts h) (.settleGraph (.pokeEnds (.modGraph (.modNode (.ite h.nodeStarts h)))))

/-! ## Rings -/

theorem modRing {n f} (h : MemSat P s) : MemSat P (s.modRing n f) := h.modPkg

theorem signalMsix {v} (h : MemSat P s) : MemSat P (s.signalMsix v) := .ite h.modPkg h.hostWrite

theorem unmask {v} (h : MemSat P s) : MemSat P (s.unmask v) := .ite h.modPkg.signalMsix h.modPkg

theorem ringIrq {n} (h : MemSat P s) : MemSat P (s.ringIrq n) := .ite h.signalMsix.modRing h

theorem ringWatch {n} (h : MemSat P s) : MemSat P (s.ringWatch n) := .ite h.ringIrq h.ringIrq

theorem ringPost {n l} (h : MemSat P s) : MemSat P (s.ringPost n l) := by
  unfold State.ringPost
  extract_lets r s1 s2 s3 s4
  have h3 : MemSat P s3 := .ite h.hostWrite.modRing h.hostWrite.modRing.hostWrite
  exact .ringIrq (.ite h3.after h3)

theorem ringDrain {n f} (h : MemSat CanonMem s) : MemSat CanonMem (s.ringDrain n f) := by
  induction f generalizing s with
  | zero => exact h
  | succ f ih =>
    unfold State.ringDrain
    dsimp only
    split
    · exact h
    · refine .ite h (ih ?_)
      split
      · exact h.ringPost.modRing.nodeDone
      · exact h.ringPost.modRing

theorem ringPut {n w} (h : MemSat CanonMem s) : MemSat CanonMem (s.ringPut n w) := h.modRing.ringDrain

theorem ringDisable {n} (h : MemSat CanonMem s) : MemSat CanonMem (s.ringDisable n) := by
  refine .foldl h.modRing fun t x ht => ?_
  split
  · exact ht.nodeDone
  · exact ht

theorem stagingWrite {o l} (h : MemSat CanonMem s) : MemSat CanonMem (s.stagingWrite o l) := by
  induction l generalizing s o with
  | nil => exact h
  | cons b t ih => exact ih h.noteTable.setByte

/-! ## Traps -/

theorem abftTrap {c x} (h : MemSat P s) : MemSat P (s.abftTrap c x) :=
  .askKill (.ite h.logCell.modDie.modDie h.logCell.modDie)

theorem pokeEngines {d} (h : MemSat P s) : MemSat P (s.pokeEngines d) :=
  h.foldl fun _ _ ht => ht.pokeCopies.foldl fun _ _ ht1 => ht1.foldl fun _ _ ht2 => ht2.post

theorem dcpDone {d err} (h : MemSat P s) : MemSat P (s.dcpDone d err) := h.modDie

theorem modSaved {c x f} (h : MemSat CanonMem s) : MemSat CanonMem (s.modSaved c x f) := by
  unfold State.modSaved
  split
  · exact h
  · exact h.modAway

theorem dcpResume {d c x step} (h : MemSat CanonMem s) : MemSat CanonMem (s.dcpResume d c x step) := by
  unfold State.dcpResume
  refine .ite h.dcpDone <| .ite h.resumeCtx.dcpDone ?_
  split
  · exact .ite h.modSaved.dcpDone h.dcpDone
  · exact h.dcpDone

theorem killTask {c x} (h : MemSat CanonMem s) : MemSat CanonMem (s.killTask c x) :=
  .retire (.modCtxOf (.modCell (.settle (h.foldl fun _ _ ht => ht.modMat))))

theorem execDcpKill_keeps (h : MemSat CanonMem s) : OutSat CanonMem (execDcpKill s) := by
  unfold execDcpKill
  refine .next <| .ite h.dcpDone <| .ite (.ite h.killTask.dcpDone h.dcpDone.askKill) ?_
  split
  · exact h.dcpDone
  · exact .ite h.dcpDone (.ite h.dcpDone.askKillOf h.settleAway.modCell.dropSaved.taskDone.pokeRuns.dcpDone)

theorem execDcpPost_keeps (h : MemSat CanonMem s) : OutSat CanonMem (execDcpPost s) := by
  unfold execDcpPost
  refine .next ?_
  dsimp only
  split
  · exact .ite h.dcpDone h.modSaved.dcpDone
  · exact .ite h.dcpDone h.modCtxOf.dcpDone

/-! ## Remote -/

theorem respond {r a} (h : MemSat P s) : MemSat P (s.respond r a) := .ite h (.ite h.post h.post)

/-- The operations a remote request may name, in the order of the model. -/
theorem perform {o r} (h : MemSat CanonMem s) : MemSat CanonMem (s.perform o r).1 := by
  unfold State.perform
  dsimp only
  split
  · exact h
  · exact .ite_fst h.windowStore h.storeBytes
  · exact h
  · exact .ite_fst (h.foldl fun _ _ ht => ht.windowStore) h.storeBytes
  · exact h.storeBytes
  · exact .ite h.storeBytes.setFull h.storeBytes.setFull.observe
  · exact h.updateBarrier
  · exact h.updateBarrier
  · exact h.engineAdd
  · exact h.updateBarrier
  · exact h.subtract
  · exact h.placeStore
  · exact h.placeStore.foldl fun _ _ ht => .ite ht ht

theorem settleFor {o r} (h : MemSat CanonMem s) : MemSat CanonMem (s.settleFor o r) :=
  .ite h (.ite h.settle (.ite h.settle h))

theorem serve {r} (h : MemSat CanonMem s) : MemSat CanonMem (s.serve r) := by
  unfold State.serve
  split
  · exact h.respond
  · refine .ite h.settleFor.respond <| .ite h.settleFor.respond ?_
    split
    · exact h.settleFor.respond
    · exact .ite h.settleFor.respond h.settleFor.perform.respond

theorem performNow {r} (h : MemSat CanonMem s) : MemSat CanonMem (s.performNow r) := .serve h

theorem readSlot {lo n} (h : MemSat CanonMem s) : MemSat CanonMem (s.readSlot lo n) :=
  .modCell <| .foldl (h.foldl fun _ _ ht => ht.settleSeq) fun _ _ ht => .performNow <| ht.foldl fun _ _ ht1 =>
    ht1.performNow

theorem answerAwait {c x id a} (h : MemSat CanonMem s) : MemSat CanonMem (s.answerAwait c x id a) :=
  h.modBank.post

theorem engineAnswered {c id ok} (h : MemSat CanonMem s) : MemSat CanonMem (s.engineAnswered c id ok) :=
  h.modPkg.writeAnswered.orphanDone

theorem execRemoteResponse_keeps (h : MemSat CanonMem s) : OutSat CanonMem (execRemoteResponse s) := by
  unfold execRemoteResponse
  refine .next ?_
  dsimp only
  split
  · exact h.engineAnswered
  · exact .ite h (.ite h.walkEntry h.answerAwait)

theorem execFarAccessTimeout_keeps (h : MemSat CanonMem s) : OutSat CanonMem (execFarAccessTimeout s) := by
  unfold execFarAccessTimeout
  refine .next ?_
  dsimp only
  split
  · exact h.engineAnswered
  · exact .ite h h.answerAwait

theorem settleWaiting {c x} (h : MemSat CanonMem s) : MemSat CanonMem (s.settleWaiting c x) :=
  .ite h (h.settle.foldl fun _ _ ht => ht.settleAway)

theorem execInterlockReturn_keeps (h : MemSat CanonMem s) : OutSat CanonMem (execInterlockReturn s) := by
  unfold execInterlockReturn
  refine .next ?_
  dsimp only
  split
  · exact h.settleSeq
  · split
    · exact h.settleSeq
    · exact .ite h.settleSeq.modBank.settleWaiting.recLog h.settleSeq.modBank.settleWaiting

/-! ## Links -/

theorem modLink {p f} (h : MemSat P s) : MemSat P (s.modLink p f) := h.modPkg

theorem pump {p n} (h : MemSat P s) : MemSat P (s.pump p n) := by
  induction n generalizing s with
  | zero => exact h
  | succ n ih =>
    unfold State.pump
    dsimp only
    split
    · exact h
    · exact ih h.modLink

theorem pumpAll {p} (h : MemSat P s) : MemSat P (s.pumpAll p) := h.pump

theorem retrain {p} (h : MemSat P s) : MemSat P (s.retrain p) := h.modLink.after

theorem linkFails {p} (h : MemSat P s) : MemSat P (s.linkFails p) := h.modLink.modPkg

theorem execRetrainAttemptEnd_keeps (h : MemSat P s) : OutSat P (execRetrainAttemptEnd s) :=
  .next (.ite h (.ite (.ite h.modLink h.modLink.pumpAll.after.after) (.ite h.modLink.after h.linkFails)))

theorem dropFail (h : MemSat P s) : MemSat P s.dropFail := h.modPkg

theorem launchPacket {pk} (h : MemSat P s) : MemSat P (s.launchPacket pk) :=
  .ite h.dropFail (.ite (.ite h.post (.ite h.post h.drawn.post)) h.post)

theorem bodyFails {die point port kind pk} (h : MemSat P s) : MemSat P (s.bodyFails die point port kind pk) := by
  unfold State.bodyFails
  split
  · exact h.failChunk
  · exact h.collPointFails
  · exact h

theorem crossTo {die pk} (h : MemSat P s) : MemSat P (s.crossTo die pk).2 := by
  unfold State.crossTo
  split
  · exact h
  · dsimp only
    split
    · exact h
    · exact .ite_snd h (.ite_snd h h.bodyFails)

theorem enqueueAt {port pk} (h : MemSat P s) : MemSat P (s.enqueueAt port pk) :=
  .ite h.dropFail h.modLink.pumpAll

theorem execPacketForward_keeps (h : MemSat P s) : OutSat P (execPacketForward s) := by
  unfold execPacketForward
  refine .next ?_
  dsimp only
  split
  · exact h.modPkg
  · refine .ite h.post (.ite h.dropFail ?_)
    split
    · next e => exact (h.crossTo.of_snd e).enqueueAt
    · next e => exact h.crossTo.of_snd e

theorem ingressCheck {p pk} (h : MemSat P s) : MemSat P (s.ingressCheck p pk) := by
  unfold State.ingressCheck
  dsimp only
  split
  · exact h.post
  · exact .ite h.post h.bodyFails

theorem bootIn {src l direct} (h : MemSat P s) : MemSat P (s.bootIn src l direct) := by
  unfold State.bootIn
  split
  · exact h.post
  · exact h

theorem packetIn {p pk} (h : MemSat P s) : MemSat P (s.packetIn p pk) := by
  unfold State.packetIn
  refine .ite h.modPkg <| .ite ?_ h.ingressCheck
  split
  · exact .bootIn (.ite h.modPkg h)
  · exact h

theorem stamped {p t1 t2 t3 stratum} (h : MemSat P s) : MemSat P (s.stamped p t1 t2 t3 stratum) :=
  h.modLink.post

theorem linkCtrl {p m} (h : MemSat P s) : MemSat P (s.linkCtrl p m) := by
  unfold State.linkCtrl
  split
  · exact h.modLink.pumpAll
  · exact h.post
  · exact h.modLink
  · exact h.modLink.pumpAll
  · exact h.modLink
  · exact h.stamped

theorem acceptFlit {p f} (h : MemSat P s) : MemSat P (s.acceptFlit p f) := h.modLink

theorem execFlitReceive_keeps (h : MemSat P s) : OutSat P (execFlitReceive s) := by
  unfold execFlitReceive
  refine .next <| .ite h <| .ite h.modLink.after.modLink ?_
  split
  · exact h.modLink.after.linkCtrl
  · refine .ite h.modLink.after.modLink ?_
    split
    · exact h.modLink.after.acceptFlit
    · exact .ite h.modLink.after.acceptFlit.packetIn h.modLink.after.modLink.modLink

theorem modPeer {dst ch f} (h : MemSat P s) : MemSat P (s.modPeer dst ch f) := h.modPkg

theorem number {pk} (h : MemSat P s) : MemSat P (s.number pk) := h.modPeer.modPkg.after.launchPacket

theorem settleBody {b} (h : MemSat CanonMem s) : MemSat CanonMem (s.settleBody b) := by
  unfold State.settleBody
  split
  · exact .elim h fun _ => h.settleFor
  · exact h

theorem execPacketInject_keeps (h : MemSat CanonMem s) : OutSat CanonMem (execPacketInject s) :=
  .next (.ite h.launchPacket (.ite h.afterCycles (.ite h.settleBody.modPkg h.settleBody.number)))

theorem refill {n} (h : MemSat P s) : MemSat P (s.refill n) := by
  induction n generalizing s with
  | zero => exact h
  | succ n ih =>
    unfold State.refill
    split
    · exact h
    · exact .ite (ih h.modPkg.number) h

theorem deliverBody {pk} (h : MemSat P s) : MemSat P (s.deliverBody pk) := by
  unfold State.deliverBody
  dsimp only
  split
  · refine .ite ?_ h.chunkOnward
    split
    · next e => exact .elim (h.crossTo.of_snd e) fun _ => (h.crossTo.of_snd e).chunkOnward
    · next e => exact h.crossTo.of_snd e
  · exact h.post
  · exact .ite h h.post
  · exact h.returnOnward
  · exact .ite h h.post
  · exact .ite h h.post
  · exact h
  · exact h.bootIn
  · exact .ite h h.post
  · split
    · exact .ite h h.post
    · exact .ite h h.post
    · exact h.collOnward
    · exact h.collOnward
    · exact .ite h h.post
    · exact .ite h h.post
    · exact .ite h h.post
    · exact .ite h h.post
    · exact .ite h h.post

theorem deliverEarly {src ch n} (h : MemSat P s) : MemSat P (s.deliverEarly src ch n) := by
  induction n generalizing s with
  | zero => exact h
  | succ n ih =>
    unfold State.deliverEarly
    dsimp only
    split
    · exact h
    · exact ih h.modPeer.deliverBody

theorem acknowledge {src ch} (h : MemSat P s) : MemSat P (s.acknowledge src ch) := h.post

theorem skipTo {src ch n} (h : MemSat P s) : MemSat P (s.skipTo src ch n) :=
  .ite h (.acknowledge (.deliverEarly (.foldl h.modPeer fun _ _ ht => ht.deliverBody)))

theorem execE2eDeliver_keeps (h : MemSat P s) : OutSat P (execE2eDeliver s) := by
  refine .next ?_
  extract_lets pk s1 _ s2 e d
  have h2 : MemSat P s2 := h.modPeer.post
  exact .ite h2.skipTo <| .ite h2.acknowledge <| .ite h2 <|
    .ite h2.modPeer.deliverBody.deliverEarly.acknowledge <| .ite h2 h2.modPeer.acknowledge

theorem endAbandoned {c stream port tag seq lost} (h : MemSat P s) :
    MemSat P (s.endAbandoned c stream port tag seq lost) := by
  unfold State.endAbandoned
  dsimp only
  split
  · exact .ite (.ite h h.modPort.logCell) h.channelError
  · exact .ite (.ite h h.modTag.logCell) h.logCell.askKill
  · exact h

theorem collAbandoned {root member g a} (h : MemSat P s) : MemSat P (s.collAbandoned root member g a) :=
  h.sendColl

theorem abandon {x} (h : MemSat CanonMem s) : MemSat CanonMem (s.abandon x) := by
  unfold State.abandon
  dsimp only
  split
  · split
    · exact .ite h.acknowledge (.ite h.acknowledge.walkEntry h.acknowledge.answerAwait)
    · exact h.acknowledge.engineAnswered
  · refine .ite ?_ h.acknowledge.endAbandoned
    split
    · exact h.acknowledge.endAbandoned
    · exact h.acknowledge
  · split
    · exact h.acknowledge.endAbandoned
    · exact h.acknowledge
  · split
    · exact h.acknowledge.endAbandoned
    · exact h.acknowledge
  · split
    · exact h.acknowledge.endAbandoned
    · exact h.acknowledge
  · exact .elim h.acknowledge fun _ => h.acknowledge.endAbandoned
  · split
    · exact h.acknowledge.collAbandoned
    · exact h.acknowledge.collAbandoned
    · exact h.acknowledge.collAbandoned
    · exact h.acknowledge.ldredFails
    · exact h.acknowledge.ldredFails
    · exact h.acknowledge.ldredFails
    · exact h.acknowledge.ldredFails
    · exact h.acknowledge
  · exact h.acknowledge

theorem execE2eResendTimeout_keeps (h : MemSat CanonMem s) : OutSat CanonMem (execE2eResendTimeout s) := by
  unfold execE2eResendTimeout
  refine .next ?_
  dsimp only
  split
  · exact h
  · exact .ite h.modPkg.abandon.refill h.modPkg.after.launchPacket

/-! ## Boot -/

theorem modBoot {f} (h : MemSat P s) : MemSat P (s.modBoot f) := h.modPkg

theorem sendBoot {dst l direct} (h : MemSat P s) : MemSat P (s.sendBoot dst l direct) := h.post

theorem passDown {l direct} (h : MemSat P s) : MemSat P (s.passDown l direct) :=
  .ite h (h.foldl fun _ _ ht => .ite ht.sendBoot (.ite (.ite ht.sendBoot ht) (.ite ht ht.sendBoot)))

theorem toServer {src l} (h : MemSat P s) : MemSat P (s.toServer src l) := .ite h.enqueueAt h

theorem bootReply {type} (h : MemSat P s) : MemSat P (s.bootReply type) := .ite h.bootIn h.sendBoot

theorem injTake {v} (h : MemSat P s) : MemSat P (s.injTake v) :=
  .ite (.sendBoot (.ite h.modBoot h)) (.bootIn (.ite h.modBoot h))

theorem execBootInj_keeps (h : MemSat P s) : OutSat P (execBootInj s) := by
  unfold execBootInj
  refine .next <| .ite ?_ (.ite h.modBoot h.modBoot.post)
  split
  · exact h
  · exact h.modBoot.injTake

theorem announced {m ok} (h : MemSat P s) : MemSat P (s.announced m ok) := h.modBoot.bootReply

theorem execBootAnnounce_keeps (h : MemSat P s) : OutSat P (execBootAnnounce s) := by
  refine .next <| .ite h ?_
  extract_lets s1 s2 pay clash s3
  have h2 : MemSat P s2 := .ite h.passDown.modBoot h.passDown
  refine .ite h2.modBoot ?_
  split
  · exact h2.modBoot
  · exact .ite h2.modBoot.announced h2.modBoot.modBoot

theorem bootWrite {l e} (h : MemSat CanonMem s) : MemSat CanonMem (s.bootWrite l e) := by
  unfold State.bootWrite
  refine .ite ?_ h.engineWrite.modBoot
  split
  · refine .ite h.engineWrite.modBoot ?_
    dsimp only
    split
    · exact h.engineWrite.modBoot.engineWrite
    · exact h.engineWrite.modBoot
  · exact h.engineWrite.modBoot

theorem execBootData_keeps (h : MemSat CanonMem s) : OutSat CanonMem (execBootData s) :=
  .next (.ite h (.ite h.passDown (.ite (h.passDown.modBoot.foldl fun _ _ ht => ht.bootWrite) h.passDown)))

theorem execBootVerify_keeps (h : MemSat P s) : OutSat P (execBootVerify s) :=
  .next (.ite h (.ite h.passDown (.ite h.passDown.modBoot.bootReply h.passDown.modBoot.bootReply.bootReply)))

theorem writeEntry {a e} (h : MemSat CanonMem s) : MemSat CanonMem (s.writeEntry a e) :=
  .ite h (.ite h.globalWrite h.awaitedWrite.modBoot)

theorem writeTables (h : MemSat CanonMem s) : MemSat CanonMem s.writeTables := by
  refine .foldl h fun t i ht => ?_
  dsimp only
  split
  · exact ht
  · refine .foldl ht fun t i ht => ?_
    split
    · exact ht.writeEntry
    · exact ht

theorem bootFence (h : MemSat P s) : MemSat P s.bootFence := h.foldl fun _ _ ht => ht.dropTensor

theorem bootDone (h : MemSat P s) : MemSat P s.bootDone := .ite h.afterCycles h.bootFence.modBoot

theorem execBootCommit_keeps (h : MemSat CanonMem s) : OutSat CanonMem (execBootCommit s) :=
  .next (.ite (.ite h.bootDone h) (.ite h (.ite h (.ite h.passDown.writeTables.bootDone h.passDown))))

theorem sendAgain {q l} (h : MemSat P s) : MemSat P (s.sendAgain q l) :=
  .ite h.modBoot (h.modBoot.foldl fun _ _ ht => .ite ht.bootIn ht.sendBoot)

theorem execBootReply_keeps (h : MemSat CanonMem s) : OutSat CanonMem (execBootReply s) := by
  refine .next <| .ite h <| .ite h ?_
  extract_lets p good s1 r s2 s3
  have h1 : MemSat CanonMem s1 := .ite h h.modBoot
  have h2 : MemSat CanonMem s2 := .ite (h1.foldl fun _ _ ht => ht.ringPut) h1
  exact .ite h2 <| .ite h2.toServer.sendAgain h2.toServer

/-! ## Platform -/

theorem modTime {f} (h : MemSat P s) : MemSat P (s.modTime f) := h.modPkg

theorem stepTime {u} (h : MemSat P s) : MemSat P (s.stepTime u) := .modTime h

theorem measured {source port stratum offset} (h : MemSat P s) : MemSat P (s.measured source port stratum offset) :=
  .modTime (.ite h.stepTime h)

theorem sendStamp (h : MemSat P s) : MemSat P s.sendStamp := .ite h h.modLink.after

theorem holdSecond (h : MemSat P s) : MemSat P s.holdSecond := h.drawn.modTime.after

theorem keyDone {refused} (h : MemSat P s) : MemSat P (s.keyDone refused) := h.modPkg

theorem execKeyLoad_keeps (h : MemSat P s) : OutSat P (execKeyLoad s) := by
  unfold execKeyLoad
  refine .next ?_
  dsimp only
  split
  · exact .ite h.keyDone h.modPkg.keyDone
  · exact h.keyDone

/-! ## Reliability -/

theorem restartTask {c x again} (h : MemSat CanonMem s) : MemSat CanonMem (s.restartTask c x again) := by
  unfold State.restartTask
  split
  · exact h
  · exact .ite h.taskDone h.modNode.modCell

theorem endTasks {c} (h : MemSat CanonMem s) : MemSat CanonMem (s.endTasks c) :=
  .foldl (.modCell (.foldl (h.foldl fun _ _ ht => ht.settle) fun _ _ ht => ht.settleAway)) fun _ _ ht =>
    ht.dropSaved

theorem reloadCell {away c origin pos serial l tasks} (h : MemSat CanonMem s) :
    MemSat CanonMem (s.reloadCell away c origin pos serial l tasks) := by
  unfold State.reloadCell
  extract_lets was s1 s2 s3 tags ports hal s4 s5 s6 s7
  have h3 : MemSat CanonMem s3 := .loadFull (.writeData (.ite h.endTasks h.endTasks.profInterval.writeText))
  have h5 : MemSat CanonMem s5 := .ite h3.modCell h3.modCell.loadRules
  have h6 : MemSat CanonMem s6 := h5.foldl fun _ _ ht => ht.pokeResend
  have h7 : MemSat CanonMem s7 := h6.foldl fun _ _ ht => .ite ht (ht.foldl fun _ _ hu => hu.refuseFor)
  exact .ite (h7.foldl fun _ _ ht => ht.issuePennant) h7

theorem dropAllPower {c} (h : MemSat P s) : MemSat P (s.dropAllPower c) := h.foldl fun _ _ ht => ht.dropPower

theorem killGone {d r ends} (h : MemSat CanonMem s)
    (hends : ∀ t x y, MemSat CanonMem t → MemSat CanonMem (ends t x y)) : MemSat CanonMem (s.killGone d r ends) :=
  .dropRegion (h.foldl fun _ _ ht => ht.dropAllPower.endTasks.modCell.foldl fun _ _ ht1 => hends _ _ _ ht1)

theorem killDead {d r} (h : MemSat CanonMem s) : MemSat CanonMem (s.killDead d r) :=
  h.killGone fun _ _ _ ht => ht.taskDone

theorem killElsewhere {d r} (h : MemSat CanonMem s) : MemSat CanonMem (s.killElsewhere d r) :=
  .pokeRuns (h.killGone fun _ _ _ ht => .ite ht.taskDone ht.modNode)

theorem loseShelf {d} (h : MemSat CanonMem s) : MemSat CanonMem (s.loseShelf d) :=
  h.modDie.foldl fun _ _ ht => ht.foldl fun _ _ ht1 => ht1.taskDone

/-- `on` says how a change of one cell is applied: directly, or with the cell taken from its shelf. -/
theorem killCells {d origin l away tasks on} (h : MemSat CanonMem s)
    (hon : ∀ c f t, (∀ u, MemSat CanonMem u → MemSat CanonMem (f u)) → MemSat CanonMem t → MemSat CanonMem (on c f t)) :
    MemSat CanonMem (s.killCells d origin l away tasks on) := by
  refine .pokeRuns (.foldl (.foldl (.foldl h.modDie fun t p ht => ?_) fun t e ht => ?_) fun t e ht => ht.post)
  · exact hon _ _ _ (fun u hu => hu.reloadCell) ht
  · exact hon _ _ _ (fun u hu => hu.foldl fun _ _ ht => ht.restartTask) ht

theorem killRegion {d r} (h : MemSat CanonMem s) : MemSat CanonMem (s.killRegion d r) := by
  refine .ite h.killElsewhere ?_
  have hs : MemSat CanonMem ((regionCells d r.origin r.w r.h).foldl (fun t c => t.dropAllPower c) s) :=
    h.foldl fun _ _ ht => ht.dropAllPower
  split
  · exact hs.readImage.killDead
  · exact hs.readImage.killCells fun _ _ _ hf ht => hf _ ht

theorem killShelf {d k} (h : MemSat CanonMem s) : MemSat CanonMem (s.killShelf d k) := by
  unfold State.killShelf
  dsimp only
  split
  · exact h.readImage
  · refine h.readImage.killCells fun c f t hf ht => ?_
    split
    · exact ht.onShelf hf
    · exact ht

theorem escalate {d cells} (h : MemSat P s) : MemSat P (s.escalate d cells) := .ite h.post h.modDie

theorem countKill {d origin trigger id cells} (h : MemSat P s) : MemSat P (s.countKill d origin trigger id cells) :=
  .ite h.modDie.logCell h.modDie.logCell.escalate

theorem discardStage {cells} (h : MemSat P s) : MemSat P (s.discardStage cells) := .endWaits h

theorem execRegionKill_keeps (h : MemSat CanonMem s) : OutSat CanonMem (execRegionKill s) := by
  unfold execRegionKill
  refine .next ?_
  dsimp only
  split
  · exact h.countKill.killShelf
  · exact h
  · exact .ite h <| .ite (.ite h.discardStage h) <| .ite (.post (h.countKill.foldl fun _ _ ht => ht.modCell)) <|
      .ite h.afterCycles h.killRegion

theorem fenceColls {m} (h : MemSat CanonMem s) : MemSat CanonMem (s.fenceColls m) :=
  h.foldl fun _ _ ht => .ite ht (ht.foldl fun _ _ ht1 => .ite ht1.ldredFails ht1)

theorem fenceStreams {m} (h : MemSat P s) : MemSat P (s.fenceStreams m) :=
  h.foldl fun _ _ ht => .ite ht (ht.foldl fun _ _ ht1 => .ite ht1.modPort.logCell ht1)

theorem execDieFence_keeps (h : MemSat CanonMem s) : OutSat CanonMem (execDieFence s) := by
  refine .next <| .ite h ?_
  extract_lets new m cause s1 s2 _ s3 s4 own s5 s6
  have h1 : MemSat CanonMem s1 := .modPkg (.ite h h.drawn)
  have h3 : MemSat CanonMem s3 := h1.logError.foldl fun _ _ ht => .ite ht.post ht
  have h5 : MemSat CanonMem s5 := h3.modPkg.foldl fun _ _ ht => ht.killDead
  have h6 : MemSat CanonMem s6 := h5.foldl fun _ _ ht => .ite ht.loseShelf ht
  exact h6.fenceColls.fenceStreams.pokeRuns

theorem resetPort {c p} (h : MemSat CanonMem s) : MemSat CanonMem (s.resetPort c p) :=
  .foldl (.modPort (h.foldl fun _ _ ht => ht.writeBytes)) fun _ _ ht => ht.resend

theorem resetTag {c t} (h : MemSat P s) : MemSat P (s.resetTag c t) := by
  unfold State.resetTag
  extract_lets g d live isBound s1 s2 s3
  have h3 : MemSat P s3 := .ite h.modTag.startTag.modCell h.modTag.startTag
  exact .ite h3.askKill h3

theorem execStreamReset_keeps (h : MemSat CanonMem s) : OutSat CanonMem (execStreamReset s) :=
  .next <| .modDie <| .foldl (h.foldl fun _ _ ht => ht.atPort fun _ _ ht1 => ht1.resetPort) fun _ _ ht =>
    ht.atTag fun _ _ ht1 => ht1.resetTag

theorem describe {f} (h : MemSat P s) : MemSat P (s.describe f) := h.modPkg

theorem migrated (h : MemSat P s) : MemSat P s.migrated := .ite h h.logError

theorem putMap {d row f} (h : MemSat P s) : MemSat P (s.putMap d row f) := h.foldl fun _ _ ht => ht.modDie

theorem engineError {c n buffer v} (h : MemSat P s) : MemSat P (s.engineError c n buffer v) := by
  unfold State.engineError
  extract_lets m
  split
  · exact h.logCell
  · extract_lets again s1 s2
    have h1 : MemSat P s1 := .ite h.logCell h.logCell
    have h2 : MemSat P s2 := .post (.ite h1.bufferError h1.entryError)
    exact .ite h2 h2.askKill

theorem dropBuffer {store p i} (h : MemSat P s) : MemSat P (s.dropBuffer store p i) := by
  unfold State.dropBuffer
  split
  · exact h.modLink
  · exact h.modLink
  · exact h.modPkg

theorem execEccUncorrectable_keeps (h : MemSat P s) : OutSat P (execEccUncorrectable s) :=
  .next <| .ite h.modDie.engineError <| .ite (.ite h.modDie.logCell h.modDie.logCell.takeStop.askKill) <|
    .ite h.modDie.logError.post <| .ite h.modDie.logError.dropBuffer <| .ite h.modDie.logCell h.modDie.logCell

theorem modShadow {d id f} (h : MemSat P s) : MemSat P (s.modShadow d id f) := h.modDie

theorem mismatch {d id seq sub p q} (h : MemSat P s) : MemSat P (s.mismatch d id seq sub p q) := by
  unfold State.mismatch
  extract_lets again s1 s2 s3 ends s4
  have h3 : MemSat P s3 := h.logError.modShadow.endWaits.modDie
  have h4 : MemSat P s4 := .ite h3.discardStage h3
  exact h4.foldl fun _ _ ht => .askKill (.ite (ht.foldl fun _ _ hu => hu.modDie) ht)

theorem execShadowCompare_keeps (h : MemSat P s) : OutSat P (execShadowCompare s) := by
  unfold execShadowCompare
  refine .next ?_
  dsimp only
  split
  · exact h.post
  · refine .ite h.failChunk ?_
    split
    · exact .ite h (.ite h.afterCycles h.modShadow.after)
    · exact .ite h.mismatch (.ite h.mismatch h.modShadow.endWaits.post)

theorem execShadowTimeout_keeps (h : MemSat P s) : OutSat P (execShadowTimeout s) := by
  unfold execShadowTimeout
  refine .next ?_
  dsimp only
  split
  · exact h
  · split
    · exact h
    · exact h.mismatch

/-! ## Debug -/

theorem putScan {d w} (h : MemSat P s) : MemSat P (s.putScan d w) := h.modDie

theorem scanCount {d i} (h : MemSat P s) : MemSat P (s.scanCount d i) := h.modDie

theorem execScanGo_keeps (h : MemSat P s) : OutSat P (execScanGo s) :=
  .next (.ite h.putScan (.post (.scanCount (.modDie (.ite h.putScan h.putScan.modDie)))))

theorem scanWipe {c} (h : MemSat CanonMem s) : MemSat CanonMem (s.scanWipe c) :=
  .withDraws (.modCell (.foldl h fun _ _ ht => ht.setByte))

theorem execScanDrainDone_keeps (h : MemSat CanonMem s) : OutSat CanonMem (execScanDrainDone s) := by
  unfold execScanDrainDone
  refine .next <| .ite h <| .ite h.afterCycles <| .after <| .scanWipe <| .putScan ?_
  split
  · exact h.dropRegion
  · exact h

theorem setSpares {d cell} (h : MemSat P s) : MemSat P (s.setSpares d cell) :=
  h.foldl fun _ _ ht => ht.drawn.modDie

theorem execScanSegmentEnd_keeps (h : MemSat P s) : OutSat P (execScanSegmentEnd s) := by
  refine .next <| .ite h ?_
  extract_lets seg m s1 _ pass x s2
  have h1 : MemSat P s1 := h.drawn.modDie
  have h2 : MemSat P s2 := h1.putScan.scanCount.setSpares
  exact .ite h1.putScan.after <| .ite h2.modDie.pokeRuns h2

theorem execScanAbort_keeps (h : MemSat P s) : OutSat P (execScanAbort s) :=
  .next (.ite h (.pokeRuns (.ite h.putScan.scanCount.modDie.modCell h.putScan.scanCount.modDie)))

theorem ringWrite {n i off size v} (h : MemSat CanonMem s) : MemSat CanonMem (s.ringWrite n i off size v) := by
  unfold State.ringWrite
  dsimp only
  split
  · exact h.modRing
  · exact .ite h (.ite h.modRing.post (.ite h.modRing.ringDisable h.modRing))
  · exact h.post
  · exact h.modRing.ringWatch
  · exact h.modRing
  · exact h

theorem msixWrite {off size v} (h : MemSat P s) : MemSat P (s.msixWrite off size v) :=
  h.foldl fun _ _ ht => .ite ht.post ht.modPkg

theorem bar0Write {off size v} (h : MemSat CanonMem s) : MemSat CanonMem (s.bar0Write off size v) :=
  .ite h <| .ite h.post <| .ite (.ite h.modPkg h) <| .ite h.post <| .ite (.ite h.modBoot h) <| .ite h.modPkg <|
    .ite h.ringWrite <| .ite h.msixWrite h

theorem firmwareStore {a l} (h : MemSat CanonMem s) : MemSat CanonMem (s.firmwareStore a l) :=
  .ite h (.ite h.storeBytes h.placeStore)

theorem selectedWrite {c off size v} (h : MemSat CanonMem s) : MemSat CanonMem (s.selectedWrite c off size v) := by
  unfold State.selectedWrite
  dsimp only
  split
  · exact .ite h.modSaved h.windowStore
  · exact h.windowStore

theorem execRegisterWrite_keeps (h : MemSat CanonMem s) : OutSat CanonMem (execRegisterWrite s) := by
  unfold execRegisterWrite
  refine .next ?_
  dsimp only
  split
  · exact h.bar0Write
  · exact .ite h.selectedWrite h
  · exact .ite h.windowStore h
  · exact .ite h.firmwareStore h
  · exact .ite h.windowStore h

/-! ## Special -/

theorem fop {g d a q t} (h : MemSat P s) : MemSat P (s.fop g d a q t) := h.vexec.modHere

/-! ## Bundle -/

theorem supplyDue {c x now} (h : MemSat CanonMem s) : MemSat CanonMem (s.supplyDue c x now) :=
  h.foldl fun _ _ ht => ht.settleSeq

theorem exposed {c x vb ops} (h : MemSat CanonMem s) : MemSat CanonMem (s.exposed c x vb ops).2 :=
  .ite_snd h (.foldl_snd h fun _ _ hr => .ite hr.settleSeq hr)

theorem profPorts {c} (h : MemSat P s) : MemSat P (s.profPorts c) := by
  refine .foldl h fun t p ht => .ite ht.modCell ?_
  dsimp only
  split
  · exact ht.modCell
  · exact .ite ht.modCell ht

theorem profCycle {c was frozen fired held} (h : MemSat P s) : MemSat P (s.profCycle c was frozen fired held) :=
  .modCell (.ite h.modCell h.modCell.profPorts)

theorem endCycle {c was frozen fired held} (h : MemSat P s) : MemSat P (s.endCycle c was frozen fired held) :=
  h.profCycle.modCell

/-- An operation of a bundle: grouped by the shared operation of the model that gives it its effect. -/
theorem execSlot_keeps {i} (h : MemSat CanonMem s) : OutSat CanonMem (execSlot i s) := by
  cases i with
  | add | sub | and | or | xor | andn | orn | shl | shrl | shra | rotl | min | max | minu | maxu | clz
  | ctz | popc | bswap | addi | andi | ori | xori | shli | shrli | shrai | ldi | ldis => exact h.ws.next
  | mul | mulhs | mulhu | rdcyc | mvqp => exact h.wsLate.next
  | extz | exts | ins => exact .next (.ite h.illegal h.ws)
  | cmpEq | cmpNe | cmpLt | cmpLe | cmpGt | cmpGe | cmpLtu | cmpLeu | cmpGtu | cmpGeu => exact h.cmp.next
  | pand | por | pxor | pandn => exact h.pop.next
  | cmpiEq | cmpiNe | cmpiLt | cmpiLe | cmpiGt | cmpiGe | cmpiLtu | cmpiLeu | cmpiGtu | cmpiGeu =>
    exact h.cmpi.next
  | br => exact .next (.ite h.transfer h.stop)
  | call => exact .next (.ite h.ws.transfer h.stop)
  | brx | callx | ret => exact h.indirect.next
  | loop => exact .next (.ite h.illegal h.modCtx)
  | brloop => exact .next (.ite h.illegal (.ite h.stop (.ite h.modCtx.jump h.modCtx)))
  | trap | bkpt => exact h.stop.next
  | waitt => exact .next (.ite h.waitFor h)
  | waitev => exact .next (.ite h.illegal (.ite h h.waitFor))
  | xlt => exact h.execXlt_keeps
  | xwait => exact .next (.ite h.block h)
  | xpoll => exact h.wpair.next
  | csrr => exact .next (.ite h.stop h.wsLate)
  | csrw | csrs | csrc => exact h.csrExec.next
  | rdtime => exact h.execRdtime_keeps
  | ctrstart | mvpq => exact h.modCtx.next
  | ctrstop => exact h.stopCap.next
  | tmark => exact h.trace.next
  | powreq => exact .next (.ite h.illegal (.ite h.modCtx h.askPower.block))
  | powrel => exact .next (.ite h.releaseUnits.violate h.releaseUnits)
  | ld | ldz => exact h.load.next
  | st => exact h.execSt_keeps
  | vld | vldc | vldq => exact h.vload.next
  | vldSequenced => exact h.execVldSequenced_keeps
  | vst | vstc | vstq => exact h.vstore.next
  | lds | ldse => exact h.syncLoad.next
  | stf => exact h.execStf_keeps
  | sete => exact h.execSete_keeps
  | amoadd | amomin | amomax | amoand | amoor | amoxor | amoswap | amocas => exact h.amo.next
  | ldF | stF | ldFs | stFs => exact h.farScalar.next
  | vldF | vldFs => exact h.farVload.next
  | vstF | vstFs => exact h.farVstore.next
  | amoaddF | amominF | amomaxF | amoandF | amoorF | amoxorF | amoswapF | amocasF | amoaddFs | amominFs
  | amomaxFs | amoandFs | amoorFs | amoxorFs | amoswapFs | amocasFs => exact h.farAmo.next
  | fence => exact h.execFence_keeps
  | semit => exact h.execSemit_keeps
  | sfree => exact .next (.ite h.illegal h.readSlot.modCtx.freeSlot)
  | sstat => exact .next (.ite (.ite h.illegal h.wsLate) (.ite h.illegal h.wsLate))
  | rot => exact h.execRot_keeps
  | ldred => exact h.execLdred_keeps
  | stmc => exact h.execStmc_keeps
  | arrive => exact h.barrierOp.closeWindow.next
  | arrivex => exact .next (.ite h.violate.closeWindow h.barrierOp.closeWindow)
  | bwait => exact h.execBwait_keeps
  | signal => exact h.execSignal_keeps
  | swait => exact h.execSwait_keeps
  | binit => exact .next (.ite h.illegal h.barrierOp)
  | fadd | fsub | fmul | fma | fms | fnma | fnms | fmin | fmax | fabs | fneg | frnd | fclass => exact h.flop.next
  | fcmpeq | fcmpne | fcmplt | fcmple | fcmpun => exact h.fcmp.next
  | iadd | isub | imul | imulh | imad | imin | imax | iminu | imaxu | iand | ior | ixor | ishl | ishrl
  | ishra | iabs | ipopc | iclz | iadds | isubs | clmul => exact h.ilop.next
  | icmpeq | icmplt | icmpltu => exact h.icmp.next
  | cvt | packb | unpkb | cvtax | cvtxa | mov | movi | movs | sel | xcl | perm | expand | scan | xcopy
  | xbcast | lbcast | qpop => exact h.vexec.next
  | mvls => exact .next (.ite h.illegal (h.foldl fun _ _ ht => ht.mvlsOf))
  | compress => exact .next (h.vexec.foldl fun _ _ ht => ht.land)
  | rsum | rmax | rmin => exact h.reduceLanes.next
  | qand | qor | qxor | qandn => exact h.qlogic.next
  | qset => exact h.qexec.next
  | vcfgw => exact h.modHere.next
  | rcp | rsq | sqrt | exp2 | log2 | tanh | sigm | erf | sin | cos | expe | gelu => exact h.fop.next
  | mcfg => exact .next (.ite h.stay (.ite h.illegal h.claimWeights.modMat.closeWindow))
  | mwload => exact h.execMwload_keeps
  | mmul | mmac => exact h.multiply.next
  | mdrain | mtrn | msave => exact h.ownedOp.next
  | mzero | mrest => exact .next (.ite h.illegal (h.enqueueM fun _ ht => ht.takeTile))
  | mscale => exact .next (.ite (h.enqueueM fun _ ht => ht) h.ownedOp)
  | mchk => exact h.execMchk_keeps
  | mwait => exact .next (.ite h.stay h)
  | copy | seqdef | grpdef | hpair | trcfg | enq => exact h.xcmd.next
  | nop | snop | vnop => exact h.next
  | eret => exact .next (.ite h.returnFrom.closeWindow h.stop)
  | endt => exact h.execEndt_keeps
  | yield => exact h.giveUp.next
  | rwflush => exact h.closeWindow.next
  | mwswap => exact .next (.ite h.illegal (h.enqueueM fun _ ht => ht.modMat))
  | _ => exact h.next

theorem runSlot {o} (h : MemSat CanonMem s) : MemSat CanonMem (s.runSlot o) := by
  unfold State.runSlot
  split
  · next e => exact MemSat.execSlot_keeps (s := { s with focus := { s.focus with slot := o.slot } }) h _ e
  · exact h
  · exact h

theorem unfocus (h : MemSat P s) : MemSat P s.unfocus := h

theorem inFocus {c x pc g ops} (h : MemSat CanonMem s) : MemSat CanonMem (s.inFocus c x pc g ops) := h.exposed

theorem quiet {c was held} (h : MemSat P s) : MemSat P (s.quiet c was held) := h.endCycle

theorem busyCycle {c} (h : MemSat P s) : MemSat P (s.busyCycle c) := by
  unfold State.busyCycle
  refine .quiet ?_
  split
  · exact h.modCtxOf
  · exact h

theorem stopBundle {c x pc slot cause info done} (h : MemSat P s) :
    MemSat P (s.stopBundle c x pc slot cause info done).after :=
  h.takeStop

theorem slotStop {t2 ops live old x w fired} (h : MemSat P s) : MemSat P (s.slotStop t2 ops live old x w fired).after :=
  h.modCtx.unfocus.takeStopBy

theorem takeLate {c x l} (h : MemSat P s) : MemSat P (s.takeLate c x l).after :=
  MemSat.stopBundle (.ite h.modCtxOf.askKill h.modCtxOf)

/-- `step` runs one slot of the bundle; the trailing lets choose what the bundle leaves in the context. -/
theorem runSlots {ops live old w wait} (h : MemSat CanonMem s) :
    MemSat CanonMem (s.runSlots ops live old w wait).after := by
  unfold State.runSlots
  extract_lets x f start start' ctl others plain run step r1 t1 go n ends t1c t1c' r2 t2 t t' left t''
  have hstep : ∀ p o, MemSat CanonMem p.1 → MemSat CanonMem (step p o).1 := by
    intro p o hp
    dsimp only [step]
    split
    · exact hp
    · exact .ite_fst hp.runSlot hp.runSlot
  have h1 : MemSat CanonMem t1 := .foldl_fst h hstep
  have hc : MemSat CanonMem t1c := .ite h1.modCtx h1
  have h2 : MemSat CanonMem r2.1 := .foldl_fst (.ite hc.modCtx hc) hstep
  split
  · exact h.runSlot.trace.unfocus
  · refine .ite_issue ?_ h1.slotStop
    have ht : MemSat CanonMem t := .ite h2 h2.modCtx
    have ht' : MemSat CanonMem t' := .ite ht.modCtx ht
    refine MemSat.unfocus (.modHere ?_)
    dsimp only [t'']
    generalize left = l
    cases l with
    | none => exact ht'
    | some k => exact ht'.trace

theorem present {c x} (h : MemSat CanonMem s) : MemSat CanonMem (s.present c x).after := by
  unfold State.present
  extract_lets t pc hd old size _ bps _ live _ _ _ _ stays
  refine .ite_issue h.modCtxOf.stopBundle ?_
  split
  · exact h.takeLate
  · refine .ite_issue h.stopBundle ?_
    split
    · exact MemSat.unfocus (.consume h)
    · generalize bps = l
      cases l with
      | cons => exact h.stopBundle
      | nil =>
        dsimp only
        split
        · exact h.stopBundle
        · split
          · exact h.stopBundle
          · split
            · exact .ite_issue h h.inFocus.block.trace.unfocus
            · generalize stays = o
              cases o with
              | some => exact h
              | none => exact h.inFocus.runSlots

theorem issueOf {c x} (h : MemSat CanonMem s) : MemSat CanonMem (s.issueOf c x) := by
  unfold State.issueOf
  extract_lets was regains note gaveUp
  have hn : ∀ {t}, MemSat CanonMem t → MemSat CanonMem (note t) := fun ht => .ite ht.trace ht
  have hi : MemSat CanonMem (((s.modCell c fun k => { k with home := some x, switched := false }).present c x).after) :=
    MemSat.present h.modCell
  split
  · next e => rw [e] at hi; exact hi.modCell.quiet
  · next e => rw [e] at hi; exact (hn hi).quiet
  · next e => rw [e] at hi; exact hi.modCell.quiet
  · next e => rw [e] at hi; exact .ite h.endCycle (hn hi.modCell).endCycle

theorem cellCycle {c} (h : MemSat CanonMem s) : MemSat CanonMem (s.cellCycle c) := by
  unfold State.cellCycle
  refine .ite h.modCell.quiet <| .ite h.endCycle <| .ite h.busyCycle ?_
  split
  · exact h.modCell.quiet
  · exact .ite h.modCell.quiet h.issueOf

/-! ## Sched -/

theorem wake {c x} (h : MemSat CanonMem s) : MemSat CanonMem (s.wake c x) := by
  unfold State.wake
  dsimp only
  split
  · exact .ite h.tryRetire (.ite h.modCtxOf h)
  · exact .ite h.modCtxOf h
  · exact h

theorem freshen (h : MemSat P s) : MemSat P s.freshen := h.foldl fun _ _ ht => ht.modCell

theorem limit {c} (h : MemSat CanonMem s) : MemSat CanonMem (s.limit c) := .ite h.modCell h.modCell

theorem tick (h : MemSat CanonMem s) : MemSat CanonMem s.tick :=
  .foldl (.freshen (h.foldl fun _ _ ht => ht.foldl fun _ _ ht1 => ht1.wake)) fun _ _ ht => ht.limit

theorem defaultMove (h : MemSat CanonMem s) : MemSat CanonMem s.defaultMove.2 := by
  unfold State.defaultMove
  split
  · exact h
  · split
    · exact h
    · exact h
    · split
      · exact h
      · split
        · exact h
        · split
          · exact h
          · exact h.tick

theorem nextMove (h : MemSat CanonMem s) : MemSat CanonMem s.nextMove.2 := by
  unfold State.nextMove
  split
  · exact h.defaultMove
  · dsimp only
    split
    · exact h
    · exact h
    · exact h
    · exact .tick h
    · exact .performPart h
    · exact .setLag h
    · exact .describe h
    · exact .migrated h

/-! ## Instructions and events -/

/-- Every instruction and event: the events here, the operations of a bundle by `execSlot_keeps`. -/
theorem exec_keeps {i} (h : MemSat CanonMem s) : OutSat CanonMem (exec i s) := by
  have hslot := h.execSlot_keeps (i := i)
  cases i with
  | bundleIssue => exact .next (.cellCycle h)
  | resultLand => exact h.supplyDue.modCtxOf.modCell.next
  | interlockReturn => exact h.execInterlockReturn_keeps
  | waittWake | tarragonIdleClose => exact h.modCtxOf.next
  | matrixOpStart => exact .next (.ite h h.matStart)
  | matrixOpComplete => exact h.matComplete.next
  | copyh | fill | seqcond | seqstop | grpabort | hpennant | hstat | trflush => exact h.xcmd.next
  | copyComplete => exact h.execCopyComplete_keeps
  | seqUnitFetch => exact .next (.ite h.afterCycles h.seqFetch.seqServe.seqPoke)
  | collExpRecord => exact h.execCollExpRecord_keeps
  | collExponentReturn => exact h.execCollExponentReturn_keeps
  | collRootChunk => exact h.execCollRootChunk_keeps
  | collResult => exact h.execCollResult_keeps
  | collRootTimeout => exact h.execCollRootTimeout_keeps
  | collFailureNotice => exact h.execCollFailureNotice_keeps
  | collMemberTimeout => exact h.execCollMemberTimeout_keeps
  | hpairComplete => exact h.execHpairComplete_keeps
  | pennantArrival => exact .next (.ite h.takePennant h.modCell)
  | traceRecordWrite => exact h.traceWriteOne.next
  | taskStartArrival => exact h.execTaskStartArrival_keeps
  | chunkArrival => exact h.execChunkArrival_keeps
  | chunkHopCheck => exact h.execChunkHopCheck_keeps
  | returnArrival => exact .next (h.atPort fun _ _ ht => ht.takeReturn)
  | censusSend => exact .next (h.atTag fun _ _ ht => ht.sendCensus)
  | censusArrival => exact h.execCensusArrival_keeps
  | refusalArrival => exact .next (h.atPort fun _ _ ht => ht.takeRefusal)
  | refusedChunkResend => exact .next (h.atPort fun _ _ ht => ht.resendRefused)
  | replayRequestArrival => exact .next (h.atPort fun _ _ ht => ht.takeReplay)
  | rotComplete => exact h.execRotComplete_keeps
  | preemptEvict => exact h.execPreemptEvict_keeps
  | taskResume => exact h.execTaskResume_keeps
  | powerGrant => exact h.execPowerGrant_keeps
  | launch => exact .next (.ite h.modPkg h.modPkg.post)
  | graphAccept => exact h.execGraphAccept_keeps
  | runNodeBind => exact h.execRunNodeBind_keeps
  | configLoad => exact h.execConfigLoad_keeps
  | configDrop => exact h.execConfigDrop_keeps
  | copyNodeStart => exact h.execCopyNodeStart_keeps
  | waitNode => exact h.execWaitNode_keeps
  | waitNodeTimeout => exact .next (.ite h.nodeDone h)
  | condNode => exact h.execCondNode_keeps
  | hringNode => exact .next (.ite h (.ite h.nodeStarts.nodeDone h.nodeStarts.globalRead.ringPut))
  | hringIrqTimer => exact h.ringIrq.next
  | endNode => exact h.execEndNode_keeps
  | dcpSelect => exact h.modDie.dcpDone.next
  | dcpResume | dcpStep => exact h.dcpResume.next
  | dcpKill => exact h.execDcpKill_keeps
  | dcpPost => exact h.execDcpPost_keeps
  | trapRecordPost => exact .next (.ite h (.ite h.modDie.abftTrap h.modDie))
  | fbPop => exact .next (.ite h.modDie.pokeEngines h.modDie)
  | tqPop | elogPop | faultRecordPost | newerAttemptDrop => exact h.modDie.next
  | fbResp => exact h.execFbResp_keeps
  | xltInv => exact h.tablesFresh.dropTensor.modDie.next
  | walkerTranslate => exact h.execWalkerTranslate_keeps
  | quarFree => exact .next (.ite h.quarantine h)
  | quarantineRelease => exact h.execQuarantineRelease_keeps
  | hostStagingAccess => exact .next (.ite h.stagingWrite h)
  | registerWrite => exact h.execRegisterWrite_keeps
  | flitReceive => exact h.execFlitReceive_keeps
  | nackReceive => exact .next (.ite h (.ite h.modLink.retrain h.modLink))
  | laneLockLoss | linkSilenceTimeout => exact .next (.ite h.retrain h)
  | retrainAttemptEnd => exact h.execRetrainAttemptEnd_keeps
  | linkEnable => exact .next (.ite h (.ite h.modLink.retrain h.modLink.modLink))
  | packetInject => exact h.execPacketInject_keeps
  | packetForward => exact h.execPacketForward_keeps
  | e2eDeliver => exact h.execE2eDeliver_keeps
  | e2eAckReceive => exact h.modPkg.refill.next
  | e2eResendTimeout => exact h.execE2eResendTimeout_keeps
  | remoteRequest => exact .next (.ite h.post (.ite h.afterCycles h.serve))
  | remoteResponse => exact h.execRemoteResponse_keeps
  | farAccessTimeout => exact h.execFarAccessTimeout_keeps
  | rtDataWrite | pkgAdopt => exact .next (.ite h h.modPkg)
  | generationSwap => exact .next (.ite h.modPkg h)
  | bootInj => exact h.execBootInj_keeps
  | bootAnnounce => exact h.execBootAnnounce_keeps
  | bootData => exact h.execBootData_keeps
  | bootVerify => exact h.execBootVerify_keeps
  | bootCommit => exact h.execBootCommit_keeps
  | bootReply => exact h.execBootReply_keeps
  | timeExchange => exact .next (.ite h (.ite h.sendStamp (.ite h.modLink h.modLink.measured.after)))
  | ptpSync => exact h.measured.next
  | ppsEdge => exact .next (.ite h (.modTime (.ite h h.measured)))
  | timeHoldover => exact .next (.ite (.ite h.holdSecond h) (.ite h h.holdSecond))
  | powerOverStep => exact .next (.ite h (.after h))
  | keyLoad => exact h.execKeyLoad_keeps
  | keyErase => exact h.modPkg.keyDone.next
  | keyBindtx | keyBindrx => exact .next (.ite h.keyDone h.modLink.keyDone)
  | keyRekey => exact h.modLink.keyDone.next
  | attestation => exact .next (h.foldl fun _ _ ht => ht.engineWrite)
  | hostRingEnable => exact .next (.ite h.modRing h)
  | hostRingTail => exact .next (.ite h.modRing.ringDrain h)
  | msixUnmask => exact .next (.ite h.unmask h)
  | eccCorrectable => exact .next (.ite h.modDie.modDie.logError h.modDie.modDie)
  | eccUncorrectable => exact h.execEccUncorrectable_keeps
  | scrub => exact .next (.ite h h)
  | shadowCompare => exact h.execShadowCompare_keeps
  | shadowTimeout => exact h.execShadowTimeout_keeps
  | regionKill => exact h.execRegionKill_keeps
  | dieFence => exact h.execDieFence_keeps
  | dcpWatchdogMiss | boundaryRetrainFailed => exact h.post.next
  | linkRetire => exact h.modPkg.post.next
  | streamReset => exact h.execStreamReset_keeps
  | cmapRowWrite => exact .next (.ite h.putMap h.putMap.after)
  | cmapPairMove => exact .next (.ite h.putMap.pokeRuns h.after)
  | recArm | packageReset => exact .next h
  | rwTableLoad => exact h.writeRwTable.next
  | rwTableLoadDone => exact h.execRwTableLoadDone_keeps
  | scanGo => exact h.execScanGo_keeps
  | scanDrainDone => exact h.execScanDrainDone_keeps
  | scanSegmentEnd => exact h.execScanSegmentEnd_keeps
  | scanAbort => exact h.execScanAbort_keeps
  | dieReset => exact .next (.modDie h)
  | tileTableReadTimeout => exact .next (.ite h.walkEntry h)
  | engineCommandComplete => exact h.execEngineCommandComplete_keeps
  | powerMeasurementUpdate => exact .next (.ite h.modPkg.post h.modPkg)
  | coolantAlarm => exact h.modPkg.next
  | _ => exact hslot

end MemSat

/-- Settles O60: the scheduler's move keeps memory canonical, and so does the instruction or event it picks. -/
theorem stepKeepsMemory : Obligations.StepKeepsMemory := by
  intro s t h e
  have hmove : MemSat CanonMem s.nextMove.2 := MemSat.nextMove h
  unfold step at e
  split at e
  · next hpick => exact (hmove.of_snd hpick).withArgs.exec_keeps t e
  · next hidle => exact (hmove.of_snd hidle).next t e

end Sys2Proof.Machine
end

section
/-! What reset leaves: one lemma per part of the package, since no cell and no die is listed at reset. -/

namespace Sys2Proof.Machine
open Sys2Proof

/-- The limiter's registers (R310-R312): no units are granted, so the limit is the base. -/
theorem reset_powerCsrs (c : Nat) :
    State.reset.cellCsr c 0x110 = 2560#64 ||| (2560#64 <<< 16) ∧ State.reset.cellCsr c 0x111 = 0 ∧
    State.reset.cellCsr c 0x112 = 0 := by
  refine ⟨?_, ?_, ?_⟩
  · show Cell.reset.curLimit = _
    decide
  · rfl
  · show Cell.reset.powGrant = _
    decide

/-- The region registers of a cell without a configuration. -/
theorem reset_regionCsrs (c a : Nat) (h1 : 0x101 ≤ a) (h2 : a ≤ 0x105) : State.reset.cellCsr c a = 0 := by
  interval_cases a <;> rfl

/-- FAULT_CTL, TRAPQ_CTL and ELOG_CTL of an empty queue: only IE is 1. -/
theorem logQueue_reset_ctl : LogQueue.reset.ctl = 1#64 <<< 11 := by decide

theorem reset_poolWord : Die.reset.poolWord = 8192 := by
  have hpool : Die.reset.pool = 8192 := by simp [Die.pool, Die.reset, Tab.get, bitsAt]
  have hused : Die.reset.powUsed = 0 := rfl
  have hqueue : Die.reset.powQueue = [] := rfl
  simp [Die.poolWord, hpool, hused, hqueue]

theorem reset_eccCount (d : Nat) : State.reset.eccCount d = 0 := by
  have hpoison : State.reset.poison = [] := rfl
  have hce : (State.reset.die d).eccCe = 0 := rfl
  have hue : (State.reset.die d).eccUe = 0 := rfl
  simp [State.eccCount, hpoison, hce, hue]

theorem reset_dieCsrs (d : Nat) :
    State.reset.dieCsr d 0x200 = 1#64 <<< 11 ∧ State.reset.dieCsr d 0x208 = 1#64 <<< 11 ∧
    State.reset.dieCsr d 0x230 = 1#64 <<< 11 ∧ State.reset.dieCsr d 0x228 = 8192 ∧
    State.reset.dieCsr d 0x251 = 1#64 <<< 18 ∧ State.reset.dieCsr d 0x235 = 0 :=
  ⟨logQueue_reset_ctl, logQueue_reset_ctl, logQueue_reset_ctl, reset_poolWord, rfl, reset_eccCount d⟩

/-- No port is the bunting port of a package that is not part of a fabric. -/
theorem reset_linkWord (n : Nat) : Pkg.reset.linkWord n = 1#64 <<< 4 := by
  have hbunting : Pkg.reset.bunting n = false := by simp [Pkg.bunting, Pkg.reset]
  have hlink : Pkg.reset.link n = LinkPort.reset := rfl
  simp [Pkg.linkWord, hbunting, hlink, LinkPort.reset]

theorem reset_linkStatus (n : Nat) (h : n < 32) : State.reset.pkgCsr (0x320 + n) = 1#64 <<< 4 := by
  interval_cases n <;> exact reset_linkWord _

theorem reset_pkgCsrs :
    State.reset.pkgCsr 0x310 = 64#64 <<< 16 ∧ State.reset.pkgCsr 0x314 = 0 ∧
    State.reset.pkgCsr 0x340 = 3#64 <<< 9 ∧ State.reset.pkgCsr 0x341 = 0 ∧ State.reset.pkgCsr 0x350 = 3600 ∧
    State.reset.pkgCsr 0x368 = 0 ∧ State.reset.pkgCsr 0x301 = 0 := by decide

/-- Settles O57, part by part of the package: memory, contexts, cells, dies, ports and the package's registers. -/
theorem resetState : Obligations.ResetState := by
  obtain ⟨hrt, hswap, htime, hsec, hlimit, hboot, hfence⟩ := reset_pkgCsrs
  refine ⟨rfl, rfl, fun _ => rfl, fun c x => ⟨rfl, rfl⟩, fun c => ?_, reset_dieCsrs, reset_linkStatus, hrt, hswap,
    htime, hsec, hlimit, hboot, hfence, rfl, rfl⟩
  obtain ⟨hcur, hfreeze, hgrant⟩ := reset_powerCsrs c
  exact ⟨rfl, rfl, hcur, hfreeze, hgrant, reset_regionCsrs c⟩

end Sys2Proof.Machine
end

section
/-! What a slot's word means: every instruction that the decoder answers for a slot is run there by its own meaning, and
none faults. -/

namespace Sys2Proof.Machine
open Sys2Proof

/-- The instruction of slot `n` is run in a bundle by its own meaning, and is `MCFG` in a matrix slot only. -/
def MeansInSlot (n : Nat) (i : Instr) : Prop :=
  (∀ t, execSlot i t = exec i t) ∧
    ∀ g, SlotOp.isMcfg ⟨n, g, i⟩ = true → SlotOp.isMatrix ⟨n, g, i⟩ = true

/-- What a decoder answers for slot `n`, if it is an instruction, is one of that slot. -/
def DecodesInSlot (n : Nat) (r : Except DecodeErr Instr) : Prop := ∀ i, r = .ok i → MeansInSlot n i

namespace DecodesInSlot
variable {n : Nat}

theorem error {e : DecodeErr} : DecodesInSlot n (.error e) := fun _ h => nomatch h

theorem finish {fixed : Bool} {i : Instr} (h : MeansInSlot n i) : DecodesInSlot n (Sys2Proof.finish fixed i) := by
  intro j hj
  unfold Sys2Proof.finish at hj
  split at hj
  · split at hj
    · cases hj
      exact h
    · cases hj
  · cases hj

/-- An arm of a decoder whose instruction is not `MCFG`. -/
theorem arm {fixed : Bool} {i : Instr} (h : ∀ t, execSlot i t = exec i t)
    (hi : ∀ g, SlotOp.isMcfg ⟨n, g, i⟩ = false) : DecodesInSlot n (Sys2Proof.finish fixed i) :=
  finish ⟨h, fun g hg => by rw [hi g] at hg; cases hg⟩

theorem decodeScalar (w : W32) : DecodesInSlot n (decodeScalar w) := by
  unfold Sys2Proof.decodeScalar
  split
  rotate_right
  · exact error
  case h_75 => -- opcode 0x61, the engine commands by their operation number
    split
    rotate_right
    · exact error
    all_goals exact arm (fun _ => rfl) fun _ => rfl
  all_goals exact arm (fun _ => rfl) fun _ => rfl

theorem decodeMem (w : W32) : DecodesInSlot n (decodeMem w) := by
  unfold Sys2Proof.decodeMem
  split
  rotate_right
  · exact error
  case h_5 => -- opcode 0x04, VLD and its sequenced form
    split
    · exact arm (fun _ => rfl) fun _ => rfl
    · exact arm (fun _ => rfl) fun _ => rfl
  all_goals exact arm (fun _ => rfl) fun _ => rfl

theorem decodeVec (w : W32) : DecodesInSlot n (decodeVec w) := by
  unfold Sys2Proof.decodeVec
  split
  rotate_right
  · exact error
  all_goals exact arm (fun _ => rfl) fun _ => rfl

theorem decodeFx (w : W32) : DecodesInSlot n (decodeFx w) := by
  unfold Sys2Proof.decodeFx
  split
  rotate_right
  · exact error
  all_goals exact arm (fun _ => rfl) fun _ => rfl

theorem decodeMat (w : W32) (hn : n = slotM0 ∨ n = slotM1) : DecodesInSlot n (decodeMat w) := by
  have hmat : ∀ g i, SlotOp.isMatrix ⟨n, g, i⟩ = true := by
    obtain rfl | rfl := hn
    · exact fun _ _ => rfl
    · exact fun _ _ => rfl
  unfold Sys2Proof.decodeMat
  split
  rotate_right
  · exact error
  all_goals exact finish ⟨fun _ => rfl, fun g _ => hmat g _⟩

end DecodesInSlot

/-- One case for each class of slots (R106, R112-R116). -/
theorem decodeSlot_means {n : Nat} {w : W32} {i : Instr} (h : decodeSlot n w = .ok i) : MeansInSlot n i := by
  unfold decodeSlot at h
  split at h
  · split at h
    · next j hj =>
      split at h
      · cases h
        exact DecodesInSlot.decodeScalar w i hj
      · cases h
    · cases h
  · split at h
    · exact DecodesInSlot.decodeMem w i h
    · split at h
      · exact DecodesInSlot.decodeFx w i h
      · split at h
        · next hn => exact DecodesInSlot.decodeMat w hn i h
        · exact DecodesInSlot.decodeVec w i h

/-- No instruction of a slot faults or is refused. -/
theorem execSlot_next (i : Instr) (s : State) : ∃ t, execSlot i s = .next t := by
  cases i with
  | _ => exact ⟨_, rfl⟩

end Sys2Proof.Machine
end

section
/-! What only counts: updates that leave the bank of a context as it is but for its capture counters, and memory, dies,
links and the clock whole. The profile and the end of a cell's cycle are such. -/

namespace Sys2Proof.Machine
open Sys2Proof

/-- The context differs at most in its capture counters. -/
def Ctx.CountsOnly (y z : Ctx) : Prop := ∃ caps, z = { y with caps := caps }

namespace Ctx.CountsOnly
variable {y z w : Ctx}

theorem refl : Ctx.CountsOnly y y := ⟨y.caps, rfl⟩

theorem trans (h : Ctx.CountsOnly y z) (g : Ctx.CountsOnly z w) : Ctx.CountsOnly y w := by
  obtain ⟨a, rfl⟩ := h
  obtain ⟨b, rfl⟩ := g
  exact ⟨b, rfl⟩

theorem countBy {sel : Tab W64} {code n : Nat} : Ctx.CountsOnly y (y.countBy sel code n) := by
  unfold Ctx.countBy
  split
  · exact refl
  · exact ⟨_, rfl⟩

theorem countElem {sel : Tab W64} {e cls : Nat} : Ctx.CountsOnly y (y.countElem sel e cls) := ⟨_, rfl⟩

theorem countIssue {sel : Tab W64} {a n : Nat} : Ctx.CountsOnly y (y.countIssue sel a n) :=
  (countBy.trans countBy).trans countBy

theorem countCycle {sel : Tab W64} {frozen own slot : Bool} :
    Ctx.CountsOnly y (y.countCycle sel frozen own slot) := by
  unfold Ctx.countCycle
  extract_lets z
  have hz : Ctx.CountsOnly y z := by
    dsimp only [z]
    split
    · split
      · exact refl
      · exact countBy
    · split
      · exact refl
      · exact countBy
    · split
      · exact refl
      · exact countBy
    · exact refl
  split
  · exact hz.trans countBy
  · exact hz

end Ctx.CountsOnly

theorem Cell.ctx_profName (k : Cell) (e n x : Nat) : (k.profName e n).ctx x = k.ctx x := by
  unfold Cell.profName
  dsimp only
  split
  · rfl
  · split
    · rfl
    · rfl

theorem Cell.ctx_profCount (k : Cell) (e cls x : Nat) (n : Option Nat) : (k.profCount e cls n).ctx x = k.ctx x := by
  unfold Cell.profCount
  dsimp only
  split
  · rw [Cell.ctx_profName]
    rfl
  · rfl

/-- The cell's context `x` differs at most in its capture counters. -/
def Cell.CountsOnly (x : Nat) (k l : Cell) : Prop := Ctx.CountsOnly (k.ctx x) (l.ctx x)

namespace Cell.CountsOnly
variable {x : Nat} {k l m : Cell}

theorem of_ctx_eq (h : l.ctx x = k.ctx x) : Cell.CountsOnly x k l := by
  unfold Cell.CountsOnly
  rw [h]
  exact .refl

theorem refl : Cell.CountsOnly x k k := Ctx.CountsOnly.refl

theorem trans (h : Cell.CountsOnly x k l) (g : Cell.CountsOnly x l m) : Cell.CountsOnly x k m :=
  Ctx.CountsOnly.trans h g

theorem foldl {α : Type} {f : Cell → α → Cell} (l : List α) (hf : ∀ k a, Cell.CountsOnly x k (f k a)) :
    Cell.CountsOnly x k (l.foldl f k) :=
  foldl_keep (Cell.CountsOnly x k) f (fun _ a h => h.trans (hf _ a)) l k refl

theorem putCtx {y : Nat} {t : Ctx} (h : Ctx.CountsOnly (k.ctx y) t) : Cell.CountsOnly x k (k.putCtx y t) := by
  unfold Cell.CountsOnly
  rw [Cell.ctx_putCtx]
  split
  · next hxy => rwa [hxy]
  · exact .refl

theorem profCount {e cls : Nat} {n : Option Nat} : Cell.CountsOnly x k (k.profCount e cls n) :=
  of_ctx_eq (Cell.ctx_profCount ..)

/-- An element's class is counted in the profile and in the capture sets of a context. -/
theorem profCount_countElem {e cls y : Nat} {n : Option Nat} {sel : Tab W64} :
    Cell.CountsOnly x k ((k.profCount e cls n).putCtx y ((k.ctx y).countElem sel e cls)) := by
  refine profCount.trans (putCtx ?_)
  rw [Cell.ctx_profCount]
  exact .countElem

theorem profSlots {was : Cell} {frozen : Bool} {fired : Option (Nat × List Nat)} {held : List HeldBy} :
    Cell.CountsOnly x k (k.profSlots was frozen fired held) := by
  refine foldl _ fun k e => ?_
  split
  · exact profCount
  · split
    · exact profCount_countElem
    · split
      · exact profCount_countElem
      · exact refl

theorem profSeq : Cell.CountsOnly x k k.profSeq := by
  unfold Cell.profSeq
  dsimp only
  split
  · exact profCount
  · split
    · exact profCount
    · split
      · exact profCount
      · exact refl

theorem profLoad : Cell.CountsOnly x k k.profLoad := by
  have hloading : Cell.CountsOnly x k { k with loading := false } := of_ctx_eq rfl
  exact hloading.trans (foldl _ fun _ _ => profCount)

end Cell.CountsOnly

/-- The package differs, of what the bank of a context, memory, dies, links and the clock hold, at most in capture
counters of context `x` of cell `c`. -/
structure State.CountsOnly (c x : Nat) (s t : State) : Prop where
  bank : Cell.CountsOnly x (s.cell c) (t.cell c)
  mem : t.mem = s.mem
  full : t.full = s.full
  poison : t.poison = s.poison
  dies : t.dies = s.dies
  pkg : t.pkg = s.pkg
  timers : t.timers = s.timers
  alarms : t.alarms = s.alarms
  cycle : t.cycle = s.cycle
  time : t.time = s.time

namespace State.CountsOnly
variable {c x : Nat} {s t u : State}

theorem refl : State.CountsOnly c x s s := ⟨.refl, rfl, rfl, rfl, rfl, rfl, rfl, rfl, rfl, rfl⟩

theorem trans (h : State.CountsOnly c x s t) (g : State.CountsOnly c x t u) : State.CountsOnly c x s u :=
  ⟨h.bank.trans g.bank, g.mem.trans h.mem, g.full.trans h.full, g.poison.trans h.poison, g.dies.trans h.dies,
    g.pkg.trans h.pkg, g.timers.trans h.timers, g.alarms.trans h.alarms, g.cycle.trans h.cycle, g.time.trans h.time⟩

theorem modCell {j : Nat} {f : Cell → Cell} (hf : Cell.CountsOnly x (s.cell j) (f (s.cell j))) :
    State.CountsOnly c x s (s.modCell j f) := by
  refine ⟨?_, rfl, rfl, rfl, rfl, rfl, rfl, rfl, rfl, rfl⟩
  rw [State.cell_modCell]
  split
  · next h => rwa [h]
  · exact .refl

theorem modCtx {f : Ctx → Ctx} (hf : Ctx.CountsOnly s.ctx (f s.ctx)) : State.CountsOnly c x s (s.modCtx f) := by
  unfold State.modCtx State.modCtxOf
  exact modCell (.putCtx hf)

theorem foldl {α : Type} {f : State → α → State} (l : List α) (hf : ∀ k a, State.CountsOnly c x k (f k a)) :
    State.CountsOnly c x s (l.foldl f s) :=
  foldl_keep (State.CountsOnly c x s) f (fun _ a h => h.trans (hf _ a)) l s refl

theorem post {i : Instr} {a : Args} : State.CountsOnly c x s (s.post i a) :=
  ⟨.of_ctx_eq rfl, rfl, rfl, rfl, rfl, rfl, rfl, rfl, rfl, rfl⟩

theorem trace {j kind pc slot : Nat} {y : Option Nat} {d0 d1 : W64} :
    State.CountsOnly c x s (s.trace j kind y pc slot d0 d1) := by
  unfold State.trace
  dsimp only
  split
  · exact refl
  · split
    · exact modCell (.of_ctx_eq rfl)
    · refine .trans ?_ post
      exact modCell (.of_ctx_eq rfl)

theorem unfocus : State.CountsOnly c x s s.unfocus :=
  ⟨.of_ctx_eq rfl, rfl, rfl, rfl, rfl, rfl, rfl, rfl, rfl, rfl⟩

theorem profPorts {j : Nat} : State.CountsOnly c x s (s.profPorts j) := by
  refine foldl _ fun t p => ?_
  split
  · exact modCell .profCount
  · dsimp only
    split
    · exact modCell .profCount
    · split
      · exact modCell .profCount
      · exact refl

theorem profCycle {j : Nat} {was : Cell} {frozen : Bool} {fired : Option (Nat × List Nat)} {held : List HeldBy} :
    State.CountsOnly c x s (s.profCycle j was frozen fired held) := by
  unfold State.profCycle
  extract_lets u
  have hu : State.CountsOnly c x s u := by
    dsimp only [u]
    split
    · exact modCell .profLoad
    · refine .trans ?_ profPorts
      exact modCell (Cell.CountsOnly.profSlots.trans .profSeq)
  refine hu.trans ?_
  exact modCell (.of_ctx_eq rfl)

theorem endCycle {j : Nat} {was : Cell} {frozen : Bool} {fired : Option (Nat × List Nat)} {held : List HeldBy} :
    State.CountsOnly c x s (s.endCycle j was frozen fired held) := by
  unfold State.endCycle
  extract_lets waits own
  refine .trans profCycle (modCell ?_)
  extract_lets l
  have hl : Cell.CountsOnly x ((s.profCycle j was frozen fired held).cell j) l := by
    refine .foldl _ fun k y => ?_
    split
    · exact .refl
    · exact .putCtx .countCycle
  clear_value l
  split
  · exact hl.trans (.of_ctx_eq rfl)
  · exact hl.trans (.of_ctx_eq rfl)

end State.CountsOnly

end Sys2Proof.Machine
end

section
/-! Running the slots of a bundle: the parts of `runSlots` by name, and what they do where at most one slot executes. -/

namespace Sys2Proof.Machine
open Sys2Proof

theorem State.modCell_congr {s : State} {c : Nat} {f g : Cell → Cell} (h : f (s.cell c) = g (s.cell c)) :
    s.modCell c f = s.modCell c g := by
  unfold State.modCell
  rw [h]

theorem State.modCtx_congr {s : State} {f g : Ctx → Ctx} (h : f s.ctx = g s.ctx) : s.modCtx f = s.modCtx g := by
  unfold State.modCtx State.modCtxOf
  exact State.modCell_congr (congrArg (s.here.putCtx s.focus.ctx) h)

/-- The state in which the slots of an issued bundle run: the context in focus has the issue slot, READY past the
bundle. -/
def State.started (b : State) : State :=
  (b.modCtx fun y => { y with st := .ready, hold := .none, pc := b.focus.next, redo := false }).modHere fun k =>
    { k with cur := some b.focus.ctx, last := some b.focus.ctx, entering := false }

theorem State.ctx_started (b : State) :
    b.started.ctx = { b.ctx with st := .ready, hold := .none, pc := b.focus.next, redo := false } := by
  show b.started.ctxOf b.focus.cell b.focus.ctx = _
  simp [State.started, State.modHere, State.modCtx, State.modCtxOf, State.ctxOf, State.modCell_modCell, Cell.ctx,
    Cell.putCtx, Tab.get_ins, State.ctx, State.here]

/-- An update that leaves the started context as it is leaves the state as it is: the tables list it. -/
theorem State.modCtx_started {b : State} {g : Ctx → Ctx} (h : g b.started.ctx = b.started.ctx) :
    b.started.modCtx g = b.started := by
  rw [State.ctx_started] at h
  unfold State.started State.modHere State.modCtx State.modCtxOf
  simp only [State.modCell_modCell, State.modCell_focus]
  refine State.modCell_congr ?_
  have hctx : (b.cell b.focus.cell).ctx b.focus.ctx = b.ctx := rfl
  simp only [Cell.ctx, Cell.putCtx, Tab.get_ins, Tab.ins_ins, if_true] at hctx h ⊢
  rw [hctx, h]

/-- A count of suppressed slots that suppresses none, below the largest count. -/
theorem Ctx.conflict_zero {y : Ctx} (h : y.brConflict.toNat < 2 ^ 32) : y.conflict 0 = y := by
  have hmin : min (y.brConflict.toNat + 0) 0xFFFFFFFF = y.brConflict.toNat := by omega
  unfold Ctx.conflict
  rw [hmin, BitVec.ofNat_toNat, BitVec.setWidth_eq]

theorem Ctx.countIssue_of_caps_nil {y : Ctx} (h : y.caps = []) (sel : Tab W64) (w n : Nat) :
    y.countIssue sel w n = y := by
  have hcount : ∀ code m, y.countBy sel code m = y := by
    intro code m
    unfold Ctx.countBy
    split
    · rfl
    · rw [h, List.map_nil, ← h]
  simp [Ctx.countIssue, hcount]

/-! ### The slots of a bundle, as `runSlots` runs them -/

/-- The executing slots that are no control slots, in the order in which they run. -/
def plainSlots (x : Ctx) (ops : List SlotOp) : List SlotOp :=
  let others := ops.filter fun o => (o.ctlKind x).isNone
  (others.filter SlotOp.isMcfg) ++ (others.filter fun o => o.isMatrix && !o.isMcfg) ++
    others.filter fun o => !o.isMatrix

/-- The control slots that R150 lets run, and how many it suppresses. -/
def controlSlots (x : Ctx) (ops : List SlotOp) : List SlotOp × Nat :=
  resolveCtl x (ops.filter fun o => (o.ctlKind x).isSome)

/-- Runs a slot unless one has held the bundle. -/
def State.runUnlessHeld (p : State × Option SlotOp) (o : SlotOp) : State × Option SlotOp :=
  match p.2 with
  | some _ => p
  | none =>
    let t := p.1.runSlot o
    if t.heldNow then (t, some o) else (t, none)

/-- What is counted between the other slots and the control slots: suppressed slots, and the issue of a bundle that ends
its task. -/
def State.beforeControl (t : State) (x : Ctx) (ops : List SlotOp) (w : Nat) : State :=
  let run := controlSlots x ops
  let go := t.focus.stops.isEmpty
  let t1 := if go then t.modCtx fun y => y.conflict run.2 else t
  if go && run.1.any fun o => o.ctlKind x == some .ending then
    t1.modCtx fun y => y.countIssue x.capEvent w ((plainSlots x ops).length + run.1.length)
  else t1

/-- The state that the executing slots leave, and the slot that has held the bundle. -/
def State.ranSlots (start : State) (x : Ctx) (ops : List SlotOp) (w : Nat) : State × Option SlotOp :=
  let r := (plainSlots x ops).foldl State.runUnlessHeld (start, none)
  (controlSlots x ops).1.foldl State.runUnlessHeld (r.1.beforeControl x ops w, r.2)

/-- Where no slot holds or stops the bundle, it issues, and what it does after its slots only counts. -/
theorem State.runSlots_issued {b u : State} {ops live : List SlotOp} {old : BitVec 14} {w wait : Nat}
    (hredo : b.ctx.redo = false) (hran : b.started.ranSlots b.was ops w = (u, none)) (hstops : u.focus.stops = [])
    (hstep : u.ctx.stepping = false) (c y : Nat) :
    ∃ t, b.runSlots ops live old w wait = .issued t w (ops.map SlotOp.slot) ∧ State.CountsOnly c y u t := by
  unfold State.runSlots
  extract_lets x f s0 start ctl others plain run step r1 t1 go n ends t1c t1c' r2 t2 t t' left t''
  have hstart : start = b.started := by
    dsimp only [start, s0]
    rw [State.modCtx_congr (g := fun y => { y with st := .ready, hold := .none, pc := b.focus.next, redo := false })]
    · rfl
    · simp [hredo, f]
  have hr2 : r2 = (u, none) := by
    rw [← hran, ← hstart]
    rfl
  have ht2 : t2 = u := congrArg Prod.fst hr2
  have ht : State.CountsOnly c y u t ∧ t.ctx.stepping = false := by
    dsimp only [t]
    rw [ht2]
    split
    · exact ⟨.refl, hstep⟩
    · refine ⟨.modCtx .countIssue, ?_⟩
      obtain ⟨caps, hcaps⟩ := Ctx.CountsOnly.countIssue (y := u.ctx) (sel := x.capEvent) (a := w) (n := n)
      rw [State.ctx_modCtx, hcaps]
      exact hstep
  have ht' : t' = t := by
    dsimp only [t']
    rw [ht.2]
    rfl
  have ht'' : State.CountsOnly c y t t'' := by
    dsimp only [t'']
    rw [ht']
    generalize left = l
    cases l with
    | none => exact .refl
    | some k => exact .trace
  split
  · next h => rw [hr2] at h; cases h
  · rw [ht2, hstops]
    refine ⟨_, rfl, ht.1.trans (ht''.trans (.trans ?_ .unfocus))⟩
    exact .modCell (.of_ctx_eq rfl)

/-- `MCFG` stands in the slots M0 and M1 only (R116), so that no slot runs twice. -/
theorem plainSlots_of_ctlKind_none {x : Ctx} {o : SlotOp} (h : o.ctlKind x = none)
    (hmat : o.isMcfg = true → o.isMatrix = true) : plainSlots x [o] = [o] := by
  have hothers : [o].filter (fun o => (o.ctlKind x).isNone) = [o] := by simp [h]
  unfold plainSlots
  rw [hothers]
  cases hcfg : o.isMcfg with
  | true => simp [hcfg, hmat hcfg]
  | false => cases hm : o.isMatrix <;> simp [hcfg, hm]

theorem plainSlots_of_ctlKind_some {x : Ctx} {o : SlotOp} {k : CtlKind} (h : o.ctlKind x = some k) :
    plainSlots x [o] = [] := by
  simp [plainSlots, h]

theorem controlSlots_of_ctlKind_none {x : Ctx} {o : SlotOp} (h : o.ctlKind x = none) :
    controlSlots x [o] = ([], 0) := by
  simp [controlSlots, h, resolveCtl]

theorem controlSlots_of_ctlKind_some {x : Ctx} {o : SlotOp} {k : CtlKind} (h : o.ctlKind x = some k) :
    controlSlots x [o] = ([o], 0) := by
  simp [controlSlots, h, resolveCtl]

theorem State.runSlot_of_next {s t : State} {o : SlotOp}
    (h : execSlot o.instr { s with focus := { s.focus with slot := o.slot } } = .next t) : s.runSlot o = t := by
  rw [State.runSlot, h]

theorem State.runUnlessHeld_of_free {s : State} {o : SlotOp} (h : (s.runSlot o).heldNow = false) :
    State.runUnlessHeld (s, none) o = (s.runSlot o, none) := by
  simp [State.runUnlessHeld, h]

/-- A bank as a bundle finds it that counts no captures and has suppressed fewer slots than the largest count: nothing
is to be counted before its control slots. -/
theorem State.beforeControl_started {b : State} {x : Ctx} {ops : List SlotOp} {w : Nat}
    (hsup : (controlSlots x ops).2 = 0) (hcaps : b.ctx.caps = []) (hconf : b.ctx.brConflict.toNat < 2 ^ 32) :
    b.started.beforeControl x ops w = b.started := by
  have hconflict : b.started.modCtx (fun y => y.conflict 0) = b.started :=
    State.modCtx_started (Ctx.conflict_zero (by rw [State.ctx_started]; exact hconf))
  have hcount (n : Nat) : b.started.modCtx (fun y => y.countIssue x.capEvent w n) = b.started :=
    State.modCtx_started (Ctx.countIssue_of_caps_nil (by rw [State.ctx_started]; exact hcaps) ..)
  unfold State.beforeControl
  simp only [hsup, hconflict, ite_self, hcount]

/-- Before no control slots nothing is counted. -/
theorem State.beforeControl_plain {u : State} {x : Ctx} {ops : List SlotOp} {w : Nat}
    (hctl : controlSlots x ops = ([], 0)) (hstops : u.focus.stops = []) :
    u.beforeControl x ops w = u.modCtx fun y => y.conflict 0 := by
  simp [State.beforeControl, hctl, hstops]

/-- A bundle whose guards are all false changes nothing but that it has issued. -/
theorem State.ranSlots_nil {b : State} {x : Ctx} {w : Nat} (hcaps : b.ctx.caps = [])
    (hconf : b.ctx.brConflict.toNat < 2 ^ 32) : b.started.ranSlots x [] w = (b.started, none) :=
  congrArg (·, none) (State.beforeControl_started rfl hcaps hconf)

/-- A bundle of which one slot executes, which neither holds nor stops it, leaves what that slot leaves. -/
theorem State.ranSlots_single {b u : State} {x : Ctx} {o : SlotOp} {w : Nat} (hu : b.started.runSlot o = u)
    (hmat : o.isMcfg = true → o.isMatrix = true) (hcaps : b.ctx.caps = [])
    (hconf : b.ctx.brConflict.toNat < 2 ^ 32) (hstops : u.focus.stops = []) (hheld : u.heldNow = false)
    (huconf : u.ctx.brConflict.toNat < 2 ^ 32) (c y : Nat) :
    ∃ v, b.started.ranSlots x [o] w = (v, none) ∧ State.CountsOnly c y u v ∧ v.focus = u.focus ∧ v.ctx = u.ctx := by
  have hrun : State.runUnlessHeld (b.started, none) o = (u, none) := by
    subst hu
    exact State.runUnlessHeld_of_free hheld
  cases hk : o.ctlKind x with
  | none =>
    have hctl := controlSlots_of_ctlKind_none hk
    have hsame : u.ctx.conflict 0 = u.ctx := Ctx.conflict_zero huconf
    refine ⟨u.modCtx fun y => y.conflict 0, ?_, .modCtx ?_, rfl, ?_⟩
    · simp only [State.ranSlots, plainSlots_of_ctlKind_none hk hmat, hctl, List.foldl, hrun,
        State.beforeControl_plain hctl hstops]
    · rw [hsame]
      exact .refl
    · rw [State.ctx_modCtx, hsame]
  | some k =>
    have hctl := controlSlots_of_ctlKind_some hk
    refine ⟨u, ?_, .refl, rfl, rfl⟩
    simp only [State.ranSlots, plainSlots_of_ctlKind_some hk, hctl, List.foldl,
      State.beforeControl_started (congrArg Prod.snd hctl) hcaps hconf, hrun]

end Sys2Proof.Machine
end

section
/-! Presenting a bundle of one slot: nothing stands between it and the run of its slot. -/

namespace Sys2Proof.Machine
open Sys2Proof

/-- The header of the bundle that a context presents. -/
abbrev State.headerAt (s : State) (c : Nat) (y : Ctx) : Header := decodeHeader (s.fetch c y.pc)

/-- The slot word behind that header. -/
abbrev State.wordAt (s : State) (c : Nat) (y : Ctx) : W32 := s.fetch c (y.pc + 4)

/-- Context `x`, with the bank `y`, presents a bundle of one legal slot, slot `n` with the instruction `i`, which no
fault, breakpoint, step or interlock stops. -/
structure State.PresentsOne (s : State) (c x n : Nat) (i : Instr) (y : Ctx) : Prop where
  bank : s.ctxOf c x = y
  slots : (s.headerAt c y).slots = [n]
  good : (s.headerAt c y).bad = false
  inStore : y.pc + 8 ≤ 0x20000
  decodes : decodeSlot n (s.wordAt c y) = .ok i
  legal : firstOffence y.pc (s.headerAt c y).vb [(n, s.wordAt c y)] [] false = none
  allowed : y.supervisor = true ∨ i.privileged = false
  poison : s.poison = []
  replay : s.replayEnded c = false
  stepping : y.stepping = false
  stepDone : y.stepDone = false
  bps : ∀ m, m < 8 → ((s.cell c).bps.get 0 m).getLsbD 0 = false
  late : y.late = []
  redo : y.redo = false
  awaits : y.awaits = []
  land : y.land = []
  special : (s.cell c).lastF = none ∨ i.special = false

/-- The slot operation of that bundle. -/
abbrev State.opAt (s : State) (c : Nat) (y : Ctx) (n : Nat) (i : Instr) : SlotOp := ⟨n, guardOf (s.wordAt c y), i⟩

/-- The slot of that bundle that executes: none where its guard is false. -/
abbrev State.opsAt (s : State) (c : Nat) (y : Ctx) (n : Nat) (i : Instr) : List SlotOp :=
  if y.pr (guardOf (s.wordAt c y)) then [s.opAt c y n i] else []

/-- The state in which a slot of that bundle runs. -/
abbrev State.focused (s : State) (c x n : Nat) (y : Ctx) : State :=
  { s with
    focus := ⟨c, x, n, y.pc, y.pc + 8, (s.headerAt c y).vb, true, []⟩
    snap := some (s.cell c) }

/-- The number of the slot in focus is no part of what counts. -/
theorem State.CountsOnly.focusedSlot {s : State} {c x j z : Nat} {y : Ctx} (n m : Nat) :
    State.CountsOnly j z (s.focused c x n y).started (s.focused c x m y).started :=
  ⟨.of_ctx_eq rfl, rfl, rfl, rfl, rfl, rfl, rfl, rfl, rfl, rfl⟩

/-- Without comparators that are on, nothing fires. -/
theorem State.breakpoints_of_off {s : State} {c : Nat} (h : ∀ m, m < 8 → ((s.cell c).bps.get 0 m).getLsbD 0 = false)
    (x pc : Nat) (live : List (Nat × W32)) : s.breakpoints c x pc live = [] := by
  unfold State.breakpoints
  dsimp only
  split
  · rfl
  · refine List.filter_eq_nil_iff.2 fun m hm => ?_
    unfold bpFires
    rw [h m (List.mem_range.1 hm)]
    simp

theorem State.poisoned_of_nil {s : State} (h : s.poison = []) (key n : Nat) : s.poisoned key n = false := by
  simp [State.poisoned, h]

/-- Without results that are awaited or in flight, no interlock holds. -/
theorem Ctx.stall_of_nil {y : Ctx} (hawaits : y.awaits = []) (hland : y.land = []) (vb : Bool) (ops : List SlotOp) :
    y.stall vb ops = none := by
  simp [Ctx.stall, hawaits, hland]

theorem State.exposed_of_land_nil {s : State} {c x : Nat} (h : (s.ctxOf c x).land = []) (vb : Bool)
    (ops : List SlotOp) : s.exposed c x vb ops = (s.cell c, s) := by
  have hland : ((s.cell c).ctx x).land = [] := h
  simp [State.exposed, hland, sortBy]

theorem Cell.spaced_of_unspecial {k : Cell} {now : Nat} {ops : List SlotOp}
    (h : k.lastF = none ∨ ∀ o ∈ ops, o.instr.special = false) : k.spaced now ops = false := by
  unfold Cell.spaced
  split
  · next t ht =>
    obtain hnone | hops := h
    · rw [hnone] at ht
      cases ht
    · have hany : ops.any (fun o => o.instr.special) = false := by simpa using hops
      rw [hany]
      rfl
  · rfl

namespace State.PresentsOne
variable {s : State} {c x n : Nat} {i : Instr} {y : Ctx}

theorem bytes (h : s.PresentsOne c x n i y) : Header.bytes (s.headerAt c y) = 8 := by
  simp [Header.bytes, h.slots]

theorem slotWords (h : s.PresentsOne c x n i y) :
    s.slotWords c y.pc (s.headerAt c y) = [(n, s.wordAt c y)] := by
  simp [State.slotWords, h.slots]

theorem slotOps (h : s.PresentsOne c x n i y) : Machine.slotOps [(n, s.wordAt c y)] = [s.opAt c y n i] := by
  simp [Machine.slotOps, h.decodes]

theorem bundleFault (h : s.PresentsOne c x n i y) : s.bundleFault c y.pc (s.headerAt c y) = none := by
  have hstore : ¬0x20000 < y.pc + 8 := by
    have := h.inStore
    omega
  simp only [State.bundleFault, h.bytes, h.good, h.slotWords, h.legal, hstore, Bool.false_eq_true, or_self, if_false]

theorem inFocus (h : s.PresentsOne c x n i y) (ops : List SlotOp) :
    s.inFocus c x y.pc (s.headerAt c y) ops = s.focused c x 15 y := by
  unfold State.inFocus
  rw [State.exposed_of_land_nil (h.bank ▸ h.land), h.bytes]

theorem present (h : s.PresentsOne c x n i y)
    (hstay : y.pr (guardOf (s.wordAt c y)) = true → (s.focused c x n y).matrixStall i = none) :
    s.present c x = (s.focused c x 15 y).runSlots (s.opsAt c y n i) [s.opAt c y n i] 0
      (bundleWeight (isC c) (s.headerAt c y).vb (s.opsAt c y n i)) (s.headerAt c y).wait.toNat := by
  have hclean (k pc : Nat) : ((List.range k).find? fun j => s.poisoned (flat c 2 (pc + 4 * j)) 4) = none :=
    List.find?_eq_none.2 fun j _ => by simp [State.poisoned_of_nil h.poison]
  have hallowed : (if y.supervisor then none
      else [s.opAt c y n i].find? fun o => o.instr.privileged) = none := by
    obtain hsup | hpriv := h.allowed
    · rw [hsup]
      rfl
    · simp [hpriv]
  have hlive : [s.opAt c y n i].filter (fun o => !(0 : BitVec 14).getLsbD o.slot) = [s.opAt c y n i] := by simp
  have hops : [s.opAt c y n i].filter (fun o => y.pr o.guard) = s.opsAt c y n i := by
    simp [List.filter_cons]
  have hspaced : (s.cell c).spaced (s.clock c) (s.opsAt c y n i) = false := by
    refine Cell.spaced_of_unspecial (h.special.imp_right fun hi o ho => ?_)
    simp only [State.opsAt, List.mem_ite_nil_right, List.mem_singleton] at ho
    rw [ho.2]
    exact hi
  have hstays : (s.opsAt c y n i).findSome? (fun o => (s.focused c x o.slot y).matrixStall o.instr) = none := by
    refine List.findSome?_eq_none_iff.2 fun o ho => ?_
    simp only [State.opsAt, List.mem_ite_nil_right, List.mem_singleton] at ho
    rw [ho.2]
    exact hstay ho.1
  unfold State.present
  simp only [h.bank, h.stepDone, h.late, h.replay, h.redo, Bool.false_eq_true, if_false, hclean, h.slotWords, h.slotOps,
    State.breakpoints_of_off h.bps, ite_self, h.bundleFault]
  rw [hallowed]
  simp only [hlive, Ctx.stall_of_nil h.awaits h.land, hops, h.inFocus, hstays, hspaced, Bool.false_eq_true, if_false]

end State.PresentsOne

end Sys2Proof.Machine
end

section
/-! The turn of a cell that is free to issue. -/

namespace Sys2Proof.Machine
open Sys2Proof

/-- A cycle that the weight of a bundle does not freeze is frozen by no bundle of weight 0. -/
theorem Cell.freezes_zero {k : Cell} {cycle w : Nat} (h : k.freezes cycle w = false) : k.freezes cycle 0 = false := by
  simp only [Cell.freezes, Bool.and_eq_false_iff, decide_eq_false_iff_not, Bool.not_eq_false', Bool.and_eq_true,
    decide_eq_true_eq, beq_iff_eq] at h ⊢
  omega

/-- A cell that is free to issue presents the bundle of the context that holds the issue slot. -/
theorem State.cellCycle_presents {s : State} {c x w : Nat} (hcur : (s.cell c).cur = some x)
    (hrun : (s.cell c).runnable x = true) (hbusy : (s.cell c).busyTil ≤ s.clock c) (hload : (s.cell c).loading = false)
    (hfroze : (s.cell c).froze = false) (hfree : (s.cell c).freezes s.cycle w = false) :
    s.cellCycle c = s.issueOf c x := by
  have hselected : (s.cell c).selected = some x := by simp [Cell.selected, hcur, hrun]
  have hswitch : (s.cell c).switches x = false := by simp [Cell.switches, hcur]
  have htime : ¬s.clock c < (s.cell c).busyTil := by omega
  simp [State.cellCycle, hload, hfroze, Cell.freezes_zero hfree, htime, hselected, hswitch]

/-- After a bundle that has issued, the rest of the cycle only counts. -/
theorem State.issueOf_issued {s t : State} {c x w : Nat} {fired : List Nat}
    (hissued : (s.modCell c fun k => { k with home := some x, switched := false }).present c x = .issued t w fired)
    (hcur : (s.cell c).cur = some x) (hfree : (s.cell c).freezes s.cycle w = false) (j y : Nat) :
    State.CountsOnly j y t (s.issueOf c x) := by
  unfold State.issueOf
  simp only [hissued, hcur, hfree, bne_self_eq_false, Bool.false_eq_true, if_false]
  refine .trans ?_ .endCycle
  exact .modCell (.of_ctx_eq rfl)

/-- The presented bundle runs its instruction, if its guard is true, past the bundle, and issues unless that stops or
holds it. -/
theorem State.PresentsOne.issues {s : State} {c x n : Nat} {i : Instr} {y : Ctx} (h : s.PresentsOne c x n i y)
    (hcaps : y.caps = []) (hconf : y.brConflict.toNat < 2 ^ 32)
    (hstay : y.pr (guardOf (s.wordAt c y)) = true → (s.focused c x n y).matrixStall i = none) :
    ∃ u, (if y.pr (guardOf (s.wordAt c y)) then exec i (s.focused c x n y).started
        else .next (s.focused c x n y).started) = .next u ∧
      (u.focus = (s.focused c x n y).started.focus → u.heldNow = false → u.ctx.brConflict.toNat < 2 ^ 32 →
        u.ctx.stepping = false →
        ∃ t, s.present c x = .issued t (bundleWeight (isC c) (s.headerAt c y).vb (s.opsAt c y n i))
            ((s.opsAt c y n i).map SlotOp.slot) ∧ State.CountsOnly c x u t) := by
  have hbank : (s.focused c x 15 y).ctx = y := h.bank
  have hb1 : (s.focused c x 15 y).ctx.caps = [] := by rw [hbank]; exact hcaps
  have hb2 : (s.focused c x 15 y).ctx.brConflict.toNat < 2 ^ 32 := by rw [hbank]; exact hconf
  have hb3 : (s.focused c x 15 y).ctx.redo = false := by rw [hbank]; exact h.redo
  rw [h.present hstay]
  by_cases hguard : y.pr (guardOf (s.wordAt c y)) = true
  · obtain ⟨hexec, hmat⟩ := decodeSlot_means h.decodes
    obtain ⟨u, hu⟩ := execSlot_next i (s.focused c x n y).started
    refine ⟨u, ?_, fun hfocus hheld huconf hstep => ?_⟩
    · rw [if_pos hguard, ← hexec, hu]
    have hslot : (s.focused c x 15 y).started.runSlot (s.opAt c y n i) = u := State.runSlot_of_next hu
    have hstops : u.focus.stops = [] := by rw [hfocus]; rfl
    obtain ⟨v, hran, hcounts, hvfocus, hvctx⟩ :=
      State.ranSlots_single (x := (s.focused c x 15 y).was)
        (w := bundleWeight (isC c) (s.headerAt c y).vb [s.opAt c y n i]) hslot (hmat _) hb1 hb2 hstops hheld huconf c x
    rw [State.opsAt, if_pos hguard]
    obtain ⟨t, ht, hcounts'⟩ := State.runSlots_issued (live := [s.opAt c y n i]) (old := 0)
      (wait := (s.headerAt c y).wait.toNat) hb3 hran (by rw [hvfocus, hstops]) (by rw [hvctx, hstep]) c x
    exact ⟨t, ht, hcounts.trans hcounts'⟩
  · refine ⟨(s.focused c x n y).started, if_neg hguard, fun _ _ _ hstep => ?_⟩
    have hran := State.ranSlots_nil (x := (s.focused c x 15 y).was)
      (w := bundleWeight (isC c) (s.headerAt c y).vb []) hb1 hb2
    rw [State.opsAt, if_neg hguard]
    obtain ⟨t, ht, hcounts⟩ := State.runSlots_issued (live := [s.opAt c y n i]) (old := 0)
      (wait := (s.headerAt c y).wait.toNat) hb3 hran rfl hstep c x
    exact ⟨t, ht, (State.CountsOnly.focusedSlot n 15).trans hcounts⟩

/-- The turn of a cell that presents a bundle of one slot, free to issue: it runs the instruction, if its guard is true,
past the bundle, and then only counts. -/
theorem State.cellCycle_runs {s s3 : State} {c x n : Nat} {i : Instr} {y : Ctx}
    (hs3 : s3 = s.modCell c fun k => { k with home := some x, switched := false }) (h : s3.PresentsOne c x n i y)
    (hcur : (s.cell c).cur = some x) (hrun : (s.cell c).runnable x = true) (hbusy : (s.cell c).busyTil ≤ s.clock c)
    (hload : (s.cell c).loading = false) (hfroze : (s.cell c).froze = false) (hcaps : y.caps = [])
    (hconf : y.brConflict.toNat < 2 ^ 32)
    (hstay : y.pr (guardOf (s3.wordAt c y)) = true → (s3.focused c x n y).matrixStall i = none)
    (hfree : (s.cell c).freezes s.cycle (bundleWeight (isC c) (s3.headerAt c y).vb (s3.opsAt c y n i)) = false) :
    ∃ u, (if y.pr (guardOf (s3.wordAt c y)) then exec i (s3.focused c x n y).started
        else .next (s3.focused c x n y).started) = .next u ∧
      (u.focus = (s3.focused c x n y).started.focus → u.heldNow = false → u.ctx.brConflict.toNat < 2 ^ 32 →
        u.ctx.stepping = false → State.CountsOnly c x u (s.cellCycle c)) := by
  obtain ⟨u, hu, hissues⟩ := h.issues hcaps hconf hstay
  refine ⟨u, hu, fun hfocus hheld huconf hstep => ?_⟩
  obtain ⟨t, hissued, hcounts⟩ := hissues hfocus hheld huconf hstep
  rw [State.cellCycle_presents hcur hrun hbusy hload hfroze hfree]
  rw [hs3] at hissued
  exact hcounts.trans (State.issueOf_issued hissued hcur (hs3 ▸ hfree) c x)

/-- A replay's end is read from the die's registers, the log's memory and the cell's count of records alone. -/
theorem State.replayEnded_modCell {s : State} {c : Nat} {f : Cell → Cell}
    (h : (f (s.cell c)).recStat = (s.cell c).recStat) : (s.modCell c f).replayEnded c = s.replayEnded c := by
  have hnext : (s.modCell c f).recNext c = s.recNext c := by simp [State.recNext, h]
  unfold State.replayEnded State.recKindNext State.recNextBytes
  rw [hnext]
  rfl

end Sys2Proof.Machine
end

section
/-! One step: the event that moves next, and the turn of a cell that runs what its bundle decodes to. -/

namespace Sys2Proof.Machine
open Sys2Proof

theorem step_of_nextMove_event {s t : State} {e : Event} (h : s.nextMove = (some e, t)) :
    step s = exec e.instr { t with args := e.args } := by
  rw [step, h]

theorem step_of_nextMove_clock {s t : State} (h : s.nextMove = (none, t)) : step s = .next t := by
  rw [step, h]

/-- With nothing in flight and nothing due, the cell whose turn it is issues (R16). -/
theorem State.nextMove_turn {s : State} {c : Nat} {rest : List Nat} (hsched : s.sched = []) (hagenda : s.agenda = [])
    (htimer : s.timerDue = none) (halarm : s.alarmDue = none) (hdue : s.active.findSome? s.cellDue = none)
    (hturn : s.turn = c :: rest) : s.nextMove = (some ⟨.bundleIssue, { Args.empty with c := c }⟩, s) := by
  simp only [State.nextMove, hsched, State.defaultMove, hagenda, htimer, halarm, hdue, hturn]

/-- Settles O50. The turn of the cell is `cellCycle_runs`; the bank it presents is that of the state before, since the
issue slot's own fields are all that stands between them. -/
theorem stepRunsDecoded : Obligations.StepRunsDecoded := by
  intro s
  refine ⟨fun e t => step_of_nextMove_event, fun t => step_of_nextMove_clock,
    fun c rest => State.nextMove_turn, fun n w i h => (decodeSlot_means h).1, ?_⟩
  intro c x n i now s2 k s3 y pc h w runs ops base f hcur hrun hbusy hload hfroze hslots hbad hpc hdecodes hlegal
    hallowed hpoison hreplay hbps hstepping hstepDone hlate hredo hcaps hconf hawaits hland hspecial hstay hfree
  have hcell : s3.cell c = { k with home := some x, switched := false } := by simp [s3, k]
  have hone : s3.PresentsOne c x n i y :=
    { bank := by rw [State.ctxOf, hcell]; rfl
      slots := hslots
      good := hbad
      inStore := hpc
      decodes := hdecodes
      legal := hlegal
      allowed := hallowed
      poison := hpoison
      replay := (State.replayEnded_modCell rfl).trans hreplay
      stepping := hstepping
      stepDone := hstepDone
      bps := by rw [hcell]; exact hbps
      late := hlate
      redo := hredo
      awaits := hawaits
      land := hland
      special := by rw [hcell]; exact hspecial }
  obtain ⟨u, hu, hcounts⟩ := State.cellCycle_runs rfl hone hcur hrun hbusy hload hfroze hcaps hconf hstay hfree
  refine ⟨s2.cellCycle c, rfl, fun r hr => (step_of_nextMove_event hr).trans rfl, u, hu, ?_⟩
  intro hfocus hheld huconf hstep
  obtain ⟨hbank, hmem, hfull, hpois, hdies, hpkg, htimers, halarms, hcycle, htime⟩ :=
    hcounts hfocus hheld huconf hstep
  exact ⟨hbank, hmem, hfull, hpois, hdies, hpkg, htimers, halarms, hcycle, htime⟩

end Sys2Proof.Machine
end

section
/-! Rounding (R53): a magnitude is compared as a rational number, the rounded integer brackets the exact quotient, and
magnitude codes read back as multiples of the quantum of rounding. -/

namespace Sys2Proof.Machine
open Sys2Proof

/-! ## Scaled numbers as rationals -/

/-- The rational number m × 2^e. -/
def scaled (a : Nat × Int) : ℚ := a.1 * 2 ^ a.2

theorem scaled_shift (m : Nat) {e k : Int} (h : k ≤ e) : ((m * 2 ^ (e - k).toNat : Nat) : ℚ) * 2 ^ k = scaled (m, e) := by
  have he : e = ((e - k).toNat : Int) + k := by omega
  conv_rhs => rw [scaled, he, zpow_add₀ two_ne_zero, zpow_natCast]
  push_cast
  ring

/-- Integers brought to the smaller exponent compare as the numbers themselves. -/
theorem shifted_lt_iff_scaled_lt (a b : Nat × Int) :
    a.1 * 2 ^ (a.2 - min a.2 b.2).toNat < b.1 * 2 ^ (b.2 - min a.2 b.2).toNat ↔ scaled a < scaled b := by
  rw [← scaled_shift a.1 (min_le_left a.2 b.2), ← scaled_shift b.1 (min_le_right a.2 b.2),
    mul_lt_mul_iff_left₀ (by positivity), Nat.cast_lt]

/-- A magnitude other than 0 lies in the binade of its leading bit. -/
theorem scaled_mem_binade {m : Nat} (e : Int) (h : m ≠ 0) :
    (2 : ℚ) ^ (e + (Nat.log2 m : Int)) ≤ scaled (m, e) ∧ scaled (m, e) < 2 ^ (e + (Nat.log2 m : Int) + 1) := by
  have hlo : (2 : ℚ) ^ Nat.log2 m ≤ m := by exact_mod_cast Nat.log2_self_le h
  have hhi : (m : ℚ) < 2 ^ (Nat.log2 m + 1) := by exact_mod_cast Nat.lt_log2_self
  have hpos : (0 : ℚ) < 2 ^ e := by positivity
  constructor
  · rw [zpow_add₀ two_ne_zero, zpow_natCast, mul_comm]
    exact mul_le_mul_of_nonneg_right hlo hpos.le
  · rw [add_assoc, zpow_add₀ two_ne_zero, mul_comm]
    exact mul_lt_mul_of_pos_right (by exact_mod_cast hhi) hpos

/-! ## The rounded integer -/

/-- Every mode gives the integer below or the one above, with one notion of inexact. -/
theorem roundAt_eq_or_succ (rm : RMode) (neg : Bool) (m : Nat) (e q : Int) :
    (roundAt rm neg m e q).2 = (roundAt .rtz false m e q).2 ∧
    ((roundAt rm neg m e q).1 = (roundAt .rtz false m e q).1 ∨
      (roundAt rm neg m e q).1 = (roundAt .rtz false m e q).1 + 1) := by
  unfold roundAt
  split
  · exact ⟨rfl, .inl rfl⟩
  · refine ⟨rfl, ?_⟩
    simp only [roundShift, Bool.false_eq_true, if_false]
    exact (ite_eq_or_eq ..).symm

/-- Upward, a positive value goes to the integer above exactly when it is inexact. -/
theorem roundAt_rup (m : Nat) (e q : Int) :
    (roundAt .rup false m e q).1 = (roundAt .rtz false m e q).1 + (roundAt .rtz false m e q).2.toNat := by
  unfold roundAt
  split
  · rfl
  · simp only [roundShift, Bool.not_false, Bool.true_and, Bool.false_eq_true, if_false]
    cases m % 2 ^ (q - e).toNat != 0 <;> rfl

/-- The integer toward zero brackets the exact number of quanta, which it equals exactly when the result is not inexact. -/
theorem roundAt_rtz_brackets (m : Nat) (e q : Int) :
    let r := roundAt .rtz false m e q
    scaled (r.1, q) ≤ scaled (m, e) ∧ scaled (m, e) < scaled (r.1 + 1, q) ∧
    (r.2 = true ↔ scaled (r.1, q) < scaled (m, e)) := by
  have hpos : (0 : ℚ) < 2 ^ q := by positivity
  unfold roundAt
  split
  next h =>
    have hx : scaled (m * 2 ^ (e - q).toNat, q) = scaled (m, e) := scaled_shift m h
    refine ⟨hx.le, ?_, by simp [hx]⟩
    rw [← hx, scaled, scaled]
    exact mul_lt_mul_of_pos_right (by exact_mod_cast Nat.lt_succ_self _) hpos
  next h =>
    set d := (q - e).toNat
    have hq : ∀ n : Nat, scaled (n, q) = scaled (n * 2 ^ d, e) := fun n => (scaled_shift n (by omega)).symm
    have hmono : ∀ x y : Nat, scaled (x, e) < scaled (y, e) ↔ x < y := fun x y => by
      rw [scaled, scaled, mul_lt_mul_iff_left₀ (by positivity), Nat.cast_lt]
    have hdiv := Nat.div_add_mod' m (2 ^ d)
    have hmod := Nat.mod_lt m (Nat.two_pow_pos d)
    simp only [roundShift, Bool.false_eq_true, if_false, hq, ← not_lt, hmono, bne_iff_ne, Nat.add_one_mul]
    omega

/-! ## Codes -/

/-- The exponent of the last place of m × 2^e in a format: that of its binade, at least that of the subnormals. -/
def Fmt.quantum (f : Fmt) (m : Nat) (e : Int) : Int := max (e + (Nat.log2 m : Int)) f.emin - f.M

/-- The codes of a format count quanta: those of the subnormals first, then 2^M for each binade. -/
theorem Fmt.code_of_pos (f : Fmt) (rm : RMode) (neg : Bool) {m : Nat} (e : Int) (h : m ≠ 0) :
    (f.code rm neg m e).1 =
      (f.quantum m e - (f.emin - f.M)).toNat * 2 ^ f.M + (roundAt rm neg m e (f.quantum m e)).1 ∧
    (f.code rm neg m e).2.1 = (roundAt rm neg m e (f.quantum m e)).2 := by
  simp [Fmt.code, h, Fmt.quantum]

theorem Fmt.mag_subnormal (f : Fmt) {c : Nat} (h : c < 2 ^ f.M) : f.mag c = (c, f.emin - f.M) := by
  simp [Fmt.mag, Nat.div_eq_of_lt h, Nat.mod_eq_of_lt h]

theorem Fmt.mag_normal (f : Fmt) (p : Nat) {r : Nat} (hlo : 2 ^ f.M ≤ r) (hhi : r < 2 ^ (f.M + 1)) :
    f.mag (p * 2 ^ f.M + r) = (r, f.emin - f.M + p) := by
  obtain ⟨k, rfl⟩ := Nat.exists_eq_add_of_le hlo
  have hk : k < 2 ^ f.M := by rw [pow_succ] at hhi; omega
  have hc : p * 2 ^ f.M + (2 ^ f.M + k) = k + 2 ^ f.M * (p + 1) := by ring
  have hdiv : (p * 2 ^ f.M + (2 ^ f.M + k)) / 2 ^ f.M = p + 1 := by
    rw [hc, Nat.add_mul_div_left _ _ (Nat.two_pow_pos _), Nat.div_eq_of_lt hk, Nat.zero_add]
  have hmod : (p * 2 ^ f.M + (2 ^ f.M + k)) % 2 ^ f.M = k := by
    rw [hc, Nat.add_mul_mod_self_left, Nat.mod_eq_of_lt hk]
  simp [Fmt.mag, hdiv, hmod]

/-- Code p × 2^M + r has the value of r quanta of binade p, the carry into the next binade included. -/
theorem Fmt.scaled_mag (f : Fmt) (p r : Nat) (hlo : p = 0 ∨ 2 ^ f.M ≤ r) (hhi : r ≤ 2 ^ (f.M + 1)) :
    scaled (f.mag (p * 2 ^ f.M + r)) = scaled (r, f.emin - f.M + p) := by
  rcases Nat.lt_or_ge r (2 ^ f.M) with hsub | hnorm
  · obtain rfl : p = 0 := hlo.resolve_right (by omega)
    simp [f.mag_subnormal hsub]
  · rcases hhi.lt_or_eq with hlt | rfl
    · rw [f.mag_normal p hnorm hlt]
    · have hc : p * 2 ^ f.M + 2 ^ (f.M + 1) = (p + 1) * 2 ^ f.M + 2 ^ f.M := by ring
      rw [hc, f.mag_normal (p + 1) le_rfl (by rw [pow_succ]; have := Nat.two_pow_pos f.M; omega),
        ← scaled_shift (2 ^ f.M) (k := f.emin - f.M + p) (by push_cast; omega)]
      simp [scaled, pow_succ]

/-- Toward zero, a code of m × 2^e leaves room for the next one, and reaches its binade. -/
theorem Fmt.roundAt_quantum_bounds (f : Fmt) {m : Nat} (e : Int) (h : m ≠ 0) :
    ((f.quantum m e - (f.emin - f.M)).toNat = 0 ∨ 2 ^ f.M ≤ (roundAt .rtz false m e (f.quantum m e)).1) ∧
    (roundAt .rtz false m e (f.quantum m e)).1 < 2 ^ (f.M + 1) := by
  obtain ⟨hle, hlt, -⟩ := roundAt_rtz_brackets m e (f.quantum m e)
  obtain ⟨hblo, hbhi⟩ := scaled_mem_binade e h
  generalize (roundAt .rtz false m e (f.quantum m e)).1 = t at *
  have hpow : ∀ n : Nat, (2 : ℚ) ^ (f.quantum m e + n) = scaled (2 ^ n, f.quantum m e) := fun n => by
    rw [zpow_add₀ two_ne_zero, zpow_natCast, scaled, mul_comm]; push_cast; rfl
  have hmono : ∀ x y : Nat, scaled (x, f.quantum m e) < scaled (y, f.quantum m e) → x < y := fun x y hxy => by
    rw [scaled, scaled, mul_lt_mul_iff_left₀ (by positivity)] at hxy
    exact_mod_cast hxy
  constructor
  · by_cases hp : e + (Nat.log2 m : Int) ≤ f.emin
    · left; unfold Fmt.quantum; omega
    · right
      have hq : e + (Nat.log2 m : Int) = f.quantum m e + f.M := by unfold Fmt.quantum; omega
      rw [hq, hpow] at hblo
      exact Nat.lt_succ_iff.1 (hmono _ _ (hblo.trans_lt hlt))
  · have hq : (2 : ℚ) ^ (e + (Nat.log2 m : Int) + 1) ≤ 2 ^ (f.quantum m e + ((f.M + 1 : Nat) : Int)) :=
      zpow_le_zpow_right₀ one_le_two (by unfold Fmt.quantum; push_cast; omega)
    rw [hpow] at hq
    exact hmono _ _ (hle.trans_lt (hbhi.trans_le hq))

/-- Rounded toward zero, a magnitude lies between its code's value and the next one's. -/
theorem Fmt.code_rtz_brackets (f : Fmt) {m : Nat} (e : Int) (h : m ≠ 0) :
    let z := f.code .rtz false m e
    scaled (f.mag z.1) ≤ scaled (m, e) ∧ scaled (m, e) < scaled (f.mag (z.1 + 1)) ∧
    (z.2.1 = true ↔ scaled (f.mag z.1) < scaled (m, e)) := by
  obtain ⟨hcode, hnx⟩ := f.code_of_pos .rtz false e h
  obtain ⟨hlo, hhi⟩ := f.roundAt_quantum_bounds e h
  have hq : f.emin - f.M + ((f.quantum m e - (f.emin - f.M)).toNat : Int) = f.quantum m e := by
    unfold Fmt.quantum; omega
  have hz := f.scaled_mag _ _ hlo hhi.le
  have hz' := f.scaled_mag _ _ (hlo.imp_right Nat.le_succ_of_le) (Nat.succ_le_of_lt hhi)
  rw [hq] at hz hz'
  simp only [hcode, hnx, hz, Nat.add_assoc _ _ 1, hz']
  exact roundAt_rtz_brackets m e _

/-- Settles O36, for every format: the bracket of `Fmt.code_rtz_brackets`, with every mode one of its two ends. -/
theorem roundingIsDirected : Obligations.RoundingIsDirected := by
  intro f m e _ hm
  have h : m ≠ 0 := hm.ne'
  obtain ⟨hle, hlt, hnx⟩ := f.code_rtz_brackets e h
  obtain ⟨hz, hz2⟩ := f.code_of_pos .rtz false e h
  obtain ⟨hu, -⟩ := f.code_of_pos .rup false e h
  refine ⟨mt (shifted_lt_iff_scaled_lt (m, e) _).1 hle.not_gt, (shifted_lt_iff_scaled_lt (m, e) _).2 hlt,
    hnx.trans (shifted_lt_iff_scaled_lt _ (m, e)).symm, fun hx => ?_, fun hx => ?_, fun rm => ?_⟩
  · rw [hz2] at hx
    rw [hu, hz, roundAt_rup, hx]
    rfl
  · rw [hz2] at hx
    rw [hu, hz, roundAt_rup, hx]
    rfl
  · obtain ⟨hr, hr2⟩ := f.code_of_pos rm false e h
    obtain ⟨hsame, hends⟩ := roundAt_eq_or_succ rm false m e (f.quantum m e)
    rw [hr, hr2, hz, hz2]
    exact ⟨hsame, hends.imp (congrArg _) (congrArg _)⟩

end Sys2Proof.Machine
end

section
/-! FP32 operands (R45, R55) by their codes, rounding of what a code already holds, and the corners of IEEE 754 (R56). -/

namespace Sys2Proof.Machine
open Sys2Proof

/-! ## Rounding what a code holds -/

/-- The value of a magnitude code other than 0 has the code's own quantum for its exponent. -/
theorem Fmt.quantum_mag (f : Fmt) {k : Nat} (h : k ≠ 0) :
    (f.mag k).1 ≠ 0 ∧ f.quantum (f.mag k).1 (f.mag k).2 = (f.mag k).2 ∧
    ((f.mag k).2 - (f.emin - f.M)).toNat * 2 ^ f.M + (f.mag k).1 = k := by
  rcases Nat.lt_or_ge k (2 ^ f.M) with hsub | hnorm
  · have hlog : Nat.log2 k < f.M := (Nat.log2_lt h).2 hsub
    rw [f.mag_subnormal hsub]
    refine ⟨h, ?_, by simp⟩
    simp only [Fmt.quantum]
    omega
  · have hmod := Nat.mod_lt k (Nat.two_pow_pos f.M)
    have hdiv := Nat.div_pos hnorm (Nat.two_pow_pos f.M)
    have hk : (k / 2 ^ f.M - 1) * 2 ^ f.M + (2 ^ f.M + k % 2 ^ f.M) = k := by
      rw [← Nat.add_assoc, ← Nat.succ_mul, Nat.succ_eq_add_one, Nat.sub_add_cancel hdiv, Nat.div_add_mod']
    have hlt : 2 ^ f.M + k % 2 ^ f.M < 2 ^ (f.M + 1) := by rw [pow_succ]; omega
    have hpos : 2 ^ f.M + k % 2 ^ f.M ≠ 0 := by have := Nat.two_pow_pos f.M; omega
    have hmag := f.mag_normal (k / 2 ^ f.M - 1) (Nat.le_add_right _ (k % 2 ^ f.M)) hlt
    rw [hk] at hmag
    have hlog : Nat.log2 (2 ^ f.M + k % 2 ^ f.M) = f.M :=
      (Nat.log2_eq_iff hpos).2 ⟨Nat.le_add_right .., hlt⟩
    rw [hmag]
    refine ⟨hpos, ?_, ?_⟩
    · simp only [Fmt.quantum, hlog]
      omega
    · simpa using hk

/-- A magnitude that a code holds rounds to that code, exactly, in every mode. -/
theorem Fmt.code_mag (f : Fmt) (rm : RMode) (neg : Bool) (k : Nat) :
    (f.code rm neg (f.mag k).1 (f.mag k).2).1 = k ∧ (f.code rm neg (f.mag k).1 (f.mag k).2).2.1 = false := by
  by_cases h : k = 0
  · subst h
    simp [f.mag_subnormal (Nat.two_pow_pos _), Fmt.code]
  · obtain ⟨hm, hq, hk⟩ := f.quantum_mag h
    obtain ⟨hcode, hnx⟩ := f.code_of_pos rm neg (f.mag k).2 hm
    have hround : roundAt rm neg (f.mag k).1 (f.mag k).2 (f.mag k).2 = ((f.mag k).1, false) := by simp [roundAt]
    rw [hq, hround] at hcode hnx
    exact ⟨hcode.trans hk, hnx⟩

theorem Fmt.round_mag (f : Fmt) {c : FpCtl} (hftz : c.ftz = false) (neg : Bool) {k : Nat} (hk : k ≤ f.maxc) :
    f.round c (.fin neg (f.mag k).1 (f.mag k).2) = (f.signed neg k, 0) := by
  obtain ⟨hcode, hnx⟩ := f.code_mag c.rm neg k
  simp [Fmt.round, Fmt.roundFin, hcode, hnx, hftz, hk.not_gt]

theorem Fmt.round_zero (f : Fmt) (c : FpCtl) (neg : Bool) (e : Int) : f.round c (.fin neg 0 e) = (f.signed neg 0, 0) := by
  simp [Fmt.round, Fmt.roundFin, Fmt.code]

/-! ## FP32 operands -/

theorem fp32_signed_split {x : Nat} (h : x < 2 ^ 32) : fp32.signed (x.testBit 31) (x % 2 ^ 31) = x := by
  simp only [Fmt.signed, fp32, Nat.testBit_eq_decide_div_mod_eq, decide_eq_true_eq]
  split <;> omega

theorem fp32_value (x : Nat) : fp32.value x =
    if x % 2 ^ 31 = 0x7F800000 then .inf (x.testBit 31)
    else if 0x7F800000 < x % 2 ^ 31 then .nan (decide (x / 2 ^ 22 % 2 = 0))
    else .fin (x.testBit 31) (fp32.mag (x % 2 ^ 31)).1 (fp32.mag (x % 2 ^ 31)).2 := by
  have hsig : (!(x % 2 ^ 31).testBit 22) = decide (x / 2 ^ 22 % 2 = 0) := by
    rw [Nat.testBit_mod_two_pow, Nat.testBit_eq_decide_div_mod_eq]
    rcases Nat.mod_two_eq_zero_or_one (x / 2 ^ 22) with h | h <;> rw [h] <;> rfl
  have hval : fp32.value x = if some 0x7F800000 = some (x % 2 ^ 31) then .inf (x.testBit 31)
      else if 0x7F7FFFFF < x % 2 ^ 31 then .nan (!(x % 2 ^ 31).testBit 22)
      else .fin (x.testBit 31) (fp32.mag (x % 2 ^ 31)).1 (fp32.mag (x % 2 ^ 31)).2 := rfl
  rw [hval, hsig]
  by_cases hinf : x % 2 ^ 31 = 0x7F800000
  · rw [if_pos (congrArg some hinf.symm), if_pos hinf]
  · have hnan : 0x7F7FFFFF < x % 2 ^ 31 ↔ 0x7F800000 < x % 2 ^ 31 := by omega
    simp only [Option.some.injEq, eq_comm (a := 0x7F800000), hinf, if_false, hnan]

/-- FTZ reads a subnormal as a zero of its sign, and every other code as it stands (R55). -/
theorem Fmt.operand_of_not_subnormal {f : Fmt} (c : FpCtl) {x : Nat} (h : f.subnormal x = false) :
    f.operand c x = f.value x := by simp [Fmt.operand, h]

theorem fp32_not_subnormal {x : Nat} (h : x % 2 ^ 31 = 0 ∨ 2 ^ 23 ≤ x % 2 ^ 31) : fp32.subnormal x = false := by
  have hsub : fp32.subnormal x = (decide (0 < x % 2 ^ 31) && decide (x % 2 ^ 31 < 2 ^ 23)) := rfl
  rw [hsub, Bool.and_eq_false_iff, decide_eq_false_iff_not, decide_eq_false_iff_not]
  omega

theorem fp32_operand_inf (c : FpCtl) {x : Nat} (h : x % 2 ^ 31 = 0x7F800000) :
    fp32.operand c x = .inf (x.testBit 31) := by
  rw [Fmt.operand_of_not_subnormal c (fp32_not_subnormal (by omega)), fp32_value, if_pos h]

theorem fp32_operand_nan (c : FpCtl) {x : Nat} (h : 0x7F800000 < x % 2 ^ 31) :
    fp32.operand c x = .nan (decide (x / 2 ^ 22 % 2 = 0)) := by
  rw [Fmt.operand_of_not_subnormal c (fp32_not_subnormal (by omega)), fp32_value, if_neg h.ne', if_pos h]

theorem fp32_operand_zero (c : FpCtl) {x : Nat} (h : x % 2 ^ 31 = 0) :
    fp32.operand c x = .fin (x.testBit 31) 0 (-149) := by
  rw [Fmt.operand_of_not_subnormal c (fp32_not_subnormal (.inl h)), fp32_value, h]
  rfl

/-- Without FTZ a finite code is read as it stands. -/
theorem fp32_operand_finite {c : FpCtl} (hftz : c.ftz = false) {x : Nat} (h : x % 2 ^ 31 < 0x7F800000) :
    fp32.operand c x = .fin (x.testBit 31) (fp32.mag (x % 2 ^ 31)).1 (fp32.mag (x % 2 ^ 31)).2 := by
  simp only [Fmt.operand, hftz, Bool.false_and, Bool.false_eq_true, fp32_value, h.ne, h.not_gt, if_false]

theorem fp32_operand_fin (c : FpCtl) {x : Nat} (h : x % 2 ^ 31 < 0x7F800000) :
    ∃ m e, fp32.operand c x = .fin (x.testBit 31) m e := by
  unfold Fmt.operand
  split
  · exact ⟨0, 0, rfl⟩
  · rw [fp32_value, if_neg h.ne, if_neg h.not_gt]
    exact ⟨_, _, rfl⟩

theorem fp32_operand_isNaN (c : FpCtl) (x : Nat) : (fp32.operand c x).isNaN = true ↔ 0x7F800000 < x % 2 ^ 31 := by
  rcases lt_trichotomy (x % 2 ^ 31) 0x7F800000 with h | h | h
  · obtain ⟨m, e, hx⟩ := fp32_operand_fin c h
    simp only [hx, FVal.isNaN, h.not_gt, Bool.false_eq_true]
  · simp only [fp32_operand_inf c h, FVal.isNaN, h, lt_irrefl, Bool.false_eq_true]
  · simp only [fp32_operand_nan c h, FVal.isNaN, h]

theorem fp32_operand_isSig (c : FpCtl) (x : Nat) :
    (fp32.operand c x).isSig = true ↔ 0x7F800000 < x % 2 ^ 31 ∧ x / 2 ^ 22 % 2 = 0 := by
  rcases lt_trichotomy (x % 2 ^ 31) 0x7F800000 with h | h | h
  · obtain ⟨m, e, hx⟩ := fp32_operand_fin c h
    simp only [hx, FVal.isSig, h.not_gt, false_and, Bool.false_eq_true]
  · simp only [fp32_operand_inf c h, FVal.isSig, h, lt_irrefl, false_and, Bool.false_eq_true]
  · simp only [fp32_operand_nan c h, FVal.isSig, h, true_and, decide_eq_true_eq]

/-- Without FTZ a code that is no NaN rounds to itself under either sign: its magnitude with the sign put on it. -/
theorem fp32_round_signed {c d : FpCtl} (hc : c.ftz = false) (hd : d.ftz = false) {x : Nat}
    (h : x % 2 ^ 31 ≤ 0x7F800000) :
    fp32.round d (fp32.operand c x) = (fp32.signed (x.testBit 31) (x % 2 ^ 31), 0) ∧
    fp32.round d (fp32.operand c x).neg = (fp32.signed (!x.testBit 31) (x % 2 ^ 31), 0) ∧
    (fp32.operand c x).isNeg = x.testBit 31 := by
  rcases h.lt_or_eq with hfin | hinf
  · have hk : x % 2 ^ 31 ≤ fp32.maxc := Nat.le_of_lt_succ hfin
    rw [fp32_operand_finite hc hfin]
    exact ⟨fp32.round_mag hd _ hk, fp32.round_mag hd _ hk, rfl⟩
  · rw [fp32_operand_inf c hinf, hinf]
    exact ⟨rfl, rfl, rfl⟩

/-! ## Exact operations -/

@[simp] theorem FVal.isNaN_neg (x : FVal) : x.neg.isNaN = x.isNaN := by cases x <;> rfl
@[simp] theorem FVal.isSig_neg (x : FVal) : x.neg.isSig = x.isSig := by cases x <;> rfl

/-- A NaN operand gives a quiet NaN, with NV where an operand is signalling. -/
theorem FVal.add_of_isNaN (rm : RMode) {x y : FVal} (h : x.isNaN = true ∨ y.isNaN = true) :
    x.add rm y = (.nan false, if x.isSig || y.isSig then fNV else 0) := by
  cases x <;> cases y <;> simp_all [FVal.add, FVal.isNaN, FVal.isSig]

theorem FVal.mul_of_isNaN {x y : FVal} (h : x.isNaN = true ∨ y.isNaN = true) :
    x.mul y = (.nan false, if x.isSig || y.isSig then fNV else 0) := by
  cases x <;> cases y <;> simp_all [FVal.mul, FVal.isNaN, FVal.isSig]

theorem FVal.add_neg_inf (rm : RMode) (n : Bool) : (FVal.inf n).add rm (FVal.inf n).neg = (.nan false, fNV) := by
  cases n <;> rfl

/-- A number less itself is a zero whose sign the rounding mode gives. -/
theorem FVal.add_neg_self (rm : RMode) (n : Bool) (m : Nat) (e : Int) :
    ((FVal.fin n m e).add rm (FVal.fin n m e).neg).2 = 0 ∧
    ∃ k, ((FVal.fin n m e).add rm (FVal.fin n m e).neg).1 = .fin (rm == .rdn) 0 k := by
  have hsgn : sgn n m + sgn (!n) m = 0 := by cases n <;> simp [sgn]
  have hsum : (addScaled (sgn n m) e (sgn (!n) m) e).1 = 0 := by simp [addScaled, hsgn]
  by_cases hm : m = 0
  · subst hm; simp [FVal.add, FVal.neg]
  · simp [FVal.add, FVal.neg, hm, ofScaled, hsum]

theorem FVal.minmax_of_isNaN_left (max : Bool) {x y : FVal} (hx : x.isNaN = true) (hy : y.isNaN = false) :
    (x.minmax max y).1 = y := by simp [FVal.minmax, hx, hy]

/-- An operation whose exact result is NaN gives the canonical NaN with the flags of the operation. -/
theorem finish_nan (f : Fmt) (c : FpCtl) (g : Bool) (fl : Flags) : finish f c (.nan g, fl) = (f.nan, fl) := by
  simp [finish, Fmt.round]

theorem finish_no_flags (f : Fmt) (c : FpCtl) (v : FVal) : finish f c (v, 0) = f.round c v := by simp [finish]

/-! ## The corners, one for each operation -/

/-- R56: an addition, subtraction or multiplication with a NaN operand. -/
theorem arithmetic_of_isNaN {g : FpCtl → Fmt → List Nat → Nat × Flags} (hg : g ∈ [opAdd, opSub, opMulF]) (c : FpCtl)
    (f : Fmt) (x y : Nat) (h : (f.operand c x).isNaN = true ∨ (f.operand c y).isNaN = true) :
    g c f [x, y] = (f.nan, if (f.operand c x).isSig || (f.operand c y).isSig then fNV else 0) := by
  have hneg : (f.operand c x).isNaN = true ∨ (f.operand c y).neg.isNaN = true := by simpa using h
  fin_cases hg
  · exact (congrArg _ (FVal.add_of_isNaN c.rm h)).trans (finish_nan ..)
  · exact (congrArg _ (FVal.add_of_isNaN c.rm hneg)).trans (by rw [FVal.isSig_neg]; exact finish_nan ..)
  · exact (congrArg _ (FVal.mul_of_isNaN h)).trans (finish_nan ..)

theorem opSub_inf_self (c : FpCtl) {x : Nat} (h : x % 2 ^ 31 = 0x7F800000) :
    opSub c fp32 [x, x] = (0x7FC00000, fNV) := by
  have hx : opSub c fp32 [x, x] = finish fp32 c ((fp32.operand c x).add c.rm (fp32.operand c x).neg) := rfl
  rw [hx, fp32_operand_inf c h, FVal.add_neg_inf, finish_nan]
  rfl

theorem opMulF_inf_zero (c : FpCtl) {x y : Nat} (hx : x % 2 ^ 31 = 0x7F800000) (hy : y % 2 ^ 31 = 0) :
    opMulF c fp32 [x, y] = (0x7FC00000, fNV) := by
  have hmul : opMulF c fp32 [x, y] = finish fp32 c ((fp32.operand c x).mul (fp32.operand c y)) := rfl
  rw [hmul, fp32_operand_inf c hx, fp32_operand_zero c hy]
  exact finish_nan ..

theorem opMinMax_nan_left (max : Bool) {c : FpCtl} (hftz : c.ftz = false) {x y : Nat} (hy32 : y < 2 ^ 32)
    (hx : 0x7F800000 < x % 2 ^ 31) (hy : y % 2 ^ 31 ≤ 0x7F800000) : (opMinMax max c fp32 [x, y]).1 = y := by
  have hnx := (fp32_operand_isNaN c x).2 hx
  have hny : (fp32.operand c y).isNaN = false := by
    rw [← Bool.not_eq_true, fp32_operand_isNaN]; exact hy.not_gt
  have hmm : (opMinMax max c fp32 [x, y]).1 = (fp32.round c ((fp32.operand c x).minmax max (fp32.operand c y)).1).1 := rfl
  rw [hmm, FVal.minmax_of_isNaN_left max hnx hny, (fp32_round_signed hftz hftz hy).1, fp32_signed_split hy32]

/-- −0 is below +0, whichever comes first. -/
theorem opMinMax_zeros (c : FpCtl) :
    (opMinMax false c fp32 [0, 0x80000000]).1 = 0x80000000 ∧ (opMinMax true c fp32 [0x80000000, 0]).1 = 0 := by
  have hp : fp32.operand c 0 = .fin false 0 (-149) := fp32_operand_zero c rfl
  have hn : fp32.operand c 0x80000000 = .fin true 0 (-149) := fp32_operand_zero c rfl
  have hmin : (opMinMax false c fp32 [0, 0x80000000]).1 =
    (fp32.round c ((fp32.operand c 0).minmax false (fp32.operand c 0x80000000)).1).1 := rfl
  have hmax : (opMinMax true c fp32 [0x80000000, 0]).1 =
    (fp32.round c ((fp32.operand c 0x80000000).minmax true (fp32.operand c 0)).1).1 := rfl
  have hmin' : ((FVal.fin false 0 (-149)).minmax false (.fin true 0 (-149))).1 = .fin true 0 (-149) := by decide
  have hmax' : ((FVal.fin true 0 (-149)).minmax true (.fin false 0 (-149))).1 = .fin false 0 (-149) := by decide
  rw [hmin, hmax, hp, hn, hmin', hmax', fp32.round_zero, fp32.round_zero]
  exact ⟨rfl, rfl⟩

theorem opSub_self (c : FpCtl) {x : Nat} (h : x % 2 ^ 31 < 0x7F800000) :
    opSub c fp32 [x, x] = (if c.rm = .rdn then 0x80000000 else 0, 0) := by
  obtain ⟨m, e, hx⟩ := fp32_operand_fin c h
  obtain ⟨hfl, k, hsum⟩ := FVal.add_neg_self c.rm (x.testBit 31) m e
  have hsub : opSub c fp32 [x, x] = finish fp32 c ((fp32.operand c x).add c.rm (fp32.operand c x).neg) := rfl
  rw [hsub, hx, finish, hfl, hsum, fp32.round_zero]
  by_cases hrm : c.rm = .rdn <;> simp [hrm, Fmt.signed, fp32]

theorem opSign_of_not_isNaN (abs : Bool) (c : FpCtl) (f : Fmt) (x : Nat) (h : (f.operand c x).isNaN = false) :
    opSign abs c f [x] =
      f.round .exact (if abs && !(f.operand c x).isNeg then f.operand c x else (f.operand c x).neg) := by
  have hx : xAt [x] 0 = x := rfl
  unfold opSign
  rw [hx]
  cases hv : f.operand c x with
  | nan g => simp [hv, FVal.isNaN] at h
  | inf n => exact finish_no_flags ..
  | fin n m e => exact finish_no_flags ..

/-- FABS clears the sign bit and FNEG inverts it (R192). -/
theorem opSign_code {c : FpCtl} (hftz : c.ftz = false) {x : Nat} (h32 : x < 2 ^ 32) (h : x % 2 ^ 31 ≤ 0x7F800000) :
    opSign true c fp32 [x] = (x % 2 ^ 31, 0) ∧
    opSign false c fp32 [x] = (if x < 2 ^ 31 then x + 2 ^ 31 else x - 2 ^ 31, 0) := by
  have hnan : (fp32.operand c x).isNaN = false := by
    rw [← Bool.not_eq_true, fp32_operand_isNaN]; exact h.not_gt
  obtain ⟨hpos, hneg, hsign⟩ := fp32_round_signed (d := .exact) hftz rfl h
  have hbit : x.testBit 31 = true ↔ 2 ^ 31 ≤ x := by
    rw [Nat.testBit_eq_decide_div_mod_eq, decide_eq_true_eq]; omega
  rw [opSign_of_not_isNaN _ _ _ _ hnan, opSign_of_not_isNaN _ _ _ _ hnan, hsign]
  by_cases hge : 2 ^ 31 ≤ x
  · have hb := hbit.2 hge
    have habs : x % 2 ^ 31 = x - 2 ^ 31 := by omega
    rw [hb] at hneg
    rw [hb, if_neg hge.not_gt, ← habs]
    exact ⟨hneg, hneg⟩
  · have hb := Bool.eq_false_iff.2 (mt hbit.1 hge)
    have habs : x % 2 ^ 31 = x := Nat.mod_eq_of_lt (not_le.1 hge)
    rw [hb, habs] at hneg hpos
    rw [hb, habs, if_pos (not_le.1 hge), Nat.add_comm]
    exact ⟨hpos, hneg⟩

/-- FCLASS names one of its ten classes (R194). -/
theorem opClass_one_bit (c : FpCtl) (f : Fmt) (xs : List Nat) : ∃ k, k < 10 ∧ (opClass c f xs).1 = 2 ^ k := by
  refine ⟨_, ?_, rfl⟩
  split
  · split <;> decide
  · split <;> decide
  · split_ifs <;> decide

/-- Settles O35, one corner for each operation. -/
theorem floatingPointCorners : Obligations.FloatingPointCorners := by
  intro c x y hx hy mag nan sig
  refine ⟨fun hnan g hg => ?_, ?_, fun hi hz => opMulF_inf_zero c hi hz,
    fun hnx hny hftz => ⟨opMinMax_nan_left _ hftz hy hnx (not_lt.1 hny), opMinMax_nan_left _ hftz hy hnx (not_lt.1 hny)⟩,
    opMinMax_zeros c, fun _ hfin => opSub_self c hfin, fun hnx hftz => opSign_code hftz hx (not_lt.1 hnx),
    opClass_one_bit c fp32 [x]⟩
  · have hsig : sig x ∨ sig y ↔ ((fp32.operand c x).isSig || (fp32.operand c y).isSig) = true := by
      rw [Bool.or_eq_true, fp32_operand_isSig, fp32_operand_isSig]
    have hg := arithmetic_of_isNaN hg c fp32 x y
      (hnan.imp (fp32_operand_isNaN c x).2 (fp32_operand_isNaN c y).2)
    rw [hg, hsig]
    exact ⟨rfl, fun h => if_pos h, fun h => if_neg h⟩
  · rintro hi rfl
    exact opSub_inf_self c hi

end Sys2Proof.Machine
end

section
/-! Lane operations (R181-R189): registers lane by lane, a slot's results queued cluster by cluster, and what a lane-wise and
a whole-register operation land. -/

namespace Sys2Proof.Machine
open Sys2Proof

/-! ## Bits of lanes and flags -/

theorem getLsbD_foldl_or {w : Nat} {α : Type} (F : α → BitVec w) (l : List α) (z : BitVec w) (b : Nat) :
    (l.foldl (fun x a => x ||| F a) z).getLsbD b = true ↔ z.getLsbD b = true ∨ ∃ a ∈ l, (F a).getLsbD b = true := by
  induction l generalizing z with
  | nil => simp
  | cons a l ih => simp [ih, or_assoc]

theorem getLsbD_foldl_or_if {w : Nat} {α : Type} (c : α → Bool) (F : α → BitVec w) (l : List α) (z : BitVec w) (b : Nat) :
    (l.foldl (fun x a => if c a then x ||| F a else x) z).getLsbD b = true ↔
      z.getLsbD b = true ∨ ∃ a ∈ l, c a = true ∧ (F a).getLsbD b = true := by
  induction l generalizing z with
  | nil => simp
  | cons a l ih => by_cases h : c a <;> simp [ih, h, or_assoc]

theorem lane_lanes (f : Nat → W32) {i : Nat} (hi : i < 16) : lane (lanes f) i = f i := by
  have hbits : ∀ n b, b < 512 →
      ((List.range n).foldl (fun acc i => acc ||| ((f i).setWidth 512 <<< (32 * i))) 0).getLsbD b =
        (decide (b < 32 * n) && (f (b / 32)).getLsbD (b % 32)) := by
    intro n b hb
    induction n with
    | zero => simp
    | succ n ih =>
      rw [List.range_succ, List.foldl_append, List.foldl_cons, List.foldl_nil, BitVec.getLsbD_or, ih]
      rcases Nat.lt_trichotomy (b / 32) n with h | rfl | h
      · have h1 : b < 32 * n := by omega
        have h2 : b < 32 * (n + 1) := by omega
        simp [h1, h2]
      · have h1 : ¬b < 32 * (b / 32) := by omega
        have h2 : b < 32 * (b / 32 + 1) := by omega
        have h3 : b - 32 * (b / 32) = b % 32 := by omega
        simp [hb, h1, h2, h3]
      · have h1 : ¬b < 32 * n := by omega
        have h2 : ¬b < 32 * (n + 1) := by omega
        have h3 : 32 ≤ b - 32 * n := by omega
        simp [h1, h2, h3, BitVec.getLsbD_of_ge]
  refine BitVec.eq_of_getLsbD_eq fun j hj => ?_
  rw [lane, BitVec.getLsbD_extractLsb', lanes, hbits 16 _ (by omega)]
  have h1 : (32 * i + j) / 32 = i := by omega
  have h2 : (32 * i + j) % 32 = j := by omega
  have h3 : 32 * i + j < 32 * 16 := by omega
  simp [h1, h2, h3, hj]

theorem Flags.getLsbD_word (f : Flags) (b : Nat) :
    f.word.getLsbD b = true ↔ 8 ≤ b ∧ f.getLsbD (b - 8) = true := by
  have hwide : f.getLsbD (b - 8) = true → b - 8 < 5 := fun h => by
    by_contra hge
    rw [BitVec.getLsbD_of_ge f _ (not_lt.1 hge)] at h
    exact Bool.false_ne_true h
  simp only [Flags.word, BitVec.getLsbD_shiftLeft, BitVec.getLsbD_setWidth, Bool.and_eq_true, decide_eq_true_eq,
    Bool.not_eq_true', decide_eq_false_iff_not]
  constructor
  · rintro ⟨⟨-, hb⟩, -, hf⟩
    exact ⟨by omega, hf⟩
  · rintro ⟨hb, hf⟩
    have := hwide hf
    exact ⟨⟨by omega, by omega⟩, by omega, hf⟩

theorem and_ne_zero_iff (x y : BitVec 16) :
    (x &&& y != 0) = true ↔ ∃ j, j < 16 ∧ x.getLsbD j = true ∧ y.getLsbD j = true := by
  rw [bne_iff_ne, Ne, BitVec.eq_of_getLsbD_eq_iff]
  simp

/-! ## Results queued for landing -/

/-- Results queued at the end of those of the issuing context. -/
def State.queue (s : State) (es : List Landing) : State := s.modCtx fun x => { x with land := x.land ++ es }

theorem State.queue_queue (s : State) (es fs : List Landing) : (s.queue es).queue fs = s.queue (es ++ fs) := by
  simp [State.queue, State.modCtx_modCtx]

theorem State.now_modCtx (s : State) (f : Ctx → Ctx) : (s.modCtx f).now = s.now := by
  simp [State.now, State.clock, State.modCtx, State.modCtxOf, Cell.putCtx]

/-- One result after another is the list of them, all queued in the same cycle. -/
theorem State.foldl_queue {α : Type} (s : State) (g : Nat → α → Landing) {l : List α} (hl : l ≠ []) :
    l.foldl (fun t a => t.queue [g t.now a]) s = s.queue (l.map (g s.now)) := by
  have hrest : ∀ (es : List Landing) (l : List α),
      l.foldl (fun t a => t.queue [g t.now a]) (s.queue es) = s.queue (es ++ l.map (g s.now)) := by
    intro es l
    induction l generalizing es with
    | nil => simp
    | cons a l ih =>
      have hnow : (s.queue es).now = s.now := s.now_modCtx _
      rw [List.foldl_cons, State.queue_queue, hnow, ih, List.append_assoc, List.map_cons, List.singleton_append]
  cases l with
  | nil => exact absurd rfl hl
  | cons a l => exact hrest [g s.now a] l

theorem State.clusters_ne_nil (s : State) : s.clusters ≠ [] := by
  unfold State.clusters
  split <;> simp

/-- The result of a V operation in one cluster, as it is queued. -/
def VRes.landing (d : BitVec 5) (bound now cl : Nat) (r : VRes) : Landing :=
  ⟨.vec, cl, d.toNat, r.val, r.emp, r.mask, 0, r.flags.word, now + bound, false, now, 0⟩

theorem State.vexec_stops {s : State} {d : BitVec 5} {bound : Nat} {cls : List Nat} {f : Nat → VRes}
    (h : ∃ cl ∈ cls, (f cl).stop = true) : s.vexec d bound cls f = s.stop 0x02 16 := by
  unfold State.vexec
  rw [if_pos]
  · rfl
  · simpa using h

/-- Where no cluster stops the slot, the result of each is queued. -/
theorem State.vexec_lands {s : State} {d : BitVec 5} {bound : Nat} {cls : List Nat} {f : Nat → VRes}
    {P : Nat → Landing → Prop} (hne : cls ≠ []) (hstop : ¬∃ cl ∈ cls, (f cl).stop = true)
    (hP : ∀ cl ∈ cls, P cl ((f cl).landing d bound s.now cl)) :
    LandsIn s (s.vexec d bound cls f) .vec d.toNat bound cls P := by
  have hqueue : s.vexec d bound cls f = s.queue (cls.map fun cl => (f cl).landing d bound s.now cl) := by
    unfold State.vexec
    rw [if_neg (by simpa using hstop), List.foldl_map]
    exact s.foldl_queue (fun now cl => (f cl).landing d bound now cl) hne
  refine ⟨_, hqueue, by simp [VRes.landing, Function.comp_def], ?_, fun a => by rw [hqueue]; rfl⟩
  intro e he
  obtain ⟨cl, hcl, rfl⟩ := List.mem_map.1 he
  exact ⟨rfl, rfl, rfl, rfl, rfl, hP cl hcl⟩

/-! ## Source lanes under the policy (R189) -/

theorem State.policy_fst (s : State) (cl : Nat) : (s.policy cl).1 = (s.seen.vcfg.get 0 cl).toNat % 4 := by
  simp [State.policy, bitsAt]

theorem State.emp_vsrc (s : State) (cl : Nat) (r : BitVec 5) (j : Nat) :
    (s.vsrc cl r).emp.getLsbD j = true ↔ s.laneGone cl r j := by
  unfold State.vsrc underPolicy State.laneGone
  rw [State.policy_fst]
  split <;> simp_all [State.vreg]

theorem State.lane_vsrc (s : State) (cl : Nat) (r : BitVec 5) {j : Nat} (hj : j < 16) :
    lane (s.vsrc cl r).val j = s.laneIn cl r j := by
  have hconst : (s.policy cl).2 = BitVec.ofNat 32 ((s.seen.vcfg.get 0 cl).toNat / 2 ^ 32) := by
    simp [State.policy, BitVec.extractLsb', Nat.shiftRight_eq_div_pow]
  unfold State.vsrc underPolicy State.laneIn
  rw [State.policy_fst]
  by_cases hrep : (s.seen.vcfg.get 0 cl).toNat % 4 = 1
  · rw [if_pos hrep, lane_lanes _ hj, hconst]
    simp only [hrep, and_true]
    rfl
  · rw [if_neg hrep]
    simp only [hrep, and_false, if_false]
    rfl

/-! ## Lane-wise operations -/

theorem lanewise_stop (pol : Nat) (m e : BitVec 16) (f : Nat → W32 × Flags) :
    (lanewise pol m e f).stop = true ↔ pol = 2 ∧ ∃ j, j < 16 ∧ e.getLsbD j = true ∧ m.getLsbD j = true := by
  rw [← and_ne_zero_iff, ← beq_iff_eq (a := pol), ← Bool.and_eq_true]
  simp only [lanewise]
  split
  next h => simp only [VRes.stops, h]
  next h => simp only [h, Bool.false_eq_true]

/-- What a lane-wise operation gives where it does not stop: the empty lanes of the mask empty, the others computed. -/
theorem lanewise_lands {pol : Nat} {m e : BitVec 16} {f : Nat → W32 × Flags} (h : ¬(lanewise pol m e f).stop = true) :
    (lanewise pol m e f).mask = m ∧ (lanewise pol m e f).emp = e &&& m ∧
    (∀ j, j < 16 → lane (lanewise pol m e f).val j = if m.getLsbD j && !e.getLsbD j then (f j).1 else 0) ∧
    ∀ b, (lanewise pol m e f).flags.getLsbD b = true ↔
      ∃ j, j < 16 ∧ m.getLsbD j = true ∧ ¬e.getLsbD j = true ∧ (f j).2.getLsbD b = true := by
  have hlive : ∀ j, j < 16 → (m &&& ~~~(e &&& m)).getLsbD j = (m.getLsbD j && !e.getLsbD j) := by
    intro j hj
    rw [BitVec.getLsbD_and, BitVec.getLsbD_not, BitVec.getLsbD_and, decide_eq_true hj, Bool.true_and]
    cases m.getLsbD j <;> cases e.getLsbD j <;> rfl
  simp only [lanewise] at h ⊢
  split at h
  · exact absurd rfl h
  next hgo =>
    simp only [hgo]
    refine ⟨rfl, rfl, fun j hj => ?_, fun b => ?_⟩
    · rw [if_neg Bool.false_ne_true, lane_lanes _ hj, hlive j hj]
    · rw [if_neg Bool.false_ne_true, getLsbD_foldl_or_if, or_iff_right (by simp)]
      simp only [List.mem_range]
      refine exists_congr fun j => and_congr_right fun hj => ?_
      rw [hlive j hj]
      simp [and_assoc]

/-- A source register of the list is empty in a lane exactly where the fold of their empty bits is set. -/
theorem State.emp_sources (s : State) (cl : Nat) (rs : List (BitVec 5)) (j : Nat) :
    ((rs.map fun r => s.vsrc cl r).foldl (fun e (v : VReg) => e ||| v.emp) 0).getLsbD j = true ↔
      ∃ r, r ∈ rs ∧ s.laneGone cl r j := by
  rw [getLsbD_foldl_or (fun v : VReg => v.emp)]
  simp [State.emp_vsrc]

theorem State.sources_at (s : State) (cl : Nat) (rs : List (BitVec 5)) {j : Nat} (hj : j < 16) :
    (rs.map fun r => s.vsrc cl r).map (fun v => lane v.val j) = rs.map fun r => s.laneIn cl r j := by
  simp [s.lane_vsrc cl _ hj]

theorem State.lanesOp_stop (s : State) (cl : Nat) (q : BitVec 3) (rs : List (BitVec 5)) (f : List W32 → W32 × Flags) :
    (s.lanesOp cl q rs f).stop = true ↔ s.stopsOnEmpty cl ∧
      ∃ j, (j < 16 ∧ (s.was.qr cl q.toNat).getLsbD j = true) ∧ ∃ r, r ∈ rs ∧ s.laneGone cl r j := by
  unfold State.lanesOp State.stopsOnEmpty
  rw [lanewise_stop, State.policy_fst]
  simp only [State.emp_sources, State.mask, and_assoc]
  exact and_congr_right fun _ => exists_congr fun j => and_congr_right fun _ => and_comm

/-- An operation that works lane by lane on the sources of every cluster of its slot lands as R189 says. -/
theorem laneWise_of_exec {i : Instr} {s : State} {d : BitVec 5} {bound : Nat} {rs : List (BitVec 5)} {q : BitVec 3}
    {R : List W32 → W32 → Prop} {F : List W32 → Flags} {f : List W32 → W32 × Flags}
    (hexec : exec i s = .next (s.vexec d bound s.clusters fun cl => s.lanesOp cl q rs f))
    (hR : ∀ xs, R xs (f xs).1) (hF : ∀ xs, (f xs).2 = F xs) :
    LaneWise i s d bound s.clusters rs q R F := by
  refine ⟨fun ⟨cl, hcl, hstop⟩ => ⟨_, hexec, State.vexec_stops ⟨cl, hcl, (s.lanesOp_stop cl q rs f).2 hstop⟩⟩, fun hgo => ?_⟩
  have hgo' : ¬∃ cl ∈ s.clusters, (s.lanesOp cl q rs f).stop = true := by
    simpa only [State.lanesOp_stop] using hgo
  refine ⟨_, hexec, State.vexec_lands s.clusters_ne_nil hgo' fun cl hcl => ?_⟩
  obtain ⟨hmask, hemp, hval, hflags⟩ := lanewise_lands fun h => hgo' ⟨cl, hcl, h⟩
  set e := (rs.map fun r => s.vsrc cl r).foldl (fun e v => e ||| v.emp) 0 with he
  have hgone : ∀ j, e.getLsbD j = true ↔ ∃ r, r ∈ rs ∧ s.laneGone cl r j := s.emp_sources cl rs
  refine ⟨fun j hj => ?_, fun j ⟨hj, hm⟩ => ⟨fun hg => ?_, fun hg => ?_⟩, fun b => ?_⟩
  · exact (Eq.congr_left (congrArg (BitVec.getLsbD · j) hmask)).trans ⟨fun h => ⟨hj, h⟩, fun h => h.2⟩
  · have hej := (hgone j).2 hg
    refine ⟨(hval j hj).trans ?_, (congrArg (BitVec.getLsbD · j) hemp).trans ?_⟩
    · rw [hej]; simp
    · rw [BitVec.getLsbD_and, hej]; exact hm
  · have hej := Bool.eq_false_iff.2 (mt (hgone j).1 hg)
    have hlane := hval j hj
    rw [hej, Bool.not_false, Bool.and_true, if_pos (by exact hm), s.sources_at cl rs hj] at hlane
    refine ⟨?_, (congrArg (BitVec.getLsbD · j) hemp).trans ?_⟩
    · have hres := hR (rs.map fun r => s.laneIn cl r j)
      rw [← hlane] at hres
      exact hres
    · rw [BitVec.getLsbD_and, hej, Bool.false_and]
  · refine (Flags.getLsbD_word _ b).trans (and_congr_right fun _ => (hflags _).trans ?_)
    refine exists_congr fun j => ?_
    rw [hgone]
    constructor
    · rintro ⟨hj, hm, hg, hf⟩
      rw [s.sources_at cl rs hj, hF] at hf
      exact ⟨⟨hj, hm⟩, hg, hf⟩
    · rintro ⟨⟨hj, hm⟩, hg, hf⟩
      rw [s.sources_at cl rs hj, hF]
      exact ⟨hj, hm, hg, hf⟩

/-! ## Whole-register operations -/

theorem State.wholeOp_cases (s : State) (cl : Nat) (m : BitVec 16) (a : BitVec 5) (f : VReg → VRes) :
    ((∃ j, j < 16 ∧ m.getLsbD j = true ∧ s.laneGone cl a j) →
      s.wholeOp cl m a f = if (s.seen.vcfg.get 0 cl).toNat % 4 = 2 then VRes.stops else VRes.allEmpty) ∧
    (¬(∃ j, j < 16 ∧ m.getLsbD j = true ∧ s.laneGone cl a j) → s.wholeOp cl m a f = f (s.vsrc cl a)) := by
  have hgone : ((s.vsrc cl a).emp &&& m != 0) = true ↔ ∃ j, j < 16 ∧ m.getLsbD j = true ∧ s.laneGone cl a j := by
    simp only [and_ne_zero_iff, State.emp_vsrc, and_comm (a := s.laneGone cl a _)]
  unfold State.wholeOp
  rw [← hgone, ← State.policy_fst]
  exact ⟨fun h => if_pos h, fun h => if_neg h⟩

/-- An operation that makes a whole register of the lanes of `m` lands as R189 says. -/
theorem wholeWise_of_exec {i : Instr} {s : State} {d a : BitVec 5} {bound : Nat} {m : Nat → BitVec 16}
    {P : Nat → Landing → Prop} {F : Nat → Flags} {f : Nat → VReg → VRes} {val : Nat → BitVec 512}
    (hexec : exec i s = .next (s.vexec d bound s.clusters fun cl => s.wholeOp cl (m cl) a (f cl)))
    (hfull : ∀ cl, f cl (s.vsrc cl a) = .full (val cl) (F cl))
    (hP : ∀ cl e, e.val = val cl → e.mask = 0xFFFF → P cl e) :
    WholeWise i s d a bound (fun cl j => (m cl).getLsbD j = true) P F := by
  have hstop : ∀ cl, (s.wholeOp cl (m cl) a (f cl)).stop = true ↔
      s.stopsOnEmpty cl ∧ ∃ j, j < 16 ∧ (m cl).getLsbD j = true ∧ s.laneGone cl a j := by
    intro cl
    obtain ⟨hgone, hfine⟩ := s.wholeOp_cases cl (m cl) a (f cl)
    by_cases hg : ∃ j, j < 16 ∧ (m cl).getLsbD j = true ∧ s.laneGone cl a j
    · rw [hgone hg, and_iff_left hg, State.stopsOnEmpty]
      split <;> simp_all [VRes.stops, VRes.allEmpty]
    · simp [hfine hg, hfull, VRes.full, hg]
  refine ⟨fun ⟨cl, hcl, h⟩ => ⟨_, hexec, State.vexec_stops ⟨cl, hcl, (hstop cl).2 h⟩⟩, fun hgo => ?_⟩
  have hgo' : ¬∃ cl ∈ s.clusters, (s.wholeOp cl (m cl) a (f cl)).stop = true := by simpa only [hstop] using hgo
  refine ⟨_, hexec, State.vexec_lands s.clusters_ne_nil hgo' fun cl hcl => ⟨fun hg => ?_, fun hg => ?_⟩⟩
  · have hpol : ¬(s.seen.vcfg.get 0 cl).toNat % 4 = 2 := fun h => hgo ⟨cl, hcl, h, hg⟩
    rw [(s.wholeOp_cases cl (m cl) a (f cl)).1 hg, if_neg hpol]
    exact ⟨rfl, rfl, rfl, rfl⟩
  · rw [(s.wholeOp_cases cl (m cl) a (f cl)).2 hg, hfull]
    exact ⟨hP cl _ rfl rfl, rfl, fun b => Flags.getLsbD_word _ b⟩

/-! ## Floating-point lanes (R190-R194) -/

/-- The result of a floating-point operation on a lane: of its one value, or of each half on its own. -/
def FloatLane (t : BitVec 2) (g : List Nat → Nat × Flags) (xs : List W32) (r : W32) : Prop :=
  if t = 0 then r.toNat = (g (xs.map BitVec.toNat)).1 % 2 ^ 32
  else r.toNat % 2 ^ 16 = (g (xs.map fun x => x.toNat % 2 ^ 16)).1 % 2 ^ 16 ∧
    r.toNat / 2 ^ 16 = (g (xs.map fun x => x.toNat / 2 ^ 16)).1 % 2 ^ 16

/-- Its flags. -/
def floatFlags (t : BitVec 2) (g : List Nat → Nat × Flags) (xs : List W32) : Flags :=
  if t = 0 then (g (xs.map BitVec.toNat)).2
  else (g (xs.map fun x => x.toNat % 2 ^ 16)).2 ||| (g (xs.map fun x => x.toNat / 2 ^ 16)).2

theorem halves_toNat (lo hi : Nat) :
    (BitVec.ofNat 32 (lo % 65536 + hi % 65536 * 65536)).toNat % 2 ^ 16 = lo % 2 ^ 16 ∧
    (BitVec.ofNat 32 (lo % 65536 + hi % 65536 * 65536)).toNat / 2 ^ 16 = hi % 2 ^ 16 := by
  rw [BitVec.toNat_ofNat]
  omega

theorem fparts_floatLane (t : BitVec 2) (g : Fmt → List Nat → Nat × Flags) (xs : List W32) :
    FloatLane t (g (typeFmt t)) xs (fparts t g xs).1 ∧ (fparts t g xs).2 = floatFlags t (g (typeFmt t)) xs := by
  unfold FloatLane floatFlags fparts typeFmt
  by_cases ht : t = 0
  · simp only [ht, if_true]
    exact ⟨BitVec.toNat_ofNat .., trivial⟩
  · simp only [ht, if_false, List.map_map, Function.comp_def]
    exact ⟨halves_toNat _ _, rfl⟩

/-- An operation on floating-point lanes lands, in each value or half, its result in the format that t selects. -/
theorem laneWise_flop {i : Instr} {s : State} {d : BitVec 5} {rs : List (BitVec 5)} {q : BitVec 3} {t : BitVec 2}
    {g : FpCtl → Fmt → List Nat → Nat × Flags} (hexec : exec i s = .next (s.flop d rs q t g)) :
    LaneWise i s d 4 s.clusters rs q (FloatLane t (g s.fpc (typeFmt t))) (floatFlags t (g s.fpc (typeFmt t))) :=
  laneWise_of_exec hexec (fun xs => (fparts_floatLane t (g s.fpc) xs).1) fun xs => (fparts_floatLane t (g s.fpc) xs).2

/-- Settles O34: every operation is `State.flop` with its own exact operation. -/
theorem vectorFloatOperations : Obligations.VectorFloatOperations := by
  intro s d a b q t
  refine ⟨laneWise_flop (g := opAdd) rfl, laneWise_flop (g := opSub) rfl, laneWise_flop (g := opMulF) rfl,
    laneWise_flop (g := opFma false false) rfl, laneWise_flop (g := opFma true false) rfl,
    laneWise_flop (g := opFma false true) rfl, laneWise_flop (g := opFma true true) rfl,
    laneWise_flop (g := opMinMax false) rfl, laneWise_flop (g := opMinMax true) rfl,
    laneWise_flop (g := opSign true) rfl, laneWise_flop (g := opSign false) rfl,
    laneWise_flop (g := opRound) rfl, laneWise_flop (g := opClass) rfl⟩

end Sys2Proof.Machine
end

section
/-! Reductions (R64, R65, R212, R213): the tree and the scan of the model, level by level, beside those of the rules. -/

namespace Sys2Proof.Machine
open Sys2Proof

/-! ## Values that carry the flags of the steps behind them -/

/-- One step on two values, each with the flags of the steps behind it. -/
def joinStep (g : Nat → Nat → Nat × Flags) (x y : Nat × Flags) : Nat × Flags :=
  ((g x.1 y.1).1, x.2 ||| y.2 ||| (g x.1 y.1).2)

/-- The next level of the pairwise tree (R64). -/
def treeLevel (g : Nat → Nat → Nat × Flags) (h : Nat → Nat × Flags) (i : Nat) : Nat × Flags :=
  joinStep g (h (2 * i)) (h (2 * i + 1))

/-- The next pass of the Hillis–Steele sums, at distance k (R65). -/
def scanLevel (g : Nat → Nat → Nat × Flags) (h : Nat → Nat × Flags) (k i : Nat) : Nat × Flags :=
  if i < k then h i else joinStep g (h (i - k)) (h i)

/-- A list of n values with one set of flags, and the same values with the flags of each: together they are the set. -/
def Carries (h : Nat → Nat × Flags) (n : Nat) (p : List Nat × Flags) : Prop :=
  p.1 = (List.range n).map (fun i => (h i).1) ∧
  ∀ b, p.2.getLsbD b = true ↔ ∃ i, i < n ∧ (h i).2.getLsbD b = true

theorem carries_inputs (v : Nat → Nat) (n : Nat) : Carries (fun i => (v i, 0)) n ((List.range n).map v, 0) :=
  ⟨rfl, fun b => by simp⟩

theorem getLsbD_joinStep (g : Nat → Nat → Nat × Flags) (x y : Nat × Flags) (b : Nat) :
    (joinStep g x y).2.getLsbD b = true ↔
      x.2.getLsbD b = true ∨ y.2.getLsbD b = true ∨ (g x.1 y.1).2.getLsbD b = true := by
  simp [joinStep, or_assoc]

/-! ## The pairwise tree -/

theorem pairUp_range (g : Nat → Nat → Nat × Flags) (v : Nat → Nat) (n : Nat) :
    (pairUp g ((List.range (2 * n)).map v)).1 = (List.range n).map (fun i => (g (v (2 * i)) (v (2 * i + 1))).1) ∧
    ∀ b, (pairUp g ((List.range (2 * n)).map v)).2.getLsbD b = true ↔
      ∃ i, i < n ∧ (g (v (2 * i)) (v (2 * i + 1))).2.getLsbD b = true := by
  induction n generalizing v with
  | zero => exact ⟨rfl, fun b => by simp [pairUp]⟩
  | succ n ih =>
    obtain ⟨hlist, hflags⟩ := ih fun i => v (i + 2)
    have hrange : (List.range (2 * (n + 1))).map v = v 0 :: v 1 :: (List.range (2 * n)).map fun i => v (i + 2) := by
      rw [Nat.mul_succ, List.range_succ_eq_map, List.range_succ_eq_map]
      simp [Function.comp_def]
    rw [hrange, pairUp]
    constructor
    · rw [hlist, List.range_succ_eq_map]
      simp [Function.comp_def, Nat.mul_succ, Nat.add_right_comm]
    · intro b
      rw [BitVec.getLsbD_or, Bool.or_eq_true, hflags, Nat.exists_lt_succ_left]
      simp [Nat.mul_succ, Nat.add_right_comm]

theorem Carries.pairUp {g : Nat → Nat → Nat × Flags} {h : Nat → Nat × Flags} {n : Nat} {p : List Nat × Flags}
    (hp : Carries h (2 * n) p) : Carries (treeLevel g h) n ((pairUp g p.1).1, p.2 ||| (pairUp g p.1).2) := by
  obtain ⟨hlist, hflags⟩ := hp
  obtain ⟨hpair, hstep⟩ := pairUp_range g (fun i => (h i).1) n
  rw [← hlist] at hpair hstep
  refine ⟨hpair, fun b => ?_⟩
  rw [BitVec.getLsbD_or, Bool.or_eq_true, hflags, hstep]
  simp only [treeLevel, getLsbD_joinStep]
  constructor
  · rintro (⟨i, hi, hb⟩ | ⟨i, hi, hb⟩)
    · rcases Nat.even_or_odd' i with ⟨k, rfl | rfl⟩
      · exact ⟨k, by omega, .inl hb⟩
      · exact ⟨k, by omega, .inr (.inl hb)⟩
    · exact ⟨i, hi, .inr (.inr hb)⟩
  · rintro ⟨i, hi, hb | hb | hb⟩
    · exact .inl ⟨2 * i, by omega, hb⟩
    · exact .inl ⟨2 * i + 1, by omega, hb⟩
    · exact .inr ⟨i, hi, hb⟩

/-- The model's tree over sixteen values is four levels of pairs, with the flags of every step. -/
theorem treeOf_eq (g : Nat → Nat → Nat × Flags) (v : Nat → Nat) :
    treeOf g ((List.range 16).map v) =
      treeLevel g (treeLevel g (treeLevel g (treeLevel g fun i => (v i, 0)))) 0 := by
  have hroot := ((((carries_inputs v 16).pairUp (g := g) (n := 8)).pairUp (g := g) (n := 4)).pairUp (g := g)
    (n := 2)).pairUp (g := g) (n := 1)
  obtain ⟨hlist, hflags⟩ := hroot
  refine Prod.ext (congrArg (xAt · 0) hlist) (BitVec.eq_of_getLsbD_eq_iff.2 fun b _ => ?_)
  exact Bool.eq_iff_iff.2 ((hflags b).trans (by simp))

/-! ## The scan -/

/-- One pass of the scan. -/
def scanPass (g : Nat → Nat → Nat × Flags) (p : List Nat × Flags) (k : Nat) : List Nat × Flags :=
  let r := (List.range 16).map fun i => if i < k then (xAt p.1 i, (0 : Flags)) else g (xAt p.1 (i - k)) (xAt p.1 i)
  (r.map Prod.fst, r.foldl (fun fl e => fl ||| e.2) p.2)

theorem scanOf_eq_passes (g : Nat → Nat → Nat × Flags) (l : List Nat) :
    scanOf g l = scanPass g (scanPass g (scanPass g (scanPass g (l, 0) 1) 2) 4) 8 := rfl

theorem xAt_map_range (v : Nat → Nat) {n i : Nat} (hi : i < n) : xAt ((List.range n).map v) i = v i := by
  simp [xAt, hi]

theorem Carries.scanPass {g : Nat → Nat → Nat × Flags} {h : Nat → Nat × Flags} {p : List Nat × Flags}
    (hp : Carries h 16 p) (k : Nat) : Carries (scanLevel g h k) 16 (scanPass g p k) := by
  obtain ⟨hlist, hflags⟩ := hp
  have hat : ∀ i, i < 16 → xAt p.1 i = (h i).1 := fun i hi => by rw [hlist, xAt_map_range _ hi]
  constructor
  · simp only [Machine.scanPass, List.map_map]
    refine List.map_congr_left fun i hi => ?_
    have hi := List.mem_range.1 hi
    simp only [Function.comp_apply, hat i hi, hat (i - k) (by omega), scanLevel]
    split <;> rfl
  · intro b
    simp only [Machine.scanPass, getLsbD_foldl_or, hflags, List.mem_map, exists_exists_and_eq_and, List.mem_range]
    constructor
    · rintro (⟨i, hi, hb⟩ | ⟨i, hi, hb⟩)
      · refine ⟨i, hi, ?_⟩
        unfold scanLevel
        split
        · exact hb
        · exact (getLsbD_joinStep ..).2 (.inr (.inl hb))
      · by_cases hik : i < k
        · simp [hik] at hb
        · rw [if_neg hik, hat i hi, hat (i - k) (by omega)] at hb
          refine ⟨i, hi, ?_⟩
          rw [scanLevel, if_neg hik]
          exact (getLsbD_joinStep ..).2 (.inr (.inr hb))
    · rintro ⟨i, hi, hb⟩
      by_cases hik : i < k
      · rw [scanLevel, if_pos hik] at hb
        exact .inl ⟨i, hi, hb⟩
      · rw [scanLevel, if_neg hik] at hb
        rcases (getLsbD_joinStep ..).1 hb with hb | hb | hb
        · exact .inl ⟨i - k, by omega, hb⟩
        · exact .inl ⟨i, hi, hb⟩
        · refine .inr ⟨i, hi, ?_⟩
          rw [if_neg hik, hat i hi, hat (i - k) (by omega)]
          exact hb

theorem scanOf_carries (g : Nat → Nat → Nat × Flags) (v : Nat → Nat) :
    Carries (scanLevel g (scanLevel g (scanLevel g (scanLevel g (fun i => (v i, 0)) 1) 2) 4) 8) 16
      (scanOf g ((List.range 16).map v)) :=
  ((((carries_inputs v 16).scanPass 1).scanPass 2).scanPass 4).scanPass 8

/-! ## Whole registers of values or halves -/

/-- Sixteen values with one set of flags, beside the value and flags of each lane. -/
def Fills (g : Nat → Nat × Flags) (val : Nat → Nat) (fl : Flags) : Prop :=
  (∀ j, j < 16 → val j = (g j).1) ∧ ∀ b, fl.getLsbD b = true ↔ ∃ j, j < 16 ∧ (g j).2.getLsbD b = true

/-- One result in every lane, with its flags. -/
theorem fills_const (r : Nat × Flags) : Fills (fun _ => r) (fun _ => r.1) r.2 :=
  ⟨fun _ _ => rfl, fun _ => ⟨fun h => ⟨0, by omega, h⟩, fun ⟨_, _, h⟩ => h⟩⟩

/-- The values of a carried list, the first of them changed. -/
theorem Carries.fills_setFirst {h : Nat → Nat × Flags} {p : List Nat × Flags} (hp : Carries h 16 p) (first : Nat → Nat) :
    Fills (fun j => if j = 0 then (first (h j).1, (h j).2) else h j) (xAt (p.1.set 0 (first (xAt p.1 0)))) p.2 := by
  obtain ⟨hlist, hflags⟩ := hp
  constructor
  · intro j hj
    by_cases hj0 : j = 0
    · subst hj0
      simp [hlist, xAt]
    · have hset : xAt (p.1.set 0 (first (xAt p.1 0))) j = xAt p.1 j := by
        simp [xAt, List.getElem?_set_ne (Ne.symm hj0)]
      rw [hset, hlist, xAt_map_range _ hj]
      exact (congrArg Prod.fst (if_neg hj0)).symm
  · intro b
    rw [hflags]
    exact exists_congr fun j => and_congr_right fun _ => by by_cases hj0 : j = 0 <;> simp [hj0]

/-- A register of FP32 values, or of pairs of halves, with the flags of both. -/
def halvesFull (t : BitVec 2) (one : Nat → (Nat → Nat) × Flags) : VRes :=
  if t = 0 then .full (lanes fun i => BitVec.ofNat 32 ((one 0).1 i)) (one 0).2
  else .full (lanes fun i => BitVec.ofNat 32 ((one 0).1 i + (one 1).1 i * 65536)) ((one 0).2 ||| (one 1).2)

/-- What an operation on a whole register lands, each half position by `g`: cluster, half and lane. -/
def HalvesLand (i : Instr) (s : State) (d a : BitVec 5) (q : BitVec 3) (t : BitVec 2) (bound : Nat)
    (g : Nat → Nat → Nat → Nat × Flags) : Prop :=
  WholeWise i s d a bound (fun cl j => (s.was.qr cl q.toNat).getLsbD j = true)
    (fun cl e => e.mask = 0xFFFF ∧ ∀ j, j < 16 → e.val.extractLsb' (32 * j) 32 =
      BitVec.ofNat 32 (if t = 0 then (g cl 0 j).1 else (g cl 0 j).1 + (g cl 1 j).1 * 65536))
    (fun cl => (List.range 16).foldl (fun f j => f ||| (g cl 0 j).2 ||| (if t = 0 then 0 else (g cl 1 j).2)) 0)

theorem halvesFull_eq {t : BitVec 2} {one : Nat → (Nat → Nat) × Flags} {g : Nat → Nat → Nat × Flags}
    (h : ∀ k, Fills (g k) (one k).1 (one k).2) :
    halvesFull t one = .full
      (lanes fun j => BitVec.ofNat 32 (if t = 0 then (one 0).1 j else (one 0).1 j + (one 1).1 j * 65536))
      ((List.range 16).foldl (fun f j => f ||| (g 0 j).2 ||| (if t = 0 then 0 else (g 1 j).2)) 0) := by
  have hflags : (if t = 0 then (one 0).2 else (one 0).2 ||| (one 1).2) =
      (List.range 16).foldl (fun f j => f ||| (g 0 j).2 ||| (if t = 0 then 0 else (g 1 j).2)) 0 := by
    refine BitVec.eq_of_getLsbD_eq_iff.2 fun b _ => Bool.eq_iff_iff.2 ?_
    simp only [BitVec.or_assoc]
    rw [getLsbD_foldl_or, or_iff_right (by simp)]
    by_cases ht : t = 0
    · simp only [if_pos ht]
      simp [(h 0).2]
    · simp only [if_neg ht]
      simp [(h 0).2, (h 1).2, and_or_left, exists_or]
  rw [← hflags]
  unfold halvesFull
  split <;> rfl

theorem halvesLand_of_exec {i : Instr} {s : State} {d a : BitVec 5} {q : BitVec 3} {t : BitVec 2} {bound : Nat}
    {g : Nat → Nat → Nat → Nat × Flags} {one : Nat → VReg → Nat → (Nat → Nat) × Flags}
    (hexec : exec i s = .next (s.vexec d bound s.clusters fun cl =>
      s.wholeOp cl (s.mask cl q) a fun v => halvesFull t (one cl v)))
    (h : ∀ cl k, Fills (g cl k) (one cl (s.vsrc cl a) k).1 (one cl (s.vsrc cl a) k).2) :
    HalvesLand i s d a q t bound g := by
  refine wholeWise_of_exec hexec (fun cl => halvesFull_eq (h cl)) fun cl e hval hmask => ⟨hmask, fun j hj => ?_⟩
  rw [hval]
  refine (lane_lanes _ hj).trans ?_
  rw [(h cl 0).1 j hj, (h cl 1).1 j hj]

/-- What enters a reduction at half `h` of lane `j`: an excluded lane as `dflt` (R64). -/
def State.reduceInput (s : State) (a : BitVec 5) (q : BitVec 3) (t : BitVec 2) (dflt cl h j : Nat) : Nat :=
  if (s.was.qr cl q.toNat).getLsbD j then
    (if t = 0 then (s.laneIn cl a j).toNat else (s.laneIn cl a j).toNat / 65536 ^ h % 65536)
  else dflt

theorem State.reduceIn_vsrc (s : State) (a : BitVec 5) (q : BitVec 3) (t : BitVec 2) (dflt cl h : Nat) :
    reduceIn t h (s.mask cl q) (s.vsrc cl a).val dflt = (List.range 16).map (s.reduceInput a q t dflt cl h) := by
  refine List.map_congr_left fun j hj => ?_
  rw [s.lane_vsrc cl a (List.mem_range.1 hj)]
  rfl

/-- The operation of a reduction on two values of its format. -/
def State.binary (s : State) (t : BitVec 2) (op : FpCtl → Fmt → List Nat → Nat × Flags) (x y : Nat) : Nat × Flags :=
  op s.fpc (typeFmt t) [x, y]

/-- A reduction lands the root of its tree in every lane. -/
theorem reduceLanes_lands {i : Instr} {s : State} {d a : BitVec 5} {q : BitVec 3} {t : BitVec 2} {dflt : Fmt → Nat}
    {op : FpCtl → Fmt → List Nat → Nat × Flags} (hexec : exec i s = .next (s.reduceLanes d a q t dflt op)) :
    HalvesLand i s d a q t 6 fun cl h _ =>
      let level := treeLevel (s.binary t op)
      level (level (level (level fun j => (s.reduceInput a q t (dflt (typeFmt t)) cl h j, 0)))) 0 := by
  refine halvesLand_of_exec (one := fun cl v h =>
    let r := treeOf (s.binary t op) (reduceIn t h (s.mask cl q) v.val (dflt (typeFmt t)))
    (fun _ => r.1, r.2)) hexec fun cl h => ?_
  simp only [s.reduceIn_vsrc, treeOf_eq]
  exact fills_const _

/-- SCAN lands the sums of its four passes; lane 0, which no step has read, as the addition reads it. -/
theorem scan_lands (s : State) (d a : BitVec 5) (q : BitVec 3) (t : BitVec 2) :
    HalvesLand (.scan d a q t) s d a q t 8 fun cl h j =>
      let level := scanLevel (s.binary t opAdd)
      let r := level (level (level (level (fun i =>
        (s.reduceInput a q t ((typeFmt t).signed true 0) cl h i, 0)) 1) 2) 4) 8 j
      if j = 0 then (loneLane s.fpc (typeFmt t) r.1, r.2) else r := by
  refine halvesLand_of_exec (one := fun cl v h =>
    let r := scanOf (s.binary t opAdd) (reduceIn t h (s.mask cl q) v.val ((typeFmt t).signed true 0))
    (xAt (r.1.set 0 (loneLane s.fpc (typeFmt t) (xAt r.1 0))), r.2)) rfl fun cl h => ?_
  simp only [s.reduceIn_vsrc]
  exact (scanOf_carries ..).fills_setFirst _

/-- Settles O39: RSUM, RMAX and RMIN are `State.reduceLanes`, and SCAN has its own lemma. -/
theorem reductions : Obligations.Reductions := by
  intro s d a q t
  exact ⟨reduceLanes_lands (dflt := fun f => f.signed true 0) (op := opAdd) rfl,
    reduceLanes_lands (dflt := fun f => f.signed true (f.inf.getD 0)) (op := opMinMax true) rfl,
    reduceLanes_lands (dflt := fun f => f.signed false (f.inf.getD 0)) (op := opMinMax false) rfl,
    scan_lands s d a q t⟩

end Sys2Proof.Machine
end

section
/-! The CSR writes of a context (R54, R126, R174): CSRW, CSRS and CSRC on the CSRs that only the context bank holds. -/

namespace Sys2Proof.Machine
open Sys2Proof

/-! ## The bank under a CSR write -/

/-- A CSR write changes no register, and predicates only at PRED_SAVE. -/
theorem Ctx.csrWrite_registers (x : Ctx) (o : CsrOp) {a : Nat} (v : W64) (sup : Bool) (ha : a ≠ 0x018) :
    (x.csrWrite o a v sup).s = x.s ∧ (x.csrWrite o a v sup).p = x.p ∧ (x.csrWrite o a v sup).v = x.v ∧
    (x.csrWrite o a v sup).q = x.q := by
  unfold Ctx.csrWrite
  simp only
  split
  case h_5 => exact absurd rfl ha
  case h_7 =>
    split_ifs
    · exact ⟨rfl, rfl, rfl, rfl⟩
    · exact ⟨rfl, rfl, rfl, rfl⟩
    · split <;> exact ⟨rfl, rfl, rfl, rfl⟩
  all_goals exact ⟨rfl, rfl, rfl, rfl⟩

/-- The plain context CSRs: number, mask of the RW fields, and whether user mode may write it (R126). -/
def plainCsrs : List (Nat × W64 × Bool) :=
  [(0x010, 0x1F0F, true), (0x012, 0xFFFFFFFF, true), (0x01C, 0x1FFFFFFFF, true), (0x001, 0x3FFF, false),
    (0x002, 0x3FFF01FF, false), (0x003, 0x1FFFC, false), (0x004, 0xF, false), (0x005, 0x1FFFD, false), (0x011, 7, false),
    (0x014, ~~~0, false), (0x015, 0xFFFFFFFF, false)]

theorem plainCsrs_number {a : Nat} {mask : W64} {user : Bool} (h : (a, mask, user) ∈ plainCsrs) :
    a < 0x100 ∧ a ≠ 0x018 := by
  have hall : ∀ e ∈ plainCsrs, e.1 < 0x100 ∧ e.1 ≠ 0x018 := by decide
  exact hall _ h

/-- A plain CSR reads, after a write that its mode permits, as the operation on its old value in its RW fields. -/
theorem Ctx.csr_csrWrite_plain (x : Ctx) (o : CsrOp) {a : Nat} {mask : W64} {user : Bool} (v : W64) (sup : Bool) (n : Nat)
    (h : (a, mask, user) ∈ plainCsrs) (hflags : a = 0x010 → x.hwSet = 0 ∧ x.hwNew = 0) (hmode : sup = true ∨ user = true) :
    (x.csrWrite o a v sup).csr n a = o.rw (x.csr n a) v &&& mask := by
  simp only [plainCsrs, List.mem_cons, List.not_mem_nil, or_false, Prod.mk.injEq] at h
  rcases h with ⟨rfl, rfl, rfl⟩ | ⟨rfl, rfl, rfl⟩ | ⟨rfl, rfl, rfl⟩ | h
  · obtain ⟨hset, hnew⟩ := hflags rfl
    have hread : ∀ w : W64, w &&& ~~~(0 : W64) = w := fun w => BitVec.and_allOnes
    have hnone : ∀ w : W64, w ||| (0 : W64) = w := fun w => BitVec.or_zero
    simp only [Ctx.csrWrite, Ctx.csr, hset, hnew, hread, hnone]
  · rfl
  · rfl
  · have hsup : user = false → sup = true := fun hu => hmode.resolve_right (by simp [hu])
    rcases h with ⟨rfl, rfl, rfl⟩ | ⟨rfl, rfl, rfl⟩ | ⟨rfl, rfl, rfl⟩ | ⟨rfl, rfl, rfl⟩ | ⟨rfl, rfl, rfl⟩ | ⟨rfl, rfl, rfl⟩ |
      ⟨rfl, rfl, rfl⟩ | ⟨rfl, rfl, rfl⟩ <;> (rw [hsup rfl]; rfl)

/-- In user mode a CSR that user mode only reads stays as it is (R126). -/
theorem Ctx.csrWrite_user (x : Ctx) (o : CsrOp) {a : Nat} {mask : W64} (v : W64) (h : (a, mask, false) ∈ plainCsrs) :
    x.csrWrite o a v false = x := by
  simp only [plainCsrs, List.mem_cons, List.not_mem_nil, or_false, Prod.mk.injEq, Bool.false_eq_true, and_false,
    false_or, and_true] at h
  rcases h with ⟨rfl, -⟩ | ⟨rfl, -⟩ | ⟨rfl, -⟩ | ⟨rfl, -⟩ | ⟨rfl, -⟩ | ⟨rfl, -⟩ | ⟨rfl, -⟩ | ⟨rfl, -⟩ <;> rfl

/-! ## The instructions -/

/-- The three instructions, each by the form of its write. -/
def CsrOp.instr (o : CsrOp) (d : BitVec 6) (r : BitVec 12) : Instr :=
  match o with
  | .write => .csrw d r
  | .set => .csrs d r
  | .clear => .csrc d r

theorem exec_csr (o : CsrOp) (d : BitVec 6) (r : BitVec 12) (s : State) : exec (o.instr d r) s = .next (s.csrExec o d r) := by
  cases o <;> rfl

/-- On a context CSR other than PRED_SAVE the instruction changes the issuing bank alone. -/
theorem State.csrExec_ctx (s : State) (o : CsrOp) (d : BitVec 6) {r : BitVec 12} (hr : r.toNat < 0x100)
    (h18 : r.toNat ≠ 0x018) :
    s.csrExec o d r = s.modCtx fun x => x.csrWrite o r.toNat (s.rs d) s.was.supervisor := by
  have hpriv : s.csrPriv r = false := by
    have : ¬0x200 ≤ r.toNat := by omega
    simp [State.csrPriv, this]
  simp only [State.csrExec, hpriv, State.csrPut, if_pos hr, if_neg h18, Bool.false_eq_true, if_false]
  rfl

theorem completes_csr (s : State) (o : CsrOp) (d : BitVec 6) {r : BitVec 12} (hr : r.toNat < 0x100)
    (h18 : r.toNat ≠ 0x018) {P : State → Prop}
    (hP : P (s.modCtx fun x => x.csrWrite o r.toNat (s.rs d) s.was.supervisor)) : Completes (o.instr d r) s P :=
  ⟨_, exec_csr o d r s, by rwa [s.csrExec_ctx o d hr h18]⟩

theorem State.csrOf_modCtx (s : State) (f : Ctx → Ctx) {a : Nat} (ha : a < 0x100) :
    (s.modCtx f).csrOf s.focus.cell s.focus.ctx a = (f s.ctx).csr s.focus.ctx a := by
  rw [State.csrOf, if_pos ha]
  exact congrArg (Ctx.csr · _ _) (s.ctxOf_modCtxOf_same _ _ f)

theorem State.csrOf_ctx (s : State) {a : Nat} (ha : a < 0x100) :
    s.csrOf s.focus.cell s.focus.ctx a = s.ctx.csr s.focus.ctx a := by
  rw [State.csrOf, if_pos ha]
  rfl

/-- A flag that hardware sets in this cycle ends set, whatever is written (R54). -/
theorem completes_csr_fpctl (s : State) (o : CsrOp) (d : BitVec 6) {b : Nat} (hb : s.ctx.hwSet.getLsbD b = true) :
    Completes (o.instr d 0x010) s fun t => t.ctx.fpctl.getLsbD b = true := by
  refine completes_csr s o d (by decide) (by decide) ?_
  rw [State.ctx_modCtx]
  exact (BitVec.getLsbD_or ..).trans (by rw [hb, Bool.or_true])

theorem completes_csr_errSticky (s : State) (o : CsrOp) (d : BitVec 6) (hsup : s.was.supervisor = true) :
    Completes (o.instr d 0x013) s fun t => t.ctx.errSticky = o.w1c s.ctx.errSticky (s.rs d &&& 0xFF) := by
  refine completes_csr s o d (by decide) (by decide) ?_
  rw [State.ctx_modCtx, hsup]
  rfl

/-- What `t` is after a write that left `w` in the RW fields of a CSR. -/
def CsrGets (s t : State) (r : BitVec 12) (mask w : W64) : Prop :=
  t.csrOf s.focus.cell s.focus.ctx r.toNat = w &&& mask ∧ t.ctx.s = s.ctx.s ∧ t.ctx.p = s.ctx.p ∧ t.ctx.v = s.ctx.v ∧
    t.ctx.q = s.ctx.q ∧ ∀ a, t.byte a = s.byte a

theorem completes_csr_plain (s : State) (o : CsrOp) (d : BitVec 6) {r : BitVec 12} {mask : W64} {user : Bool}
    (h : (r.toNat, mask, user) ∈ plainCsrs) (hflags : r = 0x010 → s.ctx.hwSet = 0 ∧ s.ctx.hwNew = 0)
    (hmode : s.was.supervisor = true ∨ user = true) :
    Completes (o.instr d r) s fun t =>
      CsrGets s t r mask (o.rw (s.csrOf s.focus.cell s.focus.ctx r.toNat) (s.rs d)) := by
  obtain ⟨hr, h18⟩ := plainCsrs_number h
  refine completes_csr s o d hr h18 ⟨?_, ?_⟩
  · rw [s.csrOf_modCtx _ hr, s.csrOf_ctx hr]
    exact s.ctx.csr_csrWrite_plain o _ _ _ h (fun ha => hflags (BitVec.eq_of_toNat_eq ha)) hmode
  · obtain ⟨hs, hp, hv, hq⟩ := s.ctx.csrWrite_registers o (s.rs d) s.was.supervisor h18
    rw [State.ctx_modCtx]
    exact ⟨hs, hp, hv, hq, fun a => rfl⟩

theorem completes_csr_user (s : State) (o : CsrOp) (d : BitVec 6) {r : BitVec 12} {mask : W64}
    (h : (r.toNat, mask, false) ∈ plainCsrs) (hmode : s.was.supervisor = false) :
    Completes (o.instr d r) s fun t =>
      t.csrOf s.focus.cell s.focus.ctx r.toNat = s.csrOf s.focus.cell s.focus.ctx r.toNat := by
  obtain ⟨hr, h18⟩ := plainCsrs_number h
  refine completes_csr s o d hr h18 ?_
  rw [s.csrOf_modCtx _ hr, s.csrOf_ctx hr, hmode, s.ctx.csrWrite_user o _ h]

theorem completes_csr_priv (s : State) (o : CsrOp) (d : BitVec 6) {r : BitVec 12} (hmode : s.was.supervisor = false)
    (hr : 0x200 ≤ r.toNat) : Completes (o.instr d r) s (· = s.stop 0x03 0) :=
  ⟨_, exec_csr o d r s, by simp [State.csrExec, State.csrPriv, hmode, hr]⟩

/-- Settles O16: each clause for the three forms of a write. -/
theorem csrWrites : Obligations.CsrWrites := by
  intro s d r mask user v csr gets
  refine ⟨?_, ?_, fun hflags h => ⟨fun hmode => ?_, ?_⟩, fun hmode hr => ?_⟩
  · rintro rfl b - hb
    exact ⟨completes_csr_fpctl s .write d hb, completes_csr_fpctl s .set d hb, completes_csr_fpctl s .clear d hb⟩
  · rintro rfl hsup
    exact ⟨completes_csr_errSticky s .write d hsup, completes_csr_errSticky s .clear d hsup,
      completes_csr_errSticky s .set d hsup⟩
  · exact ⟨completes_csr_plain s .write d h hflags hmode, completes_csr_plain s .set d h hflags hmode,
      completes_csr_plain s .clear d h hflags hmode⟩
  · rintro hmode rfl
    exact ⟨completes_csr_user s .write d h hmode, completes_csr_user s .set d h hmode,
      completes_csr_user s .clear d h hmode⟩
  · exact ⟨completes_csr_priv s .write d hmode hr, completes_csr_priv s .set d hmode hr,
      completes_csr_priv s .clear d hmode hr⟩

end Sys2Proof.Machine
end

section
/-! The fields of a local form's address (R72, R73), and R74 as one chain of tests on them. -/

namespace Sys2Proof.Machine
open Sys2Proof

/-! ## Fields of a local address -/

section
variable {s : State} {c : Nat} {ea : W64}

theorem toNat_append_add {m n : Nat} (x : BitVec m) (y : BitVec n) : (x ++ y).toNat = x.toNat * 2 ^ n + y.toNat := by
  rw [BitVec.toNat_append, ← Nat.shiftLeft_add_eq_or_of_lt y.isLt, Nat.shiftLeft_eq]

theorem State.cellPrefix_toNat (s : State) {c : Nat} (hc : c < 2048) :
    (s.cellPrefix c).toNat = s.pkg.number.toNat * 2 ^ 11 + c := by
  rw [State.cellPrefix, toNat_append_add, BitVec.toNat_ofNat, Nat.mod_eq_of_lt (show c < 2 ^ 11 from hc)]

theorem State.localAddr_toNat (s : State) {c : Nat} (hc : c < 2048) (ea : W64) :
    (s.localAddr c ea).toNat = (s.pkg.number.toNat * 2 ^ 11 + c) * 2 ^ 43 + ea.toNat % 2 ^ 43 := by
  simp only [State.localAddr, toNat_append_add, s.cellPrefix_toNat hc, BitVec.extractLsb'_toNat, Nat.shiftRight_zero]

theorem aSpace_localAddr (hc : c < 2048) : aSpace (s.localAddr c ea) = ea.toNat / 2 ^ 41 % 4 := by
  simp only [aSpace, BitVec.extractLsb'_toNat, s.localAddr_toNat hc, Nat.shiftRight_eq_div_pow]
  omega

theorem aOff_localAddr (hc : c < 2048) : aOff (s.localAddr c ea) = ea.toNat % 2 ^ 26 := by
  simp only [aOff, BitVec.extractLsb'_toNat, s.localAddr_toNat hc, Nat.shiftRight_zero]
  omega

theorem aCell_localAddr (hc : c < 2048) : aCell (s.localAddr c ea) = c := by
  simp only [aCell, BitVec.extractLsb'_toNat, s.localAddr_toNat hc, Nat.shiftRight_eq_div_pow]
  omega

theorem aPkg_localAddr (hc : c < 2048) : aPkg (s.localAddr c ea) = s.pkg.number := by
  have hn := s.pkg.number.isLt
  apply BitVec.eq_of_toNat_eq
  simp only [aPkg, BitVec.extractLsb'_toNat, s.localAddr_toNat hc, Nat.shiftRight_eq_div_pow]
  omega

theorem aRsvd_localAddr_eq_zero (hc : c < 2048) :
    aRsvd (s.localAddr c ea) = 0 ↔ ea.toNat / 2 ^ 26 % 2 ^ 15 = 0 := by
  rw [← BitVec.toNat_inj]
  simp only [aRsvd, BitVec.extractLsb'_toNat, s.localAddr_toNat hc, Nat.shiftRight_eq_div_pow]
  have hz : (0 : BitVec 15).toNat = 0 := rfl
  omega

/-- The prefixes that a local form may carry (R73): zero, or that of the issuing cell. -/
theorem State.localOk_iff (hc : c < 2048) : s.localOk c ea = true ↔
    ea.toNat / 2 ^ 43 = 0 ∨ ea.toNat / 2 ^ 43 = s.pkg.number.toNat * 2 ^ 11 + c := by
  have hea := ea.isLt
  simp only [State.localOk, Bool.or_eq_true, beq_iff_eq, ← BitVec.toNat_inj, BitVec.extractLsb'_toNat,
    s.cellPrefix_toNat hc, Nat.shiftRight_eq_div_pow]
  have hz : (0 : BitVec 21).toNat = 0 := rfl
  omega

end

theorem spaceSize_eq (c : Nat) {sp : Nat} (h : sp < 4) : spaceSize c sp =
    if sp = 0 then (if c / 256 % 2 = 1 then 0x100000 else 0x200000) else if sp = 1 then 0x3000000
      else if sp = 2 then 0x20000 else 0x8000 := by
  have : sp = 0 ∨ sp = 1 ∨ sp = 2 ∨ sp = 3 := by omega
  rcases this with rfl | rfl | rfl | rfl <;> simp [spaceSize, isC, dieOf]

/-! ## R74 -/

/-- What makes a local access of `n` bytes an ADDR error: the address of another cell, a reserved bit of the address, or an
end beyond the space or beyond CSR 0x3FF. -/
def State.AddrError (s : State) (ea : W64) (n : Nat) : Prop :=
  let sp := ea.toNat / 2 ^ 41 % 4
  let off := ea.toNat % 2 ^ 26
  s.localOk s.focus.cell ea = false ∨ ea.toNat / 2 ^ 26 % 2 ^ 15 ≠ 0 ∨ spaceSize s.focus.cell sp < off + n ∨
    (sp = 3 ∧ 0x2000 < off + n)

/-- What makes it a PERM error where it is none of the others. -/
def State.PermError (s : State) (ea : W64) (n : Nat) (store amo : Bool) : Prop :=
  let sp := ea.toNat / 2 ^ 41 % 4
  let off := ea.toNat % 2 ^ 26
  (store = true ∧ sp = 2) ∨ (amo = true ∧ 2 ≤ sp) ∨ (s.was.supervisor = false ∧
    ((sp = 3 ∧ 0x1000 < off + n) ∨ (sp = 1 ∧ 0x2F80000 < off + n)))

open Classical in
/-- The kind of a forbidden local access is that of the first test that it fails: ADDR, ALIGN, SYNC, PERM. -/
theorem State.localError_eq (s : State) (ea : W64) (n align : Nat) (store sync amo : Bool)
    (hpkg : s.pkg.number.toNat ≤ 992) (hc : s.focus.cell < 2048) :
    s.localError ea n align store sync amo =
      if s.AddrError ea n then some 0
      else if ea.toNat % 2 ^ 26 % align ≠ 0 then some 1
      else if sync = true ∧ ea.toNat / 2 ^ 41 % 4 ≠ 0 then some 3
      else if s.PermError ea n store amo then some 2
      else none := by
  have hpkg' : ¬992 < s.pkg.number.toNat := by omega
  unfold State.localError State.AddrError State.PermError
  by_cases hown : s.localOk s.focus.cell ea = true
  · simp only [hown, if_true, accessError, aSpace_localAddr hc, aOff_localAddr hc, aCell_localAddr hc, aPkg_localAddr hc,
      hpkg', Bool.or_eq_true, Bool.and_eq_true, bne_iff_ne, beq_iff_eq, decide_eq_true_eq, ne_eq,
      aRsvd_localAddr_eq_zero hc, kAddr, kAlign, kSync, kPerm, Bool.not_eq_true', false_or, or_false, Bool.false_eq_true,
      Bool.true_eq_false, false_and]
    congr 1
    · simp only [or_assoc]
    · congr 3
      apply propext
      tauto
  · simp [hown, kAddr]

/-- Which branch a chain of four tests takes, by its answer. -/
theorem kindOf_chain {A B C D : Prop} [Decidable A] [Decidable B] [Decidable C] [Decidable D] {r : Option Nat}
    (h : r = if A then some 0 else if B then some 1 else if C then some 3 else if D then some 2 else none) :
    (r = some 0 ↔ A) ∧ (r = some 1 ↔ ¬A ∧ B) ∧ (r = some 3 ↔ ¬A ∧ ¬B ∧ C) ∧ (r = some 2 ↔ ¬A ∧ ¬B ∧ ¬C ∧ D) ∧
    (r = none ↔ ¬A ∧ ¬B ∧ ¬C ∧ ¬D) := by
  subst h
  by_cases hA : A
  · simp [hA]
  · by_cases hB : B
    · simp [hA, hB]
    · by_cases hC : C
      · simp [hA, hB, hC]
      · by_cases hD : D
        · simp [hA, hB, hC, hD]
        · simp [hA, hB, hC, hD]

/-- Settles O28: each kind is one branch of the chain of `State.localError_eq`. -/
theorem accessChecks : Obligations.AccessChecks := by
  intro s ea n align store sync amo hpkg c own sp off size badAddr badPerm hc
  have haddr : s.AddrError ea n ↔ badAddr := by
    have hown : s.localOk c ea = false ↔ ¬own := by rw [← Bool.not_eq_true, State.localOk_iff hc]
    have hsize : spaceSize c sp = size := spaceSize_eq c (Nat.mod_lt _ (by decide))
    show _ ∨ _ ∨ spaceSize c sp < _ ∨ _ ↔ badAddr
    rw [hown, hsize]
  have hperm : s.PermError ea n store amo ↔ badPerm := Iff.rfl
  classical
  have hkinds := kindOf_chain (s.localError_eq ea n align store sync amo hpkg hc)
  simp only [haddr, hperm, not_not, ne_eq] at hkinds
  exact hkinds

end Sys2Proof.Machine
end

section
/-! What the shared operations leave of the issuing context: registers under a hold, an error response and a wait; the record
of an error response; full bits of a range of words. -/

namespace Sys2Proof.Machine
open Sys2Proof

/-! ## Registers -/

theorem SameRegisters.refl (x : Ctx) : SameRegisters x x := ⟨rfl, rfl, rfl, rfl, rfl, rfl, rfl⟩

theorem SameRegisters.of_eq {x y : Ctx} (h : y = x) : SameRegisters x y := h ▸ .refl x

theorem SameRegisters.trans {x y z : Ctx} (h : SameRegisters x y) (g : SameRegisters y z) : SameRegisters x z := by
  obtain ⟨h1, h2, h3, h4, h5, h6, h7⟩ := h
  obtain ⟨g1, g2, g3, g4, g5, g6, g7⟩ := g
  exact ⟨g1.trans h1, g2.trans h2, g3.trans h3, g4.trans h4, g5.trans h5, g6.trans h6, g7.trans h7⟩

/-- Memory with the bytes of another state is that state's, byte by byte. -/
theorem State.byte_of_mem {s t : State} (h : t.mem = s.mem) (j : Nat) : t.byte j = s.byte j := by
  unfold State.byte
  rw [h]

@[simp] theorem State.ctx_post (s : State) (i : Instr) (a : Args) : (s.post i a).ctx = s.ctx := rfl
@[simp] theorem State.ctx_after (s : State) (dt : Nat) (i : Instr) (a : Args) : (s.after dt i a).ctx = s.ctx := rfl

/-- An update of the issuing cell that keeps its banks keeps the issuing context. -/
theorem State.ctx_modHere {s : State} {f : Cell → Cell} (h : (f s.here).ctxs = s.here.ctxs) : (s.modHere f).ctx = s.ctx := by
  unfold State.ctx
  rw [State.here_modHere, State.modHere_focus]
  unfold Cell.ctx
  rw [h]

/-- A bundle that is held: its context waits at its address, with its registers. -/
theorem State.block_holds (s : State) (h : Hold) :
    (s.block h).ctx.st = .blocked ∧ (s.block h).ctx.hold = h ∧ (s.block h).ctx.pc = s.focus.pc ∧
    SameRegisters s.ctx (s.block h).ctx := by
  have hctx : (s.block h).ctx = { s.ctx with
      st := .blocked, hold := h, heldAt := if s.ctx.hold = h then s.ctx.heldAt else s.cycle, pc := s.focus.pc } := by
    unfold State.block
    rw [State.ctx_modHere rfl, State.ctx_modCtx]
  rw [hctx]
  exact ⟨rfl, rfl, rfl, .refl _⟩

/-! ## Error responses (R167-R169) -/

theorem violInfo_toNat {pc slot sz oc : Nat} (vec store far : Bool) (hslot : slot < 14) (hsz : sz < 4) (hoc : oc < 8) :
    (violInfo pc slot sz vec store far oc).toNat = pc % 2 ^ 17 + slot * 2 ^ 17 + sz * 2 ^ 24 + vec.toNat * 2 ^ 26 +
      store.toNat * 2 ^ 27 + far.toNat * 2 ^ 28 + oc * 2 ^ 29 := by
  have := vec.toNat_lt
  have := store.toNat_lt
  have := far.toNat_lt
  rw [violInfo, BitVec.toNat_ofNat, Nat.mod_eq_of_lt]
  omega

/-- The bits of KIND are free in `VIOL_INFO` without it. -/
theorem violInfo_or_kind {pc slot sz oc kind : Nat} (vec store far : Bool) (hslot : slot < 14) (hsz : sz < 4) (hoc : oc < 8)
    (hk : kind < 8) : (violInfo pc slot sz vec store far oc ||| BitVec.ofNat 64 (kind * 2 ^ 21)).toNat =
      (violInfo pc slot sz vec store far oc).toNat + kind * 2 ^ 21 := by
  obtain ⟨hi, lo, hlo, hsum⟩ : ∃ hi lo, lo < 2 ^ 21 ∧ (violInfo pc slot sz vec store far oc).toNat = hi * 2 ^ 24 + lo := by
    refine ⟨sz + vec.toNat * 4 + store.toNat * 8 + far.toNat * 16 + oc * 32, pc % 2 ^ 17 + slot * 2 ^ 17, by omega, ?_⟩
    rw [violInfo_toNat vec store far hslot hsz hoc]
    ring
  have hkind : (BitVec.ofNat 64 (kind * 2 ^ 21)).toNat = kind <<< 21 := by
    rw [BitVec.toNat_ofNat, Nat.shiftLeft_eq, Nat.mod_eq_of_lt (by omega)]
  have hmid : kind <<< 21 + lo < 2 ^ 24 := by rw [Nat.shiftLeft_eq]; omega
  calc _ = hi <<< 24 ||| lo ||| kind <<< 21 := by
        rw [BitVec.toNat_or, hsum, hkind, ← Nat.shiftLeft_eq, Nat.shiftLeft_add_eq_or_of_lt (by omega : lo < 2 ^ 24)]
    _ = hi <<< 24 + (kind <<< 21 + lo) := by
        rw [Nat.or_assoc, Nat.or_comm lo, ← Nat.shiftLeft_add_eq_or_of_lt hlo, ← Nat.shiftLeft_add_eq_or_of_lt hmid]
    _ = _ := by rw [hsum, Nat.shiftLeft_eq, Nat.shiftLeft_eq]; omega

/-- What an error response leaves in its context. -/
theorem Ctx.violate_records (x : Ctx) {kind : Nat} (addr : W64) {info : W64} (hk : kind < 7)
    (hinfo : (info ||| BitVec.ofNat 64 (kind * 2 ^ 21)).toNat = info.toNat + kind * 2 ^ 21) :
    RecordsViolation x (x.violate kind addr info) kind addr info := by
  have hbits : (BitVec.ofNat 64 (2 ^ kind + 0x80)).getLsbD kind = true ∧ (BitVec.ofNat 64 (2 ^ kind + 0x80)).getLsbD 7 = true ∧
      (BitVec.ofNat 64 (2 ^ kind)).getLsbD kind = true := by
    have : kind = 0 ∨ kind = 1 ∨ kind = 2 ∨ kind = 3 ∨ kind = 4 ∨ kind = 5 ∨ kind = 6 := by omega
    rcases this with rfl | rfl | rfl | rfl | rfl | rfl | rfl <;> decide
  obtain ⟨hmore, h7, hfirst⟩ := hbits
  by_cases h : x.errSticky = 0
  · refine ⟨?_, fun _ => ?_, fun hn => absurd h hn⟩
    · simpa [Ctx.violate, h] using hfirst
    · obtain ⟨ha, hi⟩ := Ctx.violate_first h kind addr info
      exact ⟨ha, hi ▸ hinfo⟩
  · obtain ⟨ha, hi⟩ := Ctx.violate_later h kind addr info
    have hsticky : (x.violate kind addr info).errSticky = x.errSticky ||| BitVec.ofNat 64 (2 ^ kind + 0x80) := by
      rw [Ctx.violate, if_neg h]
    refine ⟨?_, fun hz => absurd hz h, fun _ => ⟨?_, ha, hi⟩⟩
    · rw [hsticky, BitVec.getLsbD_or, hmore, Bool.or_true]
    · rw [hsticky, BitVec.getLsbD_or, h7, Bool.or_true]

theorem Ctx.violate_registers (x : Ctx) (kind : Nat) (addr info : W64) : SameRegisters x (x.violate kind addr info) := by
  unfold Ctx.violate
  split
  · exact .refl _
  · exact .refl _

/-- An error response of the issuing slot: the record of R167, the registers kept. -/
theorem State.violate_records (s : State) {kind sz oc : Nat} (addr : W64) (vec store far : Bool) (hk : kind < 7) (hsz : sz < 4)
    (hoc : oc < 8) :
    SameRegisters s.ctx (s.violate kind addr (s.infoOf sz vec store far oc)).ctx ∧
    (s.focus.slot < 14 → RecordsViolation s.ctx (s.violate kind addr (s.infoOf sz vec store far oc)).ctx kind addr
      (violInfo s.focus.pc s.focus.slot sz vec store far oc)) := by
  unfold State.violate
  rw [State.ctx_modCtx]
  refine ⟨Ctx.violate_registers .., fun hslot => Ctx.violate_records _ _ hk ?_⟩
  exact violInfo_or_kind vec store far hslot hsz hoc (by omega)

theorem accessError_lt {a : Access} {k : Nat} (h : accessError a = some k) : k < 4 := by
  unfold accessError at h
  simp only at h
  split at h
  · cases h; decide
  · split at h
    · cases h; decide
    · split at h
      · cases h; decide
      · split at h
        · cases h; decide
        · cases h

theorem State.localError_lt {s : State} {ea : W64} {n align : Nat} {store sync amo : Bool} {k : Nat}
    (h : s.localError ea n align store sync amo = some k) : k < 4 := by
  unfold State.localError at h
  split at h
  · exact accessError_lt h
  · cases h; decide

/-! ## Full bits -/

theorem State.isFull_setFull {s : State} (h : Tab.wf true s.full = true) (k j : Nat) (b : Bool) :
    (s.setFull k b).isFull j = if wordOf j = wordOf k then b else s.isFull j :=
  Tab.get_set h ..

theorem State.wf_setFull {s : State} (h : Tab.wf true s.full = true) (k : Nat) (b : Bool) :
    Tab.wf true (s.setFull k b).full = true := Tab.wf_set h ..

/-- Full bits after those of `n` consecutive words from `k` are set. -/
theorem State.isFull_setFull_words {s : State} (h : Tab.wf true s.full = true) {k : Nat} (hk : k % 8 = 0) (n j : Nat) (b : Bool) :
    ((List.range n).foldl (fun t i => t.setFull (k + 8 * i) b) s).isFull j =
      if k ≤ j ∧ j < k + 8 * n then b else s.isFull j := by
  suffices H : Tab.wf true ((List.range n).foldl (fun t i => t.setFull (k + 8 * i) b) s).full = true ∧
      ((List.range n).foldl (fun t i => t.setFull (k + 8 * i) b) s).isFull j =
        if k ≤ j ∧ j < k + 8 * n then b else s.isFull j from H.2
  induction n with
  | zero =>
    have : ¬(k ≤ j ∧ j < k + 8 * 0) := by omega
    exact ⟨h, by rw [if_neg this]; rfl⟩
  | succ n ih =>
    obtain ⟨hw, hf⟩ := ih
    rw [List.range_succ, List.foldl_append]
    refine ⟨State.wf_setFull hw _ _, ?_⟩
    show (State.setFull _ _ b).isFull j = _
    rw [State.isFull_setFull hw, hf]
    have hword : wordOf j = wordOf (k + 8 * n) ↔ k + 8 * n ≤ j ∧ j < k + 8 * n + 8 := by unfold wordOf; omega
    by_cases h1 : k + 8 * n ≤ j ∧ j < k + 8 * n + 8
    · have h2 : k ≤ j ∧ j < k + 8 * (n + 1) := by omega
      rw [if_pos (hword.2 h1), if_pos h2]
    · rw [if_neg fun e => h1 (hword.1 e)]
      by_cases h2 : k ≤ j ∧ j < k + 8 * n
      · have h3 : k ≤ j ∧ j < k + 8 * (n + 1) := by omega
        rw [if_pos h2, if_pos h3]
      · have h3 : ¬(k ≤ j ∧ j < k + 8 * (n + 1)) := by omega
        rw [if_neg h2, if_neg h3]

/-- Full bits of a range of whole words. -/
theorem State.isFull_setFullRange {s : State} (h : Tab.wf true s.full = true) {k n : Nat} (hk : k % 8 = 0) (hn : n % 8 = 0)
    (j : Nat) (b : Bool) : (s.setFullRange k n b).isFull j = if k ≤ j ∧ j < k + n then b else s.isFull j := by
  unfold State.setFullRange
  split
  · next h0 => rw [if_neg (by omega)]
  · next h0 =>
    have hword : wordOf k = k := by unfold wordOf; omega
    have hcount : wordOf (k + n - 1) / 8 - wordOf k / 8 + 1 = n / 8 := by unfold wordOf; omega
    rw [hcount, hword, State.isFull_setFull_words h hk]
    have : k + 8 * (n / 8) = k + n := by omega
    rw [this]

/-- Setting full bits changes nothing else. -/
theorem State.setFullRange_eq (s : State) (k n : Nat) (b : Bool) :
    s.setFullRange k n b = { s with full := (s.setFullRange k n b).full } := by
  unfold State.setFullRange
  split
  · rfl
  · exact foldl_keep (fun t : State => t = { s with full := t.full }) _
      (fun t i ht => by rw [ht]; rfl) _ s rfl

end Sys2Proof.Machine
end

section
/-! Performing local accesses that wait (R285, R286): what it leaves of the banks, and which accesses still wait. -/

namespace Sys2Proof.Tab
open Sys2Proof
variable {α : Type}

/-- Reading a table whose entries have been mapped: the mapped entry, or the value of an unlisted number as before. -/
theorem get_map (d : α) (h : Nat → α → α) (t : Tab α) (j : Nat) :
    get d (t.map fun e => (e.1, h e.1 e.2)) j = h j (get d t j) ∨
    (get d t j = d ∧ get d (t.map fun e => (e.1, h e.1 e.2)) j = d) := by
  induction t with
  | nil => exact .inr ⟨rfl, rfl⟩
  | cons e t ih =>
    obtain ⟨i, a⟩ := e
    simp only [List.map, get]
    by_cases h1 : i = j
    · subst h1; simp
    · by_cases h2 : j < i
      · simp [h1, h2]
      · simpa [h1, h2] using ih

/-- What mapping the entries keeps of each value, reading keeps. -/
theorem get_map_of_eq {β : Type} (d : α) {g : Nat × α → Nat × α} (P : α → β) (hk : ∀ e, (g e).1 = e.1)
    (hg : ∀ e, P (g e).2 = P e.2) (t : Tab α) (j : Nat) : P (get d (t.map g) j) = P (get d t j) := by
  induction t with
  | nil => rfl
  | cons e t ih =>
    obtain ⟨i, a⟩ := e
    have h1 : g (i, a) = (i, (g (i, a)).2) := Prod.ext (hk (i, a)) rfl
    rw [List.map, h1]
    simp only [get]
    by_cases h2 : i = j
    · simpa [h2] using hg (i, a)
    · by_cases h3 : j < i
      · simp [h2, h3]
      · simpa [h2, h3] using ih

end Sys2Proof.Tab

namespace Sys2Proof.Machine
open Sys2Proof

/-- What performing an access changes of a bank: results in flight, operations outstanding and accesses that wait. -/
def Ctx.Settled (x y : Ctx) : Prop := ∃ land awaits pend, y = { x with land := land, awaits := awaits, pend := pend }

namespace Ctx.Settled
variable {x y z : Ctx}

theorem refl (x : Ctx) : Ctx.Settled x x := ⟨x.land, x.awaits, x.pend, rfl⟩

theorem trans (h : Ctx.Settled x y) (g : Ctx.Settled y z) : Ctx.Settled x z := by
  obtain ⟨_, _, _, rfl⟩ := h
  obtain ⟨l, a, p, rfl⟩ := g
  exact ⟨l, a, p, rfl⟩

theorem registers (h : Ctx.Settled x y) : SameRegisters x y := by
  obtain ⟨_, _, _, rfl⟩ := h
  exact .refl _

theorem rwPerm (h : Ctx.Settled x y) : y.rwPerm = x.rwPerm := by
  obtain ⟨_, _, _, rfl⟩ := h
  rfl

theorem window (h : Ctx.Settled x y) : y.window = x.window := by
  obtain ⟨_, _, _, rfl⟩ := h
  rfl

theorem supply (b : Ctx) (seq : Nat) (dst : ReadTo) (off : Nat) (l : List Byte) (hollow : Bool) :
    Ctx.Settled b (b.supply seq dst off l hollow) := by
  cases dst with
  | scalar signed => exact ⟨_, b.awaits, b.pend, rfl⟩
  | vec cls => exact ⟨_, b.awaits, b.pend, rfl⟩
  | await => exact ⟨b.land, _, b.pend, rfl⟩

end Ctx.Settled

@[simp] theorem Ctx.supply_pend (b : Ctx) (seq : Nat) (dst : ReadTo) (off : Nat) (l : List Byte) (hollow : Bool) :
    (b.supply seq dst off l hollow).pend = b.pend := by
  cases dst <;> rfl

/-- What no performed access changes: the focus, the snapshot, the dies and the banks. -/
structure State.SameBanks (s t : State) : Prop where
  focus : t.focus = s.focus
  snap : t.snap = s.snap
  dies : t.dies = s.dies
  ctxOf : ∀ c x, t.ctxOf c x = s.ctxOf c x

namespace State.SameBanks
variable {s t u : State}

theorem refl (s : State) : State.SameBanks s s := ⟨rfl, rfl, rfl, fun _ _ => rfl⟩

theorem trans (h : State.SameBanks s t) (g : State.SameBanks t u) : State.SameBanks s u :=
  ⟨g.focus.trans h.focus, g.snap.trans h.snap, g.dies.trans h.dies, fun c x => (g.ctxOf c x).trans (h.ctxOf c x)⟩

theorem foldl {α : Type} {f : State → α → State} (hf : ∀ t a, State.SameBanks t (f t a)) (l : List α) (s : State) :
    State.SameBanks s (l.foldl f s) :=
  foldl_keep (State.SameBanks s) f (fun t a h => h.trans (hf t a)) l s (.refl s)

/-- An update of a cell that keeps its banks. -/
theorem modCell {f : Cell → Cell} (hf : ∀ k, (f k).ctxs = k.ctxs) (s : State) (c : Nat) : State.SameBanks s (s.modCell c f) := by
  refine ⟨rfl, rfl, rfl, fun j x => ?_⟩
  unfold State.ctxOf Cell.ctx
  rw [State.cell_modCell]
  split
  · next h => rw [hf, h]
  · rfl

theorem withDraws {n : Nat} (h : State.SameBanks s t) : State.SameBanks s { t with draws := n } :=
  ⟨h.focus, h.snap, h.dies, h.ctxOf⟩

theorem writeBytes (s : State) (k : Nat) (l : List Byte) : State.SameBanks s (s.writeBytes k l) := by
  induction l generalizing s k with
  | nil => exact .refl s
  | cons b l ih =>
    obtain ⟨h1, h2, h3, h4⟩ := ih (s.setByte k b) (k + 1)
    exact ⟨h1, h2, h3, h4⟩

theorem overwrite (s : State) (k : Nat) (l : List Byte) : State.SameBanks s (s.overwrite k l) := by
  obtain ⟨h1, h2, h3, h4⟩ := writeBytes s k l
  exact ⟨h1, h2, h3, h4⟩

theorem recHorizon (s : State) (c : Nat) : State.SameBanks s (s.recHorizon c) := by
  unfold State.recHorizon
  simp only
  refine trans ?_ (modCell (fun _ => by rfl) _ _)
  refine (overwrite _ _ _).trans (foldl (fun t i => ?_) _ _)
  split
  · exact overwrite _ _ _
  · exact .refl _

theorem recLog (s : State) (c kind b9 : Nat) (fail : Bool) (pc slot : Nat) (d0 d1 : W64) :
    State.SameBanks s (s.recLog c kind b9 fail pc slot d0 d1) := by
  unfold State.recLog
  split
  · exact .refl s
  · split
    · exact (overwrite _ _ _).trans (modCell (fun _ => by rfl) _ _)
    · exact recHorizon s c

theorem noteTable (s : State) (c x oc key n : Nat) : State.SameBanks s (s.noteTable c x oc key n) := by
  unfold State.noteTable
  split
  · exact .refl s
  · exact ⟨rfl, rfl, rfl, fun _ _ => rfl⟩

theorem engineSees (s : State) (c x key : Nat) (l : List Byte) : State.SameBanks s (s.engineSees c x key l) := by
  unfold State.engineSees
  simp only
  split
  · exact .refl s
  · refine foldl (fun t e => ?_) _ s
    exact withDraws (modCell (fun _ => by rfl) t c)

theorem storeBytes (s : State) (c x oc key : Nat) (l : List Byte) : State.SameBanks s (s.storeBytes c x oc key l) :=
  ((noteTable s c x oc key l.length).trans (overwrite _ key l)).trans (engineSees _ c x key l)

theorem settlePart (s : State) (c x : Nat) (b : Ctx) (e : Pend) (p : Piece) : State.SameBanks s (s.settlePart c x b e p).1 := by
  unfold State.settlePart
  split
  · exact storeBytes ..
  · exact ⟨rfl, rfl, rfl, fun _ _ => rfl⟩
  · exact .refl s
  · simp only
    split
    · split
      · exact (storeBytes ..).trans (recLog ..)
      · exact storeBytes ..
    · exact storeBytes ..

end State.SameBanks

/-- Performing one part of an access supplies its reader, and no more of the bank. -/
theorem State.settlePart_bank (s : State) (c x : Nat) (b : Ctx) (e : Pend) (p : Piece) :
    Ctx.Settled b (s.settlePart c x b e p).2 ∧ (s.settlePart c x b e p).2.pend = b.pend := by
  unfold State.settlePart
  split
  · exact ⟨.refl b, rfl⟩
  · exact ⟨.refl b, rfl⟩
  · exact ⟨Ctx.Settled.supply .., Ctx.supply_pend ..⟩
  · simp only
    exact ⟨Ctx.Settled.supply .., Ctx.supply_pend ..⟩

/-- Performing whole accesses: what it leaves of the banks, and which accesses of the bank still wait. -/
theorem State.settleList_keeps (s : State) (c x : Nat) (b : Ctx) (l : List Pend) :
    State.SameBanks s (s.settleList c x b l).1 ∧ Ctx.Settled b (s.settleList c x b l).2 ∧
    ∀ d, d ∈ (s.settleList c x b l).2.pend → d ∈ b.pend ∧ ∀ e, e ∈ l → d.seq ≠ e.seq := by
  induction l generalizing s b with
  | nil => exact ⟨.refl s, .refl b, fun d hd => ⟨hd, nofun⟩⟩
  | cons e l ih =>
    let q := e.pieces.foldl (fun (r : State × Ctx) p => r.1.settlePart c x r.2 e p) (s, b)
    have hq : State.SameBanks s q.1 ∧ Ctx.Settled b q.2 ∧ q.2.pend = b.pend :=
      foldl_keep (fun r : State × Ctx => State.SameBanks s r.1 ∧ Ctx.Settled b r.2 ∧ r.2.pend = b.pend) _
        (fun r p hr => ⟨hr.1.trans (.settlePart ..), hr.2.1.trans (State.settlePart_bank ..).1,
          (State.settlePart_bank ..).2.trans hr.2.2⟩) e.pieces (s, b) ⟨.refl s, .refl b, rfl⟩
    obtain ⟨hsame, hbank, hpend⟩ := hq
    obtain ⟨ihsame, ihbank, ihpend⟩ := ih q.1 { q.2 with pend := q.2.pend.filter fun d => d.seq != e.seq }
    refine ⟨hsame.trans ihsame, (hbank.trans ⟨q.2.land, q.2.awaits, _, rfl⟩).trans ihbank, fun d hd => ?_⟩
    obtain ⟨hin, hleft⟩ := ihpend d hd
    obtain ⟨hb, hne⟩ := List.mem_filter.1 hin
    refine ⟨hpend ▸ hb, fun a ha => ?_⟩
    rcases List.mem_cons.1 ha with rfl | h
    · simpa using hne
    · exact hleft a h

/-- Performing the waiting accesses of a context that a condition names and that nothing keeps. -/
theorem State.settle_keeps (s : State) (c x : Nat) (f : Pend → Bool) :
    (s.settle c x f).focus = s.focus ∧ (s.settle c x f).snap = s.snap ∧ (s.settle c x f).dies = s.dies ∧
    Ctx.Settled (s.ctxOf c x) ((s.settle c x f).ctxOf c x) ∧
    ∀ d, d ∈ ((s.settle c x f).ctxOf c x).pend → d ∈ (s.ctxOf c x).pend ∧ ¬(f d = true ∧ s.free c (s.ctxOf c x) d = true) := by
  unfold State.settle
  split
  · next h =>
    refine ⟨rfl, rfl, rfl, .refl _, fun d hd => ?_⟩
    rw [List.isEmpty_iff.1 h] at hd
    cases hd
  · obtain ⟨hsame, hbank, hpend⟩ := State.settleList_keeps s c x (s.ctxOf c x)
      ((s.ctxOf c x).pend.filter fun e => f e && s.free c (s.ctxOf c x) e)
    refine ⟨hsame.focus, hsame.snap, hsame.dies, ?_, fun d hd => ?_⟩
    · rw [State.ctxOf_modCtxOf_same]
      exact hbank
    · rw [State.ctxOf_modCtxOf_same] at hd
      obtain ⟨hin, hleft⟩ := hpend d hd
      refine ⟨hin, fun hf => hleft d ?_ rfl⟩
      exact List.mem_filter.2 ⟨hin, by simp [hf.1, hf.2]⟩

theorem State.settle_nil {s : State} {c x : Nat} (h : (s.ctxOf c x).pend = []) (f : Pend → Bool) : s.settle c x f = s := by
  unfold State.settle
  simp [h]

/-- An access that belongs to every class goes on at once where no access of its context waits and no release is on its way
to its own cell. -/
theorem State.behindReleases_of_quiet {s : State} (hpend : s.ctx.pend = [])
    (haw : ∀ w, w ∈ s.ctx.awaits → s.barring s.focus.cell w = false) (f : State → State) : s.behindReleases f = f s := by
  have hids : (s.ctx.awaits.filter fun w => s.barring s.focus.cell w) = [] :=
    List.filter_eq_nil_iff.2 fun w hw => by simp [haw w hw]
  unfold State.behindReleases
  rw [hids]
  simp only [List.map_nil, List.isEmpty_nil, Bool.not_true, Bool.false_eq_true, if_false]
  rw [State.settle_nil hpend]

end Sys2Proof.Machine
end

section
/-! FENCE (R237, R300), STMC (R242) and ROT (R100-R102, R241). -/

namespace Sys2Proof.Machine
open Sys2Proof

/-! ## FENCE -/

/-- A place of the issuing cell lies in every scope of it. -/
theorem State.scopeHolds_own {s : State} {c : Nat} {a : W64} (hc : aCell a = c) (hp : aPkg a = s.pkg.number) (sc : Nat) :
    s.scopeHolds c sc a = true := by
  have hplace : placeCell c a = c := by
    unfold placeCell dieOf
    simp only [hc]
    split
    · omega
    · rfl
  unfold State.scopeHolds
  simp only [hplace, hp]
  split <;> simp

/-- A release on its way to the cell of its context lies in every scope of it, and counts among what a fence awaits. -/
theorem State.barring_in_scope {s : State} {c : Nat} {w : Await} (h : s.barring c w = true) (sc : Nat) :
    (w.kind != .xlt) = true ∧ s.scopeHolds c sc w.addr = true := by
  simp only [State.barring, Bool.and_eq_true, beq_iff_eq] at h
  obtain ⟨⟨⟨⟨hkind, -⟩, -⟩, hc⟩, hp⟩ := h
  exact ⟨by rw [hkind]; rfl, State.scopeHolds_own hc hp sc⟩

/-- No access of the classes that a fence has found performed waits for a release. -/
theorem State.free_of_open_nil {s : State} {c sc : Nat} {m : BitVec 8} {x : Ctx} {e : Pend}
    (h : (x.awaits.filter fun w => m.getLsbD w.oc && w.kind != .xlt && s.scopeHolds c sc w.addr) = [])
    (he : m.getLsbD e.oc = true) : s.free c x e = true := by
  have hnone : s.barred c e.oc x = [] := by
    refine List.map_eq_nil_iff.2 (List.filter_eq_nil_iff.2 fun w hw hb => ?_)
    simp only [Bool.and_eq_true, beq_iff_eq] at hb
    obtain ⟨hoc, hbar⟩ := hb
    obtain ⟨hkind, hscope⟩ := State.barring_in_scope hbar sc
    refine List.filter_eq_nil_iff.1 h w hw ?_
    rw [hoc, he, hkind, hscope]
    rfl
  unfold State.free
  rw [hnone]
  rfl

theorem State.ctxOf_dropTranslations (s : State) (sc c x : Nat) : (s.dropTranslations sc).ctxOf c x = s.ctxOf c x := by
  have hctxs : ((s.dropTranslations sc).cell c).ctxs = (s.cell c).ctxs := by
    refine Tab.get_map_of_eq Cell.reset Cell.ctxs (fun e => ?_) (fun e => ?_) s.cells c
    · split <;> rfl
    · split <;> rfl
  unfold State.ctxOf Cell.ctx
  rw [hctxs]

/-- A fence of die scope or beyond drops the edge translation buffer of its die. -/
theorem State.tb_dropTranslations (s : State) {sc : Nat} (hsc : 2 ≤ sc) :
    ((s.dropTranslations sc).die (dieOf s.focus.cell)).tb = [] := by
  have hmap := Tab.get_map Die.reset
    (fun d (k : Die) => if 3 ≤ sc ∨ (sc = 2 ∧ d = dieOf s.focus.cell) then { k with tb := [] } else k) s.dies (dieOf s.focus.cell)
  have hdie : (s.dropTranslations sc).die (dieOf s.focus.cell) = Tab.get Die.reset (s.dies.map fun e =>
      (e.1, if 3 ≤ sc ∨ (sc = 2 ∧ e.1 = dieOf s.focus.cell) then { e.2 with tb := [] } else e.2)) (dieOf s.focus.cell) := by
    refine congrArg (fun t => Tab.get Die.reset t (dieOf s.focus.cell)) (List.map_congr_left fun e _ => ?_)
    split <;> rfl
  rw [hdie]
  rcases hmap with h | ⟨-, h⟩
  · have : 3 ≤ sc ∨ (sc = 2 ∧ dieOf s.focus.cell = dieOf s.focus.cell) := by omega
    rw [h, if_pos this]
  · rw [h]; rfl

/-- What closing both Tarragon windows changes of a context. -/
theorem Ctx.closeWith_closes (x : Ctx) (perm : W64) : SameRegisters x (x.closeWith perm) ∧
    (x.closeWith perm).pend = x.pend ∧ ∀ e, e < 2 →
      (x.closeWith perm).window.get 0 e = x.window.get 0 e + 1 ∧ (x.closeWith perm).rwPermClosed.get 0 e = perm := by
  refine ⟨.refl _, rfl, fun e he => ?_⟩
  have : e = 0 ∨ e = 1 := by omega
  rcases this with rfl | rfl <;> simp [Ctx.closeWith, Ctx.closeOn, Tab.get_ins]

/-- The state before a fence closes the windows: the waiting accesses of its classes performed, what it makes visible shown,
and translations dropped. -/
def State.fenced (s : State) (m : BitVec 8) (sc : Nat) : State :=
  ((s.settle s.focus.cell s.focus.ctx fun e => m.getLsbD e.oc).showTables m sc).dropTranslations sc

/-- What a fence leaves of its context, snapshot and die before it closes the windows. -/
theorem State.fenced_keeps (s : State) (m : BitVec 8) (sc : Nat) :
    Ctx.Settled s.ctx (s.fenced m sc).ctx ∧ (s.fenced m sc).was.rwPerm = s.was.rwPerm ∧
    (2 ≤ sc → ((s.fenced m sc).die (dieOf s.focus.cell)).tb = []) ∧
    ∀ e, e ∈ (s.fenced m sc).ctx.pend → e ∈ s.ctx.pend ∧ ¬(m.getLsbD e.oc = true ∧ s.free s.focus.cell s.ctx e = true) := by
  obtain ⟨hfocus, hsnap, hdies, hbank, hpend⟩ :=
    s.settle_keeps s.focus.cell s.focus.ctx fun e => m.getLsbD e.oc
  let u := (s.settle s.focus.cell s.focus.ctx fun e => m.getLsbD e.oc).showTables m sc
  have hu : u.focus = s.focus := hfocus
  have hctx : (s.fenced m sc).ctx = (s.settle s.focus.cell s.focus.ctx fun e => m.getLsbD e.oc).ctxOf s.focus.cell s.focus.ctx := by
    show (u.dropTranslations sc).ctxOf u.focus.cell u.focus.ctx = _
    rw [State.ctxOf_dropTranslations, hu]
    rfl
  refine ⟨hctx ▸ hbank, ?_, fun hsc => ?_, fun e he => hpend e (hctx ▸ he)⟩
  · have hs : (s.fenced m sc).snap = s.snap := hsnap
    unfold State.was State.seen
    rw [hs]
    cases s.snap with
    | some k =>
      show (Cell.ctx k u.focus.ctx).rwPerm = _
      rw [hu]
      rfl
    | none =>
      show (s.fenced m sc).ctx.rwPerm = s.ctx.rwPerm
      rw [hctx]
      exact hbank.rwPerm
  · rw [← hu]
    exact u.tb_dropTranslations hsc

/-- The clauses of a fence that issues. -/
theorem completes_fence (s : State) (m : BitVec 8) (sc : BitVec 3)
    (h : (s.was.awaits.filter fun w => m.getLsbD w.oc && w.kind != .xlt && s.scopeHolds s.focus.cell sc.toNat w.addr) = []) :
    Completes (.fence m sc) s fun t => SameRegisters s.ctx t.ctx ∧
      (∀ e, e < 2 → t.ctx.window.get 0 e = s.ctx.window.get 0 e + 1 ∧ t.ctx.rwPermClosed.get 0 e = s.was.rwPerm) ∧
      (s.ctx.pend = [] → ∀ j, t.byte j = s.byte j) ∧ (m ≠ 0 → 2 ≤ sc.toNat → (t.die (s.focus.cell / 256)).tb = []) ∧
      (s.was.awaits = s.ctx.awaits → m ≠ 0 → ∀ e, e ∈ t.ctx.pend → m.getLsbD e.oc = false) := by
  have hheld : s.fenceHeld m sc.toNat = [] := List.map_eq_nil_iff.2 h
  by_cases hm : m = 0
  · refine ⟨s.closeWindow, ?_, ?_⟩
    · show execFence m sc s = _
      unfold execFence
      rw [hheld]
      simp [hm]
    · obtain ⟨hregs, -, hclose⟩ := s.ctx.closeWith_closes s.was.rwPerm
      have hctx : s.closeWindow.ctx = s.ctx.closeWith s.was.rwPerm := State.ctx_modCtx ..
      rw [hctx]
      exact ⟨hregs, hclose, fun _ _ => rfl, fun hn => absurd hm hn, fun _ hn => absurd hm hn⟩
  · obtain ⟨hbank, hperm, htb, hpend⟩ := s.fenced_keeps m sc.toNat
    refine ⟨(s.fenced m sc.toNat).closeWindow, ?_, ?_⟩
    · show execFence m sc s = _
      unfold execFence
      rw [hheld]
      simp only [List.isEmpty_nil, Bool.not_true, Bool.false_eq_true, if_false, if_neg hm]
      rfl
    · obtain ⟨hregs, hsame, hclose⟩ := (s.fenced m sc.toNat).ctx.closeWith_closes (s.fenced m sc.toNat).was.rwPerm
      have hctx : (s.fenced m sc.toNat).closeWindow.ctx =
        (s.fenced m sc.toNat).ctx.closeWith (s.fenced m sc.toNat).was.rwPerm := State.ctx_modCtx ..
      rw [hctx]
      refine ⟨hbank.registers.trans hregs, fun e he => ?_, fun hnil j => ?_, fun _ hsc => htb hsc, fun haw _ e he => ?_⟩
      · obtain ⟨hw, hr⟩ := hclose e he
        exact ⟨by rw [hw, hbank.window], hr.trans hperm⟩
      · have : s.settle s.focus.cell s.focus.ctx (fun e => m.getLsbD e.oc) = s := State.settle_nil hnil _
        show ((s.settle s.focus.cell s.focus.ctx fun e => m.getLsbD e.oc)).byte j = _
        rw [this]
      · obtain ⟨-, hn⟩ := hpend e (hsame ▸ he)
        cases hb : m.getLsbD e.oc with
        | false => rfl
        | true => exact absurd ⟨hb, State.free_of_open_nil (haw ▸ h) hb⟩ hn

/-! ## STMC -/

theorem State.addrOf_toNat (s : State) (c sp off : Nat) : (s.addrOf c sp off).toNat =
    (((s.pkg.number.toNat * 2 ^ 11 + c % 2 ^ 11) * 2 ^ 2 + sp % 2 ^ 2) * 2 ^ 15) * 2 ^ 26 + off % 2 ^ 26 := by
  simp only [State.addrOf, State.cellPrefix, toNat_append_add, BitVec.toNat_ofNat, Nat.add_zero, Nat.zero_mod]

@[simp] theorem aPkg_addrOf (s : State) (c sp off : Nat) : aPkg (s.addrOf c sp off) = s.pkg.number := by
  have hn := s.pkg.number.isLt
  apply BitVec.eq_of_toNat_eq
  simp only [aPkg, BitVec.extractLsb'_toNat, s.addrOf_toNat, Nat.shiftRight_eq_div_pow]
  omega

/-- What a request to a cell of the package leaves: one operation more outstanding, one message more in flight; package,
registers and memory as before. -/
theorem State.sendFrom_own {s : State} {base op reg : Nat} {kind : AwaitKind} {sz : BitVec 2} {twin : Bool} {addr : W64}
    {data : List Byte} {oc : Nat} {info : W64} (hown : aPkg addr = s.pkg.number) :
    ∃ w e, (s.sendFrom base op kind reg sz twin addr data oc info).ctx = { s.ctx with awaits := s.ctx.awaits ++ [w] } ∧
      w.addr = addr ∧ (s.sendFrom base op kind reg sz twin addr data oc info).agenda = s.agenda ++ [e] ∧
      (e.instr, e.args.req.op, e.args.req.addr, e.args.req.data) = (Instr.remoteRequest, BitVec.ofNat 8 op, addr, data) ∧
      (s.sendFrom base op kind reg sz twin addr data oc info).pkg = s.pkg ∧
      (s.sendFrom base op kind reg sz twin addr data oc info).mem = s.mem := by
  unfold State.sendFrom State.sendReq
  simp only
  rw [if_pos (by exact hown)]
  refine ⟨⟨s.here.nextId, kind, reg, 0xFF, 0, sz, true, twin, addr, oc, info, none, none, false, s.now⟩, _, ?_, rfl, rfl, rfl,
    rfl, rfl⟩
  rw [State.ctx_post, State.ctx_after, State.ctx_modCtx, State.ctx_modHere rfl]

/-- The message of a store-and-fill to a place, as far as R242 says it. -/
def storeFill (data : List Byte) (g : W64) : Instr × BitVec 8 × W64 × List Byte := (Instr.remoteRequest, 0x36#8, g, data)

/-- Requests to a list of places of the package: an operation outstanding and a message in flight for each, in order. -/
theorem State.sendFrom_each {α : Type} (s : State) (f : α → W64) (base : Nat) (data : List Byte) (info : W64) (l : List α)
    (hown : ∀ a, aPkg (f a) = s.pkg.number) :
    let t := l.foldl (fun t a => t.sendFrom base 0x36 .store 0 3 false (f a) data 0 info) s
    SameRegisters s.ctx t.ctx ∧ t.mem = s.mem ∧ t.pkg = s.pkg ∧
    (∃ ws, t.ctx.awaits = s.ctx.awaits ++ ws ∧ ws.map Await.addr = l.map f) ∧
    ∃ es, t.agenda = s.agenda ++ es ∧
      es.map (fun e => (e.instr, e.args.req.op, e.args.req.addr, e.args.req.data)) = l.map fun a => storeFill data (f a) := by
  induction l generalizing s with
  | nil => exact ⟨.refl _, rfl, rfl, ⟨[], by simp, rfl⟩, [], by simp, rfl⟩
  | cons a l ih =>
    obtain ⟨w, e, hctx, hw, hagenda, he, hpkg, hmem⟩ :=
      s.sendFrom_own (base := base) (op := 0x36) (kind := .store) (reg := 0) (sz := 3) (twin := false) (addr := f a) (data := data)
        (oc := 0) (info := info) (hown a)
    obtain ⟨hregs, hmem', hpkg', ⟨ws, haw, hws⟩, es, hes, hmsgs⟩ :=
      ih (s.sendFrom base 0x36 .store 0 3 false (f a) data 0 info) fun b => (hown b).trans (by rw [hpkg])
    refine ⟨SameRegisters.trans ?_ hregs, hmem'.trans hmem, hpkg'.trans hpkg, ⟨w :: ws, ?_, ?_⟩, e :: es, ?_, ?_⟩
    · rw [hctx]; exact .refl _
    · rw [List.foldl_cons, haw, hctx, List.append_assoc]; rfl
    · rw [List.map_cons, hw, hws]; rfl
    · rw [List.foldl_cons, hes, hagenda, List.append_assoc]; rfl
    · rw [List.map_cons, hmsgs, he]; rfl

/-- An operand of STMC that R242 forbids: reserved bits, or a start outside the ring. -/
def State.stmcBad (s : State) (a b : BitVec 6) : Prop :=
  2 ^ 26 ≤ (s.rs a).toNat ∨ 2 ^ 16 ≤ (s.rs b).toNat ∨ s.seen.regSize ≤ (s.rs b).toNat % 256

theorem State.stmcBad_iff (s : State) (a b : BitVec 6) :
    bitsAt (s.rs a) 26 38 ≠ 0 ∨ bitsAt (s.rs b) 16 48 ≠ 0 ∨ s.seen.regSize ≤ bitsAt (s.rs b) 0 8 ↔ s.stmcBad a b := by
  have ha := (s.rs a).isLt
  have hb := (s.rs b).isLt
  unfold State.stmcBad bitsAt
  omega

/-- The places to which STMC stores: those of its run of ring positions. -/
def State.stmcDests (s : State) (a b : BitVec 6) : List W64 :=
  let n := if (s.rs b).toNat / 256 % 256 = 0 then s.seen.regSize else (s.rs b).toNat / 256 % 256
  (List.range (min n s.seen.regSize)).map fun i =>
    s.addrOf ((s.ringOf s.focus.cell).getD (((s.rs b).toNat % 256 + i) % s.seen.regSize) 0) 0 ((s.rs a).toNat % 2 ^ 26)

/-- The clauses of STMC. -/
theorem completes_stmc (s : State) (d a b : BitVec 6) :
    let addr := s.addrOf s.focus.cell 0 ((s.rs a).toNat % 2 ^ 26)
    let info := violInfo s.focus.pc s.focus.slot 3 false true false 0
    let errs (kind : Nat) (t : State) : Prop := (s.focus.slot < 14 → RecordsViolation s.ctx t.ctx kind addr info) ∧
      SameRegisters s.ctx t.ctx ∧ ∀ j, t.byte j = s.byte j
    (s.stmcBad a b → Completes (.stmc d a b) s (errs 0)) ∧
    (∀ e, ¬s.stmcBad a b → s.localError addr 8 8 true true false = some e → Completes (.stmc d a b) s (errs e)) ∧
    (¬s.stmcBad a b → s.localError addr 8 8 true true false = none → Completes (.stmc d a b) s fun t =>
      (SameRegisters s.ctx t.ctx ∧ ∀ j, t.byte j = s.byte j) ∧
      (t.ctx.awaits.drop s.ctx.awaits.length).map Await.addr = s.stmcDests a b ∧
      (t.agenda.drop s.agenda.length).map (fun e => (e.instr, e.args.req.op, e.args.req.addr, e.args.req.data)) =
        (s.stmcDests a b).map (storeFill (toBytes 8 (s.rs d).toNat))) := by
  intro addr info errs
  have hoff : bitsAt (s.rs a) 0 26 = (s.rs a).toNat % 2 ^ 26 := by simp [bitsAt]
  have herrs (kind : Nat) (hk : kind < 7) : errs kind (s.violate kind addr (s.infoOf 3 false true false 0)) := by
    obtain ⟨hregs, hrec⟩ := s.violate_records addr false true false hk (by decide : 3 < 4) (by decide : 0 < 8)
    exact ⟨hrec, hregs, fun _ => rfl⟩
  have hexec (t : State) (h : execStmc d a b s = .next t) : exec (.stmc d a b) s = .next t := h
  refine ⟨fun hbad => ⟨_, hexec _ ?_, herrs 0 (by decide)⟩, fun e hok he => ⟨_, hexec _ ?_, herrs e ?_⟩, fun hok hfree => ?_⟩
  · simp only [execStmc, hoff]
    rw [if_pos ((s.stmcBad_iff a b).2 hbad)]
    rfl
  · simp only [execStmc, hoff]
    rw [if_neg (mt (s.stmcBad_iff a b).1 hok), he]
  · exact Nat.lt_trans (State.localError_lt he) (by decide)
  · obtain ⟨hregs, hmem, -, ⟨ws, haw, hws⟩, es, hes, hmsgs⟩ := s.sendFrom_each
      (fun i => s.addrOf ((s.ringOf s.focus.cell).getD (((s.rs b).toNat % 256 + i) % s.seen.regSize) 0) 0
        ((s.rs a).toNat % 2 ^ 26)) s.here.nextId (toBytes 8 (s.rs d).toNat) (s.infoOf 3 false true false 0)
      (List.range (min (if (s.rs b).toNat / 256 % 256 = 0 then s.seen.regSize else (s.rs b).toNat / 256 % 256) s.seen.regSize))
      (fun _ => aPkg_addrOf ..)
    refine ⟨_, hexec _ ?_, ⟨hregs, State.byte_of_mem hmem⟩, ?_, ?_⟩
    · have hstart : bitsAt (s.rs b) 0 8 = (s.rs b).toNat % 256 := by simp [bitsAt]
      have hn : bitsAt (s.rs b) 8 8 = (s.rs b).toNat / 256 % 256 := rfl
      simp only [execStmc, hoff]
      rw [if_neg (mt (s.stmcBad_iff a b).1 hok), hfree, hstart, hn]
    · rw [haw, List.drop_left, hws]; rfl
    · rw [hes, List.drop_left, hmsgs, State.stmcDests, List.map_map]; rfl

/-! ## ROT -/

/-- The bytes of a rotation's source, where it lies in scratch. -/
def State.rotData (s : State) (src n : Nat) : Option (List Byte) :=
  if inScratch s.focus.cell src n then some (s.readBytes (flat s.focus.cell 0 src) n) else none

/-- What a ROT does before it records its rotation: error responses, and the words of its destination empty. -/
def State.rotChecked (s : State) (src dst n : Nat) : State :=
  let c := s.focus.cell
  let t := if inScratch c src n then s else s.violate kAddr (s.addrOf c 0 src) (s.infoOf 0 true false false 0)
  if inScratch c dst n then t.setFullRange (flat c 0 dst) n false
  else t.violate kAddr (s.addrOf c 0 dst) (s.infoOf 0 true true false 0)

/-- The rotation that a ROT records. -/
def State.rotation (s : State) (src dst n : Nat) : Rotation :=
  ⟨flat s.focus.cell 0 src, s.poison.filter fun p =>
    decide (flat s.focus.cell 0 src < p.1 + 8) && decide (p.1 < flat s.focus.cell 0 src + n), s.rotData src n, dst, n, s.focus.ctx,
    s.ctx.task, s.focus.slot, s.here.nextId⟩

@[simp] theorem State.here_violate_nextId (s : State) (k : Nat) (x y : W64) : (s.violate k x y).here.nextId = s.here.nextId := by
  unfold State.violate State.modCtx State.modCtxOf State.here
  simp [Cell.putCtx]

theorem State.here_setFullRange (s : State) (k n : Nat) (b : Bool) : (s.setFullRange k n b).here = s.here := by
  rw [State.setFullRange_eq]; rfl

theorem State.ctx_setFullRange (s : State) (k n : Nat) (b : Bool) : (s.setFullRange k n b).ctx = s.ctx := by
  rw [State.setFullRange_eq]; rfl

theorem State.rotChecked_keeps (s : State) (src dst n : Nat) :
    (s.rotChecked src dst n).mem = s.mem ∧ (s.rotChecked src dst n).here.nextId = s.here.nextId := by
  unfold State.rotChecked
  constructor
  · have hs : MemSat (· = s.mem) s := rfl
    exact MemSat.ite (.setFullRange (.ite hs hs.violate)) (.violate (.ite hs hs.violate))
  · simp only
    split
    · rw [State.here_setFullRange]
      split
      · rfl
      · exact s.here_violate_nextId ..
    · rw [State.here_violate_nextId]
      split
      · rfl
      · exact s.here_violate_nextId ..

/-- A ROT that issues: its checks made, its rotation recorded under a new number, and no more of cell and memory changed. -/
theorem exec_rot (s : State) (d a b : BitVec 6) (hn : (s.rs d).toNat % 512 = 0) (hlo : 512 ≤ (s.rs d).toNat)
    (hhi : (s.rs d).toNat ≤ 16384) (hrot : s.here.rot = none) (hpend : s.ctx.pend = [])
    (haw : ∀ w, w ∈ s.ctx.awaits → s.barring s.focus.cell w = false) :
    let u := s.rotChecked (s.rs a).toNat (s.rs b).toNat (s.rs d).toNat
    ∃ t, exec (.rot d a b) s = .next t ∧ t.ctx = u.ctx ∧ t.full = u.full ∧ t.mem = s.mem ∧
      t.here.rot = some (s.rotation (s.rs a).toNat (s.rs b).toNat (s.rs d).toNat) ∧ t.here.nextId = s.here.nextId + 1 := by
  intro u
  have hbad : ¬((s.rs d).toNat % 512 ≠ 0 ∨ (s.rs d).toNat < 512 ∨ 16384 < (s.rs d).toNat) := by omega
  have hfree : rotHeld s.here = false := by rw [rotHeld, hrot]; rfl
  obtain ⟨hmem, hid⟩ := s.rotChecked_keeps (s.rs a).toNat (s.rs b).toNat (s.rs d).toNat
  let v := u.modHere fun k => { k with nextId := k.nextId + 1, rot := some { s.rotation (s.rs a).toNat (s.rs b).toNat (s.rs d).toNat with
    id := k.nextId } }
  have hctx : v.ctx = u.ctx := State.ctx_modHere rfl
  have hhere : v.here.rot = some (s.rotation (s.rs a).toNat (s.rs b).toNat (s.rs d).toNat) ∧ v.here.nextId = s.here.nextId + 1 := by
    rw [State.here_modHere]
    refine ⟨?_, congrArg (· + 1) hid⟩
    show some { s.rotation _ _ _ with id := u.here.nextId } = _
    rw [hid]
    rfl
  have hexec : exec (.rot d a b) s = .next (
      if (v.ringOf s.focus.cell).all (fun m => (v.cell m).rot.isSome) && !(v.ringOf s.focus.cell).isEmpty then
        v.afterCycles (1 + 12 + (v.ringOf s.focus.cell).foldl (fun m q =>
          match (v.cell q).rot with | some r => max m r.len | none => m) 0 / 64 + 2 * ringDmax v.here.regW v.here.regH) .rotComplete
          { Args.empty with die := dieOf s.focus.cell, origin := bitsAt v.here.regionId 0 8 }
      else v) := by
    show execRot d a b s = _
    unfold execRot
    simp only
    rw [if_neg hbad, hfree, if_neg Bool.false_ne_true, State.behindReleases_of_quiet hpend haw]
    rfl
  rw [hexec]
  split
  · exact ⟨_, rfl, hctx, rfl, hmem, hhere.1, hhere.2⟩
  · exact ⟨_, rfl, hctx, rfl, hmem, hhere.1, hhere.2⟩

/-- The words of a destination in scratch become empty (R100), and no others. -/
theorem State.isFull_setFullRange_flat {s : State} (h : Tab.wf true s.full = true) {c dst n : Nat} (hdst : dst % 8 = 0)
    (hn : n % 512 = 0) (j : Nat) : (s.setFullRange (flat c 0 dst) n false).isFull j =
      if flat c 0 dst ≤ j ∧ j < flat c 0 dst + n then false else s.isFull j := by
  have hkey : flat c 0 dst % 8 = 0 := by
    have : flat c 0 dst = c * 2 ^ 43 + dst := by simp [flat]
    omega
  exact State.isFull_setFullRange h hkey (by omega) j false

/-- The clauses of a ROT that neither raises INFO 35 nor is held. -/
theorem completes_rot (s : State) (d a b : BitVec 6) (hn : (s.rs d).toNat % 512 = 0) (hlo : 512 ≤ (s.rs d).toNat)
    (hhi : (s.rs d).toNat ≤ 16384) (hrot : s.here.rot = none) (hpend : s.ctx.pend = [])
    (haw : ∀ w, w ∈ s.ctx.awaits → s.barring s.focus.cell w = false) (hfull : Tab.wf true s.full = true) :
    let n := (s.rs d).toNat
    let c := s.focus.cell
    let src := (s.rs a).toNat
    let dst := (s.rs b).toNat
    let turns (t : State) : Prop := t.here.rot = some (s.rotation src dst n) ∧ t.here.nextId = s.here.nextId + 1
    let errs (addr : W64) (store : Bool) (t : State) : Prop :=
      (s.focus.slot < 14 → RecordsViolation s.ctx t.ctx 0 addr (violInfo s.focus.pc s.focus.slot 0 true store false 0)) ∧
      SameRegisters s.ctx t.ctx ∧ ∀ j, t.byte j = s.byte j
    (inScratch c src n = true → inScratch c dst n = true → dst % 8 = 0 → Completes (.rot d a b) s fun t => turns t ∧
      (∀ j, t.isFull j = if flat c 0 dst ≤ j ∧ j < flat c 0 dst + n then false else s.isFull j) ∧
      (SameRegisters s.ctx t.ctx ∧ ∀ j, t.byte j = s.byte j) ∧ t.ctx = s.ctx) ∧
    (inScratch c src n = false → inScratch c dst n = true → Completes (.rot d a b) s fun t =>
      turns t ∧ errs (s.addrOf c 0 src) false t) ∧
    (inScratch c src n = true → inScratch c dst n = false → Completes (.rot d a b) s fun t =>
      turns t ∧ t.full = s.full ∧ errs (s.addrOf c 0 dst) true t) := by
  intro n c src dst turns errs
  obtain ⟨t, hexec, hctx, htfull, hmem, htrot, htid⟩ := exec_rot s d a b hn hlo hhi hrot hpend haw
  have hbyte : ∀ j, t.byte j = s.byte j := State.byte_of_mem hmem
  have herrs (addr : W64) (store : Bool)
      (hc : t.ctx = (s.violate kAddr addr (s.infoOf 0 true store false 0)).ctx) : errs addr store t := by
    obtain ⟨hregs, hrec⟩ := s.violate_records addr true store false (by decide : kAddr < 7) (by decide : 0 < 4) (by decide : 0 < 8)
    exact ⟨fun hslot => hc ▸ hrec hslot, hc ▸ hregs, hbyte⟩
  refine ⟨fun hsrc hdst hal => ⟨t, hexec, ⟨htrot, htid⟩, fun j => ?_, ?_⟩, fun hsrc hdst => ⟨t, hexec, ⟨htrot, htid⟩, herrs _ _ ?_⟩,
    fun hsrc hdst => ⟨t, hexec, ⟨htrot, htid⟩, ?_, herrs _ _ ?_⟩⟩
  · have hu : s.rotChecked src dst n = s.setFullRange (flat c 0 dst) n false := by simp [State.rotChecked, c, hsrc, hdst]
    have : t.isFull j = (s.setFullRange (flat c 0 dst) n false).isFull j := by unfold State.isFull; rw [htfull, hu]
    rw [this, State.isFull_setFullRange_flat hfull hal hn]
  · have hu : s.rotChecked src dst n = s.setFullRange (flat c 0 dst) n false := by simp [State.rotChecked, c, hsrc, hdst]
    have hsame : t.ctx = s.ctx := by rw [hctx, hu, State.ctx_setFullRange]
    exact ⟨⟨.of_eq hsame, hbyte⟩, hsame⟩
  · have hu : s.rotChecked src dst n =
        (s.violate kAddr (s.addrOf c 0 src) (s.infoOf 0 true false false 0)).setFullRange (flat c 0 dst) n false := by
      simp [State.rotChecked, c, hsrc, hdst]
    rw [hctx, hu, State.ctx_setFullRange]
  · have hu : s.rotChecked src dst n = s.violate kAddr (s.addrOf c 0 dst) (s.infoOf 0 true true false 0) := by
      simp [State.rotChecked, c, hsrc, hdst]
    rw [htfull, hu]
    rfl
  · have hu : s.rotChecked src dst n = s.violate kAddr (s.addrOf c 0 dst) (s.infoOf 0 true true false 0) := by
      simp [State.rotChecked, c, hsrc, hdst]
    rw [hctx, hu]

/-- Settles O31: `completes_fence` and `State.block_holds` for FENCE, `completes_stmc` for STMC, and `completes_rot` for ROT. -/
theorem fenceMulticastRotate : Obligations.FenceMulticastRotate := by
  intro s m sc d a b c still errs open_
  have hheld (h : Hold) : (s.block h).ctx.st = .blocked ∧ (s.block h).ctx.hold = h ∧ (s.block h).ctx.pc = s.focus.pc ∧
      still (s.block h) := by
    obtain ⟨hst, hhold, hpc, hregs⟩ := s.block_holds h
    exact ⟨hst, hhold, hpc, hregs, fun _ => rfl⟩
  refine ⟨completes_fence s m sc, fun hopen => ⟨s.block (.fence (open_.map Await.id)), ?_, hheld _⟩, completes_stmc s d a b, ?_⟩
  · show execFence m sc s = _
    have hids : s.fenceHeld m sc.toNat = open_.map Await.id := rfl
    have hne : (open_.map Await.id).isEmpty = false := by simpa using hopen
    unfold execFence
    rw [hids, hne]
    rfl
  · intro n src at_ dst info turns
    have hturns {t : State} (h : t.here.rot = some (s.rotation src at_ n) ∧ t.here.nextId = s.here.nextId + 1) :
        turns (s.rotData src n) t := by
      refine ⟨_, h.1, rfl, rfl, rfl, rfl, rfl, rfl, rfl, rfl, h.2, fun e => ?_⟩
      simp only [State.rotation, List.mem_filter, Bool.and_eq_true, decide_eq_true_eq]
      rfl
    have hsome (h : inScratch c src n = true) :
        s.rotData src n = some ((List.range n).map fun i => s.byte (flat c 0 src + i)) := if_pos h
    have hnone (h : inScratch c src n = false) : s.rotData src n = none := if_neg (by simp [show inScratch s.focus.cell src n = _ from h])
    refine ⟨fun hbad => ⟨_, ?_, rfl⟩, fun hn hlo hhi hrot => ⟨s.block .rotate, ?_, hheld _⟩, fun hn hlo hhi hrot hpend haw hfull => ?_⟩
    · show execRot d a b s = _
      unfold execRot
      simp only
      rw [if_pos (by exact hbad)]
      rfl
    · have hbad : ¬((s.rs d).toNat % 512 ≠ 0 ∨ (s.rs d).toNat < 512 ∨ 16384 < (s.rs d).toNat) := by
        show ¬(n % 512 ≠ 0 ∨ n < 512 ∨ 16384 < n)
        omega
      have hbusy : rotHeld s.here = true := Option.isSome_iff_ne_none.2 hrot
      show execRot d a b s = _
      unfold execRot
      simp only
      rw [if_neg hbad, if_pos hbusy]
    · obtain ⟨hboth, hnosrc, hnodst⟩ := completes_rot s d a b hn hlo hhi hrot hpend haw hfull
      refine ⟨fun hsrc hdst hal => ?_, fun hsrc hdst => ?_, fun hsrc hdst => ?_⟩
      · obtain ⟨t, hexec, hrec, hrest⟩ := hboth hsrc hdst hal
        exact ⟨t, hexec, hsome hsrc ▸ hturns hrec, hrest⟩
      · obtain ⟨t, hexec, hrec, hrest⟩ := hnosrc hsrc hdst
        exact ⟨t, hexec, hnone hsrc ▸ hturns hrec, hrest⟩
      · obtain ⟨t, hexec, hrec, hrest⟩ := hnodst hsrc hdst
        exact ⟨t, hexec, hsome hsrc ▸ hturns hrec, hrest⟩

end Sys2Proof.Machine
end

section
/-! A return that frees a retain slot sets EV_PEND in every task of its cell (R88, R157), also in an evicted one, whose save
area holds its EV_PEND (R171, R365): memory changes. `Obligations.StreamEvents` says that it does not. -/

namespace Sys2Proof.Machine
open Sys2Proof

theorem length_fields (n k : Nat) (g : Nat → Nat) : ((List.range n).flatMap fun i => toBytes k (g i)).length = n * k := by
  simp [List.length_flatMap]

/-- In fields of 8 bytes each, byte 0 of field `a`. -/
theorem getElem?_fields (g : Nat → Nat) {n a : Nat} (ha : a < n) :
    ((List.range n).flatMap fun i => toBytes 8 (g i))[8 * a]? = some (BitVec.ofNat 8 (g a)) := by
  induction n with
  | zero => omega
  | succ n ih =>
    rw [List.range_succ, List.flatMap_append]
    by_cases h : a < n
    · rw [List.getElem?_append_left (by rw [length_fields]; omega), ih h]
    · have : a = n := by omega
      subst this
      rw [List.getElem?_append_right (by rw [length_fields]; omega), length_fields, Nat.mul_comm, Nat.sub_self]
      rfl

/-- The CSR numbered `a` stands at byte 1,280 + 8a of a save area (R365). -/
theorem saveBytes_csr (x : Ctx) (num : Nat) {a : Nat} (ha : a < 256) :
    (saveBytes x num)[1280 + 8 * a]? = some (BitVec.ofNat 8 (x.csr num a).toNat) := by
  obtain ⟨front, b1, b2, b3, b4, b5, hsplit, hfront⟩ : ∃ front b1 b2 b3 b4 b5, saveBytes x num =
      front ++ ((List.range 256).flatMap fun i => toBytes 8 (x.csr num i).toNat) ++ b1 ++ b2 ++ b3 ++ b4 ++ b5 ∧
      front.length = 1280 := by
    refine ⟨_, _, _, _, _, _, rfl, ?_⟩
    simp only [List.length_append, length_fields, toBytes_length, zeros_length, List.length_cons, List.length_nil]
  simp only [hsplit, List.append_assoc]
  rw [List.getElem?_append_right (by omega), hfront, Nat.add_sub_cancel_left,
    List.getElem?_append_left (by rw [length_fields]; omega), getElem?_fields _ ha]
/-- Writing single bytes from an area: each byte named has its new value, whatever the order. -/
theorem State.byte_setBytes {s : State} (h : Memory.wf s.mem = true) (area : Nat) (new : List Byte) (l : List Nat) (j : Nat) :
    (l.foldl (fun t i => t.setByte (area + i) (new.getD i 0)) s).byte (area + j) =
      if j ∈ l then new.getD j 0 else s.byte (area + j) := by
  induction l generalizing s with
  | nil => rfl
  | cons i l ih =>
    rw [List.foldl_cons, ih (s.wf_setByte h _ _), s.byte_setByte h]
    by_cases hij : j = i
    · subst hij; simp
    · simp [hij]

/-- A byte in which the two images of a save area differ is written (R171). -/
theorem State.byte_saveDelta {s : State} (h : Memory.wf s.mem = true) (area : Nat) {old new : List Byte} {j : Nat} {a b : Byte}
    (ha : old[j]? = some a) (hb : new[j]? = some b) (hne : a ≠ b) : (s.saveDelta area old new).byte (area + j) = b := by
  have hlt : j < old.length := (List.getElem?_eq_some_iff.1 ha).1
  unfold State.saveDelta
  rw [State.byte_setBytes h, if_pos]
  · rw [List.getD_eq_getElem?_getD, hb]; rfl
  · refine List.mem_filter.2 ⟨List.mem_range.2 hlt, ?_⟩
    rw [List.getD_eq_getElem?_getD, List.getD_eq_getElem?_getD, ha, hb]
    simpa using hne

/-- What a return above ACK_P and within the limit does (R88). -/
theorem State.takeReturn_of_acks {s : State} {c p : Nat} {ack : BitVec 32} (hs : ((s.cell c).port p).stopped = false)
    (hlim : ¬0 < seqDiff ack ((s.cell c).port p).limit) (hack : ¬seqDiff ack ((s.cell c).port p).ackP ≤ 0) :
    s.takeReturn c p ack = ((s.modPort c p fun t => { t with ackP := ack, resendOk := true }).raiseEvent c 6).pokeResend c p := by
  unfold State.takeReturn
  simp only
  rw [hs, if_neg Bool.false_ne_true, if_neg hlim, if_neg hack]

theorem State.atPort_of_portOf {s : State} {c p : Nat} {stream : BitVec 16} (h : (s.cell c).portOf stream = some p)
    (f : State → Nat → State) : s.atPort c stream f = f s p := by
  unfold State.atPort
  rw [h]

/-- An update of the one evicted task of a cell rewrites its save area (R171). -/
theorem State.modSavedOf_mem {s : State} {c : Nat} {v : Saved} {sel : Ctx → Bool} (hsaved : (s.cell c).saved = [v])
    (hsel : sel v.bank = true) (f : Ctx → Ctx) :
    (s.modSavedOf c sel f).mem = (s.saveDelta v.area (saveBytes v.bank v.num) (saveBytes (f v.bank) v.num)).mem := by
  unfold State.modSavedOf
  simp only
  rw [hsaved, List.foldl_cons, List.foldl_nil, if_pos hsel, apply_ite State.mem, State.modCell_mem, ite_self]

/-- Memory after an event is raised in a cell with one evicted task and no evicted configuration. -/
theorem State.raiseEvent_mem {s : State} {c : Nat} {v : Saved} (hsaved : (s.cell c).saved = [v])
    (hshelf : (s.die (dieOf c)).shelf = []) (bit : Nat) : (s.raiseEvent c bit).mem =
      (s.saveDelta v.area (saveBytes v.bank v.num) (saveBytes (v.bank.setEvent bit) v.num)).mem := by
  unfold State.raiseEvent State.modAway
  rw [State.modCell_mem, hshelf, List.filter_nil, List.foldl_nil, State.modSavedOf_mem hsaved rfl]

theorem State.pokeResend_mem (s : State) (c p : Nat) : (s.pokeResend c p).mem = s.mem := by
  unfold State.pokeResend
  split <;> rfl

/-- A cell whose port 0 has one chunk of stream 1 outstanding, and which holds an evicted task with its save area at the
start of scratch. -/
def evictedProducer : State :=
  { State.reset with
    cells := [(0, { Cell.reset with
      ports := [(0, { PortSt.reset with stream := 1, slots := 2, nextP := 1 })]
      saved := [⟨0, Ctx.reset, 0, [], []⟩] })]
    args := { Args.empty with stream := 1, ack := 1 } }

/-- Byte 0 of EV_PEND in the save area of a task, before and after the event of bit 6. -/
theorem saveBytes_evPend :
    (saveBytes Ctx.reset 0)[1464]? = some 0x3F ∧ (saveBytes (Ctx.reset.setEvent 6) 0)[1464]? = some 0x7F := by
  have hbefore := saveBytes_csr Ctx.reset 0 (a := 0x17) (by decide)
  have hafter := saveBytes_csr (Ctx.reset.setEvent 6) 0 (a := 0x17) (by decide)
  exact ⟨hbefore.trans (by decide), hafter.trans (by decide)⟩

/-- The producer once the return of its chunk has set ACK_P. -/
def returnedProducer : State := evictedProducer.modPort 0 0 fun q => { q with ackP := 1, resendOk := true }

theorem exec_returnArrival_evictedProducer :
    exec .returnArrival evictedProducer = .next ((returnedProducer.raiseEvent 0 6).pokeResend 0 0) := by
  show Host.Outcome.next (evictedProducer.atPort 0 1 fun t p => t.takeReturn 0 p 1) = _
  rw [State.atPort_of_portOf (p := 0) (by decide), State.takeReturn_of_acks (by decide) (by decide) (by decide)]
  rfl

/-- The event writes EV_PEND of the evicted task in memory. -/
theorem byte_raiseEvent_returnedProducer : ((returnedProducer.raiseEvent 0 6).pokeResend 0 0).byte 1464 = 0x7F := by
  have hbytes := State.byte_saveDelta (s := returnedProducer) rfl 0 saveBytes_evPend.1 saveBytes_evPend.2 (by decide)
  rw [← hbytes, Nat.zero_add]
  refine State.byte_of_mem ?_ 1464
  rw [State.pokeResend_mem, State.raiseEvent_mem (v := ⟨0, Ctx.reset, 0, [], []⟩) rfl rfl]

/-- Refutes O48: in `evictedProducer` the return of chunk 0 sets ACK_P, and it writes byte 1464 of memory, although the
statement keeps memory as it is. -/
theorem not_streamEvents : ¬ Obligations.StreamEvents := by
  unfold Obligations.StreamEvents
  intro h
  obtain ⟨-, -, -, -, -, -, -, hports, -⟩ := h evictedProducer
  obtain ⟨-, hreturns, -⟩ := hports 0 (by decide)
  obtain ⟨-, -, hacks, -⟩ := hreturns (by decide)
  obtain ⟨t, hexec, -, hmem, -⟩ := hacks (by decide) (by decide)
  obtain rfl := Host.Outcome.next.inj (exec_returnArrival_evictedProducer.symm.trans hexec)
  have hkept := State.byte_of_mem hmem 1464
  rw [byte_raiseEvent_returnedProducer] at hkept
  exact absurd hkept (by decide)

end Sys2Proof.Machine
end

section
/-! SUPPORT. The commands of the DCP (R371, R372): what GO and ERR come to read, and what a resume, a kill and a POST
leave of the context. -/

namespace Sys2Proof.Machine
open Sys2Proof

/-! ## Operations that only put messages in flight -/

/-- `t` is `s` with some messages put in flight. -/
def State.Messages (s t : State) : Prop := ∃ es, t = { s with agenda := s.agenda ++ es }

namespace State.Messages
variable {s t u : State}

theorem refl (s : State) : s.Messages s := ⟨[], by simp⟩

theorem trans (h : s.Messages t) (g : t.Messages u) : s.Messages u := by
  obtain ⟨es, rfl⟩ := h
  obtain ⟨fs, rfl⟩ := g
  exact ⟨es ++ fs, by simp⟩

theorem post (s : State) (i : Instr) (a : Args) : s.Messages (s.post i a) := ⟨[⟨i, a⟩], rfl⟩

theorem ite {c : Prop} [Decidable c] (ht : s.Messages t) (hu : s.Messages u) : s.Messages (if c then t else u) := by
  split
  · exact ht
  · exact hu

theorem foldl {α : Type} {f : State → α → State} (hf : ∀ (t : State) (a : α), t.Messages (f t a)) (l : List α) (s : State) :
    s.Messages (l.foldl f s) :=
  foldl_keep s.Messages f (fun b a hb => hb.trans (hf b a)) l s (refl s)

theorem cells (h : s.Messages t) : t.cells = s.cells := by obtain ⟨es, rfl⟩ := h; rfl
theorem dies (h : s.Messages t) : t.dies = s.dies := by obtain ⟨es, rfl⟩ := h; rfl
theorem full (h : s.Messages t) : t.full = s.full := by obtain ⟨es, rfl⟩ := h; rfl
theorem focus (h : s.Messages t) : t.focus = s.focus := by obtain ⟨es, rfl⟩ := h; rfl
theorem mem (h : s.Messages t) : t.mem = s.mem := by obtain ⟨es, rfl⟩ := h; rfl
theorem die (h : s.Messages t) (d : Nat) : t.die d = s.die d := by simp [State.die, h.dies]

end State.Messages

theorem State.pokeCopies_messages (s : State) (c : Nat) : s.Messages (s.pokeCopies c) :=
  .foldl (fun t _ => .post t _ _) _ _

theorem State.pokeEngines_messages (s : State) (d : Nat) : s.Messages (s.pokeEngines d) :=
  .foldl (fun t _ => (t.pokeCopies_messages _).trans
    (.foldl (fun u _ => .foldl (fun v _ => .post v _ _) _ u) _ _)) _ _

theorem State.pokeRuns_messages (s : State) : s.Messages s.pokeRuns := .foldl (fun t _ => .post t _ _) _ _

theorem State.pokeLaunches_messages (s : State) : s.Messages s.pokeLaunches :=
  (Messages.post s _ _).trans (.foldl (fun t _ => .foldl (fun u _ => .post u _ _) _ t) _ _)

theorem State.pokeEnds_messages (s : State) (k : Nat) : s.Messages (s.pokeEnds k) := by
  unfold State.pokeEnds
  cases s.graph k with
  | none => exact .refl s
  | some g => exact .foldl (fun t _ => .ite (.post t _ _) (.refl t)) _ _

/-! ## The ends of nodes touch no cell -/

theorem State.ctxOf_of_cells {s t : State} (h : t.cells = s.cells) (c x : Nat) : t.ctxOf c x = s.ctxOf c x := by
  simp [State.ctxOf, State.cell, h]

theorem State.cells_promote (s : State) (k n : Nat) : (s.promote k n).cells = s.cells := by
  simp only [State.promote, apply_ite State.cells, State.post_cells]
  simp [State.modNode, State.modGraph, State.modPkg]

theorem State.cells_writeBytes (s : State) (k : Nat) (l : List Byte) : (s.writeBytes k l).cells = s.cells := by
  induction l generalizing s k with
  | nil => rfl
  | cons b t ih => exact ih (s.setByte k b) (k + 1)

theorem State.cells_setFullRange (s : State) (k n : Nat) (b : Bool) : (s.setFullRange k n b).cells = s.cells := by
  rw [State.setFullRange_eq]

theorem State.cells_engineWrite (s : State) (k : Nat) (l : List Byte) : (s.engineWrite k l).cells = s.cells := by
  simp only [State.engineWrite, apply_ite State.cells, State.cells_setFullRange, State.clearPoison_cells,
    State.cells_writeBytes, ite_self]

theorem State.cells_globalWrite (s : State) (a : W64) (l : List Byte) : (s.globalWrite a l).cells = s.cells := by
  simp only [State.globalWrite, apply_ite State.cells, State.cells_engineWrite, ite_self]
  simp [State.engineReq, State.injectReq]

theorem State.cells_writeCompl (s : State) (addr : W64) (dev : Bool) (tag status node : Nat) :
    (s.writeCompl addr dev tag status node).cells = s.cells := by
  simp only [State.writeCompl, apply_ite State.cells, State.cells_globalWrite, State.hostWrite_cells, ite_self]

theorem State.cells_settleGraph (s : State) (k : Nat) : (s.settleGraph k).cells = s.cells := by
  unfold State.settleGraph
  split
  · rfl
  · split
    · rfl
    · rw [(State.pokeLaunches_messages _).cells, State.cells_writeCompl]
      rfl

theorem State.cells_modNodes (f : GNode → GNode) (k : Nat) (l : List Nat) (s : State) :
    (l.foldl (fun t i => t.modNode k i f) s).cells = s.cells :=
  foldl_keep (fun t : State => t.cells = s.cells) (fun t i => t.modNode k i f) (fun _ _ ht => ht) l s rfl

theorem State.cells_promotes (k : Nat) (l : List Nat) (s : State) :
    (l.foldl (fun t i => t.promote k i) s).cells = s.cells :=
  foldl_keep (fun t : State => t.cells = s.cells) _ (fun t i ht => (t.cells_promote k i).trans ht) l s rfl

theorem State.cells_nodeDone (s : State) (k n : Nat) (ok : Bool) : (s.nodeDone k n ok).cells = s.cells := by
  unfold State.nodeDone State.nodeEnds
  extract_lets g s1 s2 t s3
  have h2 : s2.cells = s.cells := (apply_ite State.cells ..).trans (ite_self _)
  have ht : t.cells = s.cells := by
    rw [(State.pokeEnds_messages _ _).cells, State.cells_modNodes, h2]
  have h3 : s3.cells = s.cells := by
    simp only [s3, apply_ite State.cells, State.cells_promotes, ht, (State.pokeEnds_messages _ _).cells]
    exact (congrArg _ h2).trans (ite_self _)
  rw [apply_ite State.cells, State.cells_settleGraph, h3, ite_self]

theorem State.cells_taskDone (s : State) (node : Option (Nat × Nat)) (c : Nat) (failed : Bool) :
    (s.taskDone node c failed).cells = s.cells := by
  unfold State.taskDone
  split
  · rfl
  · simp only [apply_ite State.cells, State.cells_nodeDone]
    simp [State.modNode, State.modGraph, State.modPkg]

/-! ## The context of a task that retires -/

/-- A retired task leaves its context FREE (R31). -/
theorem State.retire_st (s : State) (c x : Nat) (failed : Bool) : ((s.retire c x failed).ctxOf c x).st = .free := by
  unfold State.retire
  extract_lets t bad at_ s1 s2 s3 s4 s5 s6 s7 s8
  have h6 : (s6.ctxOf c x).st = .free := by simp [s6, Ctx.freed, Ctx.reset]
  have h7 : s7.ctxOf c x = s6.ctxOf c x := by simp [s7, State.ctxOf]; rfl
  have h8 : s8.ctxOf c x = s7.ctxOf c x := State.ctxOf_of_cells (State.cells_taskDone ..) c x
  rw [State.ctxOf_of_cells (s := s8), h8, h7, h6]
  rw [State.post_cells, (State.pokeRuns_messages _).cells, State.post_cells]

theorem State.killTask_st (s : State) (c x : Nat) : ((s.killTask c x).ctxOf c x).st = .free := by
  unfold State.killTask
  extract_lets s1 s2 s3 s4
  exact s4.retire_st c x true

/-! ## GO and ERR -/

/-- GO of `DCP_CMD` is clear, and ERR says whether the command was refused. -/
def State.DcpAnswers (t : State) (d : Nat) (err : Bool) : Prop :=
  ((t.die d).csr.get 0 0x20D).getLsbD 13 = false ∧ ((t.die d).csr.get 0 0x20D).getLsbD 14 = err

theorem State.dcpDone_answers (s : State) (d : Nat) (err : Bool) : (s.dcpDone d err).DcpAnswers d err := by
  simp only [State.DcpAnswers, State.dcpDone, State.die_modDie, if_true, Tab.get_ins, withBits]
  cases err <;> simp

@[simp] theorem State.ctxOf_dcpDone (s : State) (d : Nat) (err : Bool) (c x : Nat) :
    (s.dcpDone d err).ctxOf c x = s.ctxOf c x := rfl

/-! ## Which commands a context takes -/

theorem Ctx.isStopped_of_back {x : Ctx} (h : x.back = none) : x.isStopped = (x.st == .stopped) := by
  simp [Ctx.isStopped, h]

theorem Ctx.dead_iff {x : Ctx} (h : x.back = none) :
    x.dead = true ↔ x.st = .stopped ∧ x.trapCause.toNat % 256 = 0x0B := by
  simp [Ctx.dead, Ctx.isStopped_of_back h, bitsAt]

/-- A context that takes commands: it waits for no power after a resume, and no consumed error stopped it (R371). -/
def Ctx.Live (x : Ctx) : Prop := x.back = none ∧ ¬(x.st = .stopped ∧ x.trapCause.toNat % 256 = 0x0B)

theorem Ctx.Live.dead {x : Ctx} (h : x.Live) : x.dead = false := by
  obtain ⟨hback, hno⟩ := h
  exact Bool.eq_false_iff.mpr (mt (Ctx.dead_iff hback).mp hno)

theorem Ctx.dead_of_not_live {x : Ctx} (hback : x.back = none) (h : ¬x.Live) : x.dead = true :=
  (Ctx.dead_iff hback).mpr (by simpa [Ctx.Live, hback] using h)

theorem State.resumeCtx_resumes (s : State) (c x : Nat) (step : Bool) (h : (s.ctxOf c x).back = none) :
    ((s.resumeCtx c x step).ctxOf c x).st = .ready ∧ ((s.resumeCtx c x step).ctxOf c x).stepping = step ∧
    SameRegisters (s.ctxOf c x) ((s.resumeCtx c x step).ctxOf c x) ∧
    ((s.resumeCtx c x step).ctxOf c x).supervisor = (s.ctxOf c x).trapCause.getLsbD 8 := by
  simp [State.resumeCtx, State.returnFrom, SameRegisters, h]

/-- RESUME and STEP of a stopped context return it. -/
theorem State.dcpResume_resumes (s : State) (d c x : Nat) (step : Bool) (hl : (s.ctxOf c x).Live)
    (hst : (s.ctxOf c x).st = .stopped) : s.dcpResume d c x step = (s.resumeCtx c x step).dcpDone d false := by
  simp [State.dcpResume, hl.dead, Ctx.isStopped_of_back hl.1, hst]

theorem State.dcpResume_running (s : State) (d c x : Nat) (step : Bool) (hst : (s.ctxOf c x).st ≠ .stopped)
    (hback : (s.ctxOf c x).back = none) (hev : s.evictedOf c x = none) : s.dcpResume d c x step = s.dcpDone d true := by
  simp [State.dcpResume, Ctx.dead, Ctx.isStopped_of_back hback, hst, hev]

theorem State.dcpResume_dead (s : State) (d c x : Nat) (step : Bool) (h : (s.ctxOf c x).dead = true) :
    s.dcpResume d c x step = s.dcpDone d true := by
  simp [State.dcpResume, h]

/-! ## The commands -/

theorem completes_dcpSelect (s : State) : Completes .dcpSelect s fun t =>
    t.DcpAnswers s.args.die false ∧ (t.die s.args.die).selected.get 0 (s.args.c % 256) = s.args.x :=
  ⟨_, rfl, State.dcpDone_answers .., by simp [State.dcpDone, Tab.get_ins]⟩

/-- What a resume or a step leaves of a stopped context. -/
theorem State.resumes_answered (s : State) (d c x : Nat) (step : Bool) (hl : (s.ctxOf c x).Live)
    (hst : (s.ctxOf c x).st = .stopped) :
    let t := s.dcpResume d c x step
    t.DcpAnswers d false ∧ (t.ctxOf c x).st = .ready ∧ (t.ctxOf c x).stepping = step ∧
    SameRegisters (s.ctxOf c x) (t.ctxOf c x) ∧ (t.ctxOf c x).supervisor = (s.ctxOf c x).trapCause.getLsbD 8 := by
  rw [s.dcpResume_resumes d c x step hl hst]
  exact ⟨State.dcpDone_answers .., s.resumeCtx_resumes c x step hl.1⟩

/-- A refused command changes no cell. -/
theorem State.dcpDone_refuses (s : State) (d : Nat) :
    (s.dcpDone d true).DcpAnswers d true ∧ (s.dcpDone d true).cells = s.cells :=
  ⟨State.dcpDone_answers .., rfl⟩

/-- A command refused by an equation for its outcome. -/
theorem completes_refused {i : Instr} {s : State} (d : Nat) (h : exec i s = .next (s.dcpDone d true)) :
    Completes i s fun t => t.DcpAnswers d true ∧ t.cells = s.cells := ⟨_, h, s.dcpDone_refuses d⟩

theorem exec_dcpKill_dead {s : State} (h : (s.ctxOf s.args.c s.args.x).dead = true) :
    exec .dcpKill s = .next (s.dcpDone s.args.die true) :=
  congrArg Host.Outcome.next (if_pos h)

theorem exec_dcpKill_dispatch {s : State} (h : (s.ctxOf s.args.c s.args.x).dead = false)
    (hst : (s.ctxOf s.args.c s.args.x).st ≠ .free) (hd : (s.ctxOf s.args.c s.args.x).disp = true) :
    exec .dcpKill s = .next ((s.killTask s.args.c s.args.x).dcpDone s.args.die false) := by
  have hdead : ¬(s.ctxOf s.args.c s.args.x).dead = true := by simp [h]
  exact congrArg Host.Outcome.next ((if_neg hdead).trans ((if_pos hst).trans (if_pos hd)))

theorem exec_dcpKill_arrival {s : State} (h : (s.ctxOf s.args.c s.args.x).dead = false)
    (hst : (s.ctxOf s.args.c s.args.x).st ≠ .free) (hd : (s.ctxOf s.args.c s.args.x).disp = false) :
    exec .dcpKill s = .next ((s.dcpDone s.args.die true).askKill s.args.c 4) := by
  have hdead : ¬(s.ctxOf s.args.c s.args.x).dead = true := by simp [h]
  have hdisp : ¬(s.ctxOf s.args.c s.args.x).disp = true := by simp [hd]
  exact congrArg Host.Outcome.next ((if_neg hdead).trans ((if_pos hst).trans (if_neg hdisp)))

theorem exec_dcpPost_resident {s : State} (hst : (s.ctxOf s.args.c s.args.x).st ≠ .free) :
    exec .dcpPost s = .next (if (s.ctxOf s.args.c s.args.x).dead then s.dcpDone s.args.die true
      else (s.modCtxOf s.args.c s.args.x fun t => t.setEvent 8).dcpDone s.args.die false) := by
  show execDcpPost s = _
  simp only [execDcpPost, if_neg hst]

theorem completes_dcpKill_dispatch {s : State} (hl : (s.ctxOf s.args.c s.args.x).Live)
    (hst : (s.ctxOf s.args.c s.args.x).st ≠ .free) (hd : (s.ctxOf s.args.c s.args.x).disp = true) :
    Completes .dcpKill s fun t => t.DcpAnswers s.args.die false ∧ (t.ctxOf s.args.c s.args.x).st = .free :=
  ⟨_, exec_dcpKill_dispatch hl.dead hst hd, State.dcpDone_answers .., by rw [State.ctxOf_dcpDone, State.killTask_st]⟩

/-- KILL of an ARRIVAL task is refused, and the region of its cell is asked to be killed (R432). -/
theorem completes_dcpKill_arrival {s : State} (hl : (s.ctxOf s.args.c s.args.x).Live)
    (hst : (s.ctxOf s.args.c s.args.x).st ≠ .free) (hd : (s.ctxOf s.args.c s.args.x).disp = false)
    (hload : (s.cell s.args.c).loaded = true) :
    Completes .dcpKill s fun t => (t.DcpAnswers s.args.die true ∧ t.cells = s.cells) ∧
      ∃ e, e ∈ t.agenda ∧ e.instr = .regionKill ∧ e.args.die = dieOf s.args.c ∧
        e.args.origin = (s.cell s.args.c).regionId.toNat % 256 := by
  have hload' : ((s.dcpDone s.args.die true).cell s.args.c).loaded = true := hload
  refine ⟨_, exec_dcpKill_arrival hl.dead hst hd, ?_⟩
  rw [State.askKill, if_pos hload']
  refine ⟨s.dcpDone_refuses s.args.die, _, List.mem_append_right _ (List.mem_singleton_self _), rfl, rfl, ?_⟩
  show bitsAt (s.cell s.args.c).regionId 0 8 = _
  simp [bitsAt]

theorem completes_dcpPost {s : State} (hl : (s.ctxOf s.args.c s.args.x).Live)
    (hst : (s.ctxOf s.args.c s.args.x).st ≠ .free) :
    Completes .dcpPost s fun t => t.DcpAnswers s.args.die false ∧
      (t.ctxOf s.args.c s.args.x).evPend = (s.ctxOf s.args.c s.args.x).evPend ||| 0x100 ∧
      SameRegisters (s.ctxOf s.args.c s.args.x) (t.ctxOf s.args.c s.args.x) := by
  refine ⟨_, exec_dcpPost_resident hst, ?_⟩
  simp only [hl.dead, Bool.false_eq_true, if_false, State.ctxOf_dcpDone, State.ctxOf_modCtxOf_same]
  exact ⟨State.dcpDone_answers .., rfl, .refl _⟩

end Sys2Proof.Machine
end

section
/-! SUPPORT. The record queues of a die (R369, R370, R380), the answers of walkers (R80, R376), invalidation (R377) and
quarantine (R301, R382). -/

namespace Sys2Proof.Machine
open Sys2Proof

/-! ## Record queues -/

/-- What a pop makes of a queue: the oldest entry goes, and a held record takes its place (R370). -/
def LogQueue.Popped (q r : LogQueue) : Prop :=
  (q.items = [] → r = q) ∧
  (∀ h rest, q.items = h :: rest → q.held = [] → r = { q with items := rest }) ∧
  (∀ h rest k ks, q.items = h :: rest → q.held = k :: ks → r = { q with items := rest ++ [k], held := ks })

theorem LogQueue.pop_popped (q : LogQueue) : q.Popped q.pop := by
  refine ⟨fun h => ?_, fun h rest hi hh => ?_, fun h rest k ks hi hh => ?_⟩
  · simp [LogQueue.pop, h]
  · simp [LogQueue.pop, hi, hh]
  · simp [LogQueue.pop, hi, hh]

theorem completes_fbPop (s : State) : Completes .fbPop s fun t =>
    (s.die s.args.die).faults.Popped (t.die s.args.die).faults ∧ t.mem = s.mem := by
  have hm := State.Messages.ite (c := (!(s.die s.args.die).faults.held.isEmpty) = true)
    ((s.modDie s.args.die fun k => { k with faults := k.faults.pop }).pokeEngines_messages s.args.die) (.refl _)
  refine ⟨_, rfl, ?_, hm.mem⟩
  rw [hm.die, State.die_modDie, if_pos rfl]
  exact LogQueue.pop_popped _

theorem completes_tqPop (s : State) : Completes .tqPop s fun t =>
    (s.die s.args.die).traps.Popped (t.die s.args.die).traps ∧ t.mem = s.mem :=
  ⟨_, rfl, by rw [State.die_modDie, if_pos rfl]; exact LogQueue.pop_popped _, rfl⟩

theorem completes_elogPop (s : State) : Completes .elogPop s fun t =>
    (s.die s.args.die).elog.Popped (t.die s.args.die).elog ∧ t.mem = s.mem :=
  ⟨_, rfl, by rw [State.die_modDie, if_pos rfl]; exact LogQueue.pop_popped _, rfl⟩

theorem LogQueue.settle_held {q : LogQueue} {h : List W64} {hs : List (List W64)} (hq : q.held = h :: hs) (cap : Nat) :
    q.settle cap = if q.items.length < cap then { q with items := q.items ++ [h], held := hs } else q := by
  simp [LogQueue.settle, hq]

theorem completes_faultRecordPost {s : State} {h : List W64} {hs : List (List W64)}
    (hq : (s.die s.args.die).faults.held = h :: hs) :
    Completes .faultRecordPost s fun t => (t.die s.args.die).faults =
      if (s.die s.args.die).faults.items.length < 256 then
        { (s.die s.args.die).faults with items := (s.die s.args.die).faults.items ++ [h], held := hs }
      else (s.die s.args.die).faults := by
  refine ⟨_, rfl, ?_⟩
  simp only [State.die_modDie, if_true]
  exact LogQueue.settle_held hq 256

theorem exec_trapRecordPost_running {s : State} (h : (s.ctxOf s.args.c s.args.x).st ≠ .stopped) :
    exec .trapRecordPost s = .next s := congrArg Host.Outcome.next (if_pos h)

theorem completes_trapRecordPost {s : State} (hst : (s.ctxOf s.args.c s.args.x).st = .stopped)
    (hc : (s.ctxOf s.args.c s.args.x).trapCause.toNat % 256 ≠ 0x0A) :
    Completes .trapRecordPost s fun t =>
      (t.die (dieOf s.args.c)).traps = (s.die (dieOf s.args.c)).traps.push 64 (s.trapRecord s.args.c s.args.x) ∧
      t.cells = s.cells ∧ t.mem = s.mem := by
  have hcause : ¬bitsAt (s.ctxOf s.args.c s.args.x).trapCause 0 8 = 0x0A := by simpa [bitsAt] using hc
  have hexec : exec .trapRecordPost s = .next (s.modDie (dieOf s.args.c) fun d =>
      { d with traps := d.traps.push 64 (s.trapRecord s.args.c s.args.x) }) :=
    congrArg Host.Outcome.next ((if_neg (not_not_intro hst)).trans (if_neg hcause))
  exact ⟨_, hexec, by rw [State.die_modDie, if_pos rfl], rfl, rfl⟩

/-! ## Invalidation (R377) -/

theorem State.mem_tb_dropTensor (s : State) (d : Nat) (id : Option Nat) (p : Nat × W64) :
    p ∈ ((s.dropTensor d id).die d).tb ↔ p ∈ (s.die d).tb ∧ ∃ n, id = some n ∧ p.1 / 2 ^ 64 ≠ n := by
  have hdie : (s.dropTensor d id).die d = (s.modDie d fun k => { k with tb := k.tb.filter fun p => !(match id with
      | none => true
      | some n => p.1 / 2 ^ 64 == n) }).die d := rfl
  rw [hdie, State.die_modDie, if_pos rfl]
  cases id <;> simp

theorem completes_xltInv (s : State) : Completes .xltInv s fun t =>
    (∀ p, p ∈ (t.die s.args.die).tb ↔ p ∈ (s.die s.args.die).tb ∧
      ¬(((s.die s.args.die).csr.get 0 0x210).getLsbD 16 = true ∨
        p.1 / 2 ^ 64 = ((s.die s.args.die).csr.get 0 0x210).toNat % 2 ^ 16)) ∧
    ((t.die s.args.die).csr.get 0 0x210).getLsbD 17 = false ∧ t.mem = s.mem := by
  refine ⟨_, rfl, fun p => ?_, ?_, rfl⟩
  · rw [State.die_modDie, if_pos rfl]
    refine (State.mem_tb_dropTensor ..).trans (and_congr_right fun _ => ?_)
    cases hb : ((s.die s.args.die).csr.get 0 0x210).getLsbD 16 <;> simp [bitsAt]
  · rw [State.die_modDie, if_pos rfl]
    simp [Tab.get_ins]

/-! ## Walkers (R376) -/

/-- `t` is `s` but for the walks of its dies. -/
structure State.SameButWalks (s t : State) : Prop where
  eq : t = { s with dies := t.dies }
  die : ∀ j, ∃ l, t.die j = { s.die j with walks := l }

namespace State.SameButWalks
variable {s t u : State}

theorem modDie (s : State) (d : Nat) (f : Die → List Walk) :
    s.SameButWalks (s.modDie d fun k => { k with walks := f k }) := by
  refine ⟨rfl, fun j => ?_⟩
  rw [State.die_modDie]
  by_cases h : j = d
  · exact ⟨f (s.die d), by rw [if_pos h, h]⟩
  · exact ⟨(s.die j).walks, by rw [if_neg h]⟩

theorem trans (h : s.SameButWalks t) (g : t.SameButWalks u) : s.SameButWalks u := by
  refine ⟨?_, fun j => ?_⟩
  · rw [g.eq, h.eq]
  · obtain ⟨l, hl⟩ := h.die j
    obtain ⟨m, hm⟩ := g.die j
    exact ⟨m, by rw [hm, hl]⟩

theorem pkg (h : s.SameButWalks t) : t.pkg = s.pkg := by rw [h.eq]
theorem draws (h : s.SameButWalks t) : t.draws = s.draws := by rw [h.eq]
theorem ctxOf (h : s.SameButWalks t) (c x : Nat) : t.ctxOf c x = s.ctxOf c x := by rw [h.eq]; rfl
theorem clock (h : s.SameButWalks t) (c : Nat) : t.clock c = s.clock c := by rw [h.eq]; rfl
theorem addrOf (h : s.SameButWalks t) (c sp o : Nat) : t.addrOf c sp o = s.addrOf c sp o := by rw [h.eq]; rfl
theorem tableBytes (h : s.SameButWalks t) (k n : Nat) : t.tableBytes k n = s.tableBytes k n := by rw [h.eq]; rfl
theorem fencedAt (h : s.SameButWalks t) (a : W64) : t.fencedAt a = s.fencedAt a := by rw [h.eq]; rfl
theorem tensors (h : s.SameButWalks t) (j : Nat) : (t.die j).tensors = (s.die j).tensors := by
  obtain ⟨l, hl⟩ := h.die j
  rw [hl]

theorem tableReadable (h : s.SameButWalks t) (a : W64) : t.tableReadable a = s.tableReadable a := by
  obtain ⟨l, hl⟩ := h.die (aCell a / 256)
  simp only [State.tableReadable, State.noCell, h.pkg, hl, h.fencedAt]
  rfl

theorem tableEntry (h : s.SameButWalks t) (e : Tensor) (tile : Nat) :
    (t.tableEntry e tile).1 = (s.tableEntry e tile).1 := by
  simp only [State.tableEntry, h.tableReadable, h.pkg, h.draws, h.tableBytes, apply_ite Prod.fst]

/-- The outcome of a translation looks at no walk. -/
theorem translate (h : s.SameButWalks t) (c x src tensor : Nat) (cs : List Int) :
    (t.translate c x src tensor cs).1 = (s.translate c x src tensor cs).1 := by
  simp only [State.translate, h.tensors]
  cases (s.die (dieOf c)).tensors.find? fun e => e.1 == tensor with
  | none => rfl
  | some e =>
    cases hlay : e.2.layout cs with
    | none => simp only [hlay]
    | some q => simp only [hlay, h.tableEntry]

end State.SameButWalks

theorem State.tableEntry_keeps (s : State) (t : Tensor) (tile : Nat) :
    ∃ n, (s.tableEntry t tile).2 = { s with draws := n } := by
  unfold State.tableEntry
  extract_lets a
  split
  · exact ⟨s.draws, rfl⟩
  · split
    · exact ⟨s.draws, rfl⟩
    · exact ⟨s.draws + 2, rfl⟩

/-- A translation changes free values drawn and fault records, and nothing else. -/
theorem State.translate_keeps (s : State) (c x src tensor : Nat) (cs : List Int) :
    ∃ n ds, (s.translate c x src tensor cs).2 = { s with draws := n, dies := ds } := by
  unfold State.translate
  cases (s.die (dieOf c)).tensors.find? fun e => e.1 == tensor with
  | none => exact ⟨s.draws, (s.postFault c x 2 src false tensor 0 0).dies, rfl⟩
  | some e =>
    cases he : e.2.layout cs with
    | none => exact ⟨s.draws, s.dies, by simp only [he]⟩
    | some q =>
      obtain ⟨n, hn⟩ := s.tableEntry_keeps e.2 q.1
      simp only [he, hn]
      split
      · exact ⟨n, (s.postFault c x 2 src false tensor (BitVec.ofNat 64 q.1) 0).dies, rfl⟩
      · exact ⟨n, s.dies, rfl⟩

/-- The bank of a resident task whose awaited operations hold the number is the one that is changed. -/
theorem State.awaits_xltDone (s : State) {c x id : Nat} {q : Await} (o : XOut) (due : Nat)
    (hq : (s.ctxOf c x).awaits = [q]) (hid : q.id = id) :
    ((s.xltDone c x id o due).ctxOf c x).awaits = [{ q with answer := some (xltAnswer o), due := some due }] := by
  simp [State.xltDone, State.modBank, hq, hid]

/-- A walk whose table lies in the package is answered at once, for a later cycle. -/
theorem State.walkXlt_near (s : State) (w : Walk) {table : W64} (bound : Nat) (h : aPkg table = s.pkg.number) :
    s.walkXlt w table bound =
      let r := s.translate w.cell w.ctx 15 (bitsAt w.a 0 16) (xltCoords w.a w.b)
      r.2.xltDone w.cell w.ctx w.id r.1 (r.2.clock w.cell + bound) := by
  unfold State.walkXlt
  simp only [h, bne_self_eq_false, Bool.false_and]
  cases s.walkTile w <;> rfl

/-- The table that a walk of an `XLT` reads; a place of its own cell where the tensor has none. -/
def State.walkTable (s : State) (d : Nat) (w : Walk) : W64 :=
  (((s.die d).tensors.find? fun e => e.1 == bitsAt w.a 0 16).map fun e => e.2.table).getD (s.addrOf w.cell 0 0)

/-- A free walker takes the only waiting request (R376). -/
theorem exec_walkerTranslate {s : State} {w : Walk} (hflag : s.args.flag = false)
    (hw : (s.die s.args.die).walks = [w]) (hend : w.ends = none) (hstream : w.stream = none) :
    ∃ (t : State) (bound : Nat), s.SameButWalks t ∧ 0 < bound ∧ bound ≤ 1500 ∧
      exec .walkerTranslate s = .next (t.walkXlt w (s.walkTable s.args.die w) bound) := by
  have hcond : ¬s.args.flag = true := by simp [hflag]
  show ∃ t bound, _ ∧ _ ∧ _ ∧ execWalkerTranslate s = _
  unfold execWalkerTranslate
  rw [if_neg hcond]
  extract_lets s1 noArgs
  have h1 : s.SameButWalks s1 := .modDie s _ _
  have hw1 : (s1.die s.args.die).walks = [w] := by simp [s1, hw, hend]
  have hbusy : ¬16 ≤ (s1.die s.args.die).walking s1.cycle := by simp [Die.walking, hw1, hend]
  rw [if_neg hbusy]
  split
  · next hnone => simp [hw1, hend] at hnone
  · next w' hsome =>
    obtain rfl : w = w' := by simpa [hw1, hend] using hsome
    extract_lets tensor table near far bound take s2
    have h2 : s.SameButWalks s2 := h1.trans (.modDie s1 _ _)
    have htable : table = s.walkTable s.args.die w := by
      simp only [table, tensor, hstream, h1.tensors, h1.addrOf, State.walkTable]
    refine ⟨s2, bound, h2, ?_, ?_, ?_⟩
    · simp only [bound]; split <;> omega
    · simp only [bound]; split <;> omega
    · simp only [hstream, htable]

/-- A walk of an `XLT` answers within 1,500 cycles with what translation gives (R80, R376). -/
theorem completes_walkerTranslate {s : State} {w : Walk} {q : Await} (hflag : s.args.flag = false)
    (hw : (s.die s.args.die).walks = [w]) (hend : w.ends = none) (hstream : w.stream = none)
    (hq : (s.ctxOf w.cell w.ctx).awaits = [q]) (hid : q.id = w.id)
    (htable : aPkg (s.walkTable s.args.die w) = s.pkg.number) :
    Completes .walkerTranslate s fun t => ∃ due, s.clock w.cell < due ∧ due ≤ s.clock w.cell + 1500 ∧
      (t.ctxOf w.cell w.ctx).awaits = [{ q with
        answer := some (xltAnswer (s.translate w.cell w.ctx 15 (w.a.toNat % 2 ^ 16) (xltCoords w.a w.b)).1)
        due := some due }] := by
  obtain ⟨t, bound, ht, hpos, hle, hexec⟩ := exec_walkerTranslate hflag hw hend hstream
  rw [t.walkXlt_near w bound (htable.trans (congrArg Pkg.number ht.pkg.symm))] at hexec
  refine ⟨_, hexec, s.clock w.cell + bound, by omega, by omega, ?_⟩
  obtain ⟨n, ds, hr⟩ := t.translate_keeps w.cell w.ctx 15 (bitsAt w.a 0 16) (xltCoords w.a w.b)
  have hclock : (t.translate w.cell w.ctx 15 (bitsAt w.a 0 16) (xltCoords w.a w.b)).2.clock w.cell = s.clock w.cell := by
    rw [hr, ← ht.clock]; rfl
  have hbank : ((t.translate w.cell w.ctx 15 (bitsAt w.a 0 16) (xltCoords w.a w.b)).2.ctxOf w.cell w.ctx).awaits = [q] := by
    rw [hr, ← hq, ← ht.ctxOf]; rfl
  have hnum : bitsAt w.a 0 16 = w.a.toNat % 2 ^ 16 := by simp [bitsAt]
  rw [← hnum, ← ht.translate, ← hclock]
  exact State.awaits_xltDone _ _ _ hbank hid

/-! ## A table that does not answer (R80) -/

theorem exec_tileTableReadTimeout_idle {s : State} (hx : ∀ q, q ∈ (s.ctxOf s.args.c s.args.x).awaits → q.id ≠ s.args.id)
    (haway : ∀ b, b ∈ s.away s.args.c → ∀ q, q ∈ b.awaits → q.id ≠ s.args.id) :
    exec .tileTableReadTimeout s = .next s := by
  have hnone : s.awaited s.args.c s.args.x s.args.id = none := by
    simp only [State.awaited, List.find?_eq_none, List.mem_append, List.mem_flatMap, beq_iff_eq]
    rintro q (hq | ⟨b, hb, hq⟩)
    · exact hx q hq
    · exact haway b hb q hq
  exact congrArg Host.Outcome.next (if_neg (by simp [hnone]))

theorem completes_tileTableReadTimeout {s : State} {q : Await} {w : Walk}
    (hq : (s.ctxOf s.args.c s.args.x).awaits = [q]) (hid : q.id = s.args.id) (hkind : q.kind = .xlt) (hans : q.answer = none)
    (hw : ((s.die (dieOf s.args.c)).walks.find? fun w => w.cell == s.args.c && w.ctx == s.args.x && w.id == s.args.id) = some w) :
    Completes .tileTableReadTimeout s fun t => ∃ due, (t.ctxOf s.args.c s.args.x).awaits =
      [{ q with answer := some (xltAnswer (.fail xBadEntry)), due := some due }] := by
  have hwait : (s.awaited s.args.c s.args.x s.args.id).any fun w => w.kind == .xlt && w.answer.isNone := by
    simp [State.awaited, hq, hid, hkind, hans]
  refine ⟨_, congrArg Host.Outcome.next (if_pos hwait), ?_⟩
  unfold State.walkEntry
  extract_lets d noArgs
  split
  · next hnone => rw [hw] at hnone; exact absurd hnone nofun
  · extract_lets s1
    split
    · exact ⟨_, State.awaits_xltDone s1 _ _ hq hid⟩
    · next tile off _ =>
      exact ⟨_, State.awaits_xltDone (s1.postFault ..) _ _ hq hid⟩

end Sys2Proof.Machine
end

section
/-! SUPPORT. Quarantine (R301, R382) and the host's writes: the staging window (R344), BAR0 and the registers (R343,
R371), host rings (R411) and MSI-X (R342). -/

namespace Sys2Proof.Machine
open Sys2Proof

/-! ## Quarantine -/

theorem exec_quarFree_ignored {s : State} (h : s.args.v.toNat % 2 ^ 14 ≠ 0) : exec .quarFree s = .next s := by
  have hbits : ¬bitsAt s.args.v 0 14 = 0 := by simpa [bitsAt] using h
  exact congrArg Host.Outcome.next (if_neg hbits)

theorem completes_quarFree {s : State} (h : s.args.v.toNat % 2 ^ 14 = 0) (hroom : (s.die s.args.die).quar.length < 256) :
    Completes .quarFree s fun t => (t.die s.args.die).quar =
      (s.die s.args.die).quar ++ [⟨s.args.v, (s.die s.args.die).epoch, s.openAccesses s.args.die⟩] ∧ t.mem = s.mem := by
  have hbits : bitsAt s.args.v 0 14 = 0 := by simpa [bitsAt] using h
  refine ⟨_, congrArg Host.Outcome.next (if_pos hbits), ?_⟩
  rw [State.quarantine, if_pos hroom]
  exact ⟨by simp [(State.Messages.post _ _ _).die], rfl⟩

/-- The oldest frame waits exactly while an access open at its free is still open. -/
theorem State.quiesceCount_eq_zero_iff {s : State} {d : Nat} {q : Quar} {rest : List Quar}
    (h : (s.die d).quar = q :: rest) : s.quiesceCount d = 0 ↔ ∀ e, e ∈ q.open_ → e ∉ s.openAccesses d := by
  simp [State.quiesceCount, h, List.filter_eq_nil_iff]

theorem exec_quarantineRelease_empty {s : State} (h : (s.die s.args.die).quar = []) : exec .quarantineRelease s = .next s := by
  show execQuarantineRelease s = _
  simp only [execQuarantineRelease, h]

theorem exec_quarantineRelease_waits {s : State} {q : Quar} {rest : List Quar}
    (h : (s.die s.args.die).quar = q :: rest) (hopen : ∃ e, e ∈ q.open_ ∧ e ∈ s.openAccesses s.args.die) :
    exec .quarantineRelease s = .next (s.afterCycles 1 .quarantineRelease s.args) := by
  have hcount : s.quiesceCount s.args.die ≠ 0 := by
    obtain ⟨e, he, hin⟩ := hopen
    exact fun hz => (State.quiesceCount_eq_zero_iff h).mp hz e he hin
  show execQuarantineRelease s = _
  simp only [execQuarantineRelease, h, if_pos hcount]

theorem completes_quarantineRelease {s : State} {q : Quar} {rest : List Quar}
    (h : (s.die s.args.die).quar = q :: rest) (hopen : ∀ e, e ∈ q.open_ → e ∉ s.openAccesses s.args.die)
    (hheld : (s.die s.args.die).quarHeld = []) :
    Completes .quarantineRelease s fun t => (t.die s.args.die).quar = rest ∧
      (t.die s.args.die).epoch = ((s.die s.args.die).epoch + 1) % 2 ^ 16 ∧
      ∀ i, i ∈ (t.die s.args.die).spill ↔ i ∈ (s.die s.args.die).spill ∧ s.spillFrame s.args.die i ≠ q.frame := by
  have hcount : ¬s.quiesceCount s.args.die ≠ 0 := not_not_intro ((State.quiesceCount_eq_zero_iff h).mpr hopen)
  have hexec : exec .quarantineRelease s = .next (s.modDie s.args.die fun k => { k with
      quar := rest
      epoch := (k.epoch + 1) % 2 ^ 16
      spill := k.spill.filter fun i => s.spillFrame s.args.die i != q.frame }) := by
    show execQuarantineRelease s = _
    simp [execQuarantineRelease, h, if_neg hcount, hheld]
  refine ⟨_, hexec, ?_⟩
  simp

/-! ## The staging window (R344) -/

theorem stagingKey_inj {o p : Nat} (ho : o < 2 ^ 26) (hp : p < 2 ^ 26) (h : stagingKey o = stagingKey p) : o = p := by
  have hne : ¬(0 : Nat) = 1 := by decide
  simp only [stagingKey, flat, if_neg hne] at h
  omega

theorem State.noteTable_bytes (s : State) (c x oc key n : Nat) :
    (s.noteTable c x oc key n).mem = s.mem ∧ (s.noteTable c x oc key n).full = s.full := by
  unfold State.noteTable
  split <;> exact ⟨rfl, rfl⟩

theorem State.full_stagingWrite (s : State) (o : Nat) (l : List Byte) : (s.stagingWrite o l).full = s.full := by
  induction l generalizing s o with
  | nil => rfl
  | cons b t ih => exact (ih _ _).trans (s.noteTable_bytes _ _ _ _ _).2

/-- What the staging window reads after a write: the written bytes at their places, each other byte as before. -/
theorem State.byte_stagingWrite {s : State} (h : Memory.wf s.mem = true) {o : Nat} {l : List Byte} (ho : o + l.length ≤ 2 ^ 26) :
    (∀ i b, l[i]? = some b → (s.stagingWrite o l).byte (stagingKey (o + i)) = b) ∧
    ∀ j, (∀ i, i < l.length → j ≠ stagingKey (o + i)) → (s.stagingWrite o l).byte j = s.byte j := by
  induction l generalizing s o with
  | nil => exact ⟨nofun, fun _ _ => rfl⟩
  | cons b t ih =>
    have hmem := (s.noteTable_bytes 0 5 0 (stagingKey o) 1).1
    have hwf : Memory.wf (s.noteTable 0 5 0 (stagingKey o) 1).mem = true := by rw [hmem]; exact h
    have hbyte (j : Nat) : ((s.noteTable 0 5 0 (stagingKey o) 1).setByte (stagingKey o) b).byte j =
        if j = stagingKey o then b else s.byte j := by
      rw [State.byte_setByte hwf, State.byte_of_mem hmem]
    simp only [List.length_cons] at ho
    obtain ⟨hin, hout⟩ := ih (State.wf_setByte hwf (stagingKey o) b) (o := o + 1) (by omega)
    refine ⟨fun i c hi => ?_, fun j hj => ?_⟩
    · cases i with
      | zero =>
        obtain rfl : b = c := by simpa using hi
        refine (hout _ fun i hi heq => ?_).trans ((hbyte _).trans (if_pos rfl))
        have := stagingKey_inj (by omega) (by omega) heq
        omega
      | succ i =>
        have := hin i c (by simpa using hi)
        rwa [Nat.add_assoc, Nat.add_comm 1 i] at this
    · refine (hout j fun i hi heq => hj (i + 1) (by simpa using hi) ?_).trans ((hbyte j).trans (if_neg (hj 0 (by simp))))
      rw [heq, Nat.add_assoc, Nat.add_comm 1 i]

theorem exec_hostStagingAccess_read {s : State} (h : s.args.flag = false) : exec .hostStagingAccess s = .next s :=
  congrArg Host.Outcome.next (if_neg (by simp [h]))

theorem completes_hostStagingAccess {s : State} (h : s.args.flag = true) (ho : s.args.off + s.args.bytes.length ≤ 2 ^ 26)
    (hwf : Memory.wf s.mem = true) : Completes .hostStagingAccess s fun t =>
      (∀ i b, s.args.bytes[i]? = some b → t.byte (stagingKey (s.args.off + i)) = b) ∧ t.full = s.full ∧
      ∀ j, (∀ i, i < s.args.bytes.length → j ≠ stagingKey (s.args.off + i)) → t.byte j = s.byte j := by
  obtain ⟨hin, hout⟩ := State.byte_stagingWrite hwf ho
  have hcond : (s.args.flag && decide (s.args.off + s.args.bytes.length ≤ 0x4000000)) = true := by
    rw [h, Bool.true_and]
    exact decide_eq_true ho
  exact ⟨_, congrArg Host.Outcome.next (if_pos hcond), hin, s.full_stagingWrite _ _, hout⟩

/-! ## Register writes (R343, R371, R411) -/

theorem exec_registerWrite_misaligned {s : State} (hsp : s.args.sp ≠ .bar0) (h : s.args.off % s.args.size ≠ 0) :
    exec .registerWrite s = .next s := by
  show execRegisterWrite s = _
  have hoff : (s.args.off % s.args.size == 0) = false := by simpa using h
  unfold execRegisterWrite
  cases hs : s.args.sp <;> simp_all

theorem exec_registerWrite_launch {s : State} (hsp : s.args.sp = .bar0) (hoff : s.args.off = 0x100) (hsize : s.args.size = 8) :
    exec .registerWrite s = .next (s.post .launch { Args.empty with v := s.args.v }) := by
  show execRegisterWrite s = _
  simp [execRegisterWrite, hsp, hoff, hsize, State.bar0Write]

theorem exec_registerWrite_bootReply {s : State} (hsp : s.args.sp = .bar0) (hoff : s.args.off = 0x210) (hsize : s.args.size = 8) :
    exec .registerWrite s = .next (s.modPkg fun p => { p with bootReply := s.args.v &&& 0x1F }) := by
  show execRegisterWrite s = _
  simp [execRegisterWrite, hsp, hoff, hsize, State.bar0Write]

theorem exec_registerWrite_cellCsr {s : State} {k : Nat} (hsp : s.args.sp = .cellCsr k) (hsize : s.args.size = 8)
    (hoff : s.args.off % 8 = 0) : exec .registerWrite s = .next (s.selectedWrite k s.args.off 8 s.args.v) := by
  show execRegisterWrite s = _
  simp [execRegisterWrite, hsp, hoff, hsize]

theorem exec_registerWrite_memory {s : State} {m : W64} (hsp : s.args.sp = .memory m) (hsize : s.args.size = 8)
    (hoff : s.args.off % 8 = 0) : exec .registerWrite s = .next (s.firmwareStore m (toBytes 8 s.args.v.toNat)) := by
  show execRegisterWrite s = _
  simp [execRegisterWrite, hsp, hoff, hsize]

/-! ## Host rings (R411) -/

theorem State.ring_modRing (s : State) (n m : Nat) (f : Ring → Ring) :
    (s.modRing n f).pkg.ring m = if m = n then f (s.pkg.ring n) else s.pkg.ring m := Tab.get_ins ..

theorem completes_hostRingEnable {s : State} (h : s.args.n < 16) : Completes .hostRingEnable s fun t =>
    t.pkg.ring s.args.n = { s.pkg.ring s.args.n with en := true, head := 0, tail := 0 } ∧ t.mem = s.mem ∧
    ∀ m, m ≠ s.args.n → t.pkg.ring m = s.pkg.ring m := by
  refine ⟨_, congrArg Host.Outcome.next (if_pos h), ?_, rfl, fun m hm => ?_⟩
  · rw [State.ring_modRing, if_pos rfl]
  · rw [State.ring_modRing, if_neg hm]

theorem completes_hostRingTail {s : State} (h : s.args.n < 16) (hw : (s.pkg.ring s.args.n).waiting = []) :
    Completes .hostRingTail s fun t =>
      t.pkg.ring s.args.n = { s.pkg.ring s.args.n with tail := BitVec.ofNat 32 s.args.v.toNat } ∧ t.hostMem = s.hostMem := by
  refine ⟨s.modRing s.args.n fun r => { r with tail := BitVec.ofNat 32 s.args.v.toNat },
    congrArg Host.Outcome.next ((if_pos h).trans ?_), by rw [State.ring_modRing, if_pos rfl], rfl⟩
  extract_lets t
  have hlen : (t.pkg.ring t.args.n).waiting.length = 0 := by
    show (t.pkg.ring s.args.n).waiting.length = 0
    rw [State.ring_modRing, if_pos rfl, hw]
    rfl
  rw [hlen, State.ringDrain]

/-! ## MSI-X (R342) -/

/-- Host memory after a write of the host port: the written bytes in their places. -/
theorem State.get_hostMem_hostWrite (s : State) (a j : Nat) (l : List Byte) (d : Byte) :
    (s.hostWrite a l).hostMem.get d j = if a ≤ j ∧ j < a + l.length then l.getD (j - a) 0 else s.hostMem.get d j := by
  have hfold (n : Nat) : Tab.get d ((List.range n).foldl (fun m i => Tab.ins m (a + i) (l.getD i 0)) s.hostMem) j =
      if a ≤ j ∧ j < a + n then l.getD (j - a) 0 else s.hostMem.get d j := by
    induction n with
    | zero => simp
    | succ n ih =>
      rw [List.range_succ, List.foldl_append, List.foldl_cons, List.foldl_nil, Tab.get_ins, ih]
      by_cases hj : j = a + n
      · subst hj; simp
      · rw [if_neg hj]
        exact if_congr (by omega) rfl rfl
  exact hfold l.length

theorem getD_toBytes (n i v : Nat) (hi : i < n) : (toBytes n v).getD i 0 = BitVec.ofNat 8 (v / 256 ^ i) := by
  induction n generalizing i v with
  | zero => omega
  | succ n ih =>
    cases i with
    | zero => simp [toBytes]
    | succ i =>
      rw [toBytes, List.getD_cons_succ, ih i (v / 256) (by omega), Nat.div_div_eq_div_mul, pow_succ']

/-- A vector whose mask bit and pending bit are clear. -/
def State.unmasked (s : State) (v : Nat) : State := s.modPkg fun p => { p with
  msix := p.msix.ins (4 * v + 3) (p.msixWord (4 * v + 3) &&& ~~~1#32)
  pending := p.pending &&& ~~~(BitVec.ofNat 32 (2 ^ v)) }

theorem State.msixWord_unmasked (s : State) (v i : Nat) : (s.unmasked v).pkg.msixWord i =
    if i = 4 * v + 3 then s.pkg.msixWord (4 * v + 3) &&& ~~~1#32 else s.pkg.msixWord i := Tab.get_ins ..

theorem State.masked_unmasked (s : State) (v : Nat) : (s.unmasked v).pkg.masked v = false := by
  simp [Pkg.masked, State.msixWord_unmasked]

theorem State.pending_unmasked (s : State) {v : Nat} (hv : v < 32) : (s.unmasked v).pkg.pending.getLsbD v = false := by
  show (s.pkg.pending &&& ~~~(BitVec.ofNat 32 (2 ^ v))).getLsbD v = false
  rw [BitVec.getLsbD_and, BitVec.getLsbD_not, BitVec.getLsbD_ofNat, Nat.testBit_two_pow_self]
  simp [hv]

/-- The message of a vector as its table entry gives it, once its mask is clear. -/
theorem State.signalMsix_unmasked (s : State) (v : Nat) : (s.unmasked v).signalMsix v =
    (s.unmasked v).hostWrite ((s.pkg.msixWord (4 * v)).toNat + (s.pkg.msixWord (4 * v + 1)).toNat * 2 ^ 32)
      (toBytes 4 (s.pkg.msixWord (4 * v + 2)).toNat) := by
  have hw (i : Nat) (hi : i ≠ 4 * v + 3) : (s.unmasked v).pkg.msixWord i = s.pkg.msixWord i := by
    rw [s.msixWord_unmasked, if_neg hi]
  rw [State.signalMsix, s.masked_unmasked v, hw _ (by omega), hw _ (by omega), hw _ (by omega)]
  rfl

theorem completes_msixUnmask {s : State} (h : s.args.n < 32) : Completes .msixUnmask s fun t =>
    t.pkg.masked s.args.n = false ∧ t.pkg.pending.getLsbD s.args.n = false ∧
    (s.pkg.pending.getLsbD s.args.n = false → t.hostMem = s.hostMem) ∧
    (s.pkg.pending.getLsbD s.args.n = true → ∀ i, i < 4 →
      t.hostMem.get 0 ((s.pkg.msixWord (4 * s.args.n)).toNat + (s.pkg.msixWord (4 * s.args.n + 1)).toNat * 2 ^ 32 + i) =
        BitVec.ofNat 8 ((s.pkg.msixWord (4 * s.args.n + 2)).toNat / 256 ^ i)) := by
  have hexec : exec .msixUnmask s = .next (if s.pkg.pending.getLsbD s.args.n then (s.unmasked s.args.n).signalMsix s.args.n
      else s.unmasked s.args.n) := congrArg Host.Outcome.next (if_pos h)
  refine ⟨_, hexec, ?_⟩
  have hmask := s.masked_unmasked s.args.n
  have hpend := s.pending_unmasked h
  cases hp : s.pkg.pending.getLsbD s.args.n with
  | false => exact ⟨hmask, hpend, fun _ => rfl, nofun⟩
  | true =>
    simp only [if_true, s.signalMsix_unmasked]
    refine ⟨hmask, hpend, nofun, fun _ i hi => ?_⟩
    rw [State.get_hostMem_hostWrite, if_pos (by simp; omega), Nat.add_sub_cancel_left, getD_toBytes 4 i _ hi]

end Sys2Proof.Machine
end

section
/-! THEOREM. The dispatcher's events (O53). -/

namespace Sys2Proof.Machine
open Sys2Proof

/-- Settles O53, command by command: each event's equation for its outcome, with what the operation behind it keeps. -/
theorem dispatcherEvents : Obligations.DispatcherEvents := by
  unfold Obligations.DispatcherEvents
  intro s a c d x
  refine ⟨⟨completes_dcpSelect s, ?resume, ?running, ?dead, completes_dcpKill_dispatch, completes_dcpKill_arrival,
      completes_dcpPost⟩,
    ⟨completes_fbPop s, completes_tqPop s, completes_elogPop s, fun _ _ => completes_faultRecordPost,
      fun h => ⟨s, exec_trapRecordPost_running h, rfl⟩, completes_trapRecordPost⟩,
    completes_xltInv s, ?walk, fun hx haway => ⟨s, exec_tileTableReadTimeout_idle hx haway, rfl⟩,
    fun _ _ => completes_tileTableReadTimeout, fun h => ⟨s, exec_quarFree_ignored h, rfl⟩, completes_quarFree,
    fun h => ⟨s, exec_quarantineRelease_empty h, rfl⟩, ?release, fun h => ⟨s, exec_hostStagingAccess_read h, rfl⟩,
    completes_hostStagingAccess, fun hsp h _ => ⟨s, exec_registerWrite_misaligned hsp h, rfl⟩,
    fun hsp ho hn => ⟨_, exec_registerWrite_launch hsp ho hn, rfl⟩,
    fun hsp ho hn => ⟨_, exec_registerWrite_bootReply hsp ho hn, rfl⟩,
    fun _ hsp hn ho => ⟨_, exec_registerWrite_cellCsr hsp hn ho, rfl⟩,
    fun _ hsp hn ho => ⟨_, exec_registerWrite_memory hsp hn ho, rfl⟩, completes_hostRingEnable, completes_hostRingTail,
    completes_msixUnmask⟩
  case resume =>
    intro hl hst
    exact ⟨⟨_, rfl, s.resumes_answered a.die c a.x false hl hst⟩, ⟨_, rfl, s.resumes_answered a.die c a.x true hl hst⟩⟩
  case running =>
    intro hst hback hev
    have hrefused (step : Bool) : s.dcpResume a.die c a.x step = s.dcpDone a.die true :=
      s.dcpResume_running a.die c a.x step hst hback hev
    exact ⟨completes_refused a.die (congrArg Host.Outcome.next (hrefused false)),
      completes_refused a.die (congrArg Host.Outcome.next (hrefused true))⟩
  case dead =>
    intro hst hback hlive
    have hdead : x.dead = true := Ctx.dead_of_not_live hback hlive
    have hrefused (step : Bool) : s.dcpResume a.die c a.x step = s.dcpDone a.die true :=
      s.dcpResume_dead a.die c a.x step hdead
    have hbusy : x.st ≠ .free := by rw [hst]; decide
    refine ⟨completes_refused a.die (congrArg Host.Outcome.next (hrefused false)),
      completes_refused a.die (congrArg Host.Outcome.next (hrefused true)),
      completes_refused a.die (exec_dcpKill_dead hdead), completes_refused a.die ?_⟩
    exact (exec_dcpPost_resident hbusy).trans (congrArg Host.Outcome.next (if_pos hdead))
  case walk =>
    intro w q hflag hw hend hstream hcell hq hid htable
    refine completes_walkerTranslate hflag hw hend hstream hq hid ?_
    have hnum : bitsAt w.a 0 16 = w.a.toNat % 2 ^ 16 := by simp [bitsAt]
    rw [State.walkTable, hnum]
    cases hf : (s.die s.args.die).tensors.find? fun e => e.1 == w.a.toNat % 2 ^ 16 with
    | none => exact aPkg_addrOf ..
    | some e => exact htable e hf
  case release =>
    intro q rest hq
    exact ⟨fun hopen => ⟨_, exec_quarantineRelease_waits hq hopen, rfl⟩, completes_quarantineRelease hq⟩

end Sys2Proof.Machine
end

section
/-! SUPPORT. Emission (R87, R238): what `emitChunk` writes, sends and counts, and what it leaves. -/

namespace Sys2Proof.Machine
open Sys2Proof

theorem headerBytes_length (ck : Chunk) : (headerBytes ck).length = 32 := by
  simp [headerBytes]

/-! ## What sending a chunk leaves -/

theorem State.sendTo_messages (s : State) (dest : BitVec 32) (i : Instr) (a : Args) (kind : Nat) (b : Body) :
    s.Messages (s.sendTo dest i a kind b) :=
  .ite (.ite (.refl s) (.post s _ _)) (.post s _ _)

theorem State.chunkOnward_messages (s : State) (d c : Nat) (ck : Chunk) : s.Messages (s.chunkOnward d c ck) := by
  unfold State.chunkOnward
  split
  · exact .ite (.refl s) (.post s _ _)
  · refine .ite (.post s _ _) ?_
    split
    · exact .post s _ _
    · exact .post s _ _

theorem State.sendChunk_messages (s : State) (c : Nat) (dest : BitVec 32) (ck : Chunk) : s.Messages (s.sendChunk c dest ck) :=
  .ite (s.chunkOnward_messages _ _ _) (s.sendTo_messages _ _ _ _ _)

/-- A chunk for a cell of the producer's die, whose stream no comparator watches, goes to the cell input (R86). -/
theorem State.sendChunk_sameDie {s : State} {c : Nat} {dest : BitVec 32} {ck : Chunk} (hpkg : namePkg dest = s.pkg.number)
    (hdie : dieOf (nameCell dest) = dieOf c) (hcensus : ck.census = false) (hshadow : (s.die (dieOf c)).shadow = []) :
    s.sendChunk c dest ck = s.post .chunkArrival { Args.empty with c := nameCell dest, ck := ck } := by
  have hnext : nextPoint (dieOf c) (nameCell dest) = none := by simp [nextPoint, hdie]
  simp [State.sendChunk, hpkg, State.chunkOnward, hnext, hcensus, hshadow]

/-! ## The steps of an emission -/

theorem Ctx.count_registers (x : Ctx) (code n : Nat) : SameRegisters x (x.count code n) := by
  unfold Ctx.count Ctx.countBy
  split
  · exact .refl x
  · exact .refl x

/-- The first chunk of a task on a port marks its number. -/
def State.markEmission (s : State) (c x p : Nat) (n : BitVec 32) : State :=
  s.modCtxOf c x fun y => { y with marks := if (y.marks.find? fun e => e.1 == p).isSome then y.marks else y.marks.ins p n }

/-- The retain copy and the sending of a chunk. -/
def State.retainAndSend (s : State) (c : Nat) (t : PortSt) (ck : Chunk) : State :=
  (s.overwrite (flat c 0 (t.slotOff t.nextP)) (headerBytes ck ++ ck.payload)).sendChunk c t.dest ck

theorem State.writeBytes_eq (s : State) (k : Nat) (l : List Byte) : s.writeBytes k l = { s with mem := (s.writeBytes k l).mem } := by
  induction l generalizing s k with
  | nil => rfl
  | cons b l ih => exact ih (s.setByte k b) (k + 1)

/-- Writing bytes changes memory and poison, and nothing else. -/
theorem State.overwrite_eq (s : State) (k : Nat) (l : List Byte) :
    ∃ m q, s.overwrite k l = { s with mem := m, poison := q } :=
  ⟨(s.writeBytes k l).mem, (s.overwrite k l).poison, by rw [State.overwrite, State.writeBytes_eq]; rfl⟩

theorem State.cell_overwrite (s : State) (k : Nat) (l : List Byte) (j : Nat) : (s.overwrite k l).cell j = s.cell j := by
  obtain ⟨m, q, h⟩ := s.overwrite_eq k l
  rw [h]
  rfl

theorem State.full_overwrite (s : State) (k : Nat) (l : List Byte) : (s.overwrite k l).full = s.full := by
  obtain ⟨m, q, h⟩ := s.overwrite_eq k l
  rw [h]

theorem State.mem_overwrite (s : State) (k : Nat) (l : List Byte) : (s.overwrite k l).mem = (s.writeBytes k l).mem := rfl

section
variable (s : State) (c : Nat) (t : PortSt) (ck : Chunk)

theorem State.cell_retainAndSend (j : Nat) : (s.retainAndSend c t ck).cell j = s.cell j := by
  rw [State.retainAndSend, State.cell, (State.sendChunk_messages _ _ _ _).cells]
  exact s.cell_overwrite _ _ j

theorem State.full_retainAndSend : (s.retainAndSend c t ck).full = s.full := by
  rw [State.retainAndSend, (State.sendChunk_messages _ _ _ _).full, State.full_overwrite]

theorem State.mem_retainAndSend : (s.retainAndSend c t ck).mem =
    (s.overwrite (flat c 0 (t.slotOff t.nextP)) (headerBytes ck ++ ck.payload)).mem := by
  rw [State.retainAndSend, (State.sendChunk_messages _ _ _ _).mem]

end

/-- The retain copy and the sending, or neither below `ACK_P` (R434). -/
def State.emitted (s : State) (c p : Nat) (t : PortSt) (ck : Chunk) : State :=
  if decide (seqDiff t.nextP t.ackP < 0) then s else (s.retainAndSend c t ck).modCell c fun k => k.profFired (16 + p)

theorem State.cell_emitted (s : State) (c p : Nat) (t : PortSt) (ck : Chunk) :
    (((s.emitted c p t ck).cell c).port p = (s.cell c).port p) ∧ (s.emitted c p t ck).full = s.full ∧
    ∀ x, (s.emitted c p t ck).ctxOf c x = s.ctxOf c x := by
  unfold State.emitted
  split
  · exact ⟨rfl, rfl, fun _ => rfl⟩
  · refine ⟨?_, ?_, fun x => ?_⟩
    · rw [State.cell_modCell, if_pos rfl, State.cell_retainAndSend]
      rfl
    · rw [State.modCell_full, State.full_retainAndSend]
    · rw [State.ctxOf, State.cell_modCell, if_pos rfl, State.cell_retainAndSend]
      rfl

theorem State.focus_emitted (s : State) (c p : Nat) (t : PortSt) (ck : Chunk) : (s.emitted c p t ck).focus = s.focus := by
  unfold State.emitted
  split
  · rfl
  · obtain ⟨m, q, hover⟩ := s.overwrite_eq (flat c 0 (t.slotOff t.nextP)) (headerBytes ck ++ ck.payload)
    rw [State.modCell_focus, State.retainAndSend, (State.sendChunk_messages _ _ _ _).focus, hover]

/-- The end of an emission: the port's numbers, the pennant of a finished micro-batch, the count of chunks. -/
def State.countEmission (s : State) (c x p : Nat) (f : Cell → PortSt → PortSt) (pennant : Bool) (mb : BitVec 16) : State :=
  let s := s.modPort c p (f (s.cell c))
  (if pennant then s.modCell c fun k => { k with hal := { k.hal with held := k.hal.held.filter fun m => m != mb } } else s).modCtxOf
    c x fun y => y.count 11 1

theorem State.emitChunk_eq (s : State) (c x p : Nat) (w : W64) (pay : List Byte) :
    let t := (s.cell c).port p
    let ck := s.formChunk c t w pay
    ∃ f : Cell → PortSt → PortSt, (∀ k q, (f k q).nextP = q.nextP + 1) ∧
      s.emitChunk c x p w pay = ((s.markEmission c x p t.nextP).emitted c p t ck).countEmission c x p f (t.halyard && ck.endMb) ck.mb :=
  ⟨fun k t' => { t' with
    nextP := t'.nextP + 1
    attempts := t'.attempts.ins (t'.slotOf ((s.cell c).port p).nextP) 0
    mbBase := if t'.renumber then BitVec.ofNat 16 (bitsAt w 16 16) -
      BitVec.ofNat 16 (((s.cell c).port p).nextP.toNat / max k.hal.cpm 1) else t'.mbBase
    renumber := false
    high := if t'.high = some (t'.nextP + 1) then none else t'.high }, fun _ _ => rfl, rfl⟩

theorem State.countEmission_leaves (s : State) (c x p : Nat) {f : Cell → PortSt → PortSt} (pennant : Bool) (mb : BitVec 16)
    (hf : ∀ k q, (f k q).nextP = q.nextP + 1) :
    let t := s.countEmission c x p f pennant mb
    ((t.cell c).port p).nextP = ((s.cell c).port p).nextP + 1 ∧ SameRegisters (s.ctxOf c x) (t.ctxOf c x) ∧
    t.full = s.full ∧ t.mem = s.mem ∧ t.agenda = s.agenda := by
  intro t
  let u := s.modPort c p (f (s.cell c))
  let v := if pennant then u.modCell c fun k => { k with hal := { k.hal with held := k.hal.held.filter fun m => m != mb } } else u
  have hport : ((v.cell c).port p).nextP = ((s.cell c).port p).nextP + 1 := by
    have hu : (u.cell c).port p = f (s.cell c) ((s.cell c).port p) := by
      simp [u, State.modPort, Cell.port, Tab.get_ins]
    rw [← hf (s.cell c), ← hu]
    cases pennant
    · rfl
    · simp [v, Cell.port]
  have hctx : v.ctxOf c x = s.ctxOf c x := by
    have hu : u.ctxOf c x = s.ctxOf c x := (SameBanks.modCell (fun _ => by rfl) s c).ctxOf c x
    rw [← hu]
    simp only [v]
    split
    · exact (SameBanks.modCell (fun _ => by rfl) u c).ctxOf c x
    · rfl
  have ht : t = v.modCtxOf c x fun y => y.count 11 1 := rfl
  have hrest : v.full = s.full ∧ v.mem = s.mem ∧ v.agenda = s.agenda := by cases pennant <;> exact ⟨rfl, rfl, rfl⟩
  refine ⟨?_, ?_, hrest⟩
  · rw [← hport, ht, State.modCtxOf, State.cell_modCell, if_pos rfl]
    rfl
  · rw [ht, State.ctxOf_modCtxOf_same, hctx]
    exact Ctx.count_registers _ _ _

theorem State.markEmission_leaves (s : State) (c x p : Nat) (n : BitVec 32) :
    ((s.markEmission c x p n).cell c).port p = (s.cell c).port p ∧
    SameRegisters (s.ctxOf c x) ((s.markEmission c x p n).ctxOf c x) := by
  constructor
  · rw [State.markEmission, State.modCtxOf, State.cell_modCell, if_pos rfl]
    rfl
  · rw [State.markEmission, State.ctxOf_modCtxOf_same]
    exact .refl _

/-- What every emission leaves: the port one chunk further, registers and full bits as before. -/
theorem State.emitChunk_leaves (s : State) (c x p : Nat) (w : W64) (pay : List Byte) :
    (((s.emitChunk c x p w pay).cell c).port p).nextP = ((s.cell c).port p).nextP + 1 ∧
    SameRegisters (s.ctxOf c x) ((s.emitChunk c x p w pay).ctxOf c x) ∧ (s.emitChunk c x p w pay).full = s.full := by
  obtain ⟨f, hf, heq⟩ := s.emitChunk_eq c x p w pay
  rw [heq]
  obtain ⟨hmark, hmarkCtx⟩ := s.markEmission_leaves c x p ((s.cell c).port p).nextP
  obtain ⟨hport, hfull, hctx⟩ := (s.markEmission c x p ((s.cell c).port p).nextP).cell_emitted c p ((s.cell c).port p)
    (s.formChunk c ((s.cell c).port p) w pay)
  obtain ⟨gport, gctx, gfull, -, -⟩ := State.countEmission_leaves ((s.markEmission c x p ((s.cell c).port p).nextP).emitted c p
    ((s.cell c).port p) (s.formChunk c ((s.cell c).port p) w pay)) c x p
    (((s.cell c).port p).halyard && (s.formChunk c ((s.cell c).port p) w pay).endMb) (s.formChunk c ((s.cell c).port p) w pay).mb hf
  exact ⟨by rw [gport, hport, hmark], hmarkCtx.trans (hctx x ▸ gctx), by rw [gfull, hfull]; rfl⟩

theorem State.focus_emitChunk (s : State) (c x p : Nat) (w : W64) (pay : List Byte) : (s.emitChunk c x p w pay).focus = s.focus := by
  obtain ⟨f, hf, heq⟩ := s.emitChunk_eq c x p w pay
  have hcount (u : State) (pennant : Bool) (mb : BitVec 16) : (u.countEmission c x p f pennant mb).focus = u.focus := by
    cases pennant <;> rfl
  rw [heq, hcount, State.focus_emitted]
  rfl

/-- What an emission leaves of memory and of the messages in flight. -/
theorem State.emitChunk_sends (s : State) (c x p : Nat) (w : W64) (pay : List Byte) :
    let t := (s.cell c).port p
    let u := (s.markEmission c x p t.nextP).emitted c p t (s.formChunk c t w pay)
    (s.emitChunk c x p w pay).mem = u.mem ∧ (s.emitChunk c x p w pay).agenda = u.agenda := by
  intro t u
  obtain ⟨f, hf, heq⟩ := s.emitChunk_eq c x p w pay
  obtain ⟨-, -, -, hmem, hagenda⟩ := u.countEmission_leaves c x p (t.halyard && (s.formChunk c t w pay).endMb)
    (s.formChunk c t w pay).mb hf
  rw [heq]
  exact ⟨hmem, hagenda⟩

/-- A chunk below `ACK_P` is counted and not sent (R434). -/
theorem State.emitChunk_discards {s : State} {c p : Nat} (x : Nat) (w : W64) (pay : List Byte)
    (h : seqDiff ((s.cell c).port p).nextP ((s.cell c).port p).ackP < 0) :
    (s.emitChunk c x p w pay).mem = s.mem ∧ (s.emitChunk c x p w pay).agenda = s.agenda := by
  obtain ⟨hmem, hagenda⟩ := s.emitChunk_sends c x p w pay
  rw [hmem, hagenda, State.emitted, if_pos (decide_eq_true h)]
  exact ⟨rfl, rfl⟩

/-- Any other chunk is written to its retain slot. -/
theorem State.byte_emitChunk {s : State} {c p : Nat} (x : Nat) (w : W64) (pay : List Byte) (hwf : Memory.wf s.mem = true)
    (h : ¬seqDiff ((s.cell c).port p).nextP ((s.cell c).port p).ackP < 0) (j : Nat) :
    let t := (s.cell c).port p
    let k := flat c 0 (t.slotOff t.nextP)
    (s.emitChunk c x p w pay).byte j =
      if k ≤ j then ((headerBytes (s.formChunk c t w pay) ++ pay)[j - k]?).getD (s.byte j) else s.byte j := by
  intro t k
  have hmem := (s.emitChunk_sends c x p w pay).1
  rw [State.emitted, if_neg (by simpa using h), State.modCell_mem, State.mem_retainAndSend, State.mem_overwrite] at hmem
  have hmark (i : Nat) : (s.markEmission c x p t.nextP).byte i = s.byte i := rfl
  have hmarkWf : Memory.wf (s.markEmission c x p t.nextP).mem = true := hwf
  rw [State.byte_of_mem hmem, State.byte_writeBytes hmarkWf, hmark]
  rfl

/-- And a chunk for a cell of the same die whose stream no comparator watches reaches the cell input next. -/
theorem State.emitChunk_arrives {s : State} {c p : Nat} (x : Nat) (w : W64) (pay : List Byte)
    (h : ¬seqDiff ((s.cell c).port p).nextP ((s.cell c).port p).ackP < 0)
    (hpkg : namePkg ((s.cell c).port p).dest = s.pkg.number) (hdie : dieOf (nameCell ((s.cell c).port p).dest) = dieOf c)
    (hshadow : (s.die (dieOf c)).shadow = []) :
    ⟨.chunkArrival, { Args.empty with
      c := nameCell ((s.cell c).port p).dest
      ck := s.formChunk c ((s.cell c).port p) w pay }⟩ ∈ (s.emitChunk c x p w pay).agenda := by
  obtain ⟨-, hagenda⟩ := s.emitChunk_sends c x p w pay
  rw [hagenda, State.emitted, if_neg (by simpa using h), State.modCell_agenda, State.retainAndSend]
  obtain ⟨m, q, hover⟩ := (s.markEmission c x p ((s.cell c).port p).nextP).overwrite_eq
    (flat c 0 (((s.cell c).port p).slotOff ((s.cell c).port p).nextP))
    (headerBytes (s.formChunk c ((s.cell c).port p) w pay) ++ (s.formChunk c ((s.cell c).port p) w pay).payload)
  rw [State.sendChunk_sameDie (by rw [hover]; exact hpkg) hdie rfl (by rw [hover]; exact hshadow)]
  exact List.mem_append_right _ (List.mem_singleton_self _)

end Sys2Proof.Machine
end

section
/-! SUPPORT. `SEMIT` (R238): its operand checks, its flush point, and its three outcomes once it issues. -/

namespace Sys2Proof.Machine
open Sys2Proof

/-! ## Operands -/

theorem semitBad_iff (k : Cell) (q : PortSt) (w : W64) : semitBad k q w = true ↔
    (w.getLsbD 15 = true ∨ 2 ^ 48 ≤ w.toNat ∨ q.pay < w.toNat % 2 ^ 13 ∨
      (w.toNat / 2 ^ 32 % 2 ^ 16 ≠ 0 ∧ q.fmt.toNat ≠ fmtAX) ∨ (q.fmt.toNat = fmtAX ∧ w.toNat % 2 ^ 13 % 8 ≠ 0) ∨
      (q.halyard = true ∧ (k.hal.paired = false ∨
        ¬(w.getLsbD 13 = true ↔ q.nextP.toNat % max k.hal.cpm 1 = k.hal.cpm - 1) ∨
        (q.renumber = false ∧ BitVec.ofNat 16 (w.toNat / 2 ^ 16) ≠
          q.mbBase + BitVec.ofNat 16 (q.nextP.toNat / max k.hal.cpm 1))))) := by
  have hhigh : w.toNat / 2 ^ 48 % 2 ^ 16 ≠ 0 ↔ 2 ^ 48 ≤ w.toNat := by have := w.isLt; omega
  have hmb : BitVec.ofNat 16 (w.toNat / 2 ^ 16 % 2 ^ 16) = BitVec.ofNat 16 (w.toNat / 2 ^ 16) := by
    apply BitVec.eq_of_toNat_eq; simp
  have hlast : (w.getLsbD 13 != (q.nextP.toNat % max k.hal.cpm 1 == k.hal.cpm - 1)) = true ↔
      ¬(w.getLsbD 13 = true ↔ q.nextP.toNat % max k.hal.cpm 1 = k.hal.cpm - 1) := by
    rw [bne_iff_ne, Ne, Bool.eq_iff_iff, beq_iff_eq]
  have hfield : bitsAt w 0 13 = w.toNat % 2 ^ 13 := by simp [bitsAt]
  simp only [semitBad, Bool.or_eq_true, Bool.and_eq_true, hlast, bne_iff_ne, beq_iff_eq, decide_eq_true_eq, Bool.not_eq_true',
    haNext, hfield]
  simp only [bitsAt, hhigh, hmb]
  rw [ne_comm (a := q.mbBase + _)]
  simp only [or_assoc]

/-! ## The flush point (R325) -/

/-- `u` is `s` but for closed windows. -/
structure State.Closed (s u : State) : Prop where
  eq : u = { s with cells := u.cells }
  port : ∀ p, u.here.port p = s.here.port p
  ctx : ∃ win perm, u.ctx = { s.ctx with window := win, rwPermClosed := perm }

namespace State.Closed
variable {s u : State}

theorem registers (h : s.Closed u) : SameRegisters s.ctx u.ctx := by
  obtain ⟨win, perm, hctx⟩ := h.ctx
  rw [hctx]
  exact .refl _

/-- An error response found behind a closed window is recorded as without it. -/
theorem records (h : s.Closed u) {y : Ctx} {kind : Nat} {addr info : W64} (hr : RecordsViolation u.ctx y kind addr info) :
    RecordsViolation s.ctx y kind addr info := by
  obtain ⟨win, perm, hctx⟩ := h.ctx
  rwa [hctx] at hr

theorem byte (h : s.Closed u) (j : Nat) : u.byte j = s.byte j := State.byte_of_mem (by rw [h.eq]) j

/-- An error response behind the flush point: the record, and nothing else. -/
theorem violates (h : s.Closed u) {kind : Nat} (hk : kind < 7) (addr : W64) :
    let t := u.violate kind addr (u.infoOf 0 true false false 0)
    (SameRegisters s.ctx t.ctx ∧ t.full = s.full ∧ ∀ j, t.byte j = s.byte j) ∧ t.agenda = s.agenda ∧
    (s.focus.slot < 14 → RecordsViolation s.ctx t.ctx kind addr (violInfo s.focus.pc s.focus.slot 0 true false false 0)) := by
  intro t
  obtain ⟨hregs, hrec⟩ := u.violate_records addr true false false hk (by decide : 0 < 4) (by decide : 0 < 8)
  have hfocus : u.focus = s.focus := by rw [h.eq]
  refine ⟨⟨h.registers.trans hregs, ?_, h.byte⟩, ?_, fun hslot => ?_⟩
  · show u.full = s.full
    rw [h.eq]
  · show u.agenda = s.agenda
    rw [h.eq]
  · rw [hfocus] at hrec
    exact h.records (hrec hslot)

end State.Closed

/-- What a `SEMIT` closes whose payload meets an operation of the context's windows. -/
def State.semitFlush (s : State) (off len : Nat) : State := if s.semitMeets off len then s.closeWindow else s

theorem State.semitFlush_closed (s : State) (off len : Nat) : s.Closed (s.semitFlush off len) := by
  unfold State.semitFlush
  split
  · refine ⟨rfl, fun p => ?_, ?_⟩
    · simp only [State.closeWindow, State.modCtx, State.modCtxOf, State.here, State.modCell, State.putCell, State.cell, Tab.get_ins]
      simp
      rfl
    · exact ⟨_, _, State.ctx_modCtx s _⟩
  · exact ⟨rfl, fun _ => rfl, s.ctx.window, s.ctx.rwPermClosed, rfl⟩

/-! ## Outcomes -/

/-- What a `SEMIT` does behind its flush point: an error response, a stop at poisoned bytes, or the emission. -/
def State.semitPayload (s : State) (c p : Nat) (w : W64) (off : Nat) : State :=
  if !inScratch c off (bitsAt w 0 13) then s.violate kAddr (s.addrOf c 0 off) (s.infoOf 0 true false false 0)
  else if off % 8 ≠ 0 then s.violate kAlign (s.addrOf c 0 off) (s.infoOf 0 true false false 0)
  else if s.poisoned (flat c 0 off) (bitsAt w 0 13) then s.consume (flat c 0 off)
  else s.emitChunk c s.focus.ctx p w (s.readBytes (flat c 0 off) (bitsAt w 0 13))

section
variable {s : State} (p : BitVec 4) (a b : BitVec 6)

theorem exec_semit_unconfigured (h : (s.seen.port p.toNat).slots = 0) : exec (.semit p a b) s = .next (s.stop 0x02 32) :=
  congrArg Host.Outcome.next (if_pos h)

theorem exec_semit_bad (h : (s.seen.port p.toNat).slots ≠ 0) (hbad : semitBad s.here (s.seen.port p.toNat) (s.rs b) = true) :
    exec (.semit p a b) s = .next (s.stop 0x02 33) :=
  congrArg Host.Outcome.next ((if_neg h).trans (if_pos hbad))

theorem exec_semit_held (h : (s.seen.port p.toNat).slots ≠ 0) (hbad : ¬semitBad s.here (s.seen.port p.toNat) (s.rs b) = true)
    (hheld : s.emitHeld s.focus.cell p.toNat (BitVec.ofNat 16 (bitsAt (s.rs b) 16 16)) = true) :
    exec (.semit p a b) s = .next (s.block (.emit p.toNat (BitVec.ofNat 16 (bitsAt (s.rs b) 16 16)))) :=
  congrArg Host.Outcome.next ((if_neg h).trans ((if_neg hbad).trans (if_pos hheld)))

theorem exec_semit_issues (h : (s.seen.port p.toNat).slots ≠ 0) (hbad : ¬semitBad s.here (s.seen.port p.toNat) (s.rs b) = true)
    (hheld : ¬s.emitHeld s.focus.cell p.toNat (BitVec.ofNat 16 (bitsAt (s.rs b) 16 16)) = true) (hpend : s.ctx.pend = [])
    (haw : ∀ w, w ∈ s.ctx.awaits → s.barring s.focus.cell w = false) :
    exec (.semit p a b) s = .next ((s.semitFlush (s.rs a).toNat (bitsAt (s.rs b) 0 13)).semitPayload s.focus.cell p.toNat
      (s.rs b) (s.rs a).toNat) := by
  refine congrArg Host.Outcome.next ((if_neg h).trans ((if_neg hbad).trans ((if_neg hheld).trans ?_)))
  exact State.behindReleases_of_quiet hpend haw _

end

/-- A payload outside scratch is an ADDR error response. -/
theorem State.Closed.semitPayload_addr {s u : State} (h : s.Closed u) {c p off : Nat} {w : W64}
    (hsize : spaceSize c 0 < off + bitsAt w 0 13) : u.semitPayload c p w off =
      u.violate 0 (s.addrOf c 0 off) (u.infoOf 0 true false false 0) := by
  have hout : (!inScratch c off (bitsAt w 0 13)) = true := by simp [inScratch, hsize]
  rw [State.semitPayload, if_pos hout, h.eq]
  rfl

theorem State.Closed.semitPayload_align {s u : State} (h : s.Closed u) {c p off : Nat} {w : W64}
    (hsize : off + bitsAt w 0 13 ≤ spaceSize c 0) (hal : off % 8 ≠ 0) : u.semitPayload c p w off =
      u.violate 1 (s.addrOf c 0 off) (u.infoOf 0 true false false 0) := by
  have hin : ¬(!inScratch c off (bitsAt w 0 13)) = true := by simp [inScratch, hsize]
  rw [State.semitPayload, if_neg hin, if_pos hal, h.eq]
  rfl

theorem State.Closed.semitPayload_emits {s u : State} (h : s.Closed u) {c p off : Nat} {w : W64}
    (hsize : off + bitsAt w 0 13 ≤ spaceSize c 0) (hal : off % 8 = 0)
    (hpoison : s.poisoned (flat c 0 off) (bitsAt w 0 13) = false) : u.semitPayload c p w off =
      u.emitChunk c s.focus.ctx p w (s.readBytes (flat c 0 off) (bitsAt w 0 13)) := by
  have hin : ¬(!inScratch c off (bitsAt w 0 13)) = true := by simp [inScratch, hsize]
  have hclean : ¬u.poisoned (flat c 0 off) (bitsAt w 0 13) = true := by
    have : u.poisoned (flat c 0 off) (bitsAt w 0 13) = s.poisoned (flat c 0 off) (bitsAt w 0 13) := by rw [h.eq]; rfl
    simp [this, hpoison]
  have hread : u.readBytes (flat c 0 off) (bitsAt w 0 13) = s.readBytes (flat c 0 off) (bitsAt w 0 13) := by rw [h.eq]; rfl
  have hfocus : u.focus = s.focus := by rw [h.eq]
  rw [State.semitPayload, if_neg hin, if_neg (not_not_intro hal), if_neg hclean, hread, hfocus]

end Sys2Proof.Machine
end

section
/-! SUPPORT. The freeing of a ring slot (R85, R239): what `freeSlot` and `SFREE` leave. -/

namespace Sys2Proof.Machine
open Sys2Proof

/-! ## The acknowledged number (R85) -/

/-- A slot that no chunk occupies any more: freed, or reusable behind `ACK_C`. -/
def TagSt.Released (g : TagSt) (slot : Nat) : Prop := (g.at_ slot).use = .freed ∨ (g.at_ slot).use = .empty

theorem TagSt.at_put (g : TagSt) (i j : Nat) (r : RingSlot) : (g.put i r).at_ j = if j = i then r else g.at_ j := Tab.get_ins ..

theorem TagSt.Released.put_empty {g : TagSt} {slot : Nat} (h : g.Released slot) (i : Nat) :
    (g.put i { g.at_ i with use := .empty }).Released slot := by
  unfold TagSt.Released
  rw [TagSt.at_put]
  split
  · exact .inr rfl
  · exact h

/-- `ACK_C` moves past released slots only, and leaves each released slot released. -/
theorem TagSt.Released.advanceAck {g : TagSt} {slot : Nat} (h : g.Released slot) (cpm n : Nat) :
    (advanceAck cpm g n).Released slot := by
  induction n generalizing g with
  | zero => exact h
  | succ n ih =>
    unfold Machine.advanceAck
    extract_lets step ready g'
    split
    · refine ih ?_
      exact foldl_keep (fun t : TagSt => t.Released slot) _ (fun t i ht => ht.put_empty _) _ g h
    · exact h

/-! ## What freeing leaves -/

/-- `t` is `s` but for messages and, in cell `c`, the halyard. -/
structure State.SameTags (c : Nat) (s t : State) : Prop where
  full : t.full = s.full
  focus : t.focus = s.focus
  tag : ∀ i, (t.cell c).tag i = (s.cell c).tag i
  ctxOf : ∀ j x, t.ctxOf j x = s.ctxOf j x

namespace State.SameTags
variable {c : Nat} {s t u : State}

theorem refl (s : State) : s.SameTags c s := ⟨rfl, rfl, fun _ => rfl, fun _ _ => rfl⟩

theorem trans (h : s.SameTags c t) (g : t.SameTags c u) : s.SameTags c u :=
  ⟨g.full.trans h.full, g.focus.trans h.focus, fun i => (g.tag i).trans (h.tag i), fun j x => (g.ctxOf j x).trans (h.ctxOf j x)⟩

theorem of_messages (h : s.Messages t) (c : Nat) : s.SameTags c t :=
  ⟨h.full, h.focus, fun i => by rw [State.cell, h.cells]; rfl, fun j x => State.ctxOf_of_cells h.cells j x⟩

/-- An update of a cell's halyard. -/
theorem modHal (f : Cell → Cell) (hf : ∀ k, ∃ h, f k = { k with hal := h }) (s : State) (c : Nat) : s.SameTags c (s.modCell c f) := by
  obtain ⟨h, hh⟩ := hf (s.cell c)
  refine ⟨rfl, rfl, fun i => ?_, fun j x => ?_⟩
  · rw [State.cell_modCell, if_pos rfl, hh]
    rfl
  · unfold State.ctxOf
    rw [State.cell_modCell]
    split
    · next hj => rw [hh, hj]; rfl
    · rfl

theorem ite {p : Prop} [Decidable p] (ht : s.SameTags c t) (hu : s.SameTags c u) : s.SameTags c (if p then t else u) := by
  split
  · exact ht
  · exact hu

theorem haFreed (s : State) (c : Nat) (g : TagSt) (m : BitVec 16) : s.SameTags c (s.haFreed c g m) := by
  refine modHal _ (fun k => ?_) s c
  cases k.hal.group m with
  | none => exact ⟨k.hal, rfl⟩
  | some i =>
    simp only
    split
    · exact ⟨_, rfl⟩
    · exact ⟨k.hal, rfl⟩

theorem nextPennant (s : State) (c : Nat) : s.SameTags c (s.nextPennant c) := by
  refine ite ?_ (refl s)
  exact (modHal _ (fun k => ⟨_, rfl⟩) s c).trans (of_messages (.ite (.refl _) (.post _ _ _)) c)

end State.SameTags

theorem State.returnOnward_messages (s : State) (d c : Nat) (stream : BitVec 16) (ack : BitVec 32) :
    s.Messages (s.returnOnward d c stream ack) := by
  unfold State.returnOnward
  extract_lets a
  split
  · exact .ite (.refl s) (.post s _ _)
  · exact .post s _ _

theorem State.sendReturn_messages (s : State) (c t : Nat) : s.Messages (s.sendReturn c t) :=
  .ite (.refl s) (.foldl (fun u _ => .ite (u.returnOnward_messages _ _ _ _) (u.sendTo_messages _ _ _ _ _)) _ s)

/-- A freed slot: its words are empty, its chunk is released, and banks and other words are as before (R85). -/
theorem State.freeSlot_leaves (s : State) (c t slot : Nat) :
    let g := (s.cell c).tag t
    let r := s.freeSlot c t slot
    r.full = (s.setFullRange (flat c 0 (g.slotOff slot)) (strideOf g.pay) false).full ∧
    ((r.cell c).tag t).Released slot ∧ r.focus = s.focus ∧ ∀ j x, r.ctxOf j x = s.ctxOf j x := by
  unfold State.freeSlot
  extract_lets g was s1 g1 g2 s2 s3
  have h1 : s1 = { s with full := s1.full } := s.setFullRange_eq _ _ _
  have h2 : ((s2.cell c).tag t).Released slot := by
    have hg1 : g1.Released slot := .inl (by rw [TagSt.at_put, if_pos rfl])
    have hg2 : g2.Released slot := hg1.advanceAck _ _
    have htag : (s2.cell c).tag t = g2 := by
      simp only [s2, State.modTag, State.cell_modCell, if_true, Cell.tag, Tab.get_ins]
    rwa [htag]
  have h2ctx (j x : Nat) : s2.ctxOf j x = s.ctxOf j x := by
    have hbank : s2.ctxOf j x = s1.ctxOf j x := (State.SameBanks.modCell (fun _ => by rfl) s1 c).ctxOf j x
    rw [hbank, h1]
    rfl
  have h2focus : s2.focus = s.focus := by
    show s1.focus = s.focus
    rw [h1]
  have h3 : s2.SameTags c s3 := .ite ((State.SameTags.haFreed ..).trans (.nextPennant ..)) (.refl _)
  have hr : s2.SameTags c (if g2.ackC = g.ackC then s3 else s3.sendReturn c t) :=
    .ite h3 (h3.trans (.of_messages (s3.sendReturn_messages c t) c))
  exact ⟨hr.full, by rw [hr.tag]; exact h2, hr.focus.trans h2focus, fun j x => (hr.ctxOf j x).trans (h2ctx j x)⟩

/-! ## SFREE (R239) -/

theorem sfreeBad_iff (x : Ctx) (t : Nat) (v : W64) : sfreeBad x t v = true ↔
    (64 ≤ v.toNat ∨ ∀ e, e ∈ x.bound → e.tag = t → e.slot = v.toNat → e.freed = true) := by
  have hhigh : bitsAt v 6 58 ≠ 0 ↔ 64 ≤ v.toNat := by
    have := v.isLt
    simp only [bitsAt]
    omega
  have hbound : (x.bound.any fun b => b.tag == t && b.slot == bitsAt v 0 6 && !b.freed) = false ↔
      ∀ e, e ∈ x.bound → e.tag = t → e.slot = bitsAt v 0 6 → e.freed = true := by
    simp only [List.any_eq_false, Bool.and_eq_true, beq_iff_eq, Bool.not_eq_true', not_and, Bool.not_eq_false, and_imp]
  rw [sfreeBad, Bool.or_eq_true, bne_iff_ne, hhigh, Bool.not_eq_true', hbound]
  by_cases h : 64 ≤ v.toNat
  · simp [h]
  · have hlow : bitsAt v 0 6 = v.toNat := by simp only [bitsAt]; omega
    rw [hlow]

/-- The queued matrix operations of the issuing context keep the bytes of a slot (R297). -/
def State.keepSlot (s : State) (lo n : Nat) : State :=
  let keep (e : MEntry) : MEntry :=
    if e.ctx = s.focus.ctx then { e with past := e.past ++ [(flat s.focus.cell 0 lo, s.readBytes (flat s.focus.cell 0 lo) n)] } else e
  s.modHere fun k => { k with mats := k.mats.map fun m => (m.1, { m.2 with
    queue := m.2.queue.map keep
    originals := m.2.originals.map keep }) }

theorem State.readSlot_of_quiet {s : State} {lo n : Nat} (hpend : s.ctx.pend = []) (hreads : s.slotReads lo n = []) :
    s.readSlot lo n = s.keepSlot lo n := by
  unfold State.readSlot
  rw [hpend]
  simp only [List.filter_nil, List.foldl_nil, hreads]
  rfl

/-- The task has freed a slot. -/
def Ctx.freesSlot (x : Ctx) (t slot : Nat) : Ctx :=
  { x.count 12 1 with bound := x.bound.map fun b => if b.tag == t && b.slot == slot then { b with freed := true } else b }

theorem Ctx.freesSlot_registers (x : Ctx) (t slot : Nat) : SameRegisters x (x.freesSlot t slot) := x.count_registers 12 1

theorem Ctx.freed_of_freesSlot {x : Ctx} {t slot : Nat} {e : Bound} (h : e ∈ (x.freesSlot t slot).bound) (ht : e.tag = t)
    (hs : e.slot = slot) : e.freed = true := by
  obtain ⟨b, -, rfl⟩ := List.mem_map.mp h
  split at ht
  · next hb => rw [if_pos hb]
  · next hb =>
    rw [if_neg hb] at hs
    exact absurd (by simp [ht, hs]) hb

theorem exec_sfree_bad {s : State} {p : BitVec 4} {a : BitVec 6} (h : sfreeBad s.ctx p.toNat (s.rs a) = true) :
    exec (.sfree p a) s = .next (s.stop 0x02 34) := congrArg Host.Outcome.next (if_pos h)

theorem exec_sfree {s : State} {p : BitVec 4} {a : BitVec 6} (h : ¬sfreeBad s.ctx p.toNat (s.rs a) = true) (hpend : s.ctx.pend = [])
    (hreads : s.slotReads ((s.here.tag p.toNat).slotOff (bitsAt (s.rs a) 0 6)) (strideOf (s.here.tag p.toNat).pay) = []) :
    exec (.sfree p a) s = .next (((s.keepSlot ((s.here.tag p.toNat).slotOff (bitsAt (s.rs a) 0 6))
      (strideOf (s.here.tag p.toNat).pay)).modCtx fun x => x.freesSlot p.toNat (bitsAt (s.rs a) 0 6)).freeSlot s.focus.cell p.toNat
        (bitsAt (s.rs a) 0 6)) := by
  refine congrArg Host.Outcome.next ((if_neg h).trans ?_)
  simp only [State.readSlot_of_quiet hpend hreads]
  rfl

/-- A task's `SFREE` of a slot that is bound to it (R239). -/
theorem completes_sfree {s : State} {p : BitVec 4} {a : BitVec 6} (h : ¬sfreeBad s.ctx p.toNat (s.rs a) = true)
    (hpend : s.ctx.pend = []) (hslot : bitsAt (s.rs a) 0 6 = (s.rs a).toNat)
    (hreads : s.slotReads ((s.here.tag p.toNat).slotOff (s.rs a).toNat) (strideOf (s.here.tag p.toNat).pay) = [])
    (hfull : Tab.wf true s.full = true) (hal : (s.here.tag p.toNat).slotOff (s.rs a).toNat % 8 = 0) :
    let ring := (s.here.tag p.toNat).slotOff (s.rs a).toNat
    let stride := strideOf (s.here.tag p.toNat).pay
    Completes (.sfree p a) s fun t =>
      (∀ e, e ∈ t.ctx.bound → e.tag = p.toNat → e.slot = (s.rs a).toNat → e.freed = true) ∧
      (t.here.tag p.toNat).Released (s.rs a).toNat ∧
      (∀ j, t.isFull j = if flat s.focus.cell 0 ring ≤ j ∧ j < flat s.focus.cell 0 ring + stride then false else s.isFull j) ∧
      SameRegisters s.ctx t.ctx ∧ ∀ j, t.byte j = s.byte j := by
  intro ring stride
  have hexec := exec_sfree h hpend (by rw [hslot]; exact hreads)
  rw [hslot] at hexec
  let u := (s.keepSlot ring stride).modCtx fun x => x.freesSlot p.toNat (s.rs a).toNat
  have hkept : (s.keepSlot ring stride).ctx = s.ctx := State.ctx_modHere rfl
  have hctx : u.ctx = s.ctx.freesSlot p.toNat (s.rs a).toNat := by rw [State.ctx_modCtx, hkept]
  have htag : (u.cell s.focus.cell).tag p.toNat = s.here.tag p.toNat := by
    have hcell : u.cell s.focus.cell = ((s.keepSlot ring stride).cell s.focus.cell).putCtx s.focus.ctx _ :=
      (State.cell_modCell ..).trans (if_pos rfl)
    rw [hcell, State.keepSlot, State.modHere, State.cell_modCell, if_pos rfl]
    rfl
  obtain ⟨gfull, grel, gfocus, gctx⟩ := u.freeSlot_leaves s.focus.cell p.toNat (s.rs a).toNat
  have ht : (u.freeSlot s.focus.cell p.toNat (s.rs a).toNat).ctx = s.ctx.freesSlot p.toNat (s.rs a).toNat := by
    rw [← hctx, State.ctx, State.here, gfocus]
    exact gctx _ _
  refine ⟨_, hexec, fun e he htag hs => ?_, ?_, fun j => ?_, ?_, fun j => ?_⟩
  · rw [ht] at he
    exact Ctx.freed_of_freesSlot he htag hs
  · rw [State.here, gfocus]
    exact grel
  · rw [State.isFull, gfull, htag]
    exact State.isFull_setFullRange (s := u) hfull (by simp [flat]; omega) (by simp [strideOf]; omega) j false
  · rw [ht]
    exact Ctx.freesSlot_registers _ _ _
  · exact State.byte_of_mem (MemSat.freeSlot (P := (· = s.mem)) (s := u) rfl) j

end Sys2Proof.Machine
end

section
/-! THEOREM. The two ends of a stream (O30). -/

namespace Sys2Proof.Machine
open Sys2Proof

/-! ## SSTAT (R240) -/

theorem sstatTag_eq (g : TagSt) : sstatTag g = BitVec.ofNat 64 (g.ackC.toNat +
    (g.ring.filter fun e => e.2.use == .resident).length * 2 ^ 32 + (g.slots - (g.expC - g.ackC).toNat) * 2 ^ 47) := by
  simp only [sstatTag, TagSt.unbound, List.length_map]

theorem sstatPort_eq (k : Cell) (q : PortSt) : sstatPort k q = BitVec.ofNat 64 (q.nextP.toNat +
    (if (q.nextP - q.ackP).toInt < 0 then q.slots else q.slots - (q.nextP - q.ackP).toInt.toNat) * 2 ^ 32 +
    (if q.halyard = true ∧ haNext k q ∈ k.hal.held then 2 ^ 39 else 0) +
    (if q.stopped = true ∨ q.peerLost = true then 2 ^ 40 else 0) + q.slots * 2 ^ 47) := by
  have hpen : (q.halyard && k.hal.held.contains (haNext k q)).toNat * 2 ^ 39 =
      if q.halyard = true ∧ haNext k q ∈ k.hal.held then 2 ^ 39 else 0 := by
    rw [Bool.toNat, cond_eq_ite]
    simp
  have hstop : (q.stopped || q.peerLost).toNat * 2 ^ 40 = if q.stopped = true ∨ q.peerLost = true then 2 ^ 40 else 0 := by
    rw [Bool.toNat, cond_eq_ite]
    simp
  rw [sstatPort, hpen, hstop, PortSt.free]
  rfl

theorem sstatPort_plain (k : Cell) {q : PortSt} (h : q.halyard = false) : sstatPort k q = BitVec.ofNat 64 (q.nextP.toNat +
    (if (q.nextP - q.ackP).toInt < 0 then q.slots else q.slots - (q.nextP - q.ackP).toInt.toNat) * 2 ^ 32 +
    (if q.stopped = true ∨ q.peerLost = true then 2 ^ 40 else 0) + q.slots * 2 ^ 47) := by
  have hno : ¬(q.halyard = true ∧ haNext k q ∈ k.hal.held) := by simp [h]
  rw [sstatPort_eq, if_neg hno, Nat.add_zero]

theorem sstatPort_halyard (k : Cell) {q : PortSt} (h : q.halyard = true) : sstatPort k q = BitVec.ofNat 64 (q.nextP.toNat +
    (if (q.nextP - q.ackP).toInt < 0 then q.slots else q.slots - (q.nextP - q.ackP).toInt.toNat) * 2 ^ 32 +
    (if haNext k q ∈ k.hal.held then 2 ^ 39 else 0) +
    (if q.stopped = true ∨ q.peerLost = true then 2 ^ 40 else 0) + q.slots * 2 ^ 47) := by
  have hpen : (q.halyard = true ∧ haNext k q ∈ k.hal.held) = (haNext k q ∈ k.hal.held) := by rw [h]; simp
  simp only [sstatPort_eq, hpen]

section
variable {s : State} (d : BitVec 6) (n : BitVec 4)

theorem exec_sstat_noTag (h : (s.seen.tag n.toNat).slots = 0) : exec (.sstat d n 0) s = .next (s.stop 0x02 32) :=
  congrArg Host.Outcome.next ((if_pos rfl).trans (if_pos h))

theorem completes_sstat_tag (h : (s.seen.tag n.toNat).slots ≠ 0) : Completes (.sstat d n 0) s fun t =>
    WritesScalarLate s t d (sstatTag (s.seen.tag n.toNat)) 6 :=
  ⟨_, congrArg Host.Outcome.next ((if_pos rfl).trans (if_neg h)), s.wsLate_writes ..⟩

theorem exec_sstat_noPort (h : (s.seen.port n.toNat).slots = 0) : exec (.sstat d n 1) s = .next (s.stop 0x02 32) :=
  congrArg Host.Outcome.next ((if_neg (by decide)).trans (if_pos h))

theorem completes_sstat_port (h : (s.seen.port n.toNat).slots ≠ 0) : Completes (.sstat d n 1) s fun t =>
    WritesScalarLate s t d (sstatPort s.seen (s.seen.port n.toNat)) 6 :=
  ⟨_, congrArg Host.Outcome.next ((if_neg (by decide)).trans (if_neg h)), s.wsLate_writes ..⟩

end

/-! ## What an emission behind the flush point leaves -/

namespace State.Closed
variable {s u : State} (h : s.Closed u) (p : Nat) (w : W64) (pay : List Byte)
include h

theorem focus : u.focus = s.focus := by rw [h.eq]

theorem port_cell : (u.cell s.focus.cell).port p = s.here.port p := by
  rw [← h.port p, State.here, h.focus]

theorem emits : ((u.emitChunk s.focus.cell s.focus.ctx p w pay).here.port p).nextP = (s.here.port p).nextP + 1 ∧
    SameRegisters s.ctx (u.emitChunk s.focus.cell s.focus.ctx p w pay).ctx ∧
    (u.emitChunk s.focus.cell s.focus.ctx p w pay).full = s.full := by
  obtain ⟨hport, hregs, hfull⟩ := u.emitChunk_leaves s.focus.cell s.focus.ctx p w pay
  have hhere (t : State) (ht : t.focus = s.focus) : t.here = t.cell s.focus.cell ∧ t.ctx = t.ctxOf s.focus.cell s.focus.ctx := by
    rw [State.ctx, State.here, ht]
    exact ⟨rfl, rfl⟩
  obtain ⟨htHere, htCtx⟩ := hhere _ ((u.focus_emitChunk s.focus.cell s.focus.ctx p w pay).trans h.focus)
  rw [htHere, htCtx, hport, h.port_cell p, hfull]
  refine ⟨rfl, h.registers.trans ?_, by rw [h.eq]⟩
  rw [(hhere u h.focus).2]
  exact hregs

/-- A discarded chunk leaves memory and messages alone (R434). -/
theorem discards (hold : ((s.here.port p).nextP - (s.here.port p).ackP).toInt < 0) :
    (∀ j, (u.emitChunk s.focus.cell s.focus.ctx p w pay).byte j = s.byte j) ∧
    (u.emitChunk s.focus.cell s.focus.ctx p w pay).agenda = s.agenda := by
  rw [← h.port_cell p] at hold
  obtain ⟨hmem, hagenda⟩ := u.emitChunk_discards s.focus.ctx w pay hold
  exact ⟨fun j => (State.byte_of_mem hmem j).trans (h.byte j), by rw [hagenda, h.eq]⟩

/-- A chunk's payload and header stand in its retain slot, and no other byte is written (R87). -/
theorem retains (hwf : Memory.wf s.mem = true) (hnew : 0 ≤ ((s.here.port p).nextP - (s.here.port p).ackP).toInt)
    (hslots : (s.here.port p).slots ≠ 0) :
    let q := s.here.port p
    let slot := flat s.focus.cell 0 (q.base + q.nextP.toNat % q.slots * strideOf q.pay)
    let t := u.emitChunk s.focus.cell s.focus.ctx p w pay
    (∀ i b, pay[i]? = some b → t.byte (slot + 32 + i) = b) ∧
    ∀ j, ¬(slot ≤ j ∧ j < slot + 32 + pay.length) → t.byte j = s.byte j := by
  intro q slot t
  have huwf : Memory.wf u.mem = true := by rw [h.eq]; exact hwf
  have hmax : max q.slots 1 = q.slots := Nat.max_eq_left (Nat.one_le_iff_ne_zero.mpr hslots)
  have hslot : flat s.focus.cell 0 ((s.here.port p).slotOff (s.here.port p).nextP) = slot := by
    show flat _ 0 (q.base + q.nextP.toNat % max q.slots 1 * _) = _
    rw [hmax]
  have hbyte (j : Nat) : t.byte j = if slot ≤ j then
      ((headerBytes (u.formChunk s.focus.cell q w pay) ++ pay)[j - slot]?).getD (s.byte j) else s.byte j := by
    have hsent := State.byte_emitChunk (s := u) (c := s.focus.cell) (p := p) s.focus.ctx w pay huwf
      (by rw [h.port_cell p]; exact not_lt.mpr hnew) j
    simp only [h.port_cell p, h.byte, hslot] at hsent
    exact hsent
  refine ⟨fun i b hi => ?_, fun j hj => ?_⟩
  · rw [hbyte, if_pos (by omega), List.getElem?_append_right (by rw [headerBytes_length]; omega), headerBytes_length]
    have : slot + 32 + i - slot - 32 = i := by omega
    rw [this, hi]
    rfl
  · rw [hbyte]
    split
    · rw [List.getElem?_eq_none]
      · rfl
      · rw [List.length_append, headerBytes_length]; omega
    · rfl

/-- The chunk reaches the cell input of a consumer on the same die (R86). -/
theorem arrives (hnew : 0 ≤ ((s.here.port p).nextP - (s.here.port p).ackP).toInt)
    (hpkg : namePkg (s.here.port p).dest = s.pkg.number) (hdie : nameCell (s.here.port p).dest / 256 = s.focus.cell / 256)
    (hshadow : (s.die (s.focus.cell / 256)).shadow = []) :
    ⟨.chunkArrival, { Args.empty with
      c := nameCell (s.here.port p).dest
      ck := u.formChunk s.focus.cell (s.here.port p) w pay }⟩ ∈ (u.emitChunk s.focus.cell s.focus.ctx p w pay).agenda := by
  have huPkg : u.pkg = s.pkg := by rw [h.eq]
  have huDie : u.die (dieOf s.focus.cell) = s.die (s.focus.cell / 256) := by rw [h.eq]; rfl
  have hsent := u.emitChunk_arrives (c := s.focus.cell) (p := p) s.focus.ctx w pay
  rw [h.port_cell p, huPkg, huDie] at hsent
  exact hsent (not_lt.mpr hnew) hpkg hdie hshadow

end State.Closed

/-- A `SEMIT` whose payload lies in scratch and is clean: its chunk counted, and below `ACK_P` no more, else retained and
sent (R87, R238, R434). -/
theorem State.Closed.semit_emits {s u : State} (h : s.Closed u) (p : Nat) (w : W64) {off : Nat} (hslots : (s.here.port p).slots ≠ 0)
    (hwf : Memory.wf s.mem = true) :
    let q := s.here.port p
    let len := w.toNat % 2 ^ 13
    let slot := flat s.focus.cell 0 (q.base + q.nextP.toNat % q.slots * strideOf q.pay)
    let t := u.emitChunk s.focus.cell s.focus.ctx p w (s.readBytes (flat s.focus.cell 0 off) len)
    let emits : Prop := (t.here.port p).nextP = q.nextP + 1 ∧ SameRegisters s.ctx t.ctx
    ((q.nextP - q.ackP).toInt < 0 → emits ∧ (SameRegisters s.ctx t.ctx ∧ t.full = s.full ∧ ∀ j, t.byte j = s.byte j) ∧
      t.agenda = s.agenda) ∧
    (0 ≤ (q.nextP - q.ackP).toInt → emits ∧
      (∀ i, i < len → t.byte (slot + 32 + i) = s.byte (flat s.focus.cell 0 off + i)) ∧
      (∀ j, ¬(slot ≤ j ∧ j < slot + 32 + len) → t.byte j = s.byte j) ∧
      (namePkg q.dest = s.pkg.number → nameCell q.dest / 256 = s.focus.cell / 256 →
        (s.die (s.focus.cell / 256)).shadow = [] → ∃ ck,
        ⟨.chunkArrival, { Args.empty with c := nameCell q.dest, ck := ck }⟩ ∈ t.agenda ∧
        ck.stream = q.stream ∧ ck.tag = q.tag ∧ ck.seq = q.nextP ∧ ck.mb = BitVec.ofNat 16 (w.toNat / 2 ^ 16) ∧ ck.fmt = q.fmt ∧
        ck.endMb = w.getLsbD 13 ∧ ck.last = w.getLsbD 14 ∧ ck.replay = false ∧ ck.census = false ∧
        ck.attempt = 0 ∧ ck.payload = (List.range len).map fun i => s.byte (flat s.focus.cell 0 off + i))) := by
  intro q len slot t emits
  have hlen : (s.readBytes (flat s.focus.cell 0 off) len).length = len := by simp [State.readBytes]
  have hmb : BitVec.ofNat 16 (bitsAt w 16 16) = BitVec.ofNat 16 (w.toNat / 2 ^ 16) := by
    apply BitVec.eq_of_toNat_eq; simp [bitsAt]
  obtain ⟨hport, hregs, hfull⟩ := h.emits p w (s.readBytes (flat s.focus.cell 0 off) len)
  refine ⟨fun hold => ?_, fun hnew => ⟨⟨hport, hregs⟩, fun i hi => ?_, fun j hj => ?_, fun hpkg hdie hshadow => ?_⟩⟩
  · obtain ⟨hbyte, hagenda⟩ := h.discards p w (s.readBytes (flat s.focus.cell 0 off) len) hold
    exact ⟨⟨hport, hregs⟩, ⟨hregs, hfull, hbyte⟩, hagenda⟩
  · exact (h.retains p w _ hwf hnew hslots).1 i _ (by simp [State.readBytes, hi])
  · exact (h.retains p w _ hwf hnew hslots).2 j (by rwa [hlen])
  · exact ⟨_, h.arrives p w _ hnew hpkg hdie hshadow, rfl, rfl, rfl, hmb, rfl, rfl, rfl, rfl, rfl, rfl, rfl⟩

end Sys2Proof.Machine
end

section
/-! THEOREM. The two ends of a stream, settled (O30). -/

namespace Sys2Proof.Machine
open Sys2Proof

/-- Settles O30: the operand checks by `semitBad_iff` and `sfreeBad_iff`, an emission by `State.Closed.semit_emits`, a freed
slot by `completes_sfree`, and `SSTAT` by what its two snapshots are. -/
theorem streamInstructions : Obligations.StreamInstructions := by
  unfold Obligations.StreamInstructions
  intro s p n d a b c off w len port mb stride slot cpm inMb bad size still quiet errs emits tag ring known out ahead
  have hbad : semitBad s.here port w = true ↔ bad := semitBad_iff s.here port w
  have hmb : BitVec.ofNat 16 (bitsAt w 16 16) = mb := by apply BitVec.eq_of_toNat_eq; simp [bitsAt, mb]
  have hlen : bitsAt w 0 13 = len := by simp [bitsAt, len]
  have hsize : spaceSize c 0 = size := by simp only [spaceSize, isC, dieOf, size, beq_iff_eq]
  refine ⟨fun h => ⟨_, exec_semit_unconfigured p a b h, rfl⟩, fun h hb => ⟨_, exec_semit_bad p a b h (hbad.mpr hb), rfl⟩, ?held,
    ?issues, ?free, ?notBound, fun h => ⟨_, exec_sstat_noTag d n h, rfl⟩, ?snapshotTag,
    fun h => ⟨_, exec_sstat_noPort d n h, rfl⟩, ?snapshotPort, ?snapshotHalyard⟩
  case held =>
    intro h hb hheld
    obtain ⟨hst, hhold, hpc, hregs⟩ := s.block_holds (.emit p.toNat mb)
    have hexec := exec_semit_held p a b h (mt hbad.mp hb) (by rw [hmb]; exact hheld)
    rw [hmb] at hexec
    exact ⟨_, hexec, hst, hhold, hpc, hregs, rfl, fun _ => rfl⟩
  case issues =>
    intro h hb hheld hquiet
    have hexec := exec_semit_issues p a b h (mt hbad.mp hb) (by rw [hmb]; exact Bool.eq_false_iff.mp hheld) hquiet.1 hquiet.2
    rw [hlen] at hexec
    have hclosed := s.semitFlush_closed off len
    refine ⟨fun hout => ?_, fun hin hal => ?_, fun hin hal hpoison hport hwf => ?_⟩
    · rw [hclosed.semitPayload_addr (by rw [hsize, hlen]; exact hout)] at hexec
      exact ⟨_, hexec, hclosed.violates (by decide) _⟩
    · rw [hclosed.semitPayload_align (by rw [hsize, hlen]; exact hin) hal] at hexec
      exact ⟨_, hexec, hclosed.violates (by decide) _⟩
    · rw [hclosed.semitPayload_emits (by rw [hsize, hlen]; exact hin) hal (by rw [hlen]; exact hpoison), hlen] at hexec
      have hemits := hclosed.semit_emits p.toNat w (off := off) (by rw [hport]; exact h) hwf
      rw [hport] at hemits
      exact ⟨fun hold => ⟨_, hexec, hemits.1 hold⟩, fun hnew => ⟨_, hexec, hemits.2 hnew⟩⟩
  case free =>
    intro hlow hbound hpend hreads hfull hal
    have hgood : ¬sfreeBad s.ctx p.toNat (s.rs a) = true := by
      rw [sfreeBad_iff]
      rintro (hhigh | hall)
      · omega
      · obtain ⟨e, he, ht, hs, hf⟩ := hbound
        exact absurd (hall e he ht hs) (by simp [hf])
    exact completes_sfree hgood hpend (by simp only [bitsAt]; omega) hreads hfull hal
  case notBound => exact fun h => ⟨_, exec_sfree_bad ((sfreeBad_iff ..).mpr h), rfl⟩
  case snapshotTag =>
    intro h
    rw [← sstatTag_eq]
    exact completes_sstat_tag d n h
  case snapshotPort =>
    intro h hhal
    have hcompletes := completes_sstat_port d n h
    rwa [sstatPort_plain s.seen hhal] at hcompletes
  case snapshotHalyard =>
    intro h hhal
    have hcompletes := completes_sstat_port d n h
    rwa [sstatPort_halyard s.seen hhal] at hcompletes

end Sys2Proof.Machine
end

section
/-! The encoder and the decoder (R109-R117). A word is known by what its fields hold: `HoldsAt w k x` says so of one
field, a joined word holds its parts, and a mask test fixes every field that the mask covers. From these, each arm of
a decoder gives back the word (`decodeSlot_spells`), and each encoded word comes to its own arm (`decode_encode`). -/

namespace Sys2Proof

/-- The bits of `w` from place `k` on hold `x`. -/
def HoldsAt {N n : Nat} (w : BitVec N) (k : Nat) (x : BitVec n) : Prop := w.extractLsb' k n = x

@[simp] theorem HoldsAt.extract {N : Nat} (w : BitVec N) (k n : Nat) : HoldsAt w k (w.extractLsb' k n) := rfl

theorem holdsAt_zero_iff {N : Nat} (w x : BitVec N) : HoldsAt w 0 x ↔ w = x := by
  rw [HoldsAt, BitVec.extractLsb'_eq_self]

/-- Two fields joined stand in a word when each stands in its place. -/
theorem holdsAt_append {N n m : Nat} (w : BitVec N) (k : Nat) (x : BitVec n) (y : BitVec m) :
    HoldsAt w k (@HAppend.hAppend (BitVec n) (BitVec m) (no_index (BitVec (n + m))) _ x y) ↔
      HoldsAt w (k + m) x ∧ HoldsAt w k y := by
  have hw : w.extractLsb' (k + m) n ++ w.extractLsb' k m = w.extractLsb' k (n + m) :=
    BitVec.extractLsb'_append_extractLsb'_eq_extractLsb' rfl
  constructor
  · intro h
    have hx := congrArg (BitVec.extractLsb' m n) (hw.trans h)
    have hy := congrArg (BitVec.extractLsb' 0 m) (hw.trans h)
    rw [BitVec.extractLsb'_append_eq_left, BitVec.extractLsb'_append_eq_left] at hx
    rw [BitVec.extractLsb'_append_eq_right, BitVec.extractLsb'_append_eq_right] at hy
    exact ⟨hx, hy⟩
  · rintro ⟨rfl, rfl⟩
    exact hw.symm

theorem HoldsAt.high {N n m k : Nat} {w : BitVec N} {x : BitVec (n + m)} (h : HoldsAt w k x) :
    HoldsAt w (k + m) (x.extractLsb' m n) := by
  rw [← BitVec.extractLsb'_append_extractLsb' (x := x)] at h
  exact ((holdsAt_append ..).1 h).1

theorem HoldsAt.toNat_extract {n k l : Nat} {w : BitVec n} {x : BitVec l} (h : HoldsAt w k x) :
    (w.extractLsb' k l).toNat = x.toNat := by
  rw [h]

theorem HoldsAt.of_toNat {n k l v : Nat} {w : BitVec n} (h : (w.extractLsb' k l).toNat = v) :
    HoldsAt w k (BitVec.ofNat l v) := by
  rw [HoldsAt, ← h, BitVec.ofNat_toNat, BitVec.setWidth_eq]

/-- A mask test fixes the fields that the mask covers. -/
theorem HoldsAt.of_mask {n : Nat} {w mask val : BitVec n} (h : w &&& mask = val) {k l : Nat} {x : BitVec l}
    (hm : mask.extractLsb' k l = .allOnes l) (hx : val.extractLsb' k l = x) : HoldsAt w k x := by
  rw [HoldsAt, ← hx, ← h, BitVec.extractLsb'_and, hm, BitVec.and_allOnes]

/-- A mask test of two joined fields is a mask test of each. -/
theorem append_and_eq_iff {n m : Nat} (x : BitVec n) (y : BitVec m) (mask val : BitVec (n + m)) :
    @HAnd.hAnd (no_index _) (no_index _) (no_index _) _
        (@HAppend.hAppend (BitVec n) (BitVec m) (no_index (BitVec (n + m))) _ x y) mask = val ↔
      x &&& mask.extractLsb' m n = val.extractLsb' m n ∧ y &&& mask.extractLsb' 0 m = val.extractLsb' 0 m := by
  conv_lhs => rw [← BitVec.extractLsb'_append_extractLsb' (x := val)]
  rw [← holdsAt_zero_iff, holdsAt_append, HoldsAt, HoldsAt, BitVec.extractLsb'_and, BitVec.extractLsb'_and,
    Nat.zero_add, BitVec.extractLsb'_append_eq_left, BitVec.extractLsb'_append_eq_right]

/-! ## From the word to the instruction and back -/

theorem finish_eq_ok {fixed : Bool} {i j : Instr} (h : finish fixed i = .ok j) :
    fixed = true ∧ i.WellFormed ∧ i = j := by
  unfold finish at h
  split at h
  · split at h
    · cases h
      exact ⟨‹_›, ‹_›, rfl⟩
    · cases h
  · cases h

/-- The instruction is well formed, and the word is its encoding under the word's own guard. -/
def Spells (w : W32) (i : Instr) : Prop := i.WellFormed ∧ encode (w.extractLsb' 27 5) i = some w

/-- An arm of a decoder: under its mask test the word holds what the encoder writes. -/
theorem spells_of_finish {w mask val : W32} {i j : Instr} (h : finish (w &&& mask == val) i = .ok j)
    (hi : w &&& mask = val → ∃ v : W32, encode (w.extractLsb' 27 5) i = some v ∧ HoldsAt w 0 v) : Spells w j := by
  obtain ⟨hmask, hwf, rfl⟩ := finish_eq_ok h
  obtain ⟨v, hv, hw⟩ := hi (eq_of_beq hmask)
  exact ⟨hwf, by rw [hv, (holdsAt_zero_iff w v).1 hw]⟩

theorem decodeScalar_spells {w : W32} {i : Instr} (h : decodeScalar w = .ok i) : Spells w i := by
  unfold decodeScalar at h
  split at h
  rotate_right
  · cases h
  case h_75 hop => -- opcode 0x61, the engine commands by their operation number
    split at h
    rotate_right
    · cases h
    all_goals
      next hnum =>
      refine spells_of_finish h fun hmask => ⟨_, rfl, ?_⟩
      have hfield := (holdsAt_append w 14 _ 0#2).2
        ⟨HoldsAt.of_toNat hnum, HoldsAt.of_mask hmask (by decide) (by decide)⟩
      simp only [BitVec.reduceAppend] at hfield
      simp [holdsAt_append, HoldsAt.of_mask hmask, HoldsAt.of_toNat hop, hfield]
  all_goals
    next hop =>
    refine spells_of_finish h fun hmask => ⟨_, rfl, ?_⟩
    simp [holdsAt_append, HoldsAt.of_mask hmask, HoldsAt.of_toNat hop]

theorem decodeMem_spells {w : W32} {i : Instr} (h : decodeMem w = .ok i) : Spells w i := by
  unfold decodeMem at h
  split at h
  rotate_right
  · cases h
  case h_5 hop => -- opcode 0x04, VLD and its sequenced form
    split at h
    · refine spells_of_finish h fun hmask => ⟨_, rfl, ?_⟩
      simp [holdsAt_append, HoldsAt.of_mask hmask, HoldsAt.of_toNat hop]
    · refine spells_of_finish h fun hmask => ⟨_, rfl, ?_⟩
      simp [holdsAt_append, HoldsAt.of_mask hmask, HoldsAt.of_toNat hop]
  all_goals
    next hop =>
    refine spells_of_finish h fun hmask => ⟨_, rfl, ?_⟩
    simp [holdsAt_append, HoldsAt.of_mask hmask, HoldsAt.of_toNat hop]

theorem decodeVec_spells {w : W32} {i : Instr} (h : decodeVec w = .ok i) : Spells w i := by
  unfold decodeVec at h
  split at h
  rotate_right
  · cases h
  all_goals
    next hop =>
    refine spells_of_finish h fun hmask => ⟨_, rfl, ?_⟩
    simp [holdsAt_append, HoldsAt.of_mask hmask, HoldsAt.of_toNat hop]

theorem decodeFx_spells {w : W32} {i : Instr} (h : decodeFx w = .ok i) : Spells w i := by
  unfold decodeFx at h
  split at h
  rotate_right
  · cases h
  all_goals
    next hop =>
    refine spells_of_finish h fun hmask => ⟨_, rfl, ?_⟩
    simp [holdsAt_append, HoldsAt.of_mask hmask, HoldsAt.of_toNat hop]

theorem decodeMat_spells {w : W32} {i : Instr} (h : decodeMat w = .ok i) : Spells w i := by
  unfold decodeMat at h
  split at h
  rotate_right
  · cases h
  all_goals
    next hop =>
    refine spells_of_finish h fun hmask => ⟨_, rfl, ?_⟩
    simp [holdsAt_append, HoldsAt.of_mask hmask, HoldsAt.of_toNat hop]

/-- Every word that a slot accepts is the encoding of the instruction it stands for: one case for each class of slots
(R106, R112-R116). -/
theorem decodeSlot_spells {n : Nat} {w : W32} {i : Instr} (h : decodeSlot n w = .ok i) : Spells w i := by
  unfold decodeSlot at h
  split at h
  · split at h
    · next j hj =>
      split at h
      · cases h
        exact decodeScalar_spells hj
      · cases h
    · cases h
  · split at h
    · exact decodeMem_spells h
    · split at h
      · exact decodeFx_spells h
      · split at h
        · exact decodeMat_spells h
        · exact decodeVec_spells h

/-! ## From the instruction to the word and back -/

/-- The classes of slots, each with its own map of opcodes (R112-R116). -/
inductive SlotClass where
  | scalar | mem | vec | fx | mat

/-- The decoder of a class. -/
def SlotClass.decode : SlotClass → W32 → Except DecodeErr Instr
  | .scalar => decodeScalar
  | .mem => decodeMem
  | .vec => decodeVec
  | .fx => decodeFx
  | .mat => decodeMat

/-- The class whose map lists the instruction. -/
def Instr.slotClass : Instr → SlotClass
  | .snop | .ld .. | .ldz .. | .st .. | .vld .. | .vldSequenced .. | .vst .. | .vldc .. | .vstc ..
  | .vldq .. | .vstq .. | .lds .. | .ldse .. | .stf .. | .sete .. | .amoadd .. | .amomin .. | .amomax ..
  | .amoand .. | .amoor .. | .amoxor .. | .amoswap .. | .amocas .. | .ldF .. | .stF .. | .vldF ..
  | .vstF .. | .amoaddF .. | .amominF .. | .amomaxF .. | .amoandF .. | .amoorF .. | .amoxorF ..
  | .amoswapF .. | .amocasF .. | .fence .. | .semit .. | .sfree .. | .sstat .. | .rot .. | .ldred ..
  | .stmc .. | .arrive .. | .arrivex .. | .bwait .. | .signal .. | .swait .. | .binit .. | .ldFs ..
  | .stFs .. | .vldFs .. | .vstFs .. | .amoaddFs .. | .amominFs .. | .amomaxFs .. | .amoandFs ..
  | .amoorFs .. | .amoxorFs .. | .amoswapFs .. | .amocasFs .. => .mem
  | .vnop | .fadd .. | .fsub .. | .fmul .. | .fma .. | .fms .. | .fnma .. | .fnms .. | .fmin .. | .fmax ..
  | .fabs .. | .fneg .. | .frnd .. | .fclass .. | .fcmpeq .. | .fcmpne .. | .fcmplt .. | .fcmple ..
  | .fcmpun .. | .iadd .. | .isub .. | .imul .. | .imulh .. | .imad .. | .imin .. | .imax .. | .iminu ..
  | .imaxu .. | .iand .. | .ior .. | .ixor .. | .ishl .. | .ishrl .. | .ishra .. | .iabs .. | .ipopc ..
  | .iclz .. | .icmpeq .. | .icmplt .. | .icmpltu .. | .iadds .. | .isubs .. | .clmul .. | .cvt ..
  | .packb .. | .unpkb .. | .cvtax .. | .cvtxa .. | .mov .. | .movi .. | .movs .. | .mvls .. | .sel ..
  | .xcl .. | .perm .. | .compress .. | .expand .. | .rsum .. | .rmax .. | .rmin .. | .scan .. | .xcopy ..
  | .xbcast .. | .lbcast .. | .qand .. | .qor .. | .qxor .. | .qandn .. | .qset .. | .qpop .. | .vcfgw .. => .vec
  | .rcp .. | .rsq .. | .sqrt .. | .exp2 .. | .log2 .. | .tanh .. | .sigm .. | .erf .. | .sin .. | .cos ..
  | .expe .. | .gelu .. => .fx
  | .mcfg .. | .mwload .. | .mwswap | .mmul .. | .mmac .. | .mdrain .. | .mzero .. | .mtrn .. | .mscale ..
  | .mchk .. | .msave .. | .mrest .. | .mwait .. => .mat
  | _ => .scalar

/-- Slot A or B takes what the scalar map lists, and a slot of each other class what its map lists. -/
theorem SlotClass.decodeSlot_of_decode {c : SlotClass} {w : W32} {i : Instr} (h : c.decode w = .ok i) :
    ∃ n, n < 14 ∧ decodeSlot n w = .ok i := by
  cases c with
  | scalar =>
    change decodeScalar w = .ok i at h
    by_cases hA : scalarSlotOk slotA (opcodeOf w) = true
    · exact ⟨slotA, by decide, by simp [decodeSlot, h, hA]⟩
    · have hB : scalarSlotOk slotB (opcodeOf w) = true := by
        unfold scalarSlotOk at hA ⊢
        split at hA
        · simp [*]
        · split at hA <;> simp_all
      exact ⟨slotB, by decide, by simp [decodeSlot, h, hB]⟩
  | mem => exact ⟨slotS, by decide, h⟩
  | vec => exact ⟨slotV0, by decide, h⟩
  | fx => exact ⟨slotF, by decide, h⟩
  | mat => exact ⟨slotM0, by decide, h⟩

/-- An arm of a decoder accepts the word whose fixed bits and fields are those of a well-formed instruction. -/
theorem finish_word {w v mask val : W32} {i j : Instr} (hw : w = v) (hmask : v &&& mask = val) (hij : i = j)
    (hwf : j.WellFormed) : finish (w &&& mask == val) i = .ok j := by
  rw [finish, hw, hmask, hij, beq_self_eq_true, if_pos rfl, if_pos hwf]

/-- An encoding carries its guard, and the decoder of the instruction's class gives the instruction back. The opcode
that the word holds picks the arm; the other fields are the operands. -/
theorem decode_encode {g : BitVec 5} {i : Instr} {w : W32} (hwf : i.WellFormed) (h : encode g i = some w) :
    HoldsAt w 27 g ∧ i.slotClass.decode w = .ok i := by
  obtain ⟨v, hv, hw⟩ : ∃ v, encode g i = some v ∧ w = v := ⟨w, h, rfl⟩
  cases i
  all_goals cases hv
  all_goals
    have hfields := (holdsAt_zero_iff w _).2 hw
    simp only [holdsAt_append, Nat.reduceAdd, and_assoc] at hfields
    obtain ⟨hguard, hop, hfields⟩ := hfields
    refine ⟨hguard, ?_⟩
    dsimp only [Instr.slotClass, SlotClass.decode]
    delta decodeScalar decodeMem decodeVec decodeFx decodeMat
    rw [hop.toNat_extract]
    simp only [HoldsAt] at hfields
  case vld =>
    exact (if_pos hfields.1).trans (finish_word hw (by simp [append_and_eq_iff]) (by simp only [hfields]) hwf)
  case vldSequenced =>
    have hbit : w.extractLsb' 19 1 ≠ 0#1 := by rw [hfields.1]; decide
    exact (if_neg hbit).trans (finish_word hw (by simp [append_and_eq_iff]) (by simp only [hfields]) hwf)
  case copy | seqdef | grpdef | hpair | trcfg | enq =>
    rw [(HoldsAt.high (n := 4) (m := 2) hfields.1).toNat_extract]
    exact finish_word hw (by simp [append_and_eq_iff]) (by simp only [hfields]) hwf
  all_goals exact finish_word hw (by simp [append_and_eq_iff]) (by simp only [hfields]) hwf

/-- Settles O59: `decode_encode` for the one direction, `decodeSlot_spells` for the other. -/
theorem encodeDecode : Obligations.EncodeDecode := by
  refine ⟨fun g i w hwf h => ?_, fun n w i h => decodeSlot_spells h⟩
  obtain ⟨hguard, hdecode⟩ := decode_encode hwf h
  exact ⟨hguard.toNat_extract, SlotClass.decodeSlot_of_decode hdecode⟩

end Sys2Proof
end

section
/-! Direct transfers (R117, R147) and the reads of the scalar class that deliver after two cycles (R174, R175, R180). -/

namespace Sys2Proof.Machine
open Sys2Proof

/-! ## Direct transfers -/

theorem targetOk_iff (pc : Nat) (i : BitVec 20) :
    targetOk pc i = true ↔ 0 ≤ (pc : Int) + 4 * i.toInt ∧ (pc : Int) + 4 * i.toInt ≤ 0x1FFFC := by
  simp only [targetOk, Bool.and_eq_true, decide_eq_true_eq]
  rfl

/-- A taken transfer closes the windows and sets the next bundle address, in one change of the bank. -/
theorem State.transfer_transfersTo (s : State) (a : Nat) : TransfersTo s (s.transfer a) a := by
  rw [TransfersTo, State.transfer, State.jump, State.closeWindow, State.modCtx_modCtx]
  rfl

theorem exec_br_inside {s : State} {i : BitVec 20} (h : targetOk s.focus.pc i = true) :
    exec (.br i) s = .next (s.transfer (target s.focus.pc i).toNat) :=
  congrArg Host.Outcome.next (if_pos h)

theorem exec_call_inside {s : State} {i : BitVec 20} (h : targetOk s.focus.pc i = true) :
    exec (.call i) s = .next ((s.ws 62 s.link).transfer (target s.focus.pc i).toNat) :=
  congrArg Host.Outcome.next (if_pos h)

theorem exec_br_outside {s : State} {i : BitVec 20} (h : ¬targetOk s.focus.pc i = true) :
    exec (.br i) s = .next (s.stop 0x01 0) :=
  congrArg Host.Outcome.next (if_neg h)

theorem exec_call_outside {s : State} {i : BitVec 20} (h : ¬targetOk s.focus.pc i = true) :
    exec (.call i) s = .next (s.stop 0x01 0) :=
  congrArg Host.Outcome.next (if_neg h)

/-- Settles O6: a target inside the store is taken, with the link written before it; one outside stops. -/
theorem directTransfers : Obligations.DirectTransfers := by
  intro s i g
  refine ⟨fun hlow hhigh => ?_, fun hout => ?_⟩
  · have hok : targetOk s.focus.pc i = true := (targetOk_iff _ _).2 ⟨hlow, hhigh⟩
    exact ⟨⟨_, exec_br_inside hok, s.transfer_transfersTo _⟩,
      ⟨_, exec_call_inside hok, s.ws 62 s.link, s.ws_writes 62 s.link, State.transfer_transfersTo _ _⟩⟩
  · have hbad : ¬targetOk s.focus.pc i = true := fun hok => by
      obtain ⟨hlow, hhigh⟩ := (targetOk_iff _ _).1 hok
      omega
    exact ⟨⟨_, exec_br_outside hbad, rfl⟩, ⟨_, exec_call_outside hbad, rfl⟩⟩

/-! ## Reads -/

theorem completes_csrr {s : State} (d : BitVec 6) {r : BitVec 12} (h : s.csrPriv r = false) :
    Completes (.csrr d r) s fun t =>
      WritesScalarLate s t d ((s.putCell s.focus.cell s.seen).csrOf s.focus.cell s.focus.ctx r.toNat) 2 :=
  ⟨_, congrArg Host.Outcome.next (if_neg (by simp [h])), s.wsLate_writes ..⟩

theorem completes_csrr_priv {s : State} (d : BitVec 6) {r : BitVec 12} (h : s.csrPriv r = true) :
    Completes (.csrr d r) s (· = s.stop 0x03 0) :=
  ⟨_, congrArg Host.Outcome.next (if_pos h), rfl⟩

theorem State.recording_iff (s : State) (c : Nat) : s.recording c = true ↔ (s.recCtl c).toNat % 4 = 1 := by
  simp [State.recording, bitsAt]

theorem State.replaying_iff (s : State) (c : Nat) : s.replaying c = true ↔ (s.recCtl c).toNat % 4 = 2 := by
  simp [State.replaying, bitsAt]

/-- RDTIME where the recorder takes no part: TIMEREAD is clear, or the mode is neither recording nor replay. -/
theorem completes_rdtime {s : State} (d : BitVec 6)
    (h : ¬(s.recCtl s.focus.cell).getLsbD 2 = true ∨
      ((s.recCtl s.focus.cell).toNat % 4 ≠ 1 ∧ (s.recCtl s.focus.cell).toNat % 4 ≠ 2)) :
    Completes (.rdtime d) s fun t => WritesScalarLate s t d s.tai 2 := by
  have hexec : exec (.rdtime d) s = .next (s.wsLate d s.tai 2) := by
    refine congrArg Host.Outcome.next ?_
    by_cases hlogs : (s.recCtl s.focus.cell).getLsbD 2 = true
    · obtain ⟨hrec, hrep⟩ := h.resolve_left (not_not.2 hlogs)
      simp only [hlogs, mt (s.recording_iff _).1 hrec, mt (s.replaying_iff _).1 hrep, Bool.not_true, Bool.false_eq_true,
        if_false]
    · simp only [hlogs, Bool.not_false, if_true]
  exact ⟨_, hexec, s.wsLate_writes ..⟩

/-- RDTIME in recording: the time read is logged. -/
theorem completes_rdtime_recording {s : State} (d : BitVec 6) (hlogs : (s.recCtl s.focus.cell).getLsbD 2 = true)
    (hrec : s.recording s.focus.cell = true) : Completes (.rdtime d) s fun t =>
      WritesScalarLate (s.recLog s.focus.cell 3 s.focus.ctx false s.focus.pc s.focus.slot s.tai 0) t d s.tai 2 := by
  have hrep : ¬s.replaying s.focus.cell = true := by
    rw [State.replaying_iff, (s.recording_iff _).1 hrec]
    decide
  refine ⟨_, congrArg Host.Outcome.next ?_, State.wsLate_writes ..⟩
  simp only [hlogs, hrep, hrec, Bool.not_true, Bool.false_eq_true, if_false, if_true]

/-- RDTIME in replay takes the logged value where the next record is its own. -/
theorem completes_rdtime_replayed {s : State} (d : BitVec 6) {l : List Byte}
    (hlogs : (s.recCtl s.focus.cell).getLsbD 2 = true) (hrep : s.replaying s.focus.cell = true)
    (hl : s.replayRecord 3 = some l) : Completes (.rdtime d) s fun t =>
      WritesScalarLate (s.recAdvance s.focus.cell) t d (BitVec.ofNat 64 (field l 16 8)) 2 := by
  refine ⟨_, congrArg Host.Outcome.next ?_, State.wsLate_writes ..⟩
  simp only [hlogs, hrep, hl, Bool.not_true, Bool.false_eq_true, if_false, if_true]

/-- RDTIME in replay stops with REPLAY_DIVERGE where the next record is not its own. -/
theorem completes_rdtime_diverges {s : State} (d : BitVec 6) (hlogs : (s.recCtl s.focus.cell).getLsbD 2 = true)
    (hrep : s.replaying s.focus.cell = true) (hl : s.replayRecord 3 = none) :
    Completes (.rdtime d) s (· = s.stop 0x10 0) := by
  refine ⟨_, congrArg Host.Outcome.next ?_, rfl⟩
  simp only [hlogs, hrep, hl, Bool.not_true, Bool.false_eq_true, if_false, if_true]

/-- Settles O15: each read is a late write of its value, by the rule of `wsLate`. -/
theorem csrReads : Obligations.CsrReads := by
  intro s d r cl q c mode logs now
  refine ⟨fun h => completes_csrr d ?_, fun hmode hr => completes_csrr_priv d ?_, completes_rdtime d,
    fun hlogs hmode => completes_rdtime_recording d hlogs ((s.recording_iff c).2 hmode), fun hlogs hmode => ?_,
    ⟨_, rfl, s.wsLate_writes ..⟩, ⟨_, rfl, s.wsLate_writes ..⟩⟩
  · rcases h with h | h
    · simp [State.csrPriv, h]
    · simp [State.csrPriv, h]
  · simp [State.csrPriv, hmode, hr]
  · have hrep := (s.replaying_iff c).2 hmode
    split
    · next l hl => exact completes_rdtime_replayed d hlogs hrep hl
    · next hl => exact completes_rdtime_diverges d hlogs hrep hl

end Sys2Proof.Machine
end

section
/-! Far forms and status twins (R228, R234-R236, R398): what sending a remote operation leaves, once for every form, and
the bytes that a vector store carries. -/

namespace Sys2Proof.Machine
open Sys2Proof

/-! ## Sending a remote operation -/

/-- The request goes into a message of the package, or into a packet to another one; nothing else is posted. -/
theorem State.sendReq_posts (s : State) (r : RemoteReq) :
    ∃ e, (s.sendReq r) = { s with agenda := s.agenda ++ [e] } ∧
      if aPkg r.addr = s.pkg.number then e.instr = .remoteRequest ∧ e.args.c = aCell r.addr ∧ e.args.req = r
      else e.instr = .packetInject ∧ e.args.pk.dst = aPkg r.addr ∧ e.args.pk.body = .request r := by
  unfold State.sendReq
  split
  · exact ⟨_, rfl, rfl, rfl, rfl⟩
  · exact ⟨_, rfl, rfl, rfl, rfl⟩

/-- The issuing cell has numbered an operation and its context awaits the answer. -/
def State.awaiting (s : State) (w : Await) : State :=
  (s.modHere fun k => { k with nextId := s.here.nextId + 1 }).modCtx fun x => { x with awaits := x.awaits ++ [w] }

theorem State.ctx_awaiting (s : State) (w : Await) :
    (s.awaiting w).ctx = { s.ctx with awaits := s.ctx.awaits ++ [w] } := by
  rw [State.awaiting, State.ctx_modCtx, State.ctx_modHere rfl]

theorem State.nextId_awaiting (s : State) (w : Await) : (s.awaiting w).here.nextId = s.here.nextId + 1 := by
  simp [State.awaiting, State.modCtx, State.modCtxOf, State.here, State.modHere, Cell.putCtx]

/-- The mode of the issuing context is that before, whether the slots read the bank of before the bundle or its own. -/
theorem State.supervisor_was_awaiting (s : State) (w : Await) :
    (s.awaiting w).was.supervisor = s.was.supervisor := by
  have hsnap : (s.awaiting w).snap = s.snap := rfl
  have hown := congrArg Ctx.supervisor (s.ctx_awaiting w)
  unfold State.was State.seen
  rw [hsnap]
  cases s.snap with
  | some k => rfl
  | none => exact hown

/-- One remote operation is sent as `Sends` says, whatever it is. -/
theorem State.sendRemote_sends (s : State) (op : Nat) (kind : AwaitKind) (reg : Nat) (sz : BitVec 2) (twin : Bool)
    (addr : W64) (data : List Byte) (oc : Nat) (info : W64) :
    Sends s (s.sendRemote op kind reg sz twin addr data oc info) op kind reg sz twin addr data oc := by
  obtain ⟨w, hw⟩ : ∃ w : Await,
      w = ⟨s.here.nextId, kind, reg, 0xFF, 0, sz, true, twin, addr, oc, info, none, none, false, s.now⟩ := ⟨_, rfl⟩
  obtain ⟨e, ht, he⟩ := ((s.awaiting w).after 64000 .farAccessTimeout
    { Args.empty with c := s.focus.cell, x := s.focus.ctx, id := s.here.nextId }).sendReq_posts
      (s.requestOf op oc sz addr data)
  have hsend : s.sendRemote op kind reg sz twin addr data oc info = ((s.awaiting w).after 64000 .farAccessTimeout
      { Args.empty with c := s.focus.cell, x := s.focus.ctx, id := s.here.nextId }).sendReq
        (s.requestOf op oc sz addr data) := by
    rw [State.requestOf, ← s.supervisor_was_awaiting w, hw]
    rfl
  have hctx := s.ctx_awaiting w
  rw [hsend, ht]
  refine ⟨⟨e, List.mem_append_right _ (List.mem_singleton.2 rfl), he⟩, ⟨w, congrArg Ctx.awaits hctx, ?_⟩,
    ⟨_, List.mem_append_right _ (List.mem_singleton.2 rfl), rfl, rfl⟩, s.nextId_awaiting w, ?_, fun _ => rfl⟩
  · rw [hw]
    exact ⟨rfl, rfl, rfl, rfl, rfl, rfl, rfl⟩
  · change SameRegisters s.ctx (s.awaiting w).ctx
    rw [hctx]
    exact .refl _

/-! ## The bytes of a vector store -/

/-- A number's bytes, lowest first, are those of a vector that holds it. -/
theorem toBytes_toNat_eq {n : Nat} (v : BitVec n) (m : Nat) :
    toBytes m v.toNat = (List.range m).map fun b => v.extractLsb' (8 * b) 8 := by
  refine List.ext_getElem (by simp) fun b hb _ => ?_
  have hbm : b < m := by simpa using hb
  have hget := getD_toBytes m b v.toNat hbm
  rw [List.getD_eq_getElem _ _ hb] at hget
  rw [hget, List.getElem_map, List.getElem_range]
  apply BitVec.eq_of_toNat_eq
  rw [BitVec.extractLsb'_toNat, BitVec.toNat_ofNat, Nat.shiftRight_eq_div_pow, pow_mul]
  rfl

/-- Blocks of equal length, one after the other. -/
theorem foldl_append_blocks {α : Type} (m : Nat) (g : Nat → Nat → α) (hm : 0 < m) (n : Nat) :
    (List.range n).foldl (fun l c => l ++ (List.range m).map (g c)) [] =
      (List.range (m * n)).map fun b => g (b / m) (b % m) := by
  induction n with
  | zero => rfl
  | succ n ih =>
    rw [List.range_succ, List.foldl_append, ih, Nat.mul_succ, List.range_add, List.map_append, List.map_map]
    refine congrArg _ (List.map_congr_left fun b hb => ?_)
    have hb : b < m := List.mem_range.1 hb
    simp [Nat.mul_add_div hm, Nat.div_eq_of_lt hb, Nat.mod_eq_of_lt hb]

theorem State.vstoreBytes_all (s : State) (v : Nat) : s.vstoreBytes v (List.range 8) =
    (List.range 512).map fun b => (s.was.vr (b / 64) v).val.extractLsb' (8 * (b % 64)) 8 := by
  simp only [State.vstoreBytes, toBytes_toNat_eq]
  exact foldl_append_blocks 64 (fun c b => (s.was.vr c v).val.extractLsb' (8 * b) 8) (by decide) 8

/-! ## The forms -/

section
variable {s : State}

theorem State.farScalar_sends {op : Nat} {kind : AwaitKind} {twin : Bool} {d a : BitVec 6} {oc : BitVec 3} {z : BitVec 2}
    {f : BitVec 3} {data : List Byte}
    (h : s.farError (s.eaScalar a z f) (szBytes z) (szBytes z) (kind != .load) (kind == .amo) = none) :
    Sends s (s.farScalar op kind twin d a oc z f data) op kind d.toNat z twin (s.eaScalar a z f) data oc.toNat := by
  unfold State.farScalar
  simp only [h]
  exact s.sendRemote_sends ..

theorem State.farVload_sends {op : Nat} {twin : Bool} {v : BitVec 5} {a : BitVec 6} {oc : BitVec 3} {x : BitVec 5}
    (h : s.farError (s.eaVec a x) 512 64 false false = none) :
    Sends s (s.farVload op twin v a oc x) op .vload v.toNat 3 twin (s.eaVec a x) (zeros 8) oc.toNat := by
  unfold State.farVload
  simp only [h]
  exact s.sendRemote_sends ..

theorem State.farVstore_sends {op : Nat} {twin : Bool} {v : BitVec 5} {a : BitVec 6} {oc : BitVec 3} {x : BitVec 5}
    (h : s.farError (s.eaVec a x) 512 64 true false = none) :
    Sends s (s.farVstore op twin v a oc x) op .vstore 0 3 twin (s.eaVec a x)
      ((List.range 512).map fun b => (s.was.vr (b / 64) v.toNat).val.extractLsb' (8 * (b % 64)) 8) oc.toNat := by
  rw [← s.vstoreBytes_all]
  unfold State.farVstore
  simp only [h]
  exact s.sendRemote_sends ..

end

/-- The size field of an atomic names its bytes. -/
theorem szBytes_amo (y : BitVec 1) : szBytes (2 + y.setWidth 2) = 4 * 2 ^ y.toNat := by
  obtain rfl | rfl : y = 0 ∨ y = 1 := by revert y; decide
  · rfl
  · rfl

theorem evenReg_eq (e : BitVec 5) : evenReg e = BitVec.ofNat 6 (2 * e.toNat) := by
  revert e; decide

theorem evenReg_add_one (e : BitVec 5) : evenReg e + 1 = BitVec.ofNat 6 (2 * e.toNat + 1) := by
  revert e; decide

section
variable {s : State} {a : BitVec 6} {oc f : BitVec 3} {y : BitVec 1} (twin : Bool) (d : BitVec 6)
  (hreplay : s.replaying s.focus.cell = false)
  (h : s.farError (s.eaScalar a (2 + y.setWidth 2) f) (4 * 2 ^ y.toNat) (4 * 2 ^ y.toNat) true true = none)
include hreplay h

/-- Outside a replay a far atomic is a far access with its own opcode and its operand registers. -/
theorem State.farAmo_sends (op : AmoOp) :
    Sends s (s.farAmo op twin d a oc y f) (op.code + if twin then 0x30 else 0x10) .amo d.toNat (2 + y.setWidth 2) twin
      (s.eaScalar a (2 + y.setWidth 2) f)
      (toBytes 8 (s.rs d).toNat ++ if op = .cas then toBytes 8 (s.rs (d + 1)).toNat else []) oc.toNat := by
  unfold State.farAmo
  simp only [hreplay, Bool.false_eq_true, if_false]
  rw [← szBytes_amo] at h
  exact State.farScalar_sends h

theorem State.farAmo_sends_one {op : AmoOp} (hop : op ≠ .cas) :
    Sends s (s.farAmo op twin d a oc y f) (op.code + if twin then 0x30 else 0x10) .amo d.toNat (2 + y.setWidth 2) twin
      (s.eaScalar a (2 + y.setWidth 2) f) (toBytes 8 (s.rs d).toNat) oc.toNat := by
  have hsend := State.farAmo_sends (oc := oc) twin d hreplay h op
  rwa [if_neg hop, List.append_nil] at hsend

theorem State.farAmo_sends_cas (e : BitVec 5) :
    Sends s (s.farAmo .cas twin (evenReg e) a oc y f) (AmoOp.cas.code + if twin then 0x30 else 0x10) .amo
      (BitVec.ofNat 6 (2 * e.toNat)).toNat (2 + y.setWidth 2) twin (s.eaScalar a (2 + y.setWidth 2) f)
      (toBytes 8 (s.rs (BitVec.ofNat 6 (2 * e.toNat))).toNat ++ toBytes 8 (s.rs (BitVec.ofNat 6 (2 * e.toNat + 1))).toNat)
      oc.toNat := by
  have hsend := State.farAmo_sends (oc := oc) twin (evenReg e) hreplay h .cas
  rwa [if_pos rfl, congrArg BitVec.toNat (evenReg_eq e), congrArg s.rs (evenReg_eq e), evenReg_add_one] at hsend

end

/-- Settles O26: each form is `sendRemote` with its operands, whose rule is `sendRemote_sends`. -/
theorem farForms : Obligations.FarForms := by
  intro s d a e v o z y f x ea eb ev sy no reg vec even odd amo
  have hsz : (2 + y.setWidth 2 : BitVec 2) = sy := by
    revert y; decide
  have heb : s.eaScalar a (2 + y.setWidth 2) f = eb := by
    rw [State.eaScalar, szBytes_amo]
  refine ⟨fun h => ⟨⟨_, rfl, State.farScalar_sends h⟩, ⟨_, rfl, State.farScalar_sends h⟩⟩,
    fun h => ⟨⟨_, rfl, State.farScalar_sends h⟩, ⟨_, rfl, State.farScalar_sends h⟩⟩,
    fun h => ⟨⟨_, rfl, State.farVload_sends h⟩, ⟨_, rfl, State.farVload_sends h⟩⟩,
    fun h => ⟨⟨_, rfl, State.farVstore_sends h⟩, ⟨_, rfl, State.farVstore_sends h⟩⟩, fun h hreplay => ?_⟩
  rw [← heb] at h
  have hone (twin : Bool) {op : AmoOp} (hop : op ≠ .cas) := State.farAmo_sends_one (oc := o) twin d hreplay h hop
  have hcas (twin : Bool) := State.farAmo_sends_cas (oc := o) twin hreplay h e
  rw [hsz] at heb
  simp only [hsz, heb] at hone hcas
  exact ⟨⟨_, rfl, hone false (op := .add) nofun⟩, ⟨_, rfl, hone false (op := .min) nofun⟩,
    ⟨_, rfl, hone false (op := .max) nofun⟩, ⟨_, rfl, hone false (op := .and) nofun⟩,
    ⟨_, rfl, hone false (op := .or) nofun⟩, ⟨_, rfl, hone false (op := .xor) nofun⟩,
    ⟨_, rfl, hone false (op := .swap) nofun⟩, ⟨_, rfl, hcas false⟩,
    ⟨_, rfl, hone true (op := .add) nofun⟩, ⟨_, rfl, hone true (op := .min) nofun⟩,
    ⟨_, rfl, hone true (op := .max) nofun⟩, ⟨_, rfl, hone true (op := .and) nofun⟩,
    ⟨_, rfl, hone true (op := .or) nofun⟩, ⟨_, rfl, hone true (op := .xor) nofun⟩,
    ⟨_, rfl, hone true (op := .swap) nofun⟩, ⟨_, rfl, hcas true⟩⟩

end Sys2Proof.Machine
end

section
/-! Remote requests at their target (R398): a request whose turn has come is served. -/

namespace Sys2Proof.Machine
open Sys2Proof

/-- A request that waits for no other is served as it arrives. -/
theorem exec_remoteRequest_of_turn {s : State} (hbehind : s.behind s.args.req = false) (hwait : s.mustWait s.args.req = false) :
    exec .remoteRequest s = .next (s.serve s.args.req) := by
  show execRemoteRequest s = _
  simp [execRemoteRequest, hbehind, hwait]

/-- A store of 5 at 0x100 of cell 0 that sets the word's full bit, from context 0 of that cell. -/
def storeFullAt : RemoteReq := ⟨0, 0, 0, 3, 3, 0, 0x12, 3, 0x100, toBytes 8 5, true, checkCode 0x12 0x100 (toBytes 8 5)⟩

/-- A state whose table of full bits is not canonical: it lists the word at 0x100 as empty twice. The store sets the bit by
removing the word's entry, and the second one stands. -/
def emptyTwice : State :=
  { State.reset with
    full := [(0x100, false), (0x100, false)]
    args := { Args.empty with req := storeFullAt } }

theorem isFull_serve_emptyTwice : (emptyTwice.serve storeFullAt).isFull (flatOf storeFullAt.addr) = false := by
  decide +kernel

/-- Refutes O49: in `emptyTwice`, where nothing forbids the store of `storeFullAt` and memory is canonical, the word at 0x100
is still empty after it. The statement asks for a canonical memory, but not for a canonical table of full bits, which is
what `State.isFull_setFull` needs. -/
theorem not_landingsAndRemote : ¬ Obligations.LandingsAndRemote := by
  unfold Obligations.LandingsAndRemote
  intro h
  obtain ⟨-, -, -, -, htarget, -⟩ := h emptyTwice
  obtain ⟨-, -, -, hserved⟩ := htarget
  have hbehind : emptyTwice.behind storeFullAt = false := by decide +kernel
  have hwait : emptyTwice.mustWait storeFullAt = false := by decide +kernel
  obtain ⟨-, -, hchecked⟩ := hserved .storeFull (by decide +kernel) hbehind hwait (by decide +kernel)
  obtain ⟨-, -, hperformed⟩ := hchecked (by decide +kernel) (by decide +kernel)
  obtain ⟨-, -, hstoreFull, -⟩ :=
    hperformed (by decide +kernel) (by decide +kernel) (by decide +kernel) (by decide +kernel)
  obtain ⟨t, hexec, -, hfull⟩ := hstoreFull rfl
  obtain rfl := Host.Outcome.next.inj ((exec_remoteRequest_of_turn hbehind hwait).symm.trans hexec)
  exact Bool.false_ne_true (isFull_serve_emptyTwice.symm.trans hfull)

end Sys2Proof.Machine
end

section
/-! Scalar results at a width (R138): what an operation on the low bits of its registers writes, and the operations of R139
and R140 on bit vectors of any width. -/

namespace Sys2Proof.Machine
open Sys2Proof

/-! ## Widths -/

theorem widthOf_pos (m : BitVec 2) : 0 < widthOf m := by
  unfold widthOf
  split <;> decide

theorem toNat_low (m : BitVec 2) (x : W64) : (x.setWidth (widthOf m)).toNat = lowNat m x := BitVec.toNat_setWidth ..

theorem toInt_of_width_pos {w : Nat} (hw : 0 < w) (x : BitVec w) :
    x.toInt = if 2 ^ (w - 1) ≤ x.toNat then (x.toNat : Int) - 2 ^ w else x.toNat := by
  have hpow : 2 ^ w = 2 * 2 ^ (w - 1) := by rw [← pow_succ', Nat.sub_add_cancel hw]
  have hiff : 2 * x.toNat < 2 ^ w ↔ ¬2 ^ (w - 1) ≤ x.toNat := by omega
  rw [BitVec.toInt_eq_toNat_cond, Nat.cast_pow, Nat.cast_ofNat]
  simp only [hiff, ite_not]

theorem toInt_low (m : BitVec 2) (x : W64) : (x.setWidth (widthOf m)).toInt = lowInt m x := by
  rw [toInt_of_width_pos (widthOf_pos m), toNat_low]
  rfl

theorem ofInt_emod (w : Nat) (r : Int) : BitVec.ofInt w (r % 2 ^ w) = BitVec.ofInt w r := by
  apply BitVec.eq_of_toNat_eq
  simp only [BitVec.toNat_ofInt, Nat.cast_pow, Nat.cast_ofNat, Int.emod_emod]

/-- The three extensions of R138 are what `resultOf` says, where the operation gives the exact result modulo 2^w. -/
theorem atWidth_eq_resultOf {op : {w : Nat} → BitVec w → BitVec w → BitVec w} {m : BitVec 2} {x y : W64} {r : Int}
    (h : op (x.setWidth (widthOf m)) (y.setWidth (widthOf m)) = BitVec.ofInt (widthOf m) r) :
    atWidth m op x y = resultOf m r := by
  by_cases hm : m = 0
  · subst hm
    have hop : op (x.setWidth 64) (y.setWidth 64) = BitVec.ofInt 64 r := h
    rw [BitVec.setWidth_eq, BitVec.setWidth_eq] at hop
    exact hop.trans (ofInt_emod 64 r).symm
  · have hw : widthOf m = 32 := if_neg hm
    rw [hw] at h
    simp only [atWidth, resultOf, if_neg hm, h, hw]
    split
    · next h1 =>
      rw [BitVec.signExtend, BitVec.toInt_ofInt, Int.bmod_def]
      congr 1
      simp only [h1, true_and]
      split
      · next h2 => rw [if_neg (by omega)]; rfl
      · next h2 => rw [if_pos (by omega)]; rfl
    · next h1 =>
      rw [if_neg (fun h2 => h1 h2.1)]
      apply BitVec.eq_of_toNat_eq
      rw [BitVec.toNat_setWidth, BitVec.toNat_ofInt, BitVec.toNat_ofInt]
      omega

/-! ## The operations of R139 -/

/-- On numbers of any width w, `op` gives the exact result `r w x y xs ys` modulo 2^w, of the operands unsigned and signed. -/
def Computes (op : {w : Nat} → BitVec w → BitVec w → BitVec w) (r : Nat → Nat → Nat → Int → Int → Int) : Prop :=
  ∀ (w : Nat) (x y : BitVec w), 0 < w → op x y = BitVec.ofInt w (r w x.toNat y.toNat x.toInt y.toInt)

/-- A bit vector whose number is known modulo 2^w. -/
theorem eq_ofInt_of_toNat {w n : Nat} {z : BitVec w} (h : z.toNat = n % 2 ^ w) : z = BitVec.ofInt w n := by
  apply BitVec.eq_of_toNat_eq
  rw [h, BitVec.ofInt_natCast, BitVec.toNat_ofNat]

theorem computes_add : Computes (· + ·) fun _ x y _ _ => x + y := fun w x y _ => by
  simp [BitVec.ofInt_add, BitVec.ofInt_natCast]

theorem computes_sub : Computes (· - ·) fun _ x y _ _ => x - y := fun w x y _ => by
  simp [Int.sub_eq_add_neg, BitVec.ofInt_add, BitVec.ofInt_neg, BitVec.ofInt_natCast, BitVec.sub_eq_add_neg]

theorem computes_mul : Computes (· * ·) fun _ x y _ _ => x * y := fun w x y _ => by
  simp [BitVec.ofInt_mul, BitVec.ofInt_natCast]

theorem computes_mulhs : Computes opMulhs fun w _ _ xs ys => xs * ys / 2 ^ w := fun _ _ _ _ => rfl

theorem computes_mulhu : Computes opMulhu fun w x y _ _ => x * y / 2 ^ w := fun w x y _ => by
  show BitVec.ofNat w (x.toNat * y.toNat / 2 ^ w) = _
  rw [← BitVec.ofInt_natCast]
  push_cast
  rfl

theorem computes_and : Computes (· &&& ·) fun _ x y _ _ => (x &&& y : Nat) := fun _ x y _ =>
  eq_ofInt_of_toNat (by rw [← BitVec.toNat_and, Nat.mod_eq_of_lt (BitVec.isLt _)])

theorem computes_or : Computes (· ||| ·) fun _ x y _ _ => (x ||| y : Nat) := fun _ x y _ =>
  eq_ofInt_of_toNat (by rw [← BitVec.toNat_or, Nat.mod_eq_of_lt (BitVec.isLt _)])

theorem computes_xor : Computes (· ^^^ ·) fun _ x y _ _ => (x ^^^ y : Nat) := fun _ x y _ =>
  eq_ofInt_of_toNat (by rw [← BitVec.toNat_xor, Nat.mod_eq_of_lt (BitVec.isLt _)])

theorem computes_andn : Computes (fun x y => x &&& ~~~y) fun w x y _ _ => (x &&& (2 ^ w - 1 - y) : Nat) := fun _ x y _ =>
  eq_ofInt_of_toNat (by rw [← BitVec.toNat_not, ← BitVec.toNat_and, Nat.mod_eq_of_lt (BitVec.isLt _)])

theorem computes_orn : Computes (fun x y => x ||| ~~~y) fun w x y _ _ => (x ||| (2 ^ w - 1 - y) : Nat) := fun _ x y _ =>
  eq_ofInt_of_toNat (by rw [← BitVec.toNat_not, ← BitVec.toNat_or, Nat.mod_eq_of_lt (BitVec.isLt _)])

theorem shiftLeft_ofInt {w : Nat} (x : BitVec w) (n : Nat) : x <<< n = BitVec.ofInt w (x.toNat * 2 ^ n) := by
  exact_mod_cast eq_ofInt_of_toNat (z := x <<< n) (by rw [BitVec.toNat_shiftLeft, Nat.shiftLeft_eq])

theorem ushiftRight_ofInt {w : Nat} (x : BitVec w) (n : Nat) : x >>> n = BitVec.ofInt w (x.toNat / 2 ^ n) := by
  have hlt : x.toNat / 2 ^ n < 2 ^ w := (Nat.div_le_self ..).trans_lt x.isLt
  exact_mod_cast eq_ofInt_of_toNat (z := x >>> n)
    (by rw [BitVec.toNat_ushiftRight, Nat.shiftRight_eq_div_pow, Nat.mod_eq_of_lt hlt])

theorem sshiftRight_ofInt {w : Nat} (x : BitVec w) (n : Nat) : x.sshiftRight n = BitVec.ofInt w (x.toInt / 2 ^ n) := by
  rw [← BitVec.ofInt_toInt (x := x.sshiftRight n), BitVec.toInt_sshiftRight, Int.shiftRight_eq_div_pow, Nat.cast_pow,
    Nat.cast_ofNat]

theorem computes_shl : Computes (fun x y => x <<< shiftOf y) fun w x y _ _ => x * 2 ^ (y % w) :=
  fun _ x _ _ => shiftLeft_ofInt x _

theorem computes_shrl : Computes (fun x y => x >>> shiftOf y) fun w x y _ _ => x / 2 ^ (y % w) :=
  fun _ x _ _ => ushiftRight_ofInt x _

theorem computes_shra : Computes (fun x y => x.sshiftRight (shiftOf y)) fun w _ y xs _ => xs / 2 ^ (y % w) :=
  fun _ x _ _ => sshiftRight_ofInt x _

/-- A rotation puts the bits shifted out at the top where the shift has left zeros. -/
theorem rotateLeft_toNat {w n : Nat} (x : BitVec w) (hn : n < w) :
    (x.rotateLeft n).toNat = (x.toNat * 2 ^ n + x.toNat / 2 ^ (w - n)) % 2 ^ w := by
  have hsplit : 2 ^ w = 2 ^ n * 2 ^ (w - n) := by rw [← pow_add, Nat.add_sub_cancel' hn.le]
  have hlow : x.toNat / 2 ^ (w - n) < 2 ^ n := by
    rw [Nat.div_lt_iff_lt_mul (by positivity), ← hsplit]
    exact x.isLt
  have hhigh : x.toNat * 2 ^ n % 2 ^ w = (x.toNat % 2 ^ (w - n)) <<< n := by
    rw [hsplit, Nat.mul_comm, Nat.mul_mod_mul_left, Nat.shiftLeft_eq, Nat.mul_comm]
  have hfit : (x.toNat % 2 ^ (w - n)) <<< n + x.toNat / 2 ^ (w - n) < 2 ^ w := by
    have hroom : (x.toNat % 2 ^ (w - n) + 1) * 2 ^ n ≤ 2 ^ (w - n) * 2 ^ n :=
      Nat.mul_le_mul_right _ (Nat.mod_lt _ (by positivity))
    rw [Nat.succ_mul, Nat.mul_comm (2 ^ (w - n)), ← hsplit] at hroom
    rw [Nat.shiftLeft_eq]
    omega
  calc (x.rotateLeft n).toNat = (x.toNat % 2 ^ (w - n)) <<< n ||| x.toNat / 2 ^ (w - n) := by
        rw [BitVec.toNat_rotateLeft, Nat.mod_eq_of_lt hn, Nat.shiftLeft_eq, hhigh, Nat.shiftRight_eq_div_pow]
    _ = (x.toNat % 2 ^ (w - n)) <<< n + x.toNat / 2 ^ (w - n) := (Nat.shiftLeft_add_eq_or_of_lt hlow _).symm
    _ = _ := by rw [← Nat.mod_add_mod, hhigh, Nat.mod_eq_of_lt hfit]

theorem computes_rotl : Computes (fun x y => x.rotateLeft (shiftOf y))
    fun w x y _ _ => x * 2 ^ (y % w) + x / 2 ^ (w - y % w) := fun w x y hw => by
  exact_mod_cast eq_ofInt_of_toNat (rotateLeft_toNat x (Nat.mod_lt y.toNat hw))

theorem ite_slt {α : Type} {w : Nat} {x y : BitVec w} {u v : α} (h : x = y → u = v) :
    (if x.slt y then u else v) = if x.toInt ≤ y.toInt then u else v := by
  rcases lt_trichotomy x.toInt y.toInt with hlt | heq | hgt
  · rw [if_pos (BitVec.slt_iff_toInt_lt.2 hlt), if_pos hlt.le]
  · rw [h (BitVec.toInt_inj.1 heq), ite_self, ite_self]
  · rw [if_neg (mt BitVec.slt_iff_toInt_lt.1 hgt.not_gt), if_neg hgt.not_ge]

theorem ite_ult {α : Type} {w : Nat} {x y : BitVec w} {u v : α} (h : x = y → u = v) :
    (if x.ult y then u else v) = if x.toNat ≤ y.toNat then u else v := by
  rcases lt_trichotomy x.toNat y.toNat with hlt | heq | hgt
  · rw [if_pos (BitVec.ult_iff_lt.2 hlt), if_pos hlt.le]
  · rw [h (BitVec.toNat_inj.1 heq), ite_self, ite_self]
  · rw [if_neg (mt BitVec.ult_iff_lt.1 hgt.not_gt), if_neg hgt.not_ge]

theorem ofInt_toNat {w : Nat} (x : BitVec w) : BitVec.ofInt w x.toNat = x := by
  rw [BitVec.ofInt_natCast, BitVec.ofNat_toNat, BitVec.setWidth_eq]

theorem computes_min : Computes opMin fun _ _ _ xs ys => if xs ≤ ys then xs else ys := fun w x y _ => by
  rw [apply_ite (BitVec.ofInt w), BitVec.ofInt_toInt, BitVec.ofInt_toInt]
  exact ite_slt id

theorem computes_max : Computes opMax fun _ _ _ xs ys => if xs ≤ ys then ys else xs := fun w x y _ => by
  rw [apply_ite (BitVec.ofInt w), BitVec.ofInt_toInt, BitVec.ofInt_toInt]
  exact ite_slt Eq.symm

theorem computes_minu : Computes opMinu fun _ x y _ _ => if x ≤ y then x else y := fun w x y _ => by
  rw [apply_ite (BitVec.ofInt w), ofInt_toNat, ofInt_toNat]
  exact ite_ult id

theorem computes_maxu : Computes opMaxu fun _ x y _ _ => if x ≤ y then y else x := fun w x y _ => by
  rw [apply_ite (BitVec.ofInt w), ofInt_toNat, ofInt_toNat]
  exact ite_ult Eq.symm

/-! ## Their instructions -/

namespace Computes
variable {op : {w : Nat} → BitVec w → BitVec w → BitVec w} {r : Nat → Nat → Nat → Int → Int → Int}

/-- What an operation that computes `r` gives in the issuing context. -/
theorem alu (h : Computes op r) (s : State) (a b : BitVec 6) (m : BitVec 2) : s.alu op a b m =
    resultOf m (r (widthOf m) (lowNat m (s.rs a)) (lowNat m (s.rs b)) (lowInt m (s.rs a)) (lowInt m (s.rs b))) := by
  refine atWidth_eq_resultOf ?_
  have hop := h _ ((s.rs a).setWidth (widthOf m)) ((s.rs b).setWidth (widthOf m)) (widthOf_pos m)
  rwa [toNat_low, toNat_low, toInt_low, toInt_low] at hop

theorem completes (h : Computes op r) {i : Instr} {s : State} {d a b : BitVec 6} {m : BitVec 2}
    (hexec : exec i s = .next (s.ws d (s.alu op a b m))) : Completes i s fun t => WritesScalar s t d
      (resultOf m (r (widthOf m) (lowNat m (s.rs a)) (lowNat m (s.rs b)) (lowInt m (s.rs a)) (lowInt m (s.rs b)))) :=
  ⟨_, hexec, h.alu s a b m ▸ s.ws_writes ..⟩

theorem completesLate (h : Computes op r) {i : Instr} {s : State} {d a b : BitVec 6} {m : BitVec 2}
    (hexec : exec i s = .next (s.wsLate d (s.alu op a b m) 3)) : Completes i s fun t => WritesScalarLate s t d
      (resultOf m (r (widthOf m) (lowNat m (s.rs a)) (lowNat m (s.rs b)) (lowInt m (s.rs a)) (lowInt m (s.rs b)))) 3 :=
  ⟨_, hexec, h.alu s a b m ▸ s.wsLate_writes ..⟩

end Computes

/-- Settles O1: each operation computes its row of R139 at every width, and the widths of R138 extend it. -/
theorem registerOperations : Obligations.RegisterOperations := by
  intro s d a b m w x y xs ys n wr late
  exact ⟨computes_add.completes rfl, computes_sub.completes rfl, computes_mul.completesLate rfl,
    computes_mulhs.completesLate rfl, computes_mulhu.completesLate rfl, computes_and.completes rfl, computes_or.completes rfl,
    computes_xor.completes rfl, computes_andn.completes rfl, computes_orn.completes rfl, computes_shl.completes rfl,
    computes_shrl.completes rfl, computes_shra.completes rfl, computes_rotl.completes rfl, computes_min.completes rfl,
    computes_max.completes rfl, computes_minu.completes rfl, computes_maxu.completes rfl⟩

end Sys2Proof.Machine
end

section
/-! The unary operations (R140): leading and trailing zeros, the count of ones and the bytes reversed, on numbers of any
width. -/

namespace Sys2Proof.Machine
open Sys2Proof

theorem clzN_spec {w v : Nat} (hv : v < 2 ^ w) :
    clzN w v ≤ w ∧ v < 2 ^ (w - clzN w v) ∧ (clzN w v < w → 2 ^ (w - clzN w v - 1) ≤ v) := by
  unfold clzN
  split
  · next h0 => exact ⟨le_rfl, by simp [h0], fun h => absurd h (lt_irrefl w)⟩
  · next h0 =>
    have hlog : Nat.log2 v < w := (Nat.log2_lt h0).2 hv
    have hlen : w - (w - 1 - Nat.log2 v) = Nat.log2 v + 1 := by omega
    exact ⟨by omega, hlen ▸ Nat.lt_log2_self, fun _ => by rw [hlen]; exact Nat.log2_self_le h0⟩

theorem ctzN_spec (n v : Nat) :
    ctzN n v ≤ n ∧ (∀ i, i < ctzN n v → v.testBit i = false) ∧ (ctzN n v < n → v.testBit (ctzN n v) = true) := by
  induction n generalizing v with
  | zero => exact ⟨le_rfl, fun _ h => absurd h (Nat.not_lt_zero _), fun h => absurd h (Nat.not_lt_zero _)⟩
  | succ n ih =>
    obtain ⟨hle, hzeros, hone⟩ := ih (v / 2)
    rw [ctzN]
    split
    · next h => exact ⟨by omega, fun _ h => absurd h (Nat.not_lt_zero _), fun _ => by simp [Nat.testBit_zero, h]⟩
    · next h =>
      rw [Nat.add_comm 1]
      refine ⟨by omega, fun i hi => ?_, fun hlt => ?_⟩
      · cases i with
        | zero => simpa [Nat.testBit_zero] using h
        | succ i => rw [Nat.testBit_succ]; exact hzeros i (by omega)
      · rw [Nat.testBit_succ]
        exact hone (by omega)

theorem popN_eq_count (n v : Nat) : popN n v = ((List.range n).filter fun i => v.testBit i).length := by
  induction n generalizing v with
  | zero => rfl
  | succ n ih =>
    rw [popN, ih, List.range_succ_eq_map, List.filter_cons, List.filter_map, Nat.testBit_zero]
    have hshift : ((fun i => v.testBit i) ∘ Nat.succ) = fun i => (v / 2).testBit i := funext fun i => Nat.testBit_succ ..
    rw [hshift]
    rcases Nat.mod_two_eq_zero_or_one v with h | h <;> simp [h, Nat.add_comm]

theorem swapN_lt (n v : Nat) : swapN n v < 256 ^ n := by
  induction n generalizing v with
  | zero => exact Nat.one_pos
  | succ n ih =>
    have hrest := ih (v / 256)
    have htop : v % 256 * 256 ^ n ≤ 255 * 256 ^ n := Nat.mul_le_mul_right _ (by omega)
    rw [swapN, pow_succ]
    omega

theorem swapN_bytes (n v i : Nat) (hi : i < n) : swapN n v / 256 ^ i % 256 = v / 256 ^ (n - 1 - i) % 256 := by
  induction n generalizing v with
  | zero => exact absurd hi (Nat.not_lt_zero i)
  | succ n ih =>
    rw [swapN]
    rcases Nat.lt_succ_iff_lt_or_eq.1 hi with h | rfl
    · have hpow : 256 ^ n = 256 ^ i * (256 * 256 ^ (n - 1 - i)) := by
        rw [← pow_succ', ← pow_add]
        congr 1
        omega
      have hplace : n + 1 - 1 - i = n - 1 - i + 1 := by omega
      calc (v % 256 * 256 ^ n + swapN n (v / 256)) / 256 ^ i % 256
          = (256 * (v % 256 * 256 ^ (n - 1 - i)) + swapN n (v / 256) / 256 ^ i) % 256 := by
            rw [hpow, show v % 256 * (256 ^ i * (256 * 256 ^ (n - 1 - i))) = 256 ^ i * (256 * (v % 256 * 256 ^ (n - 1 - i))) by ring,
              Nat.mul_add_div (by positivity)]
        _ = v / 256 ^ (n + 1 - 1 - i) % 256 := by
            rw [Nat.mul_add_mod, ih _ h, hplace, pow_succ', Nat.div_div_eq_div_mul]
    · rw [Nat.mul_comm, Nat.mul_add_div (by positivity), Nat.div_eq_of_lt (swapN_lt ..)]
      simp

theorem computes_clz : Computes opClz fun w x _ _ _ => clzN w x := fun _ _ _ _ => (BitVec.ofInt_natCast ..).symm
theorem computes_ctz : Computes opCtz fun w x _ _ _ => ctzN w x := fun _ _ _ _ => (BitVec.ofInt_natCast ..).symm
theorem computes_popc : Computes opPopc fun w x _ _ _ => popN w x := fun _ _ _ _ => (BitVec.ofInt_natCast ..).symm
theorem computes_bswap : Computes opBswap fun w x _ _ _ => swapN (w / 8) x := fun _ _ _ _ => (BitVec.ofInt_natCast ..).symm

theorem two_pow_widthOf (m : BitVec 2) : 256 ^ (widthOf m / 8) = 2 ^ widthOf m := by
  unfold widthOf
  split <;> rfl

/-- Settles O2: each operation computes its count or its reversed bytes, at every width. -/
theorem unaryOperations : Obligations.UnaryOperations := by
  intro s d a m w x wr
  have hx : x < 2 ^ w := Nat.mod_lt _ (by positivity)
  obtain ⟨hclz, hbelow, habove⟩ := clzN_spec hx
  obtain ⟨hctz, hzeros, hone⟩ := ctzN_spec w x
  refine ⟨⟨_, hclz, hbelow, habove, computes_clz.completes (b := 0) rfl⟩,
    ⟨_, hctz, hzeros, hone, computes_ctz.completes (b := 0) rfl⟩, ?_,
    ⟨swapN (w / 8) x, ?_, swapN_bytes _ x, computes_bswap.completes (b := 0) rfl⟩⟩
  · rw [← popN_eq_count]
    exact computes_popc.completes (b := 0) rfl
  · exact (swapN_lt ..).trans_eq (two_pow_widthOf m)

end Sys2Proof.Machine
end

section
/-! Fields (R141), immediates (R142, R143) and compares (R144, R145). -/

namespace Sys2Proof.Machine
open Sys2Proof

/-! ## Fields -/

theorem fieldPos_eq (y : W64) : fieldPos y = y.toNat % 64 := by
  simp [fieldPos, BitVec.extractLsb'_toNat]

theorem fieldLen_eq (y : W64) : fieldLen y = y.toNat / 256 % 128 := by
  simp [fieldLen, BitVec.extractLsb'_toNat, Nat.shiftRight_eq_div_pow]

theorem fieldBad_iff (y : W64) : fieldBad y = true ↔ fieldLen y = 0 ∨ 64 < fieldLen y ∨ 64 < fieldPos y + fieldLen y := by
  simp only [fieldBad, Bool.or_eq_true, beq_iff_eq, decide_eq_true_eq, or_assoc]

/-- The bits of an insertion: those of the field from `x`, every other as in the old destination. -/
theorem getLsbD_opIns (t x y : W64) {i : Nat} (hi : i < 64) : (opIns t x y).getLsbD i =
    if fieldPos y ≤ i ∧ i < fieldPos y + fieldLen y then x.getLsbD (i - fieldPos y) else t.getLsbD i := by
  have hmask : ((BitVec.ofNat 64 (2 ^ fieldLen y - 1) <<< fieldPos y : W64)).getLsbD i =
      decide (fieldPos y ≤ i ∧ i < fieldPos y + fieldLen y) := by
    simp only [BitVec.getLsbD_shiftLeft, BitVec.getLsbD_ofNat, Nat.testBit_two_pow_sub_one, decide_eq_true hi, Bool.true_and]
    by_cases h : fieldPos y ≤ i
    · have hin : i - fieldPos y < fieldLen y ↔ i < fieldPos y + fieldLen y := by omega
      have hlt : i - fieldPos y < 64 := by omega
      simp [h, hin, hlt]
    · simp [h, Nat.lt_of_not_le h]
  simp only [opIns, BitVec.getLsbD_or, BitVec.getLsbD_and, BitVec.getLsbD_not, hmask, decide_eq_true hi, Bool.true_and]
  by_cases h : fieldPos y ≤ i ∧ i < fieldPos y + fieldLen y
  · have hlow : ¬i < fieldPos y := not_lt.2 h.1
    simp [h, hi, hlow, BitVec.getLsbD_eq_getElem, (show i - fieldPos y < 64 by omega)]
  · simp [h]

theorem exec_field_bad {s : State} (d a : BitVec 6) {b : BitVec 6} (h : fieldBad (s.rs b) = true) :
    exec (.extz d a b) s = .next (s.stop 0x02 1) ∧ exec (.exts d a b) s = .next (s.stop 0x02 1) ∧
    exec (.ins d a b) s = .next (s.stop 0x02 1) :=
  ⟨congrArg Host.Outcome.next (if_pos h), congrArg Host.Outcome.next (if_pos h), congrArg Host.Outcome.next (if_pos h)⟩

theorem exec_field {s : State} (d a : BitVec 6) {b : BitVec 6} (h : ¬fieldBad (s.rs b) = true) :
    exec (.extz d a b) s = .next (s.ws d (opExtz (s.rs a) (s.rs b))) ∧
    exec (.exts d a b) s = .next (s.ws d (opExts (s.rs a) (s.rs b))) ∧
    exec (.ins d a b) s = .next (s.ws d (opIns (s.rs d) (s.rs a) (s.rs b))) :=
  ⟨congrArg Host.Outcome.next (if_neg h), congrArg Host.Outcome.next (if_neg h), congrArg Host.Outcome.next (if_neg h)⟩

/-- Settles O3: a field that is none stops the slot; any other is extracted or inserted bit by bit. -/
theorem fieldOperations : Obligations.FieldOperations := by
  intro s d a b x pos len f
  have hpos : fieldPos (s.rs b) = pos := fieldPos_eq _
  have hlen : fieldLen (s.rs b) = len := fieldLen_eq _
  split
  · next h =>
    obtain ⟨hextz, hexts, hins⟩ := exec_field_bad d a ((fieldBad_iff (s.rs b)).2 (by rwa [hpos, hlen]))
    exact ⟨⟨_, hextz, rfl⟩, ⟨_, hexts, rfl⟩, ⟨_, hins, rfl⟩⟩
  · next h =>
    obtain ⟨hextz, hexts, hins⟩ := exec_field d a (fun hbad => h (by rwa [fieldBad_iff, hpos, hlen] at hbad))
    refine ⟨⟨_, hextz, ?_⟩, ⟨_, hexts, ?_⟩, _, fun i hi => ?_, ⟨_, hins, s.ws_writes ..⟩⟩
    · rw [opExtz, fieldOf, hpos, hlen]
      exact s.ws_writes ..
    · simp only [opExts, fieldOf, hpos, hlen]
      exact s.ws_writes ..
    · rw [getLsbD_opIns _ _ _ hi, hpos, hlen]

/-! ## Immediates -/

theorem getLsbD_imm8s (i : BitVec 8) {j : Nat} (hj : j < 64) : (imm8s i).getLsbD j = i.getLsbD (Nat.min j 7) := by
  rw [imm8s, BitVec.getLsbD_signExtend, decide_eq_true hj, Bool.true_and, BitVec.msb_eq_getLsbD_last]
  split
  · next h => exact congrArg _ (Nat.min_eq_left (by omega)).symm
  · next h => exact congrArg _ (Nat.min_eq_right (by omega)).symm

theorem addi_value (x : W64) (i : BitVec 8) : x + imm8s i = BitVec.ofInt 64 (x.toInt + i.toInt) := by
  rw [BitVec.ofInt_add, BitVec.ofInt_toInt]
  rfl

/-- The shift of LDIS leaves zeros where its immediate goes. -/
theorem ldis_value (x : W64) (l : BitVec 14) : x <<< 14 ||| l.setWidth 64 = BitVec.ofNat 64 (x.toNat * 2 ^ 14 + l.toNat) := by
  have hl := l.isLt
  apply BitVec.eq_of_toNat_eq
  have hsplit : x.toNat * 2 ^ 14 % 2 ^ 64 = (x.toNat % 2 ^ 50) <<< 14 := by rw [Nat.shiftLeft_eq]; omega
  have hfit : l.toNat % 2 ^ 64 = l.toNat := Nat.mod_eq_of_lt (by omega)
  rw [BitVec.toNat_or, BitVec.toNat_shiftLeft, BitVec.toNat_setWidth, hfit, Nat.shiftLeft_eq, hsplit,
    ← Nat.shiftLeft_add_eq_or_of_lt hl, Nat.shiftLeft_eq, BitVec.toNat_ofNat]
  omega

/-- Settles O4: each value is the one written, bit by bit or as a number. -/
theorem immediateOperations : Obligations.ImmediateOperations := by
  intro s d a n i l x wr
  refine ⟨⟨_, rfl, ?_⟩, ⟨x &&& imm8s i, fun j hj => ?_, _, rfl, s.ws_writes ..⟩,
    ⟨x ||| imm8s i, fun j hj => ?_, _, rfl, s.ws_writes ..⟩, ⟨x ^^^ imm8s i, fun j hj => ?_, _, rfl, s.ws_writes ..⟩,
    ⟨_, rfl, ?_⟩, ⟨_, rfl, ?_⟩, ⟨_, rfl, ?_⟩, ⟨_, rfl, s.ws_writes ..⟩, ⟨_, rfl, ?_⟩⟩
  · exact addi_value x i ▸ s.ws_writes ..
  · rw [BitVec.getLsbD_and, getLsbD_imm8s i hj]
  · rw [BitVec.getLsbD_or, getLsbD_imm8s i hj]
  · rw [BitVec.getLsbD_xor, getLsbD_imm8s i hj]
  · have h : x <<< n.toNat = BitVec.ofNat 64 (x.toNat * 2 ^ n.toNat) := by
      rw [shiftLeft_ofInt, ← BitVec.ofInt_natCast]
      push_cast
      rfl
    exact h ▸ s.ws_writes ..
  · have h : x >>> n.toNat = BitVec.ofNat 64 (x.toNat / 2 ^ n.toNat) := by
      rw [ushiftRight_ofInt, ← BitVec.ofInt_natCast]
      push_cast
      rfl
    exact h ▸ s.ws_writes ..
  · exact sshiftRight_ofInt x n.toNat ▸ s.ws_writes ..
  · exact ldis_value (s.rs d) l ▸ s.ws_writes ..

/-! ## Compares -/

theorem completes_pair {i : Instr} {s : State} {k : BitVec 4} {c : Bool} {p : Prop} (h : exec i s = .next (s.wpair k.toNat c))
    (hp : c = true ↔ p) : Completes i s fun t => ∃ v : Bool, (v = true ↔ p) ∧ WritesPair s t k.toNat v :=
  ⟨_, h, c, hp, s.wpair_writes _ k.isLt c⟩

section
variable (x y : W64)

theorem cEq_iff : cEq x y = true ↔ x.toNat = y.toNat := beq_iff_eq.trans BitVec.toNat_inj.symm
theorem cNe_iff : cNe x y = true ↔ x.toNat ≠ y.toNat := bne_iff_ne.trans (not_congr BitVec.toNat_inj.symm)
theorem cLt_iff : cLt x y = true ↔ x.toInt < y.toInt := BitVec.slt_iff_toInt_lt
theorem cLe_iff : cLe x y = true ↔ x.toInt ≤ y.toInt := BitVec.sle_iff_toInt_le
theorem cGt_iff : cGt x y = true ↔ y.toInt < x.toInt := BitVec.slt_iff_toInt_lt
theorem cGe_iff : cGe x y = true ↔ y.toInt ≤ x.toInt := BitVec.sle_iff_toInt_le
theorem cLtu_iff : cLtu x y = true ↔ x.toNat < y.toNat := BitVec.ult_iff_lt
theorem cLeu_iff : cLeu x y = true ↔ x.toNat ≤ y.toNat := BitVec.ule_iff_le
theorem cGtu_iff : cGtu x y = true ↔ y.toNat < x.toNat := BitVec.ult_iff_lt
theorem cGeu_iff : cGeu x y = true ↔ y.toNat ≤ x.toNat := BitVec.ule_iff_le

end

theorem toInt_imm8s (i : BitVec 8) : (imm8s i).toInt = i.toInt := BitVec.toInt_signExtend_of_le (by decide)

/-- Settles O5: each condition is what its comparison decides, on the sign-extended immediate too. -/
theorem compares : Obligations.Compares := by
  intro s k a b i p q x y z wp u v
  refine ⟨⟨completes_pair rfl (cEq_iff x y), completes_pair rfl (cNe_iff x y), completes_pair rfl (cLt_iff x y),
      completes_pair rfl (cLe_iff x y), completes_pair rfl (cGt_iff x y), completes_pair rfl (cGe_iff x y),
      completes_pair rfl (cLtu_iff x y), completes_pair rfl (cLeu_iff x y), completes_pair rfl (cGtu_iff x y),
      completes_pair rfl (cGeu_iff x y)⟩,
    ⟨completes_pair rfl (cEq_iff x z), completes_pair rfl (cNe_iff x z), completes_pair rfl (toInt_imm8s i ▸ cLt_iff x (imm8s i)),
      completes_pair rfl (toInt_imm8s i ▸ cLe_iff x (imm8s i)), completes_pair rfl (toInt_imm8s i ▸ cGt_iff x (imm8s i)),
      completes_pair rfl (toInt_imm8s i ▸ cGe_iff x (imm8s i)), completes_pair rfl (cLtu_iff x z),
      completes_pair rfl (cLeu_iff x z), completes_pair rfl (cGtu_iff x z), completes_pair rfl (cGeu_iff x z)⟩,
    completes_pair rfl Bool.and_eq_true_iff, completes_pair rfl Bool.or_eq_true_iff, completes_pair rfl bne_iff_ne,
    completes_pair rfl ?_⟩
  simp [u, v]

end Sys2Proof.Machine
end

section
/-! Words that the spec writes out. -/

namespace Sys2Proof.Machine
open Sys2Proof

/-- Settles O58: the decoder evaluates on each word. -/
theorem specWordsDecode : Obligations.SpecWordsDecode := by
  unfold Obligations.SpecWordsDecode
  decide

end Sys2Proof.Machine
end

section
/-! Indirect transfers (R147, R149) and loops (R152-R154). -/

namespace Sys2Proof.Machine
open Sys2Proof

/-! ## Indirect transfers -/

theorem State.unforwarded_eq (s : State) (n : BitVec 6) :
    s.unforwarded n = ((s.was.stale.find? fun e => e.1 == n.toNat).map Prod.snd).getD (s.rs n) := by
  unfold State.unforwarded
  cases s.was.stale.find? fun e => e.1 == n.toNat <;> rfl

theorem indirectOk_iff (t : W64) : indirectOk t = true ↔ t.toNat % 4 = 0 ∧ t.toNat < 0x20000 := by
  simp only [indirectOk, Bool.and_eq_true, beq_iff_eq, decide_eq_true_eq]

theorem State.indirect_inside {s : State} {t : W64} (h : indirectOk t = true) :
    s.indirect t false = s.transfer t.toNat ∧ s.indirect t true = (s.ws 62 s.link).transfer t.toNat :=
  ⟨if_pos h, if_pos h⟩

theorem State.indirect_outside {s : State} {t : W64} (h : ¬indirectOk t = true) (link : Bool) :
    s.indirect t link = s.stop 0x02 2 := if_neg h

/-- Settles O7: the target as it stood a cycle ago decides between the transfer and the stop. -/
theorem indirectTransfers : Obligations.IndirectTransfers := by
  intro s a old ok
  have hold (n : BitVec 6) : s.unforwarded n = old n := s.unforwarded_eq n
  have hok (n : BitVec 6) : ok n ↔ indirectOk (s.unforwarded n) = true := by rw [indirectOk_iff, hold]
  refine ⟨fun h => ⟨⟨_, rfl, ?_⟩, ⟨_, rfl, s.ws 62 s.link, s.ws_writes 62 s.link, ?_⟩⟩, fun h => ⟨_, rfl, ?_⟩,
    fun h => ⟨⟨_, rfl, ?_⟩, ⟨_, rfl, ?_⟩⟩, fun h => ⟨_, rfl, ?_⟩⟩
  · rw [(State.indirect_inside ((hok a).1 h)).1, hold]
    exact s.transfer_transfersTo _
  · rw [(State.indirect_inside ((hok a).1 h)).2, hold]
    exact State.transfer_transfersTo _ _
  · rw [(State.indirect_inside ((hok 62).1 h)).1, hold]
    exact s.transfer_transfersTo _
  · exact State.indirect_outside (mt (hok a).2 h) false
  · exact State.indirect_outside (mt (hok a).2 h) true
  · exact State.indirect_outside (mt (hok 62).2 h) false

/-! ## Stage predicates -/

/-- Setting the stage predicates writes p16 to p(15 + n), and nothing else of the bank: the predicates are those of any bank
with the new predicate register. -/
theorem Ctx.stages_spec (x : Ctx) (f : Nat → Bool) {n : Nat} (hn : n ≤ 16) :
    ∃ p, x.stages n f = { x with p := p } ∧
    ∀ y : Ctx, y.p = p → ∀ j, j < 32 → y.pr j = if 16 ≤ j ∧ j < 16 + n then f (j - 16) else x.pr j := by
  suffices H : ∃ p, x.stages n f = { x with p := p } ∧
      ∀ j, j < 32 → (x.stages n f).pr j = if 16 ≤ j ∧ j < 16 + n then f (j - 16) else x.pr j by
    obtain ⟨p, hp, hpr⟩ := H
    refine ⟨p, hp, fun y hy j hj => ?_⟩
    rw [← hpr j hj, hp]
    unfold Ctx.pr
    rw [hy]
  induction n with
  | zero => exact ⟨x.p, rfl, fun j _ => (if_neg (by omega)).symm⟩
  | succ n ih =>
    obtain ⟨p, hp, hpr⟩ := ih (by omega)
    have hstep : x.stages (n + 1) f = (x.stages n f).setP (16 + n) (f n) := by
      simp only [Ctx.stages, List.range_succ, List.foldl_append, List.foldl_cons, List.foldl_nil]
    refine ⟨(x.stages (n + 1) f).p, ?_, fun j hj => ?_⟩
    · rw [hstep, hp, Ctx.setP, if_neg (by omega)]
    · rw [hstep, Ctx.pr_setP _ _ _ _ (by omega) hj, hpr j hj]
      by_cases h : j = 16 + n
      · subst h
        rw [if_pos ⟨rfl, by omega⟩, if_pos (by omega), Nat.add_sub_cancel_left]
      · have hrange : 16 ≤ j ∧ j < 16 + (n + 1) ↔ 16 ≤ j ∧ j < 16 + n := by omega
        simp only [h, false_and, if_false, hrange]

/-! ## LOOP -/

theorem stageLive_first {T j : Nat} (hj : 16 ≤ j) : stageLive T 0 (j - 16) = decide (j = 16 ∧ 0 < T) := by
  rw [stageLive, ← Bool.decide_and]
  exact decide_eq_decide.2 (by omega)

theorem extract_high_eq_zero (x : W64) : (x.extractLsb' 32 32 != 0) = false ↔ x.toNat < 2 ^ 32 := by
  have hx := x.isLt
  rw [bne_eq_false_iff_eq, ← BitVec.toNat_inj, BitVec.extractLsb'_toNat, Nat.shiftRight_eq_div_pow]
  show x.toNat / 2 ^ 32 % 2 ^ 32 = 0 ↔ _
  omega

theorem extract_low_of_lt {x : W64} (h : x.toNat < 2 ^ 32) : (x.extractLsb' 0 32).toNat = x.toNat := by
  rw [BitVec.extractLsb'_toNat, Nat.shiftRight_zero, Nat.mod_eq_of_lt h]

theorem execLoop_starts {s : State} {a : BitVec 6} (n : BitVec 5) (h : (s.rs a).toNat < 2 ^ 32) :
    execLoop a n s = .next (s.modCtx fun x => { x.stages n.toNat (stageLive (s.rs a).toNat 0) with
      loopState := loopWord (s.rs a).toNat n.toNat, loopExec := 0 }) := by
  simp only [execLoop, (extract_high_eq_zero _).2 h, extract_low_of_lt h, Bool.false_eq_true, if_false]

theorem execLoop_illegal {s : State} {a : BitVec 6} (n : BitVec 5) (h : 2 ^ 32 ≤ (s.rs a).toNat) :
    execLoop a n s = .next (s.stop 0x02 3) :=
  congrArg Host.Outcome.next (if_pos (Bool.of_not_eq_false fun hz => absurd ((extract_high_eq_zero _).1 hz) (not_lt.2 h)))

/-- Settles O8: the loop state and the stage predicates of execution 0 are all that LOOP writes. -/
theorem loopStart : Obligations.LoopStart := by
  intro s a n hn
  refine ⟨fun h => ⟨_, execLoop_starts n h, ?_⟩, fun h => ⟨_, execLoop_illegal n h, rfl⟩⟩
  obtain ⟨p, hp, hpr⟩ := s.ctx.stages_spec (stageLive (s.rs a).toNat 0) hn
  have ht : (s.modCtx fun x => { x.stages n.toNat (stageLive (s.rs a).toNat 0) with
        loopState := loopWord (s.rs a).toNat n.toNat, loopExec := 0 }) =
      s.modCtx fun x => { x with p := p, loopState := loopWord (s.rs a).toNat n.toNat, loopExec := 0 } :=
    State.modCtx_congr (by rw [hp])
  rw [ht, State.ctx_modCtx]
  refine ⟨fun j hj => ?_, ?_, rfl, p, _, _, rfl⟩
  · rw [hpr _ rfl j hj]
    split
    · next hin => exact stageLive_first hin.1
    · rfl
  · simp only [loopWord, BitVec.toNat_ofNat]
    omega

/-! ## BRLOOP -/

theorem loopT_eq (x : Ctx) : loopT x = x.loopState.toNat % 2 ^ 32 := by
  rw [loopT, BitVec.extractLsb'_toNat, Nat.shiftRight_zero]

theorem loopN_eq (x : Ctx) : loopN x = x.loopState.toNat / 2 ^ 32 % 32 := by
  rw [loopN, BitVec.extractLsb'_toNat, Nat.shiftRight_eq_div_pow]

theorem loopE_eq (x : Ctx) : loopE x = x.loopExec.toNat % 2 ^ 33 := by
  rw [loopE, BitVec.extractLsb'_toNat, Nat.shiftRight_zero]

theorem loopTaken_iff {x : Ctx} (hN : loopN x ≠ 0) :
    loopTaken x = true ↔ 0 < loopT x ∧ loopE x + 1 < loopT x + loopN x - 1 := by
  simp only [loopTaken, Bool.and_eq_true, bne_iff_ne, decide_eq_true_eq, Nat.pos_iff_ne_zero]
  exact ⟨fun h => ⟨h.1.2, h.2⟩, fun h => ⟨⟨hN, h.1⟩, h.2⟩⟩

theorem execBrloop_inactive {s : State} (i : BitVec 20) (h : loopN s.was = 0) : execBrloop i s = .next (s.stop 0x02 4) :=
  congrArg Host.Outcome.next (if_pos h)

theorem execBrloop_outside {s : State} {i : BitVec 20} (h : loopN s.was ≠ 0) (ht : ¬targetOk s.focus.pc i = true) :
    execBrloop i s = .next (s.stop 0x01 0) := by
  simp only [execBrloop, h, ht, Bool.not_false, if_false, if_true]

theorem execBrloop_taken {s : State} {i : BitVec 20} (h : loopN s.was ≠ 0) (ht : targetOk s.focus.pc i = true)
    (hl : loopTaken s.was = true) : execBrloop i s = .next (s.modCtx fun y =>
      { y.stages (loopN s.was) (stageLive (loopT s.was) (loopE s.was + 1)) with
        loopExec := BitVec.ofNat 64 (loopE s.was + 1), pc := (target s.focus.pc i).toNat }) := by
  simp only [execBrloop, h, ht, hl, Bool.not_true, Bool.false_eq_true, if_false, if_true, State.jump, State.modCtx_modCtx]

theorem execBrloop_done {s : State} {i : BitVec 20} (h : loopN s.was ≠ 0) (ht : targetOk s.focus.pc i = true)
    (hl : ¬loopTaken s.was = true) : execBrloop i s = .next (s.modCtx fun y =>
      { y.stages (loopN s.was) (fun _ => false) with loopState := 0, loopExec := 0 }) := by
  simp only [execBrloop, h, ht, hl, Bool.not_true, Bool.false_eq_true, if_false]

theorem stageLive_iff (T e j : Nat) : stageLive T e j = true ↔ j ≤ e ∧ e - j < T := by
  simp only [stageLive, Bool.and_eq_true, decide_eq_true_eq]

/-- Settles O9: the loop goes on or ends by its counts, as the bundle finds them. -/
theorem loopBranch : Obligations.LoopBranch := by
  intro s i T N E g stages hN
  have hn : loopN s.was = N := loopN_eq _
  have ht : loopT s.was = T := loopT_eq _
  have he : loopE s.was + 1 = E := congrArg (· + 1) (loopE_eq _)
  refine ⟨fun h => ⟨_, execBrloop_inactive i (hn.trans h), rfl⟩, fun h hout => ?_, fun h hlow hhigh => ?_⟩
  · refine ⟨_, execBrloop_outside (by omega) fun hok => ?_, rfl⟩
    obtain ⟨hlow, hhigh⟩ := (targetOk_iff _ _).1 hok
    omega
  · have hok : targetOk s.focus.pc i = true := (targetOk_iff _ _).2 ⟨hlow, hhigh⟩
    have hactive : loopN s.was ≠ 0 := by omega
    have htaken := loopTaken_iff hactive
    rw [hn, ht, he] at htaken
    split
    · next hlive =>
      obtain ⟨p, hp, hpr⟩ := s.ctx.stages_spec (stageLive T E) hN
      have hnext := execBrloop_taken hactive hok (htaken.2 hlive)
      rw [hn, ht, he] at hnext
      have hstate : (s.modCtx fun y => { y.stages N (stageLive T E) with
            loopExec := BitVec.ofNat 64 E, pc := (target s.focus.pc i).toNat }) =
          s.modCtx fun y => { y with p := p, loopExec := BitVec.ofNat 64 E, pc := g.toNat } :=
        State.modCtx_congr (by rw [hp]; rfl)
      refine ⟨_, hnext.trans (congrArg _ hstate), fun j hj => ?_, congrArg Ctx.pc (State.ctx_modCtx ..), ?_, p, _, rfl⟩
      · rw [State.ctx_modCtx, hpr _ rfl j hj]
        exact ⟨fun hin => by rw [if_pos hin, stageLive_iff], fun hout => if_neg hout⟩
      · rw [State.ctx_modCtx, BitVec.toNat_ofNat]
        omega
    · next hlast =>
      obtain ⟨p, hp, hpr⟩ := s.ctx.stages_spec (fun _ => false) hN
      have hnext := execBrloop_done hactive hok (mt htaken.1 hlast)
      rw [hn] at hnext
      have hstate : (s.modCtx fun y => { y.stages N (fun _ => false) with loopState := 0, loopExec := 0 }) =
          s.modCtx fun y => { y with p := p, loopState := 0, loopExec := 0 } := State.modCtx_congr (by rw [hp])
      refine ⟨_, hnext.trans (congrArg _ hstate), fun j hj => ?_, congrArg Ctx.loopState (State.ctx_modCtx ..),
        congrArg Ctx.loopExec (State.ctx_modCtx ..), p, rfl⟩
      rw [State.ctx_modCtx, hpr _ rfl j hj]
      exact ⟨fun hin => by simp [if_pos hin], fun hout => if_neg hout⟩

end Sys2Proof.Machine
end

section
/-! Stops (R160-R166): what taking one leaves, vectored or delivered, and the instructions that raise them. -/

namespace Sys2Proof.Machine
open Sys2Proof

/-! ## What a stop does before it is taken -/

theorem State.clock_modCell {f : Cell → Cell} (hf : ∀ k, (f k).frozen = k.frozen) (s : State) (c j : Nat) :
    (s.modCell c f).clock j = s.clock j := by
  unfold State.clock
  rw [State.cell_modCell, State.modCell_cycle]
  split
  · next h => rw [hf, h]
  · rfl

theorem State.clock_post (s : State) (i : Instr) (a : Args) (j : Nat) : (s.post i a).clock j = s.clock j := rfl

theorem State.SameBanks.post {s t : State} (h : State.SameBanks s t) (i : Instr) (a : Args) :
    State.SameBanks s (t.post i a) := ⟨h.focus, h.snap, h.dies, h.ctxOf⟩

/-- A trace record changes no bank and no clock. -/
theorem State.trace_keeps (s : State) (c kind : Nat) (x : Option Nat) (pc slot : Nat) (d0 d1 : W64) :
    State.SameBanks s (s.trace c kind x pc slot d0 d1) ∧ ∀ j, (s.trace c kind x pc slot d0 d1).clock j = s.clock j := by
  unfold State.trace
  simp only
  split
  · exact ⟨.refl s, fun _ => rfl⟩
  · split
    · exact ⟨.modCell (fun _ => by rfl) s c, State.clock_modCell (fun _ => by rfl) s c⟩
    · exact ⟨.post (.modCell (fun _ => by rfl) s c) .., fun j =>
        (State.clock_post ..).trans (State.clock_modCell (fun _ => by rfl) s c j)⟩

/-- The state behind the flush point of a stop and its trace record, from which the stop is taken. -/
def State.atStop (s : State) (c x pc slot cause info : Nat) (done : BitVec 14) : State :=
  (s.modCtxOf c x fun t => t.closeWith (s.ctxOf c x).rwPerm).trace c 4 (some x) pc slot
    (BitVec.ofNat 64 (cause + info % 2 ^ 14 * 2 ^ 8)) (done.setWidth 64)

theorem State.atStop_keeps (s : State) (c x pc slot cause info : Nat) (done : BitVec 14) :
    let u := s.atStop c x pc slot cause info done
    u.mem = s.mem ∧ u.clock c = s.clock c ∧ u.ctxOf c x = (s.ctxOf c x).closeWith (s.ctxOf c x).rwPerm ∧
    ∀ c' x', ¬(c' = c ∧ x' = x) → u.ctxOf c' x' = s.ctxOf c' x' := by
  obtain ⟨hsame, hclock⟩ := State.trace_keeps (s.modCtxOf c x fun t => t.closeWith (s.ctxOf c x).rwPerm) c 4 (some x) pc slot
    (BitVec.ofNat 64 (cause + info % 2 ^ 14 * 2 ^ 8)) (done.setWidth 64)
  refine ⟨State.trace_mem .., ?_, ?_, fun c' x' h => ?_⟩
  · exact (hclock c).trans (State.clock_modCell (fun _ => by rfl) s c c)
  · rw [State.atStop, hsame.ctxOf, State.ctxOf_modCtxOf_same]
  · rw [State.atStop, hsame.ctxOf, State.ctxOf_modCtxOf, if_neg h]

/-- A cell whose context enters its handler, until the cycle `til`. -/
def Cell.enteredTil (k : Cell) (x til : Nat) : Cell := { k with cur := some x, entering := true, busyTil := til }
/-- A cell whose issue slot a stopped context gives up. -/
def Cell.givenUpBy (k : Cell) (x : Nat) : Cell := { k with cur := if k.cur == some x then none else k.cur }

theorem Cell.cur_givenUpBy (k : Cell) (x : Nat) : (k.givenUpBy x).cur ≠ some x := by
  unfold Cell.givenUpBy
  simp only
  split
  · exact nofun
  · next h => simpa using h

theorem State.takeStop_vectored {s : State} {c x cause : Nat} (pc slot info : Nat) (done : BitVec 14)
    (h : vectored cause = true ∧ (s.ctxOf c x).trapVec.getLsbD 0 = true) : s.takeStop c x pc slot cause info done =
      ((s.atStop c x pc slot cause info done).modCtxOf c x fun t =>
        t.enterVec (s.ctxOf c x).trapVec pc slot cause info done).modCell c fun k =>
          k.enteredTil x ((s.atStop c x pc slot cause info done).clock c + 3) :=
  if_pos (by rw [h.1, h.2]; rfl)

theorem State.takeStop_delivered {s : State} {c x cause : Nat} (pc slot info : Nat) (done : BitVec 14)
    (h : ¬(vectored cause = true ∧ (s.ctxOf c x).trapVec.getLsbD 0 = true)) : s.takeStop c x pc slot cause info done =
      (((s.atStop c x pc slot cause info done).modCtxOf c x fun t => t.enterDcp pc slot cause info done).modCell c fun k =>
        k.givenUpBy x).post .trapRecordPost { Args.empty with die := dieOf c, c := c, x := x } :=
  if_neg (by rwa [Bool.and_eq_true])

/-! ## The two ways of a stop -/

/-- What a change of one bank and of its cell's issue state leaves of the banks. -/
theorem State.ctxOf_modCell_modCtxOf {f : Ctx → Ctx} {g : Cell → Cell} (hg : ∀ k, (g k).ctxs = k.ctxs) (u : State)
    (c x c' x' : Nat) : ((u.modCtxOf c x f).modCell c g).ctxOf c' x' =
      if c' = c ∧ x' = x then f (u.ctxOf c x) else u.ctxOf c' x' :=
  ((State.SameBanks.modCell hg (u.modCtxOf c x f) c).ctxOf c' x').trans (State.ctxOf_modCtxOf ..)

theorem State.cell_post (s : State) (i : Instr) (a : Args) (c : Nat) : (s.post i a).cell c = s.cell c := rfl
theorem State.ctxOf_post (s : State) (i : Instr) (a : Args) (c x : Nat) : (s.post i a).ctxOf c x = s.ctxOf c x := rfl

/-- A vectored stop enters the handler, two cycles of the cell later. -/
theorem State.takeStop_enters {s : State} {c x cause slot info : Nat} (pc : Nat) (done : BitVec 14) (hslot : slot < 16)
    (hcause : cause < 256) (hinfo : info < 2 ^ 14) (h : vectored cause = true ∧ (s.ctxOf c x).trapVec.getLsbD 0 = true) :
    let t := s.takeStop c x pc slot cause info done
    EntersHandler (s.ctxOf c x) (t.ctxOf c x) pc slot cause info done ∧ (t.cell c).busyTil = s.clock c + 3 ∧
    (∀ a, t.byte a = s.byte a) ∧ ∀ c' x', ¬(c' = c ∧ x' = x) → t.ctxOf c' x' = s.ctxOf c' x' := by
  obtain ⟨-, hclock, hctx, hothers⟩ := s.atStop_keeps c x pc slot cause info done
  refine ⟨?_, ?_, State.byte_of_mem (s.takeStop_mem ..), fun c' x' hne => ?_⟩
  · rw [State.takeStop_vectored pc slot info done h, State.ctxOf_modCell_modCtxOf (fun _ => by rfl), if_pos ⟨rfl, rfl⟩, hctx]
    exact Ctx.enterVec_enters ((s.ctxOf c x).closeWith _) pc slot cause info done (by omega) hcause hinfo
  · rw [State.takeStop_vectored pc slot info done h, State.cell_modCell, if_pos rfl, ← hclock]
    rfl
  · rw [State.takeStop_vectored pc slot info done h, State.ctxOf_modCell_modCtxOf (fun _ => by rfl), if_neg hne,
      hothers c' x' hne]

/-- A stop delivered to the DCP leaves the context STOPPED, with a trap record on its way. -/
theorem State.takeStop_stops {s : State} {c x cause slot info : Nat} (pc : Nat) (done : BitVec 14) (hslot : slot < 16)
    (hcause : cause < 256) (hinfo : info < 2 ^ 14) (h : ¬(vectored cause = true ∧ (s.ctxOf c x).trapVec.getLsbD 0 = true)) :
    let t := s.takeStop c x pc slot cause info done
    StopsForDcp (s.ctxOf c x) (t.ctxOf c x) pc slot cause info done ∧ (t.cell c).cur ≠ some x ∧
    ⟨.trapRecordPost, { Args.empty with die := c / 256, c := c, x := x }⟩ ∈ t.agenda ∧
    (∀ a, t.byte a = s.byte a) ∧ ∀ c' x', ¬(c' = c ∧ x' = x) → t.ctxOf c' x' = s.ctxOf c' x' := by
  obtain ⟨-, -, hctx, hothers⟩ := s.atStop_keeps c x pc slot cause info done
  refine ⟨?_, ?_, ?_, State.byte_of_mem (s.takeStop_mem ..), fun c' x' hne => ?_⟩
  · rw [State.takeStop_delivered pc slot info done h, State.ctxOf_post, State.ctxOf_modCell_modCtxOf (fun _ => by rfl),
      if_pos ⟨rfl, rfl⟩, hctx]
    exact Ctx.enterDcp_stops ((s.ctxOf c x).closeWith _) pc slot cause info done (by omega) hcause hinfo
  · rw [State.takeStop_delivered pc slot info done h]
    rw [State.cell_post, State.cell_modCell, if_pos rfl]
    exact Cell.cur_givenUpBy _ x
  · rw [State.takeStop_delivered pc slot info done h]
    exact List.mem_append_right _ (List.mem_singleton.2 rfl)
  · rw [State.takeStop_delivered pc slot info done h, State.ctxOf_post, State.ctxOf_modCell_modCtxOf (fun _ => by rfl),
      if_neg hne, hothers c' x' hne]

theorem vectored_iff (cause : Nat) : vectored cause = true ↔ cause ∈ [0x01, 0x02, 0x03, 0x04, 0x09, 0x0A, 0x0C] :=
  List.contains_iff_mem

/-- Settles O10: a vectored cause with a valid vector enters the handler. -/
theorem trapEntry : Obligations.TrapEntry := fun _ _ _ pc _ cause _ done hcause hslot hinfo hvalid =>
  State.takeStop_enters pc done hslot (by simp only [List.mem_cons, List.not_mem_nil, or_false] at hcause; omega) hinfo
    ⟨(vectored_iff cause).2 hcause, hvalid⟩

/-- Settles O11: a cause that is not vectored, or no valid vector, delivers the stop. -/
theorem stopForDcp : Obligations.StopForDcp := fun _ _ _ pc _ cause _ done hway hslot hcause hinfo =>
  State.takeStop_stops pc done hslot hcause hinfo fun ⟨hvec, hvalid⟩ =>
    hway.elim (fun h => h ((vectored_iff cause).1 hvec)) fun h => Bool.false_ne_true (h.symm.trans hvalid)

/-! ## TRAP and BKPT (R166) -/

theorem doneSlot_eq (slot : Nat) : 1#14 <<< slot = BitVec.ofNat 14 (2 ^ slot) := by
  apply BitVec.eq_of_toNat_eq
  simp [BitVec.toNat_shiftLeft, Nat.shiftLeft_eq]

theorem State.stop_inBundle {s : State} (h : s.focus.inBundle = true) (cause info : Nat) : s.stop cause info =
    { s with focus := { s.focus with stops := s.focus.stops ++ [(s.focus.slot, cause, info)] } } :=
  if_pos h

/-- A stop of a slot run by itself that counts as done. -/
theorem State.stop_done {s : State} {cause : Nat} (h : s.focus.inBundle = false) (hc : cause = 4 ∨ cause = 5) (info : Nat) :
    s.stop cause info = s.takeStop s.focus.cell s.focus.ctx s.focus.pc s.focus.slot cause info
      (BitVec.ofNat 14 (2 ^ s.focus.slot)) := by
  rw [State.stop, if_neg (by rw [h]; decide), if_pos hc, doneSlot_eq]

theorem State.focus_takeStop (s : State) (c x pc slot cause info : Nat) (done : BitVec 14) :
    (s.takeStop c x pc slot cause info done).focus = s.focus := by
  have hfocus : (s.atStop c x pc slot cause info done).focus = s.focus :=
    (State.trace_keeps (s.modCtxOf c x fun t => t.closeWith (s.ctxOf c x).rwPerm) c 4 (some x) pc slot _ _).1.focus
  by_cases h : vectored cause = true ∧ (s.ctxOf c x).trapVec.getLsbD 0 = true
  · rw [State.takeStop_vectored pc slot info done h]
    exact hfocus
  · rw [State.takeStop_delivered pc slot info done h]
    exact hfocus

theorem State.ctx_eq_ctxOf {s t : State} (h : t.focus = s.focus) : t.ctx = t.ctxOf s.focus.cell s.focus.ctx := by
  rw [← h]
  rfl

theorem State.stop_enters {s : State} {cause info : Nat} (hb : s.focus.inBundle = false) (hc : cause = 4 ∨ cause = 5)
    (hslot : s.focus.slot < 14) (hinfo : info < 2 ^ 14) (h : vectored cause = true ∧ s.ctx.trapVec.getLsbD 0 = true) :
    EntersHandler s.ctx (s.stop cause info).ctx s.focus.pc s.focus.slot cause info (BitVec.ofNat 14 (2 ^ s.focus.slot)) := by
  rw [State.stop_done hb hc, State.ctx_eq_ctxOf (State.focus_takeStop ..)]
  exact (State.takeStop_enters s.focus.pc _ (by omega) (by omega) hinfo h).1

theorem State.stop_stops {s : State} {cause info : Nat} (hb : s.focus.inBundle = false) (hc : cause = 4 ∨ cause = 5)
    (hslot : s.focus.slot < 14) (hinfo : info < 2 ^ 14) (h : ¬(vectored cause = true ∧ s.ctx.trapVec.getLsbD 0 = true)) :
    StopsForDcp s.ctx (s.stop cause info).ctx s.focus.pc s.focus.slot cause info (BitVec.ofNat 14 (2 ^ s.focus.slot)) := by
  rw [State.stop_done hb hc, State.ctx_eq_ctxOf (State.focus_takeStop ..)]
  exact (State.takeStop_stops s.focus.pc _ (by omega) (by omega) hinfo h).1

/-- Settles O12: run by itself each stop is taken at once, within a bundle it is handed on. -/
theorem trapInstructions : Obligations.TrapInstructions := by
  intro s i hslot f done
  have hi := i.isLt
  exact ⟨fun hb hv => ⟨_, rfl, State.stop_enters hb (.inl rfl) hslot hi ⟨by decide, hv⟩⟩,
    fun hb hv => ⟨_, rfl, State.stop_stops hb (.inl rfl) hslot hi fun h => Bool.false_ne_true (hv.symm.trans h.2)⟩,
    fun hb => ⟨_, rfl, State.stop_stops hb (.inr rfl) hslot hi fun h => absurd h.1 (by decide)⟩,
    fun hb => ⟨⟨_, rfl, State.stop_inBundle hb ..⟩, ⟨_, rfl, State.stop_inBundle hb ..⟩⟩⟩

end Sys2Proof.Machine
end

section
/-! The return from a trap (R165) and the waits (R155-R158, R173). -/

namespace Sys2Proof.Machine
open Sys2Proof

/-! ## ERET -/

/-- The bundle to which a return goes has a present slot, and every present slot is done. -/
def Header.allDone (h : Header) (done : W64) : Bool := h.presence != 0 && (h.presence &&& ~~~(done.setWidth 14)) == 0

theorem Header.allDone_iff (h : Header) (done : W64) : Header.allDone h done = true ↔
    h.presence ≠ 0 ∧ ∀ j, j < 14 → h.presence.getLsbD j = true → done.getLsbD j = true := by
  have hbits : (h.presence &&& ~~~(done.setWidth 14)) = 0#14 ↔
      ∀ j, j < 14 → h.presence.getLsbD j = true → done.getLsbD j = true := by
    refine ⟨fun hz j hj hp => ?_, fun hall => BitVec.eq_of_getLsbD_eq fun j hj => ?_⟩
    · have hbit := congrArg (BitVec.getLsbD · j) hz
      simpa [hj, hp] using hbit
    · cases hp : h.presence.getLsbD j
      · simp [hp]
      · simp [hj, hall j hj hp]
  simp only [Header.allDone, Bool.and_eq_true, bne_iff_ne, beq_iff_eq]
  exact and_congr_right' hbits

/-- A bank after `ERET`, by the bank `w` that its bundle finds: past its bundle to `past` where that is all done. -/
def Ctx.returned (y w : Ctx) (skip : Bool) (past : Nat) : Ctx :=
  let mine := y.trapVec == w.trapVec && y.hidden == w.hidden
  { y with
    supervisor := w.trapCause.getLsbD 8
    trapVec := if mine then (w.trapVec &&& ~~~1#64) ||| (if w.hidden then 1 else 0) else y.trapVec
    hidden := if mine then false else y.hidden
    pc := if skip then past else w.trapPc.toNat
    doneMask := if skip && y.doneMask == w.doneMask then 0 else y.doneMask
    redo := !skip }

/-- The header to which a return goes. -/
def State.returnHeader (s : State) (c : Nat) (w : Ctx) : Header := decodeHeader (s.fetch c w.trapPc.toNat)

theorem State.returnFrom_eret (s : State) (c x : Nat) (w : Ctx) : s.returnFrom c x w true =
    s.modCtxOf c x fun y => y.returned w (Header.allDone (s.returnHeader c w) w.doneMask)
      (w.trapPc.toNat + Header.bytes (s.returnHeader c w)) := rfl

/-- `V` after a return: the hidden bit, and every other bit of `TRAP_VEC` as it was. -/
theorem getLsbD_vec_returned (v : W64) (b : Bool) (j : Nat) :
    ((v &&& ~~~1#64) ||| (if b then 1 else 0)).getLsbD j = if j = 0 then b else v.getLsbD j := by
  have hone : (1#64).getLsbD j = decide (j = 0) := by
    rw [BitVec.getLsbD_one]
    simp
  have hb : (if b then (1 : W64) else 0).getLsbD j = (b && decide (j = 0)) := by
    cases b
    · simp
    · simp
  rw [BitVec.getLsbD_or, BitVec.getLsbD_and, BitVec.getLsbD_not, hone, hb]
  by_cases h0 : j = 0
  · simp [h0]
  · by_cases hj : j < 64
    · simp [h0, hj]
    · simp [h0, BitVec.getLsbD_of_ge v j (by omega)]

/-- What a return leaves of the bank, where its bundle has not itself written `TRAP_VEC` and `DONE_MASK`. -/
theorem Ctx.returned_unwritten {y w : Ctx} (skip : Bool) (past : Nat) (hvec : y.trapVec = w.trapVec) (hhid : y.hidden = w.hidden)
    (hmask : y.doneMask = w.doneMask) :
    (y.returned w skip past).trapVec = (w.trapVec &&& ~~~1#64) ||| (if w.hidden then 1 else 0) ∧
    (y.returned w skip past).hidden = false ∧ (skip = true → (y.returned w skip past).doneMask = 0) := by
  simp only [Ctx.returned, hvec, hhid, hmask, beq_self_eq_true, Bool.and_true, if_true]
  exact ⟨trivial, trivial, fun h => if_pos h⟩

theorem exec_eret_user {s : State} (h : s.was.supervisor = false) : exec .eret s = .next (s.stop 0x03 0) :=
  congrArg Host.Outcome.next (if_neg (by rw [h]; decide))

/-- The bank after `ERET` in supervisor mode: returned, its windows closed. -/
theorem exec_eret_supervisor {s : State} (h : s.was.supervisor = true) :
    ∃ (t : State) (perm : W64), exec .eret s = .next t ∧
      t.ctx = (s.ctx.returned s.was (Header.allDone (s.returnHeader s.focus.cell s.was) s.was.doneMask)
        (s.was.trapPc.toNat + Header.bytes (s.returnHeader s.focus.cell s.was))).closeWith perm ∧ (∀ b, t.byte b = s.byte b) ∧
      ∀ c' x', ¬(c' = s.focus.cell ∧ x' = s.focus.ctx) → t.ctxOf c' x' = s.ctxOf c' x' := by
  refine ⟨_, (s.returnFrom s.focus.cell s.focus.ctx s.was true).was.rwPerm, congrArg Host.Outcome.next (if_pos h), ?_,
    fun _ => rfl, fun c' x' hne => ?_⟩
  · rw [State.closeWindow, State.ctx_modCtx, State.returnFrom_eret]
    exact congrArg (Ctx.closeWith · _) (State.ctx_modCtx s _)
  · exact (State.ctxOf_modCtxOf ..).trans ((if_neg hne).trans ((State.ctxOf_modCtxOf ..).trans (if_neg hne)))

/-- Settles O13: the bank after the return is `Ctx.returned`, by the CSRs as the bundle finds them. -/
theorem returnFromTrap : Obligations.ReturnFromTrap := by
  intro s x w a h all unwritten
  have hall : all ↔ Header.allDone h w.doneMask = true := (Header.allDone_iff h w.doneMask).symm
  refine ⟨fun hsup => ?_, fun huser => ⟨_, exec_eret_user huser, rfl⟩⟩
  obtain ⟨t, perm, hexec, hctx, hbytes, hothers⟩ := exec_eret_supervisor hsup
  refine ⟨t, hexec, ?_, fun hun => ?_, fun hdone => ?_, fun hleft => ?_, ?_, hbytes, hothers⟩
  · rw [hctx]
    rfl
  · obtain ⟨hvec, hhid, hmask⟩ := hun
    obtain ⟨hv, hh, hm⟩ := Ctx.returned_unwritten (Header.allDone h w.doneMask) (a + Header.bytes h) hvec hhid hmask
    rw [hctx]
    refine ⟨?_, hh, fun j hj => ?_, fun hdone => hm (hall.1 hdone)⟩
    · exact (congrArg (BitVec.getLsbD · 0) hv).trans (getLsbD_vec_returned ..)
    · exact ((congrArg (BitVec.getLsbD · j) hv).trans (getLsbD_vec_returned ..)).trans (if_neg (by omega))
  · have hskip : Header.allDone (s.returnHeader s.focus.cell s.was) s.was.doneMask = true := hall.1 hdone
    rw [hctx, hskip]
    exact ⟨rfl, rfl⟩
  · have hskip : Header.allDone (s.returnHeader s.focus.cell s.was) s.was.doneMask = false :=
      Bool.eq_false_iff.2 fun hd => hleft (hall.2 hd)
    rw [hctx, hskip]
    exact ⟨rfl, rfl, rfl⟩
  · rw [hctx]
    exact .refl _

/-! ## Waits -/

theorem State.giveUp_leaves (s : State) : s.giveUp.ctx = s.ctx ∧ s.giveUp.here.cur = none := by
  refine ⟨State.ctx_modHere rfl, ?_⟩
  rw [State.giveUp, State.here_modHere]

theorem State.waitFor_leaves (s : State) (h : Hold) :
    (s.waitFor h).ctx = { s.ctx with st := .waiting, hold := h } ∧ (s.waitFor h).here.cur = none ∧
    ∀ k, (s.waitFor h).byte k = s.byte k := by
  obtain ⟨hctx, hcur⟩ := (s.modCtx fun x => { x with st := .waiting, hold := h }).giveUp_leaves
  exact ⟨hctx.trans (State.ctx_modCtx ..), hcur, fun _ => rfl⟩

theorem extract_events_ne_zero (v : W64) : (v.extractLsb' 11 53 != 0) = true ↔ 2 ^ 11 ≤ v.toNat := by
  have hv := v.isLt
  rw [bne_iff_ne, ne_eq, ← BitVec.toNat_inj, BitVec.extractLsb'_toNat, Nat.shiftRight_eq_div_pow]
  show ¬v.toNat / 2 ^ 11 % 2 ^ 53 = 0 ↔ _
  omega

theorem extract_eventMask (v : W64) : v.extractLsb' 0 11 = v.setWidth 11 := by
  apply BitVec.eq_of_toNat_eq
  rw [BitVec.extractLsb'_toNat, Nat.shiftRight_zero, BitVec.toNat_setWidth]

/-- What lets WAITEV go on: an empty mask, or a pending event of it. -/
theorem waitev_goes_iff {v : W64} (w : W64) (hv : v.toNat < 2 ^ 11) :
    (v.setWidth 11 == 0 || (w.setWidth 11 &&& v.setWidth 11) != 0) = true ↔
      v = 0 ∨ ∃ j, j < 11 ∧ v.getLsbD j = true ∧ w.getLsbD j = true := by
  have hzero : v.setWidth 11 = 0#11 ↔ v = 0 := by
    rw [← BitVec.toNat_inj, ← BitVec.toNat_inj, BitVec.toNat_setWidth, Nat.mod_eq_of_lt hv]
    rfl
  have hmeet : w.setWidth 11 &&& v.setWidth 11 ≠ 0#11 ↔ ∃ j, j < 11 ∧ v.getLsbD j = true ∧ w.getLsbD j = true := by
    refine ⟨fun hne => ?_, fun ⟨j, hj, hvj, hwj⟩ hz => ?_⟩
    · by_contra hnone
      push Not at hnone
      refine hne (BitVec.eq_of_getLsbD_eq fun j hj => ?_)
      cases hvj : v.getLsbD j
      · simp [hvj]
      · simp [hj, hvj, hnone j hj hvj]
    · have hbit := congrArg (BitVec.getLsbD · j) hz
      simp [hj, hvj, hwj] at hbit
  simp only [Bool.or_eq_true, beq_iff_eq, bne_iff_ne]
  exact or_congr hzero hmeet

theorem execWaitev_reserved {s : State} {a : BitVec 6} (h : 2 ^ 11 ≤ (s.rs a).toNat) :
    execWaitev a s = .next (s.stop 0x02 5) :=
  congrArg Host.Outcome.next (if_pos ((extract_events_ne_zero _).2 h))

theorem execWaitev_eq {s : State} {a : BitVec 6} (h : (s.rs a).toNat < 2 ^ 11) : execWaitev a s = .next
    (if (s.rs a).setWidth 11 == 0 || (s.was.evWord.setWidth 11 &&& (s.rs a).setWidth 11) != 0 then s
      else s.waitFor (.event ((s.rs a).setWidth 11))) := by
  have hmask : ((s.rs a).extractLsb' 11 53 != 0) = false := Bool.eq_false_iff.2 (mt (extract_events_ne_zero _).1 (not_le.2 h))
  simp only [execWaitev, hmask, Bool.false_eq_true, if_false, extract_eventMask]

theorem xwaitHeld_iff (x : Ctx) (m : BitVec 6) :
    xwaitHeld x m = true ↔ ∃ e, e < 6 ∧ m.getLsbD e = true ∧ x.busy.get 0 e ≠ 0 := by
  simp only [xwaitHeld, Ctx.busyOn, List.any_eq_true, List.mem_range, Bool.and_eq_true, bne_iff_ne]

/-- Settles O14: each wait ends at once, holds or waits by its condition, as its bundle finds it. -/
theorem waits : Obligations.Waits := by
  intro s a m v waits pending
  refine ⟨⟨_, rfl, s.giveUp_leaves.1, s.giveUp_leaves.2, fun _ => rfl⟩, fun h => ⟨_, rfl, if_neg ?_⟩, fun h => ⟨_, rfl, ?_⟩,
    fun h => ⟨_, execWaitev_reserved h, rfl⟩, fun h hgo => ⟨_, execWaitev_eq h, if_pos ((waitev_goes_iff _ h).2 hgo)⟩,
    fun h hwait => ⟨_, execWaitev_eq h, ?_⟩, fun h => ⟨_, rfl, if_neg ?_⟩, fun h => ⟨_, rfl, ?_⟩⟩
  · rw [BitVec.ult_iff_lt]
    exact not_lt.2 h
  · rw [if_pos (BitVec.ult_iff_lt.2 h)]
    exact s.waitFor_leaves _
  · rw [if_neg (mt (waitev_goes_iff _ h).1 hwait)]
    exact s.waitFor_leaves _
  · rw [xwaitHeld_iff]
    exact fun ⟨e, he, hm, hbusy⟩ => hbusy (h e he hm)
  · rw [if_pos ((xwaitHeld_iff _ _).2 h)]
    obtain ⟨hst, hhold, hpc, hregs⟩ := s.block_holds (.engines m)
    exact ⟨hst, hhold, hpc, hregs, fun _ => rfl⟩

end Sys2Proof.Machine
end

section
/-! Busy flags, capture sets, marks, power and lane predicates (R173, R176-R180). -/

namespace Sys2Proof.Machine
open Sys2Proof

theorem Ctx.busyOn_eq (x : Ctx) (e : Nat) : x.busyOn e = decide (x.busy.get 0 e ≠ 0) := by
  rw [Ctx.busyOn, Bool.eq_iff_iff, bne_iff_ne, decide_eq_true_iff]

/-! ## Capture sets (R177) -/

theorem Ctx.cap_putCap (x : Ctx) (n : Nat) (k : CapSet) : (x.putCap n k).cap n = k := by
  rw [Ctx.cap, Ctx.putCap, Tab.get_ins, if_pos rfl]

theorem Ctx.putCap_registers (x : Ctx) (n : Nat) (k : CapSet) : SameRegisters x (x.putCap n k) := .refl _

theorem State.SameBanks.ctx {s t : State} (h : State.SameBanks s t) : t.ctx = s.ctx := by
  rw [State.ctx_eq_ctxOf h.focus, h.ctxOf]
  rfl

theorem State.stopCap_stopped {s : State} {n : Nat} (h : (s.ctx.cap n).running = false) (pc slot : Nat) :
    s.stopCap s.focus.cell s.focus.ctx n pc slot = s :=
  if_pos (congrArg Bool.not h)

theorem State.stopCap_running {s : State} {n : Nat} (h : (s.ctx.cap n).running = true) (pc slot : Nat) :
    (s.stopCap s.focus.cell s.focus.ctx n pc slot).ctx = s.ctx.putCap n { s.ctx.cap n with running := false } := by
  have hrun : ¬(!((s.ctxOf s.focus.cell s.focus.ctx).cap n).running) = true := by
    show ¬(!(s.ctx.cap n).running) = true
    rw [h]
    decide
  rw [State.stopCap]
  simp only [if_neg hrun]
  rw [(State.trace_keeps ..).1.ctx]
  exact State.ctx_modCtx s fun t => t.putCap n { s.ctx.cap n with running := false }

/-! ## Marks (R176, R458) -/

theorem State.trace_off {s : State} {c : Nat} (kind : Nat) (x : Option Nat) (pc slot : Nat) (d0 d1 : W64)
    (h : (s.cell c).trace.size = 0 ∨ (s.cell c).trace.mask.getLsbD (kind - 1) = false) :
    s.trace c kind x pc slot d0 d1 = s :=
  if_pos (h.imp_right fun hm => congrArg Bool.not hm)

/-- A record that the trace engine takes. -/
theorem State.trace_taken {s : State} {c : Nat} (kind : Nat) (x : Option Nat) (pc slot : Nat) (d0 d1 : W64)
    (hsize : (s.cell c).trace.size ≠ 0) (hmask : (s.cell c).trace.mask.getLsbD (kind - 1) = true)
    (hroom : (s.cell c).trace.pend.length < 64) :
    ((s.trace c kind x pc slot d0 d1).cell c).trace.pend =
      (s.cell c).trace.pend ++ [s.traceBytes c kind x pc slot d0 d1] := by
  have hon : ¬((s.cell c).trace.size = 0 ∨ (!(s.cell c).trace.mask.getLsbD (kind - 1)) = true) := by
    rw [hmask]
    exact fun h => h.elim hsize (by decide)
  rw [State.trace]
  simp only [if_neg hon, if_neg (not_le.2 hroom), State.cell_post, State.cell_modCell, if_true]

/-! ## Power (R178, R313) -/

theorem Ctx.hasAsked_iff (x : Ctx) (key : Nat) : x.hasAsked key = false ↔ ∀ r, r ∈ x.asked → r.1 ≠ key := by
  simp only [Ctx.hasAsked, List.any_eq_false, beq_iff_eq, ne_eq]

theorem powreqBad_iff (x : Ctx) (key : Nat) (u : BitVec 14) : powreqBad x key u = true ↔
    key ∉ x.granted ∧ (∀ r, r ∈ x.asked → r.1 ≠ key) ∧ 200 < x.wanted + u.toNat := by
  simp only [powreqBad, Bool.and_eq_true, decide_eq_true_eq, and_assoc]
  refine and_congr ?_ (and_congr ?_ Iff.rfl)
  · rw [Bool.not_eq_true', Bool.eq_false_iff, ne_eq, List.contains_iff_mem]
  · rw [Bool.not_eq_true', Ctx.hasAsked_iff]

theorem execPowreq_bad {s : State} {u : BitVec 14} (h : powreqBad s.was s.powKey u = true) :
    execPowreq u s = .next (s.stop 0x02 8) := congrArg Host.Outcome.next (if_pos h)

theorem execPowreq_granted {s : State} {u : BitVec 14} (h : s.powKey ∈ s.was.granted) :
    execPowreq u s = .next (s.modCtx fun x => { x with granted := x.granted.erase s.powKey }) :=
  congrArg Host.Outcome.next ((if_neg fun hbad => ((powreqBad_iff ..).1 hbad).1 h).trans
    (if_pos (List.contains_iff_mem.2 h)))

theorem execPowreq_held {s : State} {u : BitVec 14} (hbad : ¬powreqBad s.was s.powKey u = true) (h : s.powKey ∉ s.was.granted) :
    execPowreq u s = .next ((s.askPower u.toNat).block .power) :=
  congrArg Host.Outcome.next ((if_neg hbad).trans (if_neg (mt List.contains_iff_mem.1 h)))

/-- The bank of a held bundle. -/
theorem State.ctx_block (s : State) (h : Hold) : (s.block h).ctx = { s.ctx with
    st := .blocked, hold := h, heldAt := if s.ctx.hold = h then s.ctx.heldAt else s.cycle, pc := s.focus.pc } := by
  unfold State.block
  rw [State.ctx_modHere rfl, State.ctx_modCtx]

theorem State.ctx_modDie (s : State) (d : Nat) (f : Die → Die) : (s.modDie d f).ctx = s.ctx := rfl
theorem State.die_post (s : State) (i : Instr) (a : Args) (d : Nat) : (s.post i a).die d = s.die d := rfl
theorem State.die_modCtx (s : State) (f : Ctx → Ctx) (d : Nat) : (s.modCtx f).die d = s.die d := rfl
theorem State.die_block (s : State) (h : Hold) (d : Nat) : (s.block h).die d = s.die d := rfl

/-- A request made for the first time: it stands in the bank and at the die. -/
theorem State.askPower_asks {s : State} (u : Nat) (h : ∀ r, r ∈ s.ctx.asked → r.1 ≠ s.powKey) :
    (s.askPower u).ctx = { s.ctx with asked := s.ctx.asked ++ [(s.powKey, u)] } ∧
    ((s.askPower u).die (dieOf s.focus.cell)).powQueue =
      (s.die (dieOf s.focus.cell)).powQueue ++ [(s.focus.cell, s.focus.ctx, u)] ∧
    (s.askPower u).focus = s.focus ∧ (s.askPower u).mem = s.mem := by
  have hnew : ¬s.ctx.hasAsked s.powKey = true := by rw [(Ctx.hasAsked_iff ..).2 h]; decide
  rw [State.askPower, if_neg hnew]
  refine ⟨?_, ?_, rfl, rfl⟩
  · rw [State.ctx_post, State.ctx_modDie, State.ctx_modCtx]
  · rw [State.die_post, State.die_modDie, if_pos rfl, State.die_modCtx]

/-- Units given back: what the context holds is all that changes in its bank. -/
theorem State.releaseUnits_leaves (s : State) (n : Nat) :
    (s.releaseUnits s.focus.cell s.focus.ctx n).ctx = { s.ctx with grant := s.ctx.grant - n } ∧
    (s.releaseUnits s.focus.cell s.focus.ctx n).mem = s.mem := by
  have hctx : (s.modCtx fun t => { t with grant := t.grant - n }).ctx = { s.ctx with grant := s.ctx.grant - n } :=
    State.ctx_modCtx s _
  unfold State.releaseUnits
  split
  · next h => exact ⟨by rw [h]; rfl, rfl⟩
  · simp only
    split
    · exact ⟨hctx, rfl⟩
    · exact ⟨hctx, rfl⟩

theorem Ctx.violate_powrel (x : Ctx) (addr info : W64) : (x.violate kPowrel addr info).grant = x.grant ∧
    (x.violate kPowrel addr info).errSticky.getLsbD 6 = true := by
  have hfirst : (BitVec.ofNat 64 (2 ^ kPowrel)).getLsbD 6 = true := by decide
  have hmore : (BitVec.ofNat 64 (2 ^ kPowrel + 0x80)).getLsbD 6 = true := by decide
  unfold Ctx.violate
  split
  · exact ⟨rfl, hfirst⟩
  · exact ⟨rfl, (BitVec.getLsbD_or ..).trans (Bool.or_eq_true_iff.2 (.inr hmore))⟩

/-- A close on both engines: each goes to its next window, under one permission. -/
theorem Ctx.closeWith_eq (x : Ctx) (perm : W64) : x.closeWith perm = { x with
    window := (x.window.ins 0 (x.window.get 0 0 + 1)).ins 1 (x.window.get 0 1 + 1)
    rwPermClosed := (x.rwPermClosed.ins 0 perm).ins 1 perm } := by
  have h : (x.window.ins 0 (x.window.get 0 0 + 1)).get 0 1 = x.window.get 0 1 :=
    (Tab.get_ins ..).trans (if_neg (by decide))
  rw [Ctx.closeWith, Ctx.closeOn, Ctx.closeOn, h]

/-- POWREL returns its units, or all that are held with a violation. -/
theorem completes_powrel {s : State} (u : BitVec 14) (h : s.was.grant = s.ctx.grant) : Completes (.powrel u) s fun t =>
    t.ctx.grant = s.ctx.grant - u.toNat ∧ (s.ctx.grant < u.toNat → t.ctx.errSticky.getLsbD 6 = true) ∧
    SameRegisters s.ctx t.ctx ∧ ∀ b, t.byte b = s.byte b := by
  obtain ⟨hctx, hmem⟩ := s.releaseUnits_leaves (min u.toNat s.was.grant)
  have hgrant : s.ctx.grant - min u.toNat s.was.grant = s.ctx.grant - u.toNat := by rw [h]; omega
  refine ⟨_, rfl, ?_⟩
  simp only
  split
  · obtain ⟨hkeep, hbit⟩ := (s.releaseUnits s.focus.cell s.focus.ctx (min u.toNat s.was.grant)).ctx.violate_powrel 0
      (violInfo s.focus.pc s.focus.slot 0 false false false 0)
    rw [State.violate, State.ctx_modCtx]
    refine ⟨?_, fun _ => hbit, ?_, State.byte_of_mem hmem⟩
    · rw [hkeep, hctx]
      exact hgrant
    · refine .trans ?_ (Ctx.violate_registers ..)
      rw [hctx]
      exact .refl _
  · next hle =>
    rw [hctx]
    exact ⟨hgrant, fun hlt => absurd (h ▸ hlt) hle, .refl _, State.byte_of_mem hmem⟩

/-! ## Lane predicates (R180) -/

theorem qkey_inj (cl cl' q q' : BitVec 3) : qkey cl'.toNat q'.toNat = qkey cl.toNat q.toNat ↔ cl' = cl ∧ q' = q := by
  have := q.isLt
  have := q'.isLt
  rw [← BitVec.toNat_inj, ← BitVec.toNat_inj]
  unfold qkey
  omega

/-- A lane predicate other than q0 written; the others stand. -/
theorem Ctx.qr_ins {x y : Ctx} {cl q : BitVec 3} {v : BitVec 16} (h : y.q = x.q.ins (qkey cl.toNat q.toNat) v) (hq : q ≠ 0)
    (cl' q' : BitVec 3) :
    y.qr cl'.toNat q'.toNat = if cl' = cl ∧ q' = q then v else x.qr cl'.toNat q'.toNat := by
  unfold Ctx.qr
  rw [h, Tab.get_ins]
  simp only [qkey_inj]
  by_cases h0 : q'.toNat = 0
  · have hne : ¬(cl' = cl ∧ q' = q) := fun he => hq (he.2 ▸ BitVec.eq_of_toNat_eq h0)
    rw [if_pos h0, if_neg hne, if_pos h0]
  · rw [if_neg h0, if_neg h0]

/-- Settles O17: each instruction by the rule of what it changes. -/
theorem systemInstructions : Obligations.SystemInstructions := by
  intro s k e n a u cl q c tr key
  refine ⟨⟨_, rfl, s.was.busyOn_eq e.toNat ▸ s.wpair_writes _ k.isLt _⟩, ⟨_, rfl, ?_⟩, fun h => ⟨_, rfl, State.stopCap_stopped h ..⟩,
    fun h => ⟨_, rfl, ?_⟩, fun h => ⟨_, rfl, State.trace_off 1 _ _ _ _ _ h⟩,
    fun hsize hmask hroom => ⟨_, rfl, State.trace_taken 1 _ _ _ _ _ hsize hmask hroom, (State.trace_keeps ..).1.ctx⟩,
    ⟨_, rfl, State.modCtx_congr (Ctx.closeWith_eq ..)⟩, fun hnot hnew hover => ⟨_, execPowreq_bad ((powreqBad_iff ..).2 ⟨hnot, hnew, hover⟩), rfl⟩,
    fun hin => ⟨_, execPowreq_granted hin, rfl⟩, fun hnot hfits hnew => ⟨_, execPowreq_held ?_ hnot, ?_⟩,
    completes_powrel u, fun hq => ⟨_, rfl, ?_⟩, ⟨s, rfl, rfl⟩, ⟨s, rfl, rfl⟩, ⟨s, rfl, rfl⟩⟩
  · beta_reduce
    rw [State.ctx_modCtx]
    exact ⟨Ctx.cap_putCap .., Ctx.putCap_registers ..⟩
  · beta_reduce
    rw [State.stopCap_running h]
    exact ⟨Ctx.cap_putCap .., Ctx.putCap_registers ..⟩
  · exact fun hbad => absurd ((powreqBad_iff ..).1 hbad).2.2 (not_lt.2 hfits)
  · obtain ⟨hctx, hqueue, hfocus, hmem⟩ := State.askPower_asks u.toNat hnew
    rw [State.ctx_block, hctx, hfocus, State.die_block]
    exact ⟨rfl, rfl, rfl, rfl, hqueue, .refl _, State.byte_of_mem hmem⟩
  · beta_reduce
    rw [State.ctx_modCtx]
    exact ⟨Ctx.qr_ins rfl hq, rfl, rfl, rfl, fun _ => rfl⟩

end Sys2Proof.Machine
end

section
/-! `XLT` (R170): the awaited translation, its answer where the port-context entry has it, and the walk otherwise. -/

namespace Sys2Proof.Machine
open Sys2Proof

/-- The entry of the tensor in the port context of the cell's die. -/
def State.tensorOf (s : State) (tensor : Nat) := (s.die (dieOf s.focus.cell)).tensors.find? fun e => e.1 == tensor

/-- The outcome that a port-context entry of the cell gives an `XLT`. -/
def State.xltHit (s : State) (a b : BitVec 6) : Option XOut :=
  (s.tensorOf (bitsAt (s.rs a) 0 16)).bind fun e =>
    (e.2.layout (xltCoords (s.rs a) (s.rs b))).bind fun l =>
      (s.seen.portEntry (bitsAt (s.rs a) 0 16) l.1).map fun w => entryOut (some w) l.2

/-- What an `XLT` awaits. -/
def State.xltAwait (s : State) (d : BitVec 6) : Await :=
  ⟨s.here.nextId, .xlt, d.toNat, 0, 0, 3, false, true, 0, 0, 0, none, none, false, s.now⟩

/-- A bank with its awaited operations changed. -/
def Ctx.mapAwaits (f : Await → Await) (x : Ctx) : Ctx := { x with awaits := x.awaits.map f }

/-- The awaited operation numbered `id` with the outcome of its translation. -/
def Await.told (id : Nat) (o : XOut) (due : Nat) (w : Await) : Await :=
  if w.id = id then { w with answer := some (xltAnswer o), due := some due } else w

/-- The awaited operation numbered `id` as one that needs no walk. -/
def Await.hit (id : Nat) (w : Await) : Await := if w.id = id then { w with quick := true } else w

theorem bitsAt_eq_zero_iff (w : W64) : (bitsAt w 48 16 != 0) = false ↔ w.toNat < 2 ^ 48 := by
  have := w.isLt
  rw [bne_eq_false_iff_eq, bitsAt]
  omega

theorem execXlt_illegal {s : State} (d a : BitVec 6) {b : BitVec 6} (h : 2 ^ 48 ≤ (s.rs b).toNat) :
    execXlt d a b s = .next (s.stop 0x02 6) :=
  congrArg Host.Outcome.next (if_pos (Bool.of_not_eq_false fun hz => absurd ((bitsAt_eq_zero_iff _).1 hz) (not_lt.2 h)))

theorem execXlt_held {s : State} (d a : BitVec 6) {b : BitVec 6} (h : (s.rs b).toNat < 2 ^ 48)
    (hheld : s.recordHeld s.focus.cell s.focus.ctx 15 = true) : execXlt d a b s = .next (s.block .record) := by
  simp only [execXlt, (bitsAt_eq_zero_iff _).2 h, hheld, Bool.false_eq_true, if_false, if_true]

/-- A request that no port-context entry answers goes to the walkers. -/
theorem execXlt_walks {s : State} (d : BitVec 6) {a b : BitVec 6} (h : (s.rs b).toNat < 2 ^ 48)
    (hfree : s.recordHeld s.focus.cell s.focus.ctx 15 = false) (hmiss : s.xltHit a b = none) :
    execXlt d a b s = .next (((s.awaiting (s.xltAwait d)).modDie (dieOf s.focus.cell) fun k =>
      { k with walks := k.walks ++ [⟨s.focus.cell, s.focus.ctx, s.here.nextId, s.rs a, s.rs b, none, none⟩] }).post
        .walkerTranslate { Args.empty with die := dieOf s.focus.cell }) := by
  rw [State.xltHit, State.tensorOf] at hmiss
  simp only [execXlt, (bitsAt_eq_zero_iff _).2 h, hfree, hmiss, Bool.false_eq_true, if_false]
  rfl

/-- A request that one answers: the fault record of a bad entry, and the answer for four cycles on. -/
theorem execXlt_answered {s : State} (d : BitVec 6) {a b : BitVec 6} {o : XOut} (h : (s.rs b).toNat < 2 ^ 48)
    (hfree : s.recordHeld s.focus.cell s.focus.ctx 15 = false) (hhit : s.xltHit a b = some o) :
    ∃ v : State, (v = s.awaiting (s.xltAwait d) ∨ ∃ w2 w3, v = (s.awaiting (s.xltAwait d)).postFault s.focus.cell s.focus.ctx 2 15
        false (bitsAt (s.rs a) 0 16) w2 w3) ∧
      execXlt d a b s = .next ((v.xltDone s.focus.cell s.focus.ctx s.here.nextId o (v.now + 4)).modCtx (Ctx.mapAwaits (Await.hit s.here.nextId))) := by
  rw [State.xltHit, State.tensorOf] at hhit
  by_cases ho : o = .fail xBadEntry
  · refine ⟨_, .inr ⟨BitVec.ofNat 64 (((s.tensorOf (bitsAt (s.rs a) 0 16)).bind fun e =>
      e.2.layout (xltCoords (s.rs a) (s.rs b))).elim 0 Prod.fst), 0, rfl⟩, ?_⟩
    simp only [execXlt, (bitsAt_eq_zero_iff _).2 h, hfree, hhit, ho, Bool.false_eq_true, if_false, if_true]
    rfl
  · refine ⟨_, .inl rfl, ?_⟩
    simp only [execXlt, (bitsAt_eq_zero_iff _).2 h, hfree, hhit, ho, Bool.false_eq_true, if_false]
    rfl

/-- The answer of an awaited operation of the issuing context. -/
theorem State.xltDone_here {v : State} {w : Await} (hw : w ∈ v.ctx.awaits) (o : XOut) (due : Nat) :
    v.xltDone v.focus.cell v.focus.ctx w.id o due = v.modCtx (Ctx.mapAwaits (Await.told w.id o due)) :=
  have hany : (v.ctx.awaits.any fun e => e.id == w.id) = true := List.any_eq_true.2 ⟨w, hw, beq_self_eq_true _⟩
  if_pos hany

theorem State.now_awaiting (s : State) (w : Await) : (s.awaiting w).now = s.now :=
  (State.clock_modCell (fun _ => by rfl) _ _ _).trans (State.clock_modCell (fun _ => by rfl) s _ _)

theorem State.now_postFault (s : State) (c x kind src : Nat) (held : Bool) (tensor : Nat) (w2 w3 : W64) :
    (s.postFault c x kind src held tensor w2 w3).now = s.now := rfl

/-- What an answered `XLT` leaves: the outcome under its number, and the registers. -/
theorem State.xltAnswered_awaits {s v : State} {d : BitVec 6} (o : XOut) (hctx : v.ctx = (s.awaiting (s.xltAwait d)).ctx)
    (hfocus : v.focus = s.focus) (due : Nat) {t : State}
    (ht : t = (v.xltDone s.focus.cell s.focus.ctx s.here.nextId o due).modCtx (Ctx.mapAwaits (Await.hit s.here.nextId))) :
    { s.xltAwait d with answer := some (xltAnswer o), due := some due, quick := true } ∈ t.ctx.awaits ∧
    SameRegisters s.ctx t.ctx ∧ t.mem = v.mem := by
  have hmem : s.xltAwait d ∈ v.ctx.awaits := by
    rw [hctx, State.ctx_awaiting]
    exact List.mem_append_right _ (List.mem_singleton.2 rfl)
  have hdone := State.xltDone_here hmem o due
  rw [hfocus, show (s.xltAwait d).id = s.here.nextId from rfl] at hdone
  rw [hdone, State.modCtx_modCtx] at ht
  have hafter : t.ctx = (v.ctx.mapAwaits (Await.told s.here.nextId o due)).mapAwaits (Await.hit s.here.nextId) := by
    rw [ht, State.ctx_modCtx]
  refine ⟨?_, ?_, by rw [ht]; rfl⟩
  · rw [hafter]
    exact List.mem_map.2 ⟨_, List.mem_map.2 ⟨_, hmem, if_pos rfl⟩, if_pos rfl⟩
  · rw [hafter, hctx, State.ctx_awaiting]
    exact .refl _

/-- Settles O19: the operation awaited, and its answer where the port-context entry has one. -/
theorem translationRequest : Obligations.TranslationRequest := by
  intro s d a b c id tensor hit awaits
  have htensor : bitsAt (s.rs a) 0 16 = tensor := by simp [bitsAt, tensor]
  have hhit : s.xltHit a b = hit := by rw [State.xltHit, State.tensorOf, htensor]; rfl
  have hawait {o : XOut} {ans} (hans : xltAnswer o = ans) (h : (s.rs b).toNat < 2 ^ 48)
      (hfree : s.recordHeld c s.focus.ctx 15 = false) (hsome : s.xltHit a b = some o) :
      Completes (.xlt d a b) s fun t => awaits t (some ans) (some (s.now + 4)) := by
    obtain ⟨v, hv, hexec⟩ := execXlt_answered d h hfree hsome
    have hkeep : v.ctx = (s.awaiting (s.xltAwait d)).ctx ∧ v.focus = s.focus ∧ v.mem = s.mem ∧ v.now = s.now := by
      obtain rfl | ⟨w2, w3, rfl⟩ := hv
      · exact ⟨rfl, rfl, rfl, State.now_awaiting ..⟩
      · exact ⟨rfl, rfl, rfl, (State.now_postFault ..).trans (State.now_awaiting ..)⟩
    obtain ⟨hctx, hfocus, hmem, hnow⟩ := hkeep
    obtain ⟨hin, hregs, hbytes⟩ := State.xltAnswered_awaits o hctx hfocus (v.now + 4) rfl
    refine ⟨_, hexec, ⟨_, hin, rfl, rfl, rfl, congrArg some hans, ?_⟩, hregs, fun k => ?_⟩
    · exact congrArg (fun n => some (n + 4)) hnow
    · exact congrArg (Tab.get memDefault · k) (hbytes.trans hmem)
  refine ⟨fun h => ⟨_, execXlt_illegal d a h, rfl⟩, fun h hheld => ?_, fun h hfree => ?_⟩
  · obtain ⟨hst, hhold, hpc, hregs⟩ := s.block_holds .record
    exact ⟨_, execXlt_held d a h hheld, hst, hhold, hpc, hregs, fun _ => rfl⟩
  · clear_value hit
    cases hit with
    | none =>
      have hctx := s.ctx_awaiting (s.xltAwait d)
      refine ⟨_, execXlt_walks d h hfree hhit, ⟨⟨s.xltAwait d, ?_, rfl, rfl, rfl, rfl, rfl⟩, ?_, fun _ => rfl⟩, ?_⟩
      · exact (congrArg Ctx.awaits hctx).symm ▸ List.mem_append_right _ (List.mem_singleton.2 rfl)
      · exact hctx.symm ▸ .refl _
      · rw [State.die_post, State.die_modDie, if_pos (show c / 256 = dieOf s.focus.cell from rfl)]
        exact List.mem_append_right _ (List.mem_singleton.2 rfl)
    | some o =>
      cases o with
      | ok v => exact hawait rfl h hfree hhit
      | fail n => exact hawait rfl h hfree hhit

end Sys2Proof.Machine
end

section
/-! `XCMD` (R172, R263): what its words must be for each engine, and the four outcomes of its issue. -/

namespace Sys2Proof.Machine
open Sys2Proof

/-! ## Bits of a command word -/

theorem and_not_eq_zero_iff (w m : W64) : w &&& ~~~m = 0 ↔ w &&& m = w := by
  simp only [BitVec.eq_of_getLsbD_eq_iff, BitVec.getLsbD_and, BitVec.getLsbD_not]
  grind

theorem and_low_eq_self_iff (w : W64) {k : Nat} (hk : k < 64) : w &&& BitVec.ofNat 64 (2 ^ k - 1) = w ↔ w.toNat < 2 ^ k := by
  have hpow : 2 ^ k < 2 ^ 64 := Nat.pow_lt_pow_right (by decide) hk
  rw [← BitVec.toNat_inj, BitVec.toNat_and, BitVec.toNat_ofNat, Nat.mod_eq_of_lt (by omega), Nat.and_two_pow_sub_one_eq_mod,
    Nat.mod_eq_iff_lt (by positivity)]

/-- A word 0 with no field beside its code. -/
theorem bare_iff (w : W64) {k : Nat} (hk : k < 256) : w = BitVec.ofNat 64 k ↔ w.toNat < 256 ∧ w.toNat % 256 = k := by
  rw [← BitVec.toNat_inj, BitVec.toNat_ofNat]
  omega

/-- The last code of an engine (R263). -/
def lastCode (e : Nat) : Nat := if e = 2 ∨ e = 4 then 2 else if e = 5 then 1 else 3

theorem codeOk_iff {e : Nat} (he : e < 6) (code : Nat) : codeOk e code = true ↔ ¬(code = 0 ∨ lastCode e < code) := by
  have hlast : codeOk e code = (decide (1 ≤ code) && decide (code ≤ lastCode e)) := by interval_cases e <;> rfl
  rw [hlast, Bool.and_eq_true, decide_eq_true_eq, decide_eq_true_eq]
  omega

/-- Where a descriptor of `n` bytes may lie in the scratch of a cell. -/
def InScratch (c : Nat) (w : W64) (n align : Nat) : Prop :=
  w.toNat % align = 0 ∧ w.toNat + n ≤ if c / 256 % 2 = 1 then 0x100000 else 0x200000

theorem placeOk_iff (c : Nat) (w : W64) (n align : Nat) : placeOk c w n align = true ↔ InScratch c w n align := by
  simp [placeOk, inScratch, spaceSize, isC, dieOf, InScratch]

/-! ## The words of each engine -/

/-- Whether a word 0 has only the fields of a mask beside its code. -/
def Fits (w mask : W64) : Prop := (w &&& ~~~(mask ||| 0xFF) == 0) = true

theorem fits_iff (w mask : W64) : Fits w mask ↔ w &&& (mask ||| 0xFF) = w := by
  rw [Fits, beq_iff_eq, and_not_eq_zero_iff]

theorem fits_iff_lt (w : W64) {mask : W64} (k : Nat) (hk : k < 64) (hmask : mask ||| 0xFF = BitVec.ofNat 64 (2 ^ k - 1)) :
    Fits w mask ↔ w.toNat < 2 ^ k := by
  rw [fits_iff, hmask, and_low_eq_self_iff w hk]

theorem fits_bare (w : W64) : Fits w 0 ↔ w.toNat < 256 := fits_iff_lt w 8 (by decide) rfl

/-- The words of a command are good where word 0 fits its mask and the rest of its row holds. -/
theorem State.xcmdOk_iff {s : State} {e : Nat} {w0 w1 mask : W64} (rest : Bool)
    (hrow : s.xcmdOk e w0 w1 = ((w0 &&& ~~~(mask ||| 0xFF)) == 0 && rest)) :
    s.xcmdOk e w0 w1 = true ↔ Fits w0 mask ∧ rest = true := by
  rw [hrow, Bool.and_eq_true, Fits]

/-- The same for a command with no field in word 0. -/
theorem State.xcmdOk_bare {s : State} {e : Nat} {w0 w1 : W64} (rest : Bool)
    (hrow : s.xcmdOk e w0 w1 = ((w0 &&& ~~~(0 ||| 0xFF)) == 0 && rest)) :
    s.xcmdOk e w0 w1 = true ↔ w0.toNat < 256 ∧ rest = true := by
  rw [State.xcmdOk_iff rest hrow, fits_bare]

section
variable {s : State} {w0 w1 : W64}

theorem State.xcmdOk_copy : s.xcmdOk 0 w0 w1 = true ↔ w0.toNat < 256 ∧ InScratch s.focus.cell w1 32 32 := by
  rw [State.xcmdOk_bare (placeOk s.focus.cell w1 32 32) (by unfold State.xcmdOk; rfl), placeOk_iff]

theorem State.xcmdOk_seqdef (hcode : w0.toNat % 256 = 1) :
    s.xcmdOk 1 w0 w1 = true ↔ w0.toNat < 256 ∧ InScratch s.focus.cell w1 64 64 := by
  rw [State.xcmdOk_bare (placeOk s.focus.cell w1 64 64) (by unfold State.xcmdOk; simp only [hcode]; rfl), placeOk_iff]

theorem State.xcmdOk_seqcond (hcode : w0.toNat % 256 = 2) :
    s.xcmdOk 1 w0 w1 = true ↔ w0.toNat < 16 * 256 ∧ w1.toNat < 2 := by
  rw [State.xcmdOk_iff (mask := 0xF00) (decide (w1.toNat < 2)) (by unfold State.xcmdOk; simp only [hcode]; rfl), decide_eq_true_eq,
    fits_iff_lt w0 12 (by decide) rfl]
  rfl

theorem State.xcmdOk_seqstop (hcode : w0.toNat % 256 = 3) : s.xcmdOk 1 w0 w1 = true ↔ w0.toNat < 16 * 256 := by
  rw [State.xcmdOk_iff (mask := 0xF00) true (by unfold State.xcmdOk; simp only [hcode]; rfl), fits_iff_lt w0 12 (by decide) rfl]
  exact and_iff_left rfl

theorem State.xcmdOk_grpdef (hcode : w0.toNat % 256 = 1) :
    s.xcmdOk 2 w0 w1 = true ↔ w0.toNat < 256 ∧ InScratch s.focus.cell w1 16 8 := by
  rw [State.xcmdOk_bare (placeOk s.focus.cell w1 16 8) (by unfold State.xcmdOk; simp only [hcode]; rfl), placeOk_iff]

theorem State.xcmdOk_grpabort (hcode : w0.toNat % 256 = 2) : s.xcmdOk 2 w0 w1 = true ↔ w0.toNat < 256 * 256 := by
  rw [State.xcmdOk_iff (mask := 0xFF00) true (by unfold State.xcmdOk; simp only [hcode]; rfl), fits_iff_lt w0 16 (by decide) rfl]
  exact and_iff_left rfl

theorem State.xcmdOk_hpair (hcode : w0.toNat % 256 = 1) :
    s.xcmdOk 3 w0 w1 = true ↔ w0 &&& 0xFFF7FF = w0 ∧ s.hpairOk s.focus.cell w0 w1 = true := by
  rw [State.xcmdOk_iff (mask := 0xFFF700) (s.hpairOk s.focus.cell w0 w1) (by unfold State.xcmdOk; simp only [hcode]; rfl), fits_iff]
  rfl

theorem State.xcmdOk_hpennant (hcode : w0.toNat % 256 = 2) : s.xcmdOk 3 w0 w1 = true ↔ w0.toNat < 256 ∧ w1 = 0 := by
  rw [State.xcmdOk_bare (w1 == 0) (by unfold State.xcmdOk; simp only [hcode]; rfl), beq_iff_eq]

theorem State.xcmdOk_hstat (hcode : w0.toNat % 256 = 3) :
    s.xcmdOk 3 w0 w1 = true ↔ w0.toNat < 256 ∧ InScratch s.focus.cell w1 32 32 := by
  rw [State.xcmdOk_bare (placeOk s.focus.cell w1 32 32) (by unfold State.xcmdOk; simp only [hcode]; rfl), placeOk_iff]

theorem State.xcmdOk_trcfg (hcode : w0.toNat % 256 = 1) :
    s.xcmdOk 4 w0 w1 = true ↔ w0.toNat < 2 ^ 40 ∧ w0.toNat / 2 ^ 16 ≠ 0 ∧ aSpace w1 = 1 ∧
      s.accessFault ⟨w1, 4096 * (w0.toNat / 2 ^ 16), 4096, true, false, false, true, true⟩ = none := by
  rw [State.xcmdOk_iff (mask := 0xFFFFFFFF00) (bitsAt w0 16 24 != 0 && aSpace w1 == 1 &&
    (s.accessFault ⟨w1, 4096 * bitsAt w0 16 24, 4096, true, false, false, true, true⟩).isNone)
    (by unfold State.xcmdOk; simp only [hcode]; rfl), fits_iff_lt w0 40 (by decide) rfl]
  refine and_congr_right fun hlt => ?_
  have hsize : bitsAt w0 16 24 = w0.toNat / 2 ^ 16 := Nat.mod_eq_of_lt (by omega)
  simp only [hsize, Bool.and_eq_true, bne_iff_ne, beq_iff_eq, Option.isNone_iff_eq_none, and_assoc]

theorem State.xcmdOk_trflush (hcode : w0.toNat % 256 = 2) :
    s.xcmdOk 4 w0 w1 = true ↔ w0.toNat < 256 ∧ (w1 = 0 ∨ s.objError w1 8 8 = none) := by
  rw [State.xcmdOk_bare (w1 == 0 || (s.objError w1 8 8).isNone) (by unfold State.xcmdOk; simp only [hcode]; rfl), Bool.or_eq_true,
    beq_iff_eq, Option.isNone_iff_eq_none]

theorem State.xcmdOk_enq (hcode : w0.toNat % 256 = 1) :
    s.xcmdOk 5 w0 w1 = true ↔
      w0 &&& 0xFFFF03FF = w0 ∧ (s.was.supervisor = true ∨ s.was.prio.toNat ≤ w0.toNat / 256 % 4) := by
  rw [State.xcmdOk_iff (mask := 0xFFFF0300) (s.was.supervisor || decide (s.was.prio.toNat ≤ bitsAt w0 8 2))
    (by unfold State.xcmdOk; simp only [hcode]; rfl), fits_iff, Bool.or_eq_true, decide_eq_true_eq]
  rfl

/-- The rows of R263 to R275: which words an engine takes. -/
def State.GoodWords (s : State) (e : Nat) (w0 w1 : W64) : Prop :=
  let code := w0.toNat % 256
  let place := InScratch s.focus.cell w1
  (e = 0 ∧ w0.toNat < 256 ∧ place 32 32) ∨
  (e = 1 ∧ w0 = 1 ∧ place 64 64) ∨
  (e = 1 ∧ code = 2 ∧ w0.toNat < 16 * 256 ∧ w1.toNat < 2) ∨ (e = 1 ∧ code = 3 ∧ w0.toNat < 16 * 256) ∨
  (e = 2 ∧ w0 = 1 ∧ place 16 8) ∨ (e = 2 ∧ code = 2 ∧ w0.toNat < 256 * 256) ∨
  (e = 3 ∧ code = 1 ∧ w0 &&& 0xFFF7FF = w0 ∧ s.hpairOk s.focus.cell w0 w1 = true) ∨ (e = 3 ∧ w0 = 2 ∧ w1 = 0) ∨
  (e = 3 ∧ w0 = 3 ∧ place 32 32) ∨ (e = 4 ∧ w0 = 2 ∧ (w1 = 0 ∨ s.objError w1 8 8 = none)) ∨
  (e = 4 ∧ code = 1 ∧ w0.toNat < 2 ^ 40 ∧ w0.toNat / 2 ^ 16 ≠ 0 ∧ aSpace w1 = 1 ∧
    s.accessFault ⟨w1, 4096 * (w0.toNat / 2 ^ 16), 4096, true, false, false, true, true⟩ = none) ∨
  (e = 5 ∧ code = 1 ∧ w0 &&& 0xFFFF03FF = w0 ∧ (s.was.supervisor = true ∨ s.was.prio.toNat ≤ w0.toNat / 256 % 4))

theorem codeOk_cases {e code : Nat} (he : e < 6) (h : codeOk e code = true) : e = 0 ∨
    (e = 1 ∧ (code = 1 ∨ code = 2 ∨ code = 3)) ∨ (e = 2 ∧ (code = 1 ∨ code = 2)) ∨
    (e = 3 ∧ (code = 1 ∨ code = 2 ∨ code = 3)) ∨ (e = 4 ∧ (code = 1 ∨ code = 2)) ∨ (e = 5 ∧ code = 1) := by
  rw [codeOk_iff he] at h
  interval_cases e <;> simp [lastCode] at h <;> omega

/-- The check of the words is that of the rows. -/
theorem State.xcmdOk_iff_goodWords {e : Nat} (he : e < 6) (hcode : codeOk e (w0.toNat % 256) = true) :
    s.xcmdOk e w0 w1 = true ↔ s.GoodWords e w0 w1 := by
  have hone : w0 = 1 ↔ w0.toNat < 256 ∧ w0.toNat % 256 = 1 := bare_iff w0 (by decide)
  have htwo : w0 = 2 ↔ w0.toNat < 256 ∧ w0.toNat % 256 = 2 := bare_iff w0 (by decide)
  have hthree : w0 = 3 ↔ w0.toNat < 256 ∧ w0.toNat % 256 = 3 := bare_iff w0 (by decide)
  simp only [State.GoodWords, hone, htwo, hthree]
  obtain rfl | ⟨rfl, h | h | h⟩ | ⟨rfl, h | h⟩ | ⟨rfl, h | h | h⟩ | ⟨rfl, h | h⟩ | ⟨rfl, h⟩ := codeOk_cases he hcode
  · simp [State.xcmdOk_copy]
  · simp [State.xcmdOk_seqdef h, h]
  · simp [State.xcmdOk_seqcond h, h]
  · simp [State.xcmdOk_seqstop h, h]
  · simp [State.xcmdOk_grpdef h, h]
  · simp [State.xcmdOk_grpabort h, h]
  · simp [State.xcmdOk_hpair h, h]
  · simp [State.xcmdOk_hpennant h, h]
  · simp [State.xcmdOk_hstat h, h]
  · simp [State.xcmdOk_trcfg h, h]
  · simp [State.xcmdOk_trflush h, h]
  · simp [State.xcmdOk_enq h, h]

end

/-! ## The outcomes of an issue -/

/-- A command as it enters its queue. -/
def State.command (s : State) (w0 w1 : W64) : Cmd :=
  ⟨s.here.nextId, s.focus.ctx, s.ctx.task, s.was.prio.toNat, s.was.supervisor, w0, w1, none, none⟩

/-- The issuing cell with a command numbered and at the end of its queue. -/
def State.queues (s : State) (e : Nat) (m : Cmd) : State :=
  (s.modHere fun k => { k with nextId := k.nextId + 1 }).modQueue s.focus.cell e fun q => q ++ [m]

/-- A bank with one more unfinished command of an engine. -/
def Ctx.counts (e : Nat) (x : Ctx) : Ctx := { x with busy := x.busy.ins e (x.busy.get 0 e + 1) }

/-- The state after a command has entered the queue of its engine. -/
def State.enqueues (s : State) (e : Nat) (m : Cmd) : State :=
  ((s.queues e m).modCtx fun x => x.counts e).post
    (if e = 0 then .copyComplete else .engineCommandComplete) { Args.empty with c := s.focus.cell, e := e }

section
variable {s : State} {e : Nat} {a b : BitVec 6}

theorem State.xcmd_full (h : engineDepth e ≤ (s.here.queue e).length) : s.xcmd e a b = s.block (.engine e) := by
  rw [State.xcmd, State.xcmdHold, if_pos h]

theorem State.xcmd_tokens (hroom : (s.here.queue e).length < engineDepth e)
    (h : e = 1 ∧ (s.rs a).toNat % 256 = 2 ∧ 8 ≤ s.here.tokensHeld (bitsAt (s.rs a) 8 4)) :
    s.xcmd e a b = s.block (.tokens (bitsAt (s.rs a) 8 4)) := by
  rw [State.xcmd, State.xcmdHold, if_neg (not_le.2 hroom), if_pos h]

/-- A command that nothing holds is checked, and enters its queue. -/
theorem State.xcmd_free (hroom : (s.here.queue e).length < engineDepth e)
    (h : ¬(e = 1 ∧ (s.rs a).toNat % 256 = 2 ∧ 8 ≤ s.here.tokensHeld (bitsAt (s.rs a) 8 4))) :
    s.xcmd e a b = if codeOk e ((s.rs a).toNat % 256) = true then
      if s.xcmdOk e (s.rs a) (s.rs b) = true then s.enqueues e (s.command (s.rs a) (s.rs b)) else s.stop 0x02 43
      else s.stop 0x02 7 := by
  rw [State.xcmd, State.xcmdHold, if_neg (not_le.2 hroom), if_neg h]
  cases codeOk e ((s.rs a).toNat % 256) <;> cases s.xcmdOk e (s.rs a) (s.rs b) <;>
    simp [State.illegal, State.enqueues, State.queues, Ctx.counts, State.command]

end

theorem State.here_queues (s : State) (e : Nat) (m : Cmd) : (s.queues e m).here =
    { s.here with nextId := s.here.nextId + 1, engines := s.here.engines.ins e (s.here.queue e ++ [m]) } := by
  show ((s.modHere _).modHere _).here = _
  rw [State.here_modHere, State.here_modHere]
  rfl

theorem State.here_modCtx (s : State) (f : Ctx → Ctx) : (s.modCtx f).here = s.here.putCtx s.focus.ctx (f s.ctx) := by
  show (s.modCell _ _).cell _ = _
  rw [State.cell_modCell]
  exact if_pos rfl

theorem State.here_post (s : State) (i : Instr) (x : Args) : (s.post i x).here = s.here := rfl

theorem State.ctx_queues (s : State) (e : Nat) (m : Cmd) : (s.queues e m).ctx = s.ctx := by
  show (s.queues e m).here.ctx s.focus.ctx = _
  rw [State.here_queues]
  rfl

theorem State.ctx_enqueues (s : State) (e : Nat) (m : Cmd) : (s.enqueues e m).ctx = s.ctx.counts e := by
  rw [State.enqueues, State.ctx_post, State.ctx_modCtx, State.ctx_queues]

theorem State.here_enqueues (s : State) (e : Nat) (m : Cmd) :
    (s.enqueues e m).here.queue e = s.here.queue e ++ [m] ∧ (s.enqueues e m).here.nextId = s.here.nextId + 1 := by
  rw [State.enqueues, State.here_post, State.here_modCtx, State.here_queues]
  exact ⟨(Tab.get_ins ..).trans (if_pos rfl), rfl⟩

theorem Ctx.busy_counts (e : Nat) (x : Ctx) : (x.counts e).busy.get 0 e = x.busy.get 0 e + 1 :=
  (Tab.get_ins ..).trans (if_pos rfl)

theorem Ctx.counts_registers (e : Nat) (x : Ctx) : SameRegisters x (x.counts e) := .refl _

/-! ## The rule of an issue -/

/-- What an engine takes as a command, and what happens otherwise. -/
theorem completes_xcmd {i : Instr} {s : State} {e : Nat} {a b : BitVec 6} (he : e < 6)
    (hexec : exec i s = .next (s.xcmd e a b)) :
    let w0 := s.rs a
    let code := w0.toNat % 256
    let tokens : Prop := e = 1 ∧ code = 2 ∧ 8 ≤ s.here.tokensHeld (w0.toNat / 256 % 16)
    (engineDepth e ≤ (s.here.queue e).length → Completes i s (· = s.block (.engine e))) ∧
    ((s.here.queue e).length < engineDepth e →
      (tokens → Completes i s (· = s.block (.tokens (w0.toNat / 256 % 16)))) ∧
      (¬tokens → code = 0 ∨ lastCode e < code → Completes i s (· = s.stop 0x02 7)) ∧
      (¬tokens → ¬(code = 0 ∨ lastCode e < code) → s.GoodWords e w0 (s.rs b) →
        Completes i s (· = s.enqueues e (s.command w0 (s.rs b)))) ∧
      (¬tokens → ¬(code = 0 ∨ lastCode e < code) → ¬s.GoodWords e w0 (s.rs b) → Completes i s (· = s.stop 0x02 43))) := by
  intro w0 code tokens
  have hcode := codeOk_iff he code
  refine ⟨fun hfull => ⟨_, hexec, State.xcmd_full hfull⟩, fun hroom => ?_⟩
  refine ⟨fun htok => ⟨_, hexec, State.xcmd_tokens hroom htok⟩, fun hfree hbad => ⟨_, hexec, ?_⟩,
    fun hfree hok hgood => ⟨_, hexec, ?_⟩, fun hfree hok hgood => ⟨_, hexec, ?_⟩⟩
  · rw [State.xcmd_free hroom hfree, if_neg fun h => hcode.1 h hbad]
  · rw [State.xcmd_free hroom hfree, if_pos (hcode.2 hok), if_pos ((State.xcmdOk_iff_goodWords he (hcode.2 hok)).2 hgood)]
  · rw [State.xcmd_free hroom hfree, if_pos (hcode.2 hok),
      if_neg fun h => hgood ((State.xcmdOk_iff_goodWords he (hcode.2 hok)).1 h)]

/-- Settles O44: each engine takes the words of its rows, and refuses the others. -/
theorem engineCommands : Obligations.EngineCommands := by
  intro s a b c scratch place done cmd x y
  have hcmd {i : Instr} {e : Nat} {p q : BitVec 6} (he : e < 6) (hexec : exec i s = .next (s.xcmd e p q)) :
      cmd i e (s.rs p) (s.rs q) := by
    obtain ⟨hfull, hroom⟩ := completes_xcmd he hexec
    refine ⟨hfull, fun h => ?_⟩
    obtain ⟨htok, hbad, hgood, hwords⟩ := hroom h
    refine ⟨htok, hbad, fun hfree hok hvalid => ?_, hwords⟩
    obtain ⟨_, hnext, rfl⟩ := hgood hfree hok hvalid
    obtain ⟨hqueue, hid⟩ := s.here_enqueues e (s.command (s.rs p) (s.rs q))
    have hctx := s.ctx_enqueues e (s.command (s.rs p) (s.rs q))
    exact ⟨_, hnext, hqueue, hid, hctx.symm ▸ Ctx.busy_counts e s.ctx, hctx.symm ▸ Ctx.counts_registers e s.ctx,
      fun _ => rfl, rfl⟩
  refine ⟨?_, ?_, ?_, ?_, ?_, ?_, ?_, ?_, ?_, ?_, ?_, ?_, ?_, ?_⟩ <;> exact hcmd (by decide) rfl

end Sys2Proof.Machine
end

section
/-! Error responses of local accesses (R167): what a violation leaves, and the zeros that a load returns. -/

namespace Sys2Proof.Machine
open Sys2Proof

/-- The issuing slot's violation recorded for a local access. -/
def State.errs (s : State) (k : Nat) (ea : W64) (sz : Nat) (vec store : Bool) (oc : Nat) : State :=
  s.violate k (s.violAddrOf ea false) (s.infoOf sz vec store false oc)

/-- An error response: the record of the violation, and registers, full bits and memory as before. -/
def State.Responds (s t : State) (k : Nat) (ea info : W64) : Prop :=
  RecordsViolation s.ctx t.ctx k (s.violAddrOf ea false) info ∧ SameRegisters s.ctx t.ctx ∧ t.full = s.full ∧
  ∀ b, t.byte b = s.byte b

theorem State.Responds.queue {s t : State} {k : Nat} {ea info : W64} (h : s.Responds t k ea info) (es : List Landing) :
    s.Responds (t.queue es) k ea info := by
  obtain ⟨hrec, hregs, hfull, hbytes⟩ := h
  refine ⟨?_, ?_, hfull, hbytes⟩
  · rw [State.queue, State.ctx_modCtx]
    exact hrec
  · rw [State.queue, State.ctx_modCtx]
    exact hregs

theorem Ctx.violate_land (x : Ctx) (kind : Nat) (addr info : W64) : (x.violate kind addr info).land = x.land := by
  unfold Ctx.violate
  split <;> rfl

theorem State.now_errs (s : State) (k : Nat) (ea : W64) (sz : Nat) (vec store : Bool) (oc : Nat) :
    (s.errs k ea sz vec store oc).now = s.now := s.now_modCtx _

theorem State.land_errs (s : State) (k : Nat) (ea : W64) (sz : Nat) (vec store : Bool) (oc : Nat) :
    (s.errs k ea sz vec store oc).ctx.land = s.ctx.land :=
  (congrArg Ctx.land (s.ctx_modCtx _)).trans (Ctx.violate_land ..)

theorem State.wsLate_queue (s : State) {d : BitVec 6} (hd : d ≠ 0) (v : W64) (bound : Nat) :
    s.wsLate d v bound = s.queue [scalarResult d v s.now bound] := if_neg hd

/-- The zero lanes of a vector load, one cluster after another, are queued together. -/
theorem State.zeroLanes_queue (s : State) (v : Nat) {cls : List Nat} (hcls : cls ≠ []) :
    cls.foldl (fun t cl => t.land .vec cl v 0 0 0xFFFF 0 8 false) s =
      s.queue (cls.map fun cl => ⟨.vec, cl, v, 0, 0, 0xFFFF, 0, 0, s.now + 8, false, s.now, 0⟩) :=
  s.foldl_queue (fun now cl => ⟨.vec, cl, v, 0, 0, 0xFFFF, 0, 0, now + 8, false, now, 0⟩) hcls

section
variable {i : Instr} {s : State} {k sz : Nat} {ea : W64} {vec store : Bool} {oc : BitVec 3}
  (hslot : s.focus.slot < 14) (hk : k < 4) (hsz : sz < 4)
include hslot hk hsz

theorem State.errs_responds :
    s.Responds (s.errs k ea sz vec store oc.toNat) k ea (violInfo s.focus.pc s.focus.slot sz vec store false oc.toNat) := by
  obtain ⟨hregs, hrec⟩ := s.violate_records (s.violAddrOf ea false) vec store false (by omega : k < 7) hsz oc.isLt
  exact ⟨hrec hslot, hregs, rfl, fun _ => rfl⟩

/-- A store that gets an error response. -/
theorem completes_storeError (hexec : exec i s = .next (s.errs k ea sz vec store oc.toNat)) : Completes i s fun t =>
    s.Responds t k ea (violInfo s.focus.pc s.focus.slot sz vec store false oc.toNat) ∧ t.ctx.land = s.ctx.land :=
  ⟨_, hexec, State.errs_responds hslot hk hsz, s.land_errs ..⟩

/-- A scalar access that gets one returns 0 to its register. -/
theorem completes_loadError {d : BitVec 6} (hexec : exec i s = .next ((s.errs k ea sz vec store oc.toNat).wsLate d 0 6)) :
    Completes i s fun t => s.Responds t k ea (violInfo s.focus.pc s.focus.slot sz vec store false oc.toNat) ∧
      (d ≠ 0 → Queues s.ctx t.ctx (scalarResult d 0 s.now 6)) := by
  have hresp := State.errs_responds (vec := vec) (store := store) (oc := oc) (ea := ea) hslot hk hsz
  refine ⟨_, hexec, ?_, fun hd => ?_⟩
  · by_cases hd : d = 0
    · rw [hd, State.wsLate_zero]
      exact hresp
    · rw [State.wsLate_queue _ hd]
      exact hresp.queue _
  · rw [State.wsLate_queue _ hd, State.now_errs, Queues, State.queue, State.ctx_modCtx, ← s.land_errs k ea sz vec store oc.toNat]

/-- A vector load that gets one returns zero in every lane of its clusters. -/
theorem completes_vloadError {v : BitVec 5} {cls : List Nat} (hcls : cls ≠ [])
    (hexec : exec i s = .next (cls.foldl (fun t cl => t.land .vec cl v.toNat 0 0 0xFFFF 0 8 false)
      (s.errs k ea sz vec store oc.toNat))) :
    Completes i s fun t => s.Responds t k ea (violInfo s.focus.pc s.focus.slot sz vec store false oc.toNat) ∧
      t.ctx.land = s.ctx.land ++
        cls.map fun c => ⟨.vec, c, v.toNat, 0, 0, 0xFFFF, 0, 0, s.now + 8, false, s.now, 0⟩ := by
  rw [State.zeroLanes_queue _ _ hcls, State.now_errs] at hexec
  refine ⟨_, hexec, (State.errs_responds hslot hk hsz).queue _, ?_⟩
  rw [State.queue, State.ctx_modCtx, ← s.land_errs k ea sz vec store oc.toNat]

end

/-! ## The accesses that R74 forbids -/

/-- The size field of an atomic. -/
theorem size_amo (y : BitVec 1) : (2 + y.setWidth 2 : BitVec 2).toNat = 2 + y.toNat := by
  obtain rfl | rfl : y = 0 ∨ y = 1 := by revert y; decide
  · rfl
  · rfl

theorem State.eaScalar_amo (s : State) (a : BitVec 6) (y : BitVec 1) (f : BitVec 3) :
    s.eaScalar a (2 + y.setWidth 2) f = s.rs a + BitVec.ofNat 64 (f.toNat * (4 * 2 ^ y.toNat)) := by
  rw [State.eaScalar, szBytes_amo]

section
variable {s : State} {k : Nat} {a : BitVec 6} {oc f : BitVec 3} {z : BitVec 2}

theorem State.load_error (signed : Bool) (d : BitVec 6)
    (h : s.localError (s.eaScalar a z f) (szBytes z) (szBytes z) false false false = some k) :
    s.load signed d a oc z f = (s.errs k (s.eaScalar a z f) z.toNat false false oc.toNat).wsLate d 0 6 := by
  simp only [State.load, h, State.errs]

theorem State.syncLoad_error (take : Bool) (d : BitVec 6)
    (h : s.localError (s.eaScalar a z f) (szBytes z) (szBytes z) false true false = some k) :
    s.syncLoad take d a oc z f = (s.errs k (s.eaScalar a z f) z.toNat false false oc.toNat).wsLate d 0 6 := by
  simp only [State.syncLoad, h, State.errs]

theorem execSt_error (d : BitVec 6)
    (h : s.localError (s.eaScalar a z f) (szBytes z) (szBytes z) true false false = some k) :
    execSt d a oc z f s = .next (s.errs k (s.eaScalar a z f) z.toNat false true oc.toNat) := by
  simp only [execSt, h, State.errs]

theorem execStf_error (d : BitVec 6)
    (h : s.localError (s.eaScalar a z f) (szBytes z) (szBytes z) true true false = some k) :
    execStf d a oc z f s = .next (s.errs k (s.eaScalar a z f) z.toNat false true oc.toNat) := by
  simp only [execStf, h, State.errs]

theorem execSete_error (h : s.localError (s.eaScalar a 3 f) 8 8 true true false = some k) :
    execSete a oc f s = .next (s.errs k (s.eaScalar a 3 f) 3 false true oc.toNat) := by
  simp only [execSete, h, State.errs]

theorem State.amo_error (op : AmoOp) (d : BitVec 6) {y : BitVec 1} {ea : W64}
    (hea : ea = s.rs a + BitVec.ofNat 64 (f.toNat * (4 * 2 ^ y.toNat)))
    (h : s.localError ea (4 * 2 ^ y.toNat) (4 * 2 ^ y.toNat) true false true = some k) :
    s.amo op d a oc y f = (s.errs k ea (2 + y.toNat) false true oc.toNat).wsLate d 0 6 := by
  rw [← State.eaScalar_amo] at hea
  rw [hea, ← szBytes_amo] at h
  simp only [State.amo, h, State.errs, hea, size_amo]

theorem State.vload_error (v : Nat) {cls : List Nat} {ea : W64} (dead : Nat → BitVec 16)
    (h : s.localError ea (64 * cls.length) 64 false false false = some k) :
    s.vload v cls ea oc.toNat dead = cls.foldl (fun t cl => t.land .vec cl v 0 0 0xFFFF 0 8 false)
      (s.errs k ea 0 true false oc.toNat) := by
  simp only [State.vload, h, State.errs]

theorem State.vstore_error (v : Nat) {cls : List Nat} {ea : W64} (live : Nat → BitVec 16)
    (h : s.localError ea (64 * cls.length) 64 true false false = some k) :
    s.vstore v cls ea oc.toNat live = s.errs k ea 0 true true oc.toNat := by
  simp only [State.vstore, h, State.errs]

end

/-- Settles O27: each access answers with its zeros, or with nothing, and the record of its violation. -/
theorem errorResponses : Obligations.ErrorResponses := by
  intro s d a o z y f cl g e v x k n ea es ec eq even w eb ev info recorded zero amo vload vstore hslot
  have hz : z.toNat < 4 := z.isLt
  have hamo {i : Instr} {r : BitVec 6} (op : AmoOp) (h : s.localError eb w w true false true = some k)
      (hexec : exec i s = .next (s.amo op r a o y f)) : amo i r := by
    exact completes_loadError hslot (State.localError_lt h) (by omega)
      (hexec.trans (congrArg Host.Outcome.next (State.amo_error op r rfl h)))
  refine ⟨fun h => ?_, fun h => ?_, fun h => ?_, fun h => ?_, fun h => ?_, fun h => ?_, fun h => ?_, fun h => ?_, fun h => ?_,
    fun h => ?_, fun h => ?_, fun h => ?_⟩ <;> have hk := State.localError_lt h
  · exact ⟨completes_loadError hslot hk hz (congrArg Host.Outcome.next (State.load_error true d h)),
      completes_loadError hslot hk hz (congrArg Host.Outcome.next (State.load_error false d h))⟩
  · exact completes_storeError hslot hk hz (execSt_error d h)
  · exact ⟨completes_loadError hslot hk hz (congrArg Host.Outcome.next (State.syncLoad_error false d h)),
      completes_loadError hslot hk hz (congrArg Host.Outcome.next (State.syncLoad_error true d h))⟩
  · exact completes_storeError hslot hk hz (execStf_error d h)
  · exact completes_storeError hslot hk (by decide) (execSete_error h)
  · exact ⟨hamo .add h rfl, hamo .min h rfl, hamo .max h rfl, hamo .and h rfl, hamo .or h rfl, hamo .xor h rfl,
      hamo .swap h rfl, hamo .cas h (congrArg (fun r => Host.Outcome.next (s.amo .cas r a o y f)) (evenReg_eq e))⟩
  · exact completes_vloadError hslot hk (by decide) (by decide) (congrArg Host.Outcome.next (State.vload_error _ _ h))
  · exact completes_vloadError hslot hk (by decide) (List.cons_ne_nil _ _) (congrArg Host.Outcome.next (State.vload_error _ _ h))
  · exact completes_vloadError hslot hk (by decide) (by decide) (congrArg Host.Outcome.next (State.vload_error _ _ h))
  · exact completes_storeError hslot hk (by decide) (congrArg Host.Outcome.next (State.vstore_error _ _ h))
  · exact completes_storeError hslot hk (by decide) (congrArg Host.Outcome.next (State.vstore_error _ _ h))
  · exact completes_storeError hslot hk (by decide) (congrArg Host.Outcome.next (State.vstore_error _ _ h))

end Sys2Proof.Machine
end

section
/-! Integer lanes (R196, R197): the sub-elements of a lane as numbers of w bits, what each operation computes on them, and
what it lands. -/

namespace Sys2Proof.Machine
open Sys2Proof

/-! ## Fields side by side -/

/-- What is added above a field does not change it. -/
theorem field_add_high (x k : Nat) {w i n : Nat} (h : w * (i + 1) ≤ n) :
    (x + k * 2 ^ n) / 2 ^ (w * i) % 2 ^ w = x / 2 ^ (w * i) % 2 ^ w := by
  obtain ⟨m, rfl⟩ := Nat.exists_eq_add_of_le h
  have hpow : k * 2 ^ (w * (i + 1) + m) = 2 ^ (w * i) * (2 ^ w * (2 ^ m * k)) := by ring
  rw [hpow, Nat.add_mul_div_left _ _ (by positivity), Nat.add_mul_mod_self_left]

/-- Numbers taken in w bits and put side by side, the first lowest. -/
def joinFields (w : Nat) (h : Nat → Nat) (n : Nat) : Nat :=
  (List.range n).foldl (fun r j => r + h j % 2 ^ w * 2 ^ (w * j)) 0

theorem joinFields_succ (w : Nat) (h : Nat → Nat) (n : Nat) :
    joinFields w h (n + 1) = joinFields w h n + h n % 2 ^ w * 2 ^ (w * n) := by
  simp [joinFields, List.range_succ]

theorem joinFields_lt (w : Nat) (h : Nat → Nat) (n : Nat) : joinFields w h n < 2 ^ (w * n) := by
  induction n with
  | zero => simp [joinFields]
  | succ n ih =>
    have hfield : (h n % 2 ^ w + 1) * 2 ^ (w * n) ≤ 2 ^ w * 2 ^ (w * n) :=
      Nat.mul_le_mul_right _ (Nat.mod_lt _ (by positivity))
    rw [joinFields_succ, Nat.mul_succ, Nat.add_comm, pow_add]
    rw [Nat.succ_mul, Nat.mul_comm (2 ^ w)] at hfield
    omega

theorem joinFields_field (w : Nat) (h : Nat → Nat) {n k : Nat} (hk : k < n) :
    joinFields w h n / 2 ^ (w * k) % 2 ^ w = h k % 2 ^ w := by
  induction n with
  | zero => exact absurd hk (Nat.not_lt_zero k)
  | succ n ih =>
    rw [joinFields_succ]
    rcases Nat.lt_succ_iff_lt_or_eq.1 hk with hlt | rfl
    · rw [field_add_high _ _ (Nat.mul_le_mul_left w hlt), ih hlt]
    · rw [Nat.add_mul_div_right _ _ (by positivity), Nat.div_eq_of_lt (joinFields_lt w h k), Nat.zero_add, Nat.mod_mod]

/-! ## Numbers of w bits -/

theorem signedOf_eq_asSigned {w n : Nat} (h : n < 2 ^ w) : signedOf w n = asSigned w n := by
  unfold signedOf asSigned
  rw [Nat.mod_eq_of_lt h]
  push_cast
  split <;> split <;> omega

theorem asSigned_inj {w x y : Nat} (hx : x < 2 ^ w) (hy : y < 2 ^ w) (h : asSigned w x = asSigned w y) : x = y := by
  have hxi : (x : Int) < 2 ^ w := by exact_mod_cast hx
  have hyi : (y : Int) < 2 ^ w := by exact_mod_cast hy
  unfold asSigned at h
  split at h <;> split at h <;> omega

/-- A choice between two numbers by their signed order, where equal numbers choose alike. -/
theorem ite_asSigned_lt {α : Type} {w x y : Nat} (hx : x < 2 ^ w) (hy : y < 2 ^ w) {u v : α} (h : x = y → u = v) :
    (if asSigned w x < asSigned w y then u else v) = if asSigned w x ≤ asSigned w y then u else v := by
  rcases lt_trichotomy (asSigned w x) (asSigned w y) with hlt | heq | hgt
  · rw [if_pos hlt, if_pos hlt.le]
  · rw [h (asSigned_inj hx hy heq), ite_self, ite_self]
  · rw [if_neg hgt.not_gt, if_neg hgt.not_ge]

theorem wrapTo_cast (w : Nat) (i : Int) : (wrapTo w i : Int) = i % 2 ^ w := by
  rw [wrapTo, Int.toNat_of_nonneg (Int.emod_nonneg _ (by positivity))]
  push_cast
  rfl

/-- The integer of w bits nearest to `v` (R197). -/
def clampSigned (w : Nat) (v : Int) : Int :=
  if 2 ^ (w - 1) ≤ v then 2 ^ (w - 1) - 1 else if v < -(2 ^ (w - 1)) then -(2 ^ (w - 1)) else v

theorem saturateTo_eq_clamp (w : Nat) (v : Int) : saturateTo w v = wrapTo w (clampSigned w v) := by
  have hpos : (0 : Int) < 2 ^ (w - 1) := by positivity
  unfold saturateTo clampSigned
  push_cast
  congr 1
  split
  · omega
  · split <;> omega

/-- The carry-less product, the shifted copies of x combined by exclusive or. -/
theorem clProduct_eq_xor (w x y : Nat) :
    clProduct w x y = (List.range w).foldl (fun r k => if y.testBit k then r ^^^ (x <<< k) else r) 0 := by
  simp only [clProduct, Nat.shiftLeft_eq]
  rfl

theorem length_filter_le_range (c n : Nat) :
    ((List.range (n + 1)).filter fun r => decide (0 < r ∧ r ≤ c)).length = min n c := by
  induction n with
  | zero => simp
  | succ n ih =>
    rw [List.range_succ, List.filter_append, List.length_append, ih]
    by_cases h : n + 1 ≤ c
    · simp [h]; omega
    · simp [h]; omega

/-- Leading zeros, counted: r of them are zero where x is below 2^(w-r). -/
theorem leadingZeros_eq_count {w x : Nat} (hx : x < 2 ^ w) : leadingZeros w x =
    ((List.range (w + 1)).filter fun r => decide (x < 2 ^ (w - r)) && decide (0 < r)).length := by
  obtain ⟨hle, hlt, hge⟩ := clzN_spec hx
  have hzeros : ∀ r ∈ List.range (w + 1),
      (decide (x < 2 ^ (w - r)) && decide (0 < r)) = decide (0 < r ∧ r ≤ clzN w x) := by
    intro r hr
    have hr := List.mem_range.1 hr
    rw [← Bool.decide_and, decide_eq_decide, and_comm]
    refine and_congr_right fun _ => ⟨fun h => ?_, fun h => hlt.trans_le (Nat.pow_le_pow_right (by omega) (by omega))⟩
    by_contra hr'
    have hbits := (Nat.pow_lt_pow_iff_right (by omega : 1 < 2)).1 ((hge (by omega)).trans_lt h)
    omega
  rw [List.filter_congr hzeros, length_filter_le_range, min_eq_right hle]
  rfl

/-! ## Operations on sub-elements -/

/-- What `g` computes on numbers of w bits is `r` modulo 2^w. -/
def LaneComputes (g : Nat → List Nat → Nat) (r : Nat → Nat → Nat → Nat → Int) : Prop :=
  ∀ w xs, 0 < w → (∀ k, xAt xs k < 2 ^ w) → (g w xs : Int) % 2 ^ w = r w (xAt xs 0) (xAt xs 1) (xAt xs 2) % 2 ^ w

theorem xAt_map {f : W32 → Nat} (h0 : f 0 = 0) (xs : List W32) (k : Nat) : xAt (xs.map f) k = f (xs.getD k 0) := by
  rw [← List.getD_map (f := f), h0]
  rfl

theorem subWidth_cases (t : BitVec 2) : subWidth t = 32 ∨ subWidth t = 16 ∨ subWidth t = 8 := by
  unfold subWidth
  split
  · exact .inl rfl
  · split
    · exact .inr (.inl rfl)
    · exact .inr (.inr rfl)

/-- Sub-element `k` of each source lane. -/
def subElems (w k : Nat) (xs : List W32) : List Nat := xs.map fun x => x.toNat / 2 ^ (w * k) % 2 ^ w

theorem xAt_subElems (w k : Nat) (xs : List W32) (n : Nat) :
    xAt (subElems w k xs) n = (xs.getD n 0).toNat / 2 ^ (w * k) % 2 ^ w := xAt_map (by simp) xs n

/-- Each sub-element of the result is the operation's on those of the sources. -/
theorem iparts_field (t : BitVec 2) (g : Nat → List Nat → Nat) (xs : List W32) {k : Nat} (hk : k < 32 / subWidth t) :
    (iparts t g xs).1.toNat / 2 ^ (subWidth t * k) % 2 ^ subWidth t =
      g (subWidth t) (subElems (subWidth t) k xs) % 2 ^ subWidth t := by
  have hfill : subWidth t * (32 / subWidth t) = 32 := by rcases subWidth_cases t with h | h | h <;> rw [h]
  have hlt := joinFields_lt (subWidth t) (fun j => g (subWidth t) (subElems (subWidth t) j xs)) (32 / subWidth t)
  rw [hfill] at hlt
  have hval : (iparts t g xs).1.toNat =
      joinFields (subWidth t) (fun j => g (subWidth t) (subElems (subWidth t) j xs)) (32 / subWidth t) := by
    simp only [iparts, List.map_map]
    exact (BitVec.toNat_ofNat ..).trans (Nat.mod_eq_of_lt hlt)
  rw [hval, joinFields_field _ _ hk]

theorem integerLanes_ilop {i : Instr} {s : State} {d : BitVec 5} {rs : List (BitVec 5)} {q : BitVec 3} {t : BitVec 2}
    {g : Nat → List Nat → Nat} {r : Nat → Nat → Nat → Nat → Int} (h : LaneComputes g r)
    (hexec : exec i s = .next (s.ilop d rs q t g)) : IntegerLanes i s d rs q t r := by
  have hw : 0 < subWidth t := by rcases subWidth_cases t with h | h | h <;> rw [h] <;> decide
  unfold IntegerLanes
  refine laneWise_of_exec hexec (fun xs k hk => ?_) fun _ => rfl
  have hres := h _ (subElems (subWidth t) k xs) hw fun n => xAt_subElems .. ▸ Nat.mod_lt _ (by positivity)
  simp only [xAt_subElems] at hres
  refine (congrArg Nat.cast (iparts_field t g xs hk)).trans (Eq.trans ?_ hres)
  push_cast
  rfl

/-! ## The operations of R196 and R197 -/

theorem laneComputes_add : LaneComputes (fun _ xs => xAt xs 0 + xAt xs 1) fun _ x y _ => x + y := fun _ _ _ _ => by
  push_cast
  rfl

theorem laneComputes_mul : LaneComputes (fun _ xs => xAt xs 0 * xAt xs 1) fun _ x y _ => x * y := fun _ _ _ _ => by
  push_cast
  rfl

theorem laneComputes_mulAdd : LaneComputes (fun _ xs => xAt xs 0 * xAt xs 1 + xAt xs 2) fun _ x y z => x * y + z :=
  fun _ _ _ _ => by
    push_cast
    rfl

/-- An operation whose exact result is an integer, taken modulo 2^w. -/
theorem laneComputes_wrap {g : Nat → List Nat → Int} {r : Nat → Nat → Nat → Nat → Int}
    (h : ∀ w xs, (∀ k, xAt xs k < 2 ^ w) → g w xs = r w (xAt xs 0) (xAt xs 1) (xAt xs 2)) :
    LaneComputes (fun w xs => wrapTo w (g w xs)) r := fun w xs _ hxs => by
  rw [wrapTo_cast, Int.emod_emod, h w xs hxs]

/-- An operation on numbers alone. -/
theorem laneComputes_nat {g : Nat → List Nat → Nat} {r : Nat → Nat → Nat → Nat → Int}
    (h : ∀ w xs, (∀ k, xAt xs k < 2 ^ w) → (g w xs : Int) = r w (xAt xs 0) (xAt xs 1) (xAt xs 2)) :
    LaneComputes g r := fun w xs _ hxs => by rw [h w xs hxs]

theorem ix_eq_asSigned {w : Nat} {xs : List Nat} (h : ∀ k, xAt xs k < 2 ^ w) (k : Nat) : ix w xs k = asSigned w (xAt xs k) :=
  signedOf_eq_asSigned (h k)

theorem laneComputes_sub : LaneComputes (fun w xs => wrapTo w ((xAt xs 0 : Int) - xAt xs 1)) fun _ x y _ => x - y :=
  laneComputes_wrap fun _ _ _ => rfl

theorem laneComputes_mulHigh : LaneComputes (fun w xs => wrapTo w (ix w xs 0 * ix w xs 1 / (2 ^ w : Nat)))
    fun w x y _ => asSigned w x * asSigned w y / 2 ^ w := laneComputes_wrap fun _ _ h => by
  rw [ix_eq_asSigned h, ix_eq_asSigned h]
  push_cast
  rfl

theorem laneComputes_min : LaneComputes (fun w xs => if ix w xs 0 < ix w xs 1 then xAt xs 0 else xAt xs 1)
    fun w x y _ => if asSigned w x ≤ asSigned w y then x else y := laneComputes_nat fun w xs h => by
  rw [ix_eq_asSigned h, ix_eq_asSigned h, ← apply_ite (Nat.cast : Nat → Int)]
  exact congrArg _ (ite_asSigned_lt (h 0) (h 1) id)

theorem laneComputes_max : LaneComputes (fun w xs => if ix w xs 0 < ix w xs 1 then xAt xs 1 else xAt xs 0)
    fun w x y _ => if asSigned w x ≤ asSigned w y then y else x := laneComputes_nat fun w xs h => by
  rw [ix_eq_asSigned h, ix_eq_asSigned h, ← apply_ite (Nat.cast : Nat → Int)]
  exact congrArg _ (ite_asSigned_lt (h 0) (h 1) Eq.symm)

theorem laneComputes_minu : LaneComputes (fun _ xs => min (xAt xs 0) (xAt xs 1)) fun _ x y _ => if x ≤ y then x else y :=
  laneComputes_nat fun _ xs _ => by rw [← apply_ite (Nat.cast : Nat → Int), min_def]

theorem laneComputes_maxu : LaneComputes (fun _ xs => max (xAt xs 0) (xAt xs 1)) fun _ x y _ => if x ≤ y then y else x :=
  laneComputes_nat fun _ xs _ => by rw [← apply_ite (Nat.cast : Nat → Int), max_def]

theorem laneComputes_and : LaneComputes (fun _ xs => Nat.land (xAt xs 0) (xAt xs 1)) fun _ x y _ => (x &&& y : Nat) :=
  laneComputes_nat fun _ _ _ => rfl

theorem laneComputes_or : LaneComputes (fun _ xs => Nat.lor (xAt xs 0) (xAt xs 1)) fun _ x y _ => (x ||| y : Nat) :=
  laneComputes_nat fun _ _ _ => rfl

theorem laneComputes_xor : LaneComputes (fun _ xs => Nat.xor (xAt xs 0) (xAt xs 1)) fun _ x y _ => (x ^^^ y : Nat) :=
  laneComputes_nat fun _ _ _ => rfl

theorem laneComputes_shl : LaneComputes (fun w xs => xAt xs 0 * 2 ^ (xAt xs 1 % w)) fun w x y _ => x * 2 ^ (y % w) :=
  laneComputes_nat fun _ _ _ => by
    push_cast
    rfl

theorem laneComputes_shrl : LaneComputes (fun w xs => xAt xs 0 / 2 ^ (xAt xs 1 % w)) fun w x y _ => x / 2 ^ (y % w) :=
  laneComputes_nat fun _ _ _ => by
    push_cast
    rfl

theorem laneComputes_shra : LaneComputes (fun w xs => wrapTo w (ix w xs 0 / (2 ^ (xAt xs 1 % w) : Nat)))
    fun w x y _ => asSigned w x / 2 ^ (y % w) := laneComputes_wrap fun _ _ h => by
  rw [ix_eq_asSigned h]
  push_cast
  rfl

/-- A saturated result of two signed numbers. -/
theorem laneComputes_saturate (f : Int → Int → Int) : LaneComputes (fun w xs => saturateTo w (f (ix w xs 0) (ix w xs 1)))
    fun w x y _ => clampSigned w (f (asSigned w x) (asSigned w y)) := fun w xs _ h => by
  simp only [saturateTo_eq_clamp, wrapTo_cast, Int.emod_emod, ix_eq_asSigned h]

theorem laneComputes_clmul : LaneComputes (fun w xs => clProduct w (xAt xs 0) (xAt xs 1)) fun w x y _ =>
    ((List.range w).foldl (fun r k => if y.testBit k then r ^^^ (x <<< k) else r) 0 : Nat) :=
  laneComputes_nat fun _ _ _ => congrArg Nat.cast (clProduct_eq_xor ..)

/-- The magnitude of the least number is 2^(w-1), which is its own code. -/
theorem laneComputes_abs : LaneComputes (fun w xs => (ix w xs 0).natAbs)
    fun w x _ _ => if asSigned w x < 0 then -asSigned w x else x := laneComputes_nat fun w xs h => by
  rw [ix_eq_asSigned h]
  have hx : (xAt xs 0 : Int) < 2 ^ w := by exact_mod_cast h 0
  unfold asSigned
  split <;> split <;> omega

theorem laneComputes_popc : LaneComputes (fun w xs => popCount w (xAt xs 0))
    fun w x _ _ => ((List.range w).filter fun k => x.testBit k).length := laneComputes_nat fun _ _ _ => rfl

theorem laneComputes_clz : LaneComputes (fun w xs => leadingZeros w (xAt xs 0)) fun w x _ _ =>
    ((List.range (w + 1)).filter fun r => decide (x < 2 ^ (w - r)) && decide (0 < r)).length :=
  laneComputes_nat fun _ _ h => congrArg Nat.cast (leadingZeros_eq_count (h 0))

/-- Settles O32: each operation is `State.ilop` with what it computes on a sub-element. -/
theorem vectorIntegerOperations : Obligations.VectorIntegerOperations := by
  intro s d a b q t two one sat S
  exact ⟨integerLanes_ilop laneComputes_add rfl, integerLanes_ilop laneComputes_sub rfl,
    integerLanes_ilop laneComputes_mul rfl, integerLanes_ilop laneComputes_mulHigh rfl,
    integerLanes_ilop laneComputes_mulAdd rfl, integerLanes_ilop laneComputes_min rfl,
    integerLanes_ilop laneComputes_max rfl, integerLanes_ilop laneComputes_minu rfl,
    integerLanes_ilop laneComputes_maxu rfl, integerLanes_ilop laneComputes_and rfl,
    integerLanes_ilop laneComputes_or rfl, integerLanes_ilop laneComputes_xor rfl,
    integerLanes_ilop laneComputes_shl rfl, integerLanes_ilop laneComputes_shrl rfl,
    integerLanes_ilop laneComputes_shra rfl, integerLanes_ilop (laneComputes_saturate (· + ·)) rfl,
    integerLanes_ilop (laneComputes_saturate (· - ·)) rfl, integerLanes_ilop laneComputes_clmul rfl,
    integerLanes_ilop laneComputes_abs rfl, integerLanes_ilop laneComputes_popc rfl,
    integerLanes_ilop laneComputes_clz rfl⟩

end Sys2Proof.Machine
end

section
/-! Lane compares (R195, R198, R218): results of a slot for lane predicates, queued cluster by cluster, and what each compare
lands. -/

namespace Sys2Proof.Machine
open Sys2Proof

/-! ## Results for each cluster -/

/-- One exposed result per cluster, queued one after the other. -/
theorem State.foldl_land_landsIn {s : State} {kind : LandKind} {reg bound : Nat} {cls : List Nat} (hne : cls ≠ [])
    (val : Nat → BitVec 512) (emp mask : Nat → BitVec 16) (flags : Nat → W64) {P : Nat → Landing → Prop}
    (hP : ∀ cl ∈ cls, P cl ⟨kind, cl, reg, val cl, emp cl, mask cl, 0, flags cl, s.now + bound, false, s.now, 0⟩) :
    LandsIn s (cls.foldl (fun t cl => t.land kind cl reg (val cl) (emp cl) (mask cl) (flags cl) bound false) s)
      kind reg bound cls P := by
  have hqueue : cls.foldl (fun t cl => t.land kind cl reg (val cl) (emp cl) (mask cl) (flags cl) bound false) s =
      s.queue (cls.map fun cl =>
        ⟨kind, cl, reg, val cl, emp cl, mask cl, 0, flags cl, s.now + bound, false, s.now, 0⟩) :=
    s.foldl_queue (fun now cl => ⟨kind, cl, reg, val cl, emp cl, mask cl, 0, flags cl, now + bound, false, now, 0⟩) hne
  refine ⟨_, hqueue, by simp [Function.comp_def], ?_, fun a => by rw [hqueue]; rfl⟩
  intro e he
  obtain ⟨cl, hcl, rfl⟩ := List.mem_map.1 he
  exact ⟨rfl, rfl, rfl, rfl, rfl, hP cl hcl⟩

theorem getLsbD_bits16 (f : Nat → Bool) {j : Nat} (hj : j < 16) : (bits16 f).getLsbD j = f j := by
  refine Bool.eq_iff_iff.2 ((getLsbD_foldl_or_if f (fun i => 1#16 <<< i) (List.range 16) 0 j).trans ?_)
  rw [or_iff_right (by simp)]
  constructor
  · rintro ⟨i, -, hf, h⟩
    have hij : i = j := by simp at h; omega
    exact hij ▸ hf
  · exact fun hf => ⟨j, List.mem_range.2 hj, hf, by simp [hj]⟩

/-- The bit of a lane predicate is bit 0 of the lane of the result. -/
theorem getLsbD_qWord (v : BitVec 512) {j : Nat} (hj : j < 16) : (qWord v).getLsbD j = (lane v j).getLsbD 0 := by
  rw [qWord, getLsbD_bits16 _ hj, lane, BitVec.getLsbD_extractLsb']
  simp

theorem State.qexec_stops {s : State} {n : BitVec 3} {bound : Nat} {cls : List Nat} {f : Nat → VRes}
    (h : ∃ cl ∈ cls, (f cl).stop = true) : s.qexec n bound cls f = s.stop 0x02 16 := by
  unfold State.qexec
  rw [if_pos]
  · rfl
  · simpa using h

/-- Where no cluster stops the slot, the predicate of each is queued. -/
theorem State.qexec_lands {s : State} {n : BitVec 3} {bound : Nat} {cls : List Nat} {f : Nat → VRes}
    {P : Nat → Landing → Prop} (hne : cls ≠ []) (hstop : ¬∃ cl ∈ cls, (f cl).stop = true)
    (hP : ∀ cl ∈ cls, P cl ⟨.lanePred, cl, n.toNat, (qWord (f cl).val).setWidth 512, 0, 0xFFFF, 0, (f cl).flags.word,
      s.now + bound, false, s.now, 0⟩) :
    LandsIn s (s.qexec n bound cls f) .lanePred n.toNat bound cls P := by
  unfold State.qexec
  rw [if_neg (by simpa using hstop), List.foldl_map]
  exact State.foldl_land_landsIn hne (fun cl => (qWord (f cl).val).setWidth 512) (fun _ => 0) (fun _ => 0xFFFF)
    (fun cl => (f cl).flags.word) hP

/-! ## Lane-wise results -/

/-- What a lane-wise operation gives where it does not stop, said of the lanes that are empty and of the results of the
others. -/
theorem lanewise_results {pol : Nat} {m e : BitVec 16} {f res : Nat → W32 × Flags} {gone : Nat → Prop}
    (hgone : ∀ j, j < 16 → (e.getLsbD j = true ↔ gone j)) (hres : ∀ j, j < 16 → f j = res j)
    (h : ¬(lanewise pol m e f).stop = true) :
    (lanewise pol m e f).mask = m ∧
    (∀ j, j < 16 → m.getLsbD j = true →
      (gone j → lane (lanewise pol m e f).val j = 0 ∧ (lanewise pol m e f).emp.getLsbD j = true) ∧
      (¬gone j → lane (lanewise pol m e f).val j = (res j).1 ∧ (lanewise pol m e f).emp.getLsbD j = false)) ∧
    (∀ j, j < 16 → ¬m.getLsbD j = true → lane (lanewise pol m e f).val j = 0) ∧
    ∀ b, (lanewise pol m e f).flags.getLsbD b = true ↔
      ∃ j, j < 16 ∧ m.getLsbD j = true ∧ ¬gone j ∧ (res j).2.getLsbD b = true := by
  obtain ⟨hmask, hemp, hval, hflags⟩ := lanewise_lands h
  refine ⟨hmask, fun j hj hm => ⟨fun hg => ?_, fun hg => ?_⟩, fun j hj hm => ?_, fun b => (hflags b).trans ?_⟩
  · have hej := (hgone j hj).2 hg
    rw [hval j hj, hemp, BitVec.getLsbD_and, hej, hm]
    exact ⟨rfl, rfl⟩
  · have hej := Bool.eq_false_iff.2 (mt (hgone j hj).1 hg)
    rw [hval j hj, hemp, BitVec.getLsbD_and, hej, hm, hres j hj]
    exact ⟨rfl, rfl⟩
  · rw [hval j hj, Bool.eq_false_iff.2 hm]
    rfl
  · refine exists_congr fun j => and_congr_right fun hj => ?_
    rw [hgone j hj, hres j hj]

/-- The same for an operation on source registers at one index. -/
theorem State.lanesOp_results {s : State} {cl : Nat} {q : BitVec 3} {rs : List (BitVec 5)} {f : List W32 → W32 × Flags}
    (h : ¬(s.lanesOp cl q rs f).stop = true) :
    let r := s.lanesOp cl q rs f
    let gone (j : Nat) : Prop := ∃ a, a ∈ rs ∧ s.laneGone cl a j
    let res (j : Nat) : W32 × Flags := f (rs.map fun a => s.laneIn cl a j)
    r.mask = s.mask cl q ∧
    (∀ j, j < 16 → (s.mask cl q).getLsbD j = true →
      (gone j → lane r.val j = 0 ∧ r.emp.getLsbD j = true) ∧
      (¬gone j → lane r.val j = (res j).1 ∧ r.emp.getLsbD j = false)) ∧
    (∀ j, j < 16 → ¬(s.mask cl q).getLsbD j = true → lane r.val j = 0) ∧
    ∀ b, r.flags.getLsbD b = true ↔ ∃ j, j < 16 ∧ (s.mask cl q).getLsbD j = true ∧ ¬gone j ∧ (res j).2.getLsbD b = true :=
  lanewise_results (fun j _ => s.emp_sources cl rs j) (fun _ hj => congrArg f (s.sources_at cl rs hj)) h

/-! ## Compares -/

theorem laneCompare_of_exec {i : Instr} {s : State} {n : BitVec 3} {bound : Nat} {rs : List (BitVec 5)} {q : BitVec 3}
    {c : List W32 → Prop} {F : List W32 → Flags} {f : List W32 → W32 × Flags}
    (hexec : exec i s = .next (s.qexec n bound s.clusters fun cl => s.lanesOp cl q rs f))
    (hc : ∀ xs, (f xs).1.getLsbD 0 = true ↔ c xs) (hF : ∀ xs, (f xs).2 = F xs) :
    LaneCompare i s n bound rs q c F := by
  refine ⟨fun ⟨cl, hcl, hstop⟩ => ⟨_, hexec, State.qexec_stops ⟨cl, hcl, (s.lanesOp_stop cl q rs f).2 hstop⟩⟩, fun hgo => ?_⟩
  have hgo' : ¬∃ cl ∈ s.clusters, (s.lanesOp cl q rs f).stop = true := by
    simpa only [State.lanesOp_stop] using hgo
  refine ⟨_, hexec, State.qexec_lands s.clusters_ne_nil hgo' fun cl hcl => ⟨rfl, fun j hj => ?_, fun b => ?_⟩⟩ <;>
    obtain ⟨-, hin, hout, hflags⟩ := State.lanesOp_results fun h => hgo' ⟨cl, hcl, h⟩
  · rw [BitVec.getLsbD_setWidth, getLsbD_qWord _ hj, decide_eq_true (by omega), Bool.true_and]
    by_cases hm : (s.mask cl q).getLsbD j = true
    · obtain ⟨hempty, hfull⟩ := hin j hj hm
      by_cases hg : ∃ a, a ∈ rs ∧ s.laneGone cl a j
      · rw [(hempty hg).1]
        simp [hg]
      · rw [(hfull hg).1, hc]
        exact ⟨fun h => ⟨⟨hj, hm⟩, hg, h⟩, fun h => h.2.2⟩
    · rw [hout j hj hm]
      exact ⟨fun h => absurd h (by simp), fun h => absurd h.1.2 hm⟩
  · refine (Flags.getLsbD_word _ b).trans (and_congr_right fun _ => (hflags _).trans (exists_congr fun j => ?_))
    rw [hF, and_assoc]
    rfl

theorem getLsbD_bitWord (b : Bool) : (bitWord b).getLsbD 0 = b := by cases b <;> rfl

/-- An integer compare tests sub-element 0 of its two lanes. -/
theorem laneCompare_icmp {i : Instr} {s : State} {n q : BitVec 3} {d a : BitVec 5} {t : BitVec 2}
    {g : Nat → List Nat → Bool} {r : Nat → Nat → Nat → Prop} (hexec : exec i s = .next (s.icmp d a n q t g))
    (h : ∀ w xs, (∀ k, xAt xs k < 2 ^ w) → (g w xs = true ↔ r w (xAt xs 0) (xAt xs 1))) :
    LaneCompare i s n 4 [d, a] q (fun xs => r (subWidth t) ((xs.getD 0 0).toNat % 2 ^ subWidth t)
      ((xs.getD 1 0).toNat % 2 ^ subWidth t)) fun _ => 0 := by
  refine laneCompare_of_exec hexec (fun xs => ?_) fun _ => rfl
  have hsub : ∀ k, xAt (xs.map fun x => x.toNat % 2 ^ subWidth t) k = (xs.getD k 0).toNat % 2 ^ subWidth t :=
    fun k => xAt_map (by simp) xs k
  rw [getLsbD_bitWord, h _ _ fun k => hsub k ▸ Nat.mod_lt _ (by positivity), hsub, hsub]

/-- Two values of which neither is a NaN, in the order `o`. -/
def FVal.Orders (o : Ordering) (x y : FVal) : Prop := ¬(x.isNaN = true ∨ y.isNaN = true) ∧ x.cmp y = o

/-- What each compare of R195 tests. -/
def CmpKind.Tests (k : CmpKind) (x y : FVal) : Prop :=
  match k with
  | .eq => FVal.Orders .eq x y
  | .ne => ¬FVal.Orders .eq x y
  | .lt => FVal.Orders .lt x y
  | .le => FVal.Orders .lt x y ∨ FVal.Orders .eq x y
  | .un => x.isNaN = true ∨ y.isNaN = true

theorem CmpKind.holds_iff (k : CmpKind) (x y : FVal) : k.holds x y = true ↔ k.Tests x y := by
  have hle : ∀ o : Ordering, o ≠ .gt ↔ o = .lt ∨ o = .eq := by decide
  cases k with
  | eq | lt | un => simp [CmpKind.holds, CmpKind.Tests, FVal.Orders]
  | ne => simp [CmpKind.holds, CmpKind.Tests, FVal.Orders, imp_iff_not_or]
  | le => simp [CmpKind.holds, CmpKind.Tests, FVal.Orders, hle, ← and_or_left]

/-- A floating-point compare tests the values of its two lanes, or of their halves 0. -/
theorem laneCompare_fcmp {i : Instr} {s : State} {n q : BitVec 3} {d a : BitVec 5} {t : BitVec 2} {k : CmpKind}
    (hexec : exec i s = .next (s.fcmp k d a n q t)) :
    let v (xs : List W32) (j : Nat) : FVal :=
      (typeFmt t).operand s.fpc (if t = 0 then (xs.getD j 0).toNat else (xs.getD j 0).toNat % 2 ^ 16)
    LaneCompare i s n 4 [d, a] q (fun xs => k.Tests (v xs 0) (v xs 1)) fun xs => k.flags (v xs 0) (v xs 1) := by
  have hsrc : ∀ (xs : List W32) (j : Nat), xAt (xs.map fun x => if t = 0 then x.toNat else x.toNat % 65536) j =
      if t = 0 then (xs.getD j 0).toNat else (xs.getD j 0).toNat % 2 ^ 16 := fun xs j => xAt_map (by simp) xs j
  refine laneCompare_of_exec hexec (fun xs => ?_) fun xs => ?_
  · rw [getLsbD_bitWord, hsrc, hsrc]
    exact k.holds_iff _ _
  · simp only [hsrc]
    rfl

/-- Settles O33: the integer compares are `State.icmp`, the floating-point ones `State.fcmp`, each with its own test. -/
theorem vectorCompares : Obligations.VectorCompares := by
  intro s d a n q t w sub f v un is quiet loud
  refine ⟨laneCompare_icmp (r := fun _ x y => x = y) rfl fun w xs _ => beq_iff_eq,
    laneCompare_icmp (r := fun w x y => asSigned w x < asSigned w y) rfl fun w xs h => ?_,
    laneCompare_icmp (r := fun _ x y => x < y) rfl fun w xs _ => decide_eq_true_iff,
    laneCompare_fcmp (k := .eq) rfl, laneCompare_fcmp (k := .ne) rfl, laneCompare_fcmp (k := .lt) rfl,
    laneCompare_fcmp (k := .le) rfl, laneCompare_fcmp (k := .un) rfl,
    laneCompare_of_exec rfl (fun xs => ?_) fun _ => rfl⟩
  · rw [decide_eq_true_iff, ix_eq_asSigned h, ix_eq_asSigned h]
  · rw [getLsbD_bitWord, bne_iff_ne, Ne, ← BitVec.toNat_inj, List.headD_eq_getD]
    rfl

end Sys2Proof.Machine
end

section
/-! Movements of lanes (R205-R216): what an operation that copies lanes with their empty bits lands, and the ranks by which
COMPRESS and EXPAND place them. -/

namespace Sys2Proof.Machine
open Sys2Proof

/-! ## Copies of lanes -/

/-- A result that never stops and sets no flag: it writes the lanes where `f` names a value and an empty bit. -/
def VRes.Moves (r : VRes) (f : Nat → Option (W32 × Bool)) : Prop :=
  r.stop = false ∧ r.flags = 0 ∧ ∀ j, j < 16 → r.mask.getLsbD j = (f j).isSome ∧
    ∀ v, f j = some v → lane r.val j = v.1 ∧ r.emp.getLsbD j = v.2

theorem VRes.Moves.congr {r : VRes} {f g : Nat → Option (W32 × Bool)} (h : r.Moves f) (hfg : ∀ j, j < 16 → f j = g j) :
    r.Moves g :=
  ⟨h.1, h.2.1, fun j hj => hfg j hj ▸ h.2.2 j hj⟩

theorem LandsIn.imp {s t : State} {kind : LandKind} {reg bound : Nat} {cls : List Nat} {P Q : Nat → Landing → Prop}
    (h : LandsIn s t kind reg bound cls P) (hPQ : ∀ cl e, P cl e → Q cl e) : LandsIn s t kind reg bound cls Q := by
  obtain ⟨es, ht, hcls, hes, hbytes⟩ := h
  refine ⟨es, ht, hcls, fun e he => ?_, hbytes⟩
  obtain ⟨hkind, hreg, hdue, hheld, hseen, hP⟩ := hes e he
  exact ⟨hkind, hreg, hdue, hheld, hseen, hPQ _ _ hP⟩

theorem State.vexec_moves {s : State} {d : BitVec 5} {bound : Nat} {g : Nat → VRes} {f : Nat → Nat → Option (W32 × Bool)}
    (h : ∀ cl ∈ s.clusters, (g cl).Moves (f cl)) :
    LandsIn s (s.vexec d bound s.clusters g) .vec d.toNat bound s.clusters fun cl e => e.flags = 0 ∧ ∀ j, j < 16 →
      e.mask.getLsbD j = (f cl j).isSome ∧
      ∀ v, f cl j = some v → e.val.extractLsb' (32 * j) 32 = v.1 ∧ e.emp.getLsbD j = v.2 := by
  refine State.vexec_lands s.clusters_ne_nil ?_ fun cl hcl => ⟨congrArg Flags.word (h cl hcl).2.1, (h cl hcl).2.2⟩
  rintro ⟨cl, hcl, hstop⟩
  rw [(h cl hcl).1] at hstop
  exact Bool.false_ne_true hstop

theorem laneMove_of_exec {i : Instr} {s : State} {d : BitVec 5} {bound : Nat} {g : Nat → VRes}
    {f : Nat → Nat → Option (W32 × Bool)} (hexec : exec i s = .next (s.vexec d bound s.clusters g))
    (h : ∀ cl ∈ s.clusters, (g cl).Moves (f cl)) : LaneMove i s d bound f := by
  refine ⟨_, hexec, (State.vexec_moves h).imp fun cl e ⟨hflags, hlanes⟩ => ⟨hflags, fun j hj => ?_⟩⟩
  obtain ⟨hmask, hval⟩ := hlanes j hj
  split
  next hnone => exact hmask.trans (congrArg Option.isSome hnone)
  next v hsome => exact ⟨hmask.trans (congrArg Option.isSome hsome), hval v hsome⟩

/-- Every lane is written by a mask of ones. -/
theorem getLsbD_allLanes {j : Nat} (hj : j < 16) : (0xFFFF : BitVec 16).getLsbD j = true :=
  (BitVec.getLsbD_allOnes (v := 16)).trans (decide_eq_true hj)

/-- Lanes and empty bits that are those of `p`, under a mask. -/
theorem VRes.moves_masked {val : BitVec 512} {emp m : BitVec 16} {p : Nat → W32 × Bool}
    (h : ∀ j, j < 16 → (lane val j, emp.getLsbD j) = p j) :
    VRes.Moves ⟨false, val, emp, m, 0⟩ fun j => if m.getLsbD j then some (p j) else none := by
  refine ⟨rfl, rfl, fun j hj => ?_⟩
  by_cases hm : m.getLsbD j = true
  · simp [hm, ← h j hj]
  · simp [hm]

/-- Lanes and empty bits that are those of `p`, in every lane. -/
theorem VRes.moves_all {val : BitVec 512} {emp : BitVec 16} {p : Nat → W32 × Bool}
    (h : ∀ j, j < 16 → (lane val j, emp.getLsbD j) = p j) :
    VRes.Moves ⟨false, val, emp, 0xFFFF, 0⟩ fun j => some (p j) :=
  (VRes.moves_masked h).congr fun _ hj => if_pos (getLsbD_allLanes hj)

theorem pickLanes_at (p : Nat → W32 × Bool) {j : Nat} (hj : j < 16) :
    (lane (lanes fun i => (p i).1) j, (bits16 fun i => (p i).2).getLsbD j) = p j := by
  rw [lane_lanes _ hj, getLsbD_bits16 _ hj]

theorem moves_pickLanes (p : Nat → W32 × Bool) (m : BitVec 16) :
    (pickLanes p m).Moves fun j => if m.getLsbD j then some (p j) else none :=
  VRes.moves_masked fun _ hj => pickLanes_at p hj

theorem moves_pickLanes_all (p : Nat → W32 × Bool) : (pickLanes p 0xFFFF).Moves fun j => some (p j) :=
  VRes.moves_all fun _ hj => pickLanes_at p hj

theorem moves_full (f : Nat → W32) : (VRes.full (lanes f) 0).Moves fun j => some (f j, false) :=
  VRes.moves_all fun _ hj => Prod.ext (lane_lanes f hj) BitVec.getLsbD_zero

theorem moves_copy (v : VReg) (m : BitVec 16) :
    (VRes.copy v m).Moves fun j => if m.getLsbD j then some (laneAt v j) else none :=
  VRes.moves_masked fun _ _ => rfl

/-! ## Ranks -/

/-- The i-th number below n that a selector picks is the one with i picked numbers before it. -/
theorem getElem?_filter_range (p : Nat → Bool) (n i : Nat) : ((List.range n).filter p)[i]? =
    (List.range n).find? fun k => p k && ((List.range k).filter p).length == i := by
  induction n with
  | zero => rfl
  | succ n ih =>
    rw [List.range_succ, List.filter_append, List.find?_append, ← ih]
    rcases Nat.lt_trichotomy i ((List.range n).filter p).length with hlt | heq | hgt
    · rw [List.getElem?_append_left hlt, List.getElem?_eq_getElem hlt]
      rfl
    · subst heq
      cases hp : p n <;> simp [hp]
    · have hne : ((List.range n).filter p).length ≠ i := by omega
      cases hp : p n <;> simp [hp, hne, hgt.le, hgt]

/-! ## The movements -/

theorem toNat_ofNat_ones {w n : Nat} (h : n ≤ w) : (BitVec.ofNat w (2 ^ n - 1)).toNat = 2 ^ n - 1 := by
  have hle : 2 ^ n ≤ 2 ^ w := Nat.pow_le_pow_right (by omega) h
  rw [BitVec.toNat_ofNat, Nat.mod_eq_of_lt (by have := Nat.two_pow_pos n; omega)]

theorem State.policy_snd (s : State) (cl : Nat) :
    (s.policy cl).2 = BitVec.ofNat 32 ((s.seen.vcfg.get 0 cl).toNat / 2 ^ 32) := by
  simp [State.policy, BitVec.extractLsb', Nat.shiftRight_eq_div_pow]

theorem getLsbD_31_iff (x : W32) : x.getLsbD 31 = true ↔ 2 ^ 31 ≤ x.toNat := by
  rw [BitVec.getLsbD, Nat.testBit_eq_decide_div_mod_eq, decide_eq_true_eq]
  have := x.isLt
  omega

/-- PERM reads its index lanes under the policy; where none of them is empty it stops nothing (R209). -/
theorem laneMove_perm {s : State} {d a b : BitVec 5} {q : BitVec 3} {t : BitVec 2}
    (hfull : ∀ cl, cl ∈ s.clusters → ∀ j, j < 16 → (s.was.qr cl q.toNat).getLsbD j = true → ¬s.laneGone cl b j) :
    LaneMove (.perm d a b q t) s d 3 fun cl j =>
      if (s.was.qr cl q.toNat).getLsbD j then
        some (if 2 ^ 31 ≤ (s.laneIn cl b j).toNat then (0, false) else s.laneOf cl a ((s.laneIn cl b j).toNat % 16))
      else none := by
  refine laneMove_of_exec rfl fun cl hcl => ?_
  have hfine : ¬((s.policy cl).1 == 2 && ((s.vsrc cl b).emp &&& s.mask cl q) != 0) = true := by
    rw [Bool.and_eq_true, and_ne_zero_iff]
    rintro ⟨-, j, hj, hemp, hm⟩
    exact hfull cl hcl j hj hm ((s.emp_vsrc cl b j).1 hemp)
  simp only [if_neg hfine]
  refine (moves_pickLanes _ _).congr fun j hj => ite_congr rfl (fun hm => congrArg some ?_) fun _ => rfl
  have hemp := Bool.eq_false_iff.2 (mt (s.emp_vsrc cl b j).1 (hfull cl hcl j hj hm))
  simp only [hemp, s.lane_vsrc cl b hj, getLsbD_31_iff]
  rfl

/-- COMPRESS packs the lanes that its selector picks to the bottom, and marks them (R210). -/
theorem completes_compress (s : State) (d a : BitVec 5) (n q : BitVec 3) (t : BitVec 2) :
    let m (cl j : Nat) : Bool := (s.was.qr cl q.toNat).getLsbD j
    let rank (cl j : Nat) : Nat := ((List.range j).filter fun k => m cl k).length
    let packed (cl j : Nat) : Option (W32 × Bool) :=
      match (List.range 16).find? fun k => m cl k && rank cl k == j with
      | some k => some (s.laneOf cl a k)
      | none => some (0, false)
    Completes (.compress d a n q t) s fun u => ∃ v, LandsIn s v .vec d.toNat 4 s.clusters (fun cl e => e.mask = 0xFFFF ∧
        ∀ j, j < 16 → packed cl j = some (e.val.extractLsb' (32 * j) 32, e.emp.getLsbD j)) ∧
      LandsIn v u .lanePred n.toNat 4 s.clusters fun cl e => e.mask = 0xFFFF ∧ e.val.toNat = 2 ^ rank cl 16 - 1 := by
  intro m rank packed
  refine ⟨_, rfl, _, (State.vexec_moves (f := packed) fun cl _ => (moves_pickLanes_all _).congr fun j _ => ?_).imp
      fun cl e ⟨_, hlanes⟩ => ?_,
    State.foldl_land_landsIn s.clusters_ne_nil _ (fun _ => 0) (fun _ => 0xFFFF) (fun _ => 0) fun cl _ => ⟨rfl, ?_⟩⟩
  · have hsel : (selected (s.mask cl q))[j]? = (List.range 16).find? fun k => m cl k && rank cl k == j :=
      getElem?_filter_range (m cl) 16 j
    simp only [packed, hsel]
    cases (List.range 16).find? fun k => m cl k && rank cl k == j <;> rfl
  · have hsome : ∀ j, ∃ v, packed cl j = some v := fun j => by
      cases hk : (List.range 16).find? fun k => m cl k && rank cl k == j <;> exact ⟨_, by simp only [packed, hk]; rfl⟩
    refine ⟨BitVec.eq_of_getLsbD_eq fun j hj => ?_, fun j hj => ?_⟩ <;> obtain ⟨v, hv⟩ := hsome j <;>
      obtain ⟨hmask, hval⟩ := hlanes j hj
    · rw [hmask, hv, getLsbD_allLanes hj]
      rfl
    · obtain ⟨hlane, hemp⟩ := hval v hv
      rw [hv, hlane, hemp]
  · have hle : rank cl 16 ≤ 16 := (List.length_filter_le ..).trans List.length_range.le
    exact toNat_ofNat_ones (hle.trans (by omega))

/-- Settles O37: each movement is a copy of lanes under its mask; PERM and COMPRESS have their own lemmas. -/
theorem laneMovements : Obligations.LaneMovements := by
  intro s d a b n q c t i r l m rank const packed
  refine ⟨laneMove_of_exec rfl fun cl _ => moves_copy _ _, laneMove_of_exec rfl fun cl _ => moves_full _,
    laneMove_of_exec rfl fun cl _ => moves_full _, laneMove_of_exec rfl fun cl _ => moves_pickLanes_all _,
    laneMove_of_exec rfl fun cl _ => (moves_pickLanes _ _).congr fun _ _ =>
      ite_congr rfl (fun _ => congrArg some ?_) fun _ => rfl,
    laneMove_of_exec rfl fun cl _ => moves_pickLanes_all _, laneMove_of_exec rfl fun cl _ => VRes.moves_all fun _ _ => rfl,
    laneMove_of_exec rfl fun cl _ => moves_pickLanes_all _, laneMove_of_exec rfl fun cl _ => moves_pickLanes_all _,
    laneMove_perm, completes_compress s d a n q t⟩
  rw [s.policy_snd]
  exact (apply_ite (·, false) ..).symm

end Sys2Proof.Machine
end

section
/-! Lane-predicate logic, QPOP, MVLS and VCFGW (R206, R217, R219, R220). -/

namespace Sys2Proof.Machine
open Sys2Proof

/-- Logic of lane predicates, bit by bit. -/
theorem completes_qlogic {i : Instr} {s : State} {x : BitVec 3} {f : Nat → BitVec 16} {b : Nat → Nat → Bool}
    (hexec : exec i s = .next (s.qlogic x f)) (hb : ∀ cl j, j < 16 → (f cl).getLsbD j = b cl j) :
    Completes i s fun t => LandsIn s t .lanePred x.toNat 2 s.clusters fun cl e =>
      e.mask = 0xFFFF ∧ ∀ j, j < 16 → e.val.getLsbD j = b cl j := by
  refine ⟨_, hexec, State.foldl_land_landsIn s.clusters_ne_nil (fun cl => (f cl).setWidth 512) (fun _ => 0)
    (fun _ => 0xFFFF) (fun _ => 0) fun cl _ => ⟨rfl, fun j hj => ?_⟩⟩
  rw [BitVec.getLsbD_setWidth, decide_eq_true (by omega), Bool.true_and, hb cl j hj]

/-- A cluster whose policy stops MVLS on the empty lane it names. -/
theorem mvls_stops_iff (s : State) (a : BitVec 5) (l : BitVec 4) :
    (s.clusters.any fun cl => (s.policy cl).1 == 2 && (s.vreg cl a).emp.getLsbD l.toNat) = true ↔
      ∃ cl, cl ∈ s.clusters ∧ s.stopsOnEmpty cl ∧ s.laneGone cl a l.toNat := by
  rw [List.any_eq_true]
  refine exists_congr fun cl => and_congr_right fun _ => ?_
  rw [Bool.and_eq_true, beq_iff_eq, s.policy_fst]
  exact and_congr_right fun hstop => (and_iff_left (by omega)).symm

/-- MVLS in one cluster: the lane, zero-extended, in flight to its scalar register. -/
def State.mvlsLanding (s : State) (a : BitVec 5) (r : BitVec 6) (l : BitVec 4) (now cl : Nat) : Landing :=
  ⟨.scalar, 0, r.toNat, ((lane (s.vsrc cl a).val l.toNat).setWidth 64).setWidth 512, 0, 1, 0, 0, now + 3, false, now, 0⟩

theorem execMvls_eq {s : State} {a : BitVec 5} {r : BitVec 6} {l : BitVec 4}
    (h : ¬∃ cl, cl ∈ s.clusters ∧ s.stopsOnEmpty cl ∧ s.laneGone cl a l.toNat) :
    exec (.mvls a r l) s =
      .next (if r = 0 then s else s.queue (s.clusters.map (s.mvlsLanding a r l s.now))) := by
  have hgo := mt (mvls_stops_iff s a l).1 h
  refine congrArg Host.Outcome.next ((if_neg hgo).trans ?_)
  by_cases hr : r = 0
  · have hskip : ∀ (t : State) (v : W64), t.mvlsOf r v = t := fun t v => if_pos hr
    simp only [hskip, if_pos hr, List.foldl_fixed]
  · have hland : ∀ (t : State) (cl : Nat), t.mvlsOf r ((lane (s.vsrc cl a).val l.toNat).setWidth 64) =
        t.queue [s.mvlsLanding a r l t.now cl] := fun t cl => if_neg hr
    simp only [hland, if_neg hr]
    exact s.foldl_queue (s.mvlsLanding a r l) s.clusters_ne_nil

/-- Settles O38: `completes_qlogic` for the predicates, QPOP a movement of full lanes, and `execMvls_eq` for MVLS. -/
theorem lanePredicatesAndScalars : Obligations.LanePredicatesAndScalars := by
  intro s x y z d a r l bit logic
  refine ⟨completes_qlogic rfl fun _ _ _ => BitVec.getLsbD_and, completes_qlogic rfl fun _ _ _ => BitVec.getLsbD_or,
    completes_qlogic rfl fun _ _ _ => BitVec.getLsbD_xor, completes_qlogic rfl fun cl j hj => ?_,
    laneMove_of_exec rfl fun _ _ => moves_full _, fun hstop => ?_, fun hgo hr => ?_, fun hr hgo => ?_, ⟨_, rfl, rfl⟩⟩
  · rw [BitVec.getLsbD_and, BitVec.getLsbD_not, decide_eq_true hj, Bool.true_and]
    rfl
  · exact ⟨_, congrArg Host.Outcome.next (if_pos ((mvls_stops_iff s a l).2 hstop)), rfl⟩
  · refine ⟨_, execMvls_eq hgo, s.clusters.map (s.mvlsLanding a r l s.now), if_neg hr, List.length_map .., ?_⟩
    intro k e cl he hcl
    rw [List.getElem?_map, hcl] at he
    obtain rfl := Option.some.inj he
    refine ⟨rfl, rfl, rfl, rfl, ?_⟩
    simp only [State.mvlsLanding, BitVec.toNat_setWidth, s.lane_vsrc cl a l.isLt]
    omega
  · exact ⟨_, execMvls_eq hgo, if_pos hr⟩

end Sys2Proof.Machine
end

section
/-! `CVT` (R199, R200): the fields of a lane, the ranges of the converted numbers, and the result of each code. -/

namespace Sys2Proof.Machine
open Sys2Proof

/-! ## A field put in place -/

/-- A number with field `j` of `n` bits replaced: what is above, the new field, and what is below. -/
theorem putField_eq (n j old v : Nat) : putField n j old v =
    (old / 2 ^ (n * j) / 2 ^ n * 2 ^ n + v % 2 ^ n) * 2 ^ (n * j) + old % 2 ^ (n * j) := by
  have hlow := Nat.div_add_mod old (2 ^ (n * j))
  have hfield := Nat.div_add_mod (old / 2 ^ (n * j)) (2 ^ n)
  have hold : old = (old / 2 ^ (n * j) / 2 ^ n * 2 ^ n) * 2 ^ (n * j) + old / 2 ^ (n * j) % 2 ^ n * 2 ^ (n * j) +
      old % 2 ^ (n * j) := by
    rw [← Nat.add_mul, Nat.mul_comm (_ / _), hfield, Nat.mul_comm (_ / _), hlow]
  rw [putField, Nat.add_mul]
  omega

theorem putField_field (n j old v : Nat) : putField n j old v / 2 ^ (n * j) % 2 ^ n = v % 2 ^ n := by
  rw [putField_eq, Nat.mul_comm, Nat.mul_add_div (by positivity), Nat.div_eq_of_lt (Nat.mod_lt _ (by positivity)),
    Nat.add_zero, Nat.mul_add_mod_self_right, Nat.mod_mod]

/-- Above the field nothing changes. -/
theorem putField_high (n j old v : Nat) : putField n j old v / 2 ^ (n * (j + 1)) = old / 2 ^ (n * (j + 1)) := by
  have hlow : old % 2 ^ (n * j) < 2 ^ (n * j) := Nat.mod_lt _ (by positivity)
  rw [Nat.mul_succ, pow_add, ← Nat.div_div_eq_div_mul, ← Nat.div_div_eq_div_mul, putField_eq, Nat.mul_comm (_ + _),
    Nat.mul_add_div (by positivity), Nat.div_eq_of_lt hlow, Nat.add_zero, Nat.mul_comm (_ / _ / _),
    Nat.mul_add_div (by positivity), Nat.div_eq_of_lt (Nat.mod_lt _ (by positivity)), Nat.add_zero]

theorem putField_testBit (n old v : Nat) {j b : Nat} (h : b < n * j ∨ n * (j + 1) ≤ b) :
    (putField n j old v).testBit b = old.testBit b := by
  rcases h with h | h
  · have hlow : putField n j old v % 2 ^ (n * j) = old % 2 ^ (n * j) := by
      rw [putField_eq, Nat.mul_add_mod_self_right, Nat.mod_mod]
    have hbit := congrArg (Nat.testBit · b) hlow
    simpa [Nat.testBit_mod_two_pow, h] using hbit
  · obtain ⟨k, rfl⟩ := Nat.exists_eq_add_of_le h
    rw [Nat.add_comm, ← Nat.testBit_div_two_pow, ← Nat.testBit_div_two_pow, putField_high]

theorem putField_lt {n j old v w : Nat} (h : n * (j + 1) ≤ w) (hold : old < 2 ^ w) : putField n j old v < 2 ^ w := by
  obtain ⟨k, rfl⟩ := Nat.exists_eq_add_of_le h
  rw [pow_add, Nat.mul_comm, ← Nat.div_lt_iff_lt_mul (by positivity)] at hold ⊢
  rwa [putField_high]

/-! ## Ranges -/

theorem wrapTo_lt (w : Nat) (i : Int) : wrapTo w i < 2 ^ w := by
  zify
  rw [wrapTo_cast]
  exact Int.emod_lt_of_pos _ (by positivity)

theorem asSigned_wrapTo {w : Nat} {i : Int} (hw : 0 < w) (hlo : -(2 ^ (w - 1)) ≤ i) (hhi : i < 2 ^ (w - 1)) :
    asSigned w (wrapTo w i) = i := by
  have hpow : (2 : Int) ^ w = 2 * 2 ^ (w - 1) := by rw [← pow_succ', Nat.sub_add_cancel hw]
  have hcast := wrapTo_cast w i
  have hiff : 2 ^ (w - 1) ≤ wrapTo w i ↔ (2 : Int) ^ (w - 1) ≤ wrapTo w i := by zify
  unfold asSigned
  rw [hpow] at hcast ⊢
  simp only [hiff]
  rcases lt_or_ge i 0 with hneg | hpos
  · have hval : (wrapTo w i : Int) = i + 2 * 2 ^ (w - 1) := by
      rw [hcast, ← Int.add_emod_right, Int.emod_eq_of_lt (by omega) (by omega)]
    rw [if_pos (by omega)]
    omega
  · rw [Int.emod_eq_of_lt hpos (by omega)] at hcast
    rw [if_neg (by omega)]
    exact hcast

theorem FVal.toSigned_range (rm : RMode) {w : Nat} (v : FVal) :
    -(2 ^ (w - 1)) ≤ (v.toSigned rm w).1 ∧ (v.toSigned rm w).1 < 2 ^ (w - 1) := by
  have hpos : (0 : Int) < 2 ^ (w - 1) := by positivity
  cases v with
  | nan g => exact ⟨by simp [FVal.toSigned], by simp [FVal.toSigned]⟩
  | inf neg => cases neg <;> simp [FVal.toSigned]
  | fin neg m e =>
    simp only [FVal.toSigned, FVal.toInt]
    split
    · exact ⟨by omega, by omega⟩
    · split
      · exact ⟨by omega, by omega⟩
      · exact ⟨by omega, by omega⟩

theorem fp32_signed_lt {neg : Bool} {m : Nat} (h : m < 2 ^ 31) : fp32.signed neg m < 2 ^ 32 := by
  cases neg <;> simp [Fmt.signed, fp32] <;> omega

theorem fp32_round_lt (c : FpCtl) (v : FVal) : (fp32.round c v).1 < 2 ^ 32 := by
  cases v with
  | nan g => exact (by decide : fp32.nan < 2 ^ 32)
  | inf neg => exact fp32_signed_lt (by decide)
  | fin neg m e =>
    simp only [Fmt.round, Fmt.roundFin]
    split
    · cases overflowsToInf c.rm neg <;> exact fp32_signed_lt (by decide)
    next hcode =>
      split
      · exact fp32_signed_lt (by decide)
      · exact fp32_signed_lt (Nat.lt_of_le_of_lt (not_lt.1 hcode) (by decide))

/-! ## The codes of CVT -/

section
variable (c : FpCtl) {n x old : Nat}

theorem cvtLane_int32 : (cvtLane c 0 x old).1 = wrapTo 32 ((fp32.operand c x).toSigned c.rm 32).1 := rfl

theorem cvtLane_int32_rtz : (cvtLane c 1 x old).1 = wrapTo 32 ((fp32.operand c x).toSigned .rtz 32).1 := rfl

theorem cvtLane_fromSigned (h : x < 2 ^ 32) : (cvtLane c 2 x old).1 = (fp32.round c (ofInt (asSigned 32 x))).1 :=
  congrArg (fun i => (fp32.round c (ofInt i)).1) (signedOf_eq_asSigned h)

theorem cvtLane_fromUnsigned : (cvtLane c 3 x old).1 = (fp32.round c (ofInt x)).1 := rfl

theorem cvtLane_toBf16 (h : 4 ≤ n) (h' : n ≤ 5) :
    (cvtLane c n x old).1 = putField 16 (n - 4) old (bf16.narrow16 c (fp32.operand c x)).1 := by
  interval_cases n <;> rfl

theorem cvtLane_toFp16 (h : 6 ≤ n) (h' : n ≤ 7) :
    (cvtLane c n x old).1 = putField 16 (n - 6) old (fp16.narrow16 c (fp32.operand c x)).1 := by
  interval_cases n <;> rfl

theorem cvtLane_fromBf16 (h : 8 ≤ n) (h' : n ≤ 9) :
    (cvtLane c n x old).1 = (fp32.round .exact (bf16.operand c (getField 16 (n - 8) x))).1 := by
  interval_cases n <;> rfl

theorem cvtLane_fromFp16 (h : 0x0A ≤ n) (h' : n ≤ 0x0B) :
    (cvtLane c n x old).1 = (fp32.round .exact (fp16.operand c (getField 16 (n - 0x0A) x))).1 := by
  interval_cases n <;> rfl

theorem cvtLane_toE4m3 (h : 0x0C ≤ n) (h' : n ≤ 0x0F) :
    (cvtLane c n x old).1 = putField 8 (n - 0x0C) old (e4m3.narrow c (fp32.operand c x)).1 := by
  interval_cases n <;> rfl

theorem cvtLane_toE5m2 (h : 0x10 ≤ n) (h' : n ≤ 0x13) :
    (cvtLane c n x old).1 = putField 8 (n - 0x10) old (e5m2.narrow c (fp32.operand c x)).1 := by
  interval_cases n <;> rfl

theorem cvtLane_fromE4m3 (h : 0x14 ≤ n) (h' : n ≤ 0x17) :
    (cvtLane c n x old).1 = (fp32.round .exact (e4m3.value (getField 8 (n - 0x14) x))).1 := by
  interval_cases n <;> rfl

theorem cvtLane_fromE5m2 (h : 0x18 ≤ n) (h' : n ≤ 0x1B) :
    (cvtLane c n x old).1 = (fp32.round .exact (e5m2.value (getField 8 (n - 0x18) x))).1 := by
  interval_cases n <;> rfl

theorem cvtLane_toInt8 (h : 0x1C ≤ n) (h' : n < 32) :
    (cvtLane c n x old).1 = putField 8 (n - 0x1C) old (wrapTo 8 ((fp32.operand c x).toSigned c.rm 8).1) := by
  interval_cases n <;> rfl

end

theorem toNat_ofNat_of_lt {w m : Nat} (h : m < 2 ^ w) : (BitVec.ofNat w m).toNat = m := by
  rw [BitVec.toNat_ofNat, Nat.mod_eq_of_lt h]

/-- `r` is `old` with field `i` of `w` bits replaced by `v`. -/
def PutsField (w i old v r : Nat) : Prop :=
  r / 2 ^ (w * i) % 2 ^ w = v % 2 ^ w ∧ ∀ j, j < 32 → (j < w * i ∨ w * (i + 1) ≤ j) → r.testBit j = old.testBit j

theorem putsField_putField {w i old v : Nat} (hw : w * (i + 1) ≤ 32) (hold : old < 2 ^ 32) :
    PutsField w i old v (BitVec.ofNat 32 (putField w i old v)).toNat := by
  rw [toNat_ofNat_of_lt (putField_lt hw hold)]
  exact ⟨putField_field .., fun _ _ h => putField_testBit _ _ _ h⟩

/-- The result of CVT in a lane, code by code (R199). -/
def CvtGives (c : FpCtl) (n x old r : Nat) : Prop :=
  let v := fp32.operand c x
  (n = 0 → asSigned 32 r = (v.toSigned c.rm 32).1) ∧ (n = 1 → asSigned 32 r = (v.toSigned .rtz 32).1) ∧
  (n = 2 → r = (fp32.round c (ofInt (asSigned 32 x))).1) ∧ (n = 3 → r = (fp32.round c (ofInt x)).1) ∧
  (4 ≤ n → n ≤ 5 → PutsField 16 (n - 4) old (bf16.narrow16 c v).1 r) ∧
  (6 ≤ n → n ≤ 7 → PutsField 16 (n - 6) old (fp16.narrow16 c v).1 r) ∧
  (8 ≤ n → n ≤ 9 → r = (fp32.round .exact (bf16.operand c (getField 16 (n - 8) x))).1) ∧
  (0x0A ≤ n → n ≤ 0x0B → r = (fp32.round .exact (fp16.operand c (getField 16 (n - 0x0A) x))).1) ∧
  (0x0C ≤ n → n ≤ 0x0F → PutsField 8 (n - 0x0C) old (e4m3.narrow c v).1 r) ∧
  (0x10 ≤ n → n ≤ 0x13 → PutsField 8 (n - 0x10) old (e5m2.narrow c v).1 r) ∧
  (0x14 ≤ n → n ≤ 0x17 → r = (fp32.round .exact (e4m3.value (getField 8 (n - 0x14) x))).1) ∧
  (0x18 ≤ n → n ≤ 0x1B → r = (fp32.round .exact (e5m2.value (getField 8 (n - 0x18) x))).1) ∧
  (0x1C ≤ n → PutsField 8 (n - 0x1C) old (wrapTo 8 (v.toSigned c.rm 8).1) r)

theorem cvtLane_gives (c : FpCtl) {n x old : Nat} (hn : n < 32) (hx : x < 2 ^ 32) (hold : old < 2 ^ 32) :
    CvtGives c n x old (BitVec.ofNat 32 (cvtLane c n x old).1).toNat := by
  have hsigned : ∀ rm, asSigned 32 (BitVec.ofNat 32 (wrapTo 32 ((fp32.operand c x).toSigned rm 32).1)).toNat =
      ((fp32.operand c x).toSigned rm 32).1 := fun rm => by
    obtain ⟨hlo, hhi⟩ := (fp32.operand c x).toSigned_range rm (w := 32)
    rw [toNat_ofNat_of_lt (wrapTo_lt ..), asSigned_wrapTo (by omega) hlo hhi]
  have hround : ∀ c v, (BitVec.ofNat 32 (fp32.round c v).1).toNat = (fp32.round c v).1 :=
    fun c v => toNat_ofNat_of_lt (fp32_round_lt c v)
  have hput : ∀ {w i : Nat} (v : Nat), w * (i + 1) ≤ 32 → PutsField w i old v (BitVec.ofNat 32 (putField w i old v)).toNat :=
    fun v hw => putsField_putField hw hold
  refine ⟨?_, ?_, ?_, ?_, fun h h' => ?_, fun h h' => ?_, fun h h' => ?_, fun h h' => ?_, fun h h' => ?_, fun h h' => ?_,
    fun h h' => ?_, fun h h' => ?_, fun h => ?_⟩
  · rintro rfl
    rw [cvtLane_int32, hsigned]
  · rintro rfl
    rw [cvtLane_int32_rtz, hsigned]
  · rintro rfl
    rw [cvtLane_fromSigned c hx, hround]
  · rintro rfl
    rw [cvtLane_fromUnsigned, hround]
  · rw [cvtLane_toBf16 c h h']
    exact hput _ (by omega)
  · rw [cvtLane_toFp16 c h h']
    exact hput _ (by omega)
  · rw [cvtLane_fromBf16 c h h', hround]
  · rw [cvtLane_fromFp16 c h h', hround]
  · rw [cvtLane_toE4m3 c h h']
    exact hput _ (by omega)
  · rw [cvtLane_toE5m2 c h h']
    exact hput _ (by omega)
  · rw [cvtLane_fromE4m3 c h h', hround]
  · rw [cvtLane_fromE5m2 c h h', hround]
  · rw [cvtLane_toInt8 c h hn]
    exact hput _ (by omega)

/-- CVT lands in every lane the result of its code, and reads the destination where the code keeps part of it. -/
theorem laneWise_cvt (s : State) (d a k : BitVec 5) (q : BitVec 3) :
    LaneWise (.cvt d a k q) s d 4 s.clusters (if keepsOld k.toNat then [a, d] else [a]) q
      (fun xs r => CvtGives s.fpc k.toNat (xs.getD 0 0).toNat (xs.getD 1 0).toNat r.toNat)
      fun xs => (cvtLane s.fpc k.toNat (xs.getD 0 0).toNat (xs.getD 1 0).toNat).2 := by
  refine laneWise_of_exec rfl (fun xs => ?_) fun xs => ?_
  · rw [List.headD_eq_getD]
    exact cvtLane_gives _ k.isLt (BitVec.isLt _) (BitVec.isLt _)
  · rw [List.headD_eq_getD]

end Sys2Proof.Machine
end

section
/-! `CVTAX` and `CVTXA` (R203, R204): operations whose lanes read other lanes than their own. -/

namespace Sys2Proof.Machine
open Sys2Proof

/-- An operation that is lane-wise in each cluster, its lane j reading the lanes `src`, and that stops in the clusters `also`
names, lands as R189 says. -/
theorem laneWiseFrom_of_exec {i : Instr} {s : State} {d : BitVec 5} {bound : Nat} {also : Nat → Prop}
    {inMask : Nat → Nat → Prop} {src : Nat → Nat → List (BitVec 5 × Nat)} {R : List W32 → Nat → W32 → Prop}
    {F : List W32 → Flags} {stops : Nat → Bool} {m e : Nat → BitVec 16} {f : Nat → Nat → W32 × Flags}
    {val : List W32 → Nat → W32}
    (hexec : exec i s = .next (s.vexec d bound s.clusters fun cl =>
      if stops cl then .stops else lanewise (s.policy cl).1 (m cl) (e cl) (f cl)))
    (hstops : ∀ cl, stops cl = true ↔ s.stopsOnEmpty cl ∧ also cl)
    (hmask : ∀ cl j, j < 16 → ((m cl).getLsbD j = true ↔ inMask cl j))
    (hgone : ∀ cl j, j < 16 → ((e cl).getLsbD j = true ↔ ∃ r, r ∈ src cl j ∧ s.laneGone cl r.1 r.2))
    (hres : ∀ cl j, j < 16 → f cl j =
      (val ((src cl j).map fun r => s.laneIn cl r.1 r.2) j, F ((src cl j).map fun r => s.laneIn cl r.1 r.2)))
    (hR : ∀ xs j, R xs j (val xs j)) :
    LaneWiseFrom i s d bound also inMask src R F := by
  have hstop : ∀ cl, (if stops cl then VRes.stops else lanewise (s.policy cl).1 (m cl) (e cl) (f cl)).stop = true ↔
      s.stopsOnEmpty cl ∧ (also cl ∨ ∃ j, j < 16 ∧ inMask cl j ∧ ∃ r, r ∈ src cl j ∧ s.laneGone cl r.1 r.2) := by
    intro cl
    have hlanes : (lanewise (s.policy cl).1 (m cl) (e cl) (f cl)).stop = true ↔
        s.stopsOnEmpty cl ∧ ∃ j, j < 16 ∧ inMask cl j ∧ ∃ r, r ∈ src cl j ∧ s.laneGone cl r.1 r.2 := by
      rw [lanewise_stop, s.policy_fst]
      refine and_congr_right fun _ => exists_congr fun j => and_congr_right fun hj => ?_
      rw [hgone cl j hj, hmask cl j hj, and_comm]
    rw [and_or_left, ← hstops, ← hlanes]
    split
    next h => exact ⟨fun _ => .inl h, fun _ => rfl⟩
    next h => exact (or_iff_right h).symm
  refine ⟨fun ⟨cl, hcl, h⟩ => ⟨_, hexec, State.vexec_stops ⟨cl, hcl, (hstop cl).2 h⟩⟩, fun hgo => ?_⟩
  have hgo' : ¬∃ cl ∈ s.clusters,
      (if stops cl then VRes.stops else lanewise (s.policy cl).1 (m cl) (e cl) (f cl)).stop = true := by
    simpa only [hstop] using hgo
  refine ⟨_, hexec, State.vexec_lands s.clusters_ne_nil hgo' fun cl hcl => ?_⟩
  have hfine : ¬stops cl = true := fun h => hgo' ⟨cl, hcl, by rw [if_pos h]; rfl⟩
  have hlive := fun h => hgo' ⟨cl, hcl, h⟩
  rw [if_neg hfine] at hlive ⊢
  obtain ⟨hm, hin, -, hflags⟩ := lanewise_results (hgone cl) (hres cl) hlive
  refine ⟨fun j hj => ?_, fun j hj hmj => ?_, fun b => ?_⟩
  · exact (Eq.congr_left (congrArg (BitVec.getLsbD · j) hm)).trans (hmask cl j hj)
  · obtain ⟨hempty, hfull⟩ := hin j hj ((hmask cl j hj).2 hmj)
    exact ⟨hempty, fun hg => ⟨(congrArg (R _ j) (hfull hg).1).mpr (hR _ j), (hfull hg).2⟩⟩
  · refine (Flags.getLsbD_word _ b).trans (and_congr_right fun _ => (hflags _).trans ?_)
    refine exists_congr fun j => and_congr_right fun hj => ?_
    rw [hmask cl j hj]

/-! ## The operands of AX64 -/

theorem halfOf_vsrc (s : State) (cl : Nat) (b : BitVec 5) :
    halfOf (s.vsrc cl b).val = (s.laneIn cl b 0).toNat / 2 ^ 16 % 2 := by
  rw [halfOf, s.lane_vsrc cl b (by omega), BitVec.getLsbD, Nat.toNat_testBit]

theorem laneExp_vsrc (s : State) (cl : Nat) (b : BitVec 5) {j : Nat} (hj : j < 16) :
    laneExp (s.vsrc cl b).val j = asSigned 16 ((s.laneIn cl b j).toNat % 2 ^ 16) := by
  rw [laneExp, s.lane_vsrc cl b hj]
  exact signedOf_eq_asSigned (Nat.mod_lt _ (by omega))

/-- The exponent in lane `i` of the sources. -/
def exponentAt (xs : List W32) (i : Nat) : Int := asSigned 16 ((xs.getD i 0).toNat % 2 ^ 16)

/-- CVTAX on an element and its exponent: the AX64 number of which lane j holds a half. -/
def cvtaxElem (xs : List W32) : Int × Flags := toAx (exponentAt xs 1) (fp32.value (xs.getD 0 0).toNat)

/-- CVTXA on the two lanes of an AX64 number and its exponent. -/
def cvtxaElem (xs : List W32) : Nat × Flags :=
  ofAx (exponentAt xs 2) (asSigned 64 ((xs.getD 0 0).toNat + (xs.getD 1 0).toNat * 2 ^ 32))

theorem cvtaxElem_sources (s : State) (cl : Nat) (a b : BitVec 5) {j : Nat} (hj : j < 16) :
    cvtaxElem ([(a, 8 * ((s.laneIn cl b 0).toNat / 2 ^ 16 % 2) + j / 2), (b, j), (b, 0)].map fun r => s.laneIn cl r.1 r.2) =
      toAx (laneExp (s.vsrc cl b).val j)
        (fp32.value (lane (s.vsrc cl a).val (8 * halfOf (s.vsrc cl b).val + j / 2)).toNat) := by
  rw [laneExp_vsrc s cl b hj, halfOf_vsrc, s.lane_vsrc cl a (by omega)]
  rfl

theorem two_lanes_lt (x y : W32) : x.toNat + y.toNat * 2 ^ 32 < 2 ^ 64 := by
  have hx := x.isLt
  have hy := y.isLt
  omega

theorem cvtxaElem_sources (s : State) (cl : Nat) (a b : BitVec 5) {j : Nat} (hj : j < 16) :
    cvtxaElem ([(a, 2 * (j % 8)), (a, 2 * (j % 8) + 1), (b, j), (b, 0)].map fun r => s.laneIn cl r.1 r.2) =
      ofAx (laneExp (s.vsrc cl b).val j) (signedOf 64 ((lane (s.vsrc cl a).val (2 * (j % 8))).toNat +
        (lane (s.vsrc cl a).val (2 * (j % 8) + 1)).toNat * 2 ^ 32)) := by
  rw [laneExp_vsrc s cl b hj, s.lane_vsrc cl a (by omega), s.lane_vsrc cl a (by omega),
    signedOf_eq_asSigned (two_lanes_lt _ _)]
  rfl

/-! ## The conversions -/

theorem laneWiseFrom_cvtax (s : State) (d a b : BitVec 5) (q : BitVec 3) :
    LaneWiseFrom (.cvtax d a b q) s d 4 (fun _ => False) (fun cl j => (s.was.qr cl q.toNat).getLsbD j = true)
      (fun cl j => [(a, 8 * ((s.laneIn cl b 0).toNat / 2 ^ 16 % 2) + j / 2), (b, j), (b, 0)])
      (fun xs j r => r.toNat = if j % 2 = 0 then wrapTo 64 (cvtaxElem xs).1 % 2 ^ 32
        else wrapTo 64 (cvtaxElem xs).1 / 2 ^ 32 % 2 ^ 32)
      fun xs => (cvtaxElem xs).2 := by
  refine laneWiseFrom_of_exec (stops := fun _ => false) (val := fun xs j => BitVec.ofNat 32
      (if j % 2 = 0 then wrapTo 64 (cvtaxElem xs).1 else wrapTo 64 (cvtaxElem xs).1 / 2 ^ 32)) rfl
    (fun cl => by simp) (fun _ _ _ => Iff.rfl) (fun cl j hj => ?_) (fun cl j hj => ?_) fun xs j => ?_
  · rw [getLsbD_bits16 _ hj, Bool.or_eq_true, Bool.or_eq_true, s.emp_vsrc, s.emp_vsrc, s.emp_vsrc, halfOf_vsrc, or_assoc]
    simp only [List.mem_cons, List.not_mem_nil, or_false, exists_eq_or_imp, exists_eq_left]
  · rw [cvtaxElem_sources s cl a b hj]
  · rw [BitVec.toNat_ofNat]
    split <;> rfl

/-- The lanes of the half that H selects. -/
theorem getLsbD_halfMask : ∀ h, h < 2 → ∀ j, j < 16 →
    (if h = 0 then 0x00FF#16 else 0xFF00#16).getLsbD j = decide (j / 8 = h) := by decide

/-- Stated for any function that agrees with `cvtxaElem`, so that its values need not be compared by evaluating them. -/
theorem laneWiseFrom_cvtxa (s : State) (d a b : BitVec 5) (q : BitVec 3) {elem : List W32 → Nat × Flags}
    (helem : ∀ xs, elem xs = cvtxaElem xs) :
    LaneWiseFrom (.cvtxa d a b q) s d 4
      (fun cl => s.laneGone cl b 0 ∧ ∃ j, j < 16 ∧ (s.was.qr cl q.toNat).getLsbD j = true)
      (fun cl j => (s.was.qr cl q.toNat).getLsbD j = true ∧ j / 8 = (s.laneIn cl b 0).toNat / 2 ^ 16 % 2)
      (fun _ j => [(a, 2 * (j % 8)), (a, 2 * (j % 8) + 1), (b, j), (b, 0)])
      (fun xs _ r => r.toNat = (elem xs).1 % 2 ^ 32) fun xs => (elem xs).2 := by
  obtain rfl : elem = cvtxaElem := funext helem
  refine laneWiseFrom_of_exec
    (stops := fun cl => (s.policy cl).1 == 2 && (s.vsrc cl b).emp.getLsbD 0 && s.mask cl q != 0)
    (val := fun xs _ => BitVec.ofNat 32 (cvtxaElem xs).1) rfl
    (fun cl => ?_) (fun cl j hj => ?_) (fun cl j hj => ?_) (fun cl j hj => ?_) fun xs _ => BitVec.toNat_ofNat ..
  · have hmask : (s.mask cl q != 0) = true ↔ ∃ j, j < 16 ∧ (s.was.qr cl q.toNat).getLsbD j = true := by
      rw [← BitVec.and_self (x := s.mask cl q), and_ne_zero_iff]
      simp only [and_self]
      rfl
    rw [Bool.and_eq_true, Bool.and_eq_true, beq_iff_eq, s.emp_vsrc, s.policy_fst, hmask, and_assoc]
    rfl
  · rw [BitVec.getLsbD_and, halfOf_vsrc, getLsbD_halfMask _ (Nat.mod_lt _ (by omega)) j hj, Bool.and_eq_true,
      decide_eq_true_eq]
    rfl
  · rw [getLsbD_bits16 _ hj]
    simp only [Bool.or_eq_true, s.emp_vsrc, List.mem_cons, List.not_mem_nil, or_false, exists_eq_or_imp, exists_eq_left]
    tauto
  · rw [cvtxaElem_sources s cl a b hj]

end Sys2Proof.Machine
end

section
/-! `PACKB` and `UNPKB` (R58, R59, R201, R202): packed elements and the scales above them. -/

namespace Sys2Proof.Machine
open Sys2Proof

/-! ## Whole registers under a mask -/

/-- An operation that makes a register of the lanes of `m`, and writes it under a mask of its own, lands as R189 says. -/
theorem wholeWise_of_results {i : Instr} {s : State} {d a : BitVec 5} {bound : Nat} {m : Nat → BitVec 16}
    {reads : Nat → Nat → Prop} {P : Nat → Landing → Prop} {F : Nat → Flags} {f : Nat → VReg → VRes}
    {val : Nat → BitVec 512} {mask : Nat → BitVec 16}
    (hexec : exec i s = .next (s.vexec d bound s.clusters fun cl => s.wholeOp cl (m cl) a (f cl)))
    (hreads : ∀ cl j, j < 16 → ((m cl).getLsbD j = true ↔ reads cl j))
    (hres : ∀ cl, f cl (s.vsrc cl a) = ⟨false, val cl, 0, mask cl, F cl⟩)
    (hP : ∀ cl e, e.val = val cl → e.mask = mask cl → P cl e) :
    WholeWise i s d a bound reads P F := by
  have hgone : ∀ cl, (∃ j, j < 16 ∧ reads cl j ∧ s.laneGone cl a j) ↔
      ∃ j, j < 16 ∧ (m cl).getLsbD j = true ∧ s.laneGone cl a j := fun cl =>
    exists_congr fun j => and_congr_right fun hj => and_congr_left fun _ => (hreads cl j hj).symm
  have hstop : ∀ cl, (s.wholeOp cl (m cl) a (f cl)).stop = true ↔
      s.stopsOnEmpty cl ∧ ∃ j, j < 16 ∧ reads cl j ∧ s.laneGone cl a j := by
    intro cl
    obtain ⟨hempty, hfine⟩ := s.wholeOp_cases cl (m cl) a (f cl)
    rw [hgone]
    by_cases hg : ∃ j, j < 16 ∧ (m cl).getLsbD j = true ∧ s.laneGone cl a j
    · rw [hempty hg, and_iff_left hg]
      by_cases hpol : (s.seen.vcfg.get 0 cl).toNat % 4 = 2
      · rw [if_pos hpol]
        exact iff_of_true rfl hpol
      · rw [if_neg hpol]
        exact iff_of_false Bool.false_ne_true hpol
    · rw [hfine hg, hres]
      exact iff_of_false Bool.false_ne_true fun h => hg h.2
  refine ⟨fun ⟨cl, hcl, h⟩ => ⟨_, hexec, State.vexec_stops ⟨cl, hcl, (hstop cl).2 h⟩⟩, fun hgo => ?_⟩
  have hgo' : ¬∃ cl ∈ s.clusters, (s.wholeOp cl (m cl) a (f cl)).stop = true := by simpa only [hstop] using hgo
  refine ⟨_, hexec, State.vexec_lands s.clusters_ne_nil hgo' fun cl hcl => ⟨fun hg => ?_, fun hg => ?_⟩⟩
  · have hpol : ¬(s.seen.vcfg.get 0 cl).toNat % 4 = 2 := fun h => hgo ⟨cl, hcl, h, hg⟩
    rw [(s.wholeOp_cases cl (m cl) a (f cl)).1 ((hgone cl).1 hg), if_neg hpol]
    exact ⟨rfl, rfl, rfl, rfl⟩
  · rw [(s.wholeOp_cases cl (m cl) a (f cl)).2 (mt (hgone cl).2 hg), hres]
    exact ⟨hP cl _ rfl rfl, rfl, fun b => Flags.getLsbD_word _ b⟩

theorem eq_of_lane_eq {x y : BitVec 512} (h : ∀ j, j < 16 → lane x j = lane y j) : x = y := by
  refine BitVec.eq_of_getLsbD_eq fun b hb => ?_
  have hbit := congrArg (BitVec.getLsbD · (b % 32)) (h (b / 32) (by omega))
  have hlt : b % 32 < 32 := Nat.mod_lt _ (by omega)
  simpa [lane, BitVec.getLsbD_extractLsb', hlt, Nat.div_add_mod] using hbit

theorem State.val_vsrc (s : State) (cl : Nat) (a : BitVec 5) :
    (s.vsrc cl a).val = lanes fun i => s.laneIn cl a i :=
  eq_of_lane_eq fun _ hj => (s.lane_vsrc cl a hj).trans (lane_lanes _ hj).symm

/-! ## Packed elements -/

theorem packBits_lt (b : Nat) (l : List Nat) : packBits b l < 2 ^ (b * l.length) := by
  induction l with
  | nil => simp [packBits]
  | cons x l ih =>
    have hx : x % 2 ^ b < 2 ^ b := Nat.mod_lt _ (by positivity)
    have hstep : 2 ^ b * (packBits b l + 1) ≤ 2 ^ b * 2 ^ (b * l.length) := Nat.mul_le_mul_left _ ih
    rw [packBits, List.length_cons, Nat.mul_succ, Nat.add_comm (b * _), pow_add]
    rw [Nat.mul_succ] at hstep
    omega

theorem packBits_field (b : Nat) (l : List Nat) (i : Nat) : packBits b l / 2 ^ (b * i) % 2 ^ b = l.getD i 0 % 2 ^ b := by
  induction l generalizing i with
  | nil => simp [packBits]
  | cons x l ih =>
    cases i with
    | zero => simp [packBits]
    | succ i =>
      have hdrop : packBits b (x :: l) / 2 ^ b = packBits b l := by
        rw [packBits, Nat.add_mul_div_left _ _ (by positivity), Nat.div_eq_of_lt (Nat.mod_lt _ (by positivity)),
          Nat.zero_add]
      rw [Nat.mul_succ, Nat.add_comm (b * i), pow_add, ← Nat.div_div_eq_div_mul, hdrop, ih, List.getD_cons_succ]

theorem chooseScale_lt (emax : Dyadic) (vs : List FVal) : chooseScale emax vs < 256 := by
  unfold chooseScale
  dsimp only
  split
  · decide
  · cases h : List.find? _ _ with
    | none => decide
    | some k =>
      have hmem := List.mem_of_find?_eq_some h
      simp only [List.mem_map, List.mem_range] at hmem
      obtain ⟨j, hj, rfl⟩ := hmem
      simp only [Option.getD_some]
      omega

theorem packBlock_bounds (c : FpCtl) (code : Nat) {vs : List FVal} (h : vs.length = 8) :
    (packBlock c code vs).1.length = 8 ∧ (packBlock c code vs).2.1 < 256 := by
  unfold packBlock
  dsimp only
  split
  · exact ⟨List.length_replicate, by decide⟩
  · exact ⟨by simp [h], chooseScale_lt ..⟩

theorem add_high_lt {x k n m w : Nat} (hx : x < 2 ^ n) (hk : k < 2 ^ m) (h : m + n ≤ w) : x + k * 2 ^ n < 2 ^ w :=
  calc x + k * 2 ^ n < 2 ^ n + k * 2 ^ n := Nat.add_lt_add_right hx _
    _ = (k + 1) * 2 ^ n := by rw [Nat.succ_mul, Nat.add_comm]
    _ ≤ 2 ^ m * 2 ^ n := Nat.mul_le_mul_right _ hk
    _ = 2 ^ (m + n) := (pow_add ..).symm
    _ ≤ 2 ^ w := Nat.pow_le_pow_right (by omega) h

/-- The elements of two blocks with their scales above them (R201). -/
theorem packed_layout {b sl k0 k1 : Nat} {l0 l1 : List Nat} (h0 : l0.length = 8) (h1 : l1.length = 8) (hk0 : k0 < 256)
    (hk1 : k1 < 256) (hb : b * 16 = 32 * sl) (hsl : sl ≤ 14) :
    (BitVec.ofNat 512 (packBits b (l0 ++ l1) + (k0 + k1 * 256) * 2 ^ (32 * sl))).toNat / 2 ^ (32 * sl) = k0 + k1 * 256 ∧
    ∀ i, i < 16 → (BitVec.ofNat 512 (packBits b (l0 ++ l1) + (k0 + k1 * 256) * 2 ^ (32 * sl))).toNat / 2 ^ (b * i) % 2 ^ b =
      (if i / 8 = 0 then l0 else l1).getD (i % 8) 0 % 2 ^ b := by
  have hbits : packBits b (l0 ++ l1) < 2 ^ (32 * sl) := by
    have hlt := packBits_lt b (l0 ++ l1)
    rwa [List.length_append, h0, h1, hb] at hlt
  have hfit := add_high_lt (w := 512) hbits (by omega : k0 + k1 * 256 < 2 ^ 16) (by omega)
  rw [toNat_ofNat_of_lt hfit]
  refine ⟨?_, fun i hi => ?_⟩
  · rw [Nat.add_mul_div_right _ _ (by positivity), Nat.div_eq_of_lt hbits, Nat.zero_add]
  · have hroom : b * (i + 1) ≤ 32 * sl := hb ▸ Nat.mul_le_mul_left b hi
    rw [field_add_high _ _ hroom, packBits_field]
    by_cases hlow : i < 8
    · rw [List.getD_append _ _ _ _ (by omega), if_pos (by omega), Nat.mod_eq_of_lt hlow]
    · rw [List.getD_append_right _ _ _ _ (by omega), if_neg (by omega), h0, show i - 8 = i % 8 by omega]

/-- Block `h` of the lanes of `a`, lanes outside the mask as zeros. -/
def State.packedBlock (s : State) (cl : Nat) (a : BitVec 5) (q : BitVec 3) (code h : Nat) : List Nat × Nat × Flags :=
  packBlock s.fpc code ((List.range 8).map fun i =>
    if (s.was.qr cl q.toNat).getLsbD (8 * h + i) then fp32.operand s.fpc (s.laneIn cl a (8 * h + i)).toNat
    else .fin false 0 0)

theorem State.packedBlock_bounds (s : State) (cl : Nat) (a : BitVec 5) (q : BitVec 3) (code h : Nat) :
    (s.packedBlock cl a q code h).1.length = 8 ∧ (s.packedBlock cl a q code h).2.1 < 256 :=
  packBlock_bounds _ _ (by simp)

/-- The two blocks of PACKB. -/
theorem packBlock_vsrc (s : State) (cl : Nat) (a : BitVec 5) (q : BitVec 3) (code : Nat) :
    let xs := (List.range 16).map fun i =>
      if (s.mask cl q).getLsbD i then fp32.operand s.fpc (lane (s.vsrc cl a).val i).toNat else .fin false 0 0
    packBlock s.fpc code (xs.take 8) = s.packedBlock cl a q code 0 ∧
    packBlock s.fpc code (xs.drop 8) = s.packedBlock cl a q code 1 := by
  intro xs
  have hxs : xs = (List.range 16).map fun i =>
      if (s.was.qr cl q.toNat).getLsbD i then fp32.operand s.fpc (s.laneIn cl a i).toNat else .fin false 0 0 :=
    List.map_congr_left fun i hi => by rw [s.lane_vsrc cl a (List.mem_range.1 hi)]; rfl
  rw [hxs]
  exact ⟨rfl, rfl⟩

/-- The element width of a block-scaled code, and the place of its scales: 16 elements fill the lanes below them. -/
theorem blockLayout {n : Nat} (h : n ∈ [6, 7, 8]) :
    fmtBits n = (if n = 8 then 4 else 6) ∧ scaleLane n = (if n = 8 then 2 else 3) ∧ fmtBits n * 16 = 32 * scaleLane n := by
  revert n
  decide

/-- The register that PACKB writes: the elements of both blocks, with their scales in the lane above them. -/
def State.packedWord (s : State) (cl : Nat) (a : BitVec 5) (q : BitVec 3) (code : Nat) : BitVec 512 :=
  BitVec.ofNat 512 (packBits (fmtBits code) ((s.packedBlock cl a q code 0).1 ++ (s.packedBlock cl a q code 1).1) +
    ((s.packedBlock cl a q code 0).2.1 + (s.packedBlock cl a q code 1).2.1 * 256) * 2 ^ (32 * scaleLane code))

theorem State.packedWord_layout (s : State) (cl : Nat) (a : BitVec 5) (q : BitVec 3) {n : Nat} (hn : n ∈ [6, 7, 8]) :
    (s.packedWord cl a q n).toNat / 2 ^ (32 * scaleLane n) =
      (s.packedBlock cl a q n 0).2.1 + (s.packedBlock cl a q n 1).2.1 * 256 ∧
    ∀ i, i < 16 → (s.packedWord cl a q n).toNat / 2 ^ (fmtBits n * i) % 2 ^ fmtBits n =
      (s.packedBlock cl a q n (i / 8)).1.getD (i % 8) 0 % 2 ^ fmtBits n := by
  obtain ⟨-, hlane, hfill⟩ := blockLayout hn
  obtain ⟨hlen0, hk0⟩ := s.packedBlock_bounds cl a q n 0
  obtain ⟨hlen1, hk1⟩ := s.packedBlock_bounds cl a q n 1
  obtain ⟨hscale, helem⟩ := packed_layout hlen0 hlen1 hk0 hk1 hfill (by rw [hlane]; split <;> omega)
  refine ⟨hscale, fun i hi => (helem i hi).trans ?_⟩
  split
  next h => rw [h]
  next h => rw [show i / 8 = 1 by omega]

theorem wholeWise_packb (s : State) (d a k : BitVec 5) (q : BitVec 3) (hk : k.toNat ∈ [6, 7, 8]) :
    WholeWise (.packb d a k q) s d a 6 (fun cl j => (s.was.qr cl q.toNat).getLsbD j = true)
      (fun cl e => e.mask = 0xFFFF ∧ e.val.toNat / 2 ^ (32 * scaleLane k.toNat) =
          (s.packedBlock cl a q k.toNat 0).2.1 + (s.packedBlock cl a q k.toNat 1).2.1 * 256 ∧
        ∀ i, i < 16 → e.val.toNat / 2 ^ (fmtBits k.toNat * i) % 2 ^ fmtBits k.toNat =
          (s.packedBlock cl a q k.toNat (i / 8)).1.getD (i % 8) 0 % 2 ^ fmtBits k.toNat)
      fun cl => (s.packedBlock cl a q k.toNat 0).2.2 ||| (s.packedBlock cl a q k.toNat 1).2.2 := by
  refine wholeWise_of_exec (val := fun cl => s.packedWord cl a q k.toNat) rfl (fun cl => ?_) fun cl e hval hmask => ?_
  · obtain ⟨hlow, hhigh⟩ := packBlock_vsrc s cl a q k.toNat
    dsimp only
    rw [hlow, hhigh]
    rfl
  · rw [hval]
    exact ⟨hmask, s.packedWord_layout cl a q hk⟩

theorem wholeWise_unpkb (s : State) (d a k : BitVec 5) (q : BitVec 3) :
    WholeWise (.unpkb d a k q) s d a 6 (fun _ j => j ≤ scaleLane k.toNat)
      (fun cl e => ∀ j, j < 16 → (e.mask.getLsbD j = true ↔ (s.was.qr cl q.toNat).getLsbD j = true) ∧
        ((s.was.qr cl q.toNat).getLsbD j = true → (e.val.extractLsb' (32 * j) 32).toNat =
          unpackElem k.toNat (lanes fun i => s.laneIn cl a i) j % 2 ^ 32))
      fun _ => 0 := by
  refine wholeWise_of_results rfl (fun cl j hj => ?_) (fun _ => rfl) fun cl e hval hmask j hj => ?_
  · rw [BitVec.getLsbD_ofNat, Nat.testBit_two_pow_sub_one, decide_eq_true hj, Bool.true_and, decide_eq_true_iff,
      Nat.lt_succ_iff]
  · refine ⟨by rw [hmask]; rfl, fun _ => ?_⟩
    rw [hval]
    refine (congrArg BitVec.toNat (lane_lanes _ hj)).trans ?_
    rw [BitVec.toNat_ofNat, s.val_vsrc]

/-- Settles O40: CVT is lane-wise by `cvtLane_gives`, CVTAX and CVTXA read lanes of their sources, PACKB and UNPKB make whole
registers. -/
theorem conversions : Obligations.Conversions := by
  intro s d a b k q c n m fld keeps x put gives half E ax xa
  refine ⟨laneWise_cvt s d a k q, laneWiseFrom_cvtax s d a b q, laneWiseFrom_cvtxa s d a b q (elem := xa) fun _ => rfl,
    fun hk => ?_⟩
  obtain ⟨hwide, hlane, -⟩ := blockLayout hk
  intro wide sl blk
  have hpack := wholeWise_packb s d a k q hk
  have hunpack := wholeWise_unpkb s d a k q
  rw [hwide, hlane] at hpack
  rw [hlane] at hunpack
  exact ⟨hpack, hunpack⟩

end Sys2Proof.Machine
end

section
/-! Numbers of up to 8 bytes (R5, R230): what memory holds, what a load extends, and what a store of bytes leaves. -/

namespace Sys2Proof.Machine
open Sys2Proof

/-! ## Bytes and numbers -/

theorem ofBytes_lt (l : List Byte) : ofBytes l < 256 ^ l.length := by
  induction l with
  | nil => simp [ofBytes]
  | cons b l ih =>
    have := b.isLt
    rw [ofBytes, List.length_cons, pow_succ]
    omega

theorem ofBytes_append (l m : List Byte) : ofBytes (l ++ m) = ofBytes l + 256 ^ l.length * ofBytes m := by
  induction l with
  | nil => simp [ofBytes]
  | cons b l ih =>
    rw [List.cons_append, ofBytes, ofBytes, ih, List.length_cons, pow_succ]
    ring

@[simp] theorem State.length_readBytes (s : State) (k n : Nat) : (s.readBytes k n).length = n := by
  simp [State.readBytes]

/-- The bytes that a read finds make the number that memory holds there. -/
theorem State.ofBytes_readBytes (s : State) (k n : Nat) : ofBytes (s.readBytes k n) = s.numberAt k n := by
  induction n with
  | zero => rfl
  | succ n ih =>
    have hsplit : s.readBytes k (n + 1) = s.readBytes k n ++ [s.byte (k + n)] := by
      rw [State.readBytes, List.range_succ, List.map_append]
      rfl
    rw [hsplit, ofBytes_append, ih, State.length_readBytes, State.numberAt, ofBytes, ofBytes]
    ring

theorem State.numberAt_lt (s : State) (k n : Nat) : s.numberAt k n < 256 ^ n := by
  have := ofBytes_lt (s.readBytes k n)
  rwa [s.ofBytes_readBytes, s.length_readBytes] at this

theorem ofBytes_toBytes (n v : Nat) : ofBytes (toBytes n v) = v % 256 ^ n := by
  induction n generalizing v with
  | zero => simp [toBytes, ofBytes, Nat.mod_one]
  | succ n ih =>
    rw [toBytes, ofBytes, ih, BitVec.toNat_ofNat, show 256 ^ (n + 1) = 256 * 256 ^ n from Nat.pow_succ', Nat.mod_mul]

theorem getElem?_toBytes {n i : Nat} (v : Nat) (hi : i < n) : (toBytes n v)[i]? = some (BitVec.ofNat 8 (v / 256 ^ i)) := by
  have hlen : i < (toBytes n v).length := by simpa using hi
  have hget := getD_toBytes n i v hi
  rw [List.getD_eq_getElem _ _ hlen] at hget
  rw [List.getElem?_eq_getElem hlen, hget]

theorem signExtend_ofNat {w v : Nat} (hw : 0 < w) (hv : v < 2 ^ w) :
    (BitVec.ofNat w v).signExtend 64 = BitVec.ofInt 64 (if 2 ^ (w - 1) ≤ v then (v : Int) - 2 ^ w else v) := by
  have hnat : (BitVec.ofNat w v).toNat = v := (BitVec.toNat_ofNat ..).trans (Nat.mod_eq_of_lt hv)
  rw [BitVec.signExtend, toInt_of_width_pos hw, hnat]

/-- What a load returns of the bytes that it reads: the number signed, or as it is. -/
theorem extend_eq {n : Nat} (hn : 0 < n) {l : List Byte} (hl : l.length = n) (signed : Bool) :
    extend signed n l = if signed then BitVec.ofInt 64 (signedNumber n (ofBytes l)) else BitVec.ofNat 64 (ofBytes l) := by
  have hlt : ofBytes l < 2 ^ (8 * n) := by
    have := ofBytes_lt l
    rwa [hl, show (256 : Nat) = 2 ^ 8 from rfl, ← pow_mul] at this
  cases signed with
  | true =>
    show sextN (ofBytes l) (8 * n) = _
    rw [sextN, signExtend_ofNat (by omega) hlt]
    rfl
  | false =>
    show zextN (ofBytes l) (8 * n) = _
    apply BitVec.eq_of_toNat_eq
    rw [zextN, BitVec.toNat_setWidth, BitVec.toNat_ofNat, Nat.mod_eq_of_lt hlt]
    rfl

theorem State.extend_readBytes (s : State) (k : Nat) {n : Nat} (hn : 0 < n) (signed : Bool) :
    extend signed n (s.readBytes k n) =
      if signed then BitVec.ofInt 64 (signedNumber n (s.numberAt k n)) else BitVec.ofNat 64 (s.numberAt k n) := by
  rw [extend_eq hn (s.length_readBytes k n), s.ofBytes_readBytes]

/-! ## A context's write -/

theorem State.full_writeBytes (s : State) (k : Nat) (l : List Byte) : (s.writeBytes k l).full = s.full := by
  rw [s.writeBytes_eq]

theorem State.mem_noteTable (s : State) (c x oc key n : Nat) : (s.noteTable c x oc key n).mem = s.mem := by
  unfold State.noteTable
  split <;> rfl

theorem State.full_noteTable (s : State) (c x oc key n : Nat) : (s.noteTable c x oc key n).full = s.full := by
  unfold State.noteTable
  split <;> rfl

theorem State.engineSees_leaves (s : State) (c x key : Nat) (l : List Byte) :
    (s.engineSees c x key l).mem = s.mem ∧ (s.engineSees c x key l).full = s.full := by
  unfold State.engineSees
  simp only
  split
  · exact ⟨rfl, rfl⟩
  · refine foldl_keep (fun t : State => t.mem = s.mem ∧ t.full = s.full) _ (fun t e ht => ?_) _ s ⟨rfl, rfl⟩
    exact ht

/-- A context's write changes memory as `writeBytes` does, and no full bit. -/
theorem State.storeBytes_leaves (s : State) (c x oc key : Nat) (l : List Byte) :
    (s.storeBytes c x oc key l).mem = (s.writeBytes key l).mem ∧ (s.storeBytes c x oc key l).full = s.full := by
  have hbytes : ((s.noteTable c x oc key l.length).writeBytes key l).mem = (s.writeBytes key l).mem := by
    have hmem := s.mem_noteTable c x oc key l.length
    generalize s.noteTable c x oc key l.length = t at hmem ⊢
    induction l generalizing s t key with
    | nil => exact hmem
    | cons b l ih => exact ih (s.setByte key b) (key + 1) (t.setByte key b) (by unfold State.setByte; rw [hmem])
  obtain ⟨hmem, hfull⟩ := (((s.noteTable c x oc key l.length).writeBytes key l).clearPoison key l.length).engineSees_leaves c x key l
  refine ⟨hmem.trans hbytes, hfull.trans ?_⟩
  rw [State.clearPoison_full, State.full_writeBytes, State.full_noteTable]

theorem State.ctx_storeBytes (s : State) (c x oc key : Nat) (l : List Byte) : (s.storeBytes c x oc key l).ctx = s.ctx :=
  (State.SameBanks.storeBytes s c x oc key l).ctx

theorem State.byte_storeBytes {s : State} (h : Memory.wf s.mem = true) (c x oc key : Nat) (l : List Byte) (j : Nat) :
    (s.storeBytes c x oc key l).byte j = if key ≤ j then (l[j - key]?).getD (s.byte j) else s.byte j := by
  rw [State.byte_of_mem (s.storeBytes_leaves c x oc key l).1, State.byte_writeBytes h]

/-- A store of the low bytes of a number. -/
theorem State.storesAt_storeBytes {s : State} (h : Memory.wf s.mem = true) (c x oc key n v : Nat) :
    StoresAt s (s.storeBytes c x oc key (toBytes n v)) key n v := by
  refine ⟨fun i hi => ?_, fun a ha => ?_⟩
  · rw [State.byte_storeBytes h, if_pos (Nat.le_add_right ..), Nat.add_sub_cancel_left, getElem?_toBytes v hi]
    exact BitVec.toNat_ofNat ..
  · rw [State.byte_storeBytes h]
    split
    · rw [List.getElem?_eq_none (by simp only [toBytes_length]; omega)]
      rfl
    · rfl

end Sys2Proof.Machine
end

section
/-! Local accesses (R228-R232, R285-R290): when one is performed as it issues, what holds it, what it meets of poison and
watchpoints, and what one that waits leaves. -/

namespace Sys2Proof.Machine
open Sys2Proof

/-! ## Places -/

/-- A local form names the space that its low bits give, whatever its prefix. -/
theorem State.aSpace_localAddr (s : State) (c : Nat) (ea : W64) : aSpace (s.localAddr c ea) = aSpace ea := by
  apply congrArg BitVec.toNat
  apply BitVec.eq_of_getLsbD_eq
  intro i hi
  have hlow : 41 + i < 43 := by omega
  have hbit : (s.localAddr c ea).getLsbD (41 + i) = ea.getLsbD (41 + i) := by
    refine (BitVec.getLsbD_append (x := s.cellPrefix c)).trans ?_
    rw [if_pos hlow]
    simp [hlow]
  simp [hbit]

theorem State.localError_align {s : State} {ea : W64} {n align : Nat} {store sync amo : Bool}
    (h : s.localError ea n align store sync amo = none) : aOff (s.localAddr s.focus.cell ea) % align = 0 := by
  unfold State.localError at h
  split at h
  · unfold accessError at h
    simp only at h
    split at h
    · cases h
    · split at h
      · cases h
      · next hal => simpa using hal
  · cases h

/-! ## Poison and watchpoints -/

theorem State.poisoned_subrange {s : State} {k n : Nat} (h : s.poisoned k n = false) {j m : Nat} (hlo : k ≤ j)
    (hhi : j + m ≤ k + n) : s.poisoned j m = false := by
  unfold State.poisoned at h ⊢
  rw [List.any_eq_false] at h ⊢
  intro e he
  have := h e he
  simp only [Bool.and_eq_true, decide_eq_true_eq] at this ⊢
  omega

/-- A fold whose every step keeps the value that it starts with. -/
theorem foldl_of_fixed {α β : Type} {f : β → α → β} {b : β} {l : List α} (h : ∀ a, a ∈ l → f b a = b) : l.foldl f b = b := by
  induction l with
  | nil => rfl
  | cons a l ih =>
    rw [List.foldl_cons, h a (List.mem_cons_self ..)]
    exact ih fun e he => h e (List.mem_cons_of_mem _ he)

/-- No watchpoint fires while none is enabled. -/
theorem State.watchHits_of_disabled {s : State} (h : ∀ w, w < 4 → (s.here.wv.get 0 (4 * w + 1)).getLsbD 0 = false)
    (ps : List Piece) : s.watchHits ps = 0 := by
  unfold State.watchHits
  simp only
  split
  · rfl
  · refine foldl_of_fixed fun n hn => ?_
    rw [h n (List.mem_range.1 hn)]
    rfl

namespace State.Clear
variable {s : State} {ea : W64} {n align : Nat} {store sync amo : Bool} (h : s.Clear ea n align store sync amo)
include h

theorem allowed : s.localError ea n align store sync amo = none := h.1

theorem inMemory : aSpace (s.localAddr s.focus.cell ea) ≠ 3 := by
  rw [State.aSpace_localAddr]
  exact h.2.1

theorem localPoison : s.localPoison ea n = false := h.2.2.1

theorem unpoisoned : s.poisoned (s.localKey ea) n = false := by
  obtain ⟨-, hsp, hpoison, -⟩ := h
  unfold State.localPoison at hpoison
  simpa [State.localKey, hsp] using hpoison

theorem unwatched (ps : List Piece) : s.watchHits ps = 0 := State.watchHits_of_disabled h.2.2.2 ps

/-- A local write of memory is committed. -/
theorem localWrite (oc : Nat) {ps : List Piece} (commit : State → State)
    (hps : ∀ p, p ∈ ps → s.localKey ea ≤ p.key ∧ p.key + p.bytes.length ≤ s.localKey ea + n) :
    s.localWrite ea oc ps commit = commit s := by
  have hfind : (ps.find? fun p => decide (p.bytes.length < 8) && s.poisoned p.key p.bytes.length) = none := by
    rw [List.find?_eq_none]
    intro p hp
    obtain ⟨hlo, hhi⟩ := hps p hp
    simp [State.poisoned_subrange h.unpoisoned hlo hhi]
  unfold State.localWrite
  simp only [if_neg h.inMemory, h.unwatched ps, ne_eq, not_true_eq_false, if_false, hfind]

/-- The same for the one part of a scalar store. -/
theorem localWrite_scalar (oc : Nat) {l : List Byte} (hl : l.length = n) (commit : State → State) :
    s.localWrite ea oc (s.scalarPiece ea l) commit = commit s := by
  refine h.localWrite oc commit fun p hp => ?_
  obtain rfl := List.mem_singleton.1 hp
  simp only [hl]
  exact ⟨le_rfl, le_rfl⟩

end State.Clear

/-! ## Order -/

theorem State.behindRelease_of_free {s : State} {oc : Nat} (h : s.barred s.focus.cell oc s.ctx = []) (f : State → State) :
    s.behindRelease oc f = f s := by
  simp [State.behindRelease, h]

theorem State.behindRelease_of_barred {s : State} {oc : Nat} (h : s.barred s.focus.cell oc s.ctx ≠ []) (f : State → State) :
    s.behindRelease oc f = s.block (.fence (s.barred s.focus.cell oc s.ctx)) := by
  simp [State.behindRelease, h]

theorem State.settleClass_nil {s : State} (h : s.ctx.pend = []) (oc : Nat) : s.settleClass oc = s := State.settle_nil h _

namespace State.Prompt
variable {s : State} (h : s.Prompt)
include h

theorem pend : s.ctx.pend = [] := h.2.1

theorem barred (oc : Nat) : s.barred s.focus.cell oc s.ctx = [] := by
  obtain ⟨-, -, hbar⟩ := h
  unfold State.barred
  rw [List.filter_eq_nil_iff.2 fun w hw => by simp [hbar w hw], List.map_nil]

theorem prompt (oc : Nat) : s.prompt oc = true := by
  unfold State.prompt
  rw [h.1, h.pend, h.barred oc]
  rfl

theorem behindRelease (oc : Nat) (f : State → State) : s.behindRelease oc f = f s := State.behindRelease_of_free (h.barred oc) f

theorem settleClass (oc : Nat) : s.settleClass oc = s := State.settleClass_nil h.pend oc

/-- A local write is performed part by part as it issues. -/
theorem storeLocal (oc : Nat) (ps : List Piece) : s.storeLocal oc ps =
    ps.foldl (fun t p => t.storeBytes s.focus.cell s.focus.ctx oc p.key p.bytes) s := if_pos (h.prompt oc)

end State.Prompt

/-! ## Accesses that wait -/

/-- `t` is `s` with an access at the end of those of its context that wait; registers, full bits and memory are as before. -/
def State.Joins (s t : State) (oc : Nat) (op : PendOp) (ps : List Piece) : Prop :=
  (∃ e, t.ctx.pend = s.ctx.pend ++ [e] ∧ e.oc = oc ∧ e.op = op ∧ e.pieces = ps) ∧
  SameRegisters s.ctx t.ctx ∧ t.full = s.full ∧ ∀ j, t.byte j = s.byte j

theorem State.delay_joins (s : State) (oc : Nat) (op : PendOp) (ps : List Piece) : s.Joins (s.delay oc op ps) oc op ps := by
  have hctx : (s.delay oc op ps).ctx = { s.ctx with pend := s.ctx.pend ++ [⟨s.here.nextId + 1, oc, op, ps⟩] } := by
    unfold State.delay
    rw [State.ctx_modCtx, State.ctx_modHere rfl]
  unfold State.Joins
  rw [hctx]
  exact ⟨⟨_, rfl, rfl, rfl, rfl⟩, .refl _, rfl, fun _ => rfl⟩

/-- One that supplies a scalar result. -/
theorem State.awaitOp_joins (s : State) (d : BitVec 6) (oc key : Nat) (op : PendOp) (n : Nat) :
    s.Joins (s.awaitOp d oc key op n) oc op (wordPieces key n) := by
  have h := s.delay_joins oc op (wordPieces key n)
  unfold State.awaitOp
  simp only
  split
  · exact h
  · unfold State.Joins
    rw [State.ctx_modCtx]
    exact h

/-- An access of at most 8 bytes has one part. -/
theorem wordPieces_scalar (key : Nat) (z : BitVec 2) :
    wordPieces key (2 ^ z.toNat) = [⟨key, List.replicate (2 ^ z.toNat) 0, 0⟩] := by
  have hz := z.isLt
  obtain h | h | h | h : z.toNat = 0 ∨ z.toNat = 1 ∨ z.toNat = 2 ∨ z.toNat = 3 := by omega
  all_goals rw [h]; rfl

end Sys2Proof.Machine
end

section
/-! Scalar loads and stores (R228, R230) of memory and of the CSR window. -/

namespace Sys2Proof.Machine
open Sys2Proof

theorem SameModes.of_eq {x y : Ctx} (h : y = x) : SameModes x y := h ▸ ⟨rfl, rfl, rfl, rfl, rfl, rfl, rfl⟩

theorem szBytes_pos (z : BitVec 2) : 0 < szBytes z := Nat.two_pow_pos _

section
variable {s : State} {d a : BitVec 6} {oc : BitVec 3} {z : BitVec 2} {f : BitVec 3}

/-! ## Loads of memory -/

/-- A load of memory that R74 allows and nothing holds. -/
theorem State.load_clear (signed : Bool) (h : s.Clear (s.eaScalar a z f) (szBytes z) (szBytes z) false false false)
    (hbar : s.barred s.focus.cell oc.toNat s.ctx = []) : s.load signed d a oc z f =
      if s.prompt oc.toNat then
        s.wsLate d (extend signed (szBytes z) (s.readBytes (s.localKey (s.eaScalar a z f)) (szBytes z))) 6
      else s.awaitLate d oc.toNat signed (s.localKey (s.eaScalar a z f)) (szBytes z) := by
  simp only [State.load, h.allowed, h.localPoison, Bool.false_eq_true, if_false, State.loadLocal, if_neg h.inMemory]
  exact State.behindRelease_of_free hbar _

/-- One that is performed as it issues delivers what memory holds. -/
theorem State.load_plain (signed : Bool) (h : s.Plain (s.eaScalar a z f) (szBytes z) (szBytes z) false false false) :
    WritesScalarLate s (s.load signed d a oc z f) d
      (if signed then BitVec.ofInt 64 (signedNumber (szBytes z) (s.numberAt (s.localKey (s.eaScalar a z f)) (szBytes z)))
        else BitVec.ofNat 64 (s.numberAt (s.localKey (s.eaScalar a z f)) (szBytes z))) 6 := by
  obtain ⟨hclear, hprompt⟩ := h
  rw [State.load_clear signed hclear (hprompt.barred _), if_pos (hprompt.prompt _), State.extend_readBytes _ _ (szBytes_pos z)]
  exact s.wsLate_writes ..

/-- One that is not joins the accesses that wait. -/
theorem State.load_joins (signed : Bool) (h : s.Clear (s.eaScalar a z f) (szBytes z) (szBytes z) false false false)
    (hwait : s.prompt oc.toNat = false) (hbar : s.barred s.focus.cell oc.toNat s.ctx = []) :
    s.Joins (s.load signed d a oc z f) oc.toNat (.read (.scalar signed))
      [⟨s.localKey (s.eaScalar a z f), List.replicate (szBytes z) 0, 0⟩] := by
  rw [State.load_clear signed h hbar, hwait, if_neg Bool.false_ne_true, State.awaitLate, szBytes, ← wordPieces_scalar]
  exact s.awaitOp_joins ..

/-! ## Stores of memory -/

theorem execSt_clear (h : s.Clear (s.eaScalar a z f) (szBytes z) (szBytes z) true false false) :
    execSt d a oc z f s = .next (s.storeLocal oc.toNat (s.scalarPiece (s.eaScalar a z f) (toBytes (szBytes z) (s.rs d).toNat))) := by
  simp only [execSt, h.allowed]
  rw [h.localWrite_scalar _ (toBytes_length ..)]

theorem execSt_plain (h : s.Plain (s.eaScalar a z f) (szBytes z) (szBytes z) true false false) :
    execSt d a oc z f s = .next (s.storeBytes s.focus.cell s.focus.ctx oc.toNat (s.localKey (s.eaScalar a z f))
      (toBytes (szBytes z) (s.rs d).toNat)) := by
  obtain ⟨hclear, hprompt⟩ := h
  rw [execSt_clear hclear, hprompt.storeLocal]
  rfl

theorem completes_st_joins (h : s.Clear (s.eaScalar a z f) (szBytes z) (szBytes z) true false false)
    (hwait : s.prompt oc.toNat = false) : Completes (.st d a oc z f) s fun t =>
      s.Joins t oc.toNat .write [⟨s.localKey (s.eaScalar a z f), toBytes (szBytes z) (s.rs d).toNat, 0⟩] := by
  refine ⟨_, execSt_clear h, ?_⟩
  rw [State.storeLocal, hwait, if_neg Bool.false_ne_true]
  exact s.delay_joins ..

end

/-- Settles O21: a load delivers what memory holds or joins the accesses that wait, a store writes its bytes or joins them. -/
theorem scalarLoadsAndStores : Obligations.ScalarLoadsAndStores := by
  intro s d a o z f n ea k waits
  refine ⟨fun h => ⟨⟨_, rfl, State.load_plain true h⟩, _, rfl, State.load_plain false h⟩, fun h hwf => ?_,
    fun h hwait hbar => ⟨⟨_, rfl, State.load_joins true h hwait hbar⟩, _, rfl, State.load_joins false h hwait hbar⟩,
    fun h hwait => completes_st_joins h hwait⟩
  obtain ⟨-, hfull⟩ := s.storeBytes_leaves s.focus.cell s.focus.ctx o.toNat k (toBytes n (s.rs d).toNat)
  have hctx := s.ctx_storeBytes s.focus.cell s.focus.ctx o.toNat k (toBytes n (s.rs d).toNat)
  exact ⟨_, execSt_plain h, State.storesAt_storeBytes hwf .., hfull, .of_eq hctx, .of_eq hctx, congrArg Ctx.land hctx⟩

/-! ## The CSR window -/

/-- The addressed bytes of one CSR as a number. -/
theorem State.ofBytes_windowBytes (s : State) (c x : Nat) {off n : Nat} (hn : n ∣ 8) (hoff : off % n = 0) :
    ofBytes (s.windowBytes c x off n) = (s.csrOf c x (off / 8)).toNat / 256 ^ (off % 8) % 256 ^ n := by
  obtain ⟨m, hm⟩ := hn
  obtain ⟨q, hq⟩ := Nat.dvd_of_mod_eq_zero hoff
  have hword {i : Nat} (hi : i < n) : (off + i) / 8 = off / 8 ∧ (off + i) % 8 = off % 8 + i := by
    have hfit : off % 8 + i < 8 := by
      have hmul : off % 8 = n * (q % m) := by rw [hq, hm, Nat.mul_mod_mul_left]
      have hmpos : 0 < m := by
        rcases Nat.eq_zero_or_pos m with rfl | h
        · simp at hm
        · exact h
      have hle : n * (q % m + 1) ≤ n * m := Nat.mul_le_mul_left n (Nat.mod_lt q hmpos)
      rw [Nat.mul_add, Nat.mul_one, ← hm, ← hmul] at hle
      omega
    omega
  have hbytes : s.windowBytes c x off n = toBytes n ((s.csrOf c x (off / 8)).toNat / 256 ^ (off % 8)) := by
    refine List.ext_getElem (by simp [State.windowBytes]) fun i hi _ => ?_
    have hin : i < n := by simpa [State.windowBytes] using hi
    obtain ⟨hdiv, hmod⟩ := hword hin
    have hget := getElem?_toBytes ((s.csrOf c x (off / 8)).toNat / 256 ^ (off % 8)) hin
    rw [List.getElem?_eq_getElem (by simpa using hin)] at hget
    rw [Option.some.inj hget]
    simp [State.windowBytes, hdiv, hmod, pow_add, Nat.div_div_eq_div_mul]
  rw [hbytes, ofBytes_toBytes]

theorem szBytes_dvd (z : BitVec 2) : szBytes z ∣ 8 := by
  have hz : z.toNat ≤ 3 := by omega
  exact Nat.pow_dvd_pow 2 hz

section
variable {s : State} {d a : BitVec 6} {oc : BitVec 3} {z : BitVec 2} {f : BitVec 3}
  (hsp : aSpace (s.localAddr s.focus.cell (s.eaScalar a z f)) = 3)
include hsp

theorem State.load_window (signed : Bool)
    (h : s.localError (s.eaScalar a z f) (szBytes z) (szBytes z) false false false = none) : s.load signed d a oc z f =
      s.windowOrder oc.toNat false fun t => t.wsLate d (extend signed (szBytes z)
        (t.windowSeen (aOff (s.localAddr s.focus.cell (s.eaScalar a z f))) (szBytes z))) 6 := by
  have hpoison : s.localPoison (s.eaScalar a z f) (szBytes z) = false := by
    rw [State.localPoison, ← s.aSpace_localAddr s.focus.cell, hsp]
    rfl
  simp only [State.load, h, hpoison, Bool.false_eq_true, if_false, State.loadLocal]
  rw [if_pos hsp]

/-- A load from the window that nothing of its class precedes reads the CSR as the bundle finds it. -/
theorem State.load_window_writes (signed : Bool)
    (h : s.localError (s.eaScalar a z f) (szBytes z) (szBytes z) false false false = none)
    (hbar : s.barred s.focus.cell oc.toNat s.ctx = []) (hpend : ∀ e, e ∈ s.ctx.pend → e.oc ≠ oc.toNat) {v : Nat}
    (hv : v = ((s.putCell s.focus.cell s.seen).csrOf s.focus.cell s.focus.ctx
      (aOff (s.localAddr s.focus.cell (s.eaScalar a z f)) / 8)).toNat /
        256 ^ (aOff (s.localAddr s.focus.cell (s.eaScalar a z f)) % 8) % 256 ^ szBytes z) :
    WritesScalarLate s (s.load signed d a oc z f) d
      (if signed then BitVec.ofInt 64 (signedNumber (szBytes z) v) else BitVec.ofNat 64 v) 6 := by
  have hany : (s.ctx.pend.any fun e => e.oc == oc.toNat && e.op.writes) = false :=
    List.any_eq_false.2 fun e he => by simp [hpend e he]
  rw [State.load_window hsp signed h, State.windowOrder, State.behindRelease_of_free hbar, Bool.false_or, hany,
    if_neg Bool.false_ne_true, extend_eq (szBytes_pos z) (by simp [State.windowSeen, State.windowBytes]), State.windowSeen,
    State.ofBytes_windowBytes _ _ _ (szBytes_dvd z) (State.localError_align h), ← hv]
  exact s.wsLate_writes ..

/-- Behind a release on its way to the cell a load from the window is held. -/
theorem State.load_window_held (signed : Bool)
    (h : s.localError (s.eaScalar a z f) (szBytes z) (szBytes z) false false false = none)
    (hbar : s.barred s.focus.cell oc.toNat s.ctx ≠ []) :
    s.load signed d a oc z f = s.block (.fence (s.barred s.focus.cell oc.toNat s.ctx)) := by
  rw [State.load_window hsp signed h, State.windowOrder, State.behindRelease_of_barred hbar]

theorem execSt_window (h : s.localError (s.eaScalar a z f) (szBytes z) (szBytes z) true false false = none) :
    execSt d a oc z f s = .next (s.windowOrder oc.toNat true fun t => t.windowStore t.focus.cell t.focus.ctx
      (aOff (s.localAddr s.focus.cell (s.eaScalar a z f))) (toBytes (szBytes z) (s.rs d).toNat) t.was.supervisor) := by
  simp only [execSt, h, State.localWrite]
  rw [if_pos hsp]
  simp only [State.scalarPiece, List.foldl, Nat.add_zero]

end

/-- A store of the whole of a CSR leaves nothing of what stood there. -/
theorem State.windowStore_word (s : State) (c x : Nat) {off : Nat} (hoff : off % 8 = 0) (v : W64) (sup : Bool) :
    s.windowStore c x off (toBytes 8 v.toNat) sup = s.csrPut c x .write (off / 8) v sup := by
  have hv : BitVec.ofNat 64 (ofBytes (toBytes 8 v.toNat)) = v := by
    apply BitVec.eq_of_toNat_eq
    rw [ofBytes_toBytes, BitVec.toNat_ofNat]
    have := v.isLt
    omega
  simp only [State.windowStore, hoff, toBytes_length, Nat.mul_zero, pow_zero, Nat.mul_one, hv]
  rw [show ~~~BitVec.ofNat 64 (2 ^ (8 * 8) - 1) = 0#64 by decide, BitVec.and_zero, BitVec.zero_or]

/-- Settles O22: a load from the window reads one CSR, an 8-byte store writes one, and a release on its way holds both. -/
theorem csrWindowAccess : Obligations.CsrWindowAccess := by
  intro s d a o f z n ea off c free held hsp found
  have hheld (h : ¬free) : held (s.block (.fence (s.barred c o.toNat s.ctx))) := by
    obtain ⟨hst, hhold, hpc, hregs⟩ := s.block_holds (.fence (s.barred c o.toNat s.ctx))
    exact ⟨hst, hhold, hpc, hregs, fun _ => rfl⟩
  refine ⟨fun h hfree hpend => ?_, fun h hfree => ?_, fun hz h hfree hpend => ?_, fun h hfree => ?_⟩
  · exact ⟨⟨_, rfl, State.load_window_writes hsp false h hfree hpend rfl⟩,
      _, rfl, State.load_window_writes hsp true h hfree hpend rfl⟩
  · exact ⟨⟨_, congrArg Host.Outcome.next (State.load_window_held hsp false h hfree), hheld hfree⟩,
      _, congrArg Host.Outcome.next (State.load_window_held hsp true h hfree), hheld hfree⟩
  · subst hz
    refine ⟨_, execSt_window hsp h, ?_⟩
    rw [State.windowOrder, State.behindRelease_of_free hfree, Bool.true_or, if_pos rfl, State.settleClass_nil hpend]
    exact s.windowStore_word _ _ (State.localError_align h) ..
  · refine ⟨_, execSt_window hsp h, ?_⟩
    rw [State.windowOrder, State.behindRelease_of_barred hfree]
    exact hheld hfree

end Sys2Proof.Machine
end

section
/-! Synchronising accesses (R231, R290): loads that wait for a full word, and the accesses that set its bit. -/

namespace Sys2Proof.Machine
open Sys2Proof

/-- A word's full bit after it is set, and every other one. -/
theorem State.isFull_setFull_div {s : State} (h : Tab.wf true s.full = true) (k j : Nat) (b : Bool) :
    (s.setFull k b).isFull j = if j / 8 = k / 8 then b else s.isFull j := by
  have hword : wordOf j = wordOf k ↔ j / 8 = k / 8 := by unfold wordOf; omega
  rw [State.isFull_setFull h]
  exact if_congr hword rfl rfl

theorem State.isFull_same_word (s : State) {j k : Nat} (h : j / 8 = k / 8) : s.isFull j = s.isFull k := by
  unfold State.isFull wordOf
  rw [h]

theorem State.isFull_of_full {s t : State} (h : t.full = s.full) (j : Nat) : t.isFull j = s.isFull j := by
  unfold State.isFull
  rw [h]

/-- A late scalar result stands at the end of the results in flight. -/
theorem State.wsLate_queues (s : State) {d : BitVec 6} (hd : d ≠ 0) (v : W64) (bound : Nat) :
    Queues s.ctx (s.wsLate d v bound).ctx (scalarResult d v s.now bound) := by
  rw [State.wsLate_queue s hd, Queues, State.queue, State.ctx_modCtx]

theorem State.wsLate_leaves (s : State) (d : BitVec 6) (v : W64) (bound : Nat) :
    (s.wsLate d v bound).mem = s.mem ∧ (s.wsLate d v bound).full = s.full ∧ SameRegisters s.ctx (s.wsLate d v bound).ctx := by
  by_cases hd : d = 0
  · rw [hd, State.wsLate_zero]
    exact ⟨rfl, rfl, .refl _⟩
  · rw [State.wsLate_queue s hd, State.queue, State.ctx_modCtx]
    exact ⟨rfl, rfl, .refl _⟩

section
variable {s : State} {d a : BitVec 6} {oc : BitVec 3} {z : BitVec 2} {f : BitVec 3}

/-- An `LDS` or `LDSE` of an empty word, or of one that an earlier waiter asks for, is held. -/
theorem State.syncLoad_held (take : Bool) (h : s.localError (s.eaScalar a z f) (szBytes z) (szBytes z) false true false = none)
    (hword : s.isFull (s.localKey (s.eaScalar a z f)) = false ∨ s.wordTaken (wordOf (s.localKey (s.eaScalar a z f))) = true) :
    s.syncLoad take d a oc z f = s.block (.word (wordOf (s.localKey (s.eaScalar a z f)))) := by
  simp only [State.syncLoad, h]
  exact if_pos (by rcases hword with h | h <;> simp [← State.localKey.eq_1, h])

/-- Of a full word that none asks for it loads what memory holds. -/
theorem State.syncLoad_plain (take : Bool) (h : s.Plain (s.eaScalar a z f) (szBytes z) (szBytes z) false true false)
    (hfull : s.isFull (s.localKey (s.eaScalar a z f)) = true)
    (hfree : s.wordTaken (wordOf (s.localKey (s.eaScalar a z f))) = false) : s.syncLoad take d a oc z f =
      (if take then s.setFull (s.localKey (s.eaScalar a z f)) false else s).wsLate d (BitVec.ofInt 64 (signedNumber (szBytes z)
        (s.numberAt (s.localKey (s.eaScalar a z f)) (szBytes z)))) 6 := by
  obtain ⟨hclear, hprompt⟩ := h
  have hread := s.extend_readBytes (s.localKey (s.eaScalar a z f)) (szBytes_pos z) true
  simp only [if_true] at hread
  rw [← hread]
  simp only [State.syncLoad, hclear.allowed, hclear.localPoison, ← State.localKey.eq_1, hfull, hfree, Bool.not_true, Bool.or_self,
    Bool.false_eq_true, if_false]
  rw [hprompt.behindRelease]
  simp only [hprompt.settleClass, hfull, Bool.not_true, Bool.false_eq_true, if_false]

section
variable (h : s.Clear (s.eaScalar a z f) (szBytes z) (szBytes z) true true false)
include h

theorem execStf_performs (htravel : s.mustTravel (s.localAddr s.focus.cell (s.eaScalar a z f)) = false) :
    execStf d a oc z f s = .next ((s.storeBytes s.focus.cell s.focus.ctx oc.toNat (s.localKey (s.eaScalar a z f))
      (toBytes (szBytes z) (s.rs d).toNat)).setFull (s.localKey (s.eaScalar a z f)) true) := by
  simp only [execStf, h.allowed]
  rw [h.localWrite_scalar _ (toBytes_length ..), htravel]
  rfl

theorem execStf_travels (htravel : s.mustTravel (s.localAddr s.focus.cell (s.eaScalar a z f)) = true) :
    execStf d a oc z f s = .next (s.sendRemote 0x12 .store 0 z false (s.localAddr s.focus.cell (s.eaScalar a z f))
      (toBytes 8 (s.rs d).toNat) oc.toNat (s.infoOf z.toNat false true false oc.toNat)) := by
  simp only [execStf, h.allowed]
  rw [h.localWrite_scalar _ (toBytes_length ..), htravel, if_pos rfl]

end

theorem execSete_prompt (h : s.localError (s.eaScalar a 3 f) 8 8 true true false = none) (hprompt : s.Prompt) :
    execSete a oc f s = .next (s.setFull (s.localKey (s.eaScalar a 3 f)) false) := by
  simp only [execSete, h, hprompt.prompt, if_true]
  rfl

end

/-- Settles O23: the loads are held by the word or take it as it is, and each access sets its own bit. -/
theorem synchronisingAccesses : Obligations.SynchronisingAccesses := by
  intro s d a o z f n ea k w ea8 bits loaded held hfullwf
  have hheld : held (s.block (.word w)) := by
    obtain ⟨hst, hhold, hpc, hregs⟩ := s.block_holds (.word w)
    exact ⟨hst, hhold, hpc, hregs, fun _ => rfl⟩
  refine ⟨fun h hfull hfree => ?_, fun h hword => ?_, fun h hwf htravel => ?_, fun h htravel => ?_, fun h hprompt => ?_⟩
  · let v : W64 := BitVec.ofInt 64 (signedNumber n (s.numberAt k n))
    obtain ⟨hmem, hbits, -⟩ := s.wsLate_leaves d v 6
    obtain ⟨hmem', hbits', -⟩ := (s.setFull k false).wsLate_leaves d v 6
    refine ⟨⟨_, congrArg Host.Outcome.next (State.syncLoad_plain false h hfull hfree), fun hd => s.wsLate_queues hd v 6,
        fun j => (State.isFull_of_full hbits j).trans ?_, State.byte_of_mem hmem⟩,
      _, congrArg Host.Outcome.next (State.syncLoad_plain true h hfull hfree), fun hd => (s.setFull k false).wsLate_queues hd v 6,
      fun j => (State.isFull_of_full hbits' j).trans (State.isFull_setFull_div hfullwf k j false), State.byte_of_mem hmem'⟩
    split
    · next hj => exact (s.isFull_same_word hj).trans hfull
    · rfl
  · exact ⟨⟨_, congrArg Host.Outcome.next (State.syncLoad_held false h hword), hheld⟩,
      _, congrArg Host.Outcome.next (State.syncLoad_held true h hword), hheld⟩
  · let t := s.storeBytes s.focus.cell s.focus.ctx o.toNat k (toBytes n (s.rs d).toNat)
    have hbits : t.full = s.full := (s.storeBytes_leaves ..).2
    refine ⟨_, execStf_performs h htravel, State.storesAt_storeBytes hwf .., fun j => ?_, .of_eq (s.ctx_storeBytes ..)⟩
    have hset := State.isFull_setFull_div (s := t) (hbits ▸ hfullwf) k j true
    rwa [State.isFull_of_full hbits] at hset
  · exact ⟨_, execStf_travels h htravel, s.sendRemote_sends ..⟩
  · exact ⟨_, execSete_prompt h hprompt, fun j => State.isFull_setFull_div hfullwf _ j false, fun _ => rfl, rfl⟩

end Sys2Proof.Machine
end

section
/-! The local atomics (R234): what each computes on words of 4 and 8 bytes, and its two outcomes. -/

namespace Sys2Proof.Machine
open Sys2Proof

/-! ## The numbers that an atomic makes -/

/-- The new word of an atomic on words of `n` bytes, as numbers. -/
def AmoOp.result (o : AmoOp) (n old x y : Nat) : Nat :=
  match o with
  | .add => (old + x) % 2 ^ (8 * n)
  | .min => if signedNumber n old < signedNumber n x then old else x
  | .max => if signedNumber n old < signedNumber n x then x else old
  | .and => old &&& x
  | .or => old ||| x
  | .xor => old ^^^ x
  | .swap => x
  | .cas => if old = x then y else old

/-- The bits of a word of `n` bytes. -/
theorem toNat_and_wordMask {n : Nat} (hn : n = 4 ∨ n = 8) (v : W64) :
    (v &&& (if n = 4 then 0xFFFFFFFF else ~~~0)).toNat = v.toNat % 2 ^ (8 * n) := by
  rcases hn with rfl | rfl
  · exact (BitVec.toNat_and ..).trans (Nat.and_two_pow_sub_one_eq_mod v.toNat 32)
  · exact (BitVec.toNat_and ..).trans (Nat.and_two_pow_sub_one_eq_mod v.toNat 64)

theorem toInt_of_wordSign {n : Nat} (hn : n = 4 ∨ n = 8) {v : W64} (hv : v.toNat < 2 ^ (8 * n)) :
    (if n = 4 then (v.setWidth 32).signExtend 64 else v : W64).toInt = signedNumber n v.toNat := by
  rcases hn with rfl | rfl
  · have hlow : (v.setWidth 32).toNat = v.toNat := (BitVec.toNat_setWidth ..).trans (Nat.mod_eq_of_lt hv)
    rw [if_pos rfl, BitVec.toInt_signExtend_of_le (by decide), toInt_of_width_pos (by decide), hlow]
    rfl
  · exact toInt_of_width_pos (by decide) v

theorem AmoOp.toNat_apply {n : Nat} (hn : n = 4 ∨ n = 8) (o : AmoOp) {old : Nat} (hold : old < 2 ^ (8 * n)) (x y : W64) :
    (o.apply n (BitVec.ofNat 64 old) x y).toNat = o.result n old (x.toNat % 2 ^ (8 * n)) (y.toNat % 2 ^ (8 * n)) := by
  have hdvd : 2 ^ (8 * n) ∣ 2 ^ 64 := by rcases hn with rfl | rfl <;> decide
  have hle : 2 ^ (8 * n) ≤ 2 ^ 64 := Nat.le_of_dvd (by decide) hdvd
  have hx : x.toNat % 2 ^ (8 * n) < 2 ^ (8 * n) := Nat.mod_lt _ (by positivity)
  have hold' : (BitVec.ofNat 64 old &&& (if n = 4 then 0xFFFFFFFF else ~~~0)).toNat = old := by
    rw [toNat_and_wordMask hn, BitVec.toNat_ofNat, Nat.mod_mod_of_dvd _ hdvd, Nat.mod_eq_of_lt hold]
  have hx' := toNat_and_wordMask hn x
  unfold AmoOp.apply
  simp only
  generalize BitVec.ofNat 64 old &&& (if n = 4 then 0xFFFFFFFF else ~~~0) = u at hold' ⊢
  generalize x &&& (if n = 4 then 0xFFFFFFFF else ~~~0) = v at hx' ⊢
  have hless : ((if n = 4 then (u.setWidth 32).signExtend 64 else u : W64).slt
      (if n = 4 then (v.setWidth 32).signExtend 64 else v)) = true ↔
      signedNumber n old < signedNumber n (x.toNat % 2 ^ (8 * n)) := by
    rw [BitVec.slt_iff_toInt_lt, toInt_of_wordSign hn (by rwa [hold']), toInt_of_wordSign hn (by rwa [hx']), hold', hx']
  rw [toNat_and_wordMask hn]
  cases o with
  | add =>
    show (u + v).toNat % _ = _
    rw [BitVec.toNat_add, Nat.mod_mod_of_dvd _ hdvd, hold', hx']
    rfl
  | min =>
    simp only [hless, AmoOp.result]
    split
    · rw [hold', Nat.mod_eq_of_lt hold]
    · rw [hx', Nat.mod_eq_of_lt hx]
  | max =>
    simp only [hless, AmoOp.result]
    split
    · rw [hx', Nat.mod_eq_of_lt hx]
    · rw [hold', Nat.mod_eq_of_lt hold]
  | and =>
    show (u &&& v).toNat % _ = _
    rw [BitVec.toNat_and, hold', hx', Nat.mod_eq_of_lt (Nat.and_lt_two_pow _ hx)]
    rfl
  | or =>
    show (u ||| v).toNat % _ = _
    rw [BitVec.toNat_or, hold', hx', Nat.mod_eq_of_lt (Nat.or_lt_two_pow hold hx)]
    rfl
  | xor =>
    show (u ^^^ v).toNat % _ = _
    rw [BitVec.toNat_xor, hold', hx', Nat.mod_eq_of_lt (Nat.xor_lt_two_pow hold hx)]
    rfl
  | swap =>
    show v.toNat % _ = _
    rw [hx', Nat.mod_eq_of_lt hx]
    rfl
  | cas =>
    have heq : u = v ↔ old = x.toNat % 2 ^ (8 * n) := by rw [← BitVec.toNat_inj, hold', hx']
    simp only [heq, AmoOp.result]
    split
    · rfl
    · rw [hold', Nat.mod_eq_of_lt hold]

/-! ## The instruction -/

theorem State.clock_engineSees (s : State) (c x key : Nat) (l : List Byte) (j : Nat) :
    (s.engineSees c x key l).clock j = s.clock j := by
  unfold State.engineSees
  simp only
  split
  · rfl
  · refine foldl_keep (fun t : State => t.clock j = s.clock j) _ (fun t e ht => ?_) _ s rfl
    exact (State.clock_modCell (f := fun k => { k with mats := k.mats.map _ }) (fun _ => rfl) t c j).trans ht

/-- A context's write takes no time. -/
theorem State.clock_storeBytes (s : State) (c x oc key : Nat) (l : List Byte) (j : Nat) :
    (s.storeBytes c x oc key l).clock j = s.clock j := by
  rw [State.storeBytes, State.clock_engineSees, State.writeBytes_eq]
  unfold State.noteTable
  split <;> rfl

theorem amoSize (z : BitVec 1) : 4 * 2 ^ z.toNat = 4 ∨ 4 * 2 ^ z.toNat = 8 := by
  have hz := z.isLt
  obtain h | h : z.toNat = 0 ∨ z.toNat = 1 := by omega
  · exact .inl (by rw [h]; rfl)
  · exact .inr (by rw [h]; rfl)

section
variable {s : State} {d a : BitVec 6} {oc f : BitVec 3} {z : BitVec 1} {ea : W64} {n : Nat}
  (hn : n = 4 * 2 ^ z.toNat) (hea : ea = s.rs a + BitVec.ofNat 64 (f.toNat * n)) (h : s.Clear ea n n true false true)
  (hlog : (s.recCtl s.focus.cell).getLsbD 3 = false ∨
    s.recording s.focus.cell = false ∧ s.replaying s.focus.cell = false)
include hn hea h hlog

/-- An atomic that nothing holds and that is not replayed, once the earlier accesses of its class are performed. -/
theorem State.amo_clear (op : AmoOp) (hbar : s.barred s.focus.cell oc.toNat s.ctx = []) {u : State}
    (hu : (if s.lag then s else s.settleClass oc.toNat) = u) (hus : u = s) : s.amo op d a oc z f =
      if !s.prompt oc.toNat then
        s.awaitOp d oc.toNat (s.localKey ea) (.amo (op.code % 8) n (s.rs d) (s.rs (d + 1))
          (if (s.recCtl s.focus.cell).getLsbD 3 then some (s.focus.pc, s.focus.slot, s.localAddr s.focus.cell ea) else none)) n
      else (s.storeBytes s.focus.cell s.focus.ctx oc.toNat (s.localKey ea) (toBytes n (op.apply n
        (BitVec.ofNat 64 (s.numberAt (s.localKey ea) n)) (s.rs d) (s.rs (d + 1))).toNat)).wsLate d
          (BitVec.ofInt 64 (signedNumber n (s.numberAt (s.localKey ea) n))) 6 := by
  have hsz : szBytes (2 + z.setWidth 2) = n := (szBytes_amo z).trans hn.symm
  have hea' : s.eaScalar a (2 + z.setWidth 2) f = ea := by rw [State.eaScalar_amo, ← hn, hea]
  have hnpos : 0 < n := by have := amoSize z; omega
  have hreplays : ((s.recCtl s.focus.cell).getLsbD 3 && s.replaying s.focus.cell) = false := by
    rcases hlog with hoff | hoff
    · rw [hoff, Bool.false_and]
    · rw [hoff.2, Bool.and_false]
  have hrecords : ((s.recCtl s.focus.cell).getLsbD 3 && s.recording s.focus.cell) = false := by
    rcases hlog with hoff | hoff
    · rw [hoff, Bool.false_and]
    · rw [hoff.1, Bool.and_false]
  have hread := s.extend_readBytes (s.localKey ea) hnpos true
  simp only [if_true] at hread
  rw [← hread, ← s.ofBytes_readBytes]
  simp only [State.amo, hsz, hea', h.allowed, hreplays, h.localPoison, Bool.false_eq_true, if_false]
  rw [State.behindRelease_of_free hbar]
  simp only [hu, hus]
  rw [h.localWrite_scalar _ (toBytes_length ..)]
  simp only [hrecords, Bool.false_eq_true, if_false]
  rfl

/-- One that is performed as it issues. -/
theorem State.amo_plain (op : AmoOp) (hprompt : s.Prompt) : s.amo op d a oc z f =
    (s.storeBytes s.focus.cell s.focus.ctx oc.toNat (s.localKey ea) (toBytes n (op.result n (s.numberAt (s.localKey ea) n)
      ((s.rs d).toNat % 2 ^ (8 * n)) ((s.rs (d + 1)).toNat % 2 ^ (8 * n))))).wsLate d
        (BitVec.ofInt 64 (signedNumber n (s.numberAt (s.localKey ea) n))) 6 := by
  have hold : s.numberAt (s.localKey ea) n < 2 ^ (8 * n) := by
    rw [pow_mul]
    exact s.numberAt_lt ..
  rw [State.amo_clear hn hea h hlog op (hprompt.barred _) rfl (by rw [hprompt.1]; exact hprompt.settleClass _), hprompt.prompt,
    AmoOp.toNat_apply (hn ▸ amoSize z) op hold]
  rfl

omit hlog in
/-- One that the schedule delays joins the accesses that wait, with its operands. -/
theorem State.amo_joins (op : AmoOp) (hlag : s.lag = true) (hbar : s.barred s.focus.cell oc.toNat s.ctx = [])
    (hlog : (s.recCtl s.focus.cell).getLsbD 3 = false) :
    s.Joins (s.amo op d a oc z f) oc.toNat (.amo (op.code % 8) n (s.rs d) (s.rs (d + 1)) none) (wordPieces (s.localKey ea) n) := by
  have hwait : s.prompt oc.toNat = false := by simp [State.prompt, hlag]
  rw [State.amo_clear hn hea h (.inl hlog) op hbar rfl (if_pos hlag), hwait, hlog]
  exact s.awaitOp_joins ..

end

/-- Settles O24: each atomic is `State.amo` with its own operation, performed as it issues or joined to the accesses that
wait. -/
theorem atomics : Obligations.Atomics := by
  intro s d a e o z f n M ea k old even odd x less amo waits
  refine ⟨fun h hlag hbar hlog => ?_, fun h hwf hlog => ?_⟩
  · intro u v
    have hjoins {i : Instr} {r : BitVec 6} (op : AmoOp) (hexec : exec i s = .next (s.amo op r a o z f)) :
        waits i (op.code % 8) (s.rs r) (s.rs (r + 1)) :=
      ⟨_, hexec, State.amo_joins rfl rfl h op hlag hbar hlog⟩
    have hcas : waits (.amocas e a o z f) 7 (s.rs (evenReg e)) (s.rs (evenReg e + 1)) := hjoins .cas rfl
    rw [evenReg_add_one, evenReg_eq] at hcas
    exact ⟨hjoins .add rfl, hjoins .min rfl, hjoins .max rfl, hjoins .and rfl, hjoins .or rfl, hjoins .xor rfl,
      hjoins .swap rfl, hcas⟩
  · obtain ⟨hclear, hprompt⟩ := h
    have hlog' : (s.recCtl s.focus.cell).getLsbD 3 = false ∨
        s.recording s.focus.cell = false ∧ s.replaying s.focus.cell = false := by
      refine hlog.imp_right fun hctl => ⟨?_, ?_⟩
      · rw [← Bool.not_eq_true, s.recording_iff]
        exact hctl.1
      · rw [← Bool.not_eq_true, s.replaying_iff]
        exact hctl.2
    have hamo {i : Instr} {r : BitVec 6} (op : AmoOp) (hexec : exec i s = .next (s.amo op r a o z f)) :
        amo i r (op.result n old ((s.rs r).toNat % M) ((s.rs (r + 1)).toNat % M)) := by
      let t := s.storeBytes s.focus.cell s.focus.ctx o.toNat k
        (toBytes n (op.result n old ((s.rs r).toNat % M) ((s.rs (r + 1)).toNat % M)))
      let w : W64 := BitVec.ofInt 64 (signedNumber n old)
      have hctx : t.ctx = s.ctx := s.ctx_storeBytes ..
      have hnow : t.now = s.now :=
        (congrArg (fun k : Focus => t.clock k.cell) (State.SameBanks.storeBytes s ..).focus).trans (s.clock_storeBytes ..)
      obtain ⟨hmem, hfull, hregs⟩ := t.wsLate_leaves r w 6
      refine ⟨_, hexec.trans (congrArg Host.Outcome.next (State.amo_plain rfl rfl hclear hlog' op hprompt)), ?_, fun hr => ?_,
        hfull.trans (s.storeBytes_leaves ..).2, hctx ▸ hregs⟩
      · obtain ⟨hin, hout⟩ := State.storesAt_storeBytes hwf s.focus.cell s.focus.ctx o.toNat k n
          (op.result n old ((s.rs r).toNat % M) ((s.rs (r + 1)).toNat % M))
        exact ⟨fun i hi => (congrArg BitVec.toNat (State.byte_of_mem hmem _)).trans (hin i hi),
          fun j hj => (State.byte_of_mem hmem j).trans (hout j hj)⟩
      · have hq := t.wsLate_queues hr w 6
        rwa [hctx, hnow] at hq
    have hcas : amo (.amocas e a o z f) (evenReg e) (AmoOp.cas.result n old ((s.rs (evenReg e)).toNat % M)
      ((s.rs (evenReg e + 1)).toNat % M)) := hamo .cas rfl
    rw [evenReg_add_one, evenReg_eq] at hcas
    exact ⟨hamo .add rfl, hamo .min rfl, hamo .max rfl, hamo .and rfl, hamo .or rfl, hamo .xor rfl, hamo .swap rfl, hcas⟩

end Sys2Proof.Machine
end

section
/-! The vector accesses (R228, R232): what a load takes of each cluster's 64 bytes, and which bytes a store writes. -/

namespace Sys2Proof.Machine
open Sys2Proof

/-! ## Loads -/

theorem State.emptyWords_lt (s : State) (k n : Nat) : s.emptyWords k n < 2 ^ n := by
  induction n with
  | zero => simp [State.emptyWords]
  | succ n ih =>
    rw [State.emptyWords, pow_succ]
    split <;> omega

theorem State.testBit_emptyWords (s : State) (k : Nat) {j n : Nat} (hj : j < n) :
    (s.emptyWords k n).testBit j = !s.isFull (k + 8 * j) := by
  induction n with
  | zero => omega
  | succ n ih =>
    have hlt := s.emptyWords_lt k n
    rw [State.emptyWords]
    rcases Nat.lt_succ_iff_lt_or_eq.1 hj with h | rfl
    · split
      · exact ih h
      · rw [Nat.add_comm, Nat.testBit_two_pow_add_gt h, ih h]
    · split
      · next hfull => rw [hfull, Nat.testBit_lt_two_pow (by omega)]; rfl
      · next hempty =>
        rw [Nat.add_comm, Nat.testBit_two_pow_add_eq, Nat.testBit_lt_two_pow hlt, Bool.eq_false_of_not_eq_true hempty]

theorem State.numberAt_add (s : State) (k m n : Nat) :
    s.numberAt k (m + n) = s.numberAt k m + 256 ^ m * s.numberAt (k + m) n := by
  induction n with
  | zero => rfl
  | succ n ih =>
    rw [← Nat.add_assoc, State.numberAt, ih, State.numberAt, Nat.add_assoc k m n, pow_add]
    ring

/-- Four of the bytes of a longer number. -/
theorem State.numberAt_part (s : State) (k : Nat) {m n l : Nat} (h : m + n ≤ l) :
    s.numberAt k l / 256 ^ m % 256 ^ n = s.numberAt (k + m) n := by
  obtain ⟨r, rfl⟩ := Nat.le.dest h
  rw [Nat.add_assoc, s.numberAt_add k m (n + r), s.numberAt_add (k + m) n r, Nat.add_mul_div_left _ _ (by positivity),
    Nat.div_eq_of_lt (s.numberAt_lt k m), Nat.zero_add, Nat.add_mul_mod_self_left, Nat.mod_eq_of_lt (s.numberAt_lt ..)]

theorem State.readBytes_part (s : State) (k : Nat) {m n l : Nat} (h : m + n ≤ l) :
    ((s.readBytes k l).drop m).take n = s.readBytes (k + m) n := by
  apply List.ext_getElem
  · simp only [List.length_take, List.length_drop, State.length_readBytes]
    omega
  · intro i _ _
    simp [State.readBytes, Nat.add_assoc]

theorem State.numberAt_lt_two_pow (s : State) (k n : Nat) : s.numberAt k n < 2 ^ (8 * n) :=
  (s.numberAt_lt k n).trans_eq (pow_mul 2 8 n).symm

theorem State.lane_vecOf (s : State) (k : Nat) {j : Nat} (hj : j < 16) :
    lane (vecOf (s.readBytes k 64)) j = BitVec.ofNat 32 (s.numberAt (k + 4 * j) 4) := by
  apply BitVec.eq_of_toNat_eq
  have hlt : s.numberAt k 64 < 2 ^ (8 * 64) := s.numberAt_lt_two_pow k 64
  have hpart := s.numberAt_part k (m := 4 * j) (n := 4) (l := 64) (by omega)
  rw [show (256 : Nat) ^ (4 * j) = 2 ^ (32 * j) by rw [show (256 : Nat) = 2 ^ 8 from rfl, ← pow_mul]; congr 1; omega] at hpart
  rw [lane, vecOf, s.ofBytes_readBytes, BitVec.extractLsb'_toNat, BitVec.toNat_ofNat, BitVec.toNat_ofNat, Nat.mod_eq_of_lt hlt,
    Nat.shiftRight_eq_div_pow, ← hpart, show (256 : Nat) ^ 4 = 2 ^ 32 from rfl, Nat.mod_mod]

/-- What a vector load that is performed as it issues queues for the cluster at a place of its list. -/
def State.vecLanding (s : State) (v key : Nat) (scratch : Bool) (cls : List Nat) (dead : Nat → BitVec 16) (i : Nat) : Landing :=
  let emp := (if scratch then wordsToLanes (s.emptyWords (key + 64 * i) 8) else 0) ||| dead (cls.getD i 0)
  ⟨.vec, cls.getD i 0, v, maskedData (vecOf (s.readBytes (key + 64 * i) 64)) emp, emp, 0xFFFF, 0, 0, s.now + 8, false, s.now, 0⟩

/-- What one from deep store awaits. -/
def State.vecAwait (s : State) (v : Nat) (ea : W64) (oc : Nat) (cls : List Nat) (dead : Nat → BitVec 16) : Await :=
  ⟨s.here.nextId + 1, .vload, v, cls.foldl (fun m cl => m ||| (1#8 <<< cl)) 0#8, deadLanes cls dead, 3, false, false,
    s.localAddr s.focus.cell ea, oc, s.infoOf 0 true false false oc,
    some (0, 0, s.readBytes (s.localKey ea) (64 * cls.length), 0),
    some (s.now + (if isC s.focus.cell then 24 else 20)), false, s.now⟩

theorem lane_maskedData (v : BitVec 512) (dead : BitVec 16) {j : Nat} (hj : j < 16) :
    lane (maskedData v dead) j = if dead.getLsbD j then 0 else lane v j := lane_lanes _ hj

/-- The lanes of a cluster that a load finds empty or leaves out. -/
theorem State.vecLanding_lane (s : State) (v key : Nat) (scratch : Bool) (cls : List Nat) (dead : Nat → BitVec 16) (i : Nat)
    {j : Nat} (hj : j < 16) :
    let out := scratch && !s.isFull (key + 64 * i + 8 * (j / 2)) || (dead (cls.getD i 0)).getLsbD j
    (s.vecLanding v key scratch cls dead i).emp.getLsbD j = out ∧
    (s.vecLanding v key scratch cls dead i).val.extractLsb' (32 * j) 32 =
      if out then 0 else BitVec.ofNat 32 (s.numberAt (key + 64 * i + 4 * j) 4) := by
  intro out
  have hemp : (s.vecLanding v key scratch cls dead i).emp.getLsbD j = out := by
    refine (BitVec.getLsbD_or ..).trans (congrArg (· || _) ?_)
    cases scratch with
    | true => exact (getLsbD_bits16 _ hj).trans (s.testBit_emptyWords _ (by omega))
    | false => exact BitVec.getLsbD_zero
  refine ⟨hemp, ?_⟩
  rw [← hemp, ← s.lane_vecOf _ hj]
  exact lane_maskedData _ _ hj

section
variable {s : State} {v : Nat} {cls : List Nat} {ea : W64} {oc : Nat} {dead : Nat → BitVec 16}
  (h : s.Plain ea (64 * cls.length) 64 false false false)
include h

/-- A load meets no poison in the words that it reads. -/
theorem State.vectorPoison_of_plain : s.vectorPoison (s.localKey ea) cls dead = false := by
  unfold State.vectorPoison
  rw [List.any_eq_false]
  intro w hw
  have hw : w < 8 * cls.length := List.mem_range.1 hw
  rw [State.poisoned_subrange h.1.unpoisoned (by omega) (by omega)]
  simp

theorem State.vload_near (hne : cls ≠ []) (hdeep : aSpace ea ≠ 1) : s.vload v cls ea oc dead =
    (s.modHere fun k => { k with nextId := s.here.nextId + 1 + 1 }).queue
      ((List.range cls.length).map (s.vecLanding v (s.localKey ea) (aSpace (s.localAddr s.focus.cell ea) == 0) cls dead)) := by
  obtain ⟨hclear, hprompt⟩ := h
  have hpoison : s.vectorPoison (flatOf (s.localAddr s.focus.cell ea)) cls dead = false :=
    State.vectorPoison_of_plain ⟨hclear, hprompt⟩
  have hnear : aSpace (s.localAddr s.focus.cell ea) ≠ 1 := by rwa [State.aSpace_localAddr]
  have hrange : List.range cls.length ≠ [] := by simpa using hne
  unfold State.vload
  simp only [hclear.allowed, if_neg hclear.inMemory, hpoison, Bool.false_eq_true, if_false, hprompt.behindRelease,
    hprompt.prompt, if_true, decide_eq_false hnear, true_and]
  rw [← State.foldl_queue _ (fun _ i => s.vecLanding v (s.localKey ea)
    (aSpace (s.localAddr s.focus.cell ea) == 0) cls dead i) hrange]
  refine List.foldl_ext _ _ _ fun t i hi => ?_
  have hi : i < cls.length := List.mem_range.1 hi
  rw [s.readBytes_part _ (show 64 * i + 64 ≤ 64 * cls.length by omega)]
  simp only [State.vecLanding, beq_iff_eq]
  rfl

theorem State.vload_deep (hdeep : aSpace ea = 1) : s.vload v cls ea oc dead =
    (s.modHere fun k => { k with nextId := s.here.nextId + 1 + 1 }).modCtx fun x =>
      { x with awaits := x.awaits ++ [s.vecAwait v ea oc cls dead] } := by
  obtain ⟨hclear, hprompt⟩ := h
  have hpoison : s.vectorPoison (flatOf (s.localAddr s.focus.cell ea)) cls dead = false :=
    State.vectorPoison_of_plain ⟨hclear, hprompt⟩
  have hdeep : aSpace (s.localAddr s.focus.cell ea) = 1 := by rwa [State.aSpace_localAddr]
  unfold State.vload
  simp only [hclear.allowed, if_neg hclear.inMemory, hpoison, Bool.false_eq_true, if_false, hprompt.behindRelease,
    hprompt.prompt, if_true, decide_eq_true hdeep]
  rfl

end

/-! ## Stores -/

/-- What a vector store of the lanes `store` writes at a byte: its own byte where the byte's lane is stored. -/
def State.storedByte (s : State) (key : Nat) (l : List Byte) (n : Nat) (store : Nat → Bool) (b : Nat) : Byte :=
  if key ≤ b ∧ b - key < 8 * n ∧ store ((b - key) / 4) = true then l.getD (b - key) 0 else s.byte b

/-- The parts of one word. -/
def wordStores (key : Nat) (l : List Byte) (store : Nat → Bool) (w : Nat) : Option Piece :=
  match store (2 * w), store (2 * w + 1) with
  | true, true => some ⟨key + 8 * w, (l.drop (8 * w)).take 8, 8 * w⟩
  | true, false => some ⟨key + 8 * w, (l.drop (8 * w)).take 4, 8 * w⟩
  | false, true => some ⟨key + 8 * w + 4, (l.drop (8 * w + 4)).take 4, 8 * w + 4⟩
  | false, false => none

theorem storePieces_eq (key : Nat) (l : List Byte) (n : Nat) (store : Nat → Bool) :
    storePieces key l n store = (List.range n).filterMap (wordStores key l store) := rfl

theorem wordStores_none {key : Nat} {l : List Byte} {store : Nat → Bool} {w : Nat} (h : wordStores key l store w = none) :
    store (2 * w) = false ∧ store (2 * w + 1) = false := by
  unfold wordStores at h
  split at h
  case h_4 h0 h1 => exact ⟨h0, h1⟩
  all_goals cases h

/-- A part is one lane or both lanes of a word: the lanes that are stored. -/
theorem wordStores_some {key : Nat} {l : List Byte} {store : Nat → Bool} {w : Nat} {p : Piece}
    (h : wordStores key l store w = some p) :
    ∃ i m, p.key = key + i ∧ p.bytes = (l.drop i).take m ∧ 8 * w ≤ i ∧ i + m ≤ 8 * w + 8 ∧
      ∀ j, 8 * w ≤ j → j < 8 * w + 8 → (store (j / 4) = true ↔ i ≤ j ∧ j < i + m) := by
  have hlane {j : Nat} (hlo : 8 * w ≤ j) (hhi : j < 8 * w + 8) :
      store (j / 4) = if j < 8 * w + 4 then store (2 * w) else store (2 * w + 1) := by
    split
    · rw [show j / 4 = 2 * w by omega]
    · rw [show j / 4 = 2 * w + 1 by omega]
  unfold wordStores at h
  split at h
  case h_1 h0 h1 =>
    obtain rfl := Option.some.inj h
    refine ⟨8 * w, 8, rfl, rfl, by omega, by omega, fun j hlo hhi => ?_⟩
    rw [hlane hlo hhi, h0, h1]
    split <;> simp <;> omega
  case h_2 h0 h1 =>
    obtain rfl := Option.some.inj h
    refine ⟨8 * w, 4, rfl, rfl, by omega, by omega, fun j hlo hhi => ?_⟩
    rw [hlane hlo hhi, h0, h1]
    split <;> simp <;> omega
  case h_3 h0 h1 =>
    obtain rfl := Option.some.inj h
    refine ⟨8 * w + 4, 4, Nat.add_assoc .., rfl, by omega, by omega, fun j hlo hhi => ?_⟩
    rw [hlane hlo hhi, h0, h1]
    split <;> simp <;> omega
  case h_4 => cases h

section
variable {s : State} (hwf : Memory.wf s.mem = true) (c x oc : Nat)
include hwf

/-- A context's write of some of the bytes of a list. -/
theorem State.byte_storeBytes_part (key : Nat) {l : List Byte} {i m : Nat} (hl : i + m ≤ l.length) (b : Nat) :
    (s.storeBytes c x oc (key + i) ((l.drop i).take m)).byte b =
      if key + i ≤ b ∧ b < key + i + m then l.getD (b - key) 0 else s.byte b := by
  rw [State.byte_storeBytes hwf, List.getElem?_take, List.getElem?_drop]
  by_cases hlo : key + i ≤ b
  · rw [if_pos hlo, show i + (b - (key + i)) = b - key by omega]
    by_cases hhi : b < key + i + m
    · rw [if_pos (by omega), if_pos ⟨hlo, hhi⟩, List.getElem?_eq_getElem (by omega), List.getD_eq_getElem _ _ (by omega)]
      rfl
    · rw [if_neg (by omega), if_neg (by omega)]
      rfl
  · rw [if_neg hlo, if_neg (by omega)]

/-- The part of one word, where it has one. -/
theorem State.foldl_wordStores (key : Nat) {l : List Byte} {w : Nat} (hl : 8 * w + 8 ≤ l.length) (store : Nat → Bool) :
    let t := (wordStores key l store w).toList.foldl (fun (t : State) p => t.storeBytes c x oc p.key p.bytes) s
    Memory.wf t.mem = true ∧ t.full = s.full ∧ t.ctx = s.ctx ∧ ∀ b, t.byte b =
      if (key + 8 * w ≤ b ∧ b < key + 8 * w + 8) ∧ store ((b - key) / 4) = true then l.getD (b - key) 0 else s.byte b := by
  cases hp : wordStores key l store w with
  | none =>
    obtain ⟨h0, h1⟩ := wordStores_none hp
    refine ⟨hwf, rfl, rfl, fun b => (if_neg fun ⟨hb, hstore⟩ => ?_).symm⟩
    obtain hlane | hlane : (b - key) / 4 = 2 * w ∨ (b - key) / 4 = 2 * w + 1 := by omega
    · rw [hlane, h0] at hstore
      exact Bool.false_ne_true hstore
    · rw [hlane, h1] at hstore
      exact Bool.false_ne_true hstore
  | some p =>
    obtain ⟨i, m, hkey, hbytes, hlo, hhi, hstored⟩ := wordStores_some hp
    simp only [Option.toList_some, List.foldl_cons, List.foldl_nil, hkey, hbytes]
    refine ⟨?_, (s.storeBytes_leaves ..).2, s.ctx_storeBytes .., fun b => ?_⟩
    · rw [(s.storeBytes_leaves ..).1]
      exact State.wf_writeBytes hwf ..
    · rw [State.byte_storeBytes_part hwf c x oc key (by omega)]
      refine if_congr ⟨fun hb => ?_, fun ⟨hb, hstore⟩ => ?_⟩ rfl rfl
      · exact ⟨by omega, (hstored _ (by omega) (by omega)).2 (by omega)⟩
      · have := (hstored _ (by omega) (by omega)).1 hstore
        omega

/-- The parts of a vector store, performed one after another. -/
theorem State.foldl_storePieces (key : Nat) {l : List Byte} {n : Nat} (hl : 8 * n ≤ l.length) (store : Nat → Bool) :
    let t := (storePieces key l n store).foldl (fun (t : State) p => t.storeBytes c x oc p.key p.bytes) s
    Memory.wf t.mem = true ∧ t.full = s.full ∧ t.ctx = s.ctx ∧ ∀ b, t.byte b = s.storedByte key l n store b := by
  induction n with
  | zero => exact ⟨hwf, rfl, rfl, fun b => (if_neg (by omega)).symm⟩
  | succ n ih =>
    have hsplit : storePieces key l (n + 1) store = storePieces key l n store ++ (wordStores key l store n).toList := by
      rw [storePieces_eq, List.range_succ, List.filterMap_append]
      cases h : wordStores key l store n <;> simp [storePieces_eq, h]
    rw [hsplit, List.foldl_append]
    obtain ⟨hwf', hfull, hctx, hbyte⟩ := ih (by omega)
    generalize List.foldl _ s (storePieces key l n store) = t at hwf' hfull hctx hbyte ⊢
    obtain ⟨hwf'', hfull', hctx', hbyte'⟩ := State.foldl_wordStores hwf' c x oc key (by omega) store
    refine ⟨hwf'', hfull'.trans hfull, hctx'.trans hctx, fun b => (hbyte' b).trans ?_⟩
    rw [hbyte]
    unfold State.storedByte
    by_cases hlast : key + 8 * n ≤ b ∧ b < key + 8 * n + 8
    · by_cases hstore : store ((b - key) / 4) = true
      · rw [if_pos ⟨hlast, hstore⟩, if_pos ⟨by omega, by omega, hstore⟩]
      · rw [if_neg fun h => hstore h.2, if_neg fun h => hstore h.2.2, if_neg fun h => hstore h.2.2]
    · rw [if_neg fun h => hlast h.1]
      exact if_congr ⟨fun ⟨h1, h2, h3⟩ => ⟨h1, by omega, h3⟩, fun ⟨h1, h2, h3⟩ => ⟨h1, by omega, h3⟩⟩ rfl rfl

end

/-- The bytes of a vector store: those of the registers, one cluster after another. -/
theorem State.vstoreBytes_eq (s : State) (v : Nat) (cls : List Nat) : s.vstoreBytes v cls =
    (List.range (64 * cls.length)).map fun b => (s.was.vr (cls.getD (b / 64) 0) v).val.extractLsb' (8 * (b % 64)) 8 := by
  have hcls : cls = (List.range cls.length).map (cls.getD · 0) :=
    List.ext_getElem (by simp) fun i hi _ => by simp [hi]
  simp only [State.vstoreBytes, toBytes_toNat_eq]
  rw [congrArg (List.foldl _ []) hcls, List.foldl_map]
  exact foldl_append_blocks 64 (fun c b => (s.was.vr (cls.getD c 0) v).val.extractLsb' (8 * b) 8) (by decide) cls.length

section
variable {s : State} {v : Nat} {cls : List Nat} {ea : W64} {oc : Nat} {live : Nat → BitVec 16}
  (h : s.Plain ea (64 * cls.length) 64 true false false)
include h

theorem State.vstore_plain : s.vstore v cls ea oc live =
    (storePieces (s.localKey ea) (s.vstoreBytes v cls) (8 * cls.length) fun i =>
      (live (cls.getD (i / 16) 0)).getLsbD (i % 16)).foldl
        (fun (t : State) p => t.storeBytes s.focus.cell s.focus.ctx oc p.key p.bytes) s := by
  obtain ⟨hclear, hprompt⟩ := h
  unfold State.vstore
  simp only [hclear.allowed]
  rw [hclear.localWrite, hprompt.storeLocal]
  · rfl
  · intro p hp
    rw [storePieces_eq] at hp
    obtain ⟨w, hw, hpw⟩ := List.mem_filterMap.1 hp
    have hw : w < 8 * cls.length := List.mem_range.1 hw
    obtain ⟨i, m, hkey, hbytes, hlo, hhi, -⟩ := wordStores_some hpw
    have hlen : p.bytes.length ≤ m := hbytes ▸ List.length_take_le ..
    show flatOf (s.localAddr s.focus.cell ea) ≤ p.key ∧ _ ≤ flatOf (s.localAddr s.focus.cell ea) + _
    omega

theorem State.vstore_stores (hwf : Memory.wf s.mem = true) :
    let t := s.vstore v cls ea oc live
    (∀ b, t.byte b =
      let p := (b - s.localKey ea) / 64
      if s.localKey ea ≤ b ∧ p < cls.length ∧ (live (cls.getD p 0)).getLsbD ((b - s.localKey ea) % 64 / 4) = true then
        (s.was.vr (cls.getD p 0) v).val.extractLsb' (8 * ((b - s.localKey ea) % 64)) 8
      else s.byte b) ∧ t.full = s.full ∧ SameRegisters s.ctx t.ctx := by
  have hlen : (s.vstoreBytes v cls).length = 64 * cls.length := by simp [State.vstoreBytes_eq]
  obtain ⟨-, hfull, hctx, hbyte⟩ := State.foldl_storePieces hwf s.focus.cell s.focus.ctx oc (s.localKey ea)
    (l := s.vstoreBytes v cls) (n := 8 * cls.length) (by omega) fun i => (live (cls.getD (i / 16) 0)).getLsbD (i % 16)
  rw [State.vstore_plain h]
  refine ⟨fun b => (hbyte b).trans ?_, hfull, .of_eq hctx⟩
  unfold State.storedByte
  generalize b - s.localKey ea = j
  have hdiv : j / 4 / 16 = j / 64 := by omega
  have hmod : j / 4 % 16 = j % 64 / 4 := by omega
  simp only [hdiv, hmod]
  by_cases hj : j / 64 < cls.length
  · refine if_congr (and_congr_right' (and_congr_left' (by omega))) ?_ rfl
    rw [State.vstoreBytes_eq, List.getD_eq_getElem _ _ (by simp; omega)]
    simp
  · rw [if_neg (by omega), if_neg (by omega)]

end

/-! ## The instructions -/

theorem getLsbD_clusters {cls : List Nat} {n : Nat} (hn : n < 8) :
    (cls.foldl (fun m cl => m ||| (1#8 <<< cl)) 0#8).getLsbD n = decide (n ∈ cls) := by
  refine Bool.eq_iff_iff.2 ((getLsbD_foldl_or (fun cl => 1#8 <<< cl) cls 0 n).trans ?_)
  rw [or_iff_right (by simp), decide_eq_true_iff]
  constructor
  · rintro ⟨cl, hcl, hbit⟩
    have hcln : cl = n := by simp at hbit; omega
    exact hcln ▸ hcl
  · exact fun h => ⟨n, h, by simp [hn]⟩

theorem getLsbD_deadLanes {cls : List Nat} (dead : Nat → BitVec 16) {n j : Nat} (hn : n < 8) (hj : j < 16) :
    (deadLanes cls dead).getLsbD (16 * n + j) = (decide (n ∈ cls) && (dead n).getLsbD j) := by
  refine Bool.eq_iff_iff.2 ((getLsbD_foldl_or (fun cl => (dead cl).setWidth 128 <<< (16 * cl)) cls 0 _).trans ?_)
  rw [or_iff_right (by simp), Bool.and_eq_true, decide_eq_true_iff]
  constructor
  · rintro ⟨cl, hcl, hbit⟩
    simp only [BitVec.getLsbD_shiftLeft, BitVec.getLsbD_setWidth, Bool.and_eq_true, Bool.not_eq_true', decide_eq_true_eq,
      decide_eq_false_iff_not] at hbit
    obtain ⟨⟨-, hlo⟩, -, hbit⟩ := hbit
    have hlt := BitVec.lt_of_getLsbD hbit
    have hcln : cl = n := by omega
    subst hcln
    exact ⟨hcl, by rwa [Nat.add_sub_cancel_left] at hbit⟩
  · rintro ⟨hmem, hbit⟩
    refine ⟨n, hmem, ?_⟩
    have hidx : 16 * n + j < 128 := by omega
    simp [hidx, hbit]

section
variable {s : State} {v : Nat} {cls : List Nat} {ea : W64} {oc : Nat} {dead : Nat → BitVec 16} {live : Nat → Nat → Bool}
  (hdead : ∀ cl j, j < 16 → (dead cl).getLsbD j = !live cl j)
  (h : s.Plain ea (64 * cls.length) 64 false false false)
include hdead h

theorem State.vload_queues (hne : cls ≠ []) (hdeep : aSpace ea ≠ 1) :
    let t := s.vload v cls ea oc dead
    (∃ es : List Landing, t.ctx.land = s.ctx.land ++ es ∧ es.map Landing.cl = cls ∧
      ∀ p, p < cls.length → ∃ e, es[p]? = some e ∧ e.kind = .vec ∧ e.reg = v ∧ e.due = s.now + 8 ∧
        e.held = false ∧ e.mask = 0xFFFF ∧ ∀ j, j < 16 →
          let out := aSpace (s.localAddr s.focus.cell ea) == 0 && !s.isFull (s.localKey ea + 64 * p + 8 * (j / 2)) || !live e.cl j
          e.emp.getLsbD j = out ∧
          e.val.extractLsb' (32 * j) 32 = if out then 0 else BitVec.ofNat 32 (s.numberAt (s.localKey ea + 64 * p + 4 * j) 4)) ∧
    SameRegisters s.ctx t.ctx ∧ ∀ b, t.byte b = s.byte b := by
  rw [State.vload_near h hne hdeep]
  refine ⟨⟨(List.range cls.length).map (s.vecLanding v (s.localKey ea) (aSpace (s.localAddr s.focus.cell ea) == 0) cls dead),
    ?_, ?_, fun p hp => ⟨s.vecLanding v (s.localKey ea) (aSpace (s.localAddr s.focus.cell ea) == 0) cls dead p,
      ?_, rfl, rfl, rfl, rfl, rfl, fun j hj => ?_⟩⟩, ?_, fun _ => rfl⟩
  · rw [State.queue, State.ctx_modCtx, State.ctx_modHere rfl]
  · rw [List.map_map]
    exact List.ext_getElem (by simp) fun i _ hi => by simp [State.vecLanding, hi]
  · rw [List.getElem?_map, List.getElem?_range hp]
    rfl
  · have hlane := s.vecLanding_lane v (s.localKey ea) (aSpace (s.localAddr s.focus.cell ea) == 0) cls dead p hj
    rw [hdead _ _ hj] at hlane
    exact hlane
  · rw [State.queue, State.ctx_modCtx, State.ctx_modHere rfl]
    exact .refl _

theorem State.vload_awaits (hdeep : aSpace ea = 1) :
    let t := s.vload v cls ea oc dead
    (∃ w, t.ctx.awaits = s.ctx.awaits ++ [w] ∧ w.kind = .vload ∧ w.reg = v ∧
      (∀ n, n < 8 → w.clusters.getLsbD n = decide (n ∈ cls)) ∧
      (∀ n j, n < 8 → j < 16 → w.dead.getLsbD (16 * n + j) = (decide (n ∈ cls) && !live n j)) ∧
      w.due = some (s.now + (if s.focus.cell / 256 % 2 = 1 then 24 else 20)) ∧
      w.answer = some (0, 0, (List.range (64 * cls.length)).map (fun b => s.byte (s.localKey ea + b)), 0)) ∧
    SameRegisters s.ctx t.ctx ∧ ∀ b, t.byte b = s.byte b := by
  rw [State.vload_deep h hdeep]
  dsimp only
  rw [State.ctx_modCtx, State.ctx_modHere rfl]
  refine ⟨⟨_, rfl, rfl, rfl, fun n hn => ?_, fun n j hn hj => ?_, ?_, rfl⟩, .refl _, fun _ => rfl⟩
  · exact getLsbD_clusters hn
  · rw [← hdead n j hj]
    exact getLsbD_deadLanes dead hn hj
  · show some (s.now + if isC s.focus.cell then 24 else 20) = _
    simp only [isC, dieOf, beq_iff_eq]

end

/-- Settles O25: a load queues the lanes that it finds in each cluster's 64 bytes or awaits them from deep store, and a
store writes the bytes of its lanes. -/
theorem vectorLoadsAndStores : Obligations.VectorLoadsAndStores := by
  intro s v a o q cl x f lane word loads stores base
  have hea (m n : Nat) : s.rs a + BitVec.ofNat 64 (n * m) = base (m * n) := congrArg (s.rs a + BitVec.ofNat 64 ·) (Nat.mul_comm n m)
  have hall : List.range 8 ≠ [] := by decide
  have hloads {i : Instr} {ea ea' : W64} {cls : List Nat} {live : Nat → Nat → Bool} (dead : Nat → BitVec 16)
      (hexec : exec i s = .next (s.vload v.toNat cls ea o.toNat dead)) (hea : ea = ea') (hne : cls ≠ [])
      (hdead : ∀ cl j, j < 16 → (dead cl).getLsbD j = !live cl j) : loads i ea' cls live := by
    subst hea
    exact fun h => ⟨fun hdeep => ⟨_, hexec, State.vload_queues hdead h hne hdeep⟩,
      fun hdeep => ⟨_, hexec, State.vload_awaits hdead h hdeep⟩⟩
  have hstores {i : Instr} {ea ea' : W64} {cls : List Nat} {live : Nat → Nat → Bool} (lanes : Nat → BitVec 16)
      (hexec : exec i s = .next (s.vstore v.toNat cls ea o.toNat lanes)) (hea : ea = ea')
      (hlive : ∀ cl j, j < 16 → (lanes cl).getLsbD j = live cl j) : stores i ea' cls live := by
    subst hea
    intro h hwf
    obtain ⟨hbyte, hkept⟩ := State.vstore_stores h hwf (live := lanes)
    refine ⟨_, hexec, fun b => (hbyte b).trans ?_, hkept⟩
    simp only [hlive _ ((b - s.localKey ea) % 64 / 4) (by omega)]
  have hnone (cl j : Nat) (hj : j < 16) : (0 : BitVec 16).getLsbD j = !true := by simp
  have hevery (cl j : Nat) (hj : j < 16) : (0xFFFF : BitVec 16).getLsbD j = true := by
    rw [show (0xFFFF : BitVec 16) = BitVec.allOnes 16 from rfl, BitVec.getLsbD_allOnes]
    exact decide_eq_true hj
  refine ⟨hloads (fun _ => 0) rfl (hea 512 _) hall hnone, hloads (fun _ => 0) rfl (hea 64 _) (List.cons_ne_nil _ _) hnone,
    hloads (live := fun n j => (s.was.qr n q.toNat).getLsbD j) (fun n => ~~~(s.was.qr n q.toNat)) rfl (hea 512 _) hall
      fun n j hj => by simp [hj],
    hstores (fun _ => 0xFFFF) rfl (hea 512 _) hevery, hstores (fun _ => 0xFFFF) rfl (hea 64 _) hevery,
    hstores (live := fun n j => (s.was.qr n q.toNat).getLsbD j && !(s.was.vr n v.toNat).emp.getLsbD j)
      (fun n => s.was.qr n q.toNat &&& ~~~(s.was.vr n v.toNat).emp) rfl (hea 512 _) fun n j hj => ?_⟩
  simp [hj]

end Sys2Proof.Machine
end

section
/-! Barrier and signal objects (R243-R247): an object as its words hold it, and what an update leaves. -/

namespace Sys2Proof.Machine
open Sys2Proof

/-! ## An object and its words -/

/-- The numbers that the two words of an object can hold. -/
def Barrier.Fits (b : Barrier) : Prop :=
  b.count < 2 ^ 24 ∧ b.expected < 2 ^ 24 ∧ b.err < 256 ∧ -(2 ^ 47) ≤ b.pending ∧ b.pending < 2 ^ 47

theorem signed48_range (n : Nat) : -(2 ^ 47) ≤ signed48 n ∧ signed48 n < 2 ^ 47 := by
  unfold signed48
  have : n % 2 ^ 48 < 2 ^ 48 := Nat.mod_lt _ (by decide)
  split <;> omega

theorem signed48_mod {p : Int} (hlo : -(2 ^ 47) ≤ p) (hhi : p < 2 ^ 47) : signed48 (p % 2 ^ 48).toNat = p := by
  unfold signed48
  split <;> omega

theorem Barrier.ofWords_fits (w p : Nat) : (Barrier.ofWords w p).Fits :=
  ⟨Nat.mod_lt _ (by decide), Nat.mod_lt _ (by decide), Nat.mod_lt _ (by decide), (signed48_range p).1, (signed48_range p).2⟩

theorem State.barrier_fits (s : State) (k : Nat) : (s.barrier k).Fits := Barrier.ofWords_fits ..

theorem Barrier.word0_lt {b : Barrier} (h : b.Fits) : b.word0 < 2 ^ 64 := by
  obtain ⟨hcount, hexpected, herr, -⟩ := h
  have := b.phase.toNat_lt
  unfold Barrier.word0
  omega

theorem Barrier.word1_lt (b : Barrier) : b.word1 < 2 ^ 64 := by
  unfold Barrier.word1
  omega

theorem Barrier.ofWords_words {b : Barrier} (h : b.Fits) : Barrier.ofWords b.word0 b.word1 = b := by
  obtain ⟨hcount, hexpected, herr, hlo, hhi⟩ := h
  have hphase : b.word0.testBit 48 = b.phase := by
    have hhigh : b.word0 / 2 ^ 48 % 2 = b.phase.toNat := by
      have := b.phase.toNat_lt
      unfold Barrier.word0
      omega
    rw [Nat.testBit_eq_decide_div_mod_eq, hhigh]
    cases b.phase <;> rfl
  have hp := b.phase.toNat_lt
  have hc : b.word0 % 2 ^ 24 = b.count := by unfold Barrier.word0; omega
  have he : b.word0 / 2 ^ 24 % 2 ^ 24 = b.expected := by unfold Barrier.word0; omega
  have hr : b.word0 / 2 ^ 56 % 256 = b.err := by unfold Barrier.word0; omega
  unfold Barrier.ofWords
  rw [hphase, hc, he, hr, Barrier.word1, signed48_mod hlo hhi]

theorem Barrier.error_fits {b : Barrier} (h : b.Fits) {e : Nat} (he : e < 256) : (b.error e).Fits := by
  obtain ⟨hcount, hexpected, herr, hpend⟩ := h
  unfold Barrier.error
  split
  · exact ⟨hcount, hexpected, he, hpend⟩
  · exact ⟨hcount, hexpected, herr, hpend⟩

theorem Barrier.addPending_fits {b : Barrier} (h : b.Fits) (d : Int) : (b.addPending d).Fits := by
  obtain ⟨hcount, hexpected, herr, hlo, hhi⟩ := h
  unfold Barrier.addPending
  simp only
  split
  · exact Barrier.error_fits (b := { b with pending := -(2 ^ 47) }) ⟨hcount, hexpected, herr, le_rfl, by norm_num⟩
      (show 2 < 256 by decide)
  · split
    · exact Barrier.error_fits (b := { b with pending := 2 ^ 47 - 1 }) ⟨hcount, hexpected, herr, by norm_num, by norm_num⟩
        (show 2 < 256 by decide)
    · next h1 h2 => exact ⟨hcount, hexpected, herr, not_lt.1 h1, not_le.1 h2⟩

theorem Barrier.arrive_fits {b : Barrier} (h : b.Fits) (d : Int) : (b.arrive d).Fits := by
  unfold Barrier.arrive
  split
  · exact Barrier.error_fits h (by decide)
  · obtain ⟨hcount, hexpected, herr, hpend⟩ := h
    exact Barrier.addPending_fits (b := { b with count := b.count - 1 }) ⟨Nat.sub_lt_of_lt hcount, hexpected, herr, hpend⟩ d

theorem Barrier.settle_fits (b : Barrier) {n : Barrier} (h : n.Fits) : (b.settle n).Fits := by
  unfold Barrier.settle
  split
  · exact ⟨h.2.1, h.2⟩
  · exact h

/-! ## The update of an object -/

/-- Whether an update makes COUNT and PENDING both zero, as the obligation says it. -/
theorem Barrier.flips_iff (b n : Barrier) :
    b.flips n = true ↔ n.count = 0 ∧ n.pending = 0 ∧ ¬(b.count = 0 ∧ b.pending = 0) := by
  simp only [Barrier.flips, Bool.and_eq_true, beq_iff_eq, Bool.not_eq_true', Bool.and_eq_false_iff, beq_eq_false_iff_ne,
    not_and_or, and_assoc, ne_eq]

theorem State.barrier_of_mem {s t : State} (h : t.mem = s.mem) (k : Nat) : t.barrier k = s.barrier k := by
  unfold State.barrier
  rw [State.readN_congr s t _ _ fun i _ => State.byte_of_mem h _, State.readN_congr s t _ _ fun i _ => State.byte_of_mem h _]

/-- `t` is `s` with the object at `k` brought to `n`, whole: with the flip where the update makes one. -/
def State.Brings (s t : State) (k : Nat) (n : Barrier) : Prop :=
  t.barrier k = (s.barrier k).settle n ∧
  (if (s.barrier k).flips n then t.isFull k = true ∧ t.isFull (k + 8) = true else t.full = s.full) ∧
  ∀ j, ¬(k ≤ j ∧ j < k + 16) → t.byte j = s.byte j

theorem State.Brings.of_eq {s t u : State} {k : Nat} {n : Barrier} (h : s.Brings t k n) (hmem : u.mem = t.mem)
    (hfull : u.full = t.full) : s.Brings u k n := by
  obtain ⟨hobj, hbits, hbytes⟩ := h
  have hsame (j : Nat) : u.isFull j = t.isFull j := by unfold State.isFull; rw [hfull]
  exact ⟨(State.barrier_of_mem hmem k).trans hobj, by rwa [hsame, hsame, hfull],
    fun j hj => (State.byte_of_mem hmem j).trans (hbytes j hj)⟩

theorem State.putBarrier_brings {s : State} (hwf : Memory.wf s.mem = true) (hfull : Tab.wf true s.full = true) (k : Nat)
    {n : Barrier} (hn : n.Fits) : s.Brings (s.putBarrier k (s.barrier k) n) k n := by
  have hset := Barrier.settle_fits (s.barrier k) hn
  generalize hm : (s.barrier k).settle n = m at hset
  have hwf' := s.wf_writeN hwf k 8 m.word0
  obtain ⟨u, hu⟩ : ∃ u, u = (s.writeN k 8 m.word0).writeN (k + 8) 8 m.word1 := ⟨_, rfl⟩
  have hufull : u.full = s.full := by rw [hu, State.full_writeN, State.full_writeN]
  have hbytes (j : Nat) (hj : ¬(k ≤ j ∧ j < k + 16)) : u.byte j = s.byte j := by
    rw [hu, State.byte_writeN hwf', if_neg (by omega), State.byte_writeN hwf, if_neg (by omega)]
  have hlow : u.readN k 8 = m.word0 := by
    rw [State.readN_congr (s.writeN k 8 m.word0) u, State.readN_writeN hwf]
    · exact Nat.mod_eq_of_lt (m.word0_lt hset)
    intro i hi
    rw [hu, State.byte_writeN hwf', if_neg (by omega)]
  have hhigh : u.readN (k + 8) 8 = m.word1 := by
    rw [hu, State.readN_writeN hwf']
    exact Nat.mod_eq_of_lt m.word1_lt
  have hobj : u.barrier k = m := by rw [State.barrier, hlow, hhigh, m.ofWords_words hset]
  unfold State.putBarrier
  simp only [hm, ← hu]
  have hwfu : Tab.wf true u.full = true := by rw [hufull]; exact hfull
  cases hflip : (s.barrier k).flips n with
  | false =>
    rw [if_neg Bool.false_ne_true]
    exact ⟨hobj.trans hm.symm, by rw [hflip, if_neg Bool.false_ne_true]; exact hufull, hbytes⟩
  | true =>
    rw [if_pos rfl]
    refine ⟨hobj.trans hm.symm, ?_, hbytes⟩
    rw [hflip, if_pos rfl]
    have hwfu' := State.wf_setFull hwfu k true
    rw [State.isFull_setFull hwfu', State.isFull_setFull hwfu', State.isFull_setFull hwfu, if_pos rfl, if_pos rfl]
    exact ⟨ite_self _, rfl⟩

/-! ## What the instructions do -/

/-- An object of the issuing cell is at the key of the local address, whichever way it is named. -/
theorem State.flatOf_objAddr {s : State} {ea : W64} (h : s.mustTravel (s.objAddr ea) = false) :
    flatOf (s.objAddr ea) = s.localKey ea := by
  unfold State.objAddr at h ⊢
  split at h
  · next hlocal => rw [if_pos hlocal]; rfl
  · next hfar =>
    rw [if_neg hfar]
    simp only [State.mustTravel, Bool.or_eq_false_iff, bne_eq_false_iff_eq] at h
    obtain ⟨⟨⟨⟨-, hcell⟩, hpkg⟩, -⟩, -⟩ := h
    have hsame : s.localAddr s.focus.cell ea = ea := by
      apply BitVec.eq_of_getLsbD_eq
      intro i hi
      have hlow : (s.localAddr s.focus.cell ea).getLsbD i =
          if i < 43 then (ea.extractLsb' 0 43).getLsbD i else (s.cellPrefix s.focus.cell).getLsbD (i - 43) :=
        BitVec.getLsbD_append
      rw [hlow, State.cellPrefix, BitVec.getLsbD_append, ← hpkg, ← hcell]
      unfold aCell aPkg
      rw [BitVec.ofNat_toNat, BitVec.setWidth_eq]
      by_cases h43 : i < 43
      · simp [h43]
      · by_cases h54 : i - 43 < 11
        · simp [h43, h54, show 43 + (i - 43) = i by omega]
        · simp [h43, h54, show 54 + (i - 43 - 11) = i by omega, show i - 43 - 11 < 10 by omega]
    rw [State.localKey, hsame]

/-- `t` is `u`, or `u` with the Tarragon windows closed. -/
def State.MayClose (u t : State) : Prop := t = u ∨ t = u.closeWindow

theorem State.MayClose.keeps {u t : State} (h : u.MayClose t) : t.mem = u.mem ∧ t.full = u.full ∧
    SameRegisters u.ctx t.ctx ∧ t.ctx.errSticky = u.ctx.errSticky ∧ t.ctx.violAddr = u.ctx.violAddr ∧
    t.ctx.violInfo = u.ctx.violInfo := by
  rcases h with rfl | rfl
  · exact ⟨rfl, rfl, .refl _, rfl, rfl, rfl⟩
  · rw [State.closeWindow, State.ctx_modCtx, Ctx.closeWith_eq]
    exact ⟨rfl, rfl, .refl _, rfl, rfl, rfl⟩

theorem State.syncHits_of_disabled {s : State} {key : Nat}
    (h : ∀ n, n < 2 → ((s.cell (key / 2 ^ 43)).ws.get 0 (2 * n + 1)).getLsbD 0 = false) (arrival last flip : Bool) :
    s.syncHits key arrival last flip = [] := by
  unfold State.syncHits
  simp only
  rw [List.filter_eq_nil_iff]
  intro n hn
  have hn : n < 2 := by simp at hn; omega
  rw [h n hn]
  simp

/-- An update that no watchpoint sees is made. -/
theorem State.updateBarrier_unwatched {s : State} {key : Nat}
    (h : ∀ n, n < 2 → ((s.cell (key / 2 ^ 43)).ws.get 0 (2 * n + 1)).getLsbD 0 = false) (actor : Option (Nat × Nat))
    (arrival : Bool) (f : Barrier → Barrier) :
    s.updateBarrier key actor arrival f = (s.putBarrier key (s.barrier key) (f (s.barrier key)), []) := by
  unfold State.updateBarrier
  simp only [State.syncHits_of_disabled h]
  cases actor with
  | none => rfl
  | some p =>
    have hstops : s.syncStops key [] (some p) = [] := by
      unfold State.syncStops
      simp
    rw [hstops]
    rfl

end Sys2Proof.Machine
end

section
/-! Barrier and signal instructions (R243-R247): their update, their request, their error response and their hold. -/

namespace Sys2Proof.Machine
open Sys2Proof

/-- An arrival, branch by branch. -/
theorem Barrier.arrive_eq (o : Barrier) (p : Int) : o.arrive p =
    (let q := o.pending + p
    let e (x : Nat) : Nat := if o.err = 0 then x else o.err
    if o.count = 0 then { o with err := e 1 }
    else if q < -(2 ^ 47) then { o with count := o.count - 1, pending := -(2 ^ 47), err := e 2 }
    else if 2 ^ 47 ≤ q then { o with count := o.count - 1, pending := 2 ^ 47 - 1, err := e 2 }
    else { o with count := o.count - 1, pending := q }) := by
  have herror (b : Barrier) (n : Nat) : b.error n = { b with err := if b.err = 0 then n else b.err } := by
    unfold Barrier.error
    split <;> rfl
  unfold Barrier.arrive Barrier.addPending
  simp only [herror]

section
variable {s : State} {ea : W64}

theorem State.accessFault_lt {a : Access} {k : Nat} (h : s.accessFault a = some k) : k < 4 := by
  unfold State.accessFault at h
  split at h
  · cases h; decide
  · exact accessError_lt h

/-- What an object that R74 forbids leaves: the record of the error, and nothing else. -/
def State.Refused (s t : State) (e : Nat) (addr : W64) (store : Bool) : Prop :=
  (s.focus.slot < 14 → RecordsViolation s.ctx t.ctx e (s.violAddrOf addr false)
    (violInfo s.focus.pc s.focus.slot 3 false store false 0)) ∧
  SameRegisters s.ctx t.ctx ∧ t.full = s.full ∧ ∀ j, t.byte j = s.byte j

theorem State.violate_refused (s : State) {e : Nat} (he : e < 4) (addr : W64) (store : Bool) :
    s.Refused (s.violate e (s.violAddrOf addr false) (s.infoOf 3 false store false 0)) e addr store := by
  obtain ⟨hregs, hrec⟩ := s.violate_records (s.violAddrOf addr false) false store false (by omega : e < 7)
    (show 3 < 4 by decide) (show 0 < 8 by decide)
  exact ⟨hrec, hregs, rfl, fun _ => rfl⟩

theorem State.Refused.mayClose {u t : State} {e : Nat} {addr : W64} {store : Bool} (h : s.Refused u e addr store)
    (ht : u.MayClose t) : s.Refused t e addr store := by
  obtain ⟨hmem, hfull, hregs, hsticky, haddr, hinfo⟩ := ht.keeps
  obtain ⟨hrec, hregs', hfull', hbytes⟩ := h
  refine ⟨fun hslot => ?_, hregs'.trans hregs, hfull.trans hfull', fun j => (State.byte_of_mem hmem j).trans (hbytes j)⟩
  unfold RecordsViolation
  rw [hsticky, haddr, hinfo]
  exact hrec hslot

/-- Nothing of the context is open within its cell, and no watchpoint of the object's cell is on. -/
def State.Quiet (s : State) (ea : W64) : Prop :=
  s.mustTravel (s.objAddr ea) = false ∧ Memory.wf s.mem = true ∧ Tab.wf true s.full = true ∧
    ∀ n, n < 2 → ((s.cell (s.localKey ea / 2 ^ 43)).ws.get 0 (2 * n + 1)).getLsbD 0 = false

theorem State.writeN_eq (s : State) (k n v : Nat) : s.writeN k n v = { s with mem := (s.writeN k n v).mem } := by
  induction n generalizing s k v with
  | zero => rfl
  | succ n ih =>
    rw [State.writeN]
    exact ih (s.setByte k (BitVec.ofNat 8 v)) (k + 1) (v / 256)

/-- The update of an object changes memory and full bits alone. -/
theorem State.putBarrier_eq (s : State) (k : Nat) (b n : Barrier) :
    ∃ m f, s.putBarrier k b n = { s with mem := m, full := f } := by
  obtain ⟨m, hm⟩ : ∃ m, s.writeN k 8 (b.settle n).word0 = { s with mem := m } := ⟨_, s.writeN_eq ..⟩
  obtain ⟨m', hm'⟩ : ∃ m', State.writeN { s with mem := m } (k + 8) 8 (b.settle n).word1 = { s with mem := m' } :=
    ⟨_, State.writeN_eq ..⟩
  unfold State.putBarrier
  simp only [hm, hm']
  split
  · exact ⟨_, _, rfl⟩
  · exact ⟨_, _, rfl⟩

section
variable {op : Nat} {data : W64} {arrival : Bool} {f : Barrier → Barrier}

theorem State.barrierOp_refused {e : Nat} (h : s.objError ea 16 16 = some e) :
    s.Refused (s.barrierOp op ea data arrival f) e ea true := by
  simp only [State.barrierOp, h]
  exact s.violate_refused (State.accessFault_lt h) ea true

theorem State.barrierOp_travels (h : s.objError ea 16 16 = none) (htravel : s.mustTravel (s.objAddr ea) = true) :
    Sends s (s.barrierOp op ea data arrival f) op .store 0 3 false (s.objAddr ea) (toBytes 8 data.toNat) 0 := by
  simp only [State.barrierOp, h, htravel, if_true]
  exact s.sendRemote_sends ..

theorem State.barrierOp_brings (h : s.objError ea 16 16 = none) (hquiet : s.Quiet ea)
    (hfits : (f (s.barrier (s.localKey ea))).Fits) :
    s.Brings (s.barrierOp op ea data arrival f) (s.localKey ea) (f (s.barrier (s.localKey ea))) ∧
      SameRegisters s.ctx (s.barrierOp op ea data arrival f).ctx := by
  obtain ⟨htravel, hwf, hfull, hws⟩ := hquiet
  simp only [State.barrierOp, h, htravel, Bool.false_eq_true, if_false, State.flatOf_objAddr htravel,
    State.updateBarrier_unwatched hws, List.isEmpty_nil, if_true]
  refine ⟨State.putBarrier_brings hwf hfull _ hfits, .of_eq ?_⟩
  obtain ⟨m, g, hput⟩ := s.putBarrier_eq (s.localKey ea) (s.barrier (s.localKey ea)) (f (s.barrier (s.localKey ea)))
  rw [hput]
  rfl

end

/-! ## Waits -/

theorem State.behindRelease_open {oc : Nat} (hopen : ∀ w, w ∈ s.ctx.awaits → s.barring s.focus.cell w = false)
    (f : State → State) : s.behindRelease oc f = f s := by
  refine State.behindRelease_of_free ?_ f
  unfold State.barred
  rw [List.filter_eq_nil_iff.2 fun w hw => by simp [hopen w hw], List.map_nil]

theorem State.settleClass_open (hpend : s.ctx.pend = []) (oc : Nat) : s.settleClass oc = s := State.settleClass_nil hpend oc

/-- A hold leaves the context waiting with what it had. -/
theorem State.block_waits (s : State) (h : Hold) : (s.block h).ctx.st = .blocked ∧ (s.block h).ctx.hold = h ∧
    (s.block h).ctx.pc = s.focus.pc ∧ SameRegisters s.ctx (s.block h).ctx ∧ (s.block h).full = s.full ∧
    ∀ j, (s.block h).byte j = s.byte j := by
  obtain ⟨hst, hhold, hpc, hregs⟩ := s.block_holds h
  exact ⟨hst, hhold, hpc, hregs, rfl, fun _ => rfl⟩

theorem State.readN_eq_numberAt (s : State) (k n : Nat) : s.readN k n = s.numberAt k n := by
  rw [← s.ofBytes_readBytes]
  induction n generalizing k with
  | zero => rfl
  | succ n ih =>
    rw [State.readN, ih, State.readBytes, State.readBytes, List.range_succ_eq_map, List.map_cons, List.map_map, ofBytes]
    refine congrArg (_ + 256 * ofBytes ·) (List.map_congr_left fun i _ => ?_)
    exact congrArg s.byte (show k + 1 + i = k + (i + 1) by omega)

theorem State.read64_toNat (s : State) (k : Nat) : (s.read64 k).toNat = s.numberAt k 8 := by
  rw [State.read64, BitVec.toNat_ofNat, s.readN_eq_numberAt]
  exact Nat.mod_eq_of_lt (s.numberAt_lt k 8)

end

/-- The object of a `BWAIT` is at its address with bit 0 cleared. -/
theorem State.bwaitObj_eq (s : State) (a : BitVec 6) : s.bwaitObj a = BitVec.ofNat 64 ((s.rs a).toNat / 2 * 2) := by
  have hshift : s.bwaitObj a = (s.rs a >>> 1) <<< 1 := by
    apply BitVec.eq_of_getLsbD_eq
    intro i hi
    rw [State.bwaitObj, BitVec.getLsbD_and, BitVec.getLsbD_not, BitVec.getLsbD_shiftLeft, BitVec.getLsbD_ushiftRight]
    cases i with
    | zero => simp
    | succ i => simp [hi, Nat.add_comm 1 i]
  have hlt := (s.rs a).isLt
  apply BitVec.eq_of_toNat_eq
  rw [hshift, BitVec.toNat_shiftLeft, BitVec.toNat_ushiftRight, BitVec.toNat_ofNat, Nat.shiftLeft_eq, Nat.shiftRight_eq_div_pow]

/-- The low bytes of a number are those of the number modulo a power of 256. -/
theorem byte_of_mod (v : Nat) {i n : Nat} (hi : i < n) : v % 256 ^ n / 256 ^ i % 256 = v / 256 ^ i % 256 := by
  obtain ⟨m, rfl⟩ : ∃ m, n = i + (1 + m) := ⟨n - i - 1, by omega⟩
  rw [pow_add, Nat.mod_mul_right_div_self, pow_add, pow_one, Nat.mod_mod_of_dvd _ (Nat.dvd_mul_right ..)]

section
variable {s : State} {a b : BitVec 6}

/-- A `BWAIT` that gets an error response. -/
theorem execBwait_refused {e : Nat} (h : s.objError (s.bwaitObj a) 16 16 = some e) : Completes (.bwait a) s fun t =>
    (s.focus.slot < 14 → RecordsViolation s.ctx t.ctx e (s.violAddrOf (s.bwaitObj a) false)
      (violInfo s.focus.pc s.focus.slot 3 false false false 0)) ∧
    t.ctx.pr 14 = false ∧ t.ctx.pr 15 = true ∧ t.full = s.full ∧ ∀ j, t.byte j = s.byte j := by
  obtain ⟨hrec, -, -, -⟩ := s.violate_refused (State.accessFault_lt h) (s.bwaitObj a) false
  have hexec : exec (.bwait a) s = .next
      ((s.violate e (s.violAddrOf (s.bwaitObj a) false) (s.infoOf 3 false false false 0)).wpair 7 false).closeWindow := by
    simp only [exec, execBwait, h]
  refine ⟨_, hexec, ?_⟩
  obtain ⟨u, hu⟩ : ∃ u, u = s.violate e (s.violAddrOf (s.bwaitObj a) false) (s.infoOf 3 false false false 0) := ⟨_, rfl⟩
  have hleft : u.full = s.full ∧ ∀ j, u.byte j = s.byte j := by
    rw [hu]
    exact ⟨rfl, fun _ => rfl⟩
  rw [← hu] at hrec ⊢
  obtain ⟨hpair, -, p, hp⟩ := u.wpair_writes 7 (by decide) false
  obtain ⟨-, -, ⟨-, hpreds, -⟩, hsticky, haddr, hinfo⟩ := State.MayClose.keeps (u := u.wpair 7 false) (.inr rfl)
  have hpr (n : Nat) : (u.wpair 7 false).closeWindow.ctx.pr n = (u.wpair 7 false).ctx.pr n := by
    unfold Ctx.pr
    rw [hpreds]
  refine ⟨fun hslot => ?_, ?_, ?_, hleft⟩
  · unfold RecordsViolation
    rw [hsticky, haddr, hinfo, hp, State.ctx_modCtx]
    exact hrec hslot
  · rw [hpr, hpair 14 (by decide)]
    rfl
  · rw [hpr, hpair 15 (by decide)]
    rfl

/-- A `BWAIT` behind nothing. -/
theorem execBwait_open (hpend : s.ctx.pend = []) (hopen : ∀ w, w ∈ s.ctx.awaits → s.barring s.focus.cell w = false)
    (h : s.objError (s.bwaitObj a) 16 16 = none) : exec (.bwait a) s = .next (
      if s.bwaitHeld a then (s.lookedAt (s.objAddr (s.bwaitObj a))).block
        (.phase (s.waitKey (s.objAddr (s.bwaitObj a))) ((s.rs a).getLsbD 0))
      else ((s.lookedAt (s.objAddr (s.bwaitObj a))).wpair 7 (s.bwaitOk a)).closeWindow) := by
  simp only [exec, execBwait, h, State.behindRelease_open hopen, State.settleClass_open hpend]

theorem execSwait_open (hpend : s.ctx.pend = []) (hopen : ∀ w, w ∈ s.ctx.awaits → s.barring s.focus.cell w = false)
    (h : s.objError (s.rs a) 8 8 = none) : exec (.swait a b) s = .next (
      if s.swaitHeld a b then (s.lookedAt (s.objAddr (s.rs a))).block (.signal (s.waitKey (s.objAddr (s.rs a))) (s.rs b))
      else s.lookedAt (s.objAddr (s.rs a))) := by
  simp only [exec, execSwait, h, State.behindRelease_open hopen, State.settleClass_open hpend]

/-- The addition of a `SIGNAL` to a word of the issuing cell. -/
theorem execSignal_adds (h : s.objError (s.rs a) 8 8 = none) (hquiet : s.Quiet (s.rs a)) : Completes (.signal a b) s fun t =>
    StoresAt s t (s.localKey (s.rs a)) 8 (s.numberAt (s.localKey (s.rs a)) 8 + (s.rs b).toNat) ∧
    t.isFull (s.localKey (s.rs a)) = true ∧ SameRegisters s.ctx t.ctx := by
  obtain ⟨htravel, hwf, hfull, hws⟩ := hquiet
  obtain ⟨n, hn⟩ : ∃ n, n = (s.read64 (s.localKey (s.rs a)) + s.rs b).toNat := ⟨_, rfl⟩
  have hexec : exec (.signal a b) s =
      .next ((s.writeN (s.localKey (s.rs a)) 8 n).setFull (s.localKey (s.rs a)) true) := by
    have hstops (actor : Nat × Nat) : s.syncStops (s.localKey (s.rs a)) [] (some actor) = [] := by simp [State.syncStops]
    simp only [exec, execSignal, h, htravel, Bool.false_eq_true, if_false, State.flatOf_objAddr htravel,
      State.syncHits_of_disabled hws, hstops, List.isEmpty_nil, if_true]
    rw [hn]
    rfl
  obtain ⟨hin, hout⟩ := storesAt_writeN hwf (s.localKey (s.rs a)) 8 n
  refine ⟨_, hexec, ⟨fun i hi => (hin i hi).trans ?_, hout⟩, ?_, ?_⟩
  · rw [hn, BitVec.toNat_add, State.read64_toNat]
    exact byte_of_mod _ hi
  · rw [State.isFull_setFull (by rw [State.full_writeN]; exact hfull), if_pos rfl]
  · obtain ⟨m, hm⟩ : ∃ m, s.writeN (s.localKey (s.rs a)) 8 n = { s with mem := m } := ⟨_, s.writeN_eq ..⟩
    rw [hm]
    exact .refl _

end

/-! ## The statement -/

/-- The instruction updates an object as `State.barrierOp` does, and may close the windows. -/
def State.Updates (s : State) (i : Instr) (op : Nat) (ea data : W64) (arrival : Bool) (f : Barrier → Barrier) : Prop :=
  Completes i s fun t => (s.barrierOp op ea data arrival f).MayClose t

section
variable (s : State) (a b : BitVec 6)

theorem State.updates_binit (h : 0 < (s.rs b).toNat ∧ (s.rs b).toNat < 2 ^ 24) :
    s.Updates (.binit a b) 0x3C (s.rs a) (s.rs b) false (Barrier.init (s.rs b)) := by
  have hok : ¬(bitsAt (s.rs b) 0 24 = 0 ∨ bitsAt (s.rs b) 24 40 ≠ 0) := by
    unfold bitsAt
    omega
  exact ⟨_, by simp only [exec, execBinit]; rw [if_neg hok], .inl rfl⟩

theorem State.updates_arrive : s.Updates (.arrive a) 0x37 (s.rs a) 0 true fun o => o.arrive 0 := ⟨_, rfl, .inr rfl⟩

theorem State.updates_arrivex (h : (s.rs b).toNat < 2 ^ 48) :
    s.Updates (.arrivex a b) 0x38 (s.rs a) (s.rs b) true fun o => o.arrive (signed48 (s.rs b).toNat) := by
  have hok : ¬bitsAt (s.rs b) 48 16 ≠ 0 := by
    unfold bitsAt
    omega
  exact ⟨_, by simp only [exec, execArrivex]; rw [if_neg hok], .inr rfl⟩

theorem execBinit_bad (h : ¬(0 < (s.rs b).toNat ∧ (s.rs b).toNat < 2 ^ 24)) :
    exec (.binit a b) s = .next (s.stop 0x02 37) := by
  have hlt := (s.rs b).isLt
  have hbad : bitsAt (s.rs b) 0 24 = 0 ∨ bitsAt (s.rs b) 24 40 ≠ 0 := by
    unfold bitsAt
    omega
  simp only [exec, execBinit]
  rw [if_pos hbad, State.illegal]

theorem execArrivex_bad (h : 2 ^ 48 ≤ (s.rs b).toNat) :
    Completes (.arrivex a b) s fun t => s.Refused t 0 (s.rs a) true := by
  have hlt := (s.rs b).isLt
  have hbad : bitsAt (s.rs b) 48 16 ≠ 0 := by
    unfold bitsAt
    omega
  exact ⟨_, by simp only [exec, execArrivex]; rw [if_pos hbad],
    (s.violate_refused (e := kAddr) (by decide) (s.rs a) true).mayClose (.inr rfl)⟩

end

theorem Barrier.init_fits (b : Barrier) (v : W64) : (b.init v).Fits :=
  ⟨Nat.mod_lt _ (by decide), Nat.mod_lt _ (by decide), Nat.zero_lt_succ _, show -(2 ^ 47) ≤ (0 : Int) by norm_num,
    show (0 : Int) < 2 ^ 47 by norm_num⟩

/-- Settles O29: each update of an object is made at once, sent, or refused, and each wait is held or completes. -/
theorem barriersAndSignals : Obligations.BarriersAndSignals := by
  intro s a b ea v k o binitOk quiet flip becomes arrive still refused goes waits obj open_
  have hobj : s.bwaitObj a = obj := s.bwaitObj_eq a
  have hmakes {i : Instr} {op : Nat} {data : W64} {arrival : Bool} {f : Barrier → Barrier} {n : Barrier}
      (hi : s.Updates i op ea data arrival f) (hok : s.objError ea 16 16 = none) (hq : quiet) (hfits : (f o).Fits)
      (hn : f o = n) : Completes i s (becomes n) := by
    subst hn
    obtain ⟨t, hexec, ht⟩ := hi
    obtain ⟨hbrings, hregs⟩ := State.barrierOp_brings (op := op) (data := data) (arrival := arrival) hok hq hfits
    obtain ⟨hmem, hfull, hregs', -⟩ := ht.keeps
    obtain ⟨hobject, hbits, hbytes⟩ := hbrings.of_eq hmem hfull
    refine ⟨t, hexec, fun hflip => ?_, fun hflip => ?_, hbytes, hregs.trans hregs'⟩
    · have hflip := (Barrier.flips_iff ..).2 hflip
      rw [Barrier.settle, if_pos hflip] at hobject
      rw [if_pos hflip] at hbits
      exact ⟨hobject, hbits⟩
    · have hflip := mt (Barrier.flips_iff ..).1 hflip
      rw [Barrier.settle, if_neg hflip] at hobject
      rw [if_neg hflip] at hbits
      exact ⟨hobject, hbits⟩
  have htravels {i : Instr} {op : Nat} {data : W64} {arrival : Bool} {f : Barrier → Barrier}
      (hi : s.Updates i op ea data arrival f) (hok : s.objError ea 16 16 = none)
      (htravel : s.mustTravel (s.objAddr ea) = true) : goes op data i := by
    obtain ⟨t, hexec, ht⟩ := hi
    exact ⟨t, hexec, _, State.barrierOp_travels hok htravel, ht⟩
  have hrefused {i : Instr} {op e : Nat} {data : W64} {arrival : Bool} {f : Barrier → Barrier}
      (hi : s.Updates i op ea data arrival f) (hbad : s.objError ea 16 16 = some e) :
      Completes i s fun t => refused e ea true t ∧ still t := by
    obtain ⟨t, hexec, ht⟩ := hi
    exact ⟨t, hexec, (State.barrierOp_refused hbad).mayClose ht⟩
  have hsigned (hv : v.toNat < 2 ^ 48) :
      signed48 v.toNat = if v.toNat < 2 ^ 47 then (v.toNat : Int) else (v.toNat : Int) - 2 ^ 48 := by
    rw [signed48, Nat.mod_eq_of_lt hv]
  have hinit (hv : binitOk) : o.init v = { o with expected := v.toNat, count := v.toNat, pending := 0, err := 0 } := by
    have hlow : bitsAt v 0 24 = v.toNat := by
      unfold bitsAt
      have : v.toNat < 2 ^ 24 := hv.2
      omega
    rw [Barrier.init, hlow]
  refine ⟨fun hbad => ⟨_, execBinit_bad s a b hbad, rfl⟩, fun hok hq => ⟨fun hv => ?_, ?_, fun hv => ?_⟩,
    fun hok ht => ⟨fun hv => htravels (s.updates_binit a b hv) hok ht, htravels (s.updates_arrive a) hok ht,
      fun hv => htravels (s.updates_arrivex a b hv) hok ht⟩,
    fun hv => execArrivex_bad s a b hv,
    fun e he => ⟨fun hv => hrefused (s.updates_binit a b hv) he, hrefused (s.updates_arrive a) he,
      fun hv => hrefused (s.updates_arrivex a b hv) he⟩,
    fun ho hok hpkg => ⟨fun hphase => ?_, fun hphase => ?_⟩, fun ho hok hpkg => ?_, fun e he => ?_, fun hok => ⟨?_, ?_, ?_, ?_⟩,
    fun e he => ⟨?_, ?_⟩⟩
  · exact hmakes (s.updates_binit a b hv) hok hq (Barrier.init_fits ..) (hinit hv)
  · exact hmakes (s.updates_arrive a) hok hq (Barrier.arrive_fits (s.barrier_fits k) _) (o.arrive_eq 0)
  · exact hmakes (s.updates_arrivex a b hv) hok hq (Barrier.arrive_fits (s.barrier_fits k) _)
      (hsigned hv ▸ o.arrive_eq _)
  · refine ⟨_, execBwait_open ho.1 ho.2 (hobj ▸ hok), ?_⟩
    have hheld : s.bwaitHeld a = false := by
      rw [State.bwaitHeld, hobj, if_pos hpkg, beq_false_of_ne hphase, Bool.and_false]
    rw [hheld, hobj, State.lookedAt, if_pos hpkg, if_neg Bool.false_ne_true, State.bwaitOk, hobj, if_pos hpkg]
    exact ⟨_, s.wpair_writes 7 (by decide) _, rfl⟩
  · refine ⟨_, execBwait_open ho.1 ho.2 (hobj ▸ hok), ?_⟩
    have hheld : s.bwaitHeld a = true := by
      rw [State.bwaitHeld, hobj, if_pos hpkg, hok, beq_iff_eq.2 hphase]
      rfl
    rw [hheld, hobj, State.lookedAt, if_pos hpkg, if_pos rfl, State.waitKey, if_pos hpkg]
    exact s.block_waits _
  · refine ⟨_, execBwait_open ho.1 ho.2 (hobj ▸ hok), ?_⟩
    rw [hobj, State.lookedAt, if_neg hpkg]
    split
    · obtain ⟨hst, -, hpc, hstill⟩ := s.drawn.drawn.block_waits (.phase (s.waitKey (s.objAddr obj)) ((s.rs a).getLsbD 0))
      exact .inl ⟨hst, hpc, hstill⟩
    · exact .inr ⟨_, _, s.drawn.drawn.wpair_writes 7 (by decide) _, rfl⟩
  · exact hobj ▸ execBwait_refused (hobj ▸ he)
  · exact execSignal_adds hok
  · intro htravel
    have hexec : exec (.signal a b) s = .next (s.sendRemote 0x3A .store 0 3 false (s.objAddr ea) (toBytes 8 v.toNat) 0
        (s.infoOf 3 false true false 0)) := by
      have hok : s.objError (s.rs a) 8 8 = none := hok
      have htravel : s.mustTravel (s.objAddr (s.rs a)) = true := htravel
      simp only [exec, execSignal, hok, htravel, if_true]
      rfl
    exact ⟨_, hexec, _, s.sendRemote_sends .., .inl rfl⟩
  · intro ho hpkg
    have hlooked : s.lookedAt (s.objAddr (s.rs a)) = s := if_pos hpkg
    have hkey : s.waitKey (s.objAddr (s.rs a)) = flatOf (s.objAddr ea) := if_pos hpkg
    have hheld : s.swaitHeld a b = decide (s.numberAt (flatOf (s.objAddr ea)) 8 < v.toNat) := by
      rw [← State.read64_toNat]
      exact (congrArg₂ (· && ·) (congrArg Option.isNone hok) (if_pos hpkg)).trans (Bool.true_and _)
    have hexec := execSwait_open (b := b) ho.1 ho.2 hok
    rw [hlooked, hkey, hheld] at hexec
    refine ⟨fun hreached => ⟨s, ?_, rfl⟩, fun hshort => ⟨_, ?_, s.block_waits (.signal (flatOf (s.objAddr ea)) v)⟩⟩
    · rwa [decide_eq_false (not_lt.2 hreached), if_neg Bool.false_ne_true] at hexec
    · rwa [decide_eq_true hshort, if_pos rfl] at hexec
  · intro ho hpkg
    have hlooked : s.lookedAt (s.objAddr (s.rs a)) = s.drawn.drawn := if_neg hpkg
    refine ⟨_, execSwait_open ho.1 ho.2 hok, ?_⟩
    rw [hlooked]
    split
    · obtain ⟨hst, -, hpc, hstill⟩ := s.drawn.drawn.block_waits (.signal (s.waitKey (s.objAddr (s.rs a))) (s.rs b))
      exact .inr ⟨hst, hpc, hstill⟩
    · exact .inl rfl
  · have he : s.objError (s.rs a) 8 8 = some e := he
    exact ⟨_, by simp only [exec, execSignal, he], s.violate_refused (State.accessFault_lt he) (s.rs a) true⟩
  · have he : s.objError (s.rs a) 8 8 = some e := he
    exact ⟨_, by simp only [exec, execSwait, he], s.violate_refused (State.accessFault_lt he) (s.rs a) false⟩

end Sys2Proof.Machine
end

section
/-! The matrix engines' state (R249-R252): reads and updates of an engine, claims on what an evicted task holds, and an
entry's way into a queue. -/

namespace Sys2Proof.Machine
open Sys2Proof

/-! ## Updates of an engine -/

theorem State.mat_modMat (s : State) (c e : Nat) (f : MatEngine → MatEngine) (j : Nat) :
    ((s.modMat c e f).cell c).mat j = if j = e then f ((s.cell c).mat e) else (s.cell c).mat j := by
  unfold State.modMat
  rw [State.cell_modCell, if_pos rfl]
  exact Tab.get_ins ..

theorem State.mat_modMat_same (s : State) (c e : Nat) (f : MatEngine → MatEngine) :
    ((s.modMat c e f).cell c).mat e = f ((s.cell c).mat e) := (s.mat_modMat c e f e).trans (if_pos rfl)

theorem State.modMat_modMat (s : State) (c e : Nat) (f g : MatEngine → MatEngine) :
    (s.modMat c e f).modMat c e g = s.modMat c e fun m => g (f m) := by
  unfold State.modMat
  rw [State.modCell_modCell]
  refine congrArg (s.modCell c) (funext fun k => ?_)
  have hmat : Cell.mat { k with mats := k.mats.ins e (f (k.mat e)) } e = f (k.mat e) :=
    (Tab.get_ins ..).trans (if_pos rfl)
  simp only [hmat, Tab.ins_ins]

/-- What an update does to an engine depends only on the engine that it finds. -/
theorem State.modMat_const (s : State) (c e : Nat) (f : MatEngine → MatEngine) :
    s.modMat c e f = s.modMat c e fun _ => f ((s.cell c).mat e) := rfl

/-! ## What an instruction issues under -/

/-- What no claim on evicted state changes: the focus, the snapshot, the banks and the counted cycles. -/
structure State.SameIssue (s t : State) : Prop where
  focus : t.focus = s.focus
  snap : t.snap = s.snap
  cycle : t.cycle = s.cycle
  ctxs : ∀ c, (t.cell c).ctxs = (s.cell c).ctxs
  frozen : ∀ c, (t.cell c).frozen = (s.cell c).frozen

namespace State.SameIssue
variable {s t u : State}

theorem refl (s : State) : s.SameIssue s := ⟨rfl, rfl, rfl, fun _ => rfl, fun _ => rfl⟩

theorem trans (h : s.SameIssue t) (g : t.SameIssue u) : s.SameIssue u :=
  ⟨g.focus.trans h.focus, g.snap.trans h.snap, g.cycle.trans h.cycle, fun c => (g.ctxs c).trans (h.ctxs c),
    fun c => (g.frozen c).trans (h.frozen c)⟩

theorem of_cells (hfocus : t.focus = s.focus) (hsnap : t.snap = s.snap) (hcycle : t.cycle = s.cycle) (hcells : t.cells = s.cells) :
    s.SameIssue t := by
  have hcell (c : Nat) : t.cell c = s.cell c := by unfold State.cell; rw [hcells]
  exact ⟨hfocus, hsnap, hcycle, fun c => by rw [hcell], fun c => by rw [hcell]⟩

theorem modCell {f : Cell → Cell} (hctxs : ∀ k, (f k).ctxs = k.ctxs) (hfrozen : ∀ k, (f k).frozen = k.frozen) (s : State)
    (c : Nat) : s.SameIssue (s.modCell c f) := by
  refine ⟨rfl, rfl, rfl, fun j => ?_, fun j => ?_⟩
  · rw [State.cell_modCell]
    split
    · next h => rw [hctxs, h]
    · rfl
  · rw [State.cell_modCell]
    split
    · next h => rw [hfrozen, h]
    · rfl

theorem modDie (h : s.SameIssue t) (d : Nat) (f : Die → Die) : s.SameIssue (t.modDie d f) := h.trans (.of_cells rfl rfl rfl rfl)

theorem takeFrames (h : s.SameIssue t) (d n : Nat) : s.SameIssue (t.takeFrames d n).2 :=
  h.modDie d fun k => { k with spill := k.spill ++ (t.die d).freeFrames.take n }

theorem withDraws (h : s.SameIssue t) (n : Nat) : s.SameIssue { t with draws := n } := h.trans (.of_cells rfl rfl rfl rfl)

theorem modMat (s : State) (c e : Nat) (f : MatEngine → MatEngine) : s.SameIssue (s.modMat c e f) :=
  modCell (f := fun k => { k with mats := k.mats.ins e (f (k.mat e)) }) (fun _ => rfl) (fun _ => rfl) s c

theorem ctx (h : s.SameIssue t) : t.ctx = s.ctx := by
  unfold State.ctx State.here Cell.ctx
  rw [h.focus, h.ctxs]

theorem now (h : s.SameIssue t) : t.now = s.now := by
  unfold State.now State.clock
  rw [h.focus, h.cycle, h.frozen]

theorem was (h : s.SameIssue t) : t.was = s.was := by
  have hctx := h.ctx
  unfold State.was State.seen
  rw [h.snap, h.focus]
  cases hs : s.snap with
  | some k => rfl
  | none =>
    unfold State.ctx at hctx
    rw [h.focus] at hctx
    exact hctx

end State.SameIssue

/-! ## Claims -/

theorem State.engineWrite_eq (s : State) (k : Nat) (l : List Byte) :
    ∃ m q f, s.engineWrite k l = { s with mem := m, poison := q, full := f } := by
  obtain ⟨m, q, hmq⟩ := s.overwrite_eq k l
  unfold State.overwrite at hmq
  unfold State.engineWrite
  simp only [hmq]
  split
  · exact ⟨_, _, _, State.setFullRange_eq ..⟩
  · exact ⟨_, _, s.full, rfl⟩

theorem State.SameIssue.globalWrite (s : State) (a : W64) (l : List Byte) : s.SameIssue (s.globalWrite a l) := by
  unfold State.globalWrite
  split
  · exact .of_cells rfl rfl rfl rfl
  · split
    · exact .refl s
    · obtain ⟨m, q, f, h⟩ := s.engineWrite_eq (flatOf a) l
      rw [h]
      exact .of_cells rfl rfl rfl rfl

theorem State.spillBytes_leaves (s : State) (d : Nat) (frames : List Nat) (l : List Byte) :
    s.SameIssue (s.spillBytes d frames l) ∧ (s.spillBytes d frames l).cells = s.cells := by
  unfold State.spillBytes
  refine foldl_keep (fun t : State => s.SameIssue t ∧ t.cells = s.cells) _ (fun t i ht => ?_) _ s ⟨.refl s, rfl⟩
  exact ⟨ht.1.trans (.globalWrite ..), (State.cells_globalWrite ..).trans ht.2⟩

theorem State.cell_modDie (s : State) (d : Nat) (f : Die → Die) (c : Nat) : (s.modDie d f).cell c = s.cell c := rfl

theorem State.modTaskAway_leaves (s : State) (c task : Nat) (f : Saved → Saved) :
    s.SameIssue (s.modTaskAway c task f) ∧ ((s.modTaskAway c task f).cell c).mats = (s.cell c).mats := by
  unfold State.modTaskAway
  dsimp only
  refine ⟨(State.SameIssue.modCell (f := fun k => { k with saved := k.saved.map _ }) (fun _ => rfl) (fun _ => rfl) s c).modDie ..,
    ?_⟩
  rw [State.cell_modDie, State.cell_modCell, if_pos rfl]

/-- A claim of a tile leaves the engine its queue, and the context what it issues under. -/
theorem State.claimTile_leaves (s : State) (c e t : Nat) : s.SameIssue (s.claimTile c e t) ∧
    ∃ ts, ((s.claimTile c e t).cell c).mat e = { (s.cell c).mat e with tiles := ts } := by
  unfold State.claimTile
  simp only
  split
  · exact ⟨.refl s, _, rfl⟩
  · next o ho =>
    split
    · exact ⟨.refl s, _, rfl⟩
    · obtain ⟨d, hd⟩ : ∃ d, d = dieOf c := ⟨_, rfl⟩
      obtain ⟨f, hf⟩ : ∃ f, f = s.takeFrames d 3 := ⟨_, rfl⟩
      obtain ⟨l, hl⟩ : ∃ l, l = (((s.cell c).mat e).tile t).image c s.draws := ⟨_, rfl⟩
      rw [← hd, ← hf, ← hl]
      have hframes : s.SameIssue f.2 ∧ f.2.cells = s.cells := by
        rw [hf]
        exact ⟨.takeFrames (.refl s) .., rfl⟩
      obtain ⟨hspill, hcells⟩ := State.spillBytes_leaves { f.2 with draws := s.draws + 128 } d f.1 l
      generalize State.spillBytes { f.2 with draws := s.draws + 128 } d f.1 l = u at hspill hcells ⊢
      have hu : s.SameIssue u := (hframes.1.withDraws _).trans hspill
      have hucell : u.cell c = s.cell c := by
        unfold State.cell
        rw [hcells]
        exact congrArg (Tab.get Cell.reset · c) hframes.2
      obtain ⟨haway, hmats⟩ := u.modTaskAway_leaves c (o - 4) fun w => { w with claims := w.claims ++ [(e, t, f.1)] }
      refine ⟨(hu.trans haway).trans (.modMat ..), ?_⟩
      rw [State.mat_modMat_same, Cell.mat, hmats, hucell]
      exact ⟨_, rfl⟩

theorem State.claimTile_free {s : State} {c e t : Nat} (h : ∀ y, (((s.cell c).mat e).tile t).owner = some y → y < 4) :
    s.claimTile c e t = s := by
  unfold State.claimTile
  simp only
  split
  · rfl
  · next o ho => exact if_pos (h o ho)

theorem State.claimWeights_none {s : State} {c e : Nat} (h : ((s.cell c).mat e).aside = false) : s.claimWeights c e = s := by
  unfold State.claimWeights
  simp only [h, Bool.not_false, if_true]

theorem State.claimWeights_leaves (s : State) (c e : Nat) : s.SameIssue (s.claimWeights c e) := by
  unfold State.claimWeights
  simp only
  split
  · exact .refl s
  · refine (State.SameIssue.modDie ?_ ..).trans (.modMat ..)
    refine foldl_keep (fun p : List Nat × State => s.SameIssue p.2) _ (fun p w hp => ?_) _ ([], s) (.refl s)
    exact (hp.takeFrames ..).trans (State.spillBytes_leaves ..).1

/-! ## Into the queue -/

/-- Without rules Tarragon leaves a queue as it is. -/
theorem State.rewrite_unruled {s : State} {c : Nat} (h : (s.cell c).rwRules = []) (x e : Nat) : s.rewrite c x e = s := by
  unfold State.rewrite
  simp only [h, List.findSome?_nil, ite_self]

theorem State.enqueueM_full {s : State} (h : 8 ≤ (s.here.mat (9 - s.focus.slot)).queue.length) (op t : Nat) (aux : BitVec 11)
    (v : W64) (st : Option Nat) (f : State → State) : s.enqueueM op t aux v st f = s.block (.matrix (9 - s.focus.slot)) :=
  if_pos h

/-- An operation enters the queue of its engine, `m` before it in the state `b` that its claims leave. -/
theorem State.enqueueM_enters {s b : State} (h : (s.here.mat (9 - s.focus.slot)).queue.length < 8) (op t : Nat) (aux : BitVec 11)
    (v : W64) (st : Option Nat) {f : State → State} {m : MatEngine} (hb : s.SameIssue b)
    (hf : ∀ g, (f s).modMat s.focus.cell (9 - s.focus.slot) g = b.modMat s.focus.cell (9 - s.focus.slot) fun _ => g m) :
    b.EntersQueue op t aux.toNat v st m (s.enqueueM op t aux v st f) := by
  unfold State.EntersQueue
  rw [hb.focus, hb.ctx, hb.was, hb.now]
  obtain ⟨n, hn⟩ : ∃ n : MEntry, n = ⟨s.focus.ctx, op, t, aux, v, st, none, [(s.focus.pc, s.focus.slot)],
      s.ctx.window.get 0 (9 - s.focus.slot), false, false, s.was.supervisor, [], s.now, [], [s.now], []⟩ := ⟨_, rfl⟩
  obtain ⟨w, hw⟩ : ∃ w, w = b.modMat s.focus.cell (9 - s.focus.slot) fun _ => { m with queue := m.queue ++ [n] } := ⟨_, rfl⟩
  have hnow : w.now = s.now := hw ▸ (hb.trans (.modMat ..)).now
  have hrules : ((w.modCtx fun y => { y with lastM := y.lastM.ins (9 - s.focus.slot) s.now }).cell s.focus.cell).rwRules =
      b.here.rwRules := by
    have hcell : (w.cell s.focus.cell).rwRules = b.here.rwRules := by
      rw [hw, State.modMat, State.cell_modCell, if_pos rfl, State.here, hb.focus]
    rw [State.modCtx, State.modCtxOf, State.cell_modCell]
    split
    · next h => rw [← hcell, h]; rfl
    · exact hcell
  refine ⟨n, w.modCtx fun y => { y with lastM := y.lastM.ins (9 - s.focus.slot) s.now }, ?_⟩
  rw [hn]
  refine ⟨rfl, rfl, rfl, rfl, rfl, rfl, rfl, rfl, rfl, rfl, rfl, rfl, rfl, rfl, rfl, rfl, rfl, ?_, ?_, fun hnone => ?_⟩
  · rw [hw, hn]
  · unfold State.enqueueM State.engineNo
    simp only [if_neg (Nat.not_le.2 h)]
    rw [hf, ← hn, ← hw, hnow]
  · exact State.rewrite_unruled (hrules.trans hnone) ..

end Sys2Proof.Machine
end

section
/-! The M-class instructions (R249-R261): when each holds, stops, or enters the queue of its engine. -/

namespace Sys2Proof.Machine
open Sys2Proof

/-! ## Their conditions -/

/-- A guard of the model is the negation of a test. -/
theorem not_iff_of {b : Bool} {p : Prop} (h : b = true ↔ p) : (!b) = true ↔ ¬p := by
  rw [Bool.not_eq_true', ← Bool.not_eq_true, h]

theorem MatEngine.mayTake_iff (m : MatEngine) (t x : Nat) :
    m.mayTake t x = true ↔ ∀ y, (m.tile t).owner = some y → y = x ∨ 4 ≤ y := by
  unfold MatEngine.mayTake
  split
  · next h => simp [h]
  · next y h => simp [h, eq_comm (a := x)]

theorem MatEngine.owns_iff (m : MatEngine) (t x : Nat) : m.owns t x = true ↔ (m.tile t).owner = some x := beq_iff_eq

theorem streamOk_iff (k : Cell) (n target : Nat) : streamOk k n target = true ↔ ∃ u, k.seq n = some u ∧ u.target = target := by
  unfold streamOk
  split
  · next h => simp [h]
  · next h => simp [h]

theorem MatEngine.pending_iff (m : MatEngine) (f : MEntry → Bool) : m.pending f = true ↔
    ∃ e, (e ∈ m.queue ∨ ∃ u, u ∈ m.running ∧ u.1 = e) ∧ f e = true := by
  simp only [MatEngine.pending, Bool.or_eq_true, List.any_eq_true]
  constructor
  · rintro (⟨e, he, hf⟩ | ⟨u, hu, hf⟩)
    · exact ⟨e, .inl he, hf⟩
    · exact ⟨u.1, .inr ⟨u, hu, rfl⟩, hf⟩
  · rintro ⟨e, he | ⟨u, hu, rfl⟩, hf⟩
    · exact .inl ⟨e, he, hf⟩
    · exact .inr ⟨u, hu, hf⟩

theorem MatEngine.idle_iff (m : MatEngine) : m.idle = true ↔ m.queue = [] ∧ m.running = [] := by
  simp [MatEngine.idle]

theorem pairOk_iff (a w : BitVec 4) : pairOk a.toNat w.toNat = true ↔
    (3 ≤ a.toNat ∧ a.toNat ≤ 8 ∧ 3 ≤ w.toNat ∧ w.toNat ≤ 8) ∨ (a = 9 ∧ w = 9) := by
  have hnine (b : BitVec 4) : b = 9 ↔ b.toNat = 9 := BitVec.toNat_inj.symm
  simp only [pairOk, pairFmt, Bool.or_eq_true, Bool.and_eq_true, decide_eq_true_eq, beq_iff_eq, hnine, and_assoc]

/-- The rows that one operation may hold. -/
theorem rowLimit_eq (p : BitVec 4 × BitVec 4) :
    rowLimit p = if p.1 = 3 ∨ p.2 = 3 then 32 else if p.1 = 8 ∧ p.2 = 8 then 128 else 64 := by
  unfold rowLimit rowCycles
  split
  · rfl
  · split <;> rfl

/-- The auxiliary bits of a product and of a drain. -/
theorem toNat_productAux (n : BitVec 7) (q : BitVec 1) :
    (n.setWidth 11 ||| (q.setWidth 11 <<< 7) : BitVec 11).toNat = n.toNat + 128 * q.toNat := by
  revert n q
  decide

theorem toNat_drainAux (f : BitVec 4) (rel z : BitVec 1) :
    (f.setWidth 11 ||| (rel.setWidth 11 <<< 4) ||| (z.setWidth 11 <<< 5) : BitVec 11).toNat =
      f.toNat + 16 * rel.toNat + 32 * z.toNat := by
  revert f rel z
  decide

/-! ## The engine after an operation has taken its tile -/

/-- What a tile's taking leaves in its engine, from the engine before the claim. -/
theorem State.takeTile_engine (s : State) (t : Nat) (g : MatEngine → MatEngine) :
    (s.takeTile t).modMat s.focus.cell (9 - s.focus.slot) g =
      (s.claimTile s.focus.cell (9 - s.focus.slot) t).modMat s.focus.cell (9 - s.focus.slot) fun _ =>
        g (((s.claimTile s.focus.cell (9 - s.focus.slot) t).cell s.focus.cell).mat (9 - s.focus.slot) |>.takeTile t s.focus.ctx) := by
  unfold State.takeTile State.engineNo
  rw [State.modMat_modMat, State.modMat_const]

section
variable (s : State)

/-- A queued operation holds while its queue is full and enters it otherwise. -/
theorem State.enqueueM_completes {i : Instr} {b : State} {op t aux : Nat} {auxBits : BitVec 11} {v : W64} {st : Option Nat}
    {f : State → State} {m : MatEngine} (hexec : exec i s = .next (s.enqueueM op t auxBits v st f)) (haux : auxBits.toNat = aux)
    (hb : s.SameIssue b)
    (hf : ∀ g, (f s).modMat s.focus.cell (9 - s.focus.slot) g = b.modMat s.focus.cell (9 - s.focus.slot) fun _ => g m) :
    (8 ≤ (s.here.mat (9 - s.focus.slot)).queue.length → Completes i s (· = s.block (.matrix (9 - s.focus.slot)))) ∧
    ((s.here.mat (9 - s.focus.slot)).queue.length < 8 → Completes i s (b.EntersQueue op t aux v st m)) := by
  subst haux
  exact ⟨fun h => ⟨_, hexec, State.enqueueM_full h ..⟩, fun h => ⟨_, hexec, State.enqueueM_enters h op t auxBits v st hb hf⟩⟩

end

/-- Settles O42: each instruction's guard decides whether it stops, and `State.enqueueM_completes` says what a queued one
does. -/
theorem matrixInstructions : Obligations.MatrixInstructions := by
  intro s t r q z rel h w1 n f a w g k c en m x own free ill stays enters claimed weights keep taken defined rows mul owned on
  obtain ⟨hclaim, ts, hts⟩ := s.claimTile_leaves c en t.toNat
  have hown : m.owns t.toNat x = true ↔ own := m.owns_iff ..
  have hfree : m.mayTake t.toNat x = true ↔ free := m.mayTake_iff ..
  have htaken : ((claimed.cell c).mat en).takeTile t.toNat x = taken := by
    have hqueue : ((claimed.cell c).mat en) = { m with tiles := ts } := hts
    have hhere : claimed.here = claimed.cell c := congrArg (fun k : Focus => claimed.cell k.cell) hclaim.focus
    show _ = MatEngine.mk _ _ _ _ _ _ _ _ _ _
    rw [hhere, hqueue]
    rfl
  have hkeeps (g' : MatEngine → MatEngine) : (id s).modMat c en g' = s.modMat c en fun _ => g' m := rfl
  have htakes (g' : MatEngine → MatEngine) : (s.takeTile t.toNat).modMat c en g' = claimed.modMat c en fun _ => g' taken := by
    rw [← htaken]
    exact s.takeTile_engine t.toNat g'
  have howned {i : Instr} {op aux : Nat} {auxBits : BitVec 11} {v : W64} (hexec : exec i s = .next (s.ownedOp op t auxBits v))
      (haux : auxBits.toNat = aux) : owned i op aux v := by
    unfold State.ownedOp State.engineNo at hexec
    refine ⟨fun hno => ⟨_, hexec, ?_⟩, fun hyes => ?_⟩
    · rw [if_pos ((not_iff_of hown).2 hno)]
      rfl
    · rw [if_neg fun h => (not_iff_of hown).1 h hyes] at hexec
      exact s.enqueueM_completes hexec haux (.refl s) hkeeps
  have htake {i : Instr} {op aux : Nat} {auxBits : BitVec 11} {v : W64} (hexec : exec i s = .next
      (if !(s.here.mat s.engineNo).mayTake t.toNat s.focus.ctx then s.illegal 38
        else s.enqueueM op t.toNat auxBits v none fun s => s.takeTile t.toNat))
      (haux : auxBits.toNat = aux) : (¬free → ill i 38) ∧ (free → enters claimed i op t.toNat aux v none taken) := by
    unfold State.engineNo at hexec
    refine ⟨fun hno => ⟨_, hexec, ?_⟩, fun hyes => ?_⟩
    · rw [if_pos ((not_iff_of hfree).2 hno)]
      rfl
    · rw [if_neg fun h => (not_iff_of hfree).1 h hyes] at hexec
      exact s.enqueueM_completes hexec haux hclaim htakes
  obtain ⟨hzeroOther, hzeroFree⟩ := htake (i := .mzero t) (auxBits := 0) rfl rfl
  obtain ⟨hrestOther, hrestFree⟩ := htake (i := .mrest t r) (auxBits := 0) rfl rfl
  have hweights (g' : MatEngine → MatEngine) :
      ((s.claimWeights c en).modMat c en fun e => { e with loaded := true }).modMat c en g' =
        weights.modMat c en fun _ => g' { (weights.here.mat en) with loaded := true } := by
    have hhere : weights.here = weights.cell c := congrArg (fun k : Focus => weights.cell k.cell) (s.claimWeights_leaves c en).focus
    rw [State.modMat_modMat, State.modMat_const, hhere]
  have hstream (st : BitVec 6) (target : Nat) : streamOk s.here st.toNat target = true ↔ defined st target := streamOk_iff ..
  have hmul {i : Instr} {op : Nat} {may : Prop} {b : State} {m' : MatEngine} (hexec : exec i s = .next (s.multiply op t r q n))
      (hmay : (if op = opMmul then m.mayTake t.toNat x else m.owns t.toNat x) = true ↔ may) (hb : s.SameIssue b)
      (hf : ∀ g', (if op = opMmul then s.takeTile t.toNat else s).modMat c en g' = b.modMat c en fun _ => g' m') :
      mul i op may b m' := by
    have hmul : s.multiply op t r q n = if !(if op = opMmul then m.mayTake t.toNat x else m.owns t.toNat x) then s.illegal 38 else
        match m.pair with
        | none => s.illegal 40
        | some p =>
          if !m.swapped || decide (rowLimit p < n.toNat + 1) then s.illegal 40
          else if q = 1 ∧ !streamOk s.here r.toNat 2 then s.illegal 42
          else s.enqueueM op t.toNat (n.setWidth 11 ||| (q.setWidth 11 <<< 7)) (if q = 1 then 0 else s.rs r)
            (if q = 1 then some r.toNat else none) fun s => if op = opMmul then s.takeTile t.toNat else s := rfl
    rw [hmul] at hexec
    refine ⟨fun hno => ⟨_, hexec, if_pos ((not_iff_of hmay).2 hno)⟩, fun hyes hbad => ⟨_, hexec, ?_⟩, fun hyes hready => ?_⟩
    · rw [if_neg fun h => (not_iff_of hmay).1 h hyes]
      split
      · rfl
      · next p hp =>
        refine if_pos ?_
        rw [Bool.or_eq_true, Bool.not_eq_true', decide_eq_true_eq, rowLimit_eq]
        by_contra hcan
        obtain ⟨hswap, hrows⟩ := not_or.1 hcan
        exact hbad ⟨Bool.eq_true_of_not_eq_false hswap, p, hp, not_lt.1 hrows⟩
    · obtain ⟨hswap, p, hp, hrows⟩ := hready
      have hcan : ¬(!m.swapped || decide (rowLimit p < n.toNat + 1)) = true := by
        rw [hswap, rowLimit_eq, Bool.not_true, Bool.false_or, decide_eq_true_eq]
        exact not_lt.2 hrows
      rw [if_neg fun h => (not_iff_of hmay).1 h hyes, hp] at hexec
      simp only [if_neg hcan] at hexec
      refine ⟨fun hone hbad => ⟨_, hexec, if_pos ⟨hone, (not_iff_of (hstream r 2)).2 hbad⟩⟩, fun hone hdef => ?_, fun hzero => ?_⟩
      · rw [if_neg fun h => (not_iff_of (hstream r 2)).1 h.2 hdef, if_pos hone, if_pos hone] at hexec
        exact s.enqueueM_completes hexec (by rw [toNat_productAux, hone]; rfl) hb hf
      · have hzero' : ¬q = 1 := by rw [hzero]; decide
        rw [if_neg fun h => hzero' h.1, if_neg hzero', if_neg hzero'] at hexec
        exact s.enqueueM_completes hexec (by rw [toNat_productAux, hzero]; rfl) hb hf
  refine ⟨fun hbusy => ?_, fun hqueue hrun => ⟨fun hbad => ?_, fun hok => ?_⟩, fun hnone => ?_, fun hsome => ⟨fun hq hbad => ?_,
    fun hq hdef => ?_, fun hq => ?_⟩, fun hnone => ?_, fun hpair hload => ?_, State.claimWeights_none,
    hmul rfl ?_ hclaim ?_, hmul rfl ?_ (.refl s) ?_, howned rfl (toNat_drainAux f rel z), hzeroOther, hzeroFree,
    howned rfl ?_, fun hg => ?_, fun hg => howned (auxBits := g.setWidth 11) ?_ ?_, howned rfl ?_, hrestOther, hrestFree,
    State.claimTile_free, ?_, ?_⟩
  · have hheld : mcfgHeld m = true := (not_iff_of m.idle_iff).2 hbusy
    exact ⟨_, congrArg Host.Outcome.next (if_pos hheld), rfl⟩
  · have hheld : ¬mcfgHeld m = true := fun h => (not_iff_of m.idle_iff).1 h ⟨hqueue, hrun⟩
    exact ⟨_, congrArg Host.Outcome.next ((if_neg hheld).trans (if_pos ((not_iff_of (pairOk_iff a w)).2 hbad))), rfl⟩
  · have hheld : ¬mcfgHeld m = true := fun h => (not_iff_of m.idle_iff).1 h ⟨hqueue, hrun⟩
    exact ⟨_, congrArg Host.Outcome.next ((if_neg hheld).trans (if_neg fun h => (not_iff_of (pairOk_iff a w)).1 h hok)), rfl⟩
  · exact ⟨_, congrArg Host.Outcome.next (if_pos (Option.isNone_iff_eq_none.2 hnone)), rfl⟩
  · exact ⟨_, congrArg Host.Outcome.next ((if_neg (mt Option.isNone_iff_eq_none.1 hsome)).trans
      (if_pos ⟨hq, (not_iff_of (hstream r 1)).2 hbad⟩)), rfl⟩
  · subst hq
    have hexec : exec (.mwload r 1) s = .next (s.enqueueM opMwload 0 1 0 (some r.toNat) fun s =>
        (s.claimWeights s.focus.cell s.engineNo).modMat s.focus.cell s.engineNo fun e => { e with loaded := true }) :=
      congrArg Host.Outcome.next ((if_neg (mt Option.isNone_iff_eq_none.1 hsome)).trans
        (if_neg fun h => (not_iff_of (hstream r 1)).1 h.2 hdef))
    exact s.enqueueM_completes hexec rfl (s.claimWeights_leaves c en) hweights
  · subst hq
    have hexec : exec (.mwload r 0) s = .next (s.enqueueM opMwload 0 0 (s.rs r) none fun s =>
        (s.claimWeights s.focus.cell s.engineNo).modMat s.focus.cell s.engineNo fun e => { e with loaded := true }) :=
      congrArg Host.Outcome.next ((if_neg (mt Option.isNone_iff_eq_none.1 hsome)).trans (if_neg fun h => absurd h.1 (by decide)))
    exact s.enqueueM_completes hexec rfl (s.claimWeights_leaves c en) hweights
  · have hcannot : (m.pair.isNone || !m.loaded) = true := by
      rcases hnone with h | h
      · rw [h]; rfl
      · rw [h]; exact Bool.or_true _
    exact ⟨_, congrArg Host.Outcome.next (if_pos hcannot), rfl⟩
  · have hcan : ¬(m.pair.isNone || !m.loaded) = true := by
      rw [hload, Bool.not_true, Bool.or_false, Option.isNone_iff_eq_none]
      exact hpair
    have hexec : exec .mwswap s = .next (s.enqueueM opMwswap 0 0 0 none fun s => s.modMat s.focus.cell s.engineNo fun e =>
        { e with loaded := false, swapped := true }) := congrArg Host.Outcome.next (if_neg hcan)
    exact s.enqueueM_completes hexec rfl (.refl s) fun g' => s.modMat_modMat c en _ g'
  · exact hfree
  · exact htakes
  · exact hown
  · exact hkeeps
  · exact (BitVec.toNat_setWidth ..).trans (Nat.mod_eq_of_lt (h.isLt.trans (by decide)))
  · subst hg
    exact s.enqueueM_completes (auxBits := 1) (congrArg Host.Outcome.next (if_pos rfl)) rfl (.refl s) hkeeps
  · exact congrArg Host.Outcome.next (if_neg hg)
  · exact (BitVec.toNat_setWidth ..).trans (Nat.mod_eq_of_lt (g.isLt.trans (by decide)))
  · exact (BitVec.toNat_setWidth ..).trans (Nat.mod_eq_of_lt (rel.isLt.trans (by decide)))
  · intro held
    have hheld : mwaitHeld m w1 k = true ↔ held := by
      refine (m.pending_iff _).trans (exists_congr fun e => and_congr_right' ?_)
      cases e.tile with
      | some u => exact .rfl
      | none => exact beq_iff_eq
    exact ⟨fun h => ⟨_, congrArg Host.Outcome.next (if_pos (hheld.2 h)), rfl⟩,
      fun h => ⟨_, congrArg Host.Outcome.next (if_neg (mt hheld.1 h)), rfl⟩⟩
  · intro held
    have hheld : mchkHeld m t = true ↔ held :=
      (m.pending_iff _).trans (exists_congr fun e => and_congr_right' beq_iff_eq)
    have hexec (hnot : ¬held) (hmine : own) : exec (.mchk t h) s = .next (match (m.tile t.toNat).firstBad with
        | none => if h = 1 then s.wpair 7 true else s
        | some row => if h = 1 then s.wpair 7 false else s.stop 0x0A row) :=
      congrArg Host.Outcome.next ((if_neg (mt hheld.1 hnot)).trans (if_neg fun h => (not_iff_of hown).1 h hmine))
    refine ⟨fun h => ⟨_, congrArg Host.Outcome.next (if_pos (hheld.2 h)), rfl⟩, fun hnot hother => ⟨_, congrArg Host.Outcome.next
      ((if_neg (mt hheld.1 hnot)).trans (if_pos ((not_iff_of hown).2 hother))), rfl⟩, fun hnot hmine hgood => ?_, fun row hnot hmine hbad => ?_⟩
    · refine ⟨_, hexec hnot hmine, ?_⟩
      rw [hgood]
      by_cases hx : h = 1
      · simp only [if_pos hx]
        exact s.wpair_writes 7 (by decide) true
      · simp only [if_neg hx]
    · refine ⟨_, hexec hnot hmine, ?_⟩
      rw [hbad]
      by_cases hx : h = 1
      · simp only [if_pos hx]
        exact s.wpair_writes 7 (by decide) false
      · simp only [if_neg hx]

end Sys2Proof.Machine
end

section
/-! The start of a matrix operation (R249, R250): when the head of a queue starts, what it holds of its source, and when it
completes. -/

namespace Sys2Proof.Machine
open Sys2Proof

theorem isMM_iff (o : Nat) : isMM o = true ↔ o = 4 ∨ o = 5 := by
  simp [isMM, opMmul, opMmac]

theorem MEntry.auxBits_eq (e : MEntry) (lo n : Nat) : e.auxBits lo n = e.aux.toNat / 2 ^ lo % 2 ^ n := by
  have h : (e.aux.setWidth 64).toNat = e.aux.toNat :=
    (BitVec.toNat_setWidth ..).trans (Nat.mod_eq_of_lt (e.aux.isLt.trans (by decide)))
  rw [MEntry.auxBits, bitsAt, h]

theorem MEntry.rows_eq (e : MEntry) : e.rows = e.aux.toNat % 128 + 1 := by
  rw [MEntry.rows, e.auxBits_eq, pow_zero, Nat.div_one]
  rfl

/-- When the head of a queue may start. -/
theorem MatEngine.canStart_iff {m : MatEngine} {e : MEntry} {rest : List MEntry} (hq : m.queue = e :: rest) (now : Nat) :
    m.canStart now = true ↔ e.at_ < now ∧ (m.running = [] ∨ ((e.op = 4 ∨ e.op = 5) ∧
      ∀ u, u ∈ m.running → (u.1.op = 4 ∨ u.1.op = 5) ∧ u.2.1 < now)) := by
  unfold MatEngine.canStart
  rw [hq]
  simp only [Bool.and_eq_true, Bool.or_eq_true, decide_eq_true_eq, List.isEmpty_iff, List.all_eq_true, isMM_iff]

section
variable {s : State} {c n : Nat} {m : MatEngine} {e : MEntry} {rest : List MEntry}

theorem State.matStart_waits (hm : (s.cell c).mat n = m) (h : m.canStart (s.clock c) = false) : s.matStart c n = s := by
  unfold State.matStart
  simp only [hm, h, Bool.not_false, if_true]

/-- The head of a queue runs with what has been read of its source. -/
theorem State.matStart_runs (hm : (s.cell c).mat n = m) (hq : m.queue = e :: rest) (hcan : m.canStart (s.clock c) = true)
    {data : List Byte} {spans : List (Nat × Nat)} {deep : Bool} (hdata : s.matData c m e = some ⟨data, spans, deep, s⟩)
    (hpoison : ∀ p, p ∈ spans → s.poisoned p.1 p.2 = false) (hrest : e.op ≠ 12) :
    s.matStart c n = (if isMM e.op then s.modCtxOf c e.ctx fun x => x.count 9 e.rows else s).modMat c n fun u => { u with
      queue := rest
      originals := if rest = [] then [] else u.originals
      running := u.running ++ [({ e with data := data, spans := spans }, s.clock c + matCycles c m e deep - 25,
        s.clock c + matCycles c m e deep)] } := by
  have hfind : (spans.find? fun p => s.poisoned p.1 p.2) = none :=
    List.find?_eq_none.2 fun p hp => by rw [hpoison p hp]; decide
  unfold State.matStart
  simp only [hm, hcan, Bool.not_true, Bool.false_eq_true, if_false]
  split
  · next hnone => rw [hnone] at hq; cases hq
  · next e' rest' hsome =>
    obtain ⟨rfl, rfl⟩ := List.cons.inj (hsome.symm.trans hq)
    simp only [hdata, hfind, opMrest, hrest, if_false, List.isEmpty_iff]

/-- The bytes of a source that may be read, as they stand. -/
theorem State.matSource_reads {b align : Nat} (hpast : e.past = []) (hok : s.matError c e b align false = none) :
    s.matSource c e b align [e.sval] =
      ((s.readBytes (flatOf (s.localAddr c e.sval)) b, [(flatOf (s.localAddr c e.sval), b)]), s) := by
  have hsval : ({ e with sval := e.sval } : MEntry) = e := rfl
  unfold State.matSource
  rw [List.findSome?_cons, hsval, hok]
  simp only [Option.map_none, List.findSome?_nil, State.pastBytes, hpast, List.isEmpty_nil, if_true,
    List.map_cons, List.map_nil, List.flatMap_cons, List.flatMap_nil, List.append_nil]

/-- An operation without a source holds nothing. -/
theorem State.matData_none (hload : e.op ≠ 2) (hmm : ¬(e.op = 4 ∨ e.op = 5)) (hrest : e.op ≠ 12) :
    s.matData c m e = some ⟨[], [], false, s⟩ := by
  unfold State.matData
  simp only [opMwload, opMrest, hload, isMM_iff, hmm, hrest, if_false]

section
variable (hstream : e.stream = none) (hpast : e.past = []) {p : BitVec 4 × BitVec 4} (hpair : m.pair = some p)
include hstream hpast hpair

theorem State.matData_rows (hmm : e.op = 4 ∨ e.op = 5)
    (hok : s.matError c e (rowBytes (engineK c) p.1.toNat * (e.aux.toNat % 128 + 1)) 8 false = none) :
    s.matData c m e = some ⟨s.readBytes (flatOf (s.localAddr c e.sval)) (rowBytes (engineK c) p.1.toNat * (e.aux.toNat % 128 + 1)),
      [(flatOf (s.localAddr c e.sval), rowBytes (engineK c) p.1.toNat * (e.aux.toNat % 128 + 1))],
      aSpace (s.localAddr c e.sval) == 1, s⟩ := by
  have hload : e.op ≠ 2 := by omega
  unfold State.matData
  simp only [opMwload, hload, if_false, (isMM_iff e.op).2 hmm, if_true, hstream, hpair, Option.getD_some, e.rows_eq,
    State.matSource_reads hpast hok]

theorem State.matData_image (hload : e.op = 2)
    (hok : s.matError c e (imageBytes (engineK c) p.2.toNat + checkBytes (engineK c)) 64 false = none) :
    s.matData c m e = some ⟨s.readBytes (flatOf (s.localAddr c e.sval)) (imageBytes (engineK c) p.2.toNat + checkBytes (engineK c)),
      [(flatOf (s.localAddr c e.sval), imageBytes (engineK c) p.2.toNat + checkBytes (engineK c))],
      aSpace (s.localAddr c e.sval) == 1, s⟩ := by
  unfold State.matData
  simp only [opMwload, hload, if_true, hstream, hpair, Option.getD_some, Nat.mul_one, State.matSource_reads hpast hok]

end

/-! ## Cycles -/

theorem matCycles_rows {p : BitVec 4 × BitVec 4} (hpair : m.pair = some p) (hmm : e.op = 4 ∨ e.op = 5) (deep : Bool) :
    matCycles c m e deep =
      (e.aux.toNat % 128 + 1) * (if p.1 = 3 ∨ p.2 = 3 then 4 else if p.1 = 8 ∧ p.2 = 8 then 1 else 2) + 24 := by
  unfold matCycles
  simp only [(isMM_iff e.op).2 hmm, if_true, hpair, Option.getD_some, e.rows_eq, rowCycles]

theorem matCycles_image {p : BitVec 4 × BitVec 4} (hpair : m.pair = some p) (hload : e.op = 2) (deep : Bool) :
    let b := imageBytes (engineK c) p.2.toNat + checkBytes (engineK c)
    let per := if deep = true then (if isC c = true then 256 else 1024) else 512
    matCycles c m e deep = (b + per - 1) / per + 16 := by
  intro b per
  unfold matCycles
  simp only [hload, opMdrain, opMsave, opMrest, opMwload, hpair, Option.getD_some]
  cases deep with
  | false => rfl
  | true =>
    by_cases hc : isC c = true
    · simp only [per, hc]; rfl
    · simp only [per, if_neg hc]; rfl

theorem matCycles_none (h : e.op ∈ [3, 6, 7, 8, 9, 11]) : matCycles c m e false =
    if e.op = 7 then 4 else if e.op = 3 then 2 else if e.op = 6 then
      ((m.tile e.t).ru * 64 * (fmtBits (e.aux.toNat % 16) / 8) + 511) / 512 + 24
      else if e.op = 11 ∨ e.op = 12 then 93 else 36 := by
  have hbits : e.auxBits 0 4 = e.aux.toNat % 16 := by rw [e.auxBits_eq, pow_zero, Nat.div_one]; rfl
  unfold matCycles
  simp only [hbits]
  simp only [List.mem_cons, List.not_mem_nil, or_false] at h
  rcases h with h | h | h | h | h | h
  all_goals
    rw [h]
    rfl

end

end Sys2Proof.Machine
end

section
/-! The completion of a matrix operation (R254-R260): what each leaves of its engine and of memory. -/

namespace Sys2Proof.Machine
open Sys2Proof

/-! ## Tiles -/

theorem MatEngine.tile_putTile (m : MatEngine) (t : Nat) (f : Tile → Tile) : (m.putTile t f).tile t = f (m.tile t) :=
  (Tab.get_ins ..).trans (if_pos rfl)

theorem State.mat_putTile (s : State) (c n t : Nat) (f : Tile → Tile) :
    ((s.modMat c n fun m => m.putTile t f).cell c).mat n = ((s.cell c).mat n).putTile t f := State.mat_modMat_same ..

/-- A table that lists every number below a bound. -/
theorem Tab.get_map_range {α : Type} (d : α) (g : Nat → α) {n i : Nat} (hi : i < n) :
    Tab.get d ((List.range n).map fun i => (i, g i)) i = g i := by
  have hfrom (m a : Nat) (hlo : a ≤ i) (hhi : i < a + m) : Tab.get d ((List.range' a m).map fun i => (i, g i)) i = g i := by
    induction m generalizing a with
    | zero => omega
    | succ m ih =>
      rw [List.range'_succ, List.map_cons, Tab.get]
      by_cases h : a = i
      · rw [if_pos h, h]
      · rw [if_neg h, if_neg (by omega)]
        exact ih (a + 1) (by omega) (by omega)
  rw [List.range_eq_range']
  exact hfrom n 0 (Nat.zero_le i) (by omega)

theorem Tile.elem_setAll (t : Tile) (f : Nat → Nat) {i : Nat} (hi : i < 8192) : (t.setAll f).elem i = f i % 2 ^ 32 := by
  rw [Tile.elem, Tile.setAll]
  simp only
  rw [Tab.get_map_range _ (fun i => BitVec.ofNat 32 (f i)) hi, BitVec.toNat_ofNat]

theorem Tile.elem_lt (t : Tile) (i : Nat) : t.elem i < 2 ^ 32 := BitVec.isLt _

theorem Tile.elem_zeroed (t : Tile) (i : Nat) : t.zeroed.elem i = 0 := rfl

theorem Tile.elem_transpose (t : Tile) (h : Nat) {r j : Nat} (hr : r < 128) (hj : j < 64) : (t.transpose h).elem (r * 64 + j) =
    if r / 64 = h then t.elem ((64 * h + j) * 64 + r % 64) else t.elem (r * 64 + j) := by
  have hflip (u : Tile) (a b : Bool) : (if h = 0 then { u with flip0 := a } else { u with flip1 := b }).elem = u.elem := by
    split <;> rfl
  unfold Tile.transpose
  simp only
  rw [hflip, Tile.elem_setAll _ _ (by omega), show (r * 64 + j) / 64 = r by omega, show (r * 64 + j) % 64 = j by omega]
  exact Nat.mod_eq_of_lt (by split <;> exact t.elem_lt _)

/-! ## The effects, one by one -/

section
variable (s : State) (c n : Nat) {e : MEntry}

theorem State.matEffect_load (h : e.op = 2) : s.matEffect c n e = s.modMat c n fun m =>
    { m with shadow := some ⟨(((s.cell c).mat n).pair.getD (3, 3)).2.setWidth 8, e.data⟩ } := if_pos h

theorem State.matEffect_swap (h : e.op = 3) : s.matEffect c n e = s.modMat c n fun m => { m with active := m.shadow } := by
  simp only [State.matEffect, h]
  rfl

theorem State.matEffect_multiply (h : e.op = 4 ∨ e.op = 5) : s.matEffect c n e =
    match ((s.cell c).mat n).active with
    | none => s
    | some w => { s.modMat c n fun m => m.putTile e.t
        (multiplied c (((s.cell c).mat n).pair.getD (3, 3)) w e s.draws) with draws := s.draws + undefSpan } := by
  rcases h with h | h
  · simp only [State.matEffect, h]
    rfl
  · simp only [State.matEffect, h]
    rfl

theorem State.matEffect_zero (h : e.op = 7) : s.matEffect c n e = s.modMat c n fun m => m.putTile e.t Tile.zeroed := by
  simp only [State.matEffect, h]
  rfl

theorem State.matEffect_transpose (h : e.op = 8) : s.matEffect c n e =
    s.modMat c n fun m => m.putTile e.t fun t => t.transpose (e.auxBits 0 1) := by
  simp only [State.matEffect, h]
  rfl

theorem State.matEffect_scale (h : e.op = 9) : s.matEffect c n e =
    match e.auxBits 0 2 with
    | 0 => s.modMat c n fun m => m.putTile e.t fun t => t.scaleAll e.g
    | 1 => s.modMat c n fun m => { m with active := m.active.map fun w => w.scaleBands (engineK c) e.g }
    | _ => s.modMat c n fun m => m.putTile e.t fun t => t.setScales fun i => scaleBy bf16 (t.rowScale i) e.g := by
  simp only [State.matEffect, h]
  rfl

/-- The queue and the running operations of an engine are as before. -/
def MatEngine.SameLists (m u : MatEngine) : Prop := u.queue = m.queue ∧ u.running = m.running

theorem State.matWrite_mats (e : MEntry) (l : List Byte) : ((s.matWrite c e l).cell c).mats = (s.cell c).mats := by
  unfold State.matWrite
  split
  · rw [State.matViolate, State.violateOf, State.modCtxOf, State.cell_modCell, if_pos rfl]
    rfl
  · unfold State.cell
    rw [State.cells_engineWrite]

theorem State.matWrite_mat (e : MEntry) (l : List Byte) : ((s.matWrite c e l).cell c).mat n = (s.cell c).mat n := by
  unfold Cell.mat
  rw [s.matWrite_mats c e l]

theorem State.releaseTile_mat (e : MEntry) : ((s.releaseTile c n e).cell c).mat n =
    if e.kept then (s.cell c).mat n else ((s.cell c).mat n).putTile e.t fun v => { v with owner := none } := by
  unfold State.releaseTile
  split
  · rfl
  · exact s.mat_putTile ..

theorem State.released_lists (e : MEntry) (p : Prop) [Decidable p] :
    ((s.cell c).mat n).SameLists (((if p then s.releaseTile c n e else s).cell c).mat n) := by
  split
  · rw [State.releaseTile_mat]
    split
    · exact ⟨rfl, rfl⟩
    · exact ⟨rfl, rfl⟩
  · exact ⟨rfl, rfl⟩

/-- A tile after a drain. -/
def MEntry.drainTile (e : MEntry) (t : Tile) : Tile :=
  let u := if e.auxBits 5 1 = 1 then t.zeroed else t
  if e.auxBits 4 1 = 1 ∧ e.kept = false then { u with owner := none } else u

theorem State.matEffect_drain (h : e.op = 6) :
    let t := s.matWrite c e ((((s.cell c).mat n).tile e.t).drained (e.auxBits 0 4))
    let u := s.matEffect c n e
    u.mem = t.mem ∧ ((s.cell c).mat n).SameLists ((u.cell c).mat n) ∧
      ((u.cell c).mat n).tile e.t = e.drainTile (((s.cell c).mat n).tile e.t) := by
  intro t u
  obtain ⟨z, hz⟩ : ∃ z, z = if e.auxBits 5 1 = 1 then t.modMat c n fun m => m.putTile e.t Tile.zeroed else t := ⟨_, rfl⟩
  have hu : u = if e.auxBits 4 1 = 1 then z.releaseTile c n e else z := by
    rw [hz]
    show s.matEffect c n e = _
    simp only [State.matEffect, h]
    rfl
  have htmat : (t.cell c).mat n = (s.cell c).mat n := s.matWrite_mat ..
  have hzmat : z.mem = t.mem ∧ ((s.cell c).mat n).SameLists ((z.cell c).mat n) ∧ ((z.cell c).mat n).tile e.t =
      if e.auxBits 5 1 = 1 then (((s.cell c).mat n).tile e.t).zeroed else ((s.cell c).mat n).tile e.t := by
    rw [hz]
    split
    · rw [State.mat_putTile, MatEngine.tile_putTile, htmat]
      exact ⟨rfl, ⟨rfl, rfl⟩, rfl⟩
    · rw [htmat]
      exact ⟨rfl, ⟨rfl, rfl⟩, rfl⟩
  obtain ⟨hzmem, hzlists, hztile⟩ := hzmat
  unfold MEntry.drainTile
  dsimp only
  rw [hu]
  by_cases hrel : e.auxBits 4 1 = 1
  · rw [if_pos hrel, State.releaseTile_mat]
    cases hkept : e.kept with
    | true =>
      have hnot : ¬(e.auxBits 4 1 = 1 ∧ true = false) := fun hand => absurd hand.2 (by decide)
      rw [if_pos rfl, hztile, if_neg hnot, State.releaseTile, if_pos hkept]
      exact ⟨hzmem, hzlists, rfl⟩
    | false =>
      have hyes : e.auxBits 4 1 = 1 ∧ false = false := ⟨hrel, rfl⟩
      rw [if_neg Bool.false_ne_true, MatEngine.tile_putTile, hztile, if_pos hyes, State.releaseTile, hkept,
        if_neg Bool.false_ne_true]
      exact ⟨hzmem, hzlists, rfl⟩
  · rw [if_neg hrel, if_neg fun hand => hrel hand.1]
    exact ⟨hzmem, hzlists, hztile⟩

/-- The operations that the equations above leave out change tiles or the active buffer only. -/
theorem State.matEffect_lists (e : MEntry) : ((s.cell c).mat n).SameLists (((s.matEffect c n e).cell c).mat n) := by
  have hmod (t : State) (f : MatEngine → MatEngine) (ht : (t.cell c).mat n = (s.cell c).mat n)
      (hf : ∀ m : MatEngine, m.SameLists (f m)) : ((s.cell c).mat n).SameLists (((t.modMat c n f).cell c).mat n) := by
    rw [State.mat_modMat_same, ht]
    exact hf _
  by_cases hdrain : e.op = 6
  · exact (s.matEffect_drain c n hdrain).2.1
  unfold State.matEffect
  simp only
  split
  · exact hmod s _ rfl fun _ => ⟨rfl, rfl⟩
  · split
    · exact hmod s _ rfl fun _ => ⟨rfl, rfl⟩
    · split
      · split
        · exact ⟨rfl, rfl⟩
        · exact hmod s (fun m => m.putTile e.t _) rfl fun _ => ⟨rfl, rfl⟩
      · split
        · exact absurd ‹_› hdrain
        · split
          · exact hmod s _ rfl fun _ => ⟨rfl, rfl⟩
          · split
            · exact hmod s _ rfl fun _ => ⟨rfl, rfl⟩
            · split
              · split
                · exact hmod s _ rfl fun _ => ⟨rfl, rfl⟩
                · exact hmod s _ rfl fun _ => ⟨rfl, rfl⟩
                · exact hmod s _ rfl fun _ => ⟨rfl, rfl⟩
              · split
                · have hsave : (State.cell { s.matWrite c e ((((s.cell c).mat n).tile e.t).image c s.draws) with
                      draws := s.draws + 128 } c).mat n = (s.cell c).mat n := s.matWrite_mat ..
                  have hreleased := State.released_lists { s.matWrite c e ((((s.cell c).mat n).tile e.t).image c s.draws) with
                    draws := s.draws + 128 } c n e (e.auxBits 0 1 = 1)
                  rw [hsave] at hreleased
                  exact hreleased
                · split
                  · exact hmod s _ rfl fun _ => ⟨rfl, rfl⟩
                  · exact ⟨rfl, rfl⟩

/-- What reads no memory and has no destination in it leaves memory as it is. -/
theorem State.matEffect_mem (h : e.op ∈ [2, 3, 4, 5, 7, 8, 9]) : (s.matEffect c n e).mem = s.mem := by
  simp only [List.mem_cons, List.not_mem_nil, or_false] at h
  rcases h with h | h | h | h | h | h | h
  · rw [s.matEffect_load c n h]; rfl
  · rw [s.matEffect_swap c n h]; rfl
  · rw [s.matEffect_multiply c n (.inl h)]; split <;> rfl
  · rw [s.matEffect_multiply c n (.inr h)]; split <;> rfl
  · rw [s.matEffect_zero c n h]; rfl
  · rw [s.matEffect_transpose c n h]; rfl
  · rw [s.matEffect_scale c n h]
    split <;> rfl

end

end Sys2Proof.Machine
end

section
/-! The rewrite table's loads and the idle close (R323, R325), and the steps of a matrix engine. -/

namespace Sys2Proof.Machine
open Sys2Proof

/-! ## Fields of a word -/

theorem bitsAt_eq_extract (w : W64) (lo n : Nat) : bitsAt w lo n = (w.extractLsb' lo n).toNat := by
  rw [bitsAt, BitVec.extractLsb'_toNat, Nat.shiftRight_eq_div_pow]

theorem bitsAt_congr {v w : W64} {lo n : Nat} (h : ∀ i, i < n → v.getLsbD (lo + i) = w.getLsbD (lo + i)) :
    bitsAt v lo n = bitsAt w lo n := by
  rw [bitsAt_eq_extract, bitsAt_eq_extract]
  refine congrArg BitVec.toNat (BitVec.eq_of_getLsbD_eq fun i hi => ?_)
  rw [BitVec.getLsbD_extractLsb', BitVec.getLsbD_extractLsb', h i hi]

/-- The word that a write which starts a load leaves: position and count of what is written, at most 64 rules. -/
def tableWord (old v : W64) : W64 :=
  let w := ((v ||| 1) &&& 0xFFFFF0#64) ||| (old &&& 0xFE000000#64)
  if 64 < bitsAt w 17 7 then withBits w 17 7 64 else w

theorem getLsbD_tableWord_field (old v : W64) {i : Nat} (hlo : 4 ≤ i) (hhi : i < 24) :
    (((v ||| 1) &&& 0xFFFFF0#64) ||| (old &&& 0xFE000000#64) : W64).getLsbD i = v.getLsbD i := by
  have hmasks : (0xFFFFF0#64).getLsbD i = true ∧ (0xFE000000#64).getLsbD i = false ∧ (1#64 : W64).getLsbD i = false := by
    have hall : ∀ j, j < 20 → (0xFFFFF0#64).getLsbD (4 + j) = true ∧ (0xFE000000#64).getLsbD (4 + j) = false ∧
        (1#64 : W64).getLsbD (4 + j) = false := by decide
    obtain ⟨j, rfl⟩ := Nat.exists_eq_add_of_le hlo
    exact hall j (by omega)
  obtain ⟨hfield, hrest, hload⟩ := hmasks
  rw [BitVec.getLsbD_or, BitVec.getLsbD_and, BitVec.getLsbD_and, BitVec.getLsbD_or, hfield, hrest]
  have : (1 : W64).getLsbD i = false := hload
  rw [this]
  simp

theorem tableWord_fields (old v : W64) : bitsAt (tableWord old v) 4 13 = bitsAt v 4 13 ∧
    bitsAt (tableWord old v) 17 7 = min (bitsAt v 17 7) 64 := by
  obtain ⟨w, hw⟩ : ∃ w, w = (((v ||| 1) &&& 0xFFFFF0#64) ||| (old &&& 0xFE000000#64) : W64) := ⟨_, rfl⟩
  have hplace : bitsAt w 4 13 = bitsAt v 4 13 :=
    bitsAt_congr fun i hi => hw ▸ getLsbD_tableWord_field old v (by omega) (by omega)
  have hcount : bitsAt w 17 7 = bitsAt v 17 7 :=
    bitsAt_congr fun i hi => hw ▸ getLsbD_tableWord_field old v (by omega) (by omega)
  unfold tableWord
  simp only [← hw]
  split
  · next hmany =>
    have hkept : bitsAt (withBits w 17 7 64) 4 13 = bitsAt w 4 13 := by
      refine bitsAt_congr fun i hi => ?_
      have hmasks : ∀ j, j < 13 → (BitVec.ofNat 64 ((2 ^ 7 - 1) * 2 ^ 17)).getLsbD (4 + j) = false ∧
        (BitVec.ofNat 64 (64 % 2 ^ 7 * 2 ^ 17)).getLsbD (4 + j) = false := by decide
      obtain ⟨hfield, hval⟩ := hmasks i hi
      rw [withBits, BitVec.getLsbD_or, BitVec.getLsbD_and, BitVec.getLsbD_not, hfield, hval]
      simp [show 4 + i < 64 by omega]
    have hset : bitsAt (withBits w 17 7 64) 17 7 = bitsAt (BitVec.ofNat 64 (64 * 2 ^ 17)) 17 7 := by
      refine bitsAt_congr fun i hi => ?_
      have hmasks : ∀ j, j < 7 → (BitVec.ofNat 64 ((2 ^ 7 - 1) * 2 ^ 17)).getLsbD (17 + j) = true := by decide
      rw [withBits, BitVec.getLsbD_or, BitVec.getLsbD_and, BitVec.getLsbD_not, hmasks i hi]
      simp
    refine ⟨hkept.trans hplace, hset.trans ?_⟩
    rw [hcount] at hmany
    rw [Nat.min_eq_right hmany.le]
    decide
  · next hfew =>
    refine ⟨hplace, hcount.trans ?_⟩
    rw [hcount] at hfew
    omega

/-! ## Loads of the rule table -/

section
variable (s : State)

theorem execRwTableLoad_ignored (h : (s.cell s.args.c).rwLoad ≠ none) : exec .rwTableLoad s = .next s := by
  have hset : (s.args.v ||| 1).getLsbD 0 = true := by simp
  have hsome : (s.cell s.args.c).rwLoad.isSome = true := Option.isSome_iff_ne_none.2 h
  have hboth : ((CsrOp.write.rsBits (s.args.v ||| 1)).getLsbD 0 && (s.cell s.args.c).rwLoad.isSome) = true := by
    rw [hsome, Bool.and_true]
    exact hset
  exact congrArg Host.Outcome.next (if_pos hboth)

theorem execRwTableLoad_starts (h : (s.cell s.args.c).rwLoad = none) : exec .rwTableLoad s = .next
    ((s.modCell s.args.c fun k => { k with
      rwTable := tableWord (s.cell s.args.c).rwTable s.args.v }).startTableLoad s.args.c) := by
  have hset : (CsrOp.write.rsBits (s.args.v ||| 1)).getLsbD 0 = true := by
    show (s.args.v ||| 1).getLsbD 0 = true
    simp
  show Host.Outcome.next (s.writeRwTable s.args.c .write (s.args.v ||| 1)) = _
  unfold State.writeRwTable
  simp only [hset, h, Option.isSome_none, Bool.and_false, Bool.false_eq_true, if_false, if_true]
  rfl

/-- Every window of a cell closes. -/
def Cell.closeWindows (k : Cell) : Cell := [0, 1, 2, 3].foldl (fun k x => k.putCtx x (k.ctx x).closeWindow) k

theorem Cell.ctx_closeWindows (k : Cell) {x : Nat} (hx : x < 4) : k.closeWindows.ctx x = (k.ctx x).closeWindow := by
  obtain rfl | rfl | rfl | rfl : x = 0 ∨ x = 1 ∨ x = 2 ∨ x = 3 := by omega
  all_goals simp [Cell.closeWindows]

theorem State.startTableLoad_leaves (c : Nat) :
    let t := s.startTableLoad c
    let cnt := bitsAt (s.cell c).rwTable 17 7
    (t.cell c).rwTable = (s.cell c).rwTable ∧ (t.cell c).rwLoad = some (s.clock c + cnt + 4, (s.cell c).rwTable) ∧
    t.alarms = s.alarms ++ [(s.cycle + (cnt + 4), ⟨.rwTableLoadDone, { Args.empty with c := c }⟩)] ∧
    (∀ x, x < 4 → t.ctxOf c x = (s.ctxOf c x).closeWindow) ∧ ∀ a, t.byte a = s.byte a := by
  intro t cnt
  have hcell : t.cell c = Cell.closeWindows { s.cell c with rwLoad := some (s.clock c + cnt + 4, (s.cell c).rwTable) } :=
    (s.cell_modCell c c fun k => Cell.closeWindows { k with rwLoad := some (s.clock c + cnt + 4, k.rwTable) }).trans (if_pos rfl)
  have hctx (x : Nat) : t.ctxOf c x = (t.cell c).ctx x := rfl
  refine ⟨?_, ?_, rfl, fun x hx => ?_, fun _ => rfl⟩
  · rw [hcell]
    rfl
  · rw [hcell]
    rfl
  · rw [hctx, hcell]
    exact Cell.ctx_closeWindows _ hx

theorem execRwTableLoadDone_idle (h : (s.cell s.args.c).rwLoad = none) : exec .rwTableLoadDone s = .next s := by
  show Host.Outcome.next _ = _
  simp only [h]

/-- The end of a load: no rules from beyond the store, else those that are valid and pass the checks. -/
theorem execRwTableLoadDone_loads {due : Nat} {w : W64} (h : (s.cell s.args.c).rwLoad = some (due, w)) :
    let addr := bitsAt w 4 13 * 16
    let cnt := bitsAt w 17 7
    Completes .rwTableLoadDone s fun t => (t.cell s.args.c).rwLoad = none ∧
      (0x20000 < addr + 16 * cnt → (t.cell s.args.c).rwRules = []) ∧
      (addr + 16 * cnt ≤ 0x20000 → ∀ i r, (i, r) ∈ (t.cell s.args.c).rwRules ↔ i < cnt ∧
        r = BitVec.ofNat 128 (s.readN (flat s.args.c 2 (addr + 16 * i)) 16) ∧ r.getLsbD 0 = true ∧ ruleRejected r = false) ∧
      ∀ a, t.byte a = s.byte a := by
  intro addr cnt
  obtain ⟨t, ht⟩ : ∃ t, exec .rwTableLoadDone s = .next t := ⟨_, rfl⟩
  refine ⟨t, ht, ?_⟩
  have hexec : exec .rwTableLoadDone s = execRwTableLoadDone s := rfl
  rw [hexec, execRwTableLoadDone] at ht
  simp only [h] at ht
  by_cases hfar : 0x20000 < addr + 16 * cnt
  · rw [if_pos hfar] at ht
    obtain rfl := Host.Outcome.next.inj ht
    dsimp only
    rw [State.cell_modCell, if_pos rfl]
    exact ⟨rfl, fun _ => rfl, fun hin => absurd hin (not_le.2 hfar), fun _ => rfl⟩
  · rw [if_neg hfar] at ht
    obtain rfl := Host.Outcome.next.inj ht
    dsimp only
    rw [State.cell_modCell, if_pos rfl]
    refine ⟨rfl, fun hbeyond => absurd hbeyond hfar, fun _ i r => ?_, fun _ => rfl⟩
    simp only [List.mem_filter, List.mem_map, List.mem_range, Prod.mk.injEq, Bool.and_eq_true, Bool.not_eq_true']
    constructor
    · rintro ⟨⟨j, hj, rfl, rfl⟩, hvalid⟩
      exact ⟨hj, rfl, hvalid⟩
    · rintro ⟨hi, rfl, hvalid⟩
      exact ⟨⟨i, hi, rfl, rfl⟩, hvalid⟩

/-- The idle close is that of one engine's window. -/
theorem tarragonIdleClose_closes : Completes .tarragonIdleClose s fun t =>
    let y := s.ctxOf s.args.c s.args.x
    let z := t.ctxOf s.args.c s.args.x
    z.rwPermClosed.get 0 s.args.e = y.rwPerm ∧ z.window.get 0 s.args.e = y.window.get 0 s.args.e + 1 ∧
    (∀ e, e ≠ s.args.e → z.rwPermClosed.get 0 e = y.rwPermClosed.get 0 e ∧ z.window.get 0 e = y.window.get 0 e) ∧
    SameRegisters y z ∧ (∀ a, t.byte a = s.byte a) ∧ ∀ e, (t.cell s.args.c).mat e = (s.cell s.args.c).mat e := by
  refine ⟨_, rfl, ?_⟩
  dsimp only
  rw [State.ctxOf_modCtxOf_same]
  refine ⟨(Tab.get_ins ..).trans (if_pos rfl), (Tab.get_ins ..).trans (if_pos rfl), fun e he =>
    ⟨(Tab.get_ins ..).trans (if_neg he), (Tab.get_ins ..).trans (if_neg he)⟩, .refl _, fun _ => rfl, fun e => ?_⟩
  rw [State.modCtxOf, State.cell_modCell, if_pos rfl]
  rfl

end

/-! ## The statement -/

section
variable (s : State) (c n : Nat)

theorem State.matComplete_idle (h : ((s.cell c).mat n).running = []) : s.matComplete c n = s := by
  unfold State.matComplete
  simp only [h]

section
variable {e : MEntry} {feed due : Nat} {rest : List (MEntry × Nat × Nat)} (h : ((s.cell c).mat n).running = (e, feed, due) :: rest)
include h

theorem State.matComplete_early (hearly : s.clock c < due) : s.matComplete c n = s := by
  unfold State.matComplete
  simp only [h, if_pos hearly]

theorem State.matComplete_due (hdue : due ≤ s.clock c) : s.matComplete c n =
    ((s.modMat c n fun m => { m with running := rest }).matEffect c n e).post .matrixOpStart
      { Args.empty with c := c, e := n } := by
  unfold State.matComplete
  simp only [h, if_neg (not_lt.2 hdue)]

end
end

/-! ## What a completion leaves of its engine -/

section
variable (s : State) (c n : Nat) {e : MEntry}

theorem State.matEffect_load_mat (h : e.op = 2) : ((s.matEffect c n e).cell c).mat n =
    { (s.cell c).mat n with shadow := some ⟨(((s.cell c).mat n).pair.getD (3, 3)).2.setWidth 8, e.data⟩ } := by
  rw [s.matEffect_load c n h, State.mat_modMat_same]

theorem State.matEffect_swap_mat (h : e.op = 3) : ((s.matEffect c n e).cell c).mat n =
    { (s.cell c).mat n with active := ((s.cell c).mat n).shadow } := by
  rw [s.matEffect_swap c n h, State.mat_modMat_same]

theorem State.matEffect_zero_tile (h : e.op = 7) : (((s.matEffect c n e).cell c).mat n).tile e.t =
    (((s.cell c).mat n).tile e.t).zeroed := by
  rw [s.matEffect_zero c n h, State.mat_putTile, MatEngine.tile_putTile]

theorem State.matEffect_transpose_tile (h : e.op = 8) : (((s.matEffect c n e).cell c).mat n).tile e.t =
    (((s.cell c).mat n).tile e.t).transpose (e.auxBits 0 1) := by
  rw [s.matEffect_transpose c n h, State.mat_putTile, MatEngine.tile_putTile]

theorem State.matEffect_multiply_tile (h : e.op = 4 ∨ e.op = 5) {w : Weights} (hw : ((s.cell c).mat n).active = some w) :
    (((s.matEffect c n e).cell c).mat n).tile e.t =
      multiplied c (((s.cell c).mat n).pair.getD (3, 3)) w e s.draws (((s.cell c).mat n).tile e.t) := by
  have hcell : ((s.matEffect c n e).cell c).mat n = ((s.cell c).mat n).putTile e.t
      (multiplied c (((s.cell c).mat n).pair.getD (3, 3)) w e s.draws) := by
    rw [s.matEffect_multiply c n h, hw]
    exact s.mat_putTile ..
  rw [hcell, MatEngine.tile_putTile]

end

/-- Rows, flags and owner of a tile after a product, and the row scales that an accumulation keeps. -/
theorem multiplied_fields (c : Nat) (p : BitVec 4 × BitVec 4) (w : Weights) (e : MEntry) (b : Nat) (t : Tile) :
    (e.op = 4 → (multiplied c p w e b t).ru = e.rows ∧ (multiplied c p w e b t).flip0 = false ∧
      (multiplied c p w e b t).flip1 = false ∧ (multiplied c p w e b t).owner = t.owner) ∧
    (e.op = 5 → (multiplied c p w e b t).ru = max t.ru e.rows ∧ (multiplied c p w e b t).flip0 = t.flip0 ∧
      (multiplied c p w e b t).flip1 = t.flip1 ∧ (multiplied c p w e b t).scale = t.scale) := by
  refine ⟨fun h => ?_, fun h => ?_⟩
  · have hmul : (e.op == opMmul) = true := by rw [h]; rfl
    unfold multiplied
    simp only [hmul, if_true, and_self]
  · have hmul : (e.op == opMmul) = false := by rw [h]; rfl
    unfold multiplied
    simp only [hmul, Bool.false_eq_true, if_false, and_self]

theorem Tile.transpose_flips (t : Tile) {h : Nat} (hh : h < 2) :
    (t.transpose h).flip0 = (t.flip0 != (h == 0)) ∧ (t.transpose h).flip1 = (t.flip1 != (h == 1)) := by
  have hkept (f : Nat → Nat) : (t.setAll f).flip0 = t.flip0 ∧ (t.setAll f).flip1 = t.flip1 := by
    simp only [Tile.setAll, and_self]
  unfold Tile.transpose
  simp only
  obtain rfl | rfl : h = 0 ∨ h = 1 := by omega
  · rw [if_pos rfl]
    simp only [(hkept _).2, Nat.reduceBEq, Bool.bne_true, Bool.bne_false, and_self]
  · rw [if_neg Nat.one_ne_zero]
    simp only [(hkept _).1, Nat.reduceBEq, Bool.bne_true, Bool.bne_false, and_self]

/-- What a drain leaves of the bytes of memory: its own where R74 allows it, nothing where it does not. -/
theorem State.matWrite_bytes (s : State) (c : Nat) (e : MEntry) (l : List Byte) :
    (Memory.wf s.mem = true → s.matError c e l.length 64 true = none → ∀ a, (s.matWrite c e l).byte a =
      if flatOf (s.localAddr c e.sval) ≤ a ∧ a < flatOf (s.localAddr c e.sval) + l.length then
        l.getD (a - flatOf (s.localAddr c e.sval)) 0 else s.byte a) ∧
    (∀ k, s.matError c e l.length 64 true = some k → ∀ a, (s.matWrite c e l).byte a = s.byte a) := by
  unfold State.matWrite
  refine ⟨fun hwf hok a => ?_, fun k hbad a => ?_⟩
  · simp only [hok]
    rw [State.byte_engineWrite, State.byte_writeBytes hwf]
    by_cases hlo : flatOf (s.localAddr c e.sval) ≤ a
    · by_cases hhi : a < flatOf (s.localAddr c e.sval) + l.length
      · rw [if_pos hlo, if_pos ⟨hlo, hhi⟩, List.getElem?_eq_getElem (by omega), List.getD_eq_getElem _ _ (by omega)]
        rfl
      · rw [if_pos hlo, if_neg fun h => hhi h.2, List.getElem?_eq_none (by omega)]
        rfl
    · rw [if_neg hlo, if_neg fun h => hlo h.1]
  · simp only [hbad]
    rfl

/-- A tile after a drain: RELEASE frees it, ZERO empties it. -/
theorem MEntry.drainTile_fields (e : MEntry) (t : Tile) :
    ((e.aux.toNat / 16 % 2 = 1 ∧ e.kept = false) → (e.drainTile t).owner = none) ∧
    (¬(e.aux.toNat / 16 % 2 = 1 ∧ e.kept = false) → (e.drainTile t).owner = t.owner) ∧
    (e.aux.toNat / 32 % 2 = 1 → (e.drainTile t).ru = 0 ∧ ∀ i, (e.drainTile t).elem i = 0) := by
  have hrelease : e.auxBits 4 1 = e.aux.toNat / 16 % 2 := e.auxBits_eq 4 1
  have hzero : e.auxBits 5 1 = e.aux.toNat / 32 % 2 := e.auxBits_eq 5 1
  unfold MEntry.drainTile
  simp only [hrelease, hzero]
  refine ⟨fun h => ?_, fun h => ?_, fun h => ?_⟩
  · rw [if_pos h]
  · rw [if_neg h]
    split <;> rfl
  · rw [if_pos h]
    split
    · exact ⟨rfl, fun _ => rfl⟩
    · exact ⟨rfl, fun _ => rfl⟩

/-- Settles O43: a start and a completion by the equations above, a load of the rule table and an idle close by theirs. -/
theorem matrixEngineSteps : Obligations.MatrixEngineSteps := by
  intro s c n m now ks may cycles runs
  have hidle (h : m.canStart now = false) : Completes .matrixOpStart s (· = s) := by
    refine ⟨_, rfl, ?_⟩
    rw [State.matStart_waits rfl h, ite_self]
  have hmay {e : MEntry} {rest : List MEntry} (hq : m.queue = e :: rest) : may e ↔ (s.cell c).froze = false ∧ m.canStart now = true := by
    rw [MatEngine.canStart_iff hq]
  have hruns {e : MEntry} {rest : List MEntry} (hq : m.queue = e :: rest) (h : may e) {data : List Byte}
      {spans : List (Nat × Nat)} {deep : Bool} {cyc : Nat} {u : State} (hdata : s.matData c m e = some ⟨data, spans, deep, s⟩)
      (hpoison : ∀ p, p ∈ spans → s.poisoned p.1 p.2 = false) (hrest : e.op ≠ 12)
      (hu : (if isMM e.op then s.modCtxOf c e.ctx fun x => x.count 9 e.rows else s) = u) (hcyc : matCycles c m e deep = cyc) :
      Completes .matrixOpStart s (· = runs e rest data spans cyc u) := by
    obtain ⟨hfroze, hcan⟩ := (hmay hq).1 h
    have hexec : exec .matrixOpStart s = .next (s.matStart c n) := by
      show Host.Outcome.next (if (s.cell c).froze then s else s.matStart c n) = _
      rw [hfroze, if_neg Bool.false_ne_true]
    refine ⟨_, hexec, ?_⟩
    rw [State.matStart_runs rfl hq hcan hdata hpoison hrest, hu, hcyc]
  have hspan {k b : Nat} (h : s.poisoned k b = false) (p : Nat × Nat) (hp : p ∈ [(k, b)]) : s.poisoned p.1 p.2 = false :=
    List.mem_singleton.1 hp ▸ h
  refine ⟨fun hnone => hidle ?_, fun e rest hq => ⟨fun hnot => ?_, fun h hop => ?_, fun p h hop hstream hpast hpair hok hclean => ?_,
      fun p h hop hstream hpast hpair hok hclean => ?_⟩,
    fun hnone => ?_, fun e feed due rest hrun => ⟨fun hearly => ?_, fun hdue => ?_⟩,
    fun hload => ⟨_, execRwTableLoad_ignored s hload, rfl⟩, fun hload => ?_,
    fun hload => ⟨_, execRwTableLoadDone_idle s hload, rfl⟩, fun due w hload => execRwTableLoadDone_loads s hload,
    tarragonIdleClose_closes s⟩
  · rw [MatEngine.canStart, hnone]
  · cases hfroze : (s.cell c).froze with
    | true => exact ⟨s, congrArg Host.Outcome.next (if_pos hfroze), rfl⟩
    | false => exact hidle (Bool.eq_false_of_not_eq_true fun hcan => hnot ((hmay hq).2 ⟨hfroze, hcan⟩))
  · have hnot : e.op ≠ 2 ∧ ¬(e.op = 4 ∨ e.op = 5) ∧ e.op ≠ 12 := by
      simp only [List.mem_cons, List.not_mem_nil, or_false] at hop
      omega
    obtain ⟨hload, hmm, hrest⟩ := hnot
    exact hruns hq h (State.matData_none hload hmm hrest) (fun p hp => absurd hp (List.not_mem_nil)) hrest
      (if_neg (mt (isMM_iff e.op).1 hmm)) (matCycles_none hop)
  · refine hruns hq h (State.matData_rows hstream hpast hpair hop hok) (hspan hclean) (by omega) ?_ (matCycles_rows hpair hop _)
    rw [if_pos ((isMM_iff e.op).2 hop), e.rows_eq]
  · refine hruns hq h (State.matData_image hstream hpast hpair hop hok) (hspan hclean) (by omega) ?_ ?_
    · rw [hop]
      rfl
    · have hc : isC c = true ↔ ks = 1 := by
        show isC c = true ↔ (if c / 256 % 2 = 1 then 1 else 0) = 1
        simp [isC, dieOf]
      refine (matCycles_image hpair hop _).trans ?_
      simp only [beq_iff_eq, hc]
  · exact ⟨_, rfl, State.matComplete_idle s c n hnone⟩
  · exact ⟨_, rfl, State.matComplete_early s c n hrun hearly⟩
  · refine ⟨_, congrArg Host.Outcome.next (State.matComplete_due s c n hrun hdue), ?_⟩
    obtain ⟨z, hz⟩ : ∃ z, z = s.modMat c n fun m => { m with running := rest } := ⟨_, rfl⟩
    have hzmat : (z.cell c).mat n = { m with running := rest } := hz ▸ s.mat_modMat_same ..
    have hzmem : z.mem = s.mem := hz ▸ rfl
    rw [← hz]
    have hlists := z.matEffect_lists c n e
    rw [hzmat] at hlists
    have haux : e.auxBits 0 1 = e.aux.toNat % 2 := by rw [e.auxBits_eq, pow_zero, Nat.div_one, pow_one]
    have hhalf : e.aux.toNat % 2 < 2 := Nat.mod_lt _ (by decide)
    refine ⟨hlists.2, hlists.1, List.mem_append_right _ (List.mem_singleton.2 rfl), fun hop => ?_, fun hop p hp => ?_, fun hop => ?_,
      fun hop hactive => ?_, fun hop hactive => ?_, fun hop => ?_, fun hop => ?_, fun hop => ?_⟩
    · exact State.byte_of_mem ((z.matEffect_mem c n hop).trans hzmem)
    · have hu := z.matEffect_load_mat c n hop
      rw [hzmat, show m.pair = some p from hp] at hu
      exact ⟨(congrArg MatEngine.shadow hu).trans rfl, (congrArg MatEngine.active hu).trans rfl⟩
    · have hu := z.matEffect_swap_mat c n hop
      rw [hzmat] at hu
      exact (congrArg MatEngine.active hu).trans rfl
    · obtain ⟨w, hw⟩ := Option.ne_none_iff_exists'.1 hactive
      have hu := z.matEffect_multiply_tile c n (.inl hop) (by rw [hzmat]; exact hw)
      obtain ⟨hru, h0, h1, howner⟩ := (multiplied_fields ..).1 hop
      rw [hzmat] at hu
      exact ⟨(congrArg Tile.ru hu).trans (hru.trans e.rows_eq), (congrArg Tile.flip0 hu).trans h0,
        (congrArg Tile.flip1 hu).trans h1, (congrArg Tile.owner hu).trans howner⟩
    · obtain ⟨w, hw⟩ := Option.ne_none_iff_exists'.1 hactive
      have hu := z.matEffect_multiply_tile c n (.inr hop) (by rw [hzmat]; exact hw)
      obtain ⟨hru, h0, h1, hscale⟩ := (multiplied_fields ..).2 hop
      rw [hzmat] at hu
      exact ⟨(congrArg Tile.ru hu).trans (e.rows_eq ▸ hru), (congrArg Tile.flip0 hu).trans h0,
        (congrArg Tile.flip1 hu).trans h1, (congrArg Tile.scale hu).trans hscale⟩
    · have hu := z.matEffect_zero_tile c n hop
      rw [hzmat] at hu
      exact ⟨(congrArg Tile.owner hu).trans rfl, (congrArg Tile.ru hu).trans rfl, fun i hi =>
        ⟨(congrArg (Tile.elem · i) hu).trans rfl, (congrArg (Tile.rowScale · (i / 64)) hu).trans rfl,
          (congrArg (Tile.sum · (i / 64)) hu).trans rfl⟩⟩
    · have hu := z.matEffect_transpose_tile c n hop
      rw [hzmat, haux] at hu
      obtain ⟨h0, h1⟩ := Tile.transpose_flips (m.tile e.t) hhalf
      refine ⟨(congrArg Tile.flip0 hu).trans h0, (congrArg Tile.flip1 hu).trans h1, fun i j hi hj => ⟨?_, ?_⟩⟩
      · refine (congrArg (Tile.elem · _) hu).trans ((Tile.elem_transpose _ _ (by omega) hj).trans ?_)
        rw [if_pos (by omega), show (64 * (e.aux.toNat % 2) + i) % 64 = i by omega]
        rfl
      · refine (congrArg (Tile.elem · _) hu).trans ((Tile.elem_transpose _ _ (by omega) hj).trans ?_)
        rw [if_neg (by omega)]
        rfl
    · obtain ⟨hmem, -, hu⟩ := z.matEffect_drain c n hop
      rw [hzmat, show e.auxBits 0 4 = e.aux.toNat % 16 by rw [e.auxBits_eq, pow_zero, Nat.div_one]; rfl] at hmem
      rw [hzmat] at hu
      obtain ⟨hfreed, howned, hzeroed⟩ := e.drainTile_fields (m.tile e.t)
      obtain ⟨hstored, hrefused⟩ := z.matWrite_bytes c e ((m.tile e.t).drained (e.aux.toNat % 16))
      have herr (l : Nat) : z.matError c e l 64 true = s.matError c e l 64 true := hz ▸ rfl
      have hdst : flatOf (z.localAddr c e.sval) = flatOf (s.localAddr c e.sval) := hz ▸ rfl
      rw [herr, hdst, hzmem] at hstored
      rw [herr] at hrefused
      refine ⟨fun h => (congrArg Tile.owner hu).trans (hfreed h), fun h => (congrArg Tile.owner hu).trans (howned h), fun h =>
        ⟨(congrArg Tile.ru hu).trans (hzeroed h).1, fun i hi => (congrArg (Tile.elem · i) hu).trans ((hzeroed h).2 i)⟩,
        fun hwf hok a => ?_, fun k hbad a => ?_⟩
      · rw [← State.byte_of_mem hzmem a, ← hstored hwf hok a]
        exact State.byte_of_mem hmem a
      · exact (State.byte_of_mem hmem a).trans ((hrefused k hbad a).trans (State.byte_of_mem hzmem a))
  · refine ⟨_, execRwTableLoad_starts s hload, ?_⟩
    obtain ⟨z, hz⟩ : ∃ z, z = s.modCell c fun k => { k with rwTable := tableWord (s.cell c).rwTable s.args.v } := ⟨_, rfl⟩
    have hword : (z.cell c).rwTable = tableWord (s.cell c).rwTable s.args.v := by
      rw [hz, State.cell_modCell, if_pos rfl]
    have hclock : z.clock c = now := hz ▸ State.clock_modCell (fun _ => by rfl) s c c
    have hbank (x : Nat) : z.ctxOf c x = s.ctxOf c x := by
      rw [hz]
      exact (State.SameBanks.modCell (fun _ => by rfl) s c).ctxOf c x
    obtain ⟨htable, hloading, halarm, hctx, hbyte⟩ := z.startTableLoad_leaves c
    obtain ⟨hplace, hcount⟩ := tableWord_fields (s.cell c).rwTable s.args.v
    rw [hword] at htable hloading halarm
    rw [hcount] at hloading halarm
    rw [hclock] at hloading
    rw [← hz]
    refine ⟨?_, ?_, ?_, halarm.trans (hz ▸ rfl), fun x hx => (hctx x hx).trans (congrArg Ctx.closeWindow (hbank x)), fun a =>
      (hbyte a).trans (hz ▸ rfl)⟩
    · rw [htable]
      exact hplace
    · rw [htable]
      exact hcount
    · rw [htable]
      exact hloading

end Sys2Proof.Machine
end

section
/-! SUPPORT. A command that completes for an evicted task counts down in the task's bank, whose save area holds EV_PEND with
the idle bits of its engines (R157, R171, R365): memory changes. -/

namespace Sys2Proof.Machine
open Sys2Proof

/-- An update of the one evicted task of a cell without evicted configurations rewrites its save area (R171). -/
theorem State.modAway_mem {s : State} {c : Nat} {v : Saved} {sel : Ctx → Bool} (hsaved : (s.cell c).saved = [v])
    (hshelf : (s.die (dieOf c)).shelf = []) (hsel : sel v.bank = true) (f : Ctx → Ctx) : (s.modAway c sel f).mem =
      (s.saveDelta v.area (saveBytes v.bank v.num) (saveBytes (f v.bank) v.num)).mem := by
  unfold State.modAway
  rw [hshelf, List.filter_nil, List.foldl_nil, State.modSavedOf_mem hsaved hsel]

/-- A bank with one command of engine `e` less to complete. -/
def Ctx.commandDone (x : Ctx) (e : Nat) : Ctx := { x with busy := x.busy.ins e (x.busy.get 0 e - 1) }

/-- The bank of task 7 with one command of engine `e` unfinished. -/
def commandBank (e : Nat) : Ctx := { Ctx.reset with task := 7, busy := [(e, 1)] }

/-- A cell whose engine `e` has the command `m`, and which holds the evicted task 7 with its save area at the start of
scratch. -/
def evictedOwner (e : Nat) (m : Cmd) : State :=
  { State.reset with
    cells := [(0, { Cell.reset with engines := [(e, [m])], saved := [⟨0, commandBank e, 0, [], []⟩] })]
    args := { Args.empty with e := e } }

/-- Byte 0 of EV_PEND in the save area, while a copy is unfinished and once it is done. -/
theorem saveBytes_copying : (saveBytes (commandBank 0) 0)[1464]? = some 0x3E ∧
    (saveBytes ((commandBank 0).commandDone 0) 0)[1464]? = some 0x3F :=
  ⟨(saveBytes_csr (commandBank 0) 0 (a := 0x17) (by decide)).trans (by decide),
    (saveBytes_csr ((commandBank 0).commandDone 0) 0 (a := 0x17) (by decide)).trans (by decide)⟩

/-- Byte 0 of EV_PEND in the save area, while a trace command is unfinished and once it is done. -/
theorem saveBytes_tracing : (saveBytes (commandBank 4) 0)[1464]? = some 0x2F ∧
    (saveBytes ((commandBank 4).commandDone 4) 0)[1464]? = some 0x3F :=
  ⟨(saveBytes_csr (commandBank 4) 0 (a := 0x17) (by decide)).trans (by decide),
    (saveBytes_csr ((commandBank 4).commandDone 4) 0 (a := 0x17) (by decide)).trans (by decide)⟩

/-- A command of the evicted task 7 that completes writes EV_PEND in memory. -/
theorem State.byte_cmdDone_evicted {s : State} {e : Nat} {m : Cmd} {b b' : Byte} (hwf : Memory.wf s.mem = true)
    (hsaved : (s.cell 0).saved = [⟨0, commandBank e, 0, [], []⟩]) (hshelf : (s.die 0).shelf = [])
    (hctx : m.ctx < 4) (htask : m.task = 7) (haway : (s.ctxOf 0 m.ctx).task ≠ 7)
    (hbytes : (saveBytes (commandBank e) 0)[1464]? = some b ∧ (saveBytes ((commandBank e).commandDone e) 0)[1464]? = some b')
    (hne : b ≠ b') : (s.cmdDone 0 e m).byte 1464 = b' := by
  have hdone : s.cmdDone 0 e m = s.modAway 0 (fun b => b.task == 7) fun x => x.commandDone e := by
    unfold State.cmdDone State.modTask
    rw [if_pos hctx, htask, if_neg haway]
    rfl
  have hbyte := State.byte_saveDelta hwf 0 hbytes.1 hbytes.2 hne
  rw [Nat.zero_add] at hbyte
  rw [← hbyte, hdone]
  exact State.byte_of_mem (State.modAway_mem hsaved hshelf rfl _) 1464

end Sys2Proof.Machine
end

section
/-! `Obligations.CopyCompletes` says that a FILL changes its destination and no other byte; the FILL of an evicted task also
changes the save area of the task. -/

namespace Sys2Proof.Machine
open Sys2Proof

/-- A FILL with a good descriptor stores its pattern and ends. -/
theorem State.runCopy_fill {s : State} {c : Nat} {m : Cmd} {l : List Byte} (hcode : m.w0.toNat % 256 = 3)
    (hok : s.descOk 3 l = true) (hhost : dDstHost l = false) (htile : dDstTile l = false)
    (hfault : s.engineFault ⟨dDst l, dLen l, 1, true, false, false, true, m.supervisor⟩ = none)
    (hpkg : aPkg (dDst l) = s.pkg.number) :
    s.runCopy c m l = (s.placeStore (dDst l) (patternBytes (dSrc l) (dLen l)) m.supervisor).copyEnds c m l 0 := by
  have hplace : s.place c m true (dDstHost l) (dDstTile l) (dDst l) (dLen l) = (.dev (dDst l), s) := by
    simp [State.place, hhost, htile, hfault]
  simp [State.runCopy, hcode, hok, hplace, hpkg, State.placeWrite]

/-- A copy command that is no node of a graph and names no barrier only counts down at its end. -/
theorem State.copyEnds_plain {s : State} {c : Nat} {m : Cmd} {l : List Byte} (hbar : dBarrier l = 0) (hnode : m.node = none) :
    s.copyEnds c m l 0 = s.cmdDone c 0 m := by
  simp [State.copyEnds, hbar, hnode]

/-- COPY_COMPLETE runs the next command that has its descriptor. -/
theorem State.execCopyComplete_next {s : State} {m : Cmd} {l : List Byte} (hnext : s.nextCopy s.args.c = some m)
    (hdesc : m.desc = some l) :
    execCopyComplete s = .next ((s.modQueue s.args.c 0 fun q => q.erase m).runCopy s.args.c m l) := by
  simp only [execCopyComplete, hnext, hdesc]

/-- The descriptor of one byte at the start of scratch, whose pattern is zero. -/
def fillDesc : List Byte := zeros 16 ++ [1] ++ zeros 15

/-- A FILL of one zero byte at the start of scratch, of task 7 in context 0. -/
def evictedFill : Cmd := ⟨1, 0, 7, 0, true, 3, 0, some fillDesc, none⟩

/-- The cell once the command has left its queue. -/
def fillingOwner : State := (evictedOwner 0 evictedFill).modQueue 0 0 fun q => q.erase evictedFill

/-- The cell once the byte is stored. -/
def filledOwner : State := fillingOwner.placeStore 0 [0] true

theorem nextCopy_evictedFill : (evictedOwner 0 evictedFill).nextCopy 0 = some evictedFill := by decide

theorem exec_copyComplete_evictedFill :
    exec .copyComplete (evictedOwner 0 evictedFill) = .next (filledOwner.cmdDone 0 0 evictedFill) := by
  have hrun : fillingOwner.runCopy 0 evictedFill fillDesc = filledOwner.cmdDone 0 0 evictedFill := by
    rw [State.runCopy_fill (by decide) (by decide) (by decide) (by decide) (by decide) (by decide)]
    exact State.copyEnds_plain (by decide) rfl
  have hstep : exec .copyComplete (evictedOwner 0 evictedFill) = execCopyComplete (evictedOwner 0 evictedFill) := by
    rfl
  rw [hstep, State.execCopyComplete_next (m := evictedFill) (l := fillDesc) nextCopy_evictedFill rfl]
  exact congrArg Host.Outcome.next hrun

theorem byte_filledOwner : (filledOwner.cmdDone 0 0 evictedFill).byte 1464 = 0x3F :=
  State.byte_cmdDone_evicted (by decide) rfl rfl (by decide) rfl (by decide) saveBytes_copying (by decide)

/-- Refutes O45: the FILL of `evictedOwner` stores one byte at address 0, and its end writes byte 1464 of memory, although
the statement keeps every other byte as it is. -/
theorem not_copyCompletes : ¬ Obligations.CopyCompletes := by
  unfold Obligations.CopyCompletes
  intro h
  obtain ⟨-, -, hmoves, -⟩ := h (evictedOwner 0 evictedFill)
  obtain ⟨hfill, -⟩ := hmoves evictedFill nextCopy_evictedFill (by decide) rfl (by decide) (by decide)
  obtain ⟨t, hexec, -, hbytes⟩ := hfill (by decide) (by decide) ⟨by decide, by decide, by decide⟩
  obtain rfl := Host.Outcome.next.inj (exec_copyComplete_evictedFill.symm.trans hexec)
  have hkept := hbytes 1464
  rw [byte_filledOwner] at hkept
  exact absurd hkept (by decide)

end Sys2Proof.Machine
end

section
/-! `Obligations.SequencerAndCommands` says that a TRCFG changes no byte of memory; the TRCFG of an evicted task changes the
save area of the task. -/

namespace Sys2Proof.Machine
open Sys2Proof

/-- A TRCFG of task 7 in context 0. -/
def evictedTrcfg : Cmd := ⟨1, 0, 7, 0, true, 1, 0, none, none⟩

/-- The cell once the command has left its queue and the trace engine is set. -/
def configuredOwner : State :=
  ((evictedOwner 4 evictedTrcfg).modQueue 0 4 fun q => q.drop 1).traceCommand 0 evictedTrcfg

theorem exec_engineCommandComplete_evictedTrcfg :
    exec .engineCommandComplete (evictedOwner 4 evictedTrcfg) = .next (configuredOwner.cmdDone 0 4 evictedTrcfg) := by
  rfl

/-- The end of the TRCFG writes EV_PEND of the evicted task in memory. -/
theorem byte_configuredOwner : (configuredOwner.cmdDone 0 4 evictedTrcfg).byte 1464 = 0x3F :=
  State.byte_cmdDone_evicted (by decide) rfl rfl (by decide) rfl (by decide) saveBytes_tracing (by decide)

/-- Refutes O46: the TRCFG of `evictedOwner` completes, and its end writes byte 1464 of memory, although the statement keeps
memory as it is. -/
theorem not_sequencerAndCommands : ¬ Obligations.SequencerAndCommands := by
  unfold Obligations.SequencerAndCommands
  intro h
  obtain ⟨-, -, -, -, -, hcommands, -⟩ := h (evictedOwner 4 evictedTrcfg) 0 0 0
  obtain ⟨-, -, -, -, -, -, htrcfg, -⟩ := hcommands evictedTrcfg [] rfl
  obtain ⟨t, hexec, -, hstill, -⟩ := htrcfg rfl (by decide)
  obtain rfl := Host.Outcome.next.inj (exec_engineCommandComplete_evictedTrcfg.symm.trans hexec)
  have hkept := hstill 1464
  rw [byte_configuredOwner] at hkept
  exact absurd hkept (by decide)

end Sys2Proof.Machine
end
